-- ==== Sys2Proof/Word.lean ====
section
/-!
DEFINITION. Word.lean: the word types of the Karnan K32 and nothing else. Every register, address and encoded field that
the spec treats as bits is a bit vector of the width the spec gives (R2, R6); counts and indexes are natural numbers.
-/

namespace Sys2Proof

/-- A 64-bit register, address or CSR value. -/
abbrev Word := BitVec 64

/-- One byte of memory (R2). -/
abbrev Byte := BitVec 8

/-- A 512-bit vector register (R247). -/
abbrev VWord := BitVec 512

/-- A 56-bit matrix accumulator: FA56 or INT56 bits (R223, R224, R317). -/
abbrev Acc := BitVec 56

/-- A 20-bit S20 block scale (R227). -/
abbrev Scale := BitVec 20

/-- A five-bit register field of an instruction word (R135). -/
abbrev Reg := BitVec 5

/-- A 32-bit instruction word (R133). -/
abbrev InstrWord := BitVec 32

end Sys2Proof
end

