-- ==== Sys2Proof/Config.lean ====
section
/-!
DEFINITION. Config.lean: what the spec fixes for every K32 (figures the rules name), and the free values: constants with
no body that stand for what the spec calls unspecified. A proof can use a free value but can never know it.
-/

namespace Sys2Proof.Config

/-- Compute dies of a module (R8). -/
def numDies : Nat := 32
/-- Columns of a die's cluster grid (R114). -/
def gridX : Nat := 10
/-- Rows of a die's cluster grid (R114). -/
def gridY : Nat := 8
/-- Cores of a cluster. -/
def coresPerCluster : Nat := 64
/-- Bytes of a core's TCM (R116). -/
def tcmBytes : Nat := 16384
/-- Bytes of a cluster's SRAM, split into scratchpad and cluster cache (R40). -/
def clusterSram : Nat := 2097152
/-- Bytes of one SPLIT unit (R40). -/
def splitUnit : Nat := 262144
/-- Entries of the vector queue (R161). -/
def queueDepth : Nat := 64
/-- Entries of the undo log (R166). -/
def undoDepth : Nat := 256
/-- Entries of the store buffer (R165). -/
def storeBufferDepth : Nat := 16
/-- Entries of the LDQ and of the SDQ (R250, R251). -/
def ldqDepth : Nat := 8
/-- Entries of the mask stack (R248). -/
def maskDepth : Nat := 16
/-- Entries of the deque (R213). -/
def dequeDepth : Nat := 32
/-- Messages of the inbox, and the bound on outstanding copies plus messages (R306, R310). -/
def inboxDepth : Nat := 16
/-- Outstanding remote requests of a core (R293). -/
def remoteDepth : Nat := 256
/-- Bytes of a trough slot (R313). -/
def slotBytes : Nat := 1280
/-- Entries of a cluster's copy command queue (R306). -/
def commandQueueDepth : Nat := 64
/-- Bytes of a frame header (R198). -/
def frameHeaderBytes : Nat := 40
/-- Entries of a core's TLB (R298). -/
def tlbEntries : Nat := 32
/-- Launches a die node tracks (R106). -/
def dieNodeEntries : Nat := 16
/-- Launches a fold root tracks (R106). -/
def rootEntries : Nat := 64
/-- SAVEMAX in microseconds for a fold whose dies have every unit enabled (R421). -/
def saveMaxUs : Nat := 310
/-- Entries of each host mailbox ring (R450). -/
def mailboxEntries : Nat := 1024

/-- FREE VALUE (log 5): a byte the spec calls unspecified: the destination bytes of an overlapping COPY (R304) and of a
copy that ended early (R309). Its argument is the step's count of free values taken so far. -/
opaque freeByte : Nat → Byte

/-- FREE VALUE (log 6): the content of a telemetry counter record (R445), whose layout and counters no rule gives. -/
opaque freeTelemetry : Nat → Word

/-- FREE VALUE (log 14): SAVEMAX in microseconds of a fold of which some compute die has disabled units (R421): it depends on the largest
state of a die, here the largest count of enabled cores. -/
opaque saveMaxOf : Nat → Nat

/-- FREE VALUE (log 7): a part of the identity key, or of a signature by it, which no rule gives (R439). Its argument names what it is. -/
opaque freeDigest : Nat → BitVec 256

/-- FREE VALUE (log 62): the tag of a block of a save area (R420), of whose bytes no rule gives the layout. Its arguments are the count of free
values taken so far at the save, and the number of the block. -/
opaque blockTag : Nat → Nat → Word

/-- FREE VALUE (log 8): the value that an operation on a sync variable finds when an earlier operation on that word used
another scope: R366 calls order and values unspecified there. Its argument is the count of free values taken so far. -/
opaque freeWord : Nat → Word

/-- FREE VALUE (log 57): does an endpoint address name an endpoint of Ultra Ethernet, and not one of UALink? No rule says how the 16 bytes
of an endpoint address tell the two apart (R124, R445, R458). -/
opaque overEthernet : BitVec 128 → Bool

/-- FREE VALUE (log 15): the content of an LDQ entry before its load writes it, which the lanes that a guarded early load
leaves unchanged keep. Its argument is the count of free values taken so far. -/
opaque freeVector : Nat → VWord

end Sys2Proof.Config
end

