-- ==== Sys2Proof/Syntax.lean ====
section
/-!
DEFINITION. Syntax.lean: the instructions and events of the K32, one constructor per row of spec/opcode_table.json.

A row with a word keeps the field names of the table (d, a, b, x, v, t, q, k, i, ...), each a bit vector of the field's
width (R133 to R135). Where the table has a field x of one bit in class 4 and VPERM, it is the X bit of R255.

A row without a word is an event: something the units, the dispatcher, the service cores, the host or the outside world
do in one step. Its constructor carries what the rule leaves to the outside (which die, which VF, what the host wrote).
-/

namespace Sys2Proof

/-- The place of a core: die, cluster x, cluster y, core (R25, R153). -/
structure CorePos where
  die : Nat
  cx : Nat
  cy : Nat
  core : Nat
  deriving DecidableEq, Repr

/-- The place of a cluster. -/
structure ClusterPos where
  die : Nat
  cx : Nat
  cy : Nat
  deriving DecidableEq, Repr

/-- The cluster of a core. -/
def CorePos.cluster (p : CorePos) : ClusterPos := ⟨p.die, p.cx, p.cy⟩

/-- What an access asks of a page (R295). -/
inductive Access where
  | r | w | x
  deriving DecidableEq, Repr

/-- The units that take queued instructions (R244). -/
inductive QUnit where
  | fma | load | store | permute | matrix | engine
  deriving DecidableEq, Repr

/-- The answer to a request for a not-present page (R299): a leaf at the lowest level, or a refusal. -/
inductive PageAnswer where
  | install (pte : Word)
  | refuse
  deriving DecidableEq, Repr

/-- A node of the counter tree (R432). -/
inductive TreeNode where
  | cluster (c : ClusterPos)
  | die (n : Nat)
  | root
  deriving DecidableEq, Repr

/-- The memory in which an uncorrectable error stands: the stored words, or the copies that a cache holds (R280). -/
inductive ErrPlace where
  | stored
  | l1 (p : CorePos)
  | clusterCache (c : ClusterPos)
  | dieCache (n : Nat)
  deriving DecidableEq, Repr

/-- What the host or an I/O-die agent does to device memory at the home (R354). -/
inductive HostOp where
  | read (bytes : Nat)
  | write (data : List Byte)
  deriving DecidableEq, Repr

/-- A management request as it arrives (R442): through the PCIe mailbox or the management endpoint, the bytes of the request buffer or of
the message, and, for an INDIRECT frame, what host memory holds from its bus address on. -/
structure Frame where
  viaPcie : Bool
  bytes : List Byte
  hostBody : List Byte
  deriving DecidableEq, Repr

/-- An RSA-3072 public key: modulus and exponent (R445). -/
structure PubKey where
  modulus : Nat
  exponent : BitVec 32
  deriving DecidableEq, Repr

/-- The home map of a fold (R119), without LIST, which the fold's dies give. localRange holds (LBASE, LSIZE) for home die 32 + n. -/
structure HomeMap where
  ibase : Nat
  isize : Nat
  pbase : Nat
  psize : Nat
  wbase : Nat
  wsize : Nat
  localRange : List (Nat × Nat)
  deriving DecidableEq, Repr

/-- The body of FOLDNEW. -/
structure FoldNewBody where
  fold : Nat
  foldmode : BitVec 7
  policy : Nat
  dies : List Nat
  map : HomeMap
  codeKey : Option PubKey
  deriving DecidableEq, Repr

/-- The body of VFSET. -/
structure VfSetBody where
  vf : Nat
  fold : Nat
  weight : Nat
  quantum : Nat
  queueBlock : Word
  root : Nat
  deriving DecidableEq, Repr

/-- The body of HANDLE. base is the PA base of an export or the window offset of an install. -/
structure HandleBody where
  rights : BitVec 3
  vf : Nat
  handle : Word
  base : Nat
  length : Nat
  importer : Nat
  endpoint : BitVec 128
  deriving DecidableEq, Repr

/-- The memory that a loader picks (R29, R441): a frame for each page of a file's loaded sections, in ascending order of their VA, and where
new page tables go. -/
structure LoadPlan where
  frames : List Nat
  pool : Nat
  deriving DecidableEq, Repr

/-- A register of the device outside the cores, by the window it stands in and its offset (R84, R443, R451, R453). -/
inductive DevReg where
  | doorbellPage (vf : Nat) (offset : Nat)
  | management (offset : Nat)
  | hostMailbox (fold : Nat) (offset : Nat)
  | drover (die : Nat) (csr : Nat)
  deriving DecidableEq, Repr

/-- The instructions and events, one constructor per row of spec/opcode_table.json. -/
inductive Instr where
  /-- ADD (R172). -/
  | add (d : Reg) (a : Reg) (b : Reg)
  /-- SUB (R172). -/
  | sub (d : Reg) (a : Reg) (b : Reg)
  /-- AND (R172). -/
  | and (d : Reg) (a : Reg) (b : Reg)
  /-- OR (R172). -/
  | or (d : Reg) (a : Reg) (b : Reg)
  /-- XOR (R172). -/
  | xor (d : Reg) (a : Reg) (b : Reg)
  /-- SLL (R172). -/
  | sll (d : Reg) (a : Reg) (b : Reg)
  /-- SRL (R172). -/
  | srl (d : Reg) (a : Reg) (b : Reg)
  /-- SRA (R172). -/
  | sra (d : Reg) (a : Reg) (b : Reg)
  /-- SLT (R172). -/
  | slt (d : Reg) (a : Reg) (b : Reg)
  /-- SLTU (R172). -/
  | sltu (d : Reg) (a : Reg) (b : Reg)
  /-- MIN (R172). -/
  | min (d : Reg) (a : Reg) (b : Reg)
  /-- MAX (R172). -/
  | max (d : Reg) (a : Reg) (b : Reg)
  /-- MINU (R172). -/
  | minu (d : Reg) (a : Reg) (b : Reg)
  /-- MAXU (R172). -/
  | maxu (d : Reg) (a : Reg) (b : Reg)
  /-- MUL (R172). -/
  | mul (d : Reg) (a : Reg) (b : Reg)
  /-- MULH (R172). -/
  | mulh (d : Reg) (a : Reg) (b : Reg)
  /-- MULHU (R172). -/
  | mulhu (d : Reg) (a : Reg) (b : Reg)
  /-- DIV (R173). -/
  | div (d : Reg) (a : Reg) (b : Reg)
  /-- DIVU (R173). -/
  | divu (d : Reg) (a : Reg) (b : Reg)
  /-- REM (R173). -/
  | rem (d : Reg) (a : Reg) (b : Reg)
  /-- REMU (R173). -/
  | remu (d : Reg) (a : Reg) (b : Reg)
  /-- BIT_CLZ (R174). -/
  | bitClz (d : Reg) (a : Reg)
  /-- BIT_CTZ (R174). -/
  | bitCtz (d : Reg) (a : Reg)
  /-- BIT_POPC (R174). -/
  | bitPopc (d : Reg) (a : Reg)
  /-- BIT_BREV (R174). -/
  | bitBrev (d : Reg) (a : Reg)
  /-- ADDI (R175). -/
  | addi (d : Reg) (a : Reg) (i : BitVec 13)
  /-- ANDI (R175). -/
  | andi (d : Reg) (a : Reg) (i : BitVec 13)
  /-- ORI (R175). -/
  | ori (d : Reg) (a : Reg) (i : BitVec 13)
  /-- XORI (R175). -/
  | xori (d : Reg) (a : Reg) (i : BitVec 13)
  /-- SLLI (R175). -/
  | slli (d : Reg) (a : Reg) (i : BitVec 6)
  /-- SRLI (R175). -/
  | srli (d : Reg) (a : Reg) (i : BitVec 6)
  /-- SRAI (R175). -/
  | srai (d : Reg) (a : Reg) (i : BitVec 6)
  /-- SLTI (R175). -/
  | slti (d : Reg) (a : Reg) (i : BitVec 13)
  /-- SLTIU (R175). -/
  | sltiu (d : Reg) (a : Reg) (i : BitVec 13)
  /-- LUI (R176). -/
  | lui (d : Reg) (i : BitVec 18)
  /-- AUIPC (R176). -/
  | auipc (d : Reg) (i : BitVec 18)
  /-- SHOR (R176). -/
  | shor (d : Reg) (i : BitVec 18)
  /-- FADD (R178). -/
  | fadd (d : Reg) (a : Reg) (b : Reg)
  /-- FSUB (R178). -/
  | fsub (d : Reg) (a : Reg) (b : Reg)
  /-- FMUL (R178). -/
  | fmul (d : Reg) (a : Reg) (b : Reg)
  /-- FDIV (R178). -/
  | fdiv (d : Reg) (a : Reg) (b : Reg)
  /-- FMA (R178). -/
  | fma (d : Reg) (a : Reg) (b : Reg)
  /-- FSQRT (R178). -/
  | fsqrt (d : Reg) (a : Reg)
  /-- FMIN (R179). -/
  | fmin (d : Reg) (a : Reg) (b : Reg)
  /-- FMAX (R179). -/
  | fmax (d : Reg) (a : Reg) (b : Reg)
  /-- FCMP_EQ (R179). -/
  | fcmpEq (d : Reg) (a : Reg) (b : Reg)
  /-- FCMP_LT (R179). -/
  | fcmpLt (d : Reg) (a : Reg) (b : Reg)
  /-- FCMP_LE (R179). -/
  | fcmpLe (d : Reg) (a : Reg) (b : Reg)
  /-- FCVT_I64F (R180). -/
  | fcvtI64f (d : Reg) (a : Reg)
  /-- FCVT_FI64 (R180). -/
  | fcvtFi64 (d : Reg) (a : Reg)
  /-- FCVT_F16F (R180). -/
  | fcvtF16f (d : Reg) (a : Reg)
  /-- FCVT_FF16 (R180). -/
  | fcvtFf16 (d : Reg) (a : Reg)
  /-- FCVT_B16F (R180). -/
  | fcvtB16f (d : Reg) (a : Reg)
  /-- FCVT_FB16 (R180). -/
  | fcvtFb16 (d : Reg) (a : Reg)
  /-- FCVT_S20F (R180). -/
  | fcvtS20f (d : Reg) (a : Reg)
  /-- FCVT_FS20 (R180). -/
  | fcvtFs20 (d : Reg) (a : Reg)
  /-- LB (R277). -/
  | lb (d : Reg) (a : Reg) (i : BitVec 13)
  /-- LBU (R277). -/
  | lbu (d : Reg) (a : Reg) (i : BitVec 13)
  /-- LH (R277). -/
  | lh (d : Reg) (a : Reg) (i : BitVec 13)
  /-- LHU (R277). -/
  | lhu (d : Reg) (a : Reg) (i : BitVec 13)
  /-- LW (R277). -/
  | lw (d : Reg) (a : Reg) (i : BitVec 13)
  /-- LWU (R277). -/
  | lwu (d : Reg) (a : Reg) (i : BitVec 13)
  /-- LD (R277). -/
  | ld (d : Reg) (a : Reg) (i : BitVec 13)
  /-- SB (R278). -/
  | sb (d : Reg) (a : Reg) (i : BitVec 13)
  /-- SH (R278). -/
  | sh (d : Reg) (a : Reg) (i : BitVec 13)
  /-- SW (R278). -/
  | sw (d : Reg) (a : Reg) (i : BitVec 13)
  /-- SD (R278). -/
  | sd (d : Reg) (a : Reg) (i : BitVec 13)
  /-- PREF (R281). -/
  | pref (h : BitVec 2) (a : Reg) (i : BitVec 13)
  /-- CBO_WB (R282). -/
  | cboWb (a : Reg)
  /-- CBO_WBINV (R282). -/
  | cboWbinv (a : Reg)
  /-- CBO_INV (R282). -/
  | cboInv (a : Reg)
  /-- FLD (R203). -/
  | fld (x : Reg) (n : BitVec 3) (s : BitVec 10)
  /-- FST (R203). -/
  | fst (x : Reg) (n : BitVec 3) (s : BitVec 10)
  /-- FADR (R203). -/
  | fadr (x : Reg) (n : BitVec 3) (s : BitVec 10)
  /-- FACC (R204). -/
  | facc (x : Reg) (n : BitVec 3) (s : BitVec 10) (f : BitVec 5)
  /-- FENTER (R206). -/
  | fenter (d : Reg) (a : Reg) (p : BitVec 2) (s : BitVec 2)
  /-- FLEAVE (R207). -/
  | fleave
  /-- DSPR (R210). -/
  | dspr (d : Reg) (n : BitVec 3)
  /-- FFOLD (R209). -/
  | ffold (a : Reg) (b : Reg) (f : BitVec 8)
  /-- FPOL (R209). -/
  | fpol (p : BitVec 2)
  /-- BEQ (R182). -/
  | beq (a : Reg) (b : Reg) (o : BitVec 13)
  /-- BNE (R182). -/
  | bne (a : Reg) (b : Reg) (o : BitVec 13)
  /-- BLT (R182). -/
  | blt (a : Reg) (b : Reg) (o : BitVec 13)
  /-- BGE (R182). -/
  | bge (a : Reg) (b : Reg) (o : BitVec 13)
  /-- BLTU (R182). -/
  | bltu (a : Reg) (b : Reg) (o : BitVec 13)
  /-- BGEU (R182). -/
  | bgeu (a : Reg) (b : Reg) (o : BitVec 13)
  /-- JAL (R183). -/
  | jal (d : Reg) (i : BitVec 18)
  /-- JALR (R183). -/
  | jalr (d : Reg) (a : Reg) (i : BitVec 13)
  /-- LOOP (R186). -/
  | loop (n : BitVec 3) (a : Reg) (l : BitVec 12)
  /-- LOOPT (R186). -/
  | loopt (n : BitVec 3) (m : BitVec 3) (l : BitVec 12)
  /-- LOOPS (R186). -/
  | loops (n : BitVec 3) (a : Reg) (s : BitVec 3) (l : BitVec 10)
  /-- LBRK (R188). -/
  | lbrk (n : BitVec 3)
  /-- BMZ (R184). -/
  | bmz (o : BitVec 13)
  /-- BMNZ (R184). -/
  | bmnz (o : BitVec 13)
  /-- GATE (R195). -/
  | gate (g : BitVec 8)
  /-- GRET (R196). -/
  | gret
  /-- FORK (R212). -/
  | fork (a : Reg) (b : Reg) (o : BitVec 13)
  /-- JOIN (R218). -/
  | join
  /-- END (R197). -/
  | endStrand
  /-- BST (R190). -/
  | bst (s : BitVec 3) (n : BitVec 3) (o : BitVec 13)
  /-- ACQ (R388). -/
  | acq (a : Reg) (s : BitVec 2)
  /-- REL (R388). -/
  | rel (a : Reg) (s : BitVec 2)
  /-- FENCE_RANGE (R368). -/
  | fenceRange (a : Reg) (b : Reg)
  /-- FENCE_REMOTE (R389). -/
  | fenceRemote
  /-- FENCE_ALL (R389). -/
  | fenceAll
  /-- SVLD (R391). -/
  | svld (d : Reg) (a : Reg) (l : BitVec 1) (c : BitVec 1) (s : BitVec 2)
  /-- SVST (R391). -/
  | svst (a : Reg) (b : Reg) (l : BitVec 1) (c : BitVec 1) (s : BitVec 2)
  /-- SVADD (R391). -/
  | svadd (d : Reg) (a : Reg) (b : Reg) (u : BitVec 1) (l : BitVec 1) (c : BitVec 1) (s : BitVec 2)
  /-- SVMAX (R391). -/
  | svmax (d : Reg) (a : Reg) (b : Reg) (u : BitVec 2) (l : BitVec 1) (c : BitVec 1) (s : BitVec 2)
  /-- SVMIN (R391). -/
  | svmin (d : Reg) (a : Reg) (b : Reg) (u : BitVec 2) (l : BitVec 1) (c : BitVec 1) (s : BitVec 2)
  /-- SVAND (R391). -/
  | svand (d : Reg) (a : Reg) (b : Reg) (l : BitVec 1) (c : BitVec 1) (s : BitVec 2)
  /-- SVOR (R391). -/
  | svor (d : Reg) (a : Reg) (b : Reg) (l : BitVec 1) (c : BitVec 1) (s : BitVec 2)
  /-- SVSWAP (R394). -/
  | svswap (d : Reg) (a : Reg) (b : Reg) (l : BitVec 1) (c : BitVec 1) (s : BitVec 2)
  /-- SVCAS (R391). -/
  | svcas (d : Reg) (a : Reg) (b : Reg) (l : BitVec 1) (c : BitVec 1) (s : BitVec 2)
  /-- SVWAIT (R393). -/
  | svwait (d : Reg) (a : Reg) (b : Reg) (u : BitVec 2) (l : BitVec 1) (c : BitVec 1) (s : BitVec 2)
  /-- SVLOCK (R395). -/
  | svlock (a : Reg) (s : BitVec 2)
  /-- SVUNLOCK (R395). -/
  | svunlock (a : Reg) (s : BitVec 2)
  /-- BAR_CLUSTER (R396). -/
  | barCluster
  /-- BAR_DIE (R396). -/
  | barDie
  /-- BAR_LAUNCH (R396). -/
  | barLaunch
  /-- SSTEP (R403). -/
  | sstep
  /-- TRIG (R397). -/
  | trig
  /-- LAUNCH (R398). -/
  | launch (d : Reg) (a : Reg)
  /-- LIDX (R193). -/
  | lidx (d : Reg) (m : BitVec 3)
  /-- INBOX_WAIT (R399). -/
  | inboxWait (d : Reg) (v : BitVec 1)
  /-- INBOX_POLL (R399). -/
  | inboxPoll (d : Reg) (v : BitVec 1)
  /-- CSRR (R148). -/
  | csrr (d : Reg) (c : BitVec 13)
  /-- CSRW (R148). -/
  | csrw (d : Reg) (a : Reg) (c : BitVec 13)
  /-- CSRS (R148). -/
  | csrs (d : Reg) (a : Reg) (c : BitVec 13)
  /-- CSRC (R148). -/
  | csrc (d : Reg) (a : Reg) (c : BitVec 13)
  /-- TRET (R159). -/
  | tret
  /-- BKPT (R160). -/
  | bkpt
  /-- NPRB (R401). -/
  | nprb
  /-- NPRE (R401). -/
  | npre
  /-- SETM (R144). -/
  | setm (i : BitVec 18)
  /-- CONTAIN (R429). -/
  | contain (a : Reg)
  /-- WFI (R400). -/
  | wfi
  /-- VADD (R257). -/
  | vadd (d : Reg) (a : Reg) (b : Reg) (x : BitVec 1)
  /-- VSUB (R257). -/
  | vsub (d : Reg) (a : Reg) (b : Reg) (x : BitVec 1)
  /-- VMUL (R257). -/
  | vmul (d : Reg) (a : Reg) (b : Reg) (x : BitVec 1)
  /-- VFMA (R257). -/
  | vfma (d : Reg) (a : Reg) (b : Reg) (x : BitVec 1)
  /-- VFMS (R257). -/
  | vfms (d : Reg) (a : Reg) (b : Reg) (x : BitVec 1)
  /-- VFNMA (R257). -/
  | vfnma (d : Reg) (a : Reg) (b : Reg) (x : BitVec 1)
  /-- VMIN (R258). -/
  | vmin (d : Reg) (a : Reg) (b : Reg) (x : BitVec 1)
  /-- VMAX (R258). -/
  | vmax (d : Reg) (a : Reg) (b : Reg) (x : BitVec 1)
  /-- VABS (R258). -/
  | vabs (d : Reg) (a : Reg)
  /-- VNEG (R258). -/
  | vneg (d : Reg) (a : Reg)
  /-- VDIV (R257). -/
  | vdiv (d : Reg) (a : Reg) (b : Reg) (x : BitVec 1)
  /-- VSQRT (R257). -/
  | vsqrt (d : Reg) (a : Reg)
  /-- VRCP (R259). -/
  | vrcp (d : Reg) (a : Reg)
  /-- VRSQ (R259). -/
  | vrsq (d : Reg) (a : Reg)
  /-- VEXP2 (R259). -/
  | vexp2 (d : Reg) (a : Reg)
  /-- VLOG2 (R259). -/
  | vlog2 (d : Reg) (a : Reg)
  /-- VAND (R260). -/
  | vand (d : Reg) (a : Reg) (b : Reg) (x : BitVec 1)
  /-- VOR (R260). -/
  | vor (d : Reg) (a : Reg) (b : Reg) (x : BitVec 1)
  /-- VXOR (R260). -/
  | vxor (d : Reg) (a : Reg) (b : Reg) (x : BitVec 1)
  /-- VSLL (R260). -/
  | vsll (d : Reg) (a : Reg) (b : Reg) (x : BitVec 1)
  /-- VSRL (R260). -/
  | vsrl (d : Reg) (a : Reg) (b : Reg) (x : BitVec 1)
  /-- VSRA (R260). -/
  | vsra (d : Reg) (a : Reg) (b : Reg) (x : BitVec 1)
  /-- VCMP (R261). -/
  | vcmp (d : BitVec 3) (a : Reg) (b : Reg) (x : BitVec 1) (c : BitVec 4)
  /-- VSEL (R262). -/
  | vsel (d : Reg) (a : Reg) (b : Reg) (x : BitVec 1) (k : BitVec 3)
  /-- VMOV (R262). -/
  | vmov (d : Reg) (a : Reg)
  /-- VBC (R262). -/
  | vbc (d : Reg) (a : Reg)
  /-- VIOTA (R262). -/
  | viota (d : Reg)
  /-- VMULH (R260). -/
  | vmulh (d : Reg) (a : Reg) (b : Reg) (x : BitVec 1)
  /-- VCLAMP (R258). -/
  | vclamp (d : Reg) (a : Reg) (b : Reg) (x : BitVec 1)
  /-- VLD (R283). -/
  | vld (d : Reg) (a : Reg) (i : BitVec 13)
  /-- VLDS (R286). -/
  | vlds (d : Reg) (a : Reg) (b : Reg)
  /-- VLDG (R286). -/
  | vldg (d : Reg) (a : Reg) (b : Reg) (n : BitVec 2)
  /-- VLDMX (R283). -/
  | vldmx (d : Reg) (a : Reg) (b : Reg)
  /-- VST (R283). -/
  | vst (d : Reg) (a : Reg) (i : BitVec 13)
  /-- VSTS (R286). -/
  | vsts (d : Reg) (a : Reg) (b : Reg)
  /-- VSTG (R286). -/
  | vstg (d : Reg) (a : Reg) (b : Reg) (n : BitVec 2)
  /-- VCVT (R263). -/
  | vcvt (d : Reg) (a : Reg) (p : BitVec 3) (s : BitVec 4)
  /-- VCVTN (R264). -/
  | vcvtn (d : Reg) (a : Reg) (h : BitVec 1) (f : BitVec 2)
  /-- LDCB (R265). -/
  | ldcb (a : Reg) (b : Reg)
  /-- VPERM (R266). -/
  | vperm (d : Reg) (a : Reg) (b : Reg) (x : BitVec 1)
  /-- VSLIDE_UP (R266). -/
  | vslideUp (d : Reg) (a : Reg) (b : Reg)
  /-- VSLIDE_DN (R266). -/
  | vslideDn (d : Reg) (a : Reg) (b : Reg)
  /-- VZIP (R266). -/
  | vzip (d : Reg) (a : Reg) (b : Reg) (h : BitVec 1)
  /-- VUNZIP (R266). -/
  | vunzip (d : Reg) (a : Reg) (b : Reg) (h : BitVec 1)
  /-- VREDADD (R267). -/
  | vredadd (d : Reg) (a : Reg)
  /-- VREDMAX (R267). -/
  | vredmax (d : Reg) (a : Reg)
  /-- VREDMIN (R267). -/
  | vredmin (d : Reg) (a : Reg)
  /-- VMVX (R268). -/
  | vmvx (d : Reg) (a : Reg) (b : Reg)
  /-- VINS (R268). -/
  | vins (d : Reg) (a : Reg) (b : Reg)
  /-- MPUSH (R269). -/
  | mpush (a : BitVec 3)
  /-- MINV (R269). -/
  | minv
  /-- MPOP (R269). -/
  | mpop
  /-- MSTG (R269). -/
  | mstg (s : BitVec 3) (n : BitVec 3)
  /-- KMOV_KX (R270). -/
  | kmovKx (d : BitVec 3) (a : Reg)
  /-- KMOV_XK (R270). -/
  | kmovXk (d : Reg) (a : BitVec 3)
  /-- KMOV_KT (R270). -/
  | kmovKt (d : BitVec 3)
  /-- KOP_AND (R270). -/
  | kopAnd (d : BitVec 3) (a : BitVec 3) (b : BitVec 3)
  /-- KOP_OR (R270). -/
  | kopOr (d : BitVec 3) (a : BitVec 3) (b : BitVec 3)
  /-- KOP_XOR (R270). -/
  | kopXor (d : BitVec 3) (a : BitVec 3) (b : BitVec 3)
  /-- KOP_ANDN (R270). -/
  | kopAndn (d : BitVec 3) (a : BitVec 3) (b : BitVec 3)
  /-- VSCL_SET (R272). -/
  | vsclSet (d : Reg) (a : Reg) (j : BitVec 2)
  /-- VSCL_SETA (R272). -/
  | vsclSeta (d : Reg) (a : Reg)
  /-- VSCL_GET (R272). -/
  | vsclGet (d : Reg) (a : Reg) (j : BitVec 2)
  /-- MROW (R325). -/
  | mrow (t : BitVec 3) (x : Reg) (v : Reg) (q : BitVec 2) (k : BitVec 3) (r : BitVec 1)
  /-- MROWP (R325). -/
  | mrowp (t : BitVec 3) (x : Reg) (v : Reg) (q : BitVec 2) (k : BitVec 3) (r : BitVec 1)
  /-- MROWZ (R325). -/
  | mrowz (t : BitVec 3) (x : Reg) (v : Reg) (q : BitVec 2) (k : BitVec 3) (r : BitVec 1)
  /-- MROWZP (R325). -/
  | mrowzp (t : BitVec 3) (x : Reg) (v : Reg) (q : BitVec 2) (k : BitVec 3) (r : BitVec 1)
  /-- TZERO (R326). -/
  | tzero (t : BitVec 3)
  /-- TLOAD (R327). -/
  | tload (t : BitVec 3) (x : Reg) (v : Reg) (k : BitVec 3)
  /-- TSTORE (R328). -/
  | tstore (t : BitVec 3) (x : Reg) (v : Reg) (k : BitVec 3)
  /-- TMOVV (R329). -/
  | tmovv (t : BitVec 3) (x : Reg) (v : Reg)
  /-- TVMOV (R330). -/
  | tvmov (t : BitVec 3) (x : Reg) (v : Reg)
  /-- TSTAT (R331). -/
  | tstat (t : BitVec 3) (x : Reg)
  /-- TRCFG (R314). -/
  | trcfg (x : Reg) (v : Reg) (q : BitVec 2)
  /-- TRPOP (R315). -/
  | trpop (q : BitVec 2)
  /-- TRSTAT (R315). -/
  | trstat (x : Reg) (q : BitVec 2)
  /-- FBEGIN (R339). -/
  | fbegin (k : BitVec 3)
  /-- FCOL (R341). -/
  | fcol (x : Reg)
  /-- FCOLN (R349). -/
  | fcoln (x : Reg) (g : BitVec 2)
  /-- NGJOIN (R348). -/
  | ngjoin (x : Reg) (g : BitVec 2)
  /-- NGLEAVE (R350). -/
  | ngleave (g : BitVec 2)
  /-- FEND (R340). -/
  | fend
  /-- FMAPRD (R343). -/
  | fmaprd (t : BitVec 3) (x : Reg)
  /-- RDPH (R343). -/
  | rdph (x : Reg)
  /-- RDGF (R343). -/
  | rdgf (x : Reg)
  /-- TPERM (R345). -/
  | tperm (t : BitVec 3)
  /-- CPY (R305). -/
  | cpy (a : Reg) (b : Reg) (s : BitVec 2)
  /-- CPYQ (R305). -/
  | cpyq (a : Reg) (b : Reg) (s : BitVec 2)
  /-- ENGST_CNT (R312). -/
  | engstCnt (d : Reg)
  /-- ENGST_FVA (R312). -/
  | engstFva (d : Reg)
  /-- XSEND (R404). -/
  | xsend (a : Reg) (b : Reg)
  /-- XSEL (R405). -/
  | xsel (d : Reg) (a : Reg)
  /-- XEND (R406). -/
  | xend
  /-- Event JOIN_WAKE (R218). -/
  | joinWake
  /-- Event SVWAIT_WAKE (R393). -/
  | svwaitWake (key : Nat)
  /-- Event BARRIER_COMPLETE (R396). -/
  | barrierComplete (lid : Word) (form : BitVec 2)
  /-- Event INBOX_WAKE (R399). -/
  | inboxWake
  /-- Event WFI_WAKE (R400). -/
  | wfiWake
  /-- Event EARLY_LOAD_DEFERRED (R288). -/
  | earlyLoadDeferred
  /-- Event MATRIX_COMMIT (R319). -/
  | matrixCommit
  /-- Event NEGOTIATION_ROUND (R349). -/
  | negotiationRound (c : ClusterPos) (g : BitVec 2)
  /-- Event STORE_BUFFER_LEAVE (R165). -/
  | storeBufferLeave
  /-- Event REMOTE_REPLY (R293). -/
  | remoteReply
  /-- Event LATE_REFUSAL (R294). -/
  | lateRefusal
  /-- Event QUEUED_TRAP (R169). -/
  | queuedTrap
  /-- Event INTERRUPT_TAKE (R157). -/
  | interruptTake
  /-- Event TIME_COMPARE (R152). -/
  | timeCompare
  /-- Event KILL_UNWIND (R428). -/
  | killUnwind
  /-- Event STEAL (R215). -/
  | steal
  /-- Event PAGE_WALK (R296). -/
  | pageWalk (va : Word) (acc : Access)
  /-- Event PAGE_SERVICE (R299). -/
  | pageService (vf : Nat) (va : Word) (answer : PageAnswer)
  /-- Event COPY_ON_WRITE (R300). -/
  | copyOnWrite (vf : Nat) (va : Word) (frame : Nat)
  /-- Event TLB_INVALIDATION (R301). -/
  | tlbInvalidation (vf : Nat)
  /-- Event COPY_COMMAND_RUN (R306). -/
  | copyCommandRun (c : ClusterPos)
  /-- Event CPYQ_RESERVE (R313). -/
  | cpyqReserve (c : ClusterPos) (q : BitVec 2)
  /-- Event COPY_COMPLETE (R310). -/
  | copyComplete (c : ClusterPos)
  /-- Event EXCHANGE_ARRIVAL (R405). -/
  | exchangeArrival
  /-- Event DOORBELL (R84). -/
  | doorbell (vf : Nat) (p : Nat) (value : Word)
  /-- Event QOVF_CLEAR (R84). -/
  | qovfClear (vf : Nat) (value : Word)
  /-- Event HEAD_CHECK (R90). -/
  | headCheck (vf : Nat) (p : Nat)
  /-- Event DEPENDENCE_TEST (R91). -/
  | dependenceTest (fold : Nat)
  /-- Event CHOOSE_LAUNCH (R92). -/
  | chooseLaunch (fold : Nat)
  /-- Event CLUSTER_TAKE_LAUNCH (R105). -/
  | clusterTakeLaunch (c : ClusterPos) (lid : Word)
  /-- Event STRAND_START (R104). -/
  | strandStart (p : CorePos)
  /-- Event COUNTER_REPORT (R432). -/
  | counterReport (lid : Word) (node : TreeNode)
  /-- Event SLICE_END (R87). -/
  | sliceEnd (fold : Nat)
  /-- Event GANG_SWITCH_OUT (R412). -/
  | gangSwitchOut (fold : Nat)
  /-- Event GANG_SWITCH_IN (R415). -/
  | gangSwitchIn (fold : Nat) (vf : Nat) (tagsOk : Bool)
  /-- Event NPR_OVERRUN (R418). -/
  | nprOverrun
  /-- Event PACKET_HOP (R13). -/
  | packetHop (i : Nat)
  /-- Event PACKET_DELIVER (R17). -/
  | packetDeliver (i : Nat)
  /-- Event UNCORRECTABLE_ERROR (R280). -/
  | uncorrectableError (place : ErrPlace) (keys : List Nat)
  /-- Event POWER_ON (R437). -/
  | powerOn
  /-- Event MODULE_WARM_RESET (R437). -/
  | moduleWarmReset
  /-- Event MBSTAT_DONE_CLEAR (R443). -/
  | mbstatDoneClear
  /-- Event FOLDNEW (R447). -/
  | foldnew (fr : Frame) (body : FoldNewBody)
  /-- Event FOLDDEL (R441). -/
  | folddel (fr : Frame) (fold : Nat)
  /-- Event FOLDRESET (R449). -/
  | foldreset (fr : Option Frame) (fold : Nat)
  /-- Event FOLDSET_FOLDMODE (R452). -/
  | foldsetFoldmode (fr : Frame) (fold : Nat) (mode : BitVec 7)
  /-- Event FOLDSET_POLICY (R424). -/
  | foldsetPolicy (fr : Frame) (fold : Nat) (policy : Nat)
  /-- Event FOLDSET_CODE_KEY (R55). -/
  | foldsetCodeKey (fr : Frame) (fold : Nat) (key : PubKey)
  /-- Event FOLDSET_WATCHDOG_TIMES (R456). -/
  | foldsetWatchdogTimes (fr : Frame) (fold : Nat) (times : Vector Nat 6)
  /-- Event VFSET (R448). -/
  | vfset (fr : Frame) (body : VfSetBody)
  /-- Event VFDEL (R448). -/
  | vfdel (fr : Frame) (vf : Nat)
  /-- Event RCT (R122). -/
  | rct (fr : Frame) (fold : Nat) (table : List (BitVec 32))
  /-- Event HANDLE_EXPORT (R124). -/
  | handleExport (fr : Frame) (body : HandleBody)
  /-- Event HANDLE_INSTALL (R124). -/
  | handleInstall (fr : Frame) (body : HandleBody)
  /-- Event HANDLE_REVOKE (R124). -/
  | handleRevoke (fr : Frame) (body : HandleBody)
  /-- Event SNAPSHOT (R454). -/
  | snapshot (fr : Frame) (vf : Nat)
  /-- Event MIGRATE (R455). -/
  | migrate (fr : Frame) (vf : Nat) (destFold : Nat) (delta : Nat) (endpoint : Nat) (destOk : Bool)
  /-- Event STAGE (R446). -/
  | stage (fr : Frame) (image : List Byte)
  /-- Event DROVER_SWAP (R446). -/
  | droverSwap
  /-- Event COMMIT (R440). -/
  | commit (fr : Frame) (kind : Nat)
  /-- Event IDENTITY (R439). -/
  | identity (fr : Frame)
  /-- Event QUOTE (R439). -/
  | quote (fr : Frame) (nonce : Nat)
  /-- Event TELEMETRY (R445). -/
  | telemetry (fr : Frame) (first : Nat)
  /-- Event RASLOG (R445). -/
  | raslog (fr : Frame) (first : Nat)
  /-- Event LOAD (R441). -/
  | load (fr : Frame) (vf : Nat) (plan : LoadPlan)
  /-- Event KEYADD (R441). -/
  | keyadd (fr : Frame) (keyid : Nat) (key : PubKey)
  /-- Event KEYDEL (R441). -/
  | keydel (fr : Frame) (keyid : Nat)
  /-- Event PGDONE (R450). -/
  | pgdone (fold : Nat) (vf : Nat) (va : Word) (answer : Word)
  /-- Event COWDONE (R450). -/
  | cowdone (fold : Nat) (vf : Nat) (va : Word)
  /-- Event NEXTVF (R98). -/
  | nextvf (fold : Nat) (vf : Nat)
  /-- Event START (R98). -/
  | start (fold : Nat) (lid : Word)
  /-- Event REFUSE (R98). -/
  | refuse (fold : Nat) (lid : Word) (status : Word)
  /-- Event PLACEGO (R113). -/
  | placego (fold : Nat) (lid : Word) (die : Nat) (wave : Nat)
  /-- Event CONTAINACT (R424). -/
  | containact (fold : Nat) (lid : Word) (policy : Word)
  /-- Event D2HHEAD_WRITE (R451). -/
  | d2hheadWrite (fold : Nat) (value : Word)
  /-- Event DRVBEAT_WRITE (R453). -/
  | drvbeatWrite (die : Nat) (value : Word)
  /-- Event WATCHDOG_STAGE (R456). -/
  | watchdogStage (fold : Nat)
  /-- Event REGISTER_WRITE (R3). -/
  | registerWrite (r : DevReg) (value : Word)
  /-- Event UNIT_ISSUE (R244). -/
  | unitIssue (u : QUnit)
  /-- Event ILLEGAL_INSTRUCTION (R137). -/
  | illegalInstruction (w : InstrWord)
  /-- Event DROVER_MESSAGE (R399). -/
  | droverMessage (p : CorePos) (value : Word)
  /-- Event EXCHANGE_SEND (R404). -/
  | exchangeSend
  /-- Event SOFT_ERROR (R280). -/
  | softError (key : Nat)
  /-- Event PARITY_ERROR (R130). -/
  | parityError (line : Nat)
  /-- Event PREF_FILL (R281). -/
  | prefFill
  /-- Event HOST_ACCESS (R354). -/
  | hostAccess (fold : Nat) (pa : Nat) (op : HostOp)
  /-- Event UNKNOWN_CODE (R444). -/
  | unknownCode (fr : Frame)
  deriving DecidableEq, Repr

end Sys2Proof
end

