-- ==== Sys2Proof/WellFormed.lean ====
section
/-!
DEFINITION. WellFormed.lean: the values of fields that the entries of the instructions forbid, as far as they depend on the
word alone (R137, R253). Rules that depend on the mode word too are checked at the instruction's issue (R138).
-/

namespace Sys2Proof

/-- v31 is never a source (R253). -/
def srcOk (v : Reg) : Bool := v != 31#5

/-- A b operand that is a v register unless the X bit is set (R255). -/
def bOk (x : BitVec 1) (b : Reg) : Bool := x == 1#1 || srcOk b

/-- d = 30 is a destination of vector loads alone (R253). -/
def dstOk (v : Reg) : Bool := v != 30#5

/-- A destination that is also read: neither 30 nor 31 (R253). -/
def rmwOk (v : Reg) : Bool := v != 30#5 && v != 31#5

/-- The destination and sources of a binary class 4 instruction. -/
def binOk (d a b : Reg) (x : BitVec 1) : Bool := dstOk d && srcOk a && bOk x b

/-- The destination and source of a unary vector instruction. -/
def unOk (d a : Reg) : Bool := dstOk d && srcOk a

/-- A loop level (R186). -/
def levelOk (n : BitVec 3) : Bool := n.toNat ≤ 5

/-- A core of the module (R114). -/
def CorePos.inRange (p : CorePos) : Bool :=
  p.die < Config.numDies && p.cx < Config.gridX && p.cy < Config.gridY && p.core < Config.coresPerCluster

/-- A cluster of the module (R114). -/
def ClusterPos.inRange (p : ClusterPos) : Bool :=
  p.die < Config.numDies && p.cx < Config.gridX && p.cy < Config.gridY

/-- The word-only checks of each instruction's entry (R137, R253). Events are checked for places that exist. -/
def Instr.wellFormed : Instr → Bool
  | .facc _ _ _ f => 1 ≤ f.toNat && f.toNat ≤ 6
  | .ffold _ _ f => f.toNat ≤ 6
  | .loop n _ l => levelOk n && l != 0#12
  | .loopt n m l => levelOk n && levelOk m && l != 0#12
  | .loops n _ _ l => levelOk n && l != 0#10
  | .lbrk n => levelOk n
  | .bst _ n _ => levelOk n
  | .lidx _ m => levelOk m
  | .svmax _ _ _ u _ _ _ => u != 3#2
  | .svmin _ _ _ u _ _ _ => u != 3#2
  | .vadd d a b x | .vsub d a b x | .vmul d a b x | .vmin d a b x | .vmax d a b x | .vdiv d a b x
  | .vand d a b x | .vor d a b x | .vxor d a b x | .vsll d a b x | .vsrl d a b x | .vsra d a b x
  | .vmulh d a b x | .vperm d a b x => binOk d a b x
  | .vfma d a b x | .vfms d a b x | .vfnma d a b x | .vclamp d a b x => rmwOk d && srcOk a && bOk x b
  | .vabs d a | .vneg d a | .vsqrt d a | .vrcp d a | .vrsq d a | .vexp2 d a | .vlog2 d a | .vmov d a => unOk d a
  | .vcmp _ a b x c => srcOk a && bOk x b && c.toNat ≤ 6
  | .vsel d a b x _ => binOk d a b x
  | .vbc d _ => dstOk d
  | .viota d => dstOk d
  | .vldg _ _ b _ => srcOk b
  | .vldmx d _ _ => dstOk d
  | .vstg _ _ b _ => srcOk b
  | .vcvt d a _ s => unOk d a && s.toNat ≤ 10
  | .vcvtn d a h f => unOk d a && (h == 0#1 || f == 0#2 || f == 3#2)
  | .vslideUp d a _ | .vslideDn d a _ => unOk d a
  | .vzip d a b _ | .vunzip d a b _ => unOk d a && srcOk b
  | .vredadd _ a | .vredmax _ a | .vredmin _ a => srcOk a
  | .vmvx _ a _ => srcOk a
  | .vins d _ _ => rmwOk d
  | .mstg _ n => levelOk n
  | .vsclSet d _ _ | .vsclSeta d _ => rmwOk d
  | .vsclGet _ a _ => rmwOk a
  | .mrow _ _ v _ _ _ | .mrowp _ _ v _ _ _ | .mrowz _ _ v _ _ _ | .mrowzp _ _ v _ _ _ => srcOk v
  | .tmovv _ _ v => dstOk v
  | .tvmov _ _ v => srcOk v
  | .xsend a _ => srcOk a
  | .xsel d _ => dstOk d
  | .negotiationRound c _ | .copyCommandRun c | .cpyqReserve c _ | .copyComplete c | .clusterTakeLaunch c _ => c.inRange
  | .strandStart p | .droverMessage p _ => p.inRange
  | .counterReport _ (.cluster c) => c.inRange
  | .counterReport _ (.die n) => n < Config.numDies
  | .drvbeatWrite n _ => n < Config.numDies
  | _ => true

end Sys2Proof
end

