-- ==== Sys2Proof/Decode.lean ====
section
/-!
DEFINITION. Decode.lean: from bytes to an instruction or a refusal by name, and back. The layout is that of R133 to R136;
a word is refused when its class and op pair is unassigned (R136), when a reserved bit is non-zero or fn holds a value the
entry does not define (R137), or when a field names a value the op does not allow (wellFormed). After the decoder stands the
encoder, written from the same tables.
-/

namespace Sys2Proof

/-- Why a word is no instruction (R137), or why no word could be read. -/
inductive DecodeError where
  /-- Fewer than four bytes. -/
  | short
  /-- The class and op pair is unassigned (R136). -/
  | unassigned
  /-- A reserved bit is non-zero, or fn holds a value that the entry does not define. -/
  | reserved
  /-- A field names a value that the op does not allow. -/
  | illFormed
  deriving DecidableEq, Repr

/-- The class of a word, bits 31:29 (R133). -/
def wordClass (w : InstrWord) : BitVec 3 := w.extractLsb' 29 3

/-- The op of a word, bits 28:23 (R133). -/
def wordOp (w : InstrWord) : BitVec 6 := w.extractLsb' 23 6

/-- The field of n bits whose lowest bit is lo. -/
def wordField (w : InstrWord) (lo n : Nat) : BitVec n := w.extractLsb' lo n

/-- The instruction i if every bit of w under mask is that of pattern. -/
def onPattern (w mask pattern : InstrWord) (i : Instr) (otherwise : Except DecodeError Instr) : Except DecodeError Instr :=
  if w &&& mask = pattern then .ok i else otherwise

/-- The ops of class 0 (R136), before the checks of wellFormed. -/
def decodeClass0 (w : InstrWord) : Except DecodeError Instr :=
  match (wordOp w).toNat with
  | 0x00 => onPattern w 0xFF8000FF#32 0x00000000#32 (.add (wordField w 18 5) (wordField w 13 5) (wordField w 8 5)) (.error .reserved)
  | 0x01 => onPattern w 0xFF8000FF#32 0x00800000#32 (.sub (wordField w 18 5) (wordField w 13 5) (wordField w 8 5)) (.error .reserved)
  | 0x02 => onPattern w 0xFF8000FF#32 0x01000000#32 (.and (wordField w 18 5) (wordField w 13 5) (wordField w 8 5)) (.error .reserved)
  | 0x03 => onPattern w 0xFF8000FF#32 0x01800000#32 (.or (wordField w 18 5) (wordField w 13 5) (wordField w 8 5)) (.error .reserved)
  | 0x04 => onPattern w 0xFF8000FF#32 0x02000000#32 (.xor (wordField w 18 5) (wordField w 13 5) (wordField w 8 5)) (.error .reserved)
  | 0x05 => onPattern w 0xFF8000FF#32 0x02800000#32 (.sll (wordField w 18 5) (wordField w 13 5) (wordField w 8 5)) (.error .reserved)
  | 0x06 => onPattern w 0xFF8000FF#32 0x03000000#32 (.srl (wordField w 18 5) (wordField w 13 5) (wordField w 8 5)) (.error .reserved)
  | 0x07 => onPattern w 0xFF8000FF#32 0x03800000#32 (.sra (wordField w 18 5) (wordField w 13 5) (wordField w 8 5)) (.error .reserved)
  | 0x08 => onPattern w 0xFF8000FF#32 0x04000000#32 (.slt (wordField w 18 5) (wordField w 13 5) (wordField w 8 5)) (.error .reserved)
  | 0x09 => onPattern w 0xFF8000FF#32 0x04800000#32 (.sltu (wordField w 18 5) (wordField w 13 5) (wordField w 8 5)) (.error .reserved)
  | 0x0A => onPattern w 0xFF8000FF#32 0x05000000#32 (.min (wordField w 18 5) (wordField w 13 5) (wordField w 8 5)) (.error .reserved)
  | 0x0B => onPattern w 0xFF8000FF#32 0x05800000#32 (.max (wordField w 18 5) (wordField w 13 5) (wordField w 8 5)) (.error .reserved)
  | 0x0C => onPattern w 0xFF8000FF#32 0x06000000#32 (.minu (wordField w 18 5) (wordField w 13 5) (wordField w 8 5)) (.error .reserved)
  | 0x0D => onPattern w 0xFF8000FF#32 0x06800000#32 (.maxu (wordField w 18 5) (wordField w 13 5) (wordField w 8 5)) (.error .reserved)
  | 0x0E => onPattern w 0xFF8000FF#32 0x07000000#32 (.mul (wordField w 18 5) (wordField w 13 5) (wordField w 8 5)) (.error .reserved)
  | 0x0F => onPattern w 0xFF8000FF#32 0x07800000#32 (.mulh (wordField w 18 5) (wordField w 13 5) (wordField w 8 5)) (.error .reserved)
  | 0x10 => onPattern w 0xFF8000FF#32 0x08000000#32 (.mulhu (wordField w 18 5) (wordField w 13 5) (wordField w 8 5)) (.error .reserved)
  | 0x11 => onPattern w 0xFF8000FF#32 0x08800000#32 (.div (wordField w 18 5) (wordField w 13 5) (wordField w 8 5)) (.error .reserved)
  | 0x12 => onPattern w 0xFF8000FF#32 0x09000000#32 (.divu (wordField w 18 5) (wordField w 13 5) (wordField w 8 5)) (.error .reserved)
  | 0x13 => onPattern w 0xFF8000FF#32 0x09800000#32 (.rem (wordField w 18 5) (wordField w 13 5) (wordField w 8 5)) (.error .reserved)
  | 0x14 => onPattern w 0xFF8000FF#32 0x0A000000#32 (.remu (wordField w 18 5) (wordField w 13 5) (wordField w 8 5)) (.error .reserved)
  | 0x15 => onPattern w 0xFF801FFF#32 0x0A800000#32 (.bitClz (wordField w 18 5) (wordField w 13 5))
      (onPattern w 0xFF801FFF#32 0x0A800001#32 (.bitCtz (wordField w 18 5) (wordField w 13 5))
      (onPattern w 0xFF801FFF#32 0x0A800002#32 (.bitPopc (wordField w 18 5) (wordField w 13 5))
      (onPattern w 0xFF801FFF#32 0x0A800003#32 (.bitBrev (wordField w 18 5) (wordField w 13 5)) (.error .reserved))))
  | 0x18 => onPattern w 0xFF800000#32 0x0C000000#32 (.addi (wordField w 18 5) (wordField w 13 5) (wordField w 0 13)) (.error .reserved)
  | 0x19 => onPattern w 0xFF800000#32 0x0C800000#32 (.andi (wordField w 18 5) (wordField w 13 5) (wordField w 0 13)) (.error .reserved)
  | 0x1A => onPattern w 0xFF800000#32 0x0D000000#32 (.ori (wordField w 18 5) (wordField w 13 5) (wordField w 0 13)) (.error .reserved)
  | 0x1B => onPattern w 0xFF800000#32 0x0D800000#32 (.xori (wordField w 18 5) (wordField w 13 5) (wordField w 0 13)) (.error .reserved)
  | 0x1C => onPattern w 0xFF801FC0#32 0x0E000000#32 (.slli (wordField w 18 5) (wordField w 13 5) (wordField w 0 6)) (.error .reserved)
  | 0x1D => onPattern w 0xFF801FC0#32 0x0E800000#32 (.srli (wordField w 18 5) (wordField w 13 5) (wordField w 0 6)) (.error .reserved)
  | 0x1E => onPattern w 0xFF801FC0#32 0x0F000000#32 (.srai (wordField w 18 5) (wordField w 13 5) (wordField w 0 6)) (.error .reserved)
  | 0x1F => onPattern w 0xFF800000#32 0x0F800000#32 (.slti (wordField w 18 5) (wordField w 13 5) (wordField w 0 13)) (.error .reserved)
  | 0x20 => onPattern w 0xFF800000#32 0x10000000#32 (.sltiu (wordField w 18 5) (wordField w 13 5) (wordField w 0 13)) (.error .reserved)
  | 0x21 => onPattern w 0xFF800000#32 0x10800000#32 (.lui (wordField w 18 5) (wordField w 0 18)) (.error .reserved)
  | 0x22 => onPattern w 0xFF800000#32 0x11000000#32 (.auipc (wordField w 18 5) (wordField w 0 18)) (.error .reserved)
  | 0x23 => onPattern w 0xFF800000#32 0x11800000#32 (.shor (wordField w 18 5) (wordField w 0 18)) (.error .reserved)
  | 0x28 => onPattern w 0xFF8000FF#32 0x14000000#32 (.fadd (wordField w 18 5) (wordField w 13 5) (wordField w 8 5)) (.error .reserved)
  | 0x29 => onPattern w 0xFF8000FF#32 0x14800000#32 (.fsub (wordField w 18 5) (wordField w 13 5) (wordField w 8 5)) (.error .reserved)
  | 0x2A => onPattern w 0xFF8000FF#32 0x15000000#32 (.fmul (wordField w 18 5) (wordField w 13 5) (wordField w 8 5)) (.error .reserved)
  | 0x2B => onPattern w 0xFF8000FF#32 0x15800000#32 (.fdiv (wordField w 18 5) (wordField w 13 5) (wordField w 8 5)) (.error .reserved)
  | 0x2C => onPattern w 0xFF8000FF#32 0x16000000#32 (.fma (wordField w 18 5) (wordField w 13 5) (wordField w 8 5)) (.error .reserved)
  | 0x2D => onPattern w 0xFF801FFF#32 0x16800000#32 (.fsqrt (wordField w 18 5) (wordField w 13 5)) (.error .reserved)
  | 0x2E => onPattern w 0xFF8000FF#32 0x17000000#32 (.fmin (wordField w 18 5) (wordField w 13 5) (wordField w 8 5)) (.error .reserved)
  | 0x2F => onPattern w 0xFF8000FF#32 0x17800000#32 (.fmax (wordField w 18 5) (wordField w 13 5) (wordField w 8 5)) (.error .reserved)
  | 0x30 => onPattern w 0xFF8000FF#32 0x18000000#32 (.fcmpEq (wordField w 18 5) (wordField w 13 5) (wordField w 8 5))
      (onPattern w 0xFF8000FF#32 0x18000001#32 (.fcmpLt (wordField w 18 5) (wordField w 13 5) (wordField w 8 5))
      (onPattern w 0xFF8000FF#32 0x18000002#32 (.fcmpLe (wordField w 18 5) (wordField w 13 5) (wordField w 8 5)) (.error .reserved)))
  | 0x31 => onPattern w 0xFF801FFF#32 0x18800000#32 (.fcvtI64f (wordField w 18 5) (wordField w 13 5))
      (onPattern w 0xFF801FFF#32 0x18800001#32 (.fcvtFi64 (wordField w 18 5) (wordField w 13 5))
      (onPattern w 0xFF801FFF#32 0x18800002#32 (.fcvtF16f (wordField w 18 5) (wordField w 13 5))
      (onPattern w 0xFF801FFF#32 0x18800003#32 (.fcvtFf16 (wordField w 18 5) (wordField w 13 5))
      (onPattern w 0xFF801FFF#32 0x18800004#32 (.fcvtB16f (wordField w 18 5) (wordField w 13 5))
      (onPattern w 0xFF801FFF#32 0x18800005#32 (.fcvtFb16 (wordField w 18 5) (wordField w 13 5))
      (onPattern w 0xFF801FFF#32 0x18800006#32 (.fcvtS20f (wordField w 18 5) (wordField w 13 5))
      (onPattern w 0xFF801FFF#32 0x18800007#32 (.fcvtFs20 (wordField w 18 5) (wordField w 13 5)) (.error .reserved))))))))
  | _ => .error .unassigned

/-- The ops of class 1 (R136), before the checks of wellFormed. -/
def decodeClass1 (w : InstrWord) : Except DecodeError Instr :=
  match (wordOp w).toNat with
  | 0x00 => onPattern w 0xFF800000#32 0x20000000#32 (.lb (wordField w 18 5) (wordField w 13 5) (wordField w 0 13)) (.error .reserved)
  | 0x01 => onPattern w 0xFF800000#32 0x20800000#32 (.lbu (wordField w 18 5) (wordField w 13 5) (wordField w 0 13)) (.error .reserved)
  | 0x02 => onPattern w 0xFF800000#32 0x21000000#32 (.lh (wordField w 18 5) (wordField w 13 5) (wordField w 0 13)) (.error .reserved)
  | 0x03 => onPattern w 0xFF800000#32 0x21800000#32 (.lhu (wordField w 18 5) (wordField w 13 5) (wordField w 0 13)) (.error .reserved)
  | 0x04 => onPattern w 0xFF800000#32 0x22000000#32 (.lw (wordField w 18 5) (wordField w 13 5) (wordField w 0 13)) (.error .reserved)
  | 0x05 => onPattern w 0xFF800000#32 0x22800000#32 (.lwu (wordField w 18 5) (wordField w 13 5) (wordField w 0 13)) (.error .reserved)
  | 0x06 => onPattern w 0xFF800000#32 0x23000000#32 (.ld (wordField w 18 5) (wordField w 13 5) (wordField w 0 13)) (.error .reserved)
  | 0x08 => onPattern w 0xFF800000#32 0x24000000#32 (.sb (wordField w 18 5) (wordField w 13 5) (wordField w 0 13)) (.error .reserved)
  | 0x09 => onPattern w 0xFF800000#32 0x24800000#32 (.sh (wordField w 18 5) (wordField w 13 5) (wordField w 0 13)) (.error .reserved)
  | 0x0A => onPattern w 0xFF800000#32 0x25000000#32 (.sw (wordField w 18 5) (wordField w 13 5) (wordField w 0 13)) (.error .reserved)
  | 0x0B => onPattern w 0xFF800000#32 0x25800000#32 (.sd (wordField w 18 5) (wordField w 13 5) (wordField w 0 13)) (.error .reserved)
  | 0x0C => onPattern w 0xFFF00000#32 0x26000000#32 (.pref (wordField w 18 2) (wordField w 13 5) (wordField w 0 13)) (.error .reserved)
  | 0x0D => onPattern w 0xFFFC1FFF#32 0x26800000#32 (.cboWb (wordField w 13 5))
      (onPattern w 0xFFFC1FFF#32 0x26800001#32 (.cboWbinv (wordField w 13 5))
      (onPattern w 0xFFFC1FFF#32 0x26800002#32 (.cboInv (wordField w 13 5)) (.error .reserved)))
  | 0x10 => onPattern w 0xFF80001F#32 0x28000000#32 (.fld (wordField w 18 5) (wordField w 15 3) (wordField w 5 10)) (.error .reserved)
  | 0x11 => onPattern w 0xFF80001F#32 0x28800000#32 (.fst (wordField w 18 5) (wordField w 15 3) (wordField w 5 10)) (.error .reserved)
  | 0x12 => onPattern w 0xFF80001F#32 0x29000000#32 (.fadr (wordField w 18 5) (wordField w 15 3) (wordField w 5 10)) (.error .reserved)
  | 0x13 => onPattern w 0xFF800000#32 0x29800000#32 (.facc (wordField w 18 5) (wordField w 15 3) (wordField w 5 10) (wordField w 0 5)) (.error .reserved)
  | 0x14 => onPattern w 0xFF801FF0#32 0x2A000000#32 (.fenter (wordField w 18 5) (wordField w 13 5) (wordField w 2 2) (wordField w 0 2)) (.error .reserved)
  | 0x15 => onPattern w 0xFFFFFFFF#32 0x2A800000#32 .fleave (.error .reserved)
  | 0x16 => onPattern w 0xFF83FFF8#32 0x2B000000#32 (.dspr (wordField w 18 5) (wordField w 0 3)) (.error .reserved)
  | 0x17 => onPattern w 0xFFFC0000#32 0x2B800000#32 (.ffold (wordField w 13 5) (wordField w 8 5) (wordField w 0 8)) (.error .reserved)
  | 0x18 => onPattern w 0xFFFFFFFC#32 0x2C000000#32 (.fpol (wordField w 0 2)) (.error .reserved)
  | _ => .error .unassigned

/-- The ops of class 2 (R136), before the checks of wellFormed. -/
def decodeClass2 (w : InstrWord) : Except DecodeError Instr :=
  match (wordOp w).toNat with
  | 0x00 => onPattern w 0xFF800000#32 0x40000000#32 (.beq (wordField w 18 5) (wordField w 13 5) (wordField w 0 13)) (.error .reserved)
  | 0x01 => onPattern w 0xFF800000#32 0x40800000#32 (.bne (wordField w 18 5) (wordField w 13 5) (wordField w 0 13)) (.error .reserved)
  | 0x02 => onPattern w 0xFF800000#32 0x41000000#32 (.blt (wordField w 18 5) (wordField w 13 5) (wordField w 0 13)) (.error .reserved)
  | 0x03 => onPattern w 0xFF800000#32 0x41800000#32 (.bge (wordField w 18 5) (wordField w 13 5) (wordField w 0 13)) (.error .reserved)
  | 0x04 => onPattern w 0xFF800000#32 0x42000000#32 (.bltu (wordField w 18 5) (wordField w 13 5) (wordField w 0 13)) (.error .reserved)
  | 0x05 => onPattern w 0xFF800000#32 0x42800000#32 (.bgeu (wordField w 18 5) (wordField w 13 5) (wordField w 0 13)) (.error .reserved)
  | 0x06 => onPattern w 0xFF800000#32 0x43000000#32 (.jal (wordField w 18 5) (wordField w 0 18)) (.error .reserved)
  | 0x07 => onPattern w 0xFF800000#32 0x43800000#32 (.jalr (wordField w 18 5) (wordField w 13 5) (wordField w 0 13)) (.error .reserved)
  | 0x08 => onPattern w 0xFFE01000#32 0x44000000#32 (.loop (wordField w 18 3) (wordField w 13 5) (wordField w 0 12)) (.error .reserved)
  | 0x09 => onPattern w 0xFFE31000#32 0x44800000#32 (.loopt (wordField w 18 3) (wordField w 13 3) (wordField w 0 12)) (.error .reserved)
  | 0x0A => onPattern w 0xFFE00000#32 0x45000000#32 (.loops (wordField w 18 3) (wordField w 13 5) (wordField w 10 3) (wordField w 0 10)) (.error .reserved)
  | 0x0B => onPattern w 0xFFE3FFFF#32 0x45800000#32 (.lbrk (wordField w 18 3)) (.error .reserved)
  | 0x0C => onPattern w 0xFFFFE000#32 0x46000000#32 (.bmz (wordField w 0 13)) (.error .reserved)
  | 0x0D => onPattern w 0xFFFFE000#32 0x46800000#32 (.bmnz (wordField w 0 13)) (.error .reserved)
  | 0x0E => onPattern w 0xFFFFFF00#32 0x47000000#32 (.gate (wordField w 0 8)) (.error .reserved)
  | 0x0F => onPattern w 0xFFFFFFFF#32 0x47800000#32 .gret (.error .reserved)
  | 0x10 => onPattern w 0xFF800000#32 0x48000000#32 (.fork (wordField w 18 5) (wordField w 13 5) (wordField w 0 13)) (.error .reserved)
  | 0x11 => onPattern w 0xFFFFFFFF#32 0x48800000#32 .join (.error .reserved)
  | 0x12 => onPattern w 0xFFFFFFFF#32 0x49000000#32 .endStrand (.error .reserved)
  | 0x13 => onPattern w 0xFFE30000#32 0x49800000#32 (.bst (wordField w 18 3) (wordField w 13 3) (wordField w 0 13)) (.error .reserved)
  | _ => .error .unassigned

/-- The ops of class 3 (R136), before the checks of wellFormed. -/
def decodeClass3 (w : InstrWord) : Except DecodeError Instr :=
  match (wordOp w).toNat with
  | 0x00 => onPattern w 0xFFFC1FFC#32 0x60000000#32 (.acq (wordField w 13 5) (wordField w 0 2)) (.error .reserved)
  | 0x01 => onPattern w 0xFFFC1FFC#32 0x60800000#32 (.rel (wordField w 13 5) (wordField w 0 2)) (.error .reserved)
  | 0x03 => onPattern w 0xFFFC00FF#32 0x61800000#32 (.fenceRange (wordField w 13 5) (wordField w 8 5))
      (onPattern w 0xFFFFFFFF#32 0x61800001#32 .fenceRemote
      (onPattern w 0xFFFFFFFF#32 0x61800002#32 .fenceAll (.error .reserved)))
  | 0x04 => onPattern w 0xFF801FF0#32 0x62000000#32 (.svld (wordField w 18 5) (wordField w 13 5) (wordField w 3 1) (wordField w 2 1) (wordField w 0 2)) (.error .reserved)
  | 0x05 => onPattern w 0xFFFC00F0#32 0x62800000#32 (.svst (wordField w 13 5) (wordField w 8 5) (wordField w 3 1) (wordField w 2 1) (wordField w 0 2)) (.error .reserved)
  | 0x06 => onPattern w 0xFF8000E0#32 0x63000000#32 (.svadd (wordField w 18 5) (wordField w 13 5) (wordField w 8 5) (wordField w 4 1) (wordField w 3 1) (wordField w 2 1) (wordField w 0 2)) (.error .reserved)
  | 0x07 => onPattern w 0xFF8000C0#32 0x63800000#32 (.svmax (wordField w 18 5) (wordField w 13 5) (wordField w 8 5) (wordField w 4 2) (wordField w 3 1) (wordField w 2 1) (wordField w 0 2)) (.error .reserved)
  | 0x08 => onPattern w 0xFF8000C0#32 0x64000000#32 (.svmin (wordField w 18 5) (wordField w 13 5) (wordField w 8 5) (wordField w 4 2) (wordField w 3 1) (wordField w 2 1) (wordField w 0 2)) (.error .reserved)
  | 0x09 => onPattern w 0xFF8000F0#32 0x64800000#32 (.svand (wordField w 18 5) (wordField w 13 5) (wordField w 8 5) (wordField w 3 1) (wordField w 2 1) (wordField w 0 2)) (.error .reserved)
  | 0x0A => onPattern w 0xFF8000F0#32 0x65000000#32 (.svor (wordField w 18 5) (wordField w 13 5) (wordField w 8 5) (wordField w 3 1) (wordField w 2 1) (wordField w 0 2)) (.error .reserved)
  | 0x0B => onPattern w 0xFF8000F0#32 0x65800000#32 (.svswap (wordField w 18 5) (wordField w 13 5) (wordField w 8 5) (wordField w 3 1) (wordField w 2 1) (wordField w 0 2)) (.error .reserved)
  | 0x0C => onPattern w 0xFF8000F0#32 0x66000000#32 (.svcas (wordField w 18 5) (wordField w 13 5) (wordField w 8 5) (wordField w 3 1) (wordField w 2 1) (wordField w 0 2)) (.error .reserved)
  | 0x0D => onPattern w 0xFF8000C0#32 0x66800000#32 (.svwait (wordField w 18 5) (wordField w 13 5) (wordField w 8 5) (wordField w 4 2) (wordField w 3 1) (wordField w 2 1) (wordField w 0 2)) (.error .reserved)
  | 0x0E => onPattern w 0xFFFC1FFC#32 0x67000000#32 (.svlock (wordField w 13 5) (wordField w 0 2)) (.error .reserved)
  | 0x0F => onPattern w 0xFFFC1FFC#32 0x67800000#32 (.svunlock (wordField w 13 5) (wordField w 0 2)) (.error .reserved)
  | 0x10 => onPattern w 0xFFFFFFFF#32 0x68000000#32 .barCluster
      (onPattern w 0xFFFFFFFF#32 0x68000001#32 .barDie
      (onPattern w 0xFFFFFFFF#32 0x68000002#32 .barLaunch (.error .reserved)))
  | 0x11 => onPattern w 0xFFFFFFFF#32 0x68800000#32 .sstep (.error .reserved)
  | 0x13 => onPattern w 0xFFFFFFFF#32 0x69800000#32 .trig (.error .reserved)
  | 0x14 => onPattern w 0xFF801FFF#32 0x6A000000#32 (.launch (wordField w 18 5) (wordField w 13 5)) (.error .reserved)
  | 0x15 => onPattern w 0xFF83FFF8#32 0x6A800000#32 (.lidx (wordField w 18 5) (wordField w 0 3)) (.error .reserved)
  | 0x16 => onPattern w 0xFF83FFFD#32 0x6B000000#32 (.inboxWait (wordField w 18 5) (wordField w 1 1))
      (onPattern w 0xFF83FFFD#32 0x6B000001#32 (.inboxPoll (wordField w 18 5) (wordField w 1 1)) (.error .reserved))
  | 0x17 => onPattern w 0xFF83E000#32 0x6B800000#32 (.csrr (wordField w 18 5) (wordField w 0 13)) (.error .reserved)
  | 0x18 => onPattern w 0xFF800000#32 0x6C000000#32 (.csrw (wordField w 18 5) (wordField w 13 5) (wordField w 0 13)) (.error .reserved)
  | 0x19 => onPattern w 0xFF800000#32 0x6C800000#32 (.csrs (wordField w 18 5) (wordField w 13 5) (wordField w 0 13)) (.error .reserved)
  | 0x1A => onPattern w 0xFF800000#32 0x6D000000#32 (.csrc (wordField w 18 5) (wordField w 13 5) (wordField w 0 13)) (.error .reserved)
  | 0x1B => onPattern w 0xFFFFFFFF#32 0x6D800000#32 .tret (.error .reserved)
  | 0x1C => onPattern w 0xFFFFFFFF#32 0x6E000000#32 .bkpt (.error .reserved)
  | 0x1D => onPattern w 0xFFFFFFFF#32 0x6E800000#32 .nprb (.error .reserved)
  | 0x1E => onPattern w 0xFFFFFFFF#32 0x6F000000#32 .npre (.error .reserved)
  | 0x1F => onPattern w 0xFFFC0000#32 0x6F800000#32 (.setm (wordField w 0 18)) (.error .reserved)
  | 0x20 => onPattern w 0xFFFC1FFF#32 0x70000000#32 (.contain (wordField w 13 5)) (.error .reserved)
  | 0x21 => onPattern w 0xFFFFFFFF#32 0x70800000#32 .wfi (.error .reserved)
  | _ => .error .unassigned

/-- The ops of class 4 (R136), before the checks of wellFormed. -/
def decodeClass4 (w : InstrWord) : Except DecodeError Instr :=
  match (wordOp w).toNat with
  | 0x00 => onPattern w 0xFF80007F#32 0x80000000#32 (.vadd (wordField w 18 5) (wordField w 13 5) (wordField w 8 5) (wordField w 7 1)) (.error .reserved)
  | 0x01 => onPattern w 0xFF80007F#32 0x80800000#32 (.vsub (wordField w 18 5) (wordField w 13 5) (wordField w 8 5) (wordField w 7 1)) (.error .reserved)
  | 0x02 => onPattern w 0xFF80007F#32 0x81000000#32 (.vmul (wordField w 18 5) (wordField w 13 5) (wordField w 8 5) (wordField w 7 1)) (.error .reserved)
  | 0x03 => onPattern w 0xFF80007F#32 0x81800000#32 (.vfma (wordField w 18 5) (wordField w 13 5) (wordField w 8 5) (wordField w 7 1)) (.error .reserved)
  | 0x04 => onPattern w 0xFF80007F#32 0x82000000#32 (.vfms (wordField w 18 5) (wordField w 13 5) (wordField w 8 5) (wordField w 7 1)) (.error .reserved)
  | 0x05 => onPattern w 0xFF80007F#32 0x82800000#32 (.vfnma (wordField w 18 5) (wordField w 13 5) (wordField w 8 5) (wordField w 7 1)) (.error .reserved)
  | 0x06 => onPattern w 0xFF80007F#32 0x83000000#32 (.vmin (wordField w 18 5) (wordField w 13 5) (wordField w 8 5) (wordField w 7 1)) (.error .reserved)
  | 0x07 => onPattern w 0xFF80007F#32 0x83800000#32 (.vmax (wordField w 18 5) (wordField w 13 5) (wordField w 8 5) (wordField w 7 1)) (.error .reserved)
  | 0x08 => onPattern w 0xFF801FFF#32 0x84000000#32 (.vabs (wordField w 18 5) (wordField w 13 5)) (.error .reserved)
  | 0x09 => onPattern w 0xFF801FFF#32 0x84800000#32 (.vneg (wordField w 18 5) (wordField w 13 5)) (.error .reserved)
  | 0x0A => onPattern w 0xFF80007F#32 0x85000000#32 (.vdiv (wordField w 18 5) (wordField w 13 5) (wordField w 8 5) (wordField w 7 1)) (.error .reserved)
  | 0x0B => onPattern w 0xFF801FFF#32 0x85800000#32 (.vsqrt (wordField w 18 5) (wordField w 13 5)) (.error .reserved)
  | 0x0C => onPattern w 0xFF801FFF#32 0x86000000#32 (.vrcp (wordField w 18 5) (wordField w 13 5)) (.error .reserved)
  | 0x0D => onPattern w 0xFF801FFF#32 0x86800000#32 (.vrsq (wordField w 18 5) (wordField w 13 5)) (.error .reserved)
  | 0x0E => onPattern w 0xFF801FFF#32 0x87000000#32 (.vexp2 (wordField w 18 5) (wordField w 13 5)) (.error .reserved)
  | 0x0F => onPattern w 0xFF801FFF#32 0x87800000#32 (.vlog2 (wordField w 18 5) (wordField w 13 5)) (.error .reserved)
  | 0x10 => onPattern w 0xFF80007F#32 0x88000000#32 (.vand (wordField w 18 5) (wordField w 13 5) (wordField w 8 5) (wordField w 7 1)) (.error .reserved)
  | 0x11 => onPattern w 0xFF80007F#32 0x88800000#32 (.vor (wordField w 18 5) (wordField w 13 5) (wordField w 8 5) (wordField w 7 1)) (.error .reserved)
  | 0x12 => onPattern w 0xFF80007F#32 0x89000000#32 (.vxor (wordField w 18 5) (wordField w 13 5) (wordField w 8 5) (wordField w 7 1)) (.error .reserved)
  | 0x13 => onPattern w 0xFF80007F#32 0x89800000#32 (.vsll (wordField w 18 5) (wordField w 13 5) (wordField w 8 5) (wordField w 7 1)) (.error .reserved)
  | 0x14 => onPattern w 0xFF80007F#32 0x8A000000#32 (.vsrl (wordField w 18 5) (wordField w 13 5) (wordField w 8 5) (wordField w 7 1)) (.error .reserved)
  | 0x15 => onPattern w 0xFF80007F#32 0x8A800000#32 (.vsra (wordField w 18 5) (wordField w 13 5) (wordField w 8 5) (wordField w 7 1)) (.error .reserved)
  | 0x16 => onPattern w 0xFFE00070#32 0x8B000000#32 (.vcmp (wordField w 18 3) (wordField w 13 5) (wordField w 8 5) (wordField w 7 1) (wordField w 0 4)) (.error .reserved)
  | 0x17 => onPattern w 0xFF800078#32 0x8B800000#32 (.vsel (wordField w 18 5) (wordField w 13 5) (wordField w 8 5) (wordField w 7 1) (wordField w 0 3)) (.error .reserved)
  | 0x18 => onPattern w 0xFF801FFF#32 0x8C000000#32 (.vmov (wordField w 18 5) (wordField w 13 5)) (.error .reserved)
  | 0x19 => onPattern w 0xFF801FFF#32 0x8C800000#32 (.vbc (wordField w 18 5) (wordField w 13 5)) (.error .reserved)
  | 0x1A => onPattern w 0xFF83FFFF#32 0x8D000000#32 (.viota (wordField w 18 5)) (.error .reserved)
  | 0x1B => onPattern w 0xFF80007F#32 0x8D800000#32 (.vmulh (wordField w 18 5) (wordField w 13 5) (wordField w 8 5) (wordField w 7 1)) (.error .reserved)
  | 0x1C => onPattern w 0xFF80007F#32 0x8E000000#32 (.vclamp (wordField w 18 5) (wordField w 13 5) (wordField w 8 5) (wordField w 7 1)) (.error .reserved)
  | _ => .error .unassigned

/-- The ops of class 5 (R136), before the checks of wellFormed. -/
def decodeClass5 (w : InstrWord) : Except DecodeError Instr :=
  match (wordOp w).toNat with
  | 0x00 => onPattern w 0xFF800000#32 0xA0000000#32 (.vld (wordField w 18 5) (wordField w 13 5) (wordField w 0 13)) (.error .reserved)
  | 0x01 => onPattern w 0xFF8000FF#32 0xA0800000#32 (.vlds (wordField w 18 5) (wordField w 13 5) (wordField w 8 5)) (.error .reserved)
  | 0x02 => onPattern w 0xFF8000FC#32 0xA1000000#32 (.vldg (wordField w 18 5) (wordField w 13 5) (wordField w 8 5) (wordField w 0 2)) (.error .reserved)
  | 0x03 => onPattern w 0xFF8000FF#32 0xA1800000#32 (.vldmx (wordField w 18 5) (wordField w 13 5) (wordField w 8 5)) (.error .reserved)
  | 0x04 => onPattern w 0xFF800000#32 0xA2000000#32 (.vst (wordField w 18 5) (wordField w 13 5) (wordField w 0 13)) (.error .reserved)
  | 0x05 => onPattern w 0xFF8000FF#32 0xA2800000#32 (.vsts (wordField w 18 5) (wordField w 13 5) (wordField w 8 5)) (.error .reserved)
  | 0x06 => onPattern w 0xFF8000FC#32 0xA3000000#32 (.vstg (wordField w 18 5) (wordField w 13 5) (wordField w 8 5) (wordField w 0 2)) (.error .reserved)
  | 0x08 => onPattern w 0xFF801F80#32 0xA4000000#32 (.vcvt (wordField w 18 5) (wordField w 13 5) (wordField w 4 3) (wordField w 0 4)) (.error .reserved)
  | 0x09 => onPattern w 0xFF801FF8#32 0xA4800000#32 (.vcvtn (wordField w 18 5) (wordField w 13 5) (wordField w 2 1) (wordField w 0 2)) (.error .reserved)
  | 0x0A => onPattern w 0xFFFC00FF#32 0xA5000000#32 (.ldcb (wordField w 13 5) (wordField w 8 5)) (.error .reserved)
  | 0x0B => onPattern w 0xFF80007F#32 0xA5800000#32 (.vperm (wordField w 18 5) (wordField w 13 5) (wordField w 8 5) (wordField w 7 1)) (.error .reserved)
  | 0x0C => onPattern w 0xFF8000FF#32 0xA6000080#32 (.vslideUp (wordField w 18 5) (wordField w 13 5) (wordField w 8 5))
      (onPattern w 0xFF8000FF#32 0xA6000081#32 (.vslideDn (wordField w 18 5) (wordField w 13 5) (wordField w 8 5)) (.error .reserved))
  | 0x0D => onPattern w 0xFF8000FE#32 0xA6800000#32 (.vzip (wordField w 18 5) (wordField w 13 5) (wordField w 8 5) (wordField w 0 1)) (.error .reserved)
  | 0x0E => onPattern w 0xFF8000FE#32 0xA7000000#32 (.vunzip (wordField w 18 5) (wordField w 13 5) (wordField w 8 5) (wordField w 0 1)) (.error .reserved)
  | 0x0F => onPattern w 0xFF801FFF#32 0xA7800000#32 (.vredadd (wordField w 18 5) (wordField w 13 5)) (.error .reserved)
  | 0x10 => onPattern w 0xFF801FFF#32 0xA8000000#32 (.vredmax (wordField w 18 5) (wordField w 13 5)) (.error .reserved)
  | 0x11 => onPattern w 0xFF801FFF#32 0xA8800000#32 (.vredmin (wordField w 18 5) (wordField w 13 5)) (.error .reserved)
  | 0x12 => onPattern w 0xFF8000FF#32 0xA9000000#32 (.vmvx (wordField w 18 5) (wordField w 13 5) (wordField w 8 5)) (.error .reserved)
  | 0x13 => onPattern w 0xFF8000FF#32 0xA9800000#32 (.vins (wordField w 18 5) (wordField w 13 5) (wordField w 8 5)) (.error .reserved)
  | 0x14 => onPattern w 0xFFFF1FFF#32 0xAA000000#32 (.mpush (wordField w 13 3)) (.error .reserved)
  | 0x15 => onPattern w 0xFFFFFFFF#32 0xAA800000#32 .minv (.error .reserved)
  | 0x16 => onPattern w 0xFFFFFFFF#32 0xAB000000#32 .mpop (.error .reserved)
  | 0x17 => onPattern w 0xFFFF18FF#32 0xAB800000#32 (.mstg (wordField w 13 3) (wordField w 8 3)) (.error .reserved)
  | 0x18 => onPattern w 0xFFE01FFF#32 0xAC000000#32 (.kmovKx (wordField w 18 3) (wordField w 13 5))
      (onPattern w 0xFF831FFF#32 0xAC000001#32 (.kmovXk (wordField w 18 5) (wordField w 13 3))
      (onPattern w 0xFFE3FFFF#32 0xAC000002#32 (.kmovKt (wordField w 18 3)) (.error .reserved)))
  | 0x19 => onPattern w 0xFFE318FF#32 0xAC800000#32 (.kopAnd (wordField w 18 3) (wordField w 13 3) (wordField w 8 3))
      (onPattern w 0xFFE318FF#32 0xAC800001#32 (.kopOr (wordField w 18 3) (wordField w 13 3) (wordField w 8 3))
      (onPattern w 0xFFE318FF#32 0xAC800002#32 (.kopXor (wordField w 18 3) (wordField w 13 3) (wordField w 8 3))
      (onPattern w 0xFFE318FF#32 0xAC800003#32 (.kopAndn (wordField w 18 3) (wordField w 13 3) (wordField w 8 3)) (.error .reserved))))
  | 0x1A => onPattern w 0xFF801FF9#32 0xAD000000#32 (.vsclSet (wordField w 18 5) (wordField w 13 5) (wordField w 1 2))
      (onPattern w 0xFF801FFF#32 0xAD000008#32 (.vsclSeta (wordField w 18 5) (wordField w 13 5))
      (onPattern w 0xFF801FF9#32 0xAD000001#32 (.vsclGet (wordField w 18 5) (wordField w 13 5) (wordField w 1 2)) (.error .reserved)))
  | _ => .error .unassigned

/-- The ops of class 6 (R136), before the checks of wellFormed. -/
def decodeClass6 (w : InstrWord) : Except DecodeError Instr :=
  match (wordOp w).toNat with
  | 0x00 => onPattern w 0xFF80001E#32 0xC0000000#32 (.mrow (wordField w 20 3) (wordField w 15 5) (wordField w 10 5) (wordField w 8 2) (wordField w 5 3) (wordField w 0 1)) (.error .reserved)
  | 0x01 => onPattern w 0xFF80001E#32 0xC0800000#32 (.mrowp (wordField w 20 3) (wordField w 15 5) (wordField w 10 5) (wordField w 8 2) (wordField w 5 3) (wordField w 0 1)) (.error .reserved)
  | 0x02 => onPattern w 0xFF80001E#32 0xC1000000#32 (.mrowz (wordField w 20 3) (wordField w 15 5) (wordField w 10 5) (wordField w 8 2) (wordField w 5 3) (wordField w 0 1)) (.error .reserved)
  | 0x03 => onPattern w 0xFF80001E#32 0xC1800000#32 (.mrowzp (wordField w 20 3) (wordField w 15 5) (wordField w 10 5) (wordField w 8 2) (wordField w 5 3) (wordField w 0 1)) (.error .reserved)
  | 0x04 => onPattern w 0xFF8FFFFF#32 0xC2000000#32 (.tzero (wordField w 20 3)) (.error .reserved)
  | 0x05 => onPattern w 0xFF80031F#32 0xC2800000#32 (.tload (wordField w 20 3) (wordField w 15 5) (wordField w 10 5) (wordField w 5 3)) (.error .reserved)
  | 0x06 => onPattern w 0xFF80031F#32 0xC3000000#32 (.tstore (wordField w 20 3) (wordField w 15 5) (wordField w 10 5) (wordField w 5 3)) (.error .reserved)
  | 0x07 => onPattern w 0xFF8003FF#32 0xC3800000#32 (.tmovv (wordField w 20 3) (wordField w 15 5) (wordField w 10 5)) (.error .reserved)
  | 0x08 => onPattern w 0xFF8003FF#32 0xC4000000#32 (.tvmov (wordField w 20 3) (wordField w 15 5) (wordField w 10 5)) (.error .reserved)
  | 0x09 => onPattern w 0xFF807FFF#32 0xC4800000#32 (.tstat (wordField w 20 3) (wordField w 15 5)) (.error .reserved)
  | 0x0A => onPattern w 0xFFF000FF#32 0xC5000000#32 (.trcfg (wordField w 15 5) (wordField w 10 5) (wordField w 8 2)) (.error .reserved)
  | 0x0B => onPattern w 0xFFFFFCFF#32 0xC5800000#32 (.trpop (wordField w 8 2)) (.error .reserved)
  | 0x0C => onPattern w 0xFFF07CFF#32 0xC6000000#32 (.trstat (wordField w 15 5) (wordField w 8 2)) (.error .reserved)
  | 0x10 => onPattern w 0xFFFFFF1F#32 0xC8000000#32 (.fbegin (wordField w 5 3)) (.error .reserved)
  | 0x11 => onPattern w 0xFFF07FFF#32 0xC8800000#32 (.fcol (wordField w 15 5)) (.error .reserved)
  | 0x12 => onPattern w 0xFFF07FFC#32 0xC9000000#32 (.fcoln (wordField w 15 5) (wordField w 0 2)) (.error .reserved)
  | 0x13 => onPattern w 0xFFF07FFC#32 0xC9800000#32 (.ngjoin (wordField w 15 5) (wordField w 0 2)) (.error .reserved)
  | 0x14 => onPattern w 0xFFFFFFFC#32 0xCA000000#32 (.ngleave (wordField w 0 2)) (.error .reserved)
  | 0x15 => onPattern w 0xFFFFFFFF#32 0xCA800000#32 .fend (.error .reserved)
  | 0x16 => onPattern w 0xFF807FFF#32 0xCB000000#32 (.fmaprd (wordField w 20 3) (wordField w 15 5)) (.error .reserved)
  | 0x17 => onPattern w 0xFFF07FFF#32 0xCB800000#32 (.rdph (wordField w 15 5)) (.error .reserved)
  | 0x18 => onPattern w 0xFFF07FFF#32 0xCC000000#32 (.rdgf (wordField w 15 5)) (.error .reserved)
  | 0x19 => onPattern w 0xFF8FFFFF#32 0xCC800000#32 (.tperm (wordField w 20 3)) (.error .reserved)
  | _ => .error .unassigned

/-- The ops of class 7 (R136), before the checks of wellFormed. -/
def decodeClass7 (w : InstrWord) : Except DecodeError Instr :=
  match (wordOp w).toNat with
  | 0x00 => onPattern w 0xFFFC00FC#32 0xE0000000#32 (.cpy (wordField w 13 5) (wordField w 8 5) (wordField w 0 2)) (.error .reserved)
  | 0x01 => onPattern w 0xFFFC00FC#32 0xE0800000#32 (.cpyq (wordField w 13 5) (wordField w 8 5) (wordField w 0 2)) (.error .reserved)
  | 0x02 => onPattern w 0xFF83FFFF#32 0xE1000000#32 (.engstCnt (wordField w 18 5))
      (onPattern w 0xFF83FFFF#32 0xE1000001#32 (.engstFva (wordField w 18 5)) (.error .reserved))
  | 0x03 => onPattern w 0xFFFC00FF#32 0xE1800000#32 (.xsend (wordField w 13 5) (wordField w 8 5)) (.error .reserved)
  | 0x04 => onPattern w 0xFF801FFF#32 0xE2000000#32 (.xsel (wordField w 18 5) (wordField w 13 5)) (.error .reserved)
  | 0x05 => onPattern w 0xFFFFFFFF#32 0xE2800000#32 .xend (.error .reserved)
  | _ => .error .unassigned

/-- The instruction that a word's fields spell (R133 to R137), before the checks of wellFormed. -/
def decodeFields (w : InstrWord) : Except DecodeError Instr :=
  match (wordClass w).toNat with
  | 0 => decodeClass0 w
  | 1 => decodeClass1 w
  | 2 => decodeClass2 w
  | 3 => decodeClass3 w
  | 4 => decodeClass4 w
  | 5 => decodeClass5 w
  | 6 => decodeClass6 w
  | _ => decodeClass7 w

/-- The instruction of a word, or why it is illegal (R137). -/
def decodeWord (w : InstrWord) : Except DecodeError Instr :=
  match decodeFields w with
  | .ok i => if i.wellFormed then .ok i else .error .illFormed
  | .error e => .error e

/-- A word from its four bytes, lowest address first: words are little-endian (R2). -/
def wordOfBytes (b0 b1 b2 b3 : Byte) : InstrWord := b3 ++ b2 ++ b1 ++ b0

/-- The instruction at the head of a list of bytes, with the bytes after it. -/
def decodeBytes : List Byte → Except DecodeError (Instr × List Byte)
  | b0 :: b1 :: b2 :: b3 :: rest =>
    match decodeWord (wordOfBytes b0 b1 b2 b3) with
    | .ok i => .ok (i, rest)
    | .error e => .error e
  | _ => .error .short

/-- The four bytes of a word, lowest address first (R2). -/
def bytesOfWord (w : InstrWord) : List Byte :=
  [w.extractLsb' 0 8, w.extractLsb' 8 8, w.extractLsb' 16 8, w.extractLsb' 24 8]

/-- The instruction the decoder reads from a row's word: every word of the K32 has 32 bits (R133), so a table word of fewer
bits is extended with zeros, laid out as memory holds it and decoded. -/
def decodeTableWord (nbits w : Nat) : Option Instr :=
  match decodeBytes (bytesOfWord (BitVec.ofNat 32 (w % 2 ^ nbits))) with
  | .ok (i, _) => some i
  | .error _ => none

/-- A field placed with its lowest bit at lo. -/
def placeField {n : Nat} (v : BitVec n) (lo : Nat) : InstrWord := v.setWidth 32 <<< lo

/-- The word of an instruction (R133 to R136); events have none. -/
def encode : Instr → Option InstrWord
  | .add d a b => some (0x00000000#32 ||| placeField d 18 ||| placeField a 13 ||| placeField b 8)
  | .sub d a b => some (0x00800000#32 ||| placeField d 18 ||| placeField a 13 ||| placeField b 8)
  | .and d a b => some (0x01000000#32 ||| placeField d 18 ||| placeField a 13 ||| placeField b 8)
  | .or d a b => some (0x01800000#32 ||| placeField d 18 ||| placeField a 13 ||| placeField b 8)
  | .xor d a b => some (0x02000000#32 ||| placeField d 18 ||| placeField a 13 ||| placeField b 8)
  | .sll d a b => some (0x02800000#32 ||| placeField d 18 ||| placeField a 13 ||| placeField b 8)
  | .srl d a b => some (0x03000000#32 ||| placeField d 18 ||| placeField a 13 ||| placeField b 8)
  | .sra d a b => some (0x03800000#32 ||| placeField d 18 ||| placeField a 13 ||| placeField b 8)
  | .slt d a b => some (0x04000000#32 ||| placeField d 18 ||| placeField a 13 ||| placeField b 8)
  | .sltu d a b => some (0x04800000#32 ||| placeField d 18 ||| placeField a 13 ||| placeField b 8)
  | .min d a b => some (0x05000000#32 ||| placeField d 18 ||| placeField a 13 ||| placeField b 8)
  | .max d a b => some (0x05800000#32 ||| placeField d 18 ||| placeField a 13 ||| placeField b 8)
  | .minu d a b => some (0x06000000#32 ||| placeField d 18 ||| placeField a 13 ||| placeField b 8)
  | .maxu d a b => some (0x06800000#32 ||| placeField d 18 ||| placeField a 13 ||| placeField b 8)
  | .mul d a b => some (0x07000000#32 ||| placeField d 18 ||| placeField a 13 ||| placeField b 8)
  | .mulh d a b => some (0x07800000#32 ||| placeField d 18 ||| placeField a 13 ||| placeField b 8)
  | .mulhu d a b => some (0x08000000#32 ||| placeField d 18 ||| placeField a 13 ||| placeField b 8)
  | .div d a b => some (0x08800000#32 ||| placeField d 18 ||| placeField a 13 ||| placeField b 8)
  | .divu d a b => some (0x09000000#32 ||| placeField d 18 ||| placeField a 13 ||| placeField b 8)
  | .rem d a b => some (0x09800000#32 ||| placeField d 18 ||| placeField a 13 ||| placeField b 8)
  | .remu d a b => some (0x0A000000#32 ||| placeField d 18 ||| placeField a 13 ||| placeField b 8)
  | .bitClz d a => some (0x0A800000#32 ||| placeField d 18 ||| placeField a 13)
  | .bitCtz d a => some (0x0A800001#32 ||| placeField d 18 ||| placeField a 13)
  | .bitPopc d a => some (0x0A800002#32 ||| placeField d 18 ||| placeField a 13)
  | .bitBrev d a => some (0x0A800003#32 ||| placeField d 18 ||| placeField a 13)
  | .addi d a i => some (0x0C000000#32 ||| placeField d 18 ||| placeField a 13 ||| placeField i 0)
  | .andi d a i => some (0x0C800000#32 ||| placeField d 18 ||| placeField a 13 ||| placeField i 0)
  | .ori d a i => some (0x0D000000#32 ||| placeField d 18 ||| placeField a 13 ||| placeField i 0)
  | .xori d a i => some (0x0D800000#32 ||| placeField d 18 ||| placeField a 13 ||| placeField i 0)
  | .slli d a i => some (0x0E000000#32 ||| placeField d 18 ||| placeField a 13 ||| placeField i 0)
  | .srli d a i => some (0x0E800000#32 ||| placeField d 18 ||| placeField a 13 ||| placeField i 0)
  | .srai d a i => some (0x0F000000#32 ||| placeField d 18 ||| placeField a 13 ||| placeField i 0)
  | .slti d a i => some (0x0F800000#32 ||| placeField d 18 ||| placeField a 13 ||| placeField i 0)
  | .sltiu d a i => some (0x10000000#32 ||| placeField d 18 ||| placeField a 13 ||| placeField i 0)
  | .lui d i => some (0x10800000#32 ||| placeField d 18 ||| placeField i 0)
  | .auipc d i => some (0x11000000#32 ||| placeField d 18 ||| placeField i 0)
  | .shor d i => some (0x11800000#32 ||| placeField d 18 ||| placeField i 0)
  | .fadd d a b => some (0x14000000#32 ||| placeField d 18 ||| placeField a 13 ||| placeField b 8)
  | .fsub d a b => some (0x14800000#32 ||| placeField d 18 ||| placeField a 13 ||| placeField b 8)
  | .fmul d a b => some (0x15000000#32 ||| placeField d 18 ||| placeField a 13 ||| placeField b 8)
  | .fdiv d a b => some (0x15800000#32 ||| placeField d 18 ||| placeField a 13 ||| placeField b 8)
  | .fma d a b => some (0x16000000#32 ||| placeField d 18 ||| placeField a 13 ||| placeField b 8)
  | .fsqrt d a => some (0x16800000#32 ||| placeField d 18 ||| placeField a 13)
  | .fmin d a b => some (0x17000000#32 ||| placeField d 18 ||| placeField a 13 ||| placeField b 8)
  | .fmax d a b => some (0x17800000#32 ||| placeField d 18 ||| placeField a 13 ||| placeField b 8)
  | .fcmpEq d a b => some (0x18000000#32 ||| placeField d 18 ||| placeField a 13 ||| placeField b 8)
  | .fcmpLt d a b => some (0x18000001#32 ||| placeField d 18 ||| placeField a 13 ||| placeField b 8)
  | .fcmpLe d a b => some (0x18000002#32 ||| placeField d 18 ||| placeField a 13 ||| placeField b 8)
  | .fcvtI64f d a => some (0x18800000#32 ||| placeField d 18 ||| placeField a 13)
  | .fcvtFi64 d a => some (0x18800001#32 ||| placeField d 18 ||| placeField a 13)
  | .fcvtF16f d a => some (0x18800002#32 ||| placeField d 18 ||| placeField a 13)
  | .fcvtFf16 d a => some (0x18800003#32 ||| placeField d 18 ||| placeField a 13)
  | .fcvtB16f d a => some (0x18800004#32 ||| placeField d 18 ||| placeField a 13)
  | .fcvtFb16 d a => some (0x18800005#32 ||| placeField d 18 ||| placeField a 13)
  | .fcvtS20f d a => some (0x18800006#32 ||| placeField d 18 ||| placeField a 13)
  | .fcvtFs20 d a => some (0x18800007#32 ||| placeField d 18 ||| placeField a 13)
  | .lb d a i => some (0x20000000#32 ||| placeField d 18 ||| placeField a 13 ||| placeField i 0)
  | .lbu d a i => some (0x20800000#32 ||| placeField d 18 ||| placeField a 13 ||| placeField i 0)
  | .lh d a i => some (0x21000000#32 ||| placeField d 18 ||| placeField a 13 ||| placeField i 0)
  | .lhu d a i => some (0x21800000#32 ||| placeField d 18 ||| placeField a 13 ||| placeField i 0)
  | .lw d a i => some (0x22000000#32 ||| placeField d 18 ||| placeField a 13 ||| placeField i 0)
  | .lwu d a i => some (0x22800000#32 ||| placeField d 18 ||| placeField a 13 ||| placeField i 0)
  | .ld d a i => some (0x23000000#32 ||| placeField d 18 ||| placeField a 13 ||| placeField i 0)
  | .sb d a i => some (0x24000000#32 ||| placeField d 18 ||| placeField a 13 ||| placeField i 0)
  | .sh d a i => some (0x24800000#32 ||| placeField d 18 ||| placeField a 13 ||| placeField i 0)
  | .sw d a i => some (0x25000000#32 ||| placeField d 18 ||| placeField a 13 ||| placeField i 0)
  | .sd d a i => some (0x25800000#32 ||| placeField d 18 ||| placeField a 13 ||| placeField i 0)
  | .pref h a i => some (0x26000000#32 ||| placeField h 18 ||| placeField a 13 ||| placeField i 0)
  | .cboWb a => some (0x26800000#32 ||| placeField a 13)
  | .cboWbinv a => some (0x26800001#32 ||| placeField a 13)
  | .cboInv a => some (0x26800002#32 ||| placeField a 13)
  | .fld x n s => some (0x28000000#32 ||| placeField x 18 ||| placeField n 15 ||| placeField s 5)
  | .fst x n s => some (0x28800000#32 ||| placeField x 18 ||| placeField n 15 ||| placeField s 5)
  | .fadr x n s => some (0x29000000#32 ||| placeField x 18 ||| placeField n 15 ||| placeField s 5)
  | .facc x n s f => some (0x29800000#32 ||| placeField x 18 ||| placeField n 15 ||| placeField s 5 ||| placeField f 0)
  | .fenter d a p s => some (0x2A000000#32 ||| placeField d 18 ||| placeField a 13 ||| placeField p 2 ||| placeField s 0)
  | .fleave => some (0x2A800000#32)
  | .dspr d n => some (0x2B000000#32 ||| placeField d 18 ||| placeField n 0)
  | .ffold a b f => some (0x2B800000#32 ||| placeField a 13 ||| placeField b 8 ||| placeField f 0)
  | .fpol p => some (0x2C000000#32 ||| placeField p 0)
  | .beq a b o => some (0x40000000#32 ||| placeField a 18 ||| placeField b 13 ||| placeField o 0)
  | .bne a b o => some (0x40800000#32 ||| placeField a 18 ||| placeField b 13 ||| placeField o 0)
  | .blt a b o => some (0x41000000#32 ||| placeField a 18 ||| placeField b 13 ||| placeField o 0)
  | .bge a b o => some (0x41800000#32 ||| placeField a 18 ||| placeField b 13 ||| placeField o 0)
  | .bltu a b o => some (0x42000000#32 ||| placeField a 18 ||| placeField b 13 ||| placeField o 0)
  | .bgeu a b o => some (0x42800000#32 ||| placeField a 18 ||| placeField b 13 ||| placeField o 0)
  | .jal d i => some (0x43000000#32 ||| placeField d 18 ||| placeField i 0)
  | .jalr d a i => some (0x43800000#32 ||| placeField d 18 ||| placeField a 13 ||| placeField i 0)
  | .loop n a l => some (0x44000000#32 ||| placeField n 18 ||| placeField a 13 ||| placeField l 0)
  | .loopt n m l => some (0x44800000#32 ||| placeField n 18 ||| placeField m 13 ||| placeField l 0)
  | .loops n a s l => some (0x45000000#32 ||| placeField n 18 ||| placeField a 13 ||| placeField s 10 ||| placeField l 0)
  | .lbrk n => some (0x45800000#32 ||| placeField n 18)
  | .bmz o => some (0x46000000#32 ||| placeField o 0)
  | .bmnz o => some (0x46800000#32 ||| placeField o 0)
  | .gate g => some (0x47000000#32 ||| placeField g 0)
  | .gret => some (0x47800000#32)
  | .fork a b o => some (0x48000000#32 ||| placeField a 18 ||| placeField b 13 ||| placeField o 0)
  | .join => some (0x48800000#32)
  | .endStrand => some (0x49000000#32)
  | .bst s n o => some (0x49800000#32 ||| placeField s 18 ||| placeField n 13 ||| placeField o 0)
  | .acq a s => some (0x60000000#32 ||| placeField a 13 ||| placeField s 0)
  | .rel a s => some (0x60800000#32 ||| placeField a 13 ||| placeField s 0)
  | .fenceRange a b => some (0x61800000#32 ||| placeField a 13 ||| placeField b 8)
  | .fenceRemote => some (0x61800001#32)
  | .fenceAll => some (0x61800002#32)
  | .svld d a l c s => some (0x62000000#32 ||| placeField d 18 ||| placeField a 13 ||| placeField l 3 ||| placeField c 2 ||| placeField s 0)
  | .svst a b l c s => some (0x62800000#32 ||| placeField a 13 ||| placeField b 8 ||| placeField l 3 ||| placeField c 2 ||| placeField s 0)
  | .svadd d a b u l c s => some (0x63000000#32 ||| placeField d 18 ||| placeField a 13 ||| placeField b 8 ||| placeField u 4 ||| placeField l 3 ||| placeField c 2 ||| placeField s 0)
  | .svmax d a b u l c s => some (0x63800000#32 ||| placeField d 18 ||| placeField a 13 ||| placeField b 8 ||| placeField u 4 ||| placeField l 3 ||| placeField c 2 ||| placeField s 0)
  | .svmin d a b u l c s => some (0x64000000#32 ||| placeField d 18 ||| placeField a 13 ||| placeField b 8 ||| placeField u 4 ||| placeField l 3 ||| placeField c 2 ||| placeField s 0)
  | .svand d a b l c s => some (0x64800000#32 ||| placeField d 18 ||| placeField a 13 ||| placeField b 8 ||| placeField l 3 ||| placeField c 2 ||| placeField s 0)
  | .svor d a b l c s => some (0x65000000#32 ||| placeField d 18 ||| placeField a 13 ||| placeField b 8 ||| placeField l 3 ||| placeField c 2 ||| placeField s 0)
  | .svswap d a b l c s => some (0x65800000#32 ||| placeField d 18 ||| placeField a 13 ||| placeField b 8 ||| placeField l 3 ||| placeField c 2 ||| placeField s 0)
  | .svcas d a b l c s => some (0x66000000#32 ||| placeField d 18 ||| placeField a 13 ||| placeField b 8 ||| placeField l 3 ||| placeField c 2 ||| placeField s 0)
  | .svwait d a b u l c s => some (0x66800000#32 ||| placeField d 18 ||| placeField a 13 ||| placeField b 8 ||| placeField u 4 ||| placeField l 3 ||| placeField c 2 ||| placeField s 0)
  | .svlock a s => some (0x67000000#32 ||| placeField a 13 ||| placeField s 0)
  | .svunlock a s => some (0x67800000#32 ||| placeField a 13 ||| placeField s 0)
  | .barCluster => some (0x68000000#32)
  | .barDie => some (0x68000001#32)
  | .barLaunch => some (0x68000002#32)
  | .sstep => some (0x68800000#32)
  | .trig => some (0x69800000#32)
  | .launch d a => some (0x6A000000#32 ||| placeField d 18 ||| placeField a 13)
  | .lidx d m => some (0x6A800000#32 ||| placeField d 18 ||| placeField m 0)
  | .inboxWait d v => some (0x6B000000#32 ||| placeField d 18 ||| placeField v 1)
  | .inboxPoll d v => some (0x6B000001#32 ||| placeField d 18 ||| placeField v 1)
  | .csrr d c => some (0x6B800000#32 ||| placeField d 18 ||| placeField c 0)
  | .csrw d a c => some (0x6C000000#32 ||| placeField d 18 ||| placeField a 13 ||| placeField c 0)
  | .csrs d a c => some (0x6C800000#32 ||| placeField d 18 ||| placeField a 13 ||| placeField c 0)
  | .csrc d a c => some (0x6D000000#32 ||| placeField d 18 ||| placeField a 13 ||| placeField c 0)
  | .tret => some (0x6D800000#32)
  | .bkpt => some (0x6E000000#32)
  | .nprb => some (0x6E800000#32)
  | .npre => some (0x6F000000#32)
  | .setm i => some (0x6F800000#32 ||| placeField i 0)
  | .contain a => some (0x70000000#32 ||| placeField a 13)
  | .wfi => some (0x70800000#32)
  | .vadd d a b x => some (0x80000000#32 ||| placeField d 18 ||| placeField a 13 ||| placeField b 8 ||| placeField x 7)
  | .vsub d a b x => some (0x80800000#32 ||| placeField d 18 ||| placeField a 13 ||| placeField b 8 ||| placeField x 7)
  | .vmul d a b x => some (0x81000000#32 ||| placeField d 18 ||| placeField a 13 ||| placeField b 8 ||| placeField x 7)
  | .vfma d a b x => some (0x81800000#32 ||| placeField d 18 ||| placeField a 13 ||| placeField b 8 ||| placeField x 7)
  | .vfms d a b x => some (0x82000000#32 ||| placeField d 18 ||| placeField a 13 ||| placeField b 8 ||| placeField x 7)
  | .vfnma d a b x => some (0x82800000#32 ||| placeField d 18 ||| placeField a 13 ||| placeField b 8 ||| placeField x 7)
  | .vmin d a b x => some (0x83000000#32 ||| placeField d 18 ||| placeField a 13 ||| placeField b 8 ||| placeField x 7)
  | .vmax d a b x => some (0x83800000#32 ||| placeField d 18 ||| placeField a 13 ||| placeField b 8 ||| placeField x 7)
  | .vabs d a => some (0x84000000#32 ||| placeField d 18 ||| placeField a 13)
  | .vneg d a => some (0x84800000#32 ||| placeField d 18 ||| placeField a 13)
  | .vdiv d a b x => some (0x85000000#32 ||| placeField d 18 ||| placeField a 13 ||| placeField b 8 ||| placeField x 7)
  | .vsqrt d a => some (0x85800000#32 ||| placeField d 18 ||| placeField a 13)
  | .vrcp d a => some (0x86000000#32 ||| placeField d 18 ||| placeField a 13)
  | .vrsq d a => some (0x86800000#32 ||| placeField d 18 ||| placeField a 13)
  | .vexp2 d a => some (0x87000000#32 ||| placeField d 18 ||| placeField a 13)
  | .vlog2 d a => some (0x87800000#32 ||| placeField d 18 ||| placeField a 13)
  | .vand d a b x => some (0x88000000#32 ||| placeField d 18 ||| placeField a 13 ||| placeField b 8 ||| placeField x 7)
  | .vor d a b x => some (0x88800000#32 ||| placeField d 18 ||| placeField a 13 ||| placeField b 8 ||| placeField x 7)
  | .vxor d a b x => some (0x89000000#32 ||| placeField d 18 ||| placeField a 13 ||| placeField b 8 ||| placeField x 7)
  | .vsll d a b x => some (0x89800000#32 ||| placeField d 18 ||| placeField a 13 ||| placeField b 8 ||| placeField x 7)
  | .vsrl d a b x => some (0x8A000000#32 ||| placeField d 18 ||| placeField a 13 ||| placeField b 8 ||| placeField x 7)
  | .vsra d a b x => some (0x8A800000#32 ||| placeField d 18 ||| placeField a 13 ||| placeField b 8 ||| placeField x 7)
  | .vcmp d a b x c => some (0x8B000000#32 ||| placeField d 18 ||| placeField a 13 ||| placeField b 8 ||| placeField x 7 ||| placeField c 0)
  | .vsel d a b x k => some (0x8B800000#32 ||| placeField d 18 ||| placeField a 13 ||| placeField b 8 ||| placeField x 7 ||| placeField k 0)
  | .vmov d a => some (0x8C000000#32 ||| placeField d 18 ||| placeField a 13)
  | .vbc d a => some (0x8C800000#32 ||| placeField d 18 ||| placeField a 13)
  | .viota d => some (0x8D000000#32 ||| placeField d 18)
  | .vmulh d a b x => some (0x8D800000#32 ||| placeField d 18 ||| placeField a 13 ||| placeField b 8 ||| placeField x 7)
  | .vclamp d a b x => some (0x8E000000#32 ||| placeField d 18 ||| placeField a 13 ||| placeField b 8 ||| placeField x 7)
  | .vld d a i => some (0xA0000000#32 ||| placeField d 18 ||| placeField a 13 ||| placeField i 0)
  | .vlds d a b => some (0xA0800000#32 ||| placeField d 18 ||| placeField a 13 ||| placeField b 8)
  | .vldg d a b n => some (0xA1000000#32 ||| placeField d 18 ||| placeField a 13 ||| placeField b 8 ||| placeField n 0)
  | .vldmx d a b => some (0xA1800000#32 ||| placeField d 18 ||| placeField a 13 ||| placeField b 8)
  | .vst d a i => some (0xA2000000#32 ||| placeField d 18 ||| placeField a 13 ||| placeField i 0)
  | .vsts d a b => some (0xA2800000#32 ||| placeField d 18 ||| placeField a 13 ||| placeField b 8)
  | .vstg d a b n => some (0xA3000000#32 ||| placeField d 18 ||| placeField a 13 ||| placeField b 8 ||| placeField n 0)
  | .vcvt d a p s => some (0xA4000000#32 ||| placeField d 18 ||| placeField a 13 ||| placeField p 4 ||| placeField s 0)
  | .vcvtn d a h f => some (0xA4800000#32 ||| placeField d 18 ||| placeField a 13 ||| placeField h 2 ||| placeField f 0)
  | .ldcb a b => some (0xA5000000#32 ||| placeField a 13 ||| placeField b 8)
  | .vperm d a b x => some (0xA5800000#32 ||| placeField d 18 ||| placeField a 13 ||| placeField b 8 ||| placeField x 7)
  | .vslideUp d a b => some (0xA6000080#32 ||| placeField d 18 ||| placeField a 13 ||| placeField b 8)
  | .vslideDn d a b => some (0xA6000081#32 ||| placeField d 18 ||| placeField a 13 ||| placeField b 8)
  | .vzip d a b h => some (0xA6800000#32 ||| placeField d 18 ||| placeField a 13 ||| placeField b 8 ||| placeField h 0)
  | .vunzip d a b h => some (0xA7000000#32 ||| placeField d 18 ||| placeField a 13 ||| placeField b 8 ||| placeField h 0)
  | .vredadd d a => some (0xA7800000#32 ||| placeField d 18 ||| placeField a 13)
  | .vredmax d a => some (0xA8000000#32 ||| placeField d 18 ||| placeField a 13)
  | .vredmin d a => some (0xA8800000#32 ||| placeField d 18 ||| placeField a 13)
  | .vmvx d a b => some (0xA9000000#32 ||| placeField d 18 ||| placeField a 13 ||| placeField b 8)
  | .vins d a b => some (0xA9800000#32 ||| placeField d 18 ||| placeField a 13 ||| placeField b 8)
  | .mpush a => some (0xAA000000#32 ||| placeField a 13)
  | .minv => some (0xAA800000#32)
  | .mpop => some (0xAB000000#32)
  | .mstg s n => some (0xAB800000#32 ||| placeField s 13 ||| placeField n 8)
  | .kmovKx d a => some (0xAC000000#32 ||| placeField d 18 ||| placeField a 13)
  | .kmovXk d a => some (0xAC000001#32 ||| placeField d 18 ||| placeField a 13)
  | .kmovKt d => some (0xAC000002#32 ||| placeField d 18)
  | .kopAnd d a b => some (0xAC800000#32 ||| placeField d 18 ||| placeField a 13 ||| placeField b 8)
  | .kopOr d a b => some (0xAC800001#32 ||| placeField d 18 ||| placeField a 13 ||| placeField b 8)
  | .kopXor d a b => some (0xAC800002#32 ||| placeField d 18 ||| placeField a 13 ||| placeField b 8)
  | .kopAndn d a b => some (0xAC800003#32 ||| placeField d 18 ||| placeField a 13 ||| placeField b 8)
  | .vsclSet d a j => some (0xAD000000#32 ||| placeField d 18 ||| placeField a 13 ||| placeField j 1)
  | .vsclSeta d a => some (0xAD000008#32 ||| placeField d 18 ||| placeField a 13)
  | .vsclGet d a j => some (0xAD000001#32 ||| placeField d 18 ||| placeField a 13 ||| placeField j 1)
  | .mrow t x v q k r => some (0xC0000000#32 ||| placeField t 20 ||| placeField x 15 ||| placeField v 10 ||| placeField q 8 ||| placeField k 5 ||| placeField r 0)
  | .mrowp t x v q k r => some (0xC0800000#32 ||| placeField t 20 ||| placeField x 15 ||| placeField v 10 ||| placeField q 8 ||| placeField k 5 ||| placeField r 0)
  | .mrowz t x v q k r => some (0xC1000000#32 ||| placeField t 20 ||| placeField x 15 ||| placeField v 10 ||| placeField q 8 ||| placeField k 5 ||| placeField r 0)
  | .mrowzp t x v q k r => some (0xC1800000#32 ||| placeField t 20 ||| placeField x 15 ||| placeField v 10 ||| placeField q 8 ||| placeField k 5 ||| placeField r 0)
  | .tzero t => some (0xC2000000#32 ||| placeField t 20)
  | .tload t x v k => some (0xC2800000#32 ||| placeField t 20 ||| placeField x 15 ||| placeField v 10 ||| placeField k 5)
  | .tstore t x v k => some (0xC3000000#32 ||| placeField t 20 ||| placeField x 15 ||| placeField v 10 ||| placeField k 5)
  | .tmovv t x v => some (0xC3800000#32 ||| placeField t 20 ||| placeField x 15 ||| placeField v 10)
  | .tvmov t x v => some (0xC4000000#32 ||| placeField t 20 ||| placeField x 15 ||| placeField v 10)
  | .tstat t x => some (0xC4800000#32 ||| placeField t 20 ||| placeField x 15)
  | .trcfg x v q => some (0xC5000000#32 ||| placeField x 15 ||| placeField v 10 ||| placeField q 8)
  | .trpop q => some (0xC5800000#32 ||| placeField q 8)
  | .trstat x q => some (0xC6000000#32 ||| placeField x 15 ||| placeField q 8)
  | .fbegin k => some (0xC8000000#32 ||| placeField k 5)
  | .fcol x => some (0xC8800000#32 ||| placeField x 15)
  | .fcoln x g => some (0xC9000000#32 ||| placeField x 15 ||| placeField g 0)
  | .ngjoin x g => some (0xC9800000#32 ||| placeField x 15 ||| placeField g 0)
  | .ngleave g => some (0xCA000000#32 ||| placeField g 0)
  | .fend => some (0xCA800000#32)
  | .fmaprd t x => some (0xCB000000#32 ||| placeField t 20 ||| placeField x 15)
  | .rdph x => some (0xCB800000#32 ||| placeField x 15)
  | .rdgf x => some (0xCC000000#32 ||| placeField x 15)
  | .tperm t => some (0xCC800000#32 ||| placeField t 20)
  | .cpy a b s => some (0xE0000000#32 ||| placeField a 13 ||| placeField b 8 ||| placeField s 0)
  | .cpyq a b s => some (0xE0800000#32 ||| placeField a 13 ||| placeField b 8 ||| placeField s 0)
  | .engstCnt d => some (0xE1000000#32 ||| placeField d 18)
  | .engstFva d => some (0xE1000001#32 ||| placeField d 18)
  | .xsend a b => some (0xE1800000#32 ||| placeField a 13 ||| placeField b 8)
  | .xsel d a => some (0xE2000000#32 ||| placeField d 18 ||| placeField a 13)
  | .xend => some (0xE2800000#32)
  | .joinWake => none
  | .svwaitWake _ => none
  | .barrierComplete _ _ => none
  | .inboxWake => none
  | .wfiWake => none
  | .earlyLoadDeferred => none
  | .matrixCommit => none
  | .negotiationRound _ _ => none
  | .storeBufferLeave => none
  | .remoteReply => none
  | .lateRefusal => none
  | .queuedTrap => none
  | .interruptTake => none
  | .timeCompare => none
  | .killUnwind => none
  | .steal => none
  | .pageWalk _ _ => none
  | .pageService _ _ _ => none
  | .copyOnWrite _ _ _ => none
  | .tlbInvalidation _ => none
  | .copyCommandRun _ => none
  | .cpyqReserve _ _ => none
  | .copyComplete _ => none
  | .exchangeArrival => none
  | .doorbell _ _ _ => none
  | .qovfClear _ _ => none
  | .headCheck _ _ => none
  | .dependenceTest _ => none
  | .chooseLaunch _ => none
  | .clusterTakeLaunch _ _ => none
  | .strandStart _ => none
  | .counterReport _ _ => none
  | .sliceEnd _ => none
  | .gangSwitchOut _ => none
  | .gangSwitchIn _ _ _ => none
  | .nprOverrun => none
  | .packetHop _ => none
  | .packetDeliver _ => none
  | .uncorrectableError _ _ => none
  | .powerOn => none
  | .moduleWarmReset => none
  | .mbstatDoneClear => none
  | .foldnew _ _ => none
  | .folddel _ _ => none
  | .foldreset _ _ => none
  | .foldsetFoldmode _ _ _ => none
  | .foldsetPolicy _ _ _ => none
  | .foldsetCodeKey _ _ _ => none
  | .foldsetWatchdogTimes _ _ _ => none
  | .vfset _ _ => none
  | .vfdel _ _ => none
  | .rct _ _ _ => none
  | .handleExport _ _ => none
  | .handleInstall _ _ => none
  | .handleRevoke _ _ => none
  | .snapshot _ _ => none
  | .migrate _ _ _ _ _ _ => none
  | .stage _ _ => none
  | .droverSwap => none
  | .commit _ _ => none
  | .identity _ => none
  | .quote _ _ => none
  | .telemetry _ _ => none
  | .raslog _ _ => none
  | .load _ _ _ => none
  | .keyadd _ _ _ => none
  | .keydel _ _ => none
  | .pgdone _ _ _ _ => none
  | .cowdone _ _ _ => none
  | .nextvf _ _ => none
  | .start _ _ => none
  | .refuse _ _ _ => none
  | .placego _ _ _ _ => none
  | .containact _ _ _ => none
  | .d2hheadWrite _ _ => none
  | .drvbeatWrite _ _ => none
  | .watchdogStage _ => none
  | .registerWrite _ _ => none
  | .unitIssue _ => none
  | .illegalInstruction _ => none
  | .droverMessage _ _ => none
  | .exchangeSend => none
  | .softError _ => none
  | .parityError _ => none
  | .prefFill => none
  | .hostAccess _ _ _ => none
  | .unknownCode _ => none

/-- The word of an instruction, 0 for an event: what cause 2 reports in TVAL (R154). -/
def encodeOr0 (i : Instr) : InstrWord := (encode i).getD 0#32

end Sys2Proof
end

