-- ==== Sys2Proof/Machine/State.lean ====
section
/-!
DEFINITION. Machine/State.lean: everything the spec gives the machine, as plain data, with the reasons a step can stop and
the state right after reset. INVENTORY.md lists each field with its rule and its reset value.
-/

namespace Sys2Proof.Machine

/-- A scope code: 0 CLUSTER, 1 DIE, 2 DEVICE, 3 SYSTEM (R354). -/
abbrev Scope := BitVec 2

/-- Why the machine stops with a fault. -/
inductive Fault where
  /-- Raised by no meaning: every condition that the spec calls a fault enters a handler or containment, which are next
  states. It stands here because the interface asks for a fault type. Safe. -/
  | machineCheck
  deriving DecidableEq, Repr

/-- Why a step is refused. -/
inductive Refusal where
  /-- Raised by the dispatch of an instruction that has no meaning yet. Safe. -/
  | notModelled (mnemonic : String)
  /-- Raised by the meaning of an event when the state does not meet the conditions under which the rules let the event
  occur: the device takes no such step there. Safe. -/
  | notDue (event : String)
  deriving DecidableEq, Repr

/-! ## The core -/

/-- What a core holds (R214). -/
inductive Occupancy where
  | idle | strand | task
  deriving DecidableEq, Repr

/-- The state of one loop-unit level (R185). count is the N fixed at setup. -/
structure LoopLevel where
  act : Bool
  start : Word
  stop : Word
  lc : Word
  count : Word
  stages : Nat
  bind : Option (BitVec 3)
  lvl : BitVec 2
  stg : Byte
  deriving DecidableEq, Repr

/-- A frame in a core's TCM that has not retired: its offset, its end, and its live template (R200, R201). -/
structure FrameRec where
  off : Nat
  fin : Nat
  live : Word
  deriving DecidableEq, Repr

/-- The scalar side of a strand. frames lists the frames in this TCM that have not retired; FTOP is the end of the highest
(R200). -/
structure Regs where
  pc : Word
  x : Vector Word 32
  d : Vector Word 8
  shadow : Vector Word 8
  depth : Nat
  frames : List FrameRec
  level : BitVec 2
  mode : BitVec 18
  fflags : BitVec 6
  srseed : Word
  lanedone : Word
  tau : Acc
  gflim : Acc
  loops : Vector LoopLevel 6
  cycleBase : Word
  instret : Word
  deriving DecidableEq, Repr

/-- The gate and trap CSRs (R150 to R153, R194, R418). STATUS and GSTATUS are kept by their fields. -/
structure TrapRegs where
  gPlv : BitVec 2
  gAct : Bool
  gMpush : Bool
  gIndex : Byte
  gepc : Word
  gtbase : Word
  gtsize : BitVec 9
  plv : BitVec 2
  ie : Bool
  pie : Bool
  inh : Bool
  ien : BitVec 4
  tvec : Word
  epc : Word
  cause : Word
  tval : Word
  scratch : Word
  nprlim : BitVec 32
  emode : BitVec 18
  emaskd : BitVec 5
  tcmp : Word
  deriving DecidableEq, Repr

/-- What a trap or a containment carries (R154). -/
structure Trap where
  code : Nat
  tval : Word
  deriving DecidableEq, Repr

/-- Where an access lands once translated (R292, R295): a global byte with the leaf it came through and that leaf's PA, a
byte of a peer window at its owner (R124), or a bank. -/
inductive Loc where
  | glob (key : Nat) (pte : Word) (ptePa : Nat)
  | peer (key : Nat) (pte : Word) (ptePa : Nat)
  | bank (key : Nat)
  deriving DecidableEq, Repr

/-- What a queued instruction that has run ahead of an older one replaced, for a Rollback (R169, R170). -/
inductive Replaced where
  | v (r : Nat) (old : VWord) (scales : Vector Scale 4)
  | k (n : Nat) (old : Word)
  | masks (old : List Word)
  | codebook (old : Vector Byte 16)
  | seed (old : Word)
  deriving DecidableEq, Repr

/-- What a queued instruction that has run ahead of an older one holds until it completes in its place (R162, R235, R244): its flags,
its pending x result, the fault it will raise, and what it replaced. -/
structure Ahead where
  flags : BitVec 6
  x : Option (Reg × Word)
  fault : Option Trap
  old : List Replaced
  deriving DecidableEq, Repr

/-- A queued instruction with what it captured at enqueue (R161, R287, R305, R338): ldqSeq and sdqSeq name the early load and the push
that are assigned to it (R250, R251), ring is the ring of its trough (R332), and instretAt is INSTRET as it stands once every older
instruction has completed and no younger one has issued (R153). ahead says that it has run and waits to complete (R244). -/
structure QEntry where
  seq : Nat
  instr : Instr
  pc : Word
  mode : BitVec 18
  xs : List (Reg × Word)
  stgv : Word
  lanedone : Word
  tau : Acc
  gflim : Acc
  level : BitVec 2
  uBefore : Nat
  pBefore : Nat
  ldqSeq : Option Nat
  sdqSeq : Option Nat
  ring : Nat × Nat
  instretAt : Word
  ahead : Option Ahead
  deriving DecidableEq, Repr

/-- One item of the undo log with its old value (R166). -/
inductive UndoItem where
  | xreg (r : Reg) (old : Word)
  | loopLevel (n : Nat) (old : LoopLevel)
  | srseed (old : Word)
  | flagsOnly
  | frame (depth : Nat) (d : Vector Word 8) (shadow : Vector Word 8) (added : Option Nat)
  | mode (old : BitVec 18)
  deriving DecidableEq, Repr

/-- An undo entry: after names how many enqueues preceded it, and flags holds the FFLAGS bits that its instruction raised (R166). -/
structure UndoEntry where
  after : Nat
  item : UndoItem
  flags : BitVec 6
  deriving DecidableEq, Repr

/-- What a store-buffer entry does when it leaves (R165, R204, R206, R207, R282). -/
inductive SbOp where
  | store (size : Nat) (data : Word)
  | facc (op : BitVec 3) (v : Word)
  | cbo (fn : BitVec 2)
  | enter (header : Word) (tmpl : Word) (parent : Word) (depth : Nat)
  | leave (header : Word) (tmpl : Word)
  deriving DecidableEq, Repr

/-- A store-buffer entry, with the translation it captured at issue (R165). -/
structure SbEntry where
  after : Nat
  va : Word
  loc : Loc
  op : SbOp
  deriving DecidableEq, Repr

/-- An outstanding remote request (R293). -/
inductive RemoteOp where
  | load (d : Reg) (size : Nat) (signed : Bool)
  | store (size : Nat) (data : Word)
  | facc (op : BitVec 3) (v : Word)
  deriving DecidableEq, Repr

/-- A remote request with its sequence number and target byte (R293). -/
structure RemoteReq where
  seq : BitVec 32
  after : Nat
  key : Nat
  op : RemoteOp
  deriving DecidableEq, Repr

/-- An LDQ entry (R250, R286, R288): fault is one recorded for VCP; deferred says the load pipe still has to perform it; kept says that
a Rollback left it without its load (R254). -/
structure LdqEntry where
  seq : Nat
  data : VWord
  lanes : Word
  fault : Option Trap
  deferred : Bool
  kept : Bool
  deriving DecidableEq, Repr

/-- An SDQ entry (R251). -/
structure SdqEntry where
  seq : Nat
  data : VWord
  deriving DecidableEq, Repr

/-- A late refusal that has arrived (R294): its sequence number, whether INH was 1 then, and how many enqueues preceded the request where
a Rollback takes the request back (R170). -/
structure LateRefusal where
  seq : BitVec 32
  inh : Bool
  after : Nat
  deriving DecidableEq, Repr

/-- The queues of a core. qnext counts enqueues since strand start; U and P are those of R252. pushed holds the lanes that a
lane-addressed push had loaded when it trapped (R286), and retry says after how many enqueues the instruction at RPC issued, while it is
not certain to stand (R427). uses lists the leaves, by PA and value, whose A a load or fetch of the strand will set once the instructions
enqueued before it have completed (R297). -/
structure Queues where
  queue : List QEntry
  qnext : Nat
  undo : List UndoEntry
  sb : List SbEntry
  ldq : List LdqEntry
  sdq : List SdqEntry
  u : Nat
  p : Nat
  remote : List RemoteReq
  rseq : BitVec 32
  late : List LateRefusal
  pushed : VWord
  retry : Option Nat
  uses : List (Nat × Nat × Word)
  deriving DecidableEq, Repr

/-- The vector registers with their scale fields, masks and codebook (R226, R227, R247 to R249, R265). -/
structure VecRegs where
  v : Vector VWord 32
  scales : Vector (Vector Scale 4) 32
  k : Vector Word 8
  masks : List Word
  codebook : Vector Byte 16
  deriving DecidableEq, Repr

/-- A tile register (R317, R335). Element (r, c) is acc[16 r + c]. -/
structure Tile where
  acc : Vector Acc 256
  valid : Bool
  kind : Bool
  dirty : Bool
  fact : Bool
  rowv : BitVec 16
  map : Vector (BitVec 4) 16
  deriving DecidableEq, Repr

/-- The factor set (R335). -/
structure FactorSet where
  isOpen : Bool
  set : BitVec 8
  np : Nat
  done : BitVec 16
  ph : Vector Word 16
  a0 : Acc
  mx : Acc
  g : Acc
  deriving DecidableEq, Repr

/-- A copy in the stationary buffer (R324). -/
structure StatCopy where
  trough : BitVec 2
  slot : Nat
  gen : BitVec 32
  data : List Byte
  deriving DecidableEq, Repr

/-- The matrix engine of a core. stat holds at most two copies, the most recently used first. -/
structure MatRegs where
  tiles : Vector Tile 8
  fset : FactorSet
  stat : List StatCopy
  deriving DecidableEq, Repr

/-- A deque entry (R212). -/
structure DequeEntry where
  target : Word
  parent : Word
  arg : Word
  tmpl : BitVec 14
  idx : Vector Nat 6
  deriving DecidableEq, Repr

/-- A line of the instruction cache, by its key, with its sixteen words (R129). -/
structure ILine where
  fold : Nat
  line : Nat
  words : List (BitVec 32)
  deriving DecidableEq, Repr

/-- A level of a core's path (R355). -/
inductive Level where
  | l1 (p : CorePos)
  | cluster (c : ClusterPos)
  | die (n : Nat)
  | home
  deriving DecidableEq, Repr

/-- What a cached word keeps of the leaf through which it was reached (R117, R118): its REGION, the PLACE and DIE of its home, and its
replacement CLASS. -/
structure Attr where
  region : BitVec 6
  place : Nat
  die : Nat
  cls : BitVec 3
  deriving DecidableEq, Repr

/-- Of a word that was reached through no leaf. -/
def Attr.plain : Attr := { region := 0, place := 0, die := 0, cls := 0 }

/-- The fill that a PREF started: the levels it will reach, its line and what its words will keep of the leaf (R281). -/
structure PrefFill where
  levels : List Level
  key : Nat
  attr : Attr
  deriving DecidableEq, Repr

/-- A gate entry that the core has cached, by its VA (R195). -/
structure GateLine where
  va : Word
  lo : Word
  hi : Word
  deriving DecidableEq, Repr

/-- A copy command's message, with what R311 and R312 need at its dequeue. -/
structure Message where
  value : Word
  isCpy : Bool
  region : List (Nat × Nat)
  failedVa : Word
  deriving DecidableEq, Repr

/-- A queue engine that serves sync variables (R366, R392): of a cluster cache, of a die cache, of a home slice, or the unit of a memory
that no home slice of the module fronts (R125; log 65). -/
inductive Engine where
  | cluster (c : ClusterPos)
  | die (n : Nat)
  | slice (home : Nat) (n : Nat)
  | pool
  deriving DecidableEq, Repr

/-- Why a strand that has issued waits (R218, R393, R395, R396, R399, R400). One that a Kill has unwound waits for its frame to retire, and
one that has ended, retiring, for the reports of the counter tree that its end has brought about (R428, R431, R432). -/
inductive Wait where
  | join
  | svwait (fold : Nat) (pa : Nat) (scope : Scope) (cond : BitVec 2) (cmp : Word) (d : Reg) (acq : Bool)
  | svlock (fold : Nat) (pa : Nat) (scope : Scope)
  | barrier (form : BitVec 2) (superstep : Bool)
  | inbox (d : Reg) (drv : Bool)
  | wfi
  | unwound
  | retiring
  deriving DecidableEq, Repr

/-- The synchronisation side of a core. arrivedStep says that SSTEP made the arrival. trapWaits says that a trap of the strand waits for
older queued instructions (R156). passed is the common cycle C0 of a barrier that completed while the strand was in a handler
or stopped (R396, R403); halted says that the core has stopped for a gang switch and written back (R412). -/
structure SyncRegs where
  npr : Bool
  phase : Option Nat
  triggered : Bool
  arrived : Option (BitVec 2)
  arrivedStep : Bool
  passed : Option Nat
  notice : Bool
  rpc : Word
  rcnt : Nat
  inbox : List Message
  outstanding : Nat
  fva : Word
  drvmsg : Option Word
  deque : List DequeEntry
  wait : Option Wait
  stall : Bool
  trapWaits : Bool
  stopped : Bool
  halted : Bool
  deriving DecidableEq, Repr

/-- A core: the strand or task it holds and its own memories' directories. lid is LAUNCHID; holds is the launch it last
held (R294); idx is the D and C index of each loop entry (R193). -/
structure Core where
  pos : CorePos
  occ : Occupancy
  fold : Nat
  vf : Nat
  lid : Word
  holds : Option Word
  idx : Vector Nat 6
  regs : Regs
  trap : TrapRegs
  q : Queues
  vec : VecRegs
  mat : MatRegs
  sync : SyncRegs
  icache : List ILine
  prefs : List PrefFill
  gates : List GateLine
  deriving DecidableEq, Repr

/-! ## Caches and translation -/

/-- The state of a word at a level; an absent word is Invalid (R358, R359). -/
inductive WordState where
  | valid
  | dirty
  | owned (tag : Scope)
  | held
  | registered (owner : CorePos) (copy : Bool)
  deriving DecidableEq, Repr

/-- A word held at a level. key is fold * 2^52 + pa, a multiple of 4. -/
structure CacheWord where
  level : Level
  key : Nat
  attr : Attr
  state : WordState
  value : BitVec 32
  poison : Bool
  deriving DecidableEq, Repr

/-- A cache whose lines stand in ways (R123, R274): a cluster cache, the die cache of a compute die, or a slice of a home die. -/
inductive WayCache where
  | cluster (c : ClusterPos)
  | die (n : Nat)
  | slice (home : Nat) (n : Nat)
  deriving DecidableEq, Repr

/-- A line that a way of such a cache holds (R123): line is its key over 64; streaming says that a hit leaves its age. -/
structure CacheLine where
  at_ : WayCache
  line : Nat
  way : Nat
  age : Nat
  streaming : Bool
  deriving DecidableEq, Repr

/-- A write-back that has reached a home in the act under way and is not counted yet (R128): the die that sent it, the line's key, and
what the line keeps of its leaf. -/
structure WriteBack where
  die : Nat
  key : Nat
  attr : Attr
  deriving DecidableEq, Repr

/-- Where a translation is held: a core's TLB or a cluster's shared one (R298). -/
inductive TlbHome where
  | core (p : CorePos)
  | cluster (c : ClusterPos)
  deriving DecidableEq, Repr

/-- A TLB entry: the page of log2 size bits that holds va, of VF vf, with its leaf and the PA of the leaf (R297, R298). -/
structure TlbEntry where
  at_ : TlbHome
  vf : Nat
  page : Nat
  bits : Nat
  pte : Word
  ptePa : Nat
  deriving DecidableEq, Repr

/-- A request for service of a page (R299, R300), and the units of the cores whose accesses wait for it. -/
structure PageReq where
  vf : Nat
  page : Nat
  access : Access
  cow : Bool
  refused : Bool
  waiters : List (CorePos × Nat)
  deriving DecidableEq, Repr

/-! ## The cluster -/

/-- A trough (R313). NSLOT 0 is unconfigured. -/
structure Trough where
  base : Nat
  nslot : Nat
  head : Nat
  tail : Nat
  res : Nat
  gens : List (BitVec 32)
  written : List Nat
  deriving DecidableEq, Repr

/-- A copy descriptor as read (R302). -/
structure Descriptor where
  src : Word
  dst : Word
  stype : Nat
  dtype : Nat
  op : Nat
  nlev : Nat
  rnd : Byte
  res0Zero : Bool
  counts : List Nat
  sstr : List Int
  dstr : List Int
  deriving DecidableEq, Repr

/-- A command in a cluster's command queue or on an engine (R306, R316). early is the status of a command that moves nothing;
orphan says that the strand that issued it has gone, so its message is discarded (R428). -/
structure CopyCmd where
  core : CorePos
  lid : Word
  vf : Nat
  fold : Nat
  level : BitVec 2
  scope : Scope
  trough : Option (BitVec 2)
  tag : BitVec 32
  early : Option Nat
  desc : Descriptor
  slot : Option Nat
  index : Nat
  flags : BitVec 6
  region : List (Nat × Nat)
  failedVa : Word
  status : Option Nat
  orphan : Bool
  deriving DecidableEq, Repr

/-- What a member posted for a round, or the winner's row (R349). -/
structure RoundPost where
  core : CorePos
  column : Nat
  cand : Bool
  magnitude : Acc
  tile : Nat
  prow : Nat
  lrow : Nat
  spol : BitVec 2
  tau : Acc
  deriving DecidableEq, Repr

/-- A negotiation group (R347). -/
structure NegGroup where
  count : Nat
  members : List CorePos
  round : Nat
  left : List (CorePos × Nat)
  broken : Bool
  posts : List RoundPost
  deriving DecidableEq, Repr

/-- A cluster. holds is the launch whose state it last held, with its VF (R105, R294). -/
structure Cluster where
  pos : ClusterPos
  split : Nat
  holds : Option (Word × Nat)
  troughs : Vector Trough 4
  cmds : List CopyCmd
  groups : Vector NegGroup 4
  deriving DecidableEq, Repr

/-- A vector on the exchange fabric of a die (R404, R405), with the phase, by its C0, in which it was sent. -/
structure XSend where
  phase : Nat
  die : Nat
  cx : Nat
  cy : Nat
  core : Nat
  lid : Word
  cycle : Nat
  data : VWord
  deriving DecidableEq, Repr

/-- The core of a drover (R453): its x registers, its PC, its privilege mode (3 for M, 1 for S, 0 for U), the standard CSRs that hold
another value than 0, by their numbers, and whether the watchdog's interrupt is pending (R456). -/
structure Drover where
  x : Vector Word 32
  pc : Word
  priv : Nat
  csrs : List (Nat × Word)
  irq : Bool
  deriving DecidableEq, Repr

/-- A compute die. -/
structure Die where
  num : Nat
  fold : Option Nat
  hreql : Word
  hreqr : Word
  drvbeat : Word
  beatAt : Nat
  drvmbox : Word
  drvmode : BitVec 7
  drover : Drover
  deriving DecidableEq, Repr

/-- A parked sync-variable request at its engine, in arrival order (R393, R395), with the fold of its word and the VF of the strand that
made it. attr is what the engine keeps of the leaf. -/
structure Parked where
  engine : Engine
  core : CorePos
  vf : Nat
  fold : Nat
  pa : Nat
  isLock : Bool
  attr : Attr
  deriving DecidableEq, Repr

/-- A held lock and its holder, as the engine records it (R395). -/
structure Lock where
  engine : Engine
  fold : Nat
  pa : Nat
  holder : CorePos
  lid : Word
  deriving DecidableEq, Repr

/-! ## Launches, VFs and folds -/

/-- The launch record as read (R40). -/
structure LaunchRec where
  format : BitVec 16
  nlevels : Byte
  prio : Byte
  flags : Byte
  split : Byte
  entry : Word
  lframe : Word
  image : Word
  compl : Word
  creg : Word
  treg : Word
  tmpl : Vector Word 3
  loops : Vector Word 6
  trough : Vector (BitVec 32) 4
  deps : Vector Word 4
  gtab : Word
  gtcnt : BitVec 16
  res0Zero : Bool
  deriving DecidableEq, Repr

/-- How far a launch is (R90, R92, R93, R433). -/
inductive LaunchPhase where
  | waiting | placing | placed | complete
  deriving DecidableEq, Repr

/-- A launch from its reading to its completion, with the counters of the tree (R112, R432) and the report fields (R434). entered lists
the root and the dies that track it (R106). ending is what its completion record will say, while the record's page is being copied (R117):
STATUS, TSTART and NSTRAND; trigWaits says that STATE := 1 waits so. taken says that the dispatcher has taken it from its ring (R92), atHead
that its entry stays at the head until the record is written (R90), and killWaits names the frames on which a Kill is still to act: the
launch frame's for the copies of its pages, and a cluster's while its VF is switched out (R117, R428). -/
structure Launch where
  lid : Word
  vf : Nat
  fold : Nat
  prio : Nat
  record : LaunchRec
  complPa : Nat
  phase : LaunchPhase
  ready : Bool
  depFault : Bool
  trips : Vector Nat 6
  nd : Nat
  nc : Nat
  mask : Word
  assisted : Bool
  go : List (Nat × Nat)
  waves : List (CorePos × Nat)
  nodes : List (TreeNode × Nat)
  reported : List TreeNode
  trigger : Nat
  tstart : Word
  begun : Bool
  nfault : BitVec 32
  first : Option (Nat × Word × Word)
  killed : Bool
  byWatchdog : Bool
  byVf : Bool
  entered : List TreeNode
  ending : Option (Nat × Word × Nat)
  trigWaits : Bool
  taken : Bool
  atHead : Bool
  killWaits : List TreeNode
  deriving DecidableEq, Repr

/-- A launch that R95 keeps: the key of the record to which it has written STATE, if it has, with its CREG and TREG; done says that it has
completed. -/
structure Finished where
  lid : Word
  compl : Option Nat
  creg : Word
  treg : Word
  done : Bool
  deriving DecidableEq, Repr

/-- A launch queue (R78, R79). -/
structure LQueue where
  base : Word
  log2n : Nat
  head : Nat
  tail : Nat
  enabled : Bool
  deriving DecidableEq, Repr

/-- The input of a router: a mesh link from a neighbour, or a passenger port (R10, R11). -/
inductive MeshInput where
  | fromWest | fromEast | fromNorth | fromSouth | computePort | homePort | ioPort
  deriving DecidableEq, Repr

/-- The output of a router. -/
inductive MeshOutput where
  | toEast | toWest | toSouth | toNorth | computePort | homePort | ioPort
  deriving DecidableEq, Repr

/-- Where a packet stands: at its passenger, whose port withholds credit (R16), in the FIFO of its source port towards the mesh (R16), in an
input buffer of a router (R13), in a router's drop buffer with the input that it left (R18), or in the FIFO of its destination port (R16). -/
inductive PacketAt where
  | passenger
  | leaving
  | input (col row : Nat) (i : MeshInput)
  | drop (col row : Nat) (i : MeshInput)
  | arriving
  deriving DecidableEq, Repr

/-- What kind of packet (R17, R126): of a fold's own passengers, of an I/O die, through a peer window by a handle, or of the device's own
service. -/
inductive PacketKind where
  | plain
  | ioDie
  | peer (handle : Word)
  | service
  deriving DecidableEq, Repr

/-- What a packet carries: nothing that its delivery performs, since a core's access takes effect in the step that makes it (log 19), a
host's access, or the bytes that answer one, from a PA. -/
inductive Cargo where
  | traffic
  | host (pa : Nat) (op : HostOp)
  | answer (pa : Nat) (bytes : List Byte)
  deriving DecidableEq, Repr

/-- A packet in the mesh (R10 to R18), of which older ones stand before younger ones in State.packets. hops is the remaining hop count that
a drop buffer records (R414), and again says that a switch in has injected it anew (R415). -/
structure Packet where
  fold : Nat
  kind : PacketKind
  response : Bool
  srcSocket : Nat
  srcPort : Nat
  dstSocket : Nat
  dstPort : Nat
  at_ : PacketAt
  flits : Nat
  hops : Nat
  again : Bool
  cargo : Cargo
  deriving DecidableEq, Repr

/-- Whose turn it is at a router output on a plane (R14): the input served last. -/
structure Grant where
  col : Nat
  row : Nat
  output : MeshOutput
  response : Bool
  last : MeshInput
  deriving DecidableEq, Repr

/-- A block of a save area (R419, R420): of a core, a tile or 4 KiB of TCM of it, of a cluster or 4 KiB of its scratchpad, of a die, of the
fold, or the manifest. -/
inductive SaveBlock where
  | core (p : CorePos)
  | tile (p : CorePos) (t : Nat)
  | tcm (p : CorePos) (n : Nat)
  | cluster (c : ClusterPos)
  | pad (c : ClusterPos) (n : Nat)
  | die (n : Nat)
  | fold
  | manifest
  deriving DecidableEq, Repr

/-- A block as it stands in a save area, with the epoch under which it was last written, as the manifest lists it, and its 64-bit tag
(R420). Its IV is its fold, its VF, that epoch and the block. -/
structure AreaBlock where
  block : SaveBlock
  epoch : Nat
  tag : Word
  deriving DecidableEq, Repr

/-- A saved context of a VF (R419). key is the fold key of its tags, and intact says that no uncorrectable error and no other writer has
reached a block (R420, R422). restoring says that packets of it have been injected anew (R415). -/
structure Saved where
  epoch : Nat
  key : Nat
  intact : Bool
  cores : List Core
  clusters : List Cluster
  locals : List Host.Cell
  localPoison : List Nat
  packets : List Packet
  restoring : Bool
  deriving DecidableEq, Repr

/-- A snapshot of a VF (R454): the save area as it was written, and the frames that COW froze, each its first home key and its bytes. -/
structure Snapshot where
  epoch : Nat
  area : Option Saved
  frames : List (Nat × Nat)
  deriving DecidableEq, Repr

/-- A virtual function (R448). area lists the blocks of its save area (R419, R420), and snapshot is its last snapshot (R454). debt and def
are in TIME counts (R87). bells are doorbell writes that wait while a page that the append
writes is being copied (R84, R117), and blockDue the queues whose TAIL and HEAD fields are still to be written so (R79, R81, R90). -/
structure Vf where
  num : Nat
  fold : Nat
  weight : Nat
  quantum : Nat
  nextWeight : Nat
  nextQuantum : Nat
  queueBlock : Word
  root : Nat
  queues : Vector LQueue 8
  appends : Nat
  qovf : Byte
  dbdrop : BitVec 32
  badlid : Word
  deficit : Int
  debt : Nat
  epoch : Nat
  saved : Option Saved
  area : List AreaBlock
  snapshot : Option Snapshot
  copied : List Nat
  bells : List (Nat × Word)
  blockDue : List Nat
  deriving DecidableEq, Repr

/-- An exported or installed peer-window handle (R124, R445). installed lists (fold, window offset, length). -/
structure Handle where
  id : Word
  vf : Nat
  fold : Nat
  base : Nat
  length : Nat
  rights : BitVec 3
  importer : Nat
  endpoint : BitVec 128
  installed : List (Nat × Nat × Nat)
  revoked : Bool
  deriving DecidableEq, Repr

/-- An entry of the device-to-host mailbox ring (R450). -/
structure MbEntry where
  kind : Nat
  vf : Nat
  a : Word
  b : Word
  c : Word
  deriving DecidableEq, Repr

/-- A containment request that waits for the host (R424). -/
structure ContReq where
  lid : Word
  core : CorePos
  code : Nat
  tval : Word
  pc : Word
  deriving DecidableEq, Repr

/-- A fold (R447), with its dispatcher, mailbox registers (R451) and watchdog (R456). d2h holds the last entries posted to the
device-to-host ring, at most 1,024, and h2d the 8-byte words that the host has written into its ring, by their offset there. mbWait holds the entries that wait for room
in the ring (R450), starts the LIDs that the host has let start and that have not started placing (R98). Times are TIME counts;
sliceQuantum is 0 while no slice runs. delayed says that an open region has delayed the switch that is under way (R417), restart is the
time at which the cores of a VF that has been restored start to issue (R415), and saveMax is SAVEMAX in µs (R85, R421). -/
structure Fold where
  num : Nat
  dies : List Nat
  map : HomeMap
  mode : BitVec 7
  nextMode : BitVec 7
  policy : Nat
  codeKey : Option PubKey
  rct : Vector (BitVec 32) 8
  running : Option Nat
  lastServed : Option Nat
  sliceStart : Nat
  sliceQuantum : Nat
  sliceWaiting : Bool
  switchT : Option Nat
  switchTo : Option Nat
  delayed : Bool
  restart : Option Nat
  saveMax : Nat
  placewaves : List (Word × Nat × Nat)
  contReqs : List ContReq
  finished : List Finished
  handles : List Handle
  d2h : List MbEntry
  mbWait : List MbEntry
  starts : List Word
  d2htail : Nat
  d2hhead : Nat
  h2dtail : Nat
  h2dhead : Nat
  h2d : List (Nat × Word)
  ien : Bool
  saveKey : Nat
  wdTimes : Vector Nat 6
  wdStage : Nat
  wdSince : Nat
  testDue : Bool
  lastTest : Nat
  deriving DecidableEq, Repr

/-! ## The module -/

/-- What a RAS record names (R130, R280, R17, R90, R422, R444). -/
inductive RasClass where
  | uncorrectable | unconsumed | softError | parity | isolation | badLaunch | dependenceRead | quantumRaised
  | saveIntegrity | trainFail | internalError | badCompletion
  deriving DecidableEq, Repr

/-- What the configuration record of R22 says of the part: its SERIAL and the units it disables. -/
structure ConfigRecord where
  serial : Word
  dieoff : BitVec 32
  chanoff : List (BitVec 32)
  clusteroff : List (BitVec 128)
  coreoff : List CorePos
  deriving DecidableEq, Repr

/-- A record of the RAS log. -/
structure RasRec where
  cls : RasClass
  loc : Word
  time : Word
  deriving DecidableEq, Repr

/-- A response frame of Benostale (R442, R444): what its header says that is not fixed, the bytes of its body, and its signature. -/
structure Response where
  code : BitVec 16
  status : Nat
  count : Word
  salt : Word
  body : List Byte
  signature : List Byte
  deriving DecidableEq, Repr

/-- A KEYID with its registered operator key, none when it has been removed, and the highest COUNT accepted for it, which never
falls (R440 to R442). -/
structure OperatorKey where
  id : Nat
  key : Option PubKey
  count : Option Word
  deriving DecidableEq, Repr

/-- An image that boot or a swap has verified (R437, R439, R446): its KIND, SVN and HASH. -/
structure Measured where
  kind : Nat
  svn : Nat
  hash : Nat
  deriving DecidableEq, Repr

/-- What a SNAPSHOT or a MIGRATE has come to (R454, R455): a snapshot waits until no gang switch is under way, its VF leaves its fold and
comes back; the final switch out waits so too, and is under way; or a fold reset has ended all of it (R449). -/
inductive JobStage where
  | asked | leaving | returning | ending | final | cancelled
  deriving DecidableEq, Repr

/-- A SNAPSHOT or MIGRATE under way (R454, R455): where its answer goes, its VF, and for a MIGRATE the size below which a delta ends the
snapshots. since is the T of the switch under way and ran what the slice of the VF had run by then; first says that no snapshot has been
taken yet, and last that a delta has fallen below the size. -/
structure Job where
  viaPcie : Bool
  code : BitVec 16
  count : Word
  salt : Word
  vf : Nat
  migrate : Option Nat
  stage : JobStage
  since : Nat
  ran : Nat
  first : Bool
  last : Bool
  deriving DecidableEq, Repr

/-- A command that waits in the drovers' mailboxes during a firmware swap (R446): the containment policy of a fold, to be applied for a launch (R424), or the
service of a page (R299, R300). -/
inductive DrvCmd where
  | policy (fold : Nat) (lid : Word) (vf : Nat)
  | page (vf page : Nat) (cow : Bool)
  deriving DecidableEq, Repr

/-- The module: boot, firmware, identity, requests and the RAS log (R437 to R446). response is the frame in the response buffer of
BAR 0, netResponse the last frame sent to the management endpoint, and job the request that takes gang switches. rootKey is the root
public key in flash, romHash the hash in mask ROM, and linkFaults names what fails its training, below 64 the socket of a port, and
64 + 32 m + c channel c of stack 64 + m: facts of the part that boot meets (log 7). flash holds the bytes of each image, request the 8-byte
words of the request buffer by their offset there, submitted the frame that GO has handed in and that is being served (R443), and drvQueue
the commands that have come to the drovers during a swap, oldest first (R446). -/
structure Module where
  bootStep : Nat
  bootErr : Nat
  trainFail : Nat
  busy : Bool
  done : Bool
  rlen : BitVec 32
  request : List (Nat × Word)
  submitted : Option (List Byte)
  response : Option Response
  netResponse : Option Response
  keys : List OperatorKey
  job : Option Job
  rootKey : PubKey
  romHash : Nat
  linkFaults : List Nat
  flash : List (List Byte)
  running : List Measured
  counters : List (Nat × BitVec 32)
  measured : List Measured
  serial : Word
  config : Option ConfigRecord
  disabledDies : List Nat
  swapping : Bool
  drvQueue : List DrvCmd
  msix : List Nat
  powerCycle : Bool
  deriving DecidableEq, Repr

/-- How far each queue may stay behind (plain data of the model, log 9): the number of entries that an enqueue, a
store-buffer entry or a remote request leaves outstanding instead of completing at once; ahead is how many lines a fetch brings
in beyond the one it needs (R129), gates says that cores cache gate entries (R195), and mesh that the packets of a core's home requests
take time on the mesh (R12; log 19). The rules leave these to timing. -/
structure Pace where
  queue : Nat
  sb : Nat
  remote : Nat
  ahead : Nat
  gates : Bool
  mesh : Bool
  deriving DecidableEq, Repr

/-- A pending act of the outside, or of the model's scheduler, that the next step performs (log 2). foldReset is the reset
that a fold's policy or its watchdog asks for (R424, R456), saveMax a later change of SAVEMAX, of which no rule says when it comes
(R85; log 14), and saveFault an uncorrectable error in, or a foreign write to, a block of a VF's save area (R422). -/
inductive Input where
  | event (i : Instr)
  | saveMax (fold us : Nat)
  | saveFault (vf : Nat)
  | focus (p : CorePos)
  | foldReset (fold : Nat)
  | warmReset
  deriving DecidableEq, Repr

/-- The machine. hostRead holds the bytes that the host has read, by their home keys. core is the core in focus; others holds the other cores that have held something; a core in neither list
is idle and as reset leaves it (log 2). svScopes keeps the scope that sync-variable operations on a word have used (R366), and
svTests the words that an engine has written and whose parked requests it has not yet tested (R393). -/
structure State where
  now : Nat
  core : Core
  others : List Core
  clusters : List Cluster
  dies : List Die
  folds : List Fold
  vfs : List Vf
  launches : List Launch
  mem : List Host.Cell
  poison : List Nat
  words : List CacheWord
  lines : List CacheLine
  writeBacks : List WriteBack
  tlb : List TlbEntry
  pageReqs : List PageReq
  parked : List Parked
  locks : List Lock
  svScopes : List (Nat × Scope)
  svTests : List (Engine × Nat)
  fabric : List XSend
  packets : List Packet
  grants : List Grant
  svc : Module
  ras : List RasRec
  hostRead : List Host.Cell
  inputs : List Input
  pace : Pace
  freeCtr : Nat
  deriving DecidableEq, Repr

/-! ## Reset -/

/-- A loop level that is inactive and zero (R110). -/
def LoopLevel.reset : LoopLevel :=
  { act := false, start := 0, stop := 0, lc := 0, count := 0, stages := 1, bind := none, lvl := 0, stg := 0 }

/-- The scalar side at reset (R110, R150). -/
def Regs.reset : Regs :=
  { pc := 0, x := Vector.replicate 32 0, d := Vector.replicate 8 0, shadow := Vector.replicate 8 0, depth := 0, frames := [],
    level := 0, mode := 0, fflags := 0, srseed := 1, lanedone := 0, tau := 0, gflim := 0,
    loops := Vector.replicate 6 LoopLevel.reset, cycleBase := 0, instret := 0 }

/-- The gate and trap CSRs at reset (R150). -/
def TrapRegs.reset : TrapRegs :=
  { gPlv := 0, gAct := false, gMpush := false, gIndex := 0, gepc := 0, gtbase := 0, gtsize := 0, plv := 0, ie := false,
    pie := false, inh := false, ien := 0, tvec := 0, epc := 0, cause := 0, tval := 0, scratch := 0,
    nprlim := 1250000, emode := 0, emaskd := 0, tcmp := 0 }

/-- Empty queues (R110, R150). -/
def Queues.reset : Queues :=
  { queue := [], qnext := 0, undo := [], sb := [], ldq := [], sdq := [], u := 0, p := 0, remote := [], rseq := 0, late := [],
    pushed := 0, retry := none, uses := [] }

/-- The vector registers at strand start; the codebook has no stated value (log 4). -/
def VecRegs.reset : VecRegs :=
  { v := Vector.replicate 32 0, scales := Vector.replicate 32 (Vector.replicate 4 0),
    k := (Vector.replicate 8 0).set 0 (BitVec.allOnes 64), masks := [], codebook := Vector.replicate 16 0 }

/-- The identity rename map (R317). -/
def identityMap : Vector (BitVec 4) 16 := Vector.ofFn fun i => BitVec.ofNat 4 i.val

/-- An invalid tile (R110, R317). -/
def Tile.reset : Tile :=
  { acc := Vector.replicate 256 0, valid := false, kind := false, dirty := false, fact := false, rowv := 0,
    map := identityMap }

/-- A factor set that is closed (R335). -/
def FactorSet.reset : FactorSet :=
  { isOpen := false, set := 0, np := 0, done := 0, ph := Vector.replicate 16 0, a0 := 0, mx := 0, g := 0 }

/-- The matrix engine at strand start (R110, R335). -/
def MatRegs.reset : MatRegs := { tiles := Vector.replicate 8 Tile.reset, fset := FactorSet.reset, stat := [] }

/-- The synchronisation side at strand start (R110, R427). -/
def SyncRegs.reset : SyncRegs :=
  { npr := false, phase := none, triggered := false, arrived := none, arrivedStep := false, passed := none, notice := false, rpc := 0, rcnt := 0,
    inbox := [], outstanding := 0, fva := 0, drvmsg := none, deque := [], wait := none, stall := false, trapWaits := false, stopped := false,
    halted := false }

/-- An idle core at position p, as reset leaves it. -/
def Core.reset (p : CorePos) : Core :=
  { pos := p, occ := .idle, fold := 0, vf := 0, lid := 0, holds := none, idx := Vector.replicate 6 0, regs := Regs.reset,
    trap := TrapRegs.reset, q := Queues.reset, vec := VecRegs.reset, mat := MatRegs.reset, sync := SyncRegs.reset,
    icache := [], prefs := [], gates := [] }

/-- An unconfigured trough (R105). -/
def Trough.reset : Trough := { base := 0, nslot := 0, head := 0, tail := 0, res := 0, gens := [], written := [] }

/-- A free negotiation group (R347). -/
def NegGroup.reset : NegGroup := { count := 0, members := [], round := 0, left := [], broken := false, posts := [] }

/-- A cluster that has held no launch (R105, R294). -/
def Cluster.reset (c : ClusterPos) : Cluster :=
  { pos := c, split := 0, holds := none, troughs := Vector.replicate 4 Trough.reset, cmds := [],
    groups := Vector.replicate 4 NegGroup.reset }

/-- A drover as it starts its image: in M mode, with every register at 0 (R453; log 61). -/
def Drover.reset : Drover := { x := Vector.replicate 32 0, pc := 0, priv := 3, csrs := [], irq := false }

/-- A compute die after reset (R127, R453). -/
def Die.reset (n : Nat) : Die :=
  { num := n, fold := none, hreql := 0, hreqr := 0, drvbeat := 0, beatAt := 0, drvmbox := 0, drvmode := 0, drover := Drover.reset }

/-- The module before boot (R443). -/
def Module.reset : Module :=
  { bootStep := 0, bootErr := 0, trainFail := 0, busy := false, done := false, rlen := 0, request := [], submitted := none, response := none,
    netResponse := none, keys := [{ id := 0, key := some { modulus := 0, exponent := 0 }, count := none }], job := none,
    rootKey := { modulus := 0, exponent := 0 }, romHash := 0, linkFaults := [], flash := [], running := [], counters := [],
    measured := [], serial := 0, config := none, disabledDies := [], swapping := false, drvQueue := [], msix := [], powerCycle := false }

/-- The machine right after power-on reset, before the first boot step (R437): no fold, no VF, no launch, no strand. -/
def State.reset : State :=
  { now := 0, core := Core.reset ⟨0, 0, 0, 0⟩, others := [], clusters := [], dies := [], folds := [], vfs := [],
    launches := [], mem := [], poison := [], words := [], lines := [], writeBacks := [], tlb := [], pageReqs := [], parked := [], locks := [],
    svScopes := [], svTests := [], fabric := [], packets := [], grants := [], svc := Module.reset, ras := [], hostRead := [], inputs := [],
    pace := { queue := 0, sb := 0, remote := 0, ahead := 0, gates := false, mesh := false }, freeCtr := 0 }

end Sys2Proof.Machine
end

