-- ==== Sys2Proof/Machine/Mem.lean ====
section
/-!
DEFINITION. Machine/Mem.lean: the bytes of memory in one canonical form, keys, little-endian access (R2), and poison marks.

A key names a byte: fold * 2^52 + PA for home memory (R119), and the absolute local-window address (R114), with CORE 0 for
a scratchpad, for a TCM or scratchpad byte. Home keys lie below 2^57, window keys above 2^63. A byte that is not listed
reads 0 (log 3).
-/

namespace Sys2Proof.Machine

/-- The memory of the module: cells with strictly rising keys and no zero byte. -/
abbrev Memory := List Host.Cell

/-- The byte at a key; an unlisted byte reads 0 (log 3). -/
def Memory.byte : Memory → Nat → Byte
  | [], _ => 0
  | (b, v) :: t, a => if a = b then v else Memory.byte t a

/-- Writes one byte and keeps the canonical form. -/
def Memory.set : Memory → Nat → Byte → Memory
  | [], a, v => if v = 0 then [] else [(a, v)]
  | (b, w) :: t, a, v =>
    if a < b then (if v = 0 then (b, w) :: t else (a, v) :: (b, w) :: t)
    else if a = b then (if v = 0 then t else (a, v) :: t)
    else (b, w) :: Memory.set t a v

/-- The canonical form: keys strictly rise from lo, and no byte is 0. -/
def Memory.wfFrom : Nat → Memory → Bool
  | _, [] => true
  | lo, (b, v) :: t => decide (lo ≤ b) && decide (v ≠ 0) && Memory.wfFrom (b + 1) t

/-- The canonical form of memory. -/
def Memory.wf (m : Memory) : Bool := Memory.wfFrom 0 m

/-- Writes the bytes of a list from key a upward. -/
def Memory.setList (m : Memory) (a : Nat) : List Byte → Memory
  | [] => m
  | b :: t => Memory.setList (Memory.set m a b) (a + 1) t

/-- The n bytes from key a as one number, little-endian. -/
def Memory.le (m : Memory) (a : Nat) : Nat → Nat
  | 0 => 0
  | n + 1 => (Memory.byte m a).toNat + 256 * Memory.le m (a + 1) n

/-- Writes the low n bytes of a number at key a, little-endian. -/
def Memory.setLe (m : Memory) (a : Nat) : Nat → Nat → Memory
  | 0, _ => m
  | n + 1, v => Memory.setLe (Memory.set m a (BitVec.ofNat 8 v)) (a + 1) n (v / 256)

/-- The n bytes from key a. -/
def Memory.bytes (m : Memory) (a : Nat) : Nat → List Byte
  | 0 => []
  | n + 1 => Memory.byte m a :: Memory.bytes m (a + 1) n

/-- Zeroes every byte with a key in lo ≤ key < hi. -/
def Memory.clear (m : Memory) (lo hi : Nat) : Memory := m.filter fun c => c.1 < lo || hi ≤ c.1

/-- A number's low n bytes as a list, little-endian. -/
def leBytes : Nat → Nat → List Byte
  | 0, _ => []
  | n + 1, v => BitVec.ofNat 8 v :: leBytes n (v / 256)

/-- A list of bytes as a number, little-endian. -/
def ofLeBytes : List Byte → Nat
  | [] => 0
  | b :: t => b.toNat + 256 * ofLeBytes t

/-- The key of a home byte (R119). -/
def homeKey (fold pa : Nat) : Nat := fold * 2 ^ 52 + pa

/-- The base key of a core's TCM (R114). -/
def tcmKey (p : CorePos) : Nat :=
  0xFE * 2 ^ 56 + p.die * 2 ^ 51 + p.cx * 2 ^ 47 + p.cy * 2 ^ 44 + p.core * 2 ^ 38

/-- The base key of a cluster's scratchpad, core field 0 (R114). -/
def padKey (c : ClusterPos) : Nat :=
  0xFE * 2 ^ 56 + c.die * 2 ^ 51 + c.cx * 2 ^ 47 + c.cy * 2 ^ 44 + 2 ^ 37

/-- The word that holds a byte. -/
def wordKey (k : Nat) : Nat := k / 4 * 4

/-- Does a poison mark lie on the word that holds key k (R280)? -/
def poisoned (s : State) (k : Nat) : Bool := s.poison.contains (wordKey k)

/-- Inserts a word key into the sorted list of marks. -/
def insertSorted (k : Nat) : List Nat → List Nat
  | [] => [k]
  | h :: t => if k < h then k :: h :: t else if k = h then h :: t else h :: insertSorted k t

/-- Marks the word at key k (R280). -/
def markPoison (s : State) (k : Nat) : State := { s with poison := insertSorted (wordKey k) s.poison }

/-- Clears the mark of the word at key k (R280). -/
def clearPoison (s : State) (k : Nat) : State := { s with poison := s.poison.filter (fun h => h != wordKey k) }

/-- Writes the low n bytes of v at key k. A write that covers a whole aligned word clears its mark; a narrower one leaves
it (R280). -/
def pokeLe (s : State) (k n v : Nat) : State :=
  let s1 := { s with mem := Memory.setLe s.mem k n v }
  if n = 4 then (if k % 4 = 0 then clearPoison s1 k else s1)
  else if n = 8 then (if k % 4 = 0 then clearPoison (clearPoison s1 k) (k + 4) else s1)
  else s1

/-- The n bytes at key k as a number. -/
def peekLe (s : State) (k n : Nat) : Nat := Memory.le s.mem k n

end Sys2Proof.Machine
end

