-- ==== Sys2Proof/Machine/Coherence.lean ====
section
/-!
DEFINITION. Machine/Coherence.lean: the caches as lists of words, and the acts of the memory model: fill and forward (R273,
R274, R363), store (R275), Register and Revoke (R360), Release (R361), SelfInvalidate (R362), write-back (R364), the sync
variable's place (R366), the engine's write (R367), and the home request counters (R127, R128).

Words are acted on one by one; the two words of an aligned 8-byte location move together in a revoke, a forward, a fill and a
store (R357; log 64). The level home stands for the home slice of a PLACE 0 to 3 word and for the UALink ordering point of a
PLACE 4 word. A line stands in a way of its die cache and of its home slice by its replacement class, and in a way of its cluster
cache without one (R122, R123, R274), and a level that gives it up evicts it (R364; log 10).
-/

namespace Sys2Proof.Machine

/-- Updates the entry of a list that a test picks, or adds one. -/
def upsert {α : Type} (p : α → Bool) (x : α) : List α → List α
  | [] => [x]
  | h :: t => if p h then x :: t else h :: upsert p x t

/-- The word held at a level, if any. -/
def wordAt (s : State) (l : Level) (key : Nat) : Option CacheWord :=
  s.words.find? fun w => w.level == l && w.key == key

/-- Puts a word at its level. -/
def putWord (s : State) (w : CacheWord) : State :=
  { s with words := upsert (fun h => h.level == w.level && h.key == w.key) w s.words }

/-- Makes a word Invalid at a level. -/
def dropWord (s : State) (l : Level) (key : Nat) : State :=
  { s with words := s.words.filter fun w => !(w.level == l && w.key == key) }

/-- The cluster record at a place; one not listed is as reset leaves it. -/
def clusterAt (s : State) (c : ClusterPos) : Cluster :=
  (s.clusters.find? fun k => k.pos == c).getD (Cluster.reset c)

/-- Writes a cluster record. -/
def setCluster (s : State) (k : Cluster) : State :=
  { s with clusters := upsert (fun h => h.pos == k.pos) k s.clusters }

/-- The die record. -/
def dieAt (s : State) (n : Nat) : Die := (s.dies.find? fun d => d.num == n).getD (Die.reset n)

/-- Writes a die record. -/
def setDie (s : State) (d : Die) : State := { s with dies := upsert (fun h => h.num == d.num) d s.dies }

/-- The shared levels of a core's path, lowest first (R355, R276). -/
def sharedPath (s : State) (p : CorePos) : List Level :=
  if (clusterAt s p.cluster).split = 0 then [.die p.die, .home] else [.cluster p.cluster, .die p.die, .home]

/-- level(S) on a core's path (R354). -/
def levelOf (s : State) (p : CorePos) (sc : Scope) : Level :=
  if sc = 0 then (if (clusterAt s p.cluster).split = 0 then .die p.die else .cluster p.cluster)
  else if sc = 1 then .die p.die else .home

/-- The entries of a path up to and with a level. -/
def upTo (l : Level) : List Level → List Level
  | [] => []
  | h :: t => if h = l then [h] else h :: upTo l t

/-- The entries of a path strictly below a level. -/
def below (l : Level) : List Level → List Level
  | [] => []
  | h :: t => if h = l then [] else h :: below l t

/-- The entries of a path from a level upward, the level included. -/
def from_ (l : Level) : List Level → List Level
  | [] => []
  | h :: t => if h = l then h :: t else from_ l t

/-- Is a region in a mask? Region 0 belongs to every mask (R356). -/
def inMask (m : Word) (r : BitVec 6) : Bool := r == 0 || m.getLsbD r.toNat

/-- The mask of all regions. -/
def allRegions : Word := BitVec.allOnes 64

/-- The home die of a word, for the counters: the map of its fold with the interleave of PLACE 1 when no entry is at hand.
The two counters differ only in whether that die is the paired one (R128). -/
def foldAt (s : State) (f : Nat) : Option Fold := s.folds.find? fun k => k.num == f

/-- The fold's home dies in ascending order (R119). -/
def homeDies (f : Fold) : List Nat := f.dies.map (· + 32)

/-- NI of the home map: the largest power of two up to N (R119). -/
def interleaveCount (n : Nat) : Nat := if n = 0 then 1 else 2 ^ Nat.log2 n

/-- The XOR of the five-bit groups of g (R120). -/
def foldHash (g : Nat) : Nat :=
  (List.range 8).foldl (fun h j => h ^^^ (g >>> (5 * j))) 0

/-- The LRANGE pair of home die n in a map (R445). -/
def localRange (m : HomeMap) (die : Nat) : Nat × Nat := (m.localRange[die - 32]?).getD (0, 0)

/-- The home die of a PA by PLACE and DIE, or none for a placement mismatch; PLACE 4 and 5 have no home die (R120). -/
def homeDie (f : Fold) (place die pa : Nat) : Option (Option Nat) :=
  let m := f.map
  if place = 0 || place = 1 then
    if m.ibase ≤ pa && pa < m.ibase + m.isize then
      let g := if place = 0 then pa >>> 12 else pa >>> 16
      some ((homeDies f)[foldHash g &&& (interleaveCount f.dies.length - 1)]?)
    else none
  else if place = 2 then
    let h := 32 + die
    let r := localRange m h
    if (homeDies f).contains h && r.1 ≤ pa && pa < r.1 + r.2 then some (some h) else none
  else if place = 3 then
    match (homeDies f)[die % f.dies.length]? with
    | none => none
    | some h =>
      let r := localRange m h
      if r.1 ≤ pa && pa < r.1 + r.2 then some (some h) else none
  else if place = 4 || place = 5 then some none
  else none

/-- The home slice of a PA (R120). -/
def homeSlice (pa : Nat) : Nat := (pa >>> 6 ^^^ pa >>> 12 ^^^ pa >>> 18) % 16

/-- A packet of a fold that stands at its passenger: src and dst are (socket, port) (R16). -/
def newPacket (fold : Nat) (kind : PacketKind) (response : Bool) (src dst : Nat × Nat) (flits : Nat) (cargo : Cargo) : Packet :=
  { fold := fold, kind := kind, response := response, srcSocket := src.1, srcPort := src.2, dstSocket := dst.1, dstPort := dst.2,
    at_ := .passenger, flits := flits, hops := 0, again := false, cargo := cargo }

/-- The packet of a request from a compute die for slice s of a home die, by ports s mod 4 (R12), where the model lets packets take time.
A request is 1 flit, whether it reads, registers words or writes them back, and its answer is 2: the spec gives no count, so the count is
the model's choice (log 19). -/
def meshRequest (s : State) (fold : Nat) (kind : PacketKind) (die home key : Nat) : State :=
  let p := homeSlice (key % 2 ^ 52) % 4
  if s.pace.mesh then { s with packets := s.packets ++ [newPacket fold kind false (die, p) (home, p) 1 .traffic] } else s

/-- The home die of a PA that no leaf names: by the interleave of 64 KiB granules, else by the local range that holds it (R120; log 49). -/
def homeOf (f : Fold) (pa : Nat) : Option Nat :=
  match homeDie f 1 0 pa with
  | some (some h) => some h
  | _ => (homeDies f).find? fun h => let r := localRange f.map h; decide (r.1 ≤ pa) && decide (pa < r.1 + r.2)

/-- The home die of a key, reached by a PLACE and DIE, where it has one. -/
def homeFor (s : State) (key : Nat) (t : Attr) : Option Nat :=
  ((foldAt s (key / 2 ^ 52)).bind fun f => homeDie f t.place t.die (key % 2 ^ 52)).join

/-- The packet of a request that counts in neither counter: of a page walk, of a copy engine, or of an operation at the home (R12, R128). -/
def sendHome (s : State) (die : Nat) (key : Nat) (t : Attr) : State :=
  match homeFor s key t with
  | some h => meshRequest s (key / 2 ^ 52) .plain die h key
  | none => s

/-- The packet of a request for a word that no leaf names, as a table entry of a page walk (R12, R296). -/
def sendTable (s : State) (die : Nat) (key : Nat) : State :=
  match (foldAt s (key / 2 ^ 52)).bind fun f => homeOf f (key % 2 ^ 52) with
  | some h => meshRequest s (key / 2 ^ 52) .plain die h key
  | none => s

/-- Counts one request from a die's cache to the home die of a line, by the PLACE and DIE through which the line was reached
(R120, R127, R128). A page of PLACE 4 or 5 counts nowhere. -/
def countHome (s : State) (die : Nat) (key : Nat) (t : Attr) : State :=
  match homeFor s key t with
  | some h =>
    let d := dieAt s die
    let s1 := sendHome s die key t
    if h = 32 + die then setDie s1 { d with hreql := d.hreql + 1 } else setDie s1 { d with hreqr := d.hreqr + 1 }
  | none => s

/-- The other word of an aligned 8-byte location. -/
def pairOf (key : Nat) : Nat := if key % 8 < 4 then key + 4 else key - 4

/-- Notes a write-back of a die to a home, once per line in the act under way (R128). -/
def noteWriteBack (s : State) (die key : Nat) (t : Attr) : State :=
  if s.writeBacks.any fun w => w.die == die && w.key / 64 == key / 64 then s
  else { s with writeBacks := s.writeBacks ++ [⟨die, key, t⟩] }

/-- Counts the write-backs that an act has noted (R128). -/
def countWriteBacks (s : State) : State :=
  s.writeBacks.foldl (fun s w => countHome s w.die w.key w.attr) { s with writeBacks := [] }

/-- The stored value of a word at the home. -/
def homeWord (s : State) (key : Nat) : BitVec 32 := BitVec.ofNat 32 (peekLe s key 4)

/-- Writes a stored value at the home and drops a record there, with its mark. -/
def setHomeWord (s : State) (key : Nat) (v : BitVec 32) (poison : Bool) : State :=
  let s1 := pokeLe (dropWord s .home key) key 4 v.toNat
  if poison then markPoison s1 key else s1

/-! ## Revoke -/

/-- The core that a level records as the owner of a word. -/
def ownerAt (s : State) (l : Level) (key : Nat) : Option CorePos :=
  match wordAt s l key with
  | some w => (match w.state with | .registered o _ => some o | _ => none)
  | none => none

/-- Where a record of a word for owner o stands, highest level first: the home, o's die, o's cluster. -/
def recordsOf (s : State) (key : Nat) (o : CorePos) : List Level :=
  ([Level.home, .die o.die, .cluster o.cluster]).filter fun l => ownerAt s l key == some o

/-- The word that owner o gives up: that of its L1, or what the record at a level keeps of it. -/
def givenUp (s : State) (top : Level) (key : Nat) (o : CorePos) : BitVec 32 × Bool :=
  match wordAt s (.l1 o) key with
  | some w => (w.value, w.poison)
  | none => match wordAt s top key with
    | some w => (w.value, w.poison)
    | none => (homeWord s key, poisoned s key)

/-- Every record of a word for owner o goes, and o's word becomes Valid (R360). -/
def dropOwner (s : State) (key : Nat) (o : CorePos) : State :=
  let s1 := (recordsOf s key o).foldl (fun s l => dropWord s l key) s
  match wordAt s1 (.l1 o) key with
  | some w => putWord s1 { w with state := .valid }
  | none => s1

/-- What the record at a level keeps of the leaf of its word. -/
def attrAt (s : State) (l : Level) (key : Nat) : Attr := ((wordAt s l key).map (·.attr)).getD Attr.plain

/-- Revokes one word that the home records: its owner's value becomes the stored value. -/
def revokeHomeWord (s : State) (key : Nat) : State :=
  match ownerAt s .home key with
  | none => s
  | some o =>
    let g := givenUp s .home key o
    let t := attrAt s .home key
    noteWriteBack (setHomeWord (dropOwner s key o) key g.1 g.2) o.die key t

/-- Revokes what the home records of an 8-byte location for the owner of one of its words. -/
def revokeHome (s : State) (key : Nat) : State :=
  let both := ownerAt s .home (pairOf key) == ownerAt s .home key
  let s1 := revokeHomeWord s key
  if both then revokeHomeWord s1 (pairOf key) else s1

/-- The word of the replacement-class table that serves a class of a fold; its Reset where there is no fold (R122). -/
def rctWord (s : State) (fold : Nat) (cls : BitVec 3) : BitVec 32 :=
  match foldAt s fold with
  | some f => f.rct.get cls.toFin
  | none => 0x000FFFF2#32

/-- WPOL of a table word (R122). -/
def rctPolicy (w : BitVec 32) : BitVec 2 := w.extractLsb' 20 2

/-- A value written at a die cache: Held there, or sent on to the home at once and left as a copy where its class is written through
(R123). -/
def writeDie (s : State) (n key : Nat) (t : Attr) (v : BitVec 32) (poison : Bool) : State :=
  let w : CacheWord := { level := .die n, key := key, attr := t, state := .held, value := v, poison := poison }
  if rctPolicy (rctWord s (key / 2 ^ 52) t.cls) = 1 then
    noteWriteBack (putWord (setHomeWord (revokeHome s key) key v poison) { w with state := .valid }) n key t
  else putWord s w

/-- Revoke(w, o) of one word: o's value goes to the highest level with a record for o (R360). -/
def revokeWord (s : State) (key : Nat) (o : CorePos) : State :=
  match recordsOf s key o with
  | [] => s
  | top :: _ =>
    let g := givenUp s top key o
    let t := attrAt s top key
    let s1 := dropOwner s key o
    match top with
    | .home => noteWriteBack (setHomeWord s1 key g.1 g.2) o.die key t
    | .die n => writeDie s1 n key t g.1 g.2
    | l => putWord s1 { level := l, key := key, attr := t, state := .held, value := g.1, poison := g.2 }

/-- Revokes the words of an 8-byte location that are registered to o, as one act (R357, R360). -/
def revokePair (s : State) (key : Nat) (o : CorePos) : State := revokeWord (revokeWord s key o) (pairOf key) o

/-- Revokes what a level records of a word for a core other than keep. -/
def revokeOther (s : State) (l : Level) (key : Nat) (keep : Option CorePos) : State :=
  match ownerAt s l key with
  | some o => if keep = some o then s else revokePair s key o
  | none => s

/-- Revoke of a word as an act of its own. -/
def revoke (s : State) (key : Nat) (o : CorePos) : State := countWriteBacks (revokePair s key o)

/-- Revokes the record of a word at one level when it is for a core other than keep, as an act of its own. -/
def revokeAt (s : State) (l : Level) (key : Nat) (keep : Option CorePos) : State := countWriteBacks (revokeOther s l key keep)

/-! ## Ways and ages (R123) -/

/-- Sets of a die cache of 8 MiB, of a home slice of 2 MiB and of a cluster cache of SPLIT units, with 16 ways of 64-byte lines (R19, R40,
R122); that a cluster cache has 16 ways too is the model's choice (log 10). -/
def waySets (s : State) : WayCache → Nat
  | .cluster c => (clusterAt s c).split * (Config.splitUnit / 1024)
  | .die _ => 8192
  | .slice _ _ => 2048

/-- The lines that share a set with a line; which set that is is the model's choice (log 10). -/
def setOf (s : State) (c : WayCache) (line : Nat) : List CacheLine :=
  s.lines.filter fun e => e.at_ == c && e.line % waySets s c == line % waySets s c

/-- Does a way still hold something of its line? A way of a cluster or die cache is empty once no word of its line is left. -/
def wayInUse (s : State) (e : CacheLine) : Bool :=
  match e.at_ with
  | .cluster c => s.words.any fun w => w.level == .cluster c && w.key / 64 == e.line
  | .die n => s.words.any fun w => w.level == .die n && w.key / 64 == e.line
  | .slice _ _ => true

/-- May a fill of a class take a way (R122)? -/
def mayTake (w : BitVec 32) (way : Nat) : Bool := (w.extractLsb' 4 16).getLsbD way

/-- The ages of a set before a victim is chosen: raised by one where no way that may be taken has age 3. -/
def agedSet (w : BitVec 32) (es : List CacheLine) : List CacheLine :=
  if es.any fun e => mayTake w e.way && e.age == 3 then es
  else es.map fun e => if mayTake w e.way then { e with age := e.age + 1 } else e

/-- The victim of a set: the highest age among the ways that may be taken, the lowest way among equals. -/
def victimOf (w : BitVec 32) (es : List CacheLine) : Option CacheLine :=
  (es.filter fun e => mayTake w e.way).foldl (fun (b : Option CacheLine) e =>
    match b with
    | none => some e
    | some v => if v.age < e.age || (v.age == e.age && decide (e.way < v.way)) then some e else some v) none

/-- A hit sets the age of the lines that a test picks to 0, but that of a streaming line (R123). -/
def hitWhere (s : State) (p : CacheLine → Bool) : State :=
  { s with lines := s.lines.map fun e => if p e && !e.streaming then { e with age := 0 } else e }

/-- A hit of a line in a cache (R123). -/
def hitLine (s : State) (c : WayCache) (line : Nat) : State := hitWhere s fun e => e.at_ == c && e.line == line

/-- A hit of a line at its home slice, by a request that names no class: of the dispatcher, a page walk or the host (R123; log 10). -/
def hitSlice (s : State) (key : Nat) : State :=
  hitWhere s fun e => (match e.at_ with | .slice _ _ => true | _ => false) && e.line == key / 64

/-- The class table's word of a cache without classes: the word's Reset (R122, R123; log 10). -/
def plainWord : BitVec 32 := 0x000FFFF2#32

/-- A line takes a way by the table word of its class, and evict gives up the line that stood there. A line that stands already is filled
anew where fill says so, and is else hit (R123). -/
def takeWay (evict : State → Nat → State) (s : State) (c : WayCache) (line : Nat) (w : BitVec 32) (fill : Bool) : State :=
  let streaming := rctPolicy w == 3
  let age := if streaming then 3 else (w.extractLsb' 0 2).toNat
  if s.lines.any fun e => e.at_ == c && e.line == line then
    if fill then
      { s with lines := s.lines.map fun e =>
          if e.at_ == c && e.line == line then { e with age := age, streaming := streaming } else e }
    else hitLine s c line
  else
    let es := (setOf s c line).filter (wayInUse s)
    let rest := s.lines.filter fun e => !(e.at_ == c && e.line % waySets s c == line % waySets s c)
    match (List.range 16).find? fun i => mayTake w i && !es.any (·.way == i) with
    | some i => { s with lines := rest ++ es ++ [⟨c, line, i, age, streaming⟩] }
    | none =>
      let aged := agedSet w es
      match victimOf w aged with
      | none => s
      | some v => evict { s with lines := rest ++ aged.filter (· != v) ++ [⟨c, line, v.way, age, streaming⟩] } v.line

/-- A home slice gives up a line: the registrations that it records are revoked (R364). -/
def evictSlice (s : State) (line : Nat) : State :=
  (s.words.filter fun w => w.level == .home && w.key / 64 == line).foldl (fun s w => revokeHome s w.key) s

/-- The home slice of a word of a PLACE 0 to 3 page (R120). -/
def sliceFor (s : State) (key : Nat) (t : Attr) : Option WayCache :=
  (homeFor s key t).map fun h => .slice h (homeSlice (key % 2 ^ 52))

/-- A request reaches a home slice: a hit, or a fill unless its class allocates nothing there; a record needs a way in any case (R123). -/
def useSlice (s : State) (key : Nat) (t : Attr) (record : Bool) : State :=
  match sliceFor s key t with
  | none => s
  | some c =>
    if s.lines.any fun e => e.at_ == c && e.line == key / 64 then hitLine s c (key / 64)
    else if rctPolicy (rctWord s (key / 2 ^ 52) t.cls) = 2 && !record then s
    else takeWay evictSlice s c (key / 64) (rctWord s (key / 2 ^ 52) t.cls) true

/-- A value stored at the home for a level below; a record there is revoked first (R360, R364). -/
def storeHome (s : State) (key : Nat) (t : Attr) (v : BitVec 32) (poison : Bool) : State :=
  setHomeWord (revokeHome (useSlice s key t false) key) key v poison

/-- A die cache gives up a line: registrations are revoked, and Held words go to the home (R364). -/
def evictDie (n : Nat) (s : State) (line : Nat) : State :=
  let mine := fun (s : State) => s.words.filter fun w => w.level == .die n && w.key / 64 == line
  let s1 := (mine s).foldl (fun s w => revokeOther s (.die n) w.key none) s
  (mine s1).foldl (fun s w =>
    let s2 := if w.state = .held then noteWriteBack (storeHome s w.key w.attr w.value w.poison) n w.key w.attr else s
    dropWord s2 (.die n) w.key) s1

/-- A die cache takes a way for the line of a word, by a fill or by a write or record there. -/
def takeDie (s : State) (n key : Nat) (t : Attr) (fill : Bool) : State :=
  takeWay (evictDie n) s (.die n) (key / 64) (rctWord s (key / 2 ^ 52) t.cls) fill

/-- Does a miss of a word at a level fill it there (R123)? -/
def fillsAt (s : State) (key : Nat) (t : Attr) : Level → Bool
  | .die _ => rctPolicy (rctWord s (key / 2 ^ 52) t.cls) != 2
  | _ => true

/-- The lines (64 bytes) of a list of word keys, each once. -/
def linesOf (keys : List Nat) : List Nat := (keys.map (· / 64 * 64)).eraseDups

/-- A cluster cache gives up a line: registrations are revoked, and Held words go to the die cache (R364). -/
def evictCluster (s : State) (c : ClusterPos) (line : Nat) : State :=
  let mine := fun (s : State) => s.words.filter fun w => w.level == .cluster c && w.key / 64 == line
  let s1 := (mine s).foldl (fun s w => revokeOther s (.cluster c) w.key none) s
  (mine s1).foldl (fun s w =>
    let s2 := if w.state = .held then
        writeDie (revokeOther (takeDie s c.die w.key w.attr false) (.die c.die) w.key none) c.die w.key w.attr w.value w.poison
      else s
    dropWord s2 (.cluster c) w.key) s1

/-- A cluster cache takes a way for the line of a word; it ignores the class (R123, R274). -/
def takeCluster (s : State) (c : ClusterPos) (key : Nat) (fill : Bool) : State :=
  takeWay (fun s line => evictCluster s c line) s (.cluster c) (key / 64) plainWord fill

/-- Makes room at a level for a word that is to be written or recorded there. -/
def makeRoom (s : State) (l : Level) (key : Nat) (t : Attr) : State :=
  match l with
  | .home => useSlice s key t true
  | .die n => takeDie s n key t false
  | .cluster c => takeCluster s c key false
  | .l1 _ => s

/-- A value placed at a shared level: Held, or the stored value at the home (R359). -/
def placeHeld (s : State) (l : Level) (key : Nat) (attr : Attr) (v : BitVec 32) (poison : Bool) : State :=
  match l with
  | .home => setHomeWord (useSlice s key attr false) key v poison
  | .die n => writeDie (takeDie s n key attr false) n key attr v poison
  | .cluster c => putWord (takeCluster s c key false) { level := l, key := key, attr := attr, state := .held, value := v, poison := poison }
  | .l1 _ => putWord s { level := l, key := key, attr := attr, state := .held, value := v, poison := poison }

/-- The wider of two scopes. -/
def maxScope (a b : Scope) : Scope := if a.ult b then b else a

/-- Records a word as registered to o at every level of a list, revoking other owners first (R360, R361). -/
def recordAt (s : State) (key : Nat) (attr : Attr) (o : CorePos) (v : BitVec 32) : List Level → State
  | [] => s
  | k :: t =>
    let s1 := makeRoom (revokeOther s k key (some o)) k key attr
    recordAt (putWord s1 { level := k, key := key, attr := attr, state := .registered o false, value := v, poison := false }) key attr o v t

/-- Register(w, level(S)) for its owner p (R360). -/
def register (s : State) (p : CorePos) (key : Nat) (sc : Scope) : State :=
  match wordAt s (.l1 p) key with
  | none => s
  | some w =>
    let lv := levelOf s p sc
    let s1 := recordAt s key w.attr p w.value (upTo lv (sharedPath s p))
    let tag := match w.state with | .owned t => maxScope t sc | _ => sc
    putWord s1 { w with state := .owned tag }

/-- Must a release at S register this L1 word (R361)? -/
def needsRegister (sc : Scope) (w : CacheWord) : Bool :=
  match w.state with
  | .dirty => true
  | .owned t => t.ult sc
  | _ => false

/-- Promotes one word of a shared level K to the levels above it up to level(S) (R361). -/
def promote (s : State) (sc : Scope) (target : Level) (path : List Level) (k : Level) (key : Nat) : State :=
  match wordAt s k key with
  | none => s
  | some w => match w.state with
    | .registered o _ =>
      let s1 := recordAt s key w.attr o w.value (upTo target (from_ k path))
      (match wordAt s1 (.l1 o) key with
       | some ow => (match ow.state with
         | .owned t => putWord s1 { ow with state := .owned (maxScope t sc) }
         | _ => s1)
       | none => s1)
    | .held =>
      let ups := (upTo target (from_ k path)).drop 1
      let s1 := ups.foldl (fun s l =>
        let s2 := revokeOther s l key none
        if l = target then placeHeld s2 l key w.attr w.value w.poison
        else putWord (makeRoom s2 l key w.attr) { w with level := l, state := .valid }) s
      if (wordAt s1 k key).isSome then putWord s1 { w with state := .valid } else s1
    | _ => s

/-- The records of core p's words at the levels that its release reaches give up their copies, so that no copy taken before the
release outlives it (R358, R363, R374; log 24). -/
def staleCopies (s : State) (p : CorePos) (m : Word) (ls : List Level) : State :=
  { s with words := s.words.map fun w =>
      if w.state = .registered p true && ls.contains w.level && inMask m w.attr.region then { w with state := .registered p false } else w }

/-- Release(S, m) of core p, once its store buffer and SDQ are empty and RRC = 0 (R361). -/
def release (s : State) (p : CorePos) (sc : Scope) (m : Word) : State :=
  let path := sharedPath s p
  let target := levelOf s p sc
  let own := s.words.filter fun w => w.level == .l1 p && inMask m w.attr.region && needsRegister sc w
  let s1 := own.foldl (fun s w => register s p w.key sc) s
  let lower := below target path
  let shared := lower.flatMap fun k => (s1.words.filter fun w => w.level == k && inMask m w.attr.region &&
    (match w.state with | .registered _ _ => true | .held => true | _ => false)).map fun w => (k, w.key, w.attr)
  let s2 := countWriteBacks (staleCopies (shared.foldl (fun s kk => promote s sc target path kk.1 kk.2.1) s1) p m (upTo target path))
  if target = .home then
    (linesOf (own.map (·.key) ++ shared.map (·.2.1))).foldl (fun s k =>
      countHome s p.die k (((shared.map fun x => x.2).find? fun x => x.1 / 64 * 64 == k).map (·.2)
        |>.getD (((own.find? fun w => w.key / 64 * 64 == k).map (·.attr)).getD Attr.plain))) s2
  else s2

/-- SelfInvalidate(m, S) of core p (R362). -/
def selfInvalidate (s : State) (p : CorePos) (m : Word) (sc : Scope) : State :=
  let lower := below (levelOf s p sc) (sharedPath s p)
  { s with words := s.words.filter fun w =>
      !(w.state == .valid && inMask m w.attr.region && (w.level == .l1 p || lower.contains w.level)) }

/-- Does the record of a word at a level keep no copy of its owner's value? -/
def lacksCopy (s : State) (l : Level) (key : Nat) : Bool :=
  match wordAt s l key with
  | some w => (match w.state with | .registered _ c => !c | _ => false)
  | none => false

/-- Forwards a read of a word that a level records: the record takes its owner's current value as its copy (R363). -/
def forward (s : State) (l : Level) (key : Nat) (o : CorePos) : State :=
  match wordAt s l key, wordAt s (.l1 o) key with
  | some w, some ow => putWord s { w with state := .registered o true, value := ow.value, poison := ow.poison }
  | _, _ => s

/-- The word keys of the line that holds a key. -/
def lineWords (key : Nat) : List Nat := (List.range 16).map fun i => key / 64 * 64 + 4 * i

/-- A record supplies reads from its copy. Where a word of the line that is registered to the same owner has none, the read is forwarded for
all of them, so that the words of one part come from one moment (R289, R357, R363; log 64). -/
def refresh (s : State) (l : Level) (key : Nat) : State :=
  match ownerAt s l key with
  | none => s
  | some o =>
    let ks := (lineWords key).filter fun k => ownerAt s l k == some o
    if ks.any (lacksCopy s l) then ks.foldl (fun s k => forward s l k o) s else s

/-- The value a level supplies for a word (R363). -/
def supply (s : State) (l : Level) (key : Nat) : Option (State × BitVec 32 × Bool) :=
  let s1 := refresh s l key
  match wordAt s1 l key with
  | some w => some (s1, w.value, w.poison)
  | none => if l = .home then some (s, homeWord s key, poisoned s key) else none

/-- The value that the first level of a list supplies for a word. -/
def findSupply (s : State) (key : Nat) : List Level → State × BitVec 32 × Bool
  | [] => (s, homeWord s key, poisoned s key)
  | l :: t =>
    match supply s l key with
    | some r => r
    | none => findSupply s key t

/-- Does a level hold a word? The home holds every word. -/
def holdsWord (s : State) (l : Level) (key : Nat) : Bool := l == .home || (wordAt s l key).isSome

/-- A mere copy at a level, whose partner in its 8-byte location is absent there and comes new from above, leaves: the two words of a
location come from one place (R357; log 64). -/
def dropStale (s : State) (l : Level) (key : Nat) (cur : Option (BitVec 32 × Bool)) : State :=
  if l = .home || cur.isNone || (wordAt s l key).isSome then s
  else match wordAt s l (pairOf key) with
    | some w => if w.state = .valid then dropWord s l (pairOf key) else s
    | none => s

/-- A fill passes one word through a level: a level that holds it supplies the levels below, and a level that does not takes it as Valid
where it fills (R274, R363). -/
def passWord (s : State) (l : Level) (key : Nat) (attr : Attr) (cur : Option (BitVec 32 × Bool)) : State × Option (BitVec 32 × Bool) :=
  match supply s l key, cur with
  | some r, _ => (r.1, some r.2)
  | none, some c =>
    (if fillsAt s key attr l then putWord s { level := l, key := key, attr := attr, state := .valid, value := c.1, poison := c.2 } else s, cur)
  | none, none => (s, none)

/-- Brings the two words of an aligned 8-byte location, lo its lower key, down a list of levels, highest first (R274, R357, R363). -/
def bringPair (s : State) (lo : Nat) (attr : Attr) (a b : Option (BitVec 32 × Bool)) : List Level → State
  | [] => s
  | l :: t =>
    let s1 := dropStale (dropStale s l lo a) l (lo + 4) b
    let x := passWord s1 l lo attr a
    let y := passWord x.1 l (lo + 4) attr b
    bringPair y.1 lo attr x.2 y.2 t

/-- The lower keys of the 8-byte locations of the line that holds a key. -/
def linePairs (key : Nat) : List Nat := (List.range 8).map fun i => key / 64 * 64 + 8 * i

/-- A read finds its line at a level (R123). -/
def hitAt (s : State) (l : Level) (key : Nat) (attr : Attr) : State :=
  match l with
  | .home => useSlice s key attr false
  | .die n => hitLine s (.die n) (key / 64)
  | .cluster c => hitLine s (.cluster c) (key / 64)
  | .l1 _ => s

/-- Makes room at the levels that a fill from level top passes, and counts the hit or the request there (R123). -/
def roomForLine (s : State) (top : Level) (lower : List Level) (key : Nat) (attr : Attr) : State :=
  lower.foldl (fun s l => match l with
    | .die n => if fillsAt s key attr l then takeDie s n key attr true else s
    | .cluster c => takeCluster s c key true
    | _ => s) (hitAt s top key attr)

/-- Evicts the line of a key from an L1: Dirty words are registered at CLUSTER scope, then each is written back as Revoke writes it, and
no copy stays (R275, R364). -/
def evictL1Line (s : State) (p : CorePos) (line : Nat) : State :=
  let mine := fun (s : State) => s.words.filter fun w => w.level == .l1 p && w.key / 64 * 64 == line
  let s1 := (mine s).foldl (fun s w => if w.state = .dirty then register s p w.key 0 else s) s
  let s2 := (mine s1).foldl (fun s w => dropWord (revokePair s w.key p) (.l1 p) w.key) s1
  countWriteBacks s2

/-- Lines an L1 holds: 16 KiB of 64-byte lines. -/
def l1Lines : Nat := 256

/-- Evicts the oldest line of an L1 that holds too many. Which line goes is the model's choice (log 10). -/
def trimL1 (s : State) (p : CorePos) : State :=
  let lines := linesOf ((s.words.filter fun w => w.level == .l1 p).map (·.key))
  if lines.length ≤ l1Lines then s
  else match lines with
    | [] => s
    | l :: _ => evictL1Line s p l

/-- Brings the line of a key from the level that supplies it into every level of a list below that (R274); levels are listed from the
lowest. A request that the home serves counts once where count says so (R128), and is a packet in any case (R12). -/
def fillLine (s : State) (p : CorePos) (levels : List Level) (key : Nat) (attr : Attr) (count : Bool) : State :=
  let top := (levels.find? fun l => holdsWord s l key).getD .home
  let lower := levels.takeWhile (· != top)
  let s1 := roomForLine s top lower key attr
  let s2 := (linePairs key).foldl (fun s k => bringPair s k attr none none (top :: lower.reverse)) s1
  let s3 := if top != .home then s2 else if count then countHome s2 p.die key attr else sendHome s2 p.die key attr
  countWriteBacks (lower.foldl (fun s l => match l with
    | .l1 q => trimL1 s q
    | _ => s) s3)

/-- Reads a word through the shared levels of a list, filling those that it passes: the value, and its mark (R273, R274). -/
def readThrough (s : State) (p : CorePos) (levels : List Level) (key : Nat) (attr : Attr) (count : Bool) : State × BitVec 32 × Bool :=
  match levels with
  | [] => findSupply s key levels
  | l :: _ => findSupply (if holdsWord s l key then hitAt s l key attr else fillLine s p levels key attr count) key levels

/-- The word of a list that a fill through some levels fetches from furthest, or none where the first level holds all of them. -/
def fillKey (s : State) (levels : List Level) (ks : List Nat) : Option Nat :=
  match levels with
  | [] => none
  | l :: _ =>
    let miss := ks.filter fun k => !holdsWord s l k
    match miss.find? fun k => levels.all fun l => l == .home || !holdsWord s l k with
    | some k => some k
    | none => miss.head?

/-- The values of some words of one line through the shared levels of a list, brought by one fill where a word is missing (R128, R273,
R274). -/
def readWords (s : State) (p : CorePos) (levels : List Level) (ks : List Nat) (attr : Attr) : State × List (BitVec 32 × Bool) :=
  let s1 := match fillKey s levels ks, levels, ks with
    | some k, _, _ => fillLine s p levels k attr true
    | none, l :: _, k :: _ => hitAt s l k attr
    | none, _, _ => s
  ks.foldl (fun a k =>
    let r := findSupply a.1 k levels
    (r.1, a.2 ++ [r.2])) (s1, [])

/-- A level that keeps one word of an 8-byte location as a mere copy gives it up, up to the first level that holds both, so that the
two come from one place (R357; log 64). -/
def dropLone (s : State) (key : Nat) : List Level → State
  | [] => s
  | .home :: _ => s
  | l :: t =>
    match wordAt s l key, wordAt s l (key + 4) with
    | some _, some _ => s
    | some w, none => dropLone (if w.state = .valid then dropWord s l key else s) key t
    | none, some w => dropLone (if w.state = .valid then dropWord s l (key + 4) else s) key t
    | none, none => dropLone s key t

/-- Reads an aligned 4-byte global word for core p, filling its line on a miss (R273, R274). -/
def loadWord (s : State) (p : CorePos) (key : Nat) (attr : Attr) : State × BitVec 32 × Bool :=
  match wordAt s (.l1 p) key with
  | some w => (s, w.value, w.poison)
  | none =>
    let s1 := fillLine s p (.l1 p :: sharedPath s p) key attr true
    match wordAt s1 (.l1 p) key with
    | some w => (s1, w.value, w.poison)
    | none => (s1, homeWord s1 key, poisoned s1 key)

/-- The bytes [lo, lo + n) of a word, as a number. -/
def sliceOf (v : BitVec 32) (lo n : Nat) : Nat := v.toNat / 256 ^ lo % 256 ^ n

/-- Replaces the bytes [lo, lo + n) of a word. -/
def spliceInto (v : BitVec 32) (lo n x : Nat) : BitVec 32 :=
  let mask := (256 ^ n - 1) * 256 ^ lo
  BitVec.ofNat 32 ((v.toNat - (v.toNat &&& mask)) + (x % 256 ^ n) * 256 ^ lo)

/-- Loads n bytes (n = 1, 2, 4, 8, aligned) at a global key (R273, R279); the last answer is a poison mark on a byte read. -/
def loadGlobal (s : State) (p : CorePos) (key n : Nat) (attr : Attr) : State × Nat × Bool :=
  if n = 8 then
    let a := loadWord (dropLone s key (.l1 p :: sharedPath s p)) p key attr
    let b := loadWord a.1 p (key + 4) attr
    (b.1, a.2.1.toNat + 2 ^ 32 * b.2.1.toNat, a.2.2 || b.2.2)
  else
    let a := loadWord s p (wordKey key) attr
    (a.1, sliceOf a.2.1 (key % 4) n, a.2.2)

/-- Writes an L1 word: Dirty, or still Owned (R358). -/
def dirtyWord (s : State) (p : CorePos) (key : Nat) (attr : Attr) (v : BitVec 32) : State :=
  match wordAt s (.l1 p) key with
  | some w =>
    let st := match w.state with | .owned t => WordState.owned t | _ => .dirty
    putWord s { w with state := st, value := v, poison := false }
  | none => trimL1 (putWord s { level := .l1 p, key := key, attr := attr, state := .dirty, value := v, poison := false }) p

/-- Writes part of an L1 word after a fill; the mark stays (R275, R280). -/
def dirtyPart (s : State) (p : CorePos) (key n : Nat) (attr : Attr) (v : Nat) : State :=
  let r := loadWord s p (wordKey key) attr
  let w' := spliceInto r.2.1 (key % 4) n v
  let s1 := dirtyWord r.1 p (wordKey key) attr w'
  if r.2.2 then
    match wordAt s1 (.l1 p) (wordKey key) with
    | some w => putWord s1 { w with poison := true }
    | none => s1
  else s1

/-- TAG of a word of an L1, where it is Owned. -/
def tagOf (s : State) (p : CorePos) (key : Nat) : Option Scope :=
  match wordAt s (.l1 p) key with
  | some w => (match w.state with | .owned t => some t | _ => none)
  | none => none

/-- After a write of words of one line of which some are Owned, all of them are registered as widely as the widest in the same step, since
they become visible together (R289, R357, R358; log 64). -/
def joinWords (s : State) (p : CorePos) (ks : List Nat) : State :=
  match ks, ks.filterMap (tagOf s p) with
  | key :: _, t :: ts =>
    let sc := ts.foldl maxScope t
    if ks.all fun k => tagOf s p k == some sc then s
    else
      let s1 := ks.foldl (fun s k => register s p k sc) s
      countWriteBacks (if levelOf s p sc = .home then countHome s1 p.die key (attrAt s (.l1 p) key) else s1)
  | _, _ => s

/-- Stores n bytes (n = 1, 2, 4, 8, aligned) at a global key through the L1 (R275). -/
def storeGlobal (s : State) (p : CorePos) (key n v : Nat) (attr : Attr) : State :=
  if n = 8 then
    joinWords (dirtyWord (dirtyWord s p key attr (BitVec.ofNat 32 v)) p (key + 4) attr (BitVec.ofNat 32 (v / 2 ^ 32))) p [key, key + 4]
  else if n = 4 then dirtyWord s p key attr (BitVec.ofNat 32 v)
  else dirtyPart s p key n attr v

/-- The value of a word at the home as a DEVICE-scope read sees it: a registered word is forwarded (R363). A line that stands in its home
slice is hit (R123). -/
def homeRead4 (s : State) (key : Nat) : State × BitVec 32 × Bool :=
  match supply (hitSlice s key) .home key with
  | some r => (r.1, r.2.1, r.2.2)
  | none => (s, homeWord s key, poisoned s key)

/-- Reads n bytes at the home, at DEVICE scope; n and key are multiples of 4 (R83, R91, R296). -/
def homeReadWords (s : State) (key : Nat) : Nat → State × List (BitVec 32)
  | 0 => (s, [])
  | n + 1 =>
    let a := homeRead4 s key
    let r := homeReadWords a.1 (key + 4) n
    (r.1, a.2.1 :: r.2)

/-- An aligned 8-byte read at the home. -/
def homeRead8 (s : State) (key : Nat) : State × Word :=
  let a := homeRead4 s key
  let b := homeRead4 a.1 (key + 4)
  (b.1, BitVec.ofNat 64 (a.2.1.toNat + 2 ^ 32 * b.2.1.toNat))

/-- Writes a word at the home, revoking a registration first (R107, R366). -/
def homeWrite4 (s : State) (key : Nat) (v : BitVec 32) : State :=
  setHomeWord (revokeAt (hitSlice s key) .home key none) key v false

/-- Writes the low n words of a number at the home, as DEVICE-scope writes. -/
def homeWriteWords (s : State) (key : Nat) : Nat → Nat → State
  | 0, _ => s
  | n + 1, v => homeWriteWords (homeWrite4 s key (BitVec.ofNat 32 v)) (key + 4) n (v / 2 ^ 32)

/-- Brings the 8 bytes at a key to a level and answers their value: registrations there are revoked, and what the level does not hold comes
from above by one fill of the line (R128, R366). -/
def levelRead8 (s : State) (p : CorePos) (l : Level) (key : Nat) (attr : Attr) : State × Nat :=
  let s1 := countWriteBacks (revokeOther (revokeOther s l key none) l (key + 4) none)
  let path := from_ l (sharedPath s p)
  let r := readWords (dropLone s1 key path) p path [key, key + 4] attr
  (r.1, (r.2.map fun v => v.1.toNat).foldr (fun v n => v + 2 ^ 32 * n) 0)

/-- Writes the 8 bytes at a key at a level, as Held or as the stored value. -/
def levelWrite8 (s : State) (l : Level) (key : Nat) (attr : Attr) (v : Nat) : State :=
  countWriteBacks (placeHeld (placeHeld s l key attr (BitVec.ofNat 32 v) false) l (key + 4) attr (BitVec.ofNat 32 (v / 2 ^ 32)) false)

/-- One word that CBO WB or WBINV, or a FACC, takes out of the L1 of core p to the point of coherence: the value goes
home, every record for p goes, and each shared level passed takes the value (R282, R364). -/
def writeHome (s : State) (p : CorePos) (w : CacheWord) : State :=
  let s1 := (recordsOf s w.key p).foldl (fun s l => dropWord s l w.key) s
  let path := below .home (sharedPath s p)
  let s2 := path.foldl (fun s l =>
    let s' := revokeOther s l w.key (some p)
    if fillsAt s' w.key w.attr l then putWord (makeRoom s' l w.key w.attr) { w with level := l, state := .valid } else dropWord s' l w.key) s1
  noteWriteBack (storeHome s2 w.key w.attr w.value w.poison) p.die w.key w.attr

/-- The words of a line that an L1 holds. -/
def l1LineWords (s : State) (p : CorePos) (key : Nat) : List CacheWord :=
  s.words.filter fun w => w.level == .l1 p && w.key / 64 * 64 == key / 64 * 64

/-- Is a word Dirty or Owned? -/
def isWritten (w : CacheWord) : Bool := match w.state with | .dirty => true | .owned _ => true | _ => false

/-- CBO on the line of a key (R282): 0 WB, 1 WBINV, 2 INV. -/
def cboLine (s : State) (p : CorePos) (fn : BitVec 2) (key : Nat) : State :=
  countWriteBacks <| (l1LineWords s p key).foldl (fun s w =>
    if fn = 2 then dropWord ((recordsOf s w.key p).foldl (fun s l => dropWord s l w.key) s) (.l1 p) w.key
    else
      let s1 := if isWritten w then putWord (writeHome s p w) { w with state := .valid } else s
      if fn = 1 then dropWord s1 (.l1 p) w.key else s1) s

/-- Before an atomic operation at a level above, the core's own copies of the words leave its path below that level (R204):
Dirty and Owned words are written to the point of coherence, and Valid copies become Invalid. -/
def clearBelow (s : State) (p : CorePos) (l : Level) (key : Nat) : State :=
  countWriteBacks <| ([key, key + 4]).foldl (fun s k =>
    let s1 := match wordAt s (.l1 p) k with
      | some w => if isWritten w then writeHome s p w else s
      | none => s
    (below l (sharedPath s1 p)).foldl (fun s lv =>
      match wordAt s lv k with
      | some w => if w.state = .valid then dropWord s lv k else s
      | none => s) (dropWord s1 (.l1 p) k)) s

/-- A copy engine's write of a word at level(s) on the issuing core's path (R307, R367). -/
def engineWrite4 (s : State) (p : CorePos) (l : Level) (key : Nat) (attr : Attr) (v : BitVec 32) (poison : Bool) : State :=
  let path := upTo l (sharedPath s p)
  let s1 := path.foldl (fun s k => revokeOther s k key none) s
  let s2 := (below l (sharedPath s p)).foldl (fun s k => dropWord s k key) s1
  countWriteBacks (placeHeld s2 l key attr v poison)

/-- A copy engine's read of a word at level(s) or beyond; it counts in neither counter (R128, R307). -/
def engineRead4 (s : State) (p : CorePos) (l : Level) (key : Nat) (attr : Attr) : State × BitVec 32 × Bool :=
  readThrough s p (from_ l (sharedPath s p)) key attr false

/-- The gang-switch write-back of a cluster cache or die cache: every Held word and every value that a record holds goes to the next
level, and the cache invalidates itself (R371). -/
def writeBackLevel (s : State) (l : Level) (up : Level) : State :=
  (s.words.filter fun w => w.level == l).foldl (fun s w =>
    let carry := match w.state with | .held => true | .registered _ c => c | _ => false
    let s1 := if carry then placeHeld s up w.key w.attr w.value w.poison else s
    dropWord s1 l w.key) s

/-- Every Owned word of a core written back as Revoke writes it, and the L1 emptied (R371). -/
def writeBackCore (s : State) (p : CorePos) : State :=
  let s1 := release s p 2 allRegions
  let s2 := (s1.words.filter fun w => w.level == .l1 p).foldl (fun s w => if isWritten w then revoke s w.key p else s) s1
  { s2 with words := s2.words.filter fun w => !(w.level == .l1 p) }

end Sys2Proof.Machine
end

