-- ==== Sys2Proof/Machine/Translate.lean ====
section
/-!
DEFINITION. Machine/Translate.lean: which units are enabled (R23), local windows (R114 to R116), page-table entries (R117),
the walk (R296), A and D (R297), the TLBs (R298), service requests (R299, R300), placement (R120, R121), peer windows and
pooled memory (R124, R125), and Translate (R295). Posting to the RAS log and to the host mailbox (R450, R451) stand here too.
-/

namespace Sys2Proof.Machine

/-! ## Reports -/

/-- TIME: 100 MHz counts against 1.25 GHz cycles (R20). -/
def timeOf (s : State) : Word := BitVec.ofNat 64 (s.now * 2 / 25)

/-- Writes a fold record. -/
def setFold (s : State) (f : Fold) : State := { s with folds := upsert (fun h => h.num == f.num) f s.folds }

/-- The configured VF of a number. -/
def vfAt (s : State) (n : Nat) : Option Vf := s.vfs.find? fun v => v.num == n

/-- Writes a VF record. -/
def setVf (s : State) (v : Vf) : State := { s with vfs := upsert (fun h => h.num == v.num) v s.vfs }

/-- Posts an entry to a fold's device-to-host ring; while the ring is full the entry waits (R450, R451). -/
def postMb (s : State) (fold : Nat) (e : MbEntry) : State :=
  match foldAt s fold with
  | none => s
  | some f =>
    if f.mbWait.isEmpty && decide (f.d2htail - f.d2hhead < Config.mailboxEntries) then
      let s1 := setFold s { f with d2h := (f.d2h ++ [e]).drop (f.d2h.length + 1 - Config.mailboxEntries), d2htail := f.d2htail + 1 }
      if f.ien then { s1 with svc := { s1.svc with msix := s1.svc.msix ++ [1 + fold] } } else s1
    else setFold s { f with mbWait := f.mbWait ++ [e] }

/-- The number by which a RASREC names a class; the spec lists none (log 16). -/
def rasCode (c : RasClass) : Nat :=
  match c with
  | .uncorrectable => 0
  | .unconsumed => 1
  | .softError => 2
  | .parity => 3
  | .isolation => 4
  | .badLaunch => 5
  | .dependenceRead => 6
  | .quantumRaised => 7
  | .saveIntegrity => 8
  | .trainFail => 9
  | .internalError => 10
  | .badCompletion => 11

/-- Adds a record to the RAS log, posted to the host too where the fold it concerns harvests in the assisted mode (R452). -/
def logRas (s : State) (fold : Option Nat) (c : RasClass) (loc : Word) : State :=
  let s1 := { s with ras := s.ras ++ [{ cls := c, loc := loc, time := timeOf s }] }
  match fold.bind (foldAt s) with
  | some f => if f.mode.getLsbD 6 then postMb s1 f.num ⟨14, 0, BitVec.ofNat 64 (rasCode c), loc, timeOf s⟩ else s1
  | none => s1

/-! ## Enabled units -/

/-- Is a cluster's own CLUSTEROFF bit set, or are all its cores off (R23)? -/
def clusterOff (r : ConfigRecord) (c : ClusterPos) : Bool :=
  ((r.clusteroff[c.die]?).getD 0).getLsbD (c.cy * 10 + c.cx) ||
    (List.range 64).all fun i => r.coreoff.contains ⟨c.die, c.cx, c.cy, i⟩

/-- Is a compute die enabled (R23)? -/
def dieEnabled (s : State) (n : Nat) : Bool :=
  match s.svc.config with
  | none => false
  | some r =>
    decide (n < Config.numDies) && !r.dieoff.getLsbD n && !s.svc.disabledDies.contains n &&
      ((List.range 16).all fun i => !((r.chanoff[n / 2]?).getD 0).getLsbD (16 * (n % 2) + i)) &&
      (List.range 80).any fun k => !clusterOff r ⟨n, k % 10, k / 10⟩

/-- Is a cluster enabled (R23)? -/
def clusterEnabled (s : State) (c : ClusterPos) : Bool :=
  match s.svc.config with
  | none => false
  | some r => dieEnabled s c.die && decide (c.cx < 10) && decide (c.cy < 8) && !clusterOff r c

/-- Is a core enabled (R23)? -/
def coreEnabled (s : State) (p : CorePos) : Bool :=
  match s.svc.config with
  | none => false
  | some r => clusterEnabled s p.cluster && decide (p.core < 64) && !r.coreoff.contains p

/-! ## Local windows -/

/-- Scratchpad bytes under a split (R116). -/
def padBytes (split : Nat) : Nat := Config.clusterSram - split * Config.splitUnit

/-- Is this an absolute or relative local-window address (R114, R115)? -/
def isWindow (va : Word) : Bool := va.toNat / 2 ^ 56 = 0xFE || va.toNat / 2 ^ 56 = 0xFD

/-- A two's-complement field of w bits. -/
def signedField (v w : Nat) : Int := if v < 2 ^ (w - 1) then (v : Int) else (v : Int) - 2 ^ w

/-- The bank and key that a local-window address names for an access from core p of a fold, or none for an access fault
(R114 to R116). -/
def windowKey (s : State) (p : CorePos) (fold : Nat) (va : Word) : Option Nat :=
  let n := va.toNat
  let die := n / 2 ^ 51 % 32
  let cx := n / 2 ^ 47 % 16
  let cy := n / 2 ^ 44 % 8
  let co := n / 2 ^ 38 % 64
  let space := n / 2 ^ 37 % 2
  let off := n % 2 ^ 37
  let rel := n / 2 ^ 56 = 0xFD
  let t : Int × Int × Int × Int :=
    if rel then (p.die + signedField die 5, p.cx + signedField cx 4, p.cy + signedField cy 3, p.core + signedField co 6)
    else ((die : Int), (cx : Int), (cy : Int), (co : Int))
  if t.1 < 0 || 32 ≤ t.1 || t.2.1 < 0 || 10 ≤ t.2.1 || t.2.2.1 < 0 || 8 ≤ t.2.2.1 then none
  else if space = 0 && (t.2.2.2 < 0 || 64 ≤ t.2.2.2) then none
  else
    let q : CorePos := ⟨t.1.toNat, t.2.1.toNat, t.2.2.1.toNat, if space = 1 then 0 else t.2.2.2.toNat⟩
    match foldAt s fold with
    | none => none
    | some f =>
      if !f.dies.contains q.die then none
      else if space = 1 then
        if clusterEnabled s q.cluster && decide (off < padBytes (clusterAt s p.cluster).split) then some (padKey q.cluster + off)
        else none
      else if coreEnabled s q && decide (off < Config.tcmBytes) then some (tcmKey q + off)
      else none

/-- The core, or cluster with core 0, and the space of a bank key (R114). -/
def bankOwner (key : Nat) : CorePos × Bool :=
  (⟨key / 2 ^ 51 % 32, key / 2 ^ 47 % 16, key / 2 ^ 44 % 8, key / 2 ^ 38 % 64⟩, key / 2 ^ 37 % 2 = 1)

/-- Is a bank key remote for a core: neither its own TCM nor its own cluster's scratchpad (R293)? -/
def isRemote (p : CorePos) (key : Nat) : Bool :=
  let o := bankOwner key
  if o.2 then o.1.cluster != p.cluster else o.1 != p

/-! ## Page-table entries -/

/-- V of an entry (R117). -/
def pteV (e : Word) : Bool := e.getLsbD 0
/-- R of an entry. -/
def pteR (e : Word) : Bool := e.getLsbD 1
/-- W of an entry. -/
def pteW (e : Word) : Bool := e.getLsbD 2
/-- X of an entry. -/
def pteX (e : Word) : Bool := e.getLsbD 3
/-- U of an entry. -/
def pteU (e : Word) : Bool := e.getLsbD 4
/-- A of an entry. -/
def pteA (e : Word) : Bool := e.getLsbD 5
/-- D of an entry. -/
def pteD (e : Word) : Bool := e.getLsbD 6
/-- COW of an entry. -/
def pteCow (e : Word) : Bool := e.getLsbD 7
/-- REGION of an entry. -/
def pteRegion (e : Word) : BitVec 6 := e.extractLsb' 8 6
/-- PLACE of an entry. -/
def ptePlace (e : Word) : Nat := (e.extractLsb' 17 3).toNat
/-- DIE of an entry. -/
def pteDie (e : Word) : Nat := (e.extractLsb' 20 5).toNat
/-- PFN of an entry. -/
def ptePfn (e : Word) : Nat := (e.extractLsb' 26 36).toNat
/-- SIZE of an entry. -/
def pteSize (e : Word) : Nat := (e.extractLsb' 62 2).toNat

/-- What a cached word keeps of an entry. -/
def pteAttr (e : Word) : Attr := { region := pteRegion e, place := ptePlace e, die := pteDie e, cls := e.extractLsb' 14 3 }

/-- What a walk finds (R296). -/
inductive WalkRes where
  | leaf (pte : Word) (ptePa : Nat) (bits : Nat)
  | absent
  | bad
  deriving DecidableEq, Repr

/-- The levels of the tree: the shift and width of the index, and the SIZE a leaf may have there (R117). -/
def walkLevels : List (Nat × Nat × Option Nat) :=
  [(46, 11, none), (36, 10, some 2), (26, 10, some 1), (16, 10, some 0)]

/-- The log2 size of a leaf (R117). -/
def leafBits (size : Nat) : Nat := 16 + 10 * size

/-- Follows the tables from a table at PA base (R296). -/
def walkFrom (s : State) (fold : Nat) (va : Nat) : List (Nat × Nat × Option Nat) → Nat → State × WalkRes
  | [], _ => (s, .bad)
  | (shift, width, leafOk) :: rest, base =>
    let pa := base + 8 * (va / 2 ^ shift % 2 ^ width)
    let r := homeRead8 s (homeKey fold pa)
    let e := r.2
    if !pteV e then (r.1, .absent)
    else if e.getLsbD 25 then (r.1, .bad)
    else if pteSize e = 3 then (if rest.isEmpty then (r.1, .bad) else walkFrom r.1 fold va rest (ptePfn e * 65536))
    else if leafOk ≠ some (pteSize e) then (r.1, .bad)
    else if ptePfn e % 2 ^ (10 * pteSize e) ≠ 0 then (r.1, .bad)
    else if pteW e && !pteR e then (r.1, .bad)
    else (r.1, .leaf e pa (leafBits (pteSize e)))

/-- The packets of a walk's reads from a die: one for each entry that it reads at its home (R12, R296). -/
def walkTraffic (s : State) (die fold va : Nat) : List (Nat × Nat × Option Nat) → Nat → State
  | [], _ => s
  | (shift, width, _) :: rest, base =>
    let k := homeKey fold (base + 8 * (va / 2 ^ shift % 2 ^ width))
    let e := (homeRead8 s k).2
    if pteV e && !e.getLsbD 25 && pteSize e == 3 && !rest.isEmpty then walkTraffic (sendTable s die k) die fold va rest (ptePfn e * 65536)
    else sendTable s die k

/-- Walk(va) from the root of a VF (R296). -/
def walk (s : State) (fold root : Nat) (va : Word) : State × WalkRes := walkFrom s fold va.toNat walkLevels root

/-- Is a VA canonical on 57 bits (R295)? -/
def canonical (va : Word) : Bool := va == (va.extractLsb' 0 57).signExtend 64

/-! ## TLB -/

/-- The page number of a VA at a size. -/
def pageOf (va : Word) (bits : Nat) : Nat := va.toNat / 2 ^ bits

/-- Looks up a TLB (R298). -/
def tlbFind (s : State) (h : TlbHome) (vf : Nat) (va : Word) : Option TlbEntry :=
  s.tlb.find? fun e => e.at_ == h && e.vf == vf && e.page == pageOf va e.bits

/-- Adds an entry to its TLB (R298). That the oldest entry of a full TLB leaves is the model's choice (DESIGN CHOICE, log 10): R298 is
silent on it. -/
def tlbAdd (s : State) (e : TlbEntry) : State :=
  let mine := s.tlb.filter fun h => h.at_ == e.at_
  let cap := match e.at_ with | .core _ => Config.tlbEntries | .cluster _ => 1024
  let kept := if mine.length < cap then s.tlb
    else match mine with
      | [] => s.tlb
      | h :: _ => s.tlb.erase h
  { s with tlb := kept ++ [e] }

/-- Is a VF one of a fold? -/
def vfOfFold (s : State) (vf fold : Nat) : Bool := (vfAt s vf).any fun v => v.fold == fold

/-- Sets bits of the leaf at PA ptePa of a fold by an atomic operation at its home, and in every TLB entry of that leaf (R119, R297). -/
def setPteBits (s : State) (fold ptePa : Nat) (bits : Word) : State :=
  let r := homeRead8 s (homeKey fold ptePa)
  let s1 := homeWriteWords r.1 (homeKey fold ptePa) 2 (r.2 ||| bits).toNat
  { s1 with tlb := s1.tlb.map fun e => if e.ptePa = ptePa && vfOfFold s e.vf fold then { e with pte := e.pte ||| bits } else e }

/-- The bits that an access of a kind sets in a leaf that does not have them (R297): A, and D for a write. -/
def usedBits (pte : Word) (write : Bool) : Word := (if pteA pte then 0 else 0x20) ||| (if write && !pteD pte then 0x40 else 0)

/-- Sets A, and D for a write, of the leaf through which an access goes (R297). -/
def setUsed (s : State) (fold ptePa : Nat) (pte : Word) (write : Bool) : State :=
  if usedBits pte write = 0 then s else setPteBits s fold ptePa (usedBits pte write)

/-- The same for an access from a die, whose atomic operation at the home is a packet (R12, R297). -/
def setUsedFrom (s : State) (die fold ptePa : Nat) (pte : Word) (write : Bool) : State :=
  if usedBits pte write = 0 then s else setPteBits (sendTable s die (homeKey fold ptePa)) fold ptePa (usedBits pte write)

/-! ## Translate -/

/-- For whom an access is translated. -/
structure Who where
  pos : CorePos
  fold : Nat
  vf : Nat
  level : BitVec 2
  unit : Nat
  deriving DecidableEq, Repr

/-- The strand of a core as the requester: unit 0. -/
def Core.who (c : Core) : Who := { pos := c.pos, fold := c.fold, vf := c.vf, level := c.regs.level, unit := 0 }

/-- The unit of a core's vector queue as a requester. -/
def queueUnit : Nat := 1

/-- What Translate answers (R295): a place, a fault with its cause, or a wait for service. -/
inductive TransRes where
  | ok (l : Loc)
  | fault (code : Nat)
  | wait
  deriving DecidableEq, Repr

/-- The cause of an access fault (R295). -/
def accessCause : Access → Nat
  | .r => 5
  | .w => 6
  | .x => 1

/-- Is this a request for a page, not yet refused? -/
def openReq (vf page : Nat) (cow : Bool) (r : PageReq) : Bool := r.vf == vf && r.page == page && r.cow == cow && !r.refused

/-- A request that one more access waits for. -/
def addWaiter (w : CorePos × Nat) (r : PageReq) : PageReq :=
  if r.waiters.contains w then r else { r with waiters := r.waiters ++ [w] }

/-- A command comes to the drovers: during a swap it waits in the mailbox, to be served in its turn (R446). -/
def noteCmd (s : State) (c : DrvCmd) : State :=
  if s.svc.swapping then { s with svc := { s.svc with drvQueue := s.svc.drvQueue ++ [c] } } else s

/-- A new request for service of the page of a VA, posted to the host in the assisted mode (R299, R300, R452). -/
def newRequest (s : State) (fold vf : Nat) (va : Word) (acc : Access) (cow : Bool) (waiters : List (CorePos × Nat)) : State :=
  match foldAt s fold with
  | none => s
  | some f =>
    let q : PageReq := { vf := vf, page := pageOf va 16, access := acc, cow := cow, refused := false, waiters := waiters }
    let s1 := { s with pageReqs := s.pageReqs ++ [q] }
    if f.mode.getLsbD (if cow then 1 else 0) then
      let code : Word := if cow then 0 else (match acc with | .r => 0 | .w => 1 | .x => 2)
      postMb s1 fold ⟨if cow then 3 else 1, vf, va, code, 0⟩
    else noteCmd s1 (.page vf (pageOf va 16) cow)

/-- Asks for service of a page, once however many accesses wait (R299, R300). -/
def askPage (s : State) (w : Who) (va : Word) (acc : Access) (cow : Bool) : State :=
  let page := pageOf va 16
  let me := (w.pos, w.unit)
  if s.pageReqs.any (openReq w.vf page cow) then
    { s with pageReqs := s.pageReqs.map fun r => if openReq w.vf page cow r then addWaiter me r else r }
  else newRequest s w.fold w.vf va acc cow [me]

/-- Was the service that an access waited for refused (R299)? The refusal stands until the access has ended. -/
def wasRefused (s : State) (w : Who) (va : Word) : Bool :=
  s.pageReqs.any fun r => r.vf == w.vf && r.page == pageOf va 16 && r.refused && r.waiters.contains (w.pos, w.unit)

/-- Does an access wait for the service of a page already, so that its walk is not repeated until the service has answered (R299)? -/
def isWaiting (s : State) (w : Who) (va : Word) : Bool :=
  s.pageReqs.any fun r => r.vf == w.vf && r.page == pageOf va 16 && !r.refused && r.waiters.contains (w.pos, w.unit)

/-- The access of a unit of a core has ended: no refusal is left for it (R299). -/
def endRefusals (s : State) (p : CorePos) (unit : Nat) : State :=
  if s.pageReqs.any fun r => r.refused && r.waiters.contains (p, unit) then
    let rs := s.pageReqs.map fun r => if r.refused then { r with waiters := r.waiters.erase (p, unit) } else r
    { s with pageReqs := rs.filter fun r => !r.refused || !r.waiters.isEmpty }
  else s

/-- The leaf for a VA: from the core's TLB, the cluster's, or a walk that fills both (R298). -/
def leafFor (s : State) (w : Who) (va : Word) : State × WalkRes :=
  match tlbFind s (.core w.pos) w.vf va with
  | some e => (s, .leaf e.pte e.ptePa e.bits)
  | none =>
    match tlbFind s (.cluster w.pos.cluster) w.vf va with
    | some e => (tlbAdd s { e with at_ := .core w.pos }, .leaf e.pte e.ptePa e.bits)
    | none =>
      match vfAt s w.vf with
      | none => (s, .bad)
      | some v =>
        let s0 := if isWaiting s w va then s else walkTraffic s w.pos.die w.fold va.toNat walkLevels v.root
        let r := walk s0 w.fold v.root va
        match r.2 with
        | .leaf pte pa bits =>
          let e : TlbEntry := { at_ := .cluster w.pos.cluster, vf := w.vf, page := pageOf va bits, bits := bits, pte := pte, ptePa := pa }
          (tlbAdd (tlbAdd r.1 e) { e with at_ := .core w.pos }, .leaf pte pa bits)
        | other => (r.1, other)

/-- The queue engine of the home of a key: that of its slice, or of memory that no home slice of the module fronts (R125, R392). -/
def homeEngine (s : State) (key : Nat) (die : Option Nat) : Engine :=
  match die, (foldAt s (key / 2 ^ 52)).bind fun f => homeOf f (key % 2 ^ 52) with
  | some h, _ => .slice h (homeSlice (key % 2 ^ 52))
  | none, some h => .slice h (homeSlice (key % 2 ^ 52))
  | none, none => .pool

/-- The queue engine that serves the sync variable at a place for core p at a scope: that of level(scope) (R354, R366, R392). -/
def engineOf (s : State) (p : CorePos) (sc : Scope) (l : Loc) : Engine :=
  match l with
  | .glob k pte _ =>
    (match levelOf s p sc with
     | .cluster c => .cluster c
     | .die n => .die n
     | _ =>
       match (foldAt s (k / 2 ^ 52)).bind fun f => homeDie f (ptePlace pte) (pteDie pte) (k % 2 ^ 52) with
       | some (some h) => homeEngine s k (some h)
       | _ => .pool)
  | .peer k _ _ => homeEngine s k none
  | .bank _ => .pool

/-- The requests that a queue engine holds at most (R392); for memory outside the module no rule says how many (log 65). -/
def engineRoom (e : Engine) : Option Nat :=
  match e with
  | .cluster _ => some 1024
  | .die _ => some 4096
  | .slice _ _ => some 4096
  | .pool => none

/-- Is every entry of a queue engine taken (R392)? -/
def engineFull (s : State) (e : Engine) : Bool :=
  (engineRoom e).any fun n => decide (n ≤ (s.parked.filter fun p => p.engine == e).length)

/-- The installed handle that covers a PA of a fold's peer-window range, with the offset inside it (R124). -/
def handleFor (s : State) (f : Fold) (pa : Nat) : Option (Handle × Nat) :=
  let hs := s.folds.flatMap (·.handles)
  (hs.filterMap fun h =>
    (h.installed.find? fun i => i.1 == f.num && decide (f.map.wbase + i.2.1 ≤ pa) && decide (pa < f.map.wbase + i.2.1 + i.2.2)).map
      fun i => (h, pa - f.map.wbase - i.2.1)).head?

/-- Is a handle's exporter another package: a remote endpoint (R124, R445)? -/
def isFar (h : Handle) : Bool := h.endpoint != 0

/-- Is a handle's exporter a remote endpoint over Ultra Ethernet, and not one over UALink (R124, R458; log 57)? -/
def isNetwork (h : Handle) : Bool := isFar h && Config.overEthernet h.endpoint

/-- Does an importer reach a key of another fold of the module, through a leaf, by a handle (R124)? -/
def reachesBy (s : State) (f : Fold) (key : Nat) (pte : Word) (h : Handle) : Bool :=
  let off := key % 2 ^ 52 - h.base
  h.fold == key / 2 ^ 52 && decide (h.base ≤ key % 2 ^ 52) && h.installed.any fun i =>
    let pa := f.map.wbase + i.2.1 + off
    i.1 == f.num && decide (off < i.2.2) && ptePfn pte * 65536 / 2 ^ leafBits (pteSize pte) == pa / 2 ^ leafBits (pteSize pte) &&
      handleFor s f pa == some (h, off)

/-- The handle by which a fold reaches a key through a leaf (R124). -/
def peerHandle (s : State) (fold key : Nat) (pte : Word) : Option Handle :=
  (foldAt s fold).bind fun f => (s.folds.flatMap (·.handles)).find? (reachesBy s f key pte)

/-- The packet of an access from a die of a fold through a peer window to the home die of the owner, which names the handle in use (R12,
R17, R126). -/
def peerRequest (s : State) (die fold key : Nat) (pte : Word) : State :=
  match (foldAt s (key / 2 ^ 52)).bind fun f => homeOf f (key % 2 ^ 52), peerHandle s fold key pte with
  | some d, some h => meshRequest s fold (.peer h.id) die d key
  | _, _ => s

/-- Does a handle allow an access (R124, R445)? -/
def handleAllows (h : Handle) (acc : Access) : Bool :=
  !h.revoked && (match acc with | .r => h.rights.getLsbD 0 | .w => h.rights.getLsbD 1 | .x => false)

/-- The place of a translated PA: the home check of R120, pooled memory (R125) or a peer window (R124). net says that a
network window may be named (R458). -/
def placeOf (s : State) (w : Who) (acc : Access) (pte : Word) (ptePa pa : Nat) (net : Bool) : TransRes :=
  match foldAt s w.fold with
  | none => .fault (accessCause acc)
  | some f =>
    if ptePlace pte = 4 then
      if f.map.pbase ≤ pa && pa < f.map.pbase + f.map.psize then .ok (.glob (homeKey w.fold pa) pte ptePa)
      else .fault (accessCause acc)
    else if ptePlace pte = 5 then
      match handleFor s f pa with
      | none => .fault (accessCause acc)
      | some (h, off) =>
        if handleAllows h acc && (net || !isNetwork h) then
          .ok (.peer (if isFar h then homeKey w.fold pa else homeKey h.fold (h.base + off)) pte ptePa)
        else .fault (accessCause acc)
    else match homeDie f (ptePlace pte) (pteDie pte) pa with
      | some _ => .ok (.glob (homeKey w.fold pa) pte ptePa)
      | none => .fault 23

/-- Does an entry grant the access at a level (R295)? -/
def pteAllows (pte : Word) (acc : Access) (lv : BitVec 2) : Bool :=
  (match acc with | .r => pteR pte | .w => pteW pte | .x => pteX pte) && (lv != 0 || pteU pte)

/-- Translate(va, access) (R295 to R300). defer leaves A and D to the moment a store-buffer entry leaves (R297); net as in
placeOf. -/
def translateAs (s : State) (w : Who) (va : Word) (acc : Access) (defer net : Bool) : State × TransRes :=
  if isWindow va then
    match acc, windowKey s w.pos w.fold va with
    | .x, _ => (s, .fault 1)
    | _, some k => (s, .ok (.bank k))
    | a, none => (s, .fault (accessCause a))
  else if !canonical va then (s, .fault (accessCause acc))
  else
    let r := leafFor s w va
    match r.2 with
    | .bad => (r.1, .fault (accessCause acc))
    | .absent =>
      if wasRefused r.1 w va then (r.1, .fault (accessCause acc)) else (askPage r.1 w va acc false, .wait)
    | .leaf pte ptePa bits =>
      if !pteAllows pte acc w.level then (r.1, .fault (accessCause acc))
      else if acc = .w && pteCow pte then (askPage r.1 w va acc true, .wait)
      else
        let pa := ptePfn pte * 65536 + va.toNat % 2 ^ bits
        let place := placeOf r.1 w acc pte ptePa pa net
        match place with
        | .ok _ => ((if defer then r.1 else setUsedFrom r.1 w.pos.die w.fold ptePa pte (acc = .w)), place)
        | other => (r.1, other)

/-- Translate for an access that is performed at once. -/
def translate (s : State) (w : Who) (va : Word) (acc : Access) : State × TransRes := translateAs s w va acc false false

/-- A probe without service, TLB fill or A and D: PREF (R281) and an early load (R288) use it. -/
def probe (s : State) (w : Who) (va : Word) (acc : Access) : Option Loc :=
  if isWindow va then (windowKey s w.pos w.fold va).map .bank
  else if !canonical va then none
  else match (leafFor s w va).2 with
    | .leaf pte ptePa bits =>
      if pteAllows pte acc w.level && !(acc = .w && pteCow pte) then
        match placeOf s w acc pte ptePa (ptePfn pte * 65536 + va.toNat % 2 ^ bits) false with
        | .ok l => some l
        | _ => none
      else none
    | _ => none

/-- Does a VA lie in a peer window whose handle does not give the right to atomics (R124, R445)? -/
def lacksAtomics (s : State) (w : Who) (va : Word) : Bool :=
  match foldAt s w.fold, (leafFor s w va).2 with
  | some f, .leaf pte _ bits =>
    ptePlace pte == 5 && !isWindow va &&
      (handleFor s f (ptePfn pte * 65536 + va.toNat % 2 ^ bits)).any fun h => !h.1.rights.getLsbD 2
  | _, _ => false

/-- The place of a VA of a VF for the dispatcher, with the rights of level 2 (R90), or none. -/
def vfPlace (s : State) (vf : Nat) (va : Word) (acc : Access) : Option Loc :=
  match vfAt s vf with
  | none => none
  | some v =>
    if isWindow va || !canonical va then none
    else match (walk s v.fold v.root va).2 with
      | .leaf pte ptePa bits =>
        if pteAllows pte acc 2 then
          match placeOf s ⟨⟨0, 0, 0, 0⟩, v.fold, vf, 2, 0⟩ acc pte ptePa (ptePfn pte * 65536 + va.toNat % 2 ^ bits) false with
          | .ok l => some l
          | _ => none
        else none
      | _ => none

/-- The home key of a VA of a VF for the dispatcher, with its leaf (R90), or none. A page that a write must copy first counts as writable
(R117). -/
def vfKey (s : State) (vf : Nat) (va : Word) (acc : Access) : Option (Nat × Word) :=
  match vfPlace s vf va acc with
  | some (.glob k p _) => some (k, p)
  | some (.peer k p _) => some (k, p)
  | _ => none

/-- Must a write of the dispatcher at a VA wait for the copy of its page (R117, R300)? -/
def mustCopy (s : State) (vf : Nat) (va : Word) : Bool := (vfKey s vf va .w).any fun k => pteCow k.2

/-- The VAs of a list whose pages must be copied before the dispatcher writes there: the copies are asked for, or none is needed (R117,
R300). -/
def askCopies (s : State) (vf : Nat) (vas : List Word) : Option State :=
  match vas.filter (mustCopy s vf), vfAt s vf with
  | [], _ => none
  | _, none => none
  | need, some v =>
    some (need.foldl (fun s va =>
      if s.pageReqs.any (openReq vf (pageOf va 16) true) then s else newRequest s v.fold vf va .w true []) s)

/-- The first byte of each 64 KiB page that n bytes from a VA touch. -/
def pagesOf (va : Word) (n : Nat) : List Word :=
  if n = 0 then []
  else va :: ((List.range ((va.toNat % 65536 + n - 1) / 65536)).map fun i => BitVec.ofNat 64 ((va.toNat / 65536 + i + 1) * 65536))

/-- Sets A, and D for a write, of the leaves through which the dispatcher reaches n bytes (R297). -/
def useVas (s : State) (vf : Nat) (acc : Access) (va : Word) (n : Nat) : State :=
  (pagesOf va n).foldl (fun s a =>
    match vfPlace s vf a acc, vfAt s vf with
    | some (.glob _ p pa), some v => setUsed s v.fold pa p (acc = .w)
    | some (.peer _ p pa), some v => setUsed s v.fold pa p (acc = .w)
    | _, _ => s) s

/-- The keys of n aligned 8-byte words from a VA, or none when one of them is not accessible (R90, R107). -/
def vfKeys (s : State) (vf : Nat) (acc : Access) (va : Word) : Nat → Option (List Nat)
  | 0 => some []
  | n + 1 =>
    match vfKey s vf va acc with
    | none => none
    | some k => (vfKeys s vf acc (va + 8) n).map (k.1 :: ·)

/-- Reads the 8-byte words at a list of keys at the home. -/
def readKeys (s : State) : List Nat → State × List Word
  | [] => (s, [])
  | k :: t =>
    let a := homeRead8 s k
    let r := readKeys a.1 t
    (r.1, a.2 :: r.2)

/-- Writes 8-byte words at a list of keys at the home. -/
def writeKeys (s : State) : List (Nat × Word) → State
  | [] => s
  | (k, v) :: t => writeKeys (homeWriteWords s k 2 v.toNat) t

end Sys2Proof.Machine
end

