-- ==== Sys2Proof/Machine/Regs.lean ====
section
/-!
DEFINITION. Machine/Regs.lean: reading and writing the registers of the core in focus, and finding and replacing cores,
launches, folds and VFs in the state.
-/

namespace Sys2Proof.Machine

/-! ## The core in focus -/

/-- Replaces the core in focus. -/
def setCore (s : State) (c : Core) : State := { s with core := c }

/-- Replaces the scalar registers. -/
def setRegs (s : State) (r : Regs) : State := { s with core := { s.core with regs := r } }

/-- Replaces the trap CSRs. -/
def setTrap (s : State) (t : TrapRegs) : State := { s with core := { s.core with trap := t } }

/-- Replaces the queues. -/
def setQ (s : State) (q : Queues) : State := { s with core := { s.core with q := q } }

/-- Replaces the vector registers. -/
def setVec (s : State) (v : VecRegs) : State := { s with core := { s.core with vec := v } }

/-- Replaces the matrix engine's registers. -/
def setMat (s : State) (m : MatRegs) : State := { s with core := { s.core with mat := m } }

/-- Replaces the synchronisation side. -/
def setSync (s : State) (y : SyncRegs) : State := { s with core := { s.core with sync := y } }

/-- x(r): x0 reads as zero (R171). -/
def xr (s : State) (r : Reg) : Word := if r = 0 then 0 else s.core.regs.x.get r.toFin

/-- Writes x(r) without an undo entry; a write to x0 is discarded (R171). -/
def setX (s : State) (r : Reg) (v : Word) : State :=
  if r = 0 then s else setRegs s { s.core.regs with x := s.core.regs.x.set r.toNat v r.isLt }

/-- The PC of the strand in focus. -/
def pcOf (s : State) : Word := s.core.regs.pc

/-- Moves the PC. -/
def setPc (s : State) (pc : Word) : State := setRegs s { s.core.regs with pc := pc }

/-- d(n); n above the current depth reads 0 (R201). -/
def dreg (s : State) (n : Nat) : Word := if n ≤ s.core.regs.depth then (s.core.regs.d[n]?).getD 0 else 0

/-- The template shadow of depth n (R201). -/
def shadowAt (s : State) (n : Nat) : Word := (s.core.regs.shadow[n]?).getD 0

/-- Replaces an element of a vector; an index out of range changes nothing. -/
def vset {α : Type} {n : Nat} (v : Vector α n) (i : Nat) (x : α) : Vector α n := v.setIfInBounds i x

/-- A loop level of the core in focus. -/
def loopAt (s : State) (n : Nat) : LoopLevel := (s.core.regs.loops[n]?).getD LoopLevel.reset

/-- Adds an undo entry while a queued instruction is outstanding (R166). -/
def pushUndo (s : State) (i : UndoItem) : State :=
  if s.core.q.queue.isEmpty then s
  else setQ s { s.core.q with undo := s.core.q.undo ++ [{ after := s.core.q.qnext, item := i, flags := 0 }] }

/-- The newest undo entry holds the flags that its instruction raised (R166). -/
def holdFlags (f : BitVec 6) : List UndoEntry → List UndoEntry
  | [] => []
  | [u] => [{ u with flags := u.flags ||| f }]
  | u :: t => u :: holdFlags f t

/-- Writes x(r) as a strand instruction does: the old value goes to the undo log (R166). -/
def writeX (s : State) (r : Reg) (v : Word) : State :=
  if r = 0 then s else setX (pushUndo s (.xreg r (xr s r))) r v

/-- Writes a loop level with its undo entry (R166). -/
def writeLoop (s : State) (n : Nat) (l : LoopLevel) : State :=
  let s1 := pushUndo s (.loopLevel n (loopAt s n))
  setRegs s1 { s1.core.regs with loops := vset s1.core.regs.loops n l }

/-- STGV as a register (R185). -/
def stgv (s : State) : Word :=
  (List.range 6).foldl (fun (acc : Word) n => acc ||| ((loopAt s n).stg.setWidth 64 <<< (8 * n))) 0

/-- The launch of a LID. -/
def launchAt (s : State) (lid : Word) : Option Launch := s.launches.find? fun l => l.lid == lid

/-- Writes a launch. -/
def setLaunch (s : State) (l : Launch) : State := { s with launches := upsert (fun h => h.lid == l.lid) l s.launches }

/-- The launch of the strand in focus. -/
def myLaunch (s : State) : Option Launch := launchAt s s.core.lid

/-! ## Cores by place -/

/-- The core at a place; one that has held nothing is as reset leaves it. -/
def coreAt (s : State) (p : CorePos) : Core :=
  if s.core.pos = p then s.core else (s.others.find? fun c => c.pos == p).getD (Core.reset p)

/-- Writes the core of its place. -/
def setCoreAt (s : State) (c : Core) : State :=
  if s.core.pos = c.pos then { s with core := c }
  else { s with others := upsert (fun h => h.pos == c.pos) c s.others }

/-- Puts a core in focus; the one in focus before stands among the others (log 2). -/
def focusOn (s : State) (p : CorePos) : State :=
  if s.core.pos = p then s
  else
    let c := coreAt s p
    { s with core := c, others := upsert (fun h => h.pos == s.core.pos) s.core (s.others.filter fun h => h.pos != p) }

/-- Every core that the state lists. -/
def allCores (s : State) : List Core := s.core :: s.others

/-- Applies a function to every core listed. -/
def mapCores (s : State) (f : Core → Core) : State := { s with core := f s.core, others := s.others.map f }

/-- What an acquire of core p leaves of a PREF's fill: the levels that it does not invalidate, whatever the regions (R281, R362). -/
def prefAfter (p : CorePos) (lower : List Level) (f : PrefFill) : Option PrefFill :=
  let ls := f.levels.filter fun l => !(l == .l1 p || lower.contains l)
  if ls.isEmpty then none else some { f with levels := ls }

/-- What an acquire of core p at a scope leaves of the fills that a core has pending (R281, R362). -/
def dropFills (p : CorePos) (lower : List Level) (c : Core) : Core := { c with prefs := c.prefs.filterMap (prefAfter p lower) }

/-- An acquire of the core in focus (R362): Valid words go, and so do the pending fills of earlier PREFs of every core, at the levels it
invalidates (R281). -/
def acquire (s : State) (m : Word) (sc : Scope) : State :=
  let p := s.core.pos
  mapCores (selfInvalidate s p m sc) (dropFills p (below (levelOf s p sc) (sharedPath s p)))

/-! ## Frame templates (R44) -/

/-- SLOTS of a template. -/
def tSlots (t : Word) : Nat := (t.extractLsb' 0 10).toNat
/-- SCOPE of a template. -/
def tScope (t : Word) : Scope := t.extractLsb' 10 2
/-- POLICY of a template. -/
def tPolicy (t : Word) : Nat := (t.extractLsb' 12 2).toNat
/-- FOP of a template. -/
def tFop (t : Word) : BitVec 3 := t.extractLsb' 14 3
/-- FOWN of a template. -/
def tFown (t : Word) : Nat := (t.extractLsb' 17 10).toNat
/-- FPAR of a template. -/
def tFpar (t : Word) : Nat := (t.extractLsb' 27 10).toNat

/-- A word with the field at lo of width w replaced. -/
def putField (t : Word) (lo w v : Nat) : Word :=
  let m : Word := (BitVec.allOnes 64 >>> (64 - w)) <<< lo
  (t &&& ~~~m) ||| ((BitVec.ofNat 64 v <<< lo) &&& m)

/-- A bit as a word. -/
def bitWord (b : Bool) : Word := if b then 1 else 0

/-- TIME of a state ticks with its cycle count: one step is one arithmetic cycle (R20). -/
def tick (s : State) : State := { s with now := s.now + 1 }

/-- Has the switch time of its fold come for the running VF that a core serves (R411, R412)? -/
def switchDue (s : State) (c : Core) : Bool :=
  match foldAt s c.fold with
  | some f => f.running == some c.vf && f.switchT.any fun t => decide (t ≤ (timeOf s).toNat)
  | none => false

/-- Does an open region of its strand delay a core's stop (R416)? -/
def regionOpen (c : Core) : Bool := c.sync.npr || c.sync.phase.isSome

/-- Does the VF of a core stand restored, its restart time still to come (R415)? -/
def restarting (s : State) (c : Core) : Bool :=
  match foldAt s c.fold with
  | some f => f.running == some c.vf && f.restart.isSome
  | none => false

/-- Must a core have stopped for a gang switch, or not yet start after one (R412, R415)? -/
def switchStops (s : State) (c : Core) : Bool := c.sync.halted || restarting s c || (switchDue s c && !regionOpen c)

/-- Takes the next number for a free value. -/
def nextFree (s : State) : State × Nat := ({ s with freeCtr := s.freeCtr + 1 }, s.freeCtr)

/-- The strand in focus makes no progress in this step (R163). -/
def stall (s : State) : State := setSync s { s.core.sync with stall := true }

end Sys2Proof.Machine
end

