-- ==== Sys2Proof/Machine/Launches.lean ====
section
/-!
DEFINITION. Machine/Launches.lean: the launch record (R40 to R49), the die and core lists with the flattened indices (R100 to
R103), the append unit (R78 to R82), the counter tree's counts (R112, R432), triggers (R436) and completion records (R50 to
R52, R433 to R435).
-/

namespace Sys2Proof.Machine

/-! ## The launch record -/

/-- A field of a word as a number. -/
def fieldN (w : Word) (lo n : Nat) : Nat := (w.extractLsb' lo n).toNat

/-- The word at an index of a list. -/
def wordIdx (ws : List Word) (i : Nat) : Word := (ws[i]?).getD 0

/-- The launch record in its 32 words (R40). -/
def parseRecord (ws : List Word) : LaunchRec :=
  { format := (wordIdx ws 0).extractLsb' 0 16
    nlevels := (wordIdx ws 0).extractLsb' 16 8
    prio := (wordIdx ws 0).extractLsb' 24 8
    flags := (wordIdx ws 0).extractLsb' 32 8
    split := (wordIdx ws 0).extractLsb' 40 8
    entry := wordIdx ws 1
    lframe := wordIdx ws 2
    image := wordIdx ws 3
    compl := wordIdx ws 4
    creg := wordIdx ws 5
    treg := wordIdx ws 6
    tmpl := #v[wordIdx ws 7, wordIdx ws 8, wordIdx ws 9]
    loops := #v[wordIdx ws 10, wordIdx ws 11, wordIdx ws 12, wordIdx ws 13, wordIdx ws 14, wordIdx ws 15]
    trough := #v[(wordIdx ws 16).extractLsb' 0 32, (wordIdx ws 16).extractLsb' 32 32,
      (wordIdx ws 17).extractLsb' 0 32, (wordIdx ws 17).extractLsb' 32 32]
    deps := #v[wordIdx ws 18, wordIdx ws 19, wordIdx ws 20, wordIdx ws 21]
    gtab := wordIdx ws 22
    gtcnt := (wordIdx ws 23).extractLsb' 0 16
    res0Zero := fieldN (wordIdx ws 0) 48 16 = 0 && fieldN (wordIdx ws 23) 16 48 = 0 && (ws.drop 24).all (· == 0) }

/-- A template word of the record by depth. -/
def recTmpl (r : LaunchRec) (d : Nat) : Word := (r.tmpl[d]?).getD 0
/-- A loop entry of the record (R41). -/
def recLoop (r : LaunchRec) (m : Nat) : Word := (r.loops[m]?).getD 0
/-- KIND of a loop entry. -/
def loopKind (e : Word) : Nat := fieldN e 0 2
/-- CSLOT of a loop entry. -/
def loopCslot (e : Word) : Bool := e.getLsbD 2
/-- COUNT of a loop entry. -/
def loopCount (e : Word) : Nat := fieldN e 8 32
/-- STEP of a loop entry. -/
def loopStep (e : Word) : Int := (e.extractLsb' 40 24).toInt
/-- A trough word of the record (R46). -/
def recTrough (r : LaunchRec) (q : Nat) : BitVec 32 := (r.trough[q]?).getD 0
/-- BASE of a trough word in bytes. -/
def troughBase (w : BitVec 32) : Nat := (w.extractLsb' 0 13).toNat * 256
/-- NSLOT of a trough word. -/
def troughSlots (w : BitVec 32) : Nat := (w.extractLsb' 16 8).toNat
/-- SSTEP of a record. -/
def recSstep (r : LaunchRec) : Bool := r.flags.getLsbD 0
/-- TRIGEXP of a record. -/
def recTrigexp (r : LaunchRec) : Bool := r.flags.getLsbD 1

/-- Do two byte intervals [a, a + n) and [b, b + m) share a byte? -/
def overlaps (a n b m : Nat) : Bool := decide (a < b + m) && decide (b < a + n) && decide (0 < n) && decide (0 < m)

/-- The loop entries obey R41 and R42. -/
def loopsOk (r : LaunchRec) : Bool :=
  (List.range 6).all fun m =>
    let e := recLoop r m
    if m < r.nlevels.toNat then
      loopKind e != 0 && fieldN e 3 5 = 0 && loopStep e != 0 &&
        (!loopCslot e || decide (loopCount e < tSlots (recTmpl r 0))) &&
        (m = 0 || decide (loopKind (recLoop r (m - 1)) ≤ loopKind e))
    else e == 0

/-- The template words obey R44. -/
def templatesOk (r : LaunchRec) : Bool :=
  (tScope (recTmpl r 0) == 2 || tScope (recTmpl r 0) == 3) && tFop (recTmpl r 0) == 0 &&
    (List.range 3).all fun d =>
      let t := recTmpl r d
      fieldN t 37 27 = 0 && tFop t != 7 &&
        (if tFop t = 0 then tFown t = 0 && tFpar t = 0
         else d != 0 && decide (tFown t < tSlots t) && decide (tFpar t < tSlots (recTmpl r (d - 1))))

/-- The trough words obey R46. -/
def troughsOk (r : LaunchRec) : Bool :=
  (List.range 4).all fun q =>
    let w := recTrough r q
    (w.extractLsb' 13 3).toNat = 0 && (w.extractLsb' 24 8).toNat = 0 &&
      (troughSlots w = 0 || decide (troughBase w + troughSlots w * Config.slotBytes ≤ padBytes r.split.toNat)) &&
      (List.range q).all fun q' =>
        !overlaps (troughBase w) (troughSlots w * Config.slotBytes) (troughBase (recTrough r q')) (troughSlots (recTrough r q') * Config.slotBytes)

/-- The dependence words obey R48. -/
def depsOk (r : LaunchRec) : Bool :=
  r.deps.toList.all fun w => if w.getLsbD 0 then fieldN w 2 4 = 0 && fieldN w 57 7 = 0 else w == 0

/-- Does the record break a rule of R40 to R48 (R49)? -/
def malformed (r : LaunchRec) : Bool :=
  !(r.format == 1 && decide (r.nlevels.toNat ≤ 6) && decide (r.prio.toNat < 8) && decide (r.flags.toNat < 4) &&
    decide (r.split.toNat ≤ 4) && r.res0Zero && decide (r.entry.toNat % 4 = 0) && decide (r.lframe.toNat % 64 = 0) &&
    decide (r.gtab.toNat % 16 = 0) && decide (r.gtcnt.toNat ≤ 256) && (r.gtab != 0 || r.gtcnt == 0) &&
    loopsOk r && templatesOk r && troughsOk r && depsOk r)

/-- The VA of a dependence (R48). -/
def depVa (w : Word) : Word := ((w.extractLsb' 6 51) ++ (0 : BitVec 6)).signExtend 64

/-! ## Dies, cores and indices -/

/-- Enabled cores of a cluster, in order. -/
def clusterCores (s : State) (c : ClusterPos) : List CorePos :=
  match s.svc.config with
  | none => []
  | some r => ((List.range 64).map fun i => (⟨c.die, c.cx, c.cy, i⟩ : CorePos)).filter fun p => !r.coreoff.contains p

/-- Enabled clusters of a die, in ascending y * 10 + x (R103). -/
def dieClusters (s : State) (die : Nat) : List ClusterPos :=
  match s.svc.config with
  | none => []
  | some r => ((List.range 80).map fun k => (⟨die, k % 10, k / 10⟩ : ClusterPos)).filter fun c => !clusterOff r c

/-- N(e): the enabled cores of a die (R103). -/
def dieCoreCount (s : State) (die : Nat) : Nat := ((dieClusters s die).map fun c => (clusterCores s c).length).sum

/-- The position of a core in P(e) (R103). -/
def corePosition (s : State) (p : CorePos) : Option Nat :=
  let rec go : List ClusterPos → Nat → Option Nat
    | [], _ => none
    | c :: t, n =>
      let cs := clusterCores s c
      if c = p.cluster then (cs.findIdx? (· == p)).map (n + ·) else go t (n + cs.length)
  go (dieClusters s p.die) 0

/-- The place of a die in the fold's list (R100). -/
def dieIndex (f : Fold) (die : Nat) : Option Nat := f.dies.findIdx? (· == die)

/-- S(e): the pairs that map to the die at index j (R102). -/
def dieStrands (l : Launch) (ndies j : Nat) : Nat :=
  if ndies = 0 then 0 else (l.nd + ndies - 1 - j) / ndies * l.nc

/-- The strands assigned to position q of a die with n cores and S strands (R103). -/
def strandsAt (total n q : Nat) : Nat := if q < total then (total - q + n - 1) / n else 0

/-- The strands of a launch assigned to a core over all waves. -/
def assigned (s : State) (l : Launch) (p : CorePos) : Nat :=
  match foldAt s l.fold with
  | none => 0
  | some f =>
    match dieIndex f p.die, corePosition s p with
    | some j, some q => strandsAt (dieStrands l f.dies.length j) (dieCoreCount s p.die) q
    | _, _ => 0

/-- The strands of a launch assigned to a cluster over all waves (R112). -/
def clusterAssigned (s : State) (l : Launch) (c : ClusterPos) : Nat := ((clusterCores s c).map (assigned s l)).sum

/-- The strands of a launch that a core has started. -/
def startedOn (l : Launch) (p : CorePos) : Nat := ((l.waves.find? fun w => w.1 == p).map (·.2)).getD 0

/-- Marks strands of a core as started. -/
def setStarted (l : Launch) (p : CorePos) (n : Nat) : Launch := { l with waves := upsert (fun w => w.1 == p) (p, n) l.waves }

/-- Have all strands of a launch started, or counted as ended without a start (R93, R428)? -/
def allStarted (l : Launch) : Bool := decide (l.nd * l.nc ≤ (l.waves.map (·.2)).sum)

/-- A launch stops placing with its last strand (R93). -/
def endPlacing (l : Launch) : Launch := if l.phase = .placing && allStarted l then { l with phase := .placed } else l

/-- The sequence number of the next strand of a core (R103). -/
def nextSeq (s : State) (l : Launch) (p : CorePos) : Nat :=
  startedOn l p * dieCoreCount s p.die + (corePosition s p).getD 0

/-- The index pair (i, c) of sequence number n on the die at index j (R102). -/
def indexPair (l : Launch) (ndies j n : Nat) : Nat × Nat :=
  let nc := if l.nc = 0 then 1 else l.nc
  (n / nc * ndies + j, n % nc)

/-- The indices k(j) of the levels of one kind, from a flattened index (R101): inner levels vary fastest. -/
def unflatten (l : Launch) (kind flat : Nat) : Vector Nat 6 :=
  ((List.range 6).reverse.foldl (fun (acc : Nat × Vector Nat 6) m =>
    if loopKind (recLoop l.record m) = kind then
      let n := (l.trips[m]?).getD 1
      if n = 0 then acc else (acc.1 / n, vset acc.2 m (acc.1 % n))
    else acc) (flat, Vector.replicate 6 0)).2

/-- The index of every D and C level of a strand (R101, R193). -/
def indicesOf (l : Launch) (i c : Nat) : Vector Nat 6 :=
  let d := unflatten l 1 i
  let k := unflatten l 2 c
  Vector.ofFn fun m => d[m] + k[m]

/-- The product of the trip counts of one kind (R101). -/
def kindProduct (r : LaunchRec) (trips : Vector Nat 6) (kind : Nat) : Nat :=
  (List.range 6).foldl (fun p m => if loopKind (recLoop r m) = kind then p * (trips[m]?).getD 1 else p) 1

/-! ## Completion -/

/-- The words of a completion record but its STATE (R50). -/
def complWords (status : Nat) (lid tstart tend : Word) (nstrand : Nat) (nfault : BitVec 32) (first : Option (Nat × Word × Word)) : List Word :=
  let f := first.getD (0xFFFFFFFF, 0, 0)
  [BitVec.ofNat 64 (status * 2 ^ 32), lid, tstart, tend, BitVec.ofNat 64 nstrand,
    BitVec.ofNat 64 (nfault.toNat + f.1 * 2 ^ 32), f.2.1, f.2.2]

/-- Writes a completion record: bytes 0x04 to 0x3F, then STATE = 2 (R52). None when it is not writable. -/
def writeCompl (s : State) (vf : Nat) (compl : Word) (ws : List Word) : Option State :=
  (vfKeys s vf .w compl 8).map fun ks =>
    match ks, ws with
    | k0 :: kt, w0 :: wt =>
      let s1 := homeWrite4 (useVas s vf .w compl 64) (k0 + 4) (w0.extractLsb' 32 32)
      let s2 := writeKeys s1 (kt.zip wt)
      homeWrite4 s2 k0 2
    | _, _ => s

/-- Reports a launch whose record cannot be answered: BADLID and a RAS entry (R90, R433). -/
def reportBad (s : State) (vf : Nat) (lid : Word) (c : RasClass) : State :=
  let s1 := match vfAt s vf with
    | some v => setVf s { v with badlid := lid }
    | none => s
  logRas s1 ((vfAt s vf).map (·.fold)) c lid

/-- Asks the dispatcher of a fold to test the waiting heads: the device has written STATE (R91). -/
def askTest (s : State) (fold : Nat) : State :=
  match foldAt s fold with
  | some f => setFold s { f with testDue := true }
  | none => s

/-- Keeps the completed launches of a list down to the n first (R95). -/
def keepDone : Nat → List Finished → List Finished
  | _, [] => []
  | n, e :: t => if e.done then (match n with | 0 => keepDone 0 t | k + 1 => e :: keepDone k t) else e :: keepDone n t

/-- What R95 keeps of a launch: wrote is the key of the record to which it has written STATE now, else the record stays the one it had
written before, if any. -/
def finishedOf (f : Fold) (l : Launch) (wrote : Option Nat) (done : Bool) : Finished :=
  let before := (f.finished.find? fun h => h.lid == l.lid).bind (·.compl)
  ⟨l.lid, wrote.or before, l.record.creg, l.record.treg, done⟩

/-- Records what R95 keeps of a launch, latest first. -/
def noteWritten (f : Fold) (l : Launch) (wrote : Option Nat) (done : Bool) : Fold :=
  { f with finished := keepDone 64 (finishedOf f l wrote done :: f.finished.filter fun h => h.lid != l.lid) }

/-- Is the dependence met, and which regions does its predecessor give (R47, R95)? None: its STATE word is not readable. -/
def depTest (s : State) (f : Fold) (vf : Nat) (w : Word) : Option (State × Bool × Word) :=
  (vfKey s vf (depVa w) .r).map fun k =>
    let r := homeRead4 s k.1
    let met := r.2.1 == 2 || (w.getLsbD 1 && r.2.1 == 1)
    let m : Word := match f.finished.find? fun e => e.compl == some k.1 with
      | some e => if w.getLsbD 1 then e.treg else e.creg
      | none => allRegions
    (r.1, met, m)

/-- Tests every dependence word in use: whether all are met, whether one was not readable, and the mask of R95. -/
def depsTest (s : State) (f : Fold) (vf : Nat) : List Word → State × Bool × Bool × Word
  | [] => (s, true, false, 0)
  | w :: t =>
    if !w.getLsbD 0 then depsTest s f vf t
    else match depTest s f vf w with
      | none =>
        let r := depsTest s f vf t
        (r.1, false, true, r.2.2.2)
      | some (s1, met, m) =>
        let r := depsTest s1 f vf t
        (r.1, met && r.2.1, r.2.2.1, m ||| r.2.2.2)

/-- Tests one waiting head (R91): the first failed read of each head is logged. A head that has been found ready stays ready, with the
regions that its predecessors gave then (R86, R95). -/
def testHead (s : State) (l : Launch) : State :=
  match foldAt s l.fold with
  | none => s
  | some f =>
    if l.ready then s
    else
      let r := depsTest s f l.vf l.record.deps.toList
      let s1 := setLaunch r.1 { l with ready := r.2.1, mask := r.2.2.2, depFault := l.depFault || r.2.2.1 }
      if r.2.2.1 && !l.depFault then logRas s1 (some l.fold) .dependenceRead l.lid else s1

/-- Tests every waiting head of a fold (R91). -/
def testHeads (s : State) (f : Fold) : State :=
  let s1 := setFold s { f with testDue := false, lastTest := (timeOf s).toNat }
  (s1.launches.filter fun l => l.fold == f.num && l.phase == .waiting).foldl testHead s1

/-- The key of a launch's completion record, as the page tables place it now. -/
def complKey (s : State) (l : Launch) : Option Nat := (vfKeys s l.vf .w l.record.compl 1).bind (·.head?)

/-- A queue of a VF, or one that is disabled and empty. -/
def queueOf (v : Vf) (p : Nat) : LQueue := (v.queues[p]?).getD { base := 0, log2n := 0, head := 0, tail := 0, enabled := false }

/-- The VA of a field of the queue block's entry for priority p (R78). -/
def blockVa (v : Vf) (p off : Nat) : Word := v.queueBlock + BitVec.ofNat 64 (32 * p + off)

/-- Writes HEAD and TAIL of a queue into the queue block, where they are writable (R79). -/
def writeBlock (s : State) (v : Vf) (p : Nat) : State :=
  match vfKeys s v.num .w (blockVa v p 0x10) 2 with
  | some ks => writeKeys (useVas s v.num .w (blockVa v p 0x10) 16) (ks.zip [BitVec.ofNat 64 (queueOf v p).head, BitVec.ofNat 64 (queueOf v p).tail])
  | none => s

/-- The fields HEAD and TAIL of a queue take the queue's counts as DEVICE-scope writes (R79, R90), at once or after their page has been
copied. A field that is not writable keeps its bytes, and the device goes by its own count (log 66). -/
def postBlock (s : State) (vf p : Nat) : State :=
  match vfAt s vf with
  | none => s
  | some v =>
    match askCopies s vf [blockVa v p 0x10] with
    | some s1 => setVf s1 { v with blockDue := v.blockDue.filter (· != p) ++ [p] }
    | none => writeBlock (setVf s { v with blockDue := v.blockDue.filter (· != p) }) v p

/-- Advances HEAD of a queue (R90). -/
def advanceHead (s : State) (vf p : Nat) : State :=
  match vfAt s vf with
  | none => s
  | some v =>
    let q := queueOf v p
    postBlock (setVf s { v with queues := vset v.queues p { q with head := q.head + 1 } }) vf p

/-- The dispatcher has written STATE to the record of a launch, or cannot: what R95 keeps of it, and the tests of R91. -/
def noteAnswer (s : State) (l : Launch) (key : Option Nat) : State :=
  match foldAt s l.fold with
  | none => s
  | some f =>
    let f1 := noteWritten f l key true
    if key.isSome then testHeads (setFold s f1) f1 else setFold s f1

/-- A launch is no longer tracked: it frees its root entry (R433). -/
def forgetLaunch (s : State) (lid : Word) : State := { s with launches := s.launches.filter fun h => h.lid != lid }

/-- Answers a launch and ends it (R433, R434): the record is written, the waiting heads are tested, and its root entry is freed. Where its
entry still stands at the head of its ring, HEAD then advances (R90). -/
def answerNow (s : State) (l : Launch) (status : Nat) (tstart : Word) (nstrand : Nat) : State :=
  let s0 := { s with launches := s.launches.map fun h => if h.lid = l.lid then { h with phase := .complete } else h }
  let key := complKey s0 l
  let s1 := match writeCompl s0 l.vf l.record.compl (complWords status l.lid tstart (timeOf s) nstrand l.nfault l.first) with
    | some s' => noteAnswer s' l key
    | none => noteAnswer (reportBad s0 l.vf l.lid .badCompletion) l none
  let s2 := forgetLaunch s1 l.lid
  if l.atHead then advanceHead s2 l.vf l.prio else s2

/-- Answers a launch with a status (R433, R434), at once, or after the page of its record has been copied (R117, R300). -/
def answer (s : State) (l : Launch) (status : Nat) (tstart : Word) (nstrand : Nat) : State :=
  match askCopies s l.vf [l.record.compl] with
  | some s1 => setLaunch s1 { l with phase := .complete, ending := some (status, tstart, nstrand) }
  | none => answerNow s l status tstart nstrand

/-- STATUS of a launch that ends through the counter tree (R435). -/
def endStatus (l : Launch) : Nat :=
  if l.byVf then 7 else if l.byWatchdog then 3 else if l.killed then 2 else if l.nfault ≠ 0 then 1 else 0

/-- LAUNCH_COMPLETE: the root at zero (R433). -/
def completeLaunch (s : State) (l : Launch) : State := answer s l (endStatus l) l.tstart (l.nd * l.nc)

/-- The count of a node for a launch. -/
def nodeCount (l : Launch) (n : TreeNode) : Nat := ((l.nodes.find? fun e => e.1 == n).map (·.2)).getD 0

/-- Counts a node down. -/
def nodeDec (l : Launch) (n : TreeNode) (k : Nat) : Launch :=
  { l with nodes := l.nodes.map fun e => if e.1 = n then (e.1, e.2 - k) else e }

/-- A node at zero that has not reported (R432). -/
def reportDue (l : Launch) (n : TreeNode) : Bool :=
  (l.nodes.any fun e => e.1 == n && e.2 == 0) && !l.reported.contains n

/-- The report of a node (R432): the node above counts down, and the root completes the launch. -/
def nodeReport (s : State) (l : Launch) (n : TreeNode) : State :=
  let l1 := { l with reported := n :: l.reported }
  match n with
  | .cluster c => setLaunch s (nodeDec l1 (.die c.die) 1)
  | .die _ => setLaunch s (nodeDec l1 .root 1)
  | .root => completeLaunch (setLaunch s l1) l1

/-- Has a launch started and not completed (R86, R435): the dispatcher has taken it from its ring (R92)? -/
def underWay (l : Launch) : Bool := l.phase == .placing || l.phase == .placed || (l.phase == .complete && l.taken)

/-- Is the VF of a launch in place: the running one of its fold, its context restored (R411, R415)? -/
def vfInPlace (s : State) (l : Launch) : Bool := (foldAt s l.fold).any fun f => f.running == some l.vf

/-- Would the end of n strands of a cluster bring the whole tree of a launch to zero (R432)? -/
def treeEnds (l : Launch) (c : ClusterPos) (n : Nat) : Bool :=
  decide (nodeCount l (.cluster c) ≤ n) && decide (nodeCount l (.die c.die) ≤ 1) && decide (nodeCount l .root ≤ 1)

/-- STATE := 1 of a launch is written while STATE is 0 (R52, R436), at once or after the page of its record has been copied. -/
def writeTriggered (s : State) (l : Launch) : State :=
  match askCopies s l.vf [l.record.compl] with
  | some s1 => setLaunch s1 { l with trigWaits := true }
  | none =>
    let s1 := setLaunch s { l with trigWaits := false }
    match vfKeys s1 l.vf .w l.record.compl 1 with
    | some (k :: _) =>
      let r := homeRead4 s1 k
      if r.2.1 = 0 then
        let s2 := askTest (homeWrite4 (useVas r.1 l.vf .w l.record.compl 4) k 1) l.fold
        (match foldAt s2 l.fold with
         | some f => setFold s2 (noteWritten f l (some k) false)
         | none => s2)
      else r.1
    | _ => s1

/-- The trigger count falls by n; at zero STATE := 1 is written while it is 0 (R436), unless ends says that the root reaches zero with it: then
STATE := 2 is written alone. -/
def triggerDec (s : State) (lid : Word) (n : Nat) (ends : Bool) : State :=
  match launchAt s lid with
  | none => s
  | some l =>
    if !recTrigexp l.record || n = 0 then s
    else
      let l1 := { l with trigger := l.trigger - n }
      if l.trigger ≤ n && l.trigger ≠ 0 && !ends then writeTriggered s l1 else setLaunch s l1

/-! ## The append unit -/

/-- The LID of append n of a VF (R82). -/
def lidOf (vf n : Nat) : Word := BitVec.ofNat 64 (vf * 2 ^ 39 + n)

/-- n after n (R82). -/
def nextAppend (n : Nat) : Nat := if n + 1 < 2 ^ 39 then n + 1 else 1

/-- Is the queue full (R81)? -/
def queueFull (q : LQueue) : Bool := decide (2 ^ q.log2n ≤ q.tail - q.head)

/-- The VA of entry n of a ring (R80). -/
def entryVa (q : LQueue) (n : Nat) : Word := q.base + BitVec.ofNat 64 (16 * (n % 2 ^ q.log2n))

/-- Does an append name an enabled queue with room and a record VA that R81 allows? -/
def mayAppend (v : Vf) (p : Nat) (recVa : Word) : Bool :=
  decide (p < 8) && (queueOf v p).enabled && !queueFull (queueOf v p) && decide (recVa.toNat % 256 = 0) && canonical recVa

/-- The append unit (R81, R82): the state and LID on acceptance, or none. -/
def append (s : State) (vf p : Nat) (recVa : Word) : Option (State × Word) :=
  match vfAt s vf with
  | none => none
  | some v =>
    let q := queueOf v p
    if !mayAppend v p recVa then none
    else match vfKeys s vf .w (entryVa q q.tail) 2, vfKeys s vf .w (blockVa v p 0x18) 1 with
      | some [k0, k1], some [kt] =>
        let lid := lidOf vf v.appends
        let s0 := useVas (useVas s vf .w (entryVa q q.tail) 16) vf .w (blockVa v p 0x18) 8
        let s1 := writeKeys s0 [(k0, recVa), (k1, lid), (kt, BitVec.ofNat 64 (q.tail + 1))]
        let v1 := { v with queues := vset v.queues p { q with tail := q.tail + 1 }, appends := nextAppend v.appends }
        some (setVf s1 v1, lid)
      | _, _ => none

/-- An append that must wait for the copy of a page that it writes, or behind doorbell writes that wait so (R81, R117): the copies are
asked for. -/
def appendWaits (s : State) (vf p : Nat) (recVa : Word) : Option State :=
  (vfAt s vf).bind fun v =>
    if mayAppend v p recVa then askCopies s vf [entryVa (queueOf v p) (queueOf v p).tail, blockVa v p 0x18] else none

/-! ## Heads -/

/-- The launch that waits at the head of a queue. -/
def waitingHead (s : State) (vf p : Nat) : Option Launch :=
  s.launches.find? fun l => l.vf == vf && l.prio == p && l.phase == .waiting

/-- A launch as its record gives it, waiting at the head of its queue (R90). -/
def newLaunch (lid : Word) (v : Vf) (p : Nat) (r : LaunchRec) (complKey : Nat) : Launch :=
  { lid := lid, vf := v.num, fold := v.fold, prio := p, record := r, complPa := complKey, phase := .waiting, ready := false,
    depFault := false, trips := Vector.replicate 6 1, nd := 0, nc := 0, mask := 0, assisted := false, go := [], waves := [], nodes := [],
    reported := [], trigger := 0, tstart := 0, begun := false, nfault := 0, first := none, killed := false, byWatchdog := false, byVf := false,
    entered := [], ending := none, trigWaits := false, taken := false, atHead := false, killWaits := [] }

/-- What the dispatcher finds at the head of a ring (R83, R90): the launch of the entry, or the LID of one whose record or COMPL is unusable. -/
inductive HeadRes where
  | usable (s : State) (l : Launch)
  | unusable (s : State) (lid : Word)
  | unreadable
  deriving Repr

/-- Reads the entry at the head of a ring and its record (R83), and makes the first check of R90. -/
def readHead (s : State) (v : Vf) (p : Nat) : HeadRes :=
  let va := entryVa (queueOf v p) (queueOf v p).head
  match vfKeys s v.num .r va 2 with
  | none => .unreadable
  | some ks =>
    let e := readKeys (useVas s v.num .r va 16) ks
    let recVa := wordIdx e.2 0
    let lid := wordIdx e.2 1
    match vfKeys e.1 v.num .r recVa 32 with
    | none => .unusable e.1 lid
    | some rk =>
      let rr := readKeys (useVas e.1 v.num .r recVa 256) rk
      let rec_ := parseRecord rr.2
      if rec_.compl = 0 || decide (rec_.compl.toNat % 64 ≠ 0) then .unusable rr.1 lid
      else match vfKeys rr.1 v.num .w rec_.compl 8 with
        | some (k0 :: _) => .usable rr.1 (newLaunch lid v p rec_ k0)
        | _ => .unusable rr.1 lid

end Sys2Proof.Machine
end

