-- ==== Sys2Proof/Machine/Numbers.lean ====
section
/-!
DEFINITION. Machine/Numbers.lean: element formats (R223 to R227), exact values, Round (R228), IntResult and IntFromFloat
(R229), RoundFA56 (R230), the exact operations with their zero and NaN rules (R231), the generator (R232), the fold
arithmetic (R205) and sum groups (R238 to R240).

An exact value is a sign and a ratio of naturals. The flag sticky says that the true magnitude lies above the ratio by less
than any step that a rounding can see: a square root that is not rational.
-/

namespace Sys2Proof.Machine

/-! ## Flags -/

/-- A set of flags in FFLAGS order (R234). -/
abbrev Flags := BitVec 6

/-- NX. -/
def flagNX : Flags := 1
/-- UF. -/
def flagUF : Flags := 2
/-- OF. -/
def flagOF : Flags := 4
/-- DZ. -/
def flagDZ : Flags := 8
/-- NV. -/
def flagNV : Flags := 16
/-- SPF. -/
def flagSPF : Flags := 32

/-- A flag when a condition holds. -/
def flagIf (b : Bool) (f : Flags) : Flags := if b then f else 0

/-! ## Exact values -/

/-- An exact operand of Round (R228). -/
inductive Ex where
  | nan
  | inf (neg : Bool)
  | fin (neg : Bool) (num den : Nat) (sticky : Bool)
  deriving DecidableEq, Repr

/-- A zero of a sign. -/
def Ex.zero (neg : Bool) : Ex := .fin neg 0 1 false

/-- Is the value a zero? -/
def Ex.isZero : Ex → Bool
  | .fin _ n _ st => n == 0 && !st
  | _ => false

/-- Is the value a NaN? -/
def Ex.isNan : Ex → Bool
  | .nan => true
  | _ => false

/-- Is the value an infinity? -/
def Ex.isInf : Ex → Bool
  | .inf _ => true
  | _ => false

/-- The sign of a value. -/
def Ex.neg? : Ex → Bool
  | .fin s _ _ _ => s
  | .inf s => s
  | .nan => false

/-- The value with the other sign. -/
def Ex.negate : Ex → Ex
  | .nan => .nan
  | .inf s => .inf (!s)
  | .fin s n d st => .fin (!s) n d st

/-- The value with its sign cleared. -/
def Ex.abs : Ex → Ex
  | .nan => .nan
  | .inf _ => .inf false
  | .fin _ n d st => .fin false n d st

/-- An integer as an exact value; zero is +0. -/
def Ex.ofInt (i : Int) : Ex := .fin (decide (i < 0)) i.natAbs 1 false

/-- num / den < num' / den' for magnitudes, sticky breaking a tie. -/
def magLt (n d : Nat) (st : Bool) (n' d' : Nat) (st' : Bool) : Bool :=
  decide (n * d' < n' * d) || (decide (n * d' = n' * d) && !st && st')

/-- a < b with −0 equal to +0; false when either is a NaN. -/
def Ex.lt : Ex → Ex → Bool
  | .nan, _ => false
  | _, .nan => false
  | .inf s, .inf t => s && !t
  | .inf s, .fin _ _ _ _ => s
  | .fin _ _ _ _, .inf t => !t
  | .fin s n d st, .fin t n' d' st' =>
    let z := n == 0 && !st
    let z' := n' == 0 && !st'
    if z && z' then false
    else if s && !z then (if t && !z' then magLt n' d' st' n d st else true)
    else if t && !z' then false
    else magLt n d st n' d' st'

/-- a = b as numbers; false when either is a NaN. -/
def Ex.eq (a b : Ex) : Bool := !a.isNan && !b.isNan && !a.lt b && !b.lt a

/-! ## Formats -/

/-- A floating format (R224). special: 0 IEEE infinities and NaNs, 1 E4M3, 2 E2M1 and the narrow source formats. -/
structure Fmt where
  ebits : Nat
  p : Nat
  bias : Nat
  emax : Int
  mmax : Nat
  special : Nat
  deriving DecidableEq, Repr

/-- FP32. -/
def fp32 : Fmt := ⟨8, 23, 127, 127, 2 ^ 24 - 1, 0⟩
/-- FP16. -/
def fp16 : Fmt := ⟨5, 10, 15, 15, 2 ^ 11 - 1, 0⟩
/-- BF16. -/
def bf16 : Fmt := ⟨8, 7, 127, 127, 2 ^ 8 - 1, 0⟩
/-- E4M3: largest 448 = 14 * 2^5 (R224). -/
def e4m3 : Fmt := ⟨4, 3, 7, 8, 14, 1⟩
/-- E5M2. -/
def e5m2 : Fmt := ⟨5, 2, 15, 15, 7, 0⟩
/-- E2M1: largest 6 = 3 * 2^1. -/
def e2m1 : Fmt := ⟨2, 1, 1, 2, 3, 2⟩
/-- FA56. -/
def fa56 : Fmt := ⟨11, 44, 1023, 1023, 2 ^ 45 - 1, 0⟩
/-- FP6 E3M2 (R236). -/
def e3m2 : Fmt := ⟨3, 2, 3, 4, 7, 2⟩
/-- FP6 E2M3 (R236). -/
def e2m3 : Fmt := ⟨2, 3, 1, 2, 15, 2⟩

/-- EMIN of a format. -/
def Fmt.emin (f : Fmt) : Int := 1 - f.bias

/-- Bits of an encoding. -/
def Fmt.width (f : Fmt) : Nat := 1 + f.ebits + f.p

/-- An integer power of two as a ratio. -/
def pow2 (e : Int) : Nat × Nat := if 0 ≤ e then (2 ^ e.toNat, 1) else (1, 2 ^ (-e).toNat)

/-- The value m * 2^e. -/
def dyadic (neg : Bool) (m : Nat) (e : Int) : Ex := .fin neg (m * (pow2 e).1) (pow2 e).2 false

/-- The value of an encoding (R224, R225). -/
def Fmt.decode (f : Fmt) (bits : Nat) : Ex :=
  let frac := bits % 2 ^ f.p
  let ex := bits / 2 ^ f.p % 2 ^ f.ebits
  let s := decide (bits / 2 ^ (f.p + f.ebits) % 2 = 1)
  if f.special = 0 && ex = 2 ^ f.ebits - 1 then (if frac = 0 then .inf s else .nan)
  else if f.special = 1 && ex = 2 ^ f.ebits - 1 && frac = 2 ^ f.p - 1 then .nan
  else if ex = 0 then dyadic s frac (f.emin - f.p)
  else dyadic s (2 ^ f.p + frac) ((ex : Int) - f.bias - f.p)

/-- Is an encoding a signalling NaN (R225)? -/
def Fmt.snan (f : Fmt) (bits : Nat) : Bool :=
  f.special == 0 && (f.decode bits).isNan && decide (bits / 2 ^ (f.p - 1) % 2 = 0)

/-- The canonical NaN (R224); E2M1 has none and gives +0 (R228). -/
def Fmt.nanBits (f : Fmt) : Nat :=
  if f.special = 0 then (2 ^ f.ebits - 1) * 2 ^ f.p + 2 ^ (f.p - 1)
  else if f.special = 1 then 2 ^ (f.ebits + f.p) - 1
  else 0

/-- The encoding of an infinity. -/
def Fmt.infBits (f : Fmt) (neg : Bool) : Nat :=
  (if neg then 2 ^ (f.p + f.ebits) else 0) + (2 ^ f.ebits - 1) * 2 ^ f.p

/-- The encoding of sign, m and e with m < 2^(P+1): a subnormal when m < 2^P. -/
def Fmt.pack (f : Fmt) (neg : Bool) (m : Nat) (e : Int) : Nat :=
  (if neg then 2 ^ (f.p + f.ebits) else 0) +
    (if m < 2 ^ f.p then m else ((e + f.bias).toNat) * 2 ^ f.p + (m - 2 ^ f.p))

/-- The encoding of the largest finite value. -/
def Fmt.maxBits (f : Fmt) (neg : Bool) : Nat := f.pack neg f.mmax f.emax

/-- floor(log2(num / den)) for num, den > 0. -/
def flog2 (num den : Nat) : Int :=
  let g : Int := (Nat.log2 num : Int) - (Nat.log2 den : Int)
  let p := pow2 g
  if num * p.2 < den * p.1 then g - 1 else g

/-- Rounds a magnitude n = N / D (sticky above it) to an integer under a rounding mode: 0 RNE, 1 RTZ, 2 RDN, 3 RUP, 4 RNA,
5 SR with its 16 random bits (R228). -/
def roundInt (rm rnd : Nat) (neg : Bool) (n d : Nat) (st : Bool) : Nat :=
  let fl := n / d
  let rem := n % d
  let inexact := rem != 0 || st
  let up : Bool :=
    if rm = 0 then decide (d < 2 * rem) || (decide (2 * rem = d) && (st || fl % 2 = 1))
    else if rm = 4 then decide (d ≤ 2 * rem)
    else if rm = 3 then !neg && inexact
    else if rm = 2 then neg && inexact
    else false
  if rm = 5 then (n * 65536 + rnd * d) / (d * 65536)
  else if up then fl + 1 else fl

/-- Does saturation, the format or the mode make an overflow give the largest finite value (R228)? -/
def overflowToMax (f : Fmt) (rm : Nat) (sat neg : Bool) : Bool :=
  sat || f.special = 2 || rm = 1 || (rm = 2 && !neg) || (rm = 3 && neg)

/-- Round(v, T, rm, sat) with its random bits (R228): the encoding and the flags. -/
def roundTo (f : Fmt) (rm : Nat) (sat : Bool) (rnd : Nat) (v : Ex) : Nat × Flags :=
  match v with
  | .nan => (f.nanBits, flagIf (f.special = 2) flagNV)
  | .inf neg =>
    if f.special = 0 then (f.infBits neg, 0)
    else if sat || f.special = 2 then (f.maxBits neg, 0)
    else (f.nanBits, flagNV)
  | .fin neg num den st =>
    if num = 0 then (f.pack neg 0 f.emin, 0)
    else
      let l := flog2 num den
      let e := if l < f.emin then f.emin else l
      let q := pow2 (e - f.p)
      let n := num * q.2
      let d := den * q.1
      let m := roundInt rm rnd neg n d st
      let exact := m * d = n && !st
      let m' := if m = 2 ^ (f.p + 1) then 2 ^ f.p else m
      let e' := if m = 2 ^ (f.p + 1) then e + 1 else e
      if f.emax < e' || (e' = f.emax && f.mmax < m') then
        if overflowToMax f rm sat neg then (f.maxBits neg, flagOF ||| flagNX)
        else if f.special = 1 then (f.nanBits, flagOF ||| flagNX)
        else (f.infBits neg, flagOF ||| flagNX)
      else (f.pack neg m' e', flagIf (!exact) flagNX ||| flagIf (!exact && decide (l < f.emin)) flagUF)

/-- RoundFA56 (R230). -/
def roundFA56 (v : Ex) : Acc × Flags :=
  let r := roundTo fa56 0 false 0 v
  (BitVec.ofNat 56 r.1, r.2)

/-- The value of an FA56 accumulator. -/
def accValue (a : Acc) : Ex := fa56.decode a.toNat

/-! ## Exact operations -/

/-- The zero of an exact zero sum that is not a sum of zeros of one sign: +0, or −0 under RDN (R231). -/
def sumZero (rm : Nat) : Ex := .zero (rm = 2)

/-- a + b (R231): ∞ − ∞ raises NV. -/
def exAdd (rm : Nat) (a b : Ex) : Ex × Flags :=
  match a, b with
  | .nan, _ => (.nan, 0)
  | _, .nan => (.nan, 0)
  | .inf s, .inf t => if s = t then (.inf s, 0) else (.nan, flagNV)
  | .inf s, _ => (.inf s, 0)
  | _, .inf t => (.inf t, 0)
  | .fin s n d st, .fin t n' d' st' =>
    if n = 0 && n' = 0 then (if s = t then .zero s else sumZero rm, 0)
    else
      let x : Int := if s then -(n * d' : Nat) else (n * d' : Nat)
      let y : Int := if t then -(n' * d : Nat) else (n' * d : Nat)
      let z := x + y
      if z = 0 then (sumZero rm, 0) else (.fin (decide (z < 0)) z.natAbs (d * d') (st || st'), 0)

/-- a × b (R231): 0 × ∞ raises NV. -/
def exMul (a b : Ex) : Ex × Flags :=
  match a, b with
  | .nan, _ => (.nan, 0)
  | _, .nan => (.nan, 0)
  | .inf s, y => if y.isZero then (.nan, flagNV) else (.inf (s != y.neg?), 0)
  | x, .inf t => if x.isZero then (.nan, flagNV) else (.inf (x.neg? != t), 0)
  | .fin s n d st, .fin t n' d' st' => (.fin (s != t) (n * n') (d * d') (st || st'), 0)

/-- a ÷ b (R178): 0 ÷ 0 and ∞ ÷ ∞ raise NV, a finite non-zero value over zero gives ∞ and raises DZ. -/
def exDiv (a b : Ex) : Ex × Flags :=
  match a, b with
  | .nan, _ => (.nan, 0)
  | _, .nan => (.nan, 0)
  | .inf _, .inf _ => (.nan, flagNV)
  | .inf s, y => (.inf (s != y.neg?), 0)
  | x, .inf t => (.zero (x.neg? != t), 0)
  | .fin s n d st, .fin t n' d' _ =>
    if n' = 0 then (if n = 0 then (.nan, flagNV) else (.inf (s != t), flagDZ))
    else (.fin (s != t) (n * d') (d * n') st, 0)

/-- The integer square root, bit by bit from bit k. -/
def isqrtFrom (n : Nat) : Nat → Nat → Nat
  | 0, r => if (r + 1) * (r + 1) ≤ n then r + 1 else r
  | k + 1, r =>
    let c := r + 2 ^ (k + 1)
    isqrtFrom n k (if c * c ≤ n then c else r)

/-- floor(√n). -/
def isqrt (n : Nat) : Nat := isqrtFrom n (Nat.log2 n / 2 + 1) 0

/-- √a (R178): a < 0 raises NV, √−0 = −0. The root is kept to at least 127 bits and a sticky remainder. -/
def exSqrt (a : Ex) : Ex × Flags :=
  match a with
  | .nan => (.nan, 0)
  | .inf s => if s then (.nan, flagNV) else (.inf false, 0)
  | .fin s n d st =>
    if n = 0 then (.zero s, 0)
    else if s then (.nan, flagNV)
    else
      let k := 128 + Nat.log2 d
      let t := n * 2 ^ (2 * k)
      let r := isqrt (t / d)
      (.fin false r (2 ^ k) (st || !decide (r * r * d = t)), 0)

/-- The smaller operand, −0 below +0, a NaN yielding to a number (R179). -/
def exMin (a b : Ex) : Ex :=
  if a.isNan then b else if b.isNan then a
  else if a.lt b then a else if b.lt a then b else if a.neg? then a else b

/-- The larger operand (R179). -/
def exMax (a b : Ex) : Ex :=
  if a.isNan then b else if b.isNan then a
  else if a.lt b then b else if b.lt a then a else if a.neg? then b else a

/-! ## Element types -/

/-- The floating format of a TYPE code (R224). -/
def typeFmt (ty : Nat) : Option Fmt :=
  if ty = 5 then some fp32 else if ty = 6 then some fp16 else if ty = 7 then some bf16
  else if ty = 8 then some e4m3 else if ty = 9 then some e5m2 else if ty = 10 then some e2m1 else none

/-- The bits of an element of a TYPE (R223, R224). -/
def typeBits (ty : Nat) : Nat :=
  if ty = 0 || ty = 1 || ty = 8 || ty = 9 then 8
  else if ty = 2 || ty = 6 || ty = 7 then 16
  else if ty = 3 || ty = 5 then 32
  else if ty = 4 then 64 else 4

/-- Is a TYPE a float? -/
def isFloat (ty : Nat) : Bool := decide (5 ≤ ty) && decide (ty ≤ 10)

/-- The range of an integer TYPE (R223). -/
def intRange (ty : Nat) : Int × Int :=
  if ty = 1 then (0, 255) else (-(2 ^ (typeBits ty - 1) : Nat), (2 ^ (typeBits ty - 1) : Nat) - 1)

/-- The integer an element of w bits stands for. -/
def signedOf (w v : Nat) : Int := if v < 2 ^ (w - 1) then (v : Int) else (v : Int) - (2 ^ w : Nat)

/-- The value of an integer element (R223). -/
def intElem (ty v : Nat) : Int := if ty = 1 then (v : Int) else signedOf (typeBits ty) v

/-- An integer as w bits. -/
def wrapBits (w : Nat) (i : Int) : Nat := (i % (2 ^ w : Nat)).toNat

/-- Fits an integer into [lo, hi] of width w: saturated or wrapped, with OF (R229). -/
def fitInt (lo hi : Int) (w : Nat) (sat : Bool) (v : Int) : Nat × Flags :=
  if lo ≤ v && v ≤ hi then (wrapBits w v, 0)
  else (wrapBits w (if sat then (if v < lo then lo else hi) else v), flagOF)

/-- IntResult(v) (R229). -/
def intResult (ty : Nat) (sat : Bool) (v : Int) : Nat × Flags :=
  fitInt (intRange ty).1 (intRange ty).2 (typeBits ty) sat v

/-- IntFromFloat(v) into [lo, hi] of width w (R229). -/
def intFromFloatIn (lo hi : Int) (w rm rnd : Nat) (v : Ex) : Nat × Flags :=
  match v with
  | .nan => (0, flagNV)
  | .inf s => (wrapBits w (if s then lo else hi), flagNV)
  | .fin s n d st =>
    let m := roundInt rm rnd s n d st
    let i : Int := if s then -(m : Int) else m
    if i < lo then (wrapBits w lo, flagNV)
    else if hi < i then (wrapBits w hi, flagNV)
    else (wrapBits w i, flagIf (!(decide (m * d = n) && !st)) flagNX)

/-- IntFromFloat(v) for a TYPE (R229). -/
def intFromFloat (ty rm rnd : Nat) (v : Ex) : Nat × Flags :=
  intFromFloatIn (intRange ty).1 (intRange ty).2 (typeBits ty) rm rnd v

/-- An INT56 accumulator as an integer (R223). -/
def acc56 (a : Acc) : Int := a.toInt

/-! ## Scales -/

/-- The value of an S20 scale (R227). -/
def scaleValue (sc : Scale) : Ex :=
  let e := (sc.extractLsb' 12 8).toNat
  let m := (sc.extractLsb' 0 12).toNat
  if e = 255 then .nan else dyadic false (4096 + m) ((e : Int) - 127 - 12)

/-- An E8M0 byte as an S20 scale (R227). -/
def scaleOfByte (b : Byte) : Scale := b ++ (0 : BitVec 12)

/-! ## The generator -/

/-- The next state of the generator (R232). -/
def xorshift (s : Word) : Word :=
  let s1 := s ^^^ (s <<< 13)
  let s2 := s1 ^^^ (s1 >>> 7)
  s2 ^^^ (s2 <<< 17)

/-- The bits that a draw returns from the new state (R232). -/
def drawBits (s : Word) : Nat := (s.extractLsb' 48 16).toNat

/-- n draws: the new state and the bits in order (R232). -/
def draws : Nat → Word → Word × List Nat
  | 0, s => (s, [])
  | n + 1, s =>
    let s1 := xorshift s
    let r := draws n s1
    (r.1, drawBits s1 :: r.2)

/-! ## Fold arithmetic -/

/-- ADDF32, MAXF32 or MINF32 on the low halves, zero-extended (R205). -/
def foldF32 (op : BitVec 3) (a b : Word) : Word :=
  let x := fp32.decode (a.toNat % 2 ^ 32)
  let y := fp32.decode (b.toNat % 2 ^ 32)
  let v := if op = 2 then (exAdd 0 x y).1 else if op = 4 then exMax x y else exMin x y
  BitVec.ofNat 64 (roundTo fp32 0 false 0 v).1

/-- Fold(op, old, v) (R205, R45). Code 0 has no action. -/
def foldOp (op : BitVec 3) (old v : Word) : Word :=
  if op = 1 then old + v
  else if op = 2 || op = 4 || op = 6 then foldF32 op old v
  else if op = 3 then (if old.slt v then v else old)
  else if op = 5 then (if v.slt old then v else old)
  else old

/-! ## Sum groups -/

/-- The flags that the products of a sum group raise, and the class of the sum: a NaN, an infinity or none (R238). -/
def groupSpecial (ps : List Ex) : Option Ex × Flags :=
  let hasNan := ps.any Ex.isNan
  let pos := ps.any fun p => p.isInf && !p.neg?
  let neg := ps.any fun p => p.isInf && p.neg?
  if hasNan || (pos && neg) then (some .nan, flagIf (pos && neg) flagNV)
  else if pos then (some (.inf false), 0)
  else if neg then (some (.inf true), 0)
  else (none, 0)

/-- floor(|p| / 2^k) with its sign, and whether a remainder was dropped (R238). -/
def truncAt (k : Int) : Ex → Int × Bool
  | .fin s n d _ =>
    let u := pow2 k
    let t := n * u.2 / (d * u.1)
    ((if s then -(t : Int) else t), !decide (t * (d * u.1) = n * u.2))
  | _ => (0, false)

/-- The largest floor(log2 |p|) of the non-zero products. -/
def groupEmax : List Ex → Option Int
  | [] => none
  | p :: t =>
    match p, groupEmax t with
    | .fin _ n d _, r =>
      if n = 0 then r
      else match r with
        | none => some (flog2 n d)
        | some m => some (if m < flog2 n d then flog2 n d else m)
    | _, r => r

/-- SumGroup over exact products and the flags of their formation (R238). None is an exact zero. -/
def sumGroup (ps : List Ex) (formed : Flags) : Option Ex × Flags :=
  match groupSpecial ps with
  | (some v, fl) => (some v, formed ||| fl)
  | (none, _) =>
    match groupEmax ps with
    | none => (none, formed)
    | some emax =>
      let ts := ps.map (truncAt (emax - 63))
      let sum := ts.foldl (fun (a : Int) t => a + t.1) 0
      let nx := flagIf (ts.any (·.2)) flagNX
      let r := roundFA56 (dyadic (decide (sum < 0)) sum.natAbs (emax - 63))
      let g := accValue r.1
      (if sum = 0 then none else some g, formed ||| nx ||| r.2)

/-- The accumulator after a group (R239). replace is MROWZ and MROWZP. -/
def accumulate (replace : Bool) (acc : Acc) (g : Option Ex) : Acc × Flags :=
  match g with
  | none => (if replace then 0 else acc, 0)
  | some v =>
    if replace then roundFA56 v
    else
      let s := exAdd 0 (accValue acc) v
      let r := roundFA56 s.1
      (r.1, r.2 ||| s.2 ||| flagIf (fa56.snan acc.toNat) flagNV)

/-- The integer rule for an accumulator (R240). -/
def accumulateInt (replace : Bool) (acc : Acc) (sum : Int) : Acc × Flags :=
  let v := if replace then sum else acc56 acc + sum
  (BitVec.ofInt 56 v, flagIf (!(decide (-(2 ^ 55) ≤ v) && decide (v < 2 ^ 55))) flagOF)

end Sys2Proof.Machine
end

