-- ==== Sys2Proof/Machine/Frames.lean ====
section
/-!
DEFINITION. Machine/Frames.lean: frame headers and slots (R198 to R201), the fold action at a slot (R204, R205), leaving and
retiring (R208, R211), the display (R201, R215), and starting a task (R216).
-/

namespace Sys2Proof.Machine

/-! ## Headers and slots -/

/-- Is a key that of a bank byte? -/
def isBankKey (k : Nat) : Bool := decide (2 ^ 63 ≤ k)

/-- The key of an absolute local-window address; CORE is ignored for a scratchpad (R114). -/
def absKey (va : Word) : Nat :=
  let n := va.toNat
  if n / 2 ^ 37 % 2 = 1 then n - (n / 2 ^ 38 % 64) * 2 ^ 38 else n

/-- Does a bank lie in the fold of a VF? A header that software wrote reaches no bank of another fold (R5, R200). -/
def bankOfVf (s : State) (vf : Nat) (key : Nat) : Bool :=
  match (vfAt s vf).bind fun v => foldAt s v.fold with
  | some f => f.dies.contains (bankOwner key).1.die
  | none => true

/-- The key of a frame's word for an access: a bank byte of the fold, or a home byte that the page tables of the VF grant (R5, R198). -/
def frameKey (s : State) (vf : Nat) (va : Word) (acc : Access) : Option Nat :=
  if isWindow va then (if bankOfVf s vf (absKey va) then some (absKey va) else none) else (vfKey s vf va acc).map (·.1)

/-- Reads 8 bytes of a frame; a header that no page table reaches reads 0. -/
def frameRead (s : State) (vf : Nat) (va : Word) : State × Word :=
  match frameKey s vf va .r with
  | none => (s, 0)
  | some k => if isBankKey k then (s, BitVec.ofNat 64 (peekLe s k 8)) else homeRead8 s k

/-- Writes 8 bytes of a frame. -/
def frameWrite (s : State) (vf : Nat) (va : Word) (v : Word) : State :=
  match frameKey s vf va .w with
  | none => s
  | some k => if isBankKey k then pokeLe s k 8 v.toNat else homeWriteWords s k 2 v.toNat

/-- A remote request that a header access makes takes a sequence number (R215, R293). -/
def noteRemote (s : State) (va : Word) : State :=
  if isWindow va && isRemote s.core.pos (absKey va) then setQ s { s.core.q with rseq := s.core.q.rseq + 1 } else s

/-- Offset of TMPL. -/
def hTmpl (h : Word) : Word := h
/-- Offset of PARENT. -/
def hParent (h : Word) : Word := h + 8
/-- Offset of RESUME. -/
def hResume (h : Word) : Word := h + 16
/-- Offset of STATE. -/
def hState (h : Word) : Word := h + 24
/-- Offset of RETFR. -/
def hRetfr (h : Word) : Word := h + 32

/-- The address of a slot (R198). -/
def slotVa (h : Word) (n : Nat) : Word := h + 40 + BitVec.ofNat 64 (8 * n)

/-- CHILD of STATE. -/
def stChild (st : Word) : Nat := (st.extractLsb' 0 32).toNat
/-- DEPTH of STATE. -/
def stDepth (st : Word) : Nat := (st.extractLsb' 32 3).toNat
/-- LEFT of STATE. -/
def stLeft (st : Word) : Bool := st.getLsbD 35
/-- RETD of STATE. -/
def stRetd (st : Word) : Bool := st.getLsbD 36
/-- ENT of STATE. -/
def stEnt (st : Word) : Bool := st.getLsbD 37
/-- KILL of STATE. -/
def stKill (st : Word) : Bool := st.getLsbD 38
/-- WV of STATE. -/
def stWv (st : Word) : Bool := st.getLsbD 39
/-- WSCOPE of STATE. -/
def stWscope (st : Word) : Scope := st.extractLsb' 40 2

/-- A STATE word of a new frame (R199). -/
def newState (child depth : Nat) (left ent : Bool) : Word :=
  BitVec.ofNat 64 (child + depth * 2 ^ 32 + (if left then 2 ^ 35 else 0) + (if ent then 2 ^ 37 else 0))

/-- STATE of a frame. -/
def frameState (s : State) (vf : Nat) (h : Word) : State × Word := frameRead s vf (hState h)

/-- CHILD += n, one atomic operation (R198). -/
def addChild (s : State) (vf : Nat) (h : Word) (n : Nat) : State :=
  let r := frameState s vf h
  frameWrite r.1 vf (hState h) (putField r.2 0 32 (stChild r.2 + n))

/-- The header of depth 1 on a cluster (R108, R110). -/
def clusterFrameVa (c : ClusterPos) : Word := BitVec.ofNat 64 (padKey c)

/-- The header at offset off of a core's TCM, as an absolute window. -/
def tcmVa (p : CorePos) (off : Nat) : Word := BitVec.ofNat 64 (tcmKey p + off)

/-- FTOP of a core: the end of the highest frame that has not retired, rounded up to 8 bytes (R200). -/
def ftopOf (r : Regs) : Nat := (r.frames.foldl (fun m f => Nat.max m f.fin) 0 + 7) / 8 * 8

/-- Writes a header (R198). -/
def writeHeader (s : State) (vf : Nat) (h tmpl parent resume st retfr : Word) : State :=
  let s1 := frameWrite s vf (hTmpl h) tmpl
  let s2 := frameWrite s1 vf (hParent h) parent
  let s3 := frameWrite s2 vf (hResume h) resume
  let s4 := frameWrite s3 vf (hState h) st
  frameWrite s4 vf (hRetfr h) retfr

/-! ## The fold action at a slot -/

/-- FACC and fold actions at a place: one atomic read-modify-write of the 8-byte slot (R204). -/
def foldAtLoc (s : State) (l : Loc) (op : BitVec 3) (v : Word) : State :=
  match l with
  | .bank k => pokeLe s k 8 (foldOp op (BitVec.ofNat 64 (peekLe s k 8)) v).toNat
  | .peer k pte _ =>
    let r := homeRead8 (peerRequest s s.core.pos.die s.core.fold k pte) k
    homeWriteWords r.1 k 2 (foldOp op r.2 v).toNat
  | .glob k pte _ =>
    let s1 := clearBelow s s.core.pos .home k
    let r := levelRead8 s1 s.core.pos .home k (pteAttr pte)
    let s2 := levelWrite8 r.1 .home k (pteAttr pte) (foldOp op (BitVec.ofNat 64 r.2) v).toNat
    countHome s2 s.core.pos.die k (pteAttr pte)

/-- The fold action of a retiring frame on its parent's slot (R211). -/
def foldIntoParent (s : State) (vf : Nat) (parent : Word) (op : BitVec 3) (n : Nat) (v : Word) : State :=
  let va := slotVa parent n
  let s0 := noteRemote s va
  if isWindow va then (if bankOfVf s vf (absKey va) then foldAtLoc s0 (.bank (absKey va)) op v else s0)
  else match vfKey s0 vf va .w with
    | some (k, pte) => foldAtLoc s0 (.glob k pte 0) op v
    | none => s0

/-! ## Leaving and retiring -/

/-- A frame's bytes are freed: FTOP of its core falls (R211 step 4). -/
def freeFrame (s : State) (vf : Nat) (h : Word) : State :=
  if isWindow h && !decide (h.toNat / 2 ^ 37 % 2 = 1) && bankOfVf s vf (absKey h) then
    let o := (bankOwner h.toNat).1
    let off := h.toNat % 2 ^ 37
    let c := coreAt s o
    setCoreAt s { c with regs := { c.regs with frames := c.regs.frames.filter fun f => f.off != off } }
  else s

/-- The atomic operation of a retiring child on STATE of its parent (R211 step 3): the new STATE, and whether the parent
retires by it. DEDUCED (log 25): a WSCOPE that WV does not make valid takes no part in the maximum, since WSCOPE is the widest
SCOPE since the last JOIN returned (R198). -/
def childRetires (st : Word) (sc : Scope) : Word × Bool :=
  let c := stChild st - 1
  let st1 := putField st 0 32 c
  let st2 := st1 ||| (1 <<< 39)
  let st3 := putField st2 40 2 (if stWv st then maxScope (stWscope st) sc else sc).toNat
  if stLeft st && c = 0 && !stRetd st then (st3 ||| (1 <<< 36), true) else (st3, false)

/-- Retires a frame whose RETD is set, and its ancestors in cascade (R211). The fuel bounds the depth of the tree. -/
def retireFrom : Nat → State → Nat → Word → State
  | 0, s, _, _ => s
  | f + 1, s, vf, h =>
    let t := frameRead s vf (hTmpl h)
    let pa := frameRead t.1 vf (hParent h)
    let st := frameState pa.1 vf h
    let depth := stDepth st.2
    let s1 :=
      if tFop t.2 ≠ 0 && !stKill st.2 && depth ≠ 0 then
        let own := frameRead st.1 vf (slotVa h (tFown t.2))
        foldIntoParent own.1 vf pa.2 (tFop t.2) (tFpar t.2) own.2
      else st.1
    let s2 := release s1 s.core.pos (tScope t.2) allRegions
    if depth = 0 then s2
    else
      let s3 := noteRemote s2 (hState pa.2)
      let ps := frameState s3 vf pa.2
      let r := childRetires ps.2 (tScope t.2)
      let s4 := freeFrame (frameWrite ps.1 vf (hState pa.2) r.1) vf h
      if r.2 then retireFrom f s4 vf pa.2 else s4

/-- Fuel for a cascade: the tree is at most eight deep. -/
def treeFuel : Nat := 9

/-- A child that counts as retired without a frame of its own: a killed deque entry or a strand that never starts (R220,
R428). -/
def childDone (s : State) (vf : Nat) (parent : Word) (sc : Scope) : State :=
  let ps := frameState s vf parent
  let r := childRetires ps.2 sc
  let s1 := frameWrite ps.1 vf (hState parent) r.1
  if r.2 then retireFrom treeFuel s1 vf parent else s1

/-- Leave(f), once RRC = 0 (R208). -/
def leaveFrame (s : State) (vf : Nat) (h tmpl : Word) : State :=
  let s1 := frameWrite s vf (hTmpl h) tmpl
  let s2 := release s1 s.core.pos (tScope tmpl) allRegions
  let st := frameState s2 vf h
  let st1 := st.2 ||| (1 <<< 35)
  if stChild st.2 = 0 && !stRetd st.2 then
    retireFrom treeFuel (frameWrite st.1 vf (hState h) (st1 ||| (1 <<< 36))) vf h
  else frameWrite st.1 vf (hState h) st1

/-- The copies of pages that a change of a launch's frame must wait for, asked for (R117, R300); none when it need not wait. -/
def launchCopies (s after : State) (l : Launch) : Option State :=
  if (frameState s l.vf l.record.lframe).2 = (frameState after l.vf l.record.lframe).2 then none
  else askCopies s l.vf (pagesOf l.record.lframe (40 + 8 * tSlots (recTmpl l.record 0)))

/-- The same for the launch of the core in focus. -/
def rootCopies (s after : State) : Option State := (myLaunch s).bind (launchCopies s after)

/-! ## The display -/

/-- The template shadow of a frame: the live template when it lies in this core's own TCM, else TMPL (R201). -/
def liveTmpl (s : State) (vf : Nat) (h : Word) : State × Word :=
  let r := frameRead s vf (hTmpl h)
  if isWindow h && (bankOwner h.toNat).1 = s.core.pos && !(bankOwner h.toNat).2 then
    match s.core.regs.frames.find? fun f => f.off == h.toNat % 2 ^ 37 with
    | some f => (r.1, f.live)
    | none => r
  else r

/-- Reads the chain of headers from h of depth n upward to depth 0: the display and the shadows, or none when a header
carries the wrong DEPTH (R215). -/
def readChain (s : State) (vf : Nat) (h : Word) : Nat → State × Option (List (Nat × Word × Word))
  | 0 =>
    let st := frameState (noteRemote s h) vf h
    let t := liveTmpl st.1 vf h
    (t.1, if stDepth st.2 = 0 then some [(0, h, t.2)] else none)
  | n + 1 =>
    let st := frameState (noteRemote s h) vf h
    let t := liveTmpl st.1 vf h
    let p := frameRead t.1 vf (hParent h)
    if stDepth st.2 = n + 1 then
      let r := readChain p.1 vf p.2 n
      (r.1, r.2.map ((n + 1, h, t.2) :: ·))
    else (p.1, none)

/-- Sets depth, display and shadows from a chain; registers above the depth read 0 (R201). -/
def setDisplay (s : State) (depth : Nat) (chain : List (Nat × Word × Word)) : State :=
  let d := chain.foldl (fun (v : Vector Word 8) e => vset v e.1 e.2.1) (Vector.replicate 8 0)
  let sh := chain.foldl (fun (v : Vector Word 8) e => vset v e.1 e.2.2) (Vector.replicate 8 0)
  setRegs s { s.core.regs with depth := depth, d := d, shadow := sh }

/-- Rebuilds the display from a header (R215, R219). None: a header carries the wrong DEPTH. -/
def rebuildDisplay (s : State) (vf : Nat) (h : Word) : State × Bool :=
  let st := frameState s vf h
  let r := readChain st.1 vf h (stDepth st.2)
  match r.2 with
  | some ch => (setDisplay r.1 (stDepth st.2) ch, true)
  | none => (r.1, false)

/-- Does the chain from h upward hold a frame with KILL set (R220)? -/
def chainKilled : Nat → State → Nat → Word → Bool
  | 0, _, _, _ => false
  | f + 1, s, vf, h =>
    let st := (frameState s vf h).2
    if stKill st then true
    else if stDepth st = 0 then false
    else chainKilled f s vf (frameRead s vf (hParent h)).2

/-- The current frame's header. -/
def curFrame (s : State) : Word := dreg s s.core.regs.depth

/-- Keeps the live template of the current frame with its shadow (R201). -/
def syncLive (s : State) : State :=
  let h := curFrame s
  let off := h.toNat % 2 ^ 37
  let live := shadowAt s s.core.regs.depth
  if isWindow h && (bankOwner h.toNat).1 = s.core.pos && !(bankOwner h.toNat).2 then
    setRegs s { s.core.regs with frames := s.core.regs.frames.map fun f => if f.off = off then { f with live := live } else f }
  else s

/-! ## Starting a task -/

/-- RunTask(e, r) on the core in focus (R216), the display of the parent's chain given by a rebuild. resume is the RESUME
word. A trap is a frame fault at the task's target. -/
def runTask (s : State) (e : DequeEntry) (resume : Word) (none_ : Bool) : State × Option Trap :=
  let vf := s.core.vf
  let back := if none_ then 0 else curFrame s
  let r := rebuildDisplay s vf e.parent
  if !r.2 || decide (7 ≤ r.1.core.regs.depth) then (setPc s e.target, some ⟨18, 2⟩)
  else
    let s1 := r.1
    let t : Word := e.tmpl.setWidth 64
    let n := tSlots t
    let off := ftopOf s1.core.regs
    let fin := off + 40 + 8 * n
    if Config.tcmBytes < fin then (setPc s e.target, some ⟨9, BitVec.ofNat 64 (4 * 2 ^ 56 + fin)⟩)
    else
      let depth := s1.core.regs.depth + 1
      let h := tcmVa s1.core.pos off
      let s2 := writeHeader s1 vf h t e.parent resume (newState 0 depth false false) back
      let s3 := if n = 0 then s2 else frameWrite s2 vf (slotVa h 0) e.arg
      let g := s3.core.regs
      let fr : FrameRec := ⟨off, fin, t⟩
      (setRegs s3 { g with
        pc := e.target
        depth := depth
        d := vset g.d depth h
        shadow := vset g.shadow depth t
        frames := g.frames ++ [fr] }, none)

end Sys2Proof.Machine
end

