-- ==== Sys2Proof/Machine/Operands.lean ====
section
/-!
DEFINITION. Machine/Operands.lean: the operand forms of the queued instructions: their unit (R244), captured x operands
(R161), pending x destinations (R162), v sources and destinations (R250 to R253), the TYPEs each accepts (R138, R256, R263 to
R268, R284, R320), the lanes of a register (R247, R248), and the destination that containment clears (R426).
-/

namespace Sys2Proof.Machine

/-! ## Lanes -/

/-- TYPE of a mode word (R142). -/
def mType (m : BitVec 18) : Nat := (m.extractLsb' 0 4).toNat
/-- RM of a mode word. -/
def mRm (m : BitVec 18) : Nat := (m.extractLsb' 4 3).toNat
/-- SAT of a mode word. -/
def mSat (m : BitVec 18) : Bool := m.getLsbD 7
/-- GUARD of a mode word. -/
def mGuard (m : BitVec 18) : Bool := m.getLsbD 8
/-- SPOL of a mode word. -/
def mSpol (m : BitVec 18) : BitVec 2 := m.extractLsb' 9 2
/-- GTRAP of a mode word. -/
def mGtrap (m : BitVec 18) : Bool := m.getLsbD 11
/-- RMAP of a mode word. -/
def mRmap (m : BitVec 18) : Bool := m.getLsbD 12
/-- SFMT of a mode word. -/
def mSfmt (m : BitVec 18) : Bool := m.getLsbD 13
/-- Is the rounding mode SR? -/
def mSr (m : BitVec 18) : Bool := mRm m == 5

/-- Lane width of a TYPE: MXFP4 memory accesses use one-byte lanes (R247, R284). -/
def laneWidth (ty : Nat) : Nat := if ty = 10 then 8 else typeBits ty

/-- Lane width under a mode word. -/
def laneBits (m : BitVec 18) : Nat := laneWidth (mType m)

/-- Lanes of a width (R247). -/
def laneCount (w : Nat) : Nat := 512 / w

/-- Lane i of w bits. -/
def lane (v : VWord) (w i : Nat) : Nat := v.toNat / 2 ^ (w * i) % 2 ^ w

/-- The value of lanes of w bits from lane 0 up. -/
def packLanes (w : Nat) : List Nat → Nat
  | [] => 0
  | h :: t => h % 2 ^ w + 2 ^ w * packLanes w t

/-- A register from its lanes. -/
def ofLanes (w : Nat) (ls : List Nat) : VWord := BitVec.ofNat 512 (packLanes w ls)

/-- Lane i, or 0 out of range. -/
def laneOf (ls : List Nat) (i : Nat) : Nat := (ls[i]?).getD 0

/-- All lanes of w bits. -/
def lanesOf (v : VWord) (w : Nat) : List Nat := (List.range (laneCount w)).map (lane v w)

/-- The mask-stack top; all ones when it is empty (R248). -/
def maskTop (masks : List Word) : Word := masks.headD (BitVec.allOnes 64)

/-- The lanes that GUARD leaves active (R248). -/
def activeMask (m : BitVec 18) (masks : List Word) : Word := if mGuard m then maskTop masks else BitVec.allOnes 64

/-- Lanes of a mask set to zero. -/
def clearLanes (w : Nat) (mask : Word) (v : VWord) : VWord :=
  ofLanes w ((List.range (laneCount w)).map fun i => if mask.getLsbD i then 0 else lane v w i)

/-! ## Units and operands -/

/-- The unit of a queued instruction (R244). -/
def unitOf : Instr → Option QUnit
  | .vadd .. | .vsub .. | .vmul .. | .vfma .. | .vfms .. | .vfnma .. | .vmin .. | .vmax .. | .vabs .. | .vneg .. | .vdiv ..
  | .vsqrt .. | .vrcp .. | .vrsq .. | .vexp2 .. | .vlog2 .. | .vand .. | .vor .. | .vxor .. | .vsll .. | .vsrl .. | .vsra ..
  | .vcmp .. | .vsel .. | .vmov .. | .vbc .. | .viota .. | .vmulh .. | .vclamp .. => some .fma
  | .vld .. | .vlds .. | .vldg .. | .vldmx .. => some .load
  | .vst .. | .vsts .. | .vstg .. => some .store
  | .vcvt .. | .vcvtn .. | .ldcb .. | .vperm .. | .vslideUp .. | .vslideDn .. | .vzip .. | .vunzip .. | .vredadd .. | .vredmax ..
  | .vredmin .. | .vmvx .. | .vins .. | .mpush .. | .minv | .mpop | .mstg .. | .kmovKx .. | .kmovXk .. | .kmovKt .. | .kopAnd ..
  | .kopOr .. | .kopXor .. | .kopAndn .. | .vsclSet .. | .vsclSeta .. | .vsclGet .. => some .permute
  | .mrow .. | .mrowp .. | .mrowz .. | .mrowzp .. | .tzero .. | .tload .. | .tstore .. | .tmovv .. | .tvmov .. | .tstat ..
  | .trcfg .. | .trpop .. | .trstat .. | .fbegin .. | .fcol .. | .fcoln .. | .ngjoin .. | .ngleave .. | .fend | .fmaprd ..
  | .rdph .. | .rdgf .. | .tperm .. => some .matrix
  | .cpy .. | .cpyq .. | .engstCnt .. | .engstFva .. | .xsend .. | .xsel .. | .xend => some .engine
  | _ => none

/-- The register of a b operand that is an x register when X is set (R255). -/
def xB (x : BitVec 1) (b : Reg) : List Reg := if x = 1 then [b] else []

/-- The x registers a queued instruction captures (R161). -/
def xReadsOf : Instr → List Reg
  | .vadd _ _ b x | .vsub _ _ b x | .vmul _ _ b x | .vfma _ _ b x | .vfms _ _ b x | .vfnma _ _ b x | .vmin _ _ b x
  | .vmax _ _ b x | .vdiv _ _ b x | .vand _ _ b x | .vor _ _ b x | .vxor _ _ b x | .vsll _ _ b x | .vsrl _ _ b x
  | .vsra _ _ b x | .vmulh _ _ b x | .vclamp _ _ b x | .vperm _ _ b x => xB x b
  | .vcmp _ _ b x _ => xB x b
  | .vsel _ _ b x _ => xB x b
  | .vbc _ a => [a]
  | .vld _ a _ | .vst _ a _ => [a]
  | .vlds _ a b | .vsts _ a b | .vldmx _ a b => [a, b]
  | .vldg _ a _ _ | .vstg _ a _ _ => [a]
  | .ldcb a b => [a, b]
  | .vslideUp _ _ b | .vslideDn _ _ b => [b]
  | .vmvx _ _ b => [b]
  | .vins _ a b => [a, b]
  | .kmovKx _ a => [a]
  | .vsclSet _ a _ => [a]
  | .vsclSeta _ a => [a]
  | .mrow _ x _ _ _ _ | .mrowp _ x _ _ _ _ | .mrowz _ x _ _ _ _ | .mrowzp _ x _ _ _ _ => [x]
  | .tload _ x v _ | .tstore _ x v _ => [x, v]
  | .tmovv _ x _ | .tvmov _ x _ => [x]
  | .trcfg x v _ => [x, v]
  | .fcol x => [x]
  | .fcoln x _ | .ngjoin x _ => [x]
  | .rdph x => [x]
  | .cpy a b _ | .cpyq a b _ => [a, b]
  | .xsend _ b => [b]
  | .xsel _ a => [a]
  | _ => []

/-- The x register that a queued instruction writes (R162). -/
def xDestOf : Instr → Option Reg
  | .vredadd d _ | .vredmax d _ | .vredmin d _ => some d
  | .vmvx d _ _ => some d
  | .kmovXk d _ => some d
  | .vsclGet d _ _ => some d
  | .tstat _ x => some x
  | .trstat x _ => some x
  | .fmaprd _ x => some x
  | .rdph x | .rdgf x => some x
  | .engstCnt d | .engstFva d => some d
  | _ => none

/-- The v register of a b operand that is not an x register. -/
def vB (x : BitVec 1) (b : Reg) : List Reg := if x = 1 then [] else [b]

/-- The v registers named in source fields (R250). -/
def vSourcesOf : Instr → List Reg
  | .vadd _ a b x | .vsub _ a b x | .vmul _ a b x | .vfma _ a b x | .vfms _ a b x | .vfnma _ a b x | .vmin _ a b x
  | .vmax _ a b x | .vdiv _ a b x | .vand _ a b x | .vor _ a b x | .vxor _ a b x | .vsll _ a b x | .vsrl _ a b x
  | .vsra _ a b x | .vmulh _ a b x | .vclamp _ a b x | .vperm _ a b x => a :: vB x b
  | .vcmp _ a b x _ => a :: vB x b
  | .vsel _ a b x _ => a :: vB x b
  | .vabs _ a | .vneg _ a | .vsqrt _ a | .vrcp _ a | .vrsq _ a | .vexp2 _ a | .vlog2 _ a | .vmov _ a => [a]
  | .vldg _ _ b _ => [b]
  | .vst d _ _ | .vsts d _ _ => [d]
  | .vstg d _ b _ => [d, b]
  | .vcvt _ a _ _ => [a]
  | .vcvtn _ a _ _ => [a]
  | .vslideUp _ a _ | .vslideDn _ a _ => [a]
  | .vzip _ a b _ | .vunzip _ a b _ => [a, b]
  | .vredadd _ a | .vredmax _ a | .vredmin _ a => [a]
  | .vmvx _ a _ => [a]
  | .vsclGet _ a _ => [a]
  | .mrow _ _ v _ _ _ | .mrowp _ _ v _ _ _ | .mrowz _ _ v _ _ _ | .mrowzp _ _ v _ _ _ => [v]
  | .tvmov _ _ v => [v]
  | .xsend a _ => [a]
  | _ => []

/-- The v register that a queued instruction writes (R251, R253). -/
def vDestOf : Instr → Option Reg
  | .vadd d _ _ _ | .vsub d _ _ _ | .vmul d _ _ _ | .vfma d _ _ _ | .vfms d _ _ _ | .vfnma d _ _ _ | .vmin d _ _ _
  | .vmax d _ _ _ | .vdiv d _ _ _ | .vand d _ _ _ | .vor d _ _ _ | .vxor d _ _ _ | .vsll d _ _ _ | .vsrl d _ _ _
  | .vsra d _ _ _ | .vmulh d _ _ _ | .vclamp d _ _ _ | .vperm d _ _ _ => some d
  | .vsel d _ _ _ _ => some d
  | .vabs d _ | .vneg d _ | .vsqrt d _ | .vrcp d _ | .vrsq d _ | .vexp2 d _ | .vlog2 d _ | .vmov d _ => some d
  | .vbc d _ => some d
  | .viota d => some d
  | .vld d _ _ => some d
  | .vlds d _ _ => some d
  | .vldg d _ _ _ => some d
  | .vldmx d _ _ => some d
  | .vcvt d _ _ _ => some d
  | .vcvtn d _ _ _ => some d
  | .vslideUp d _ _ | .vslideDn d _ _ => some d
  | .vzip d _ _ _ | .vunzip d _ _ _ => some d
  | .vins d _ _ => some d
  | .tmovv _ _ v => some v
  | .xsel d _ => some d
  | _ => none

/-- Is this a lane-addressed access (R283)? -/
def isLaneAddressed : Instr → Bool
  | .vlds .. | .vldg .. | .vsts .. | .vstg .. => true
  | _ => false

/-- Is this a vector load (R283)? -/
def isVLoad : Instr → Bool
  | .vld .. | .vlds .. | .vldg .. | .vldmx .. => true
  | _ => false

/-- Is this an early load: a vector load into v30 (R250)? -/
def isEarlyLoad (i : Instr) : Bool := isVLoad i && vDestOf i == some 30

/-- Does a source field name v30 (R250)? -/
def readsLdq (i : Instr) : Bool := (vSourcesOf i).contains 30

/-- Is this a vector store whose data comes from the SDQ (R251)? -/
def takesSdq : Instr → Bool
  | .vst d _ _ => d == 31
  | .vsts d _ _ => d == 31
  | .vstg d _ _ _ => d == 31
  | _ => false

/-- Is this a push: a destination v31 (R251)? -/
def pushesSdq (i : Instr) : Bool := vDestOf i == some 31

/-- Does a queued instruction write memory (R164)? -/
def writesMemory : Instr → Bool
  | .vst .. | .vsts .. | .vstg .. | .tstore .. => true
  | _ => false

/-- Does a queued instruction change the mask stack or a mask register (R184)? -/
def changesMask : Instr → Bool
  | .mpush .. | .minv | .mpop | .mstg .. | .kmovKx .. | .kmovKt .. | .kopAnd .. | .kopOr .. | .kopXor .. | .kopAndn .. | .vcmp .. => true
  | _ => false

/-- The change of the mask-stack depth (R269). -/
def depthChange : Instr → Int
  | .mpush .. | .mstg .. => 1
  | .mpop => -1
  | _ => 0

/-! ## TYPE checks -/

/-- The TYPEs of vector arithmetic (R256). -/
def arithType (t : Nat) : Bool := decide (t ≤ 7)
/-- FP32, FP16 and BF16 (R256). -/
def floatType (t : Nat) : Bool := t == 5 || t == 6 || t == 7
/-- The integer TYPEs. -/
def intType (t : Nat) : Bool := decide (t ≤ 4)
/-- Every TYPE but MXFP4. -/
def notMx (t : Nat) : Bool := t != 10
/-- The TYPEs of the MROW family (R320). -/
def rowType (t : Nat) : Bool := t == 0 || t == 1 || t == 6 || t == 7 || t == 8 || t == 9 || t == 10

/-- The checks of VCVT (R263). -/
def cvtOk (ty src part : Nat) (dst : Reg) : Bool :=
  let wd := typeBits ty
  let ws := typeBits src
  let mx := if wd < ws then ws else wd
  let mn := if wd < ws then wd else ws
  decide (part < mx / mn) && !(src == 10 && intType ty) && !(ty == 10 && intType src) && !(src == 10 && ty == 10) &&
    !(ty == 10 && dst == 31)

/-- The rules that depend on the word and the captured mode word (R138, R253). -/
def modeOk (m : BitVec 18) (i : Instr) : Bool :=
  let t := mType m
  match i with
  | .vadd .. | .vsub .. | .vmul .. | .vfma .. | .vfms .. | .vfnma .. | .vmin .. | .vmax .. | .vabs .. | .vneg .. | .vdiv ..
  | .vclamp .. | .viota .. => arithType t
  | .vcmp _ _ _ _ c => arithType t && (c != 6 || floatType t)
  | .vsqrt .. | .vrcp .. | .vrsq .. | .vexp2 .. | .vlog2 .. => floatType t
  | .vsll .. | .vsrl .. | .vsra .. | .vmulh .. => intType t
  | .vand .. | .vor .. | .vxor .. | .vsel .. | .vbc .. => notMx t
  | .vmov _ a => notMx t || a != 30
  | .vlds .. | .vldg .. | .vsts .. | .vstg .. => notMx t
  | .vldmx .. => t == 10
  | .vcvt d a p s => cvtOk t s.toNat p.toNat d && !(s == 10 && a == 30)
  | .vperm .. | .vslideUp .. | .vslideDn .. | .vzip .. | .vunzip .. | .vmvx .. | .vins .. => notMx t
  | .vredadd .. | .vredmax .. | .vredmin .. => arithType t
  | .mrow _ _ v _ _ _ | .mrowp _ _ v _ _ _ | .mrowz _ _ v _ _ _ | .mrowzp _ _ v _ _ _ => rowType t && !(t == 10 && (v == 30 || v == 31))
  | .tload .. | .tstore .. => notMx t
  | .tmovv _ _ v | .tvmov _ _ v => t != 4 && !(t == 10 && (v == 30 || v == 31))
  | _ => true

/-- Does an instruction round under SR, and so draw (R181, R233)? -/
def drawsUnder (m : BitVec 18) (i : Instr) : Bool :=
  let t := mType m
  mSr m && (match i with
    | .vadd .. | .vsub .. | .vmul .. | .vfma .. | .vfms .. | .vfnma .. | .vdiv .. => isFloat t
    | .vsqrt .. | .vrcp .. | .vrsq .. | .vexp2 .. | .vlog2 .. => true
    | .vcvt .. => true
    | .vredadd .. => isFloat t
    | .tstore .. | .tmovv .. => true
    | _ => false)

/-! ## The destination that containment clears -/

/-- A destination register. -/
inductive Dest where
  | none_
  | x (r : Reg)
  | v (r : Reg)
  | k (r : BitVec 3)
  deriving DecidableEq, Repr

/-- The destination of a scalar instruction, or of a queued one (R426). -/
def destOf (i : Instr) : Dest :=
  match i with
  | .add d _ _ | .sub d _ _ | .and d _ _ | .or d _ _ | .xor d _ _ | .sll d _ _ | .srl d _ _ | .sra d _ _ | .slt d _ _
  | .sltu d _ _ | .min d _ _ | .max d _ _ | .minu d _ _ | .maxu d _ _ | .mul d _ _ | .mulh d _ _ | .mulhu d _ _ | .div d _ _
  | .divu d _ _ | .rem d _ _ | .remu d _ _ | .fadd d _ _ | .fsub d _ _ | .fmul d _ _ | .fdiv d _ _ | .fma d _ _ | .fmin d _ _
  | .fmax d _ _ | .fcmpEq d _ _ | .fcmpLt d _ _ | .fcmpLe d _ _ => .x d
  | .bitClz d _ | .bitCtz d _ | .bitPopc d _ | .bitBrev d _ | .fsqrt d _ | .fcvtI64f d _ | .fcvtFi64 d _ | .fcvtF16f d _
  | .fcvtFf16 d _ | .fcvtB16f d _ | .fcvtFb16 d _ | .fcvtS20f d _ | .fcvtFs20 d _ | .launch d _ => .x d
  | .addi d _ _ | .andi d _ _ | .ori d _ _ | .xori d _ _ | .slti d _ _ | .sltiu d _ _ | .lb d _ _ | .lbu d _ _ | .lh d _ _
  | .lhu d _ _ | .lw d _ _ | .lwu d _ _ | .ld d _ _ | .jalr d _ _ => .x d
  | .slli d _ _ | .srli d _ _ | .srai d _ _ => .x d
  | .lui d _ | .auipc d _ | .shor d _ | .jal d _ => .x d
  | .fld x _ _ => .x x
  | .fadr x _ _ => .x x
  | .fenter d _ _ _ => .x d
  | .dspr d _ | .lidx d _ => .x d
  | .svld d _ _ _ _ => .x d
  | .svadd d _ _ _ _ _ _ => .x d
  | .svmax d _ _ _ _ _ _ | .svmin d _ _ _ _ _ _ | .svwait d _ _ _ _ _ _ => .x d
  | .svand d _ _ _ _ _ | .svor d _ _ _ _ _ | .svswap d _ _ _ _ _ | .svcas d _ _ _ _ _ => .x d
  | .inboxWait d _ | .inboxPoll d _ => .x d
  | .csrr d _ => .x d
  | .csrw d _ _ | .csrs d _ _ | .csrc d _ _ => .x d
  | .vcmp d _ _ _ _ => .k d
  | .kmovKx d _ => .k d
  | .kmovKt d => .k d
  | .kopAnd d _ _ | .kopOr d _ _ | .kopXor d _ _ | .kopAndn d _ _ => .k d
  | j =>
    match xDestOf j with
    | some d => .x d
    | none => match vDestOf j with
      | some d => .v d
      | none => .none_

/-- Does an instruction with a v or k destination ignore GUARD under a mode word (R248)? -/
def ignoresGuard (m : BitVec 18) (i : Instr) : Bool :=
  match i with
  | .vins _ _ _ | .kmovKx _ _ | .kmovKt _ | .kopAnd _ _ _ | .kopOr _ _ _ | .kopXor _ _ _ | .kopAndn _ _ _ | .xsel _ _
  | .tmovv _ _ _ => true
  | .vmov _ _ => mType m = 10
  | _ => false

/-- The width of the lanes, or of the blocks of VLDMX, that GUARD governs in a destination (R247, R264, R284). A register written
whole counts as byte lanes. -/
def guardBits (m : BitVec 18) (i : Instr) : Nat :=
  match i with
  | .vldmx _ _ _ => 128
  | .vcvtn _ _ _ _ | .xsel _ _ | .tmovv _ _ _ => 8
  | _ => laneBits m

/-- The bits of a k destination that an instruction writes by lanes: VCMP those of its lanes, any other all 64 (R261, R270). -/
def kLanes (m : BitVec 18) (i : Instr) : Word :=
  match i with
  | .vcmp _ _ _ _ _ => BitVec.ofNat 64 (2 ^ laneCount (laneBits m) - 1)
  | _ => BitVec.allOnes 64

end Sys2Proof.Machine
end

