-- ==== Sys2Proof/Machine/Ops.lean ====
section
/-!
DEFINITION. Machine/Ops.lean: the shared operations of a strand: remote requests (R293, R294), the store buffer (R165), the
undo log and Rollback (R166, R169, R170), the END test (R187), taking an exception (R156) and returning from one (R159), and
containment (R423 to R430).
-/

namespace Sys2Proof.Machine

/-! ## Remote requests -/

/-- Does the target of a bank key refuse a request of a launch (R294)? -/
def targetRefuses (s : State) (lid : Word) (key : Nat) : Bool :=
  let o := bankOwner key
  if o.2 then
    let k := clusterAt s o.1.cluster
    (k.holds.map (·.1)) != some lid || decide (padBytes k.split ≤ key % 2 ^ 37)
  else (coreAt s o.1).holds != some lid

/-- A loaded value, extended (R277). -/
def extendLoad (size : Nat) (signed : Bool) (v : Nat) : Word :=
  if signed then BitVec.ofInt 64 (signedOf (8 * size) v) else BitVec.ofNat 64 v

/-- Performs the oldest remote request of the core in focus, or its late refusal (R293, R294). -/
def performRemote (s : State) (r : RemoteReq) : State :=
  if targetRefuses s s.core.lid r.key then
    let undone := match r.op with | .load _ _ _ => r.after | _ => 0
    let s1 := setQ s { s.core.q with late := s.core.q.late ++ [⟨r.seq, s.core.trap.inh, undone⟩] }
    match r.op with
    | .load d _ _ => setX s1 d 0
    | _ => s1
  else match r.op with
    | .load d size signed => setX s d (extendLoad size signed (peekLe s r.key size))
    | .store size data => pokeLe s r.key size data.toNat
    | .facc op v => foldAtLoc s (.bank r.key) op v

/-- Takes the oldest remote request off the list and performs it. -/
def popRemote (s : State) : State :=
  match s.core.q.remote with
  | [] => s
  | r :: t => performRemote (setQ s { s.core.q with remote := t }) r

/-- Performs remote requests until at most n are outstanding. -/
def drainRemote : Nat → State → Nat → State
  | 0, s, _ => s
  | f + 1, s, n => if s.core.q.remote.length ≤ n then s else drainRemote f (popRemote s) n

/-- Waits until RRC = 0. -/
def flushRemote (s : State) : State := drainRemote s.core.q.remote.length s 0

/-- Waits while RRC = 256 (R293). -/
def roomRemote (s : State) : State := drainRemote s.core.q.remote.length s (Config.remoteDepth - 1)

/-- Sends a remote request, which waits while RRC = 256: it takes RSEQ, which advances (R293). -/
def sendRemote (s0 : State) (key : Nat) (op : RemoteOp) : State :=
  let s := roomRemote s0
  let q := s.core.q
  setQ s { q with remote := q.remote ++ [⟨q.rseq, q.qnext, key, op⟩], rseq := q.rseq + 1 }

/-! ## Stores -/

/-- Writes size bytes at a place (R275, R292): a bank of another core or cluster by a remote request. -/
def storeAt (s : State) (l : Loc) (size : Nat) (data : Word) : State :=
  match l with
  | .bank k => if isRemote s.core.pos k then sendRemote s k (.store size data) else pokeLe s k size data.toNat
  | .peer k pte _ => pokeLe (revokeAt (revokeAt (peerRequest s s.core.pos.die s.core.fold k pte) .home (wordKey k) none) .home (wordKey (k + size - 1)) none) k size data.toNat
  | .glob k pte _ => storeGlobal s s.core.pos k size data.toNat (pteAttr pte)

/-- Sets A, and D for a write, of the leaf through which a place was reached (R297). -/
def setAccessed (s : State) (l : Loc) (write : Bool) : State :=
  match l with
  | .glob _ pte ptePa => setUsedFrom s s.core.pos.die s.core.fold ptePa pte write
  | .peer _ pte ptePa => setUsedFrom s s.core.pos.die s.core.fold ptePa pte write
  | .bank _ => s

/-- Every queued instruction enqueued before a mark has completed (R165, R166). -/
def queuePast (s : State) (after : Nat) : Bool :=
  match s.core.q.queue with
  | [] => true
  | e :: _ => decide (after ≤ e.seq)

/-- A load or a fetch of the strand goes through a place: A of its leaf is set once no Rollback can squash the instruction any more (R170,
R297). -/
def noteUse (s : State) (l : Loc) : State :=
  match l with
  | .bank _ => s
  | .glob _ pte ptePa | .peer _ pte ptePa =>
    if s.core.q.queue.isEmpty then setAccessed s l false
    else if usedBits pte false = 0 || s.core.q.uses.any (fun u => u.2.1 == ptePa) then s
    else setQ s { s.core.q with uses := s.core.q.uses ++ [(s.core.q.qnext, ptePa, pte)] }

/-- Sets A of the leaves whose uses no Rollback can take back any more (R297). -/
def settleUses (s : State) : State :=
  let done := s.core.q.uses.filter fun u => queuePast s u.1
  if done.isEmpty then s
  else
    done.foldl (fun s u => setUsedFrom s s.core.pos.die s.core.fold u.2.1 u.2.2 false)
      (setQ s { s.core.q with uses := s.core.q.uses.filter fun u => !queuePast s u.1 })

/-- A store-buffer entry leaves and is performed (R165, R204, R206, R208, R282). -/
def performSb (s : State) (e : SbEntry) : State :=
  match e.op with
  | .store size data => storeAt (setAccessed s e.loc true) e.loc size data
  | .facc op v =>
    (match e.loc with
     | .bank k => if isRemote s.core.pos k then sendRemote s k (.facc op v) else foldAtLoc s e.loc op v
     | _ => foldAtLoc (setAccessed s e.loc true) e.loc op v)
  | .cbo fn =>
    (match e.loc with
     | .glob k _ _ => cboLine (setAccessed s e.loc (fn = 2)) s.core.pos fn k
     | _ => setAccessed s e.loc (fn = 2))
  | .enter h tmpl parent depth =>
    addChild (writeHeader s s.core.vf h tmpl parent 1 (newState 0 depth false true) 0) s.core.vf parent 1
  | .leave h tmpl => leaveFrame (flushRemote s) s.core.vf h tmpl

/-- The page copies that a Leave asks for, and waits for, where it retires the launch frame's children (R117, R208, R300). -/
def leaveCopies (s : State) (e : SbEntry) : Option State :=
  match e.op with
  | .leave h tmpl => rootCopies s (leaveFrame (flushRemote s) s.core.vf h tmpl)
  | _ => none

/-- Does a store-buffer entry's turn allow it to leave (R165)? A Leave also waits for the SDQ, as every release does (R208, R361). -/
def leaveTurn (s : State) (e : SbEntry) : Bool :=
  queuePast s e.after && (match e.op with | .leave _ _ => s.core.q.sdq.isEmpty | _ => true)

/-- May a store-buffer entry leave (R165)? -/
def mayLeave (s : State) (e : SbEntry) : Bool := leaveTurn s e && (leaveCopies s e).isNone

/-- The oldest store-buffer entry leaves, when it may (R165). -/
def popSb (s : State) : State :=
  match s.core.q.sb with
  | [] => s
  | e :: t =>
    if !leaveTurn s e then s
    else match leaveCopies s e with
      | some s1 => s1
      | none => performSb (setQ s { s.core.q with sb := t }) e

/-- Entries leave until at most n stay, or the oldest may not. -/
def drainSb : Nat → State → Nat → State
  | 0, s, _ => s
  | f + 1, s, n => if s.core.q.sb.length ≤ n then s else drainSb f (popSb s) n

/-- Waits until the store buffer is empty and RRC = 0, with no queued instruction outstanding. -/
def flushStores (s : State) : State := flushRemote (drainSb s.core.q.sb.length s 0)

/-! ## Undo log and Rollback -/

/-- Frees the undo entries whose older queued instructions have completed; held flags reach FFLAGS (R166, R177). -/
def freeUndo (s : State) : State :=
  let gone := s.core.q.undo.filter fun u => queuePast s u.after
  if gone.isEmpty then s
  else
    let fl := gone.foldl (fun (f : Flags) u => f ||| u.flags) 0
    let s1 := setQ s { s.core.q with undo := s.core.q.undo.filter fun u => !queuePast s u.after }
    setRegs s1 { s1.core.regs with fflags := s1.core.regs.fflags ||| fl }

/-- The instruction at RPC has issued and now stands: RCNT returns to 0 (R427). -/
def settleRetry (s : State) : State :=
  if s.core.q.retry.any (queuePast s) then
    setSync (setQ s { s.core.q with retry := none }) { s.core.sync with rcnt := 0 }
  else s

/-- Restores one undo item (R169). -/
def restoreItem (s : State) (i : UndoItem) : State :=
  match i with
  | .xreg r old => setX s r old
  | .loopLevel n old => setRegs s { s.core.regs with loops := vset s.core.regs.loops n old }
  | .srseed old => setRegs s { s.core.regs with srseed := old }
  | .flagsOnly => s
  | .frame depth d shadow added =>
    let g := s.core.regs
    let fr := match added with
      | some off => g.frames.filter fun f => f.off != off
      | none => g.frames
    syncLive (setRegs s { g with depth := depth, d := d, shadow := shadow, frames := fr })
  | .mode old => setRegs s { s.core.regs with mode := old }

/-- Restores what a queued instruction that ran ahead replaced (R169, R170). -/
def restoreReplaced (s : State) (i : Replaced) : State :=
  let v := s.core.vec
  match i with
  | .v r old sc => setVec s { v with v := vset v.v r old, scales := vset v.scales r sc }
  | .k n old => setVec s { v with k := vset v.k n old }
  | .masks old => setVec s { v with masks := old }
  | .codebook old => setVec s { v with codebook := old }
  | .seed old => setRegs s { s.core.regs with srseed := old }

/-- Takes back the effects of a queued instruction that ran ahead; what it held is dropped (R169). -/
def undoAhead (s : State) (e : QEntry) : State :=
  match e.ahead with
  | some a => a.old.foldl restoreReplaced s
  | none => s

/-- The LDQ after Rollback to sequence number q: entries of discarded loads go, but that of the lane-addressed load own stays,
to be taken again, while LANEDONE keeps bits for it (R254, R286). -/
def rollbackLdq (ldq : List LdqEntry) (q : Nat) (own : Option Nat) (lanedone : Word) : List LdqEntry :=
  (ldq.filter fun e => e.kept || decide (e.seq < q) || (lanedone != 0 && own == some e.seq)).map fun e =>
    if e.kept || decide (e.seq < q) then e else { e with fault := none, deferred := true, kept := true }

/-- LANEDONE := 0 drops the LDQ entry that a Rollback kept (R254, R287). -/
def dropOrphans (s : State) : State := setQ s { s.core.q with ldq := s.core.q.ldq.filter fun e => !e.kept }

/-- Rollback(q) to the entry with sequence number n, the oldest of the queue (R169). keepLanes says that cause 13 at q left LANEDONE
(R287). -/
def rollback (s : State) (e : QEntry) (keepLanes : Bool) : State :=
  let q := s.core.q
  let dropped := q.queue.filter fun y => decide (e.seq ≤ y.seq)
  let undone := (q.undo.filter fun u => decide (e.seq < u.after)).reverse
  let s0 := dropped.reverse.foldl undoAhead s
  let s1 := undone.foldl (fun s u => restoreItem s u.item) s0
  let own := dropped.find? fun y => isLaneAddressed y.instr
  let lanes := if keepLanes then s1.core.regs.lanedone
    else match own with
      | some y => y.lanedone
      | none => s1.core.regs.lanedone
  let s2 := setQ s1 { q with
    queue := q.queue.filter fun y => decide (y.seq < e.seq)
    qnext := e.seq
    undo := q.undo.filter fun u => decide (u.after ≤ e.seq)
    sb := q.sb.filter fun b => decide (b.after ≤ e.seq)
    ldq := rollbackLdq q.ldq e.seq (own.map (·.seq)) lanes
    sdq := q.sdq.filter fun d => decide (d.seq < e.seq)
    u := e.uBefore
    p := e.pBefore
    remote := q.remote.filter fun r => decide (r.after ≤ e.seq) || (match r.op with | .load _ _ _ => false | _ => true)
    late := q.late.filter fun r => decide (r.after ≤ e.seq)
    retry := q.retry.filter fun n => decide (n ≤ e.seq)
    uses := q.uses.filter fun u => decide (u.1 ≤ e.seq) }
  setRegs s2 { s2.core.regs with lanedone := lanes, instret := e.instretAt, pc := e.pc }

/-! ## Falling through -/

/-- The END test at address A for the levels below n, in descending order (R187). -/
def endTest (s : State) (a : Word) : Nat → State
  | 0 => setPc s (a + 4)
  | n + 1 =>
    let l := loopAt s n
    if l.act && l.stop = a && l.lvl = s.core.regs.level then
      if 1 < l.lc.toNat then
        let lc := l.lc - 1
        let p : Int := (l.count.toNat : Int) + l.stages - 1 - lc.toNat
        let bit : Byte := if p < l.count.toNat then 1 else 0
        let mask : Byte := BitVec.ofNat 8 (2 ^ l.stages - 1)
        setPc (writeLoop s n { l with lc := lc, stg := ((l.stg <<< 1) ||| bit) &&& mask }) l.start
      else endTest (writeLoop s n { l with lc := 0, act := false, stg := 0 }) a n
    else endTest s a n

/-- RCNT returns to 0 when the instruction at RPC completes, which it has not while a Rollback may still take it back (R427). -/
def retryDone (s : State) : State :=
  if s.core.sync.rcnt ≠ 0 && s.core.sync.rpc = s.core.regs.pc then
    (if s.core.q.queue.isEmpty then setSync s { s.core.sync with rcnt := 0 } else setQ s { s.core.q with retry := some s.core.q.qnext })
  else s

/-- A strand instruction retires: INSTRET counts it (R153). -/
def retired (s : State) : State :=
  let s1 := retryDone s
  setRegs s1 { s1.core.regs with instret := s1.core.regs.instret + 1 }

/-- An instruction that did not change the PC has issued: INSTRET and the END test (R153, R187). -/
def fallThrough (s : State) : State :=
  let s1 := retired s
  endTest s1 s1.core.regs.pc 6

/-- An instruction that changes the PC has issued: no END test (R187). -/
def jumpTo (s : State) (pc : Word) : State := setPc (retired s) pc

/-! ## Headers that wait in the store buffer -/

/-- What the header of a frame will hold that an FENTER of the core in focus has entered, while its store-buffer entry has not left (R206):
its template, its parent and its depth. -/
def pendingFrame (s : State) (h : Word) : Option (Word × Word × Nat) :=
  s.core.q.sb.reverse.findSome? fun b => match b.op with
    | .enter h' t p d => if h' = h then some (t, p, d) else none
    | _ => none

/-- STATE of a frame as the core in focus sees it. -/
def seenState (s : State) (vf : Nat) (h : Word) : State × Word :=
  match pendingFrame s h with
  | some f => (s, newState 0 f.2.2 false true)
  | none => frameState s vf h

/-- TMPL of a frame as the core in focus sees it. -/
def seenTmpl (s : State) (vf : Nat) (h : Word) : State × Word :=
  match pendingFrame s h with
  | some f => (s, f.1)
  | none => frameRead s vf (hTmpl h)

/-- PARENT of a frame as the core in focus sees it. -/
def seenParent (s : State) (vf : Nat) (h : Word) : State × Word :=
  match pendingFrame s h with
  | some f => (s, f.2.1)
  | none => frameRead s vf (hParent h)

/-! ## Kill -/

/-- The nearest frame at or above h with ENT = 0 (R428). -/
def killTarget : Nat → State → Nat → Word → Word
  | 0, _, _, h => h
  | f + 1, s, vf, h =>
    if stEnt (seenState s vf h).2 then killTarget f s vf (seenParent s vf h).2 else h

/-- Sets KILL of a frame, one atomic operation (R428). -/
def setKill (s : State) (vf : Nat) (h : Word) : State :=
  let r := frameState s vf h
  frameWrite r.1 vf (hState h) (r.2 ||| (1 <<< 38))

/-- A strand that Kill prevents from starting counts as ended: its trigger and its cluster node (R428, R431). -/
def neverStarted (s : State) (lid : Word) (c : ClusterPos) (n : Nat) : State :=
  let s1 := triggerDec s lid n ((launchAt s lid).any fun l => treeEnds l c n)
  match launchAt s1 lid with
  | some l => setLaunch s1 (nodeDec l (.cluster c) n)
  | none => s1

/-- n children of a frame that count as retired, one after another. -/
def childrenDone : Nat → State → Nat → Word → State
  | 0, s, _, _ => s
  | n + 1, s, vf, h => childrenDone n (childDone s vf h 0) vf h

/-- Has a cluster taken a launch (R105)? -/
def clusterTook (s : State) (lid : Word) (c : ClusterPos) : Bool := ((clusterAt s c).holds.map (·.1)) == some lid

/-- KILL in the cluster frame and in every strand frame of a launch in a cluster (R428). -/
def markCluster (s : State) (l : Launch) (c : ClusterPos) : State :=
  let strands := (allCores s).filter fun k =>
    k.pos.cluster == c && k.occ == .strand && k.lid == l.lid && k.sync.wait != some .retiring
  let s1 := if clusterTook s l.lid c then setKill s l.vf (clusterFrameVa c) else s
  strands.foldl (fun s k => setKill s l.vf (tcmVa k.pos 0)) s1

/-- The cores of a cluster with strands of a launch that have not started, each with its strands in all and those not started. -/
def unstarted (s : State) (l : Launch) (c : ClusterPos) : List (CorePos × Nat × Nat) :=
  (clusterCores s c).filterMap fun p =>
    let a := assigned s l p
    if startedOn l p < a then some (p, a, a - startedOn l p) else none

/-- The strands of a cluster that have not started never start (R428, R431): each counts in CHILD of the cluster frame as retired, and then
as ended. In a cluster that has not taken the launch they count once, in CHILD of the launch frame. -/
def endUnstarted (s : State) (l : Launch) (c : ClusterPos) : State :=
  let waiting := unstarted s l c
  let n := (waiting.map (·.2.2)).sum
  if n = 0 then s
  else
    let l1 := waiting.foldl (fun l w => setStarted l w.1 w.2.1) ((launchAt s l.lid).getD l)
    let s1 := setLaunch s (endPlacing l1)
    let s2 := if clusterTook s l.lid c then childrenDone n s1 l.vf (clusterFrameVa c) else childDone s1 l.vf l.record.lframe 2
    neverStarted s2 l.lid c n

/-- Clusters of a launch that have not reported. -/
def launchClusters (l : Launch) : List ClusterPos :=
  l.nodes.filterMap fun e => match e.1 with
    | .cluster c => if l.reported.contains (.cluster c) then none else some c
    | _ => none

/-- A Kill no longer waits to act on a frame of a launch. -/
def killActed (s : State) (lid : Word) (n : TreeNode) : State :=
  match launchAt s lid with
  | some l => setLaunch s { l with killWaits := l.killWaits.filter (· != n) }
  | none => s

/-- Kill acts on the launch frame or on a cluster of a launch (R428), where its VF is in place. The marks come at once; what changes the launch
frame waits for the copies of its pages (R117, R300). -/
def killNode (s : State) (lid : Word) (n : TreeNode) : State :=
  match launchAt s lid with
  | none => s
  | some l =>
    if !vfInPlace s l then s
    else
      let s1 := match n with | .cluster c => markCluster s l c | _ => s
      let t := match n with
        | .cluster c => endUnstarted s1 l c
        | .root => setKill s1 l.vf l.record.lframe
        | .die _ => s1
      match launchCopies s1 t l with
      | some s2 => s2
      | none => killActed t lid n

/-- Kill of some frames of a launch, each of which waits until Kill can act on it. -/
def killNodes (s : State) (lid : Word) (ns : List TreeNode) : State :=
  match launchAt s lid with
  | none => s
  | some l => ns.foldl (fun s n => killNode s lid n) (setLaunch s { l with killWaits := (l.killWaits ++ ns).eraseDups })

/-- Kill of the launch frame (R425, R428). -/
def killLaunch (s : State) (lid : Word) : State :=
  match launchAt s lid with
  | none => s
  | some l => killNodes (setLaunch s { l with killed := true }) lid (.root :: (launchClusters l).map TreeNode.cluster)

/-- A Kill that waits for the copies of pages, or for its VF, acts where it can (R117, R428). -/
def killsDue (s : State) : Option State :=
  s.launches.findSome? fun l =>
    let t := l.killWaits.foldl (fun s n => killNode s l.lid n) s
    if t = s then none else some t

/-- A containment notice to the core that owns a parent left alive at depth 2 or deeper (R430). A header that software wrote reaches no core
of another fold (R5, R200). -/
def notify (s : State) (parent : Word) : State :=
  if isWindow parent && !(bankOwner parent.toNat).2 && bankOfVf s s.core.vf (absKey parent) && !stKill (seenState s s.core.vf parent).2 then
    let c := coreAt s (bankOwner parent.toNat).1
    if c.occ = .idle then s else setCoreAt s { c with sync := { c.sync with notice := true } }
  else s

/-- Kill(f) (R428, R430). -/
def kill (s : State) (h : Word) : State :=
  let vf := s.core.vf
  let f := killTarget treeFuel s vf h
  let depth := stDepth (seenState s vf f).2
  if depth = 0 then killLaunch s s.core.lid
  else if depth = 1 then killNodes s s.core.lid [.cluster s.core.pos.cluster]
  else notify (setKill s vf f) (seenParent s vf f).2

/-! ## Containment -/

/-- A report to the root of the launch: NFAULT counts, and the first fault is kept (R50, R423). -/
def reportFault (s : State) (lid : Word) (code : Nat) (v pc : Word) : State :=
  match launchAt s lid with
  | none => s
  | some l =>
    let n := if l.nfault = BitVec.allOnes 32 then l.nfault else l.nfault + 1
    setLaunch s { l with nfault := n, first := some (l.first.getD (code, v, pc)) }

/-- Answers the entry at the head of a ring with STATUS 7, or discards it (R424): a head that waits is answered by the copy of its record
(R83), and one whose answer waits for the copy of a page is answered so instead. -/
def answerEntry (s : State) (vf p : Nat) : State :=
  match (s.launches.find? fun l => l.vf == vf && l.prio == p && l.atHead).or (waitingHead s vf p), vfAt s vf with
  | some l, _ => answer s { l with byVf := true, atHead := false } 7 0 0
  | none, none => s
  | none, some v =>
    match readHead s v p with
    | .usable s1 l => answer s1 { l with byVf := true } 7 0 0
    | .unusable s1 lid => reportBad s1 vf lid .badLaunch
    | .unreadable => s

/-- Answers the entries of a queue until HEAD = TAIL. -/
def answerQueue : Nat → State → Nat → Nat → State
  | 0, s, _, _ => s
  | f + 1, s, vf, p =>
    match vfAt s vf with
    | none => s
    | some v => if (queueOf v p).tail ≤ (queueOf v p).head then s else answerQueue f (advanceHead (answerEntry s vf p) vf p) vf p

/-- KILL VF reaches a started launch (R424, R435): one whose record is still to be written ends with STATUS 7, unless 8 or 4 comes before. -/
def killByVf (l : Launch) : Launch :=
  { l with byVf := true, ending := l.ending.map fun e => if e.1 = 8 || e.1 = 4 then e else (7, e.2) }

/-- KILL VF (R424): started launches are killed, entries in the rings are answered, and HEAD := TAIL. -/
def killVf (s : State) (vf : Nat) : State :=
  let ls := s.launches.filter fun l => l.vf == vf && (l.phase == .placing || l.phase == .placed)
  let s1 := { s with launches := s.launches.map fun l => if l.vf = vf && underWay l then killByVf l else l }
  let s2 := ls.foldl (fun s l => killLaunch s l.lid) s1
  (List.range 8).foldl (fun s p => match vfAt s vf with
    | some v => answerQueue ((queueOf v p).tail - (queueOf v p).head) s vf p
    | none => s) s2

/-- A fold's containment policy applied to a launch (R424); RESET FOLD is performed by the next step. -/
def applyPolicy (s : State) (fold : Nat) (lid : Word) (vf policy : Nat) : State :=
  if policy = 0 then killLaunch s lid
  else if policy = 1 then killVf s vf
  else { s with inputs := .foldReset fold :: s.inputs }

/-- FoldPolicy(code, v, pc), or its request to the host (R424). During a firmware swap the report waits in the drover's mailbox, and so does
the strand (R446). -/
def foldPolicy (s : State) (code : Nat) (v pc : Word) : State :=
  match foldAt s s.core.fold with
  | none => killLaunch s s.core.lid
  | some f =>
    if f.mode.getLsbD 5 then
      let req : ContReq := ⟨s.core.lid, s.core.pos, code, v, pc⟩
      let s1 := setFold s { f with contReqs := f.contReqs ++ [req] }
      let s2 := postMb s1 f.num ⟨12, s.core.vf, s.core.lid ||| (BitVec.ofNat 64 code <<< 48), v, pc⟩
      setSync s2 { s2.core.sync with stopped := true }
    else if s.svc.swapping then
      let s1 := noteCmd s (.policy f.num s.core.lid s.core.vf)
      setSync s1 { s1.core.sync with stopped := true }
    else applyPolicy s f.num s.core.lid s.core.vf f.policy

/-- The word at a PC under the rights of the strand, or none when its page does not allow it or its word is poisoned (R426). -/
def wordAtPc (s : State) (pc : Word) : Option (BitVec 32) :=
  if isWindow pc then none
  else match probe s s.core.who pc .x with
    | some (.glob k pte _) =>
      let r := loadWord s s.core.pos k (pteAttr pte)
      if r.2.2 then none else some r.2.1
    | _ => none

/-- Clears the destination of the instruction at pc (R426): x := 0, or the active lanes of v or k := 0. only selects the lanes
to clear; with none every active lane is cleared. -/
def clearDest (s : State) (pc : Word) (only : Option Word) : State :=
  match (wordAtPc s pc).bind fun w => (decodeWord w).toOption with
  | none => s
  | some i =>
    let m := s.core.regs.mode
    let act := only.getD (if ignoresGuard m i then BitVec.allOnes 64 else activeMask m s.core.vec.masks)
    match destOf i with
    | .x r => setX s r 0
    | .k n =>
      if n = 0 then s
      else setVec s { s.core.vec with k := vset s.core.vec.k n.toNat ((s.core.vec.k[n.toNat]?).getD 0 &&& ~~~(act &&& kLanes m i)) }
    | .v r =>
      if 30 ≤ r.toNat then s
      else
        let old := (s.core.vec.v[r.toNat]?).getD 0
        setVec s { s.core.vec with v := vset s.core.vec.v r.toNat (clearLanes (guardBits m i) act old) }
    | .none_ => s

/-- Ignore(code, pc) (R426). contain says that CONTAIN with INH = 0 raised it. -/
def ignore (s : State) (code : Nat) (pc : Word) (contain : Bool) : State :=
  if contain then setPc s (pc + 4)
  else if code = 12 || code = 20 then setPc s pc
  else if code = 2 then setPc s (pc + 4)
  else if code = 13 then
    let act := activeMask s.core.regs.mode s.core.vec.masks
    let s1 := clearDest s pc (some (act &&& ~~~s.core.regs.lanedone))
    let s2 := setRegs s1 { s1.core.regs with lanedone := 0 }
    setPc (dropOrphans s2) (pc + 4)
  else setPc (clearDest s pc none) (pc + 4)

/-- RETRY at the faulting frame (R427). -/
def retryAt (s : State) (pc : Word) : State :=
  let y := s.core.sync
  let y1 := if pc = y.rpc then { y with rcnt := y.rcnt + 1 } else { y with rpc := pc, rcnt := 1 }
  setPc (setSync s y1) pc

/-- The climb above the faulting frame (R423): child is the frame on the fault's path below h. -/
def climb : Nat → State → Nat → Word → Word → Word → Word → State
  | 0, s, code, _, _, v, pc => foldPolicy s code v pc
  | f + 1, s, code, h, child, v, pc =>
    let vf := s.core.vf
    let t := seenTmpl s vf h
    let p := tPolicy t.2
    if p = 3 then
      if stDepth (seenState t.1 vf h).2 = 0 then foldPolicy t.1 code v pc
      else climb f t.1 code (seenParent t.1 vf h).2 h v pc
    else if p = 2 then kill t.1 h
    else kill t.1 child

/-- The policy of the faulting frame after the overrides of R423. -/
def faultPolicy (s : State) (code : Nat) (pc : Word) : Nat :=
  let p := tPolicy (shadowAt s s.core.regs.depth)
  let p1 := if p = 1 && pc = s.core.sync.rpc && s.core.sync.rcnt = 3 then 2 else p
  let p2 := if (code = 10 || code = 11) && (p1 = 0 || p1 = 1) then 2 else p1
  if (code = 0 || code = 1) && p2 = 0 then 2 else p2

/-- Contain(code, v, pc) (R423). contain says that CONTAIN with INH = 0 raised it (R426). -/
def containAs (s : State) (code : Nat) (v pc : Word) (contain : Bool) : State :=
  let s1 := reportFault s s.core.lid code v pc
  if s1.core.regs.depth = 0 then foldPolicy s1 code v pc
  else
    let h := curFrame s1
    let p := faultPolicy s1 code pc
    if p = 3 then climb treeFuel s1 code (seenParent s1 s1.core.vf h).2 h v pc
    else if p = 0 then ignore s1 code pc contain
    else if p = 1 then retryAt s1 pc
    else kill s1 h

/-! ## Taking an exception, and returning from one -/

/-- TrapEntry(code, int, v, pc) (R156): to the handler, or to containment when none is installed or INH is set. -/
def trapEntry (s : State) (code : Nat) (int : Bool) (v pc : Word) : State :=
  let t := s.core.trap
  let g := s.core.regs
  if t.tvec >>> 2 = 0 || t.inh then containAs (setPc s pc) code v pc false
  else
    let t1 : TrapRegs := { t with
      epc := pc
      cause := (if int then 1 <<< 63 else 0) ||| BitVec.ofNat 64 code
      tval := v
      plv := g.level
      pie := t.ie
      ie := false
      inh := true
      emode := g.mode
      emaskd := BitVec.ofNat 5 s.core.vec.masks.length }
    setRegs (setTrap s t1) { g with mode := 0, level := 2, pc := (t.tvec >>> 2) <<< 2 }

/-- Is a mode word illegal (R142)? -/
def modeIllegal (m : BitVec 18) : Bool :=
  decide (6 ≤ (m.extractLsb' 4 3).toNat) || (m.extractLsb' 9 2) == 3 || decide (11 ≤ (m.extractLsb' 0 4).toNat) ||
    (m.extractLsb' 14 4) != 0

/-- The second check of TRET (R159). -/
def tretIllegal (s : State) : Bool :=
  let t := s.core.trap
  t.plv == 3 || modeIllegal t.emode || decide (16 < t.emaskd.toNat) || decide (s.core.vec.masks.length < t.emaskd.toNat)

/-- The steps of TRET but the PC (R159, R429). -/
def tretSteps (s : State) : State :=
  let t := s.core.trap
  let v := s.core.vec
  let s1 := setVec s { v with masks := v.masks.drop (v.masks.length - t.emaskd.toNat) }
  let s2 := setRegs s1 { s1.core.regs with mode := t.emode, level := t.plv }
  setTrap s2 { t with ie := t.pie, inh := false }

/-- The return from an exception (R159), after its checks. -/
def trapReturn (s : State) : State :=
  let s1 := tretSteps s
  jumpTo s1 ((s1.core.trap.epc >>> 2) <<< 2)

end Sys2Proof.Machine
end

