-- ==== Sys2Proof/Machine/VecOps.lean ====
section
/-!
DEFINITION. Machine/VecOps.lean: what the effects of queued instructions share: captured operands, v sources with v30, v
destinations with v31 (R250, R251), active lanes and draws (R233, R248), flags (R235), and the functions of R259.
-/

namespace Sys2Proof.Machine

/-- How a queued instruction's turn ends: it completes, it traps at VCP (keep says that LANEDONE as it stands is kept, R287), or
it has not started and waits. -/
inductive RunRes where
  | done (s : State)
  | trap (s : State) (t : Trap) (keep : Bool)
  | blocked (s : State)
  deriving Repr

/-- A trap whose TVAL holds a subcode in bits 63:56 (R154). -/
def subTrap (code sub detail : Nat) : Trap := ⟨code, BitVec.ofNat 64 (sub * 2 ^ 56 + detail)⟩

/-- A captured x operand (R161). -/
def QEntry.x (e : QEntry) (r : Reg) : Word :=
  if r = 0 then 0 else ((e.xs.find? fun p => p.1 == r).map (·.2)).getD 0

/-- TYPE as captured. -/
def QEntry.ty (e : QEntry) : Nat := mType e.mode

/-- Lane width as captured. -/
def QEntry.w (e : QEntry) : Nat := laneBits e.mode

/-- The LDQ entry that is assigned to a reader (R250). -/
def ldqFor (s : State) (e : QEntry) : Option LdqEntry := s.core.q.ldq.find? fun l => !l.kept && e.ldqSeq == some l.seq

/-- The SDQ entry that is assigned to a store (R251). -/
def sdqFor (s : State) (e : QEntry) : Option SdqEntry := s.core.q.sdq.find? fun d => e.sdqSeq == some d.seq

/-- A v register as a source: v30 is the LDQ entry that the instruction pops (R250). -/
def vSrc (s : State) (e : QEntry) (r : Reg) : VWord :=
  if r = 30 then ((ldqFor s e).map (·.data)).getD 0 else s.core.vec.v.get r.toFin

/-- The LDQ entry that the next reader takes: the oldest early load that no reader has been given (R250). -/
def nextLdq (s : State) : Option LdqEntry :=
  s.core.q.ldq.find? fun l => !l.kept && !(s.core.q.queue.any fun y => y.ldqSeq == some l.seq)

/-- A v register as an instruction that is enqueued now will find it where no older one writes it. -/
def vNow (s : State) (r : Reg) : VWord :=
  if r = 30 then ((nextLdq s).map (·.data)).getD 0 else s.core.vec.v.get r.toFin

/-- The pushes that no store has been given, whether or not they have run (R251). -/
def freePushes (s : State) : List Nat :=
  let q := s.core.q
  let all := (q.sdq.map (·.seq)) ++ ((q.queue.filter fun y => pushesSdq y.instr && y.ahead.isNone).map (·.seq))
  all.filter fun n => !(q.queue.any fun y => y.sdqSeq == some n)

/-- The push that the next store takes (R251). -/
def nextSdq (s : State) : Option Nat :=
  (freePushes s).foldl (fun (b : Option Nat) n => match b with | none => some n | some m => some (Nat.min m n)) none

/-- Writes a v register whole. -/
def setV (s : State) (r : Reg) (v : VWord) : State :=
  setVec s { s.core.vec with v := s.core.vec.v.set r.toNat v r.isLt }

/-- The scale fields of a v register (R271). -/
def scalesOf (s : State) (r : Reg) : Vector Scale 4 := s.core.vec.scales.get r.toFin

/-- Writes the scale fields of a v register. -/
def setScales (s : State) (r : Reg) (sc : Vector Scale 4) : State :=
  setVec s { s.core.vec with scales := s.core.vec.scales.set r.toNat sc r.isLt }

/-- Pushes an SDQ entry (R251). -/
def pushSdq (s : State) (e : QEntry) (v : VWord) : State :=
  setQ s { s.core.q with sdq := s.core.q.sdq ++ [⟨e.seq, v⟩] }

/-- Writes lanes of width w: an active lane takes its new value, an inactive one keeps the old, or is zero in a push (R248,
R251). -/
def writeLanes (s : State) (e : QEntry) (d : Reg) (w : Nat) (active : Word) (new : List Nat) : State :=
  let old := if d = 31 then (0 : VWord) else s.core.vec.v.get d.toFin
  let ls := (List.range (laneCount w)).map fun i => if active.getLsbD i then laneOf new i else lane old w i
  if d = 31 then pushSdq s e (ofLanes w ls) else setV s d (ofLanes w ls)

/-- The data of a vector store: v(d), the LDQ entry, or the push that is assigned to it (R251, R283). -/
def storeData (s : State) (e : QEntry) (d : Reg) : VWord := if d = 31 then ((sdqFor s e).map (·.data)).getD 0 else vSrc s e d

/-- The active lanes of an instruction that honours GUARD (R248). -/
def activeOf (s : State) (e : QEntry) : Word := activeMask e.mode s.core.vec.masks

/-- ORs flags into FFLAGS (R235). -/
def raiseFlags (s : State) (f : Flags) : State := setRegs s { s.core.regs with fflags := s.core.regs.fflags ||| f }

/-- Takes n draws when the instruction rounds under SR (R233). -/
def takeDraws (s : State) (e : QEntry) (n : Nat) : State × List Nat :=
  if drawsUnder e.mode e.instr then
    let r := draws n s.core.regs.srseed
    (setRegs s { s.core.regs with srseed := r.1 }, r.2)
  else (s, [])

/-- The union of the flags of active positions (R235). -/
def unionFlags (active : Word) (rs : List (Nat × Flags)) : Flags :=
  ((List.range rs.length).zip rs).foldl (fun (f : Flags) p => if active.getLsbD p.1 then f ||| p.2.2 else f) 0

/-- An instruction that computes every lane from its index and its random bits (R257). -/
def laneEffect (s : State) (e : QEntry) (d : Reg) (w : Nat) (f : Nat → Nat → Nat × Flags) : RunRes :=
  let r := takeDraws s e (laneCount w)
  let act := activeOf r.1 e
  let rs := (List.range (laneCount w)).map fun i => f i (laneOf r.2 i)
  .done (raiseFlags (writeLanes r.1 e d w act (rs.map (·.1))) (unionFlags act rs))

/-- Lane i of the b operand: a lane of v(b), or the broadcast low bits of x(b) (R255). -/
def bLane (s : State) (e : QEntry) (w : Nat) (b : Reg) (x : BitVec 1) (i : Nat) : Nat :=
  if x = 1 then (e.x b).toNat % 2 ^ w else lane (vSrc s e b) w i

/-- Writes a mask register; k0 discards (R249). -/
def setK (s : State) (n : BitVec 3) (v : Word) : State :=
  if n = 0 then s else setVec s { s.core.vec with k := vset s.core.vec.k n.toNat v }

/-- A mask register; k0 reads as all ones (R249). -/
def kReg (s : State) (n : BitVec 3) : Word := if n = 0 then BitVec.allOnes 64 else (s.core.vec.k[n.toNat]?).getD 0

/-- Writes the x destination of a queued instruction (R162). -/
def setXq (s : State) (d : Reg) (v : Word) : State := setX s d v

/-! ## Functions of R259 -/

/-- ln 2 times 2^256, truncated. -/
def ln2Fixed : Nat := 80260960185991308862233904206310070533990667611589946606122867505419956976171

/-- Σ t^k / k! in fixed point with 256 bits, from term t^(k-1)/(k-1)!. -/
def expSeries (t : Nat) : Nat → Nat → Nat → Nat
  | 0, _, _ => 0
  | f + 1, k, term => term + expSeries t f (k + 1) (term * t / 2 ^ 256 / (k + 1))

/-- 2^a for a ratio n / d with its sign (R259). An integer exponent is exact. -/
def exExp2 (neg : Bool) (n d : Nat) : Ex :=
  let a : Int := if neg then -(n : Int) else n
  let i := a / (d : Int)
  let rem := (a % (d : Int)).toNat
  if 1100 < i then dyadic false 1 1100 |> fun v => (match v with | .fin s x y _ => .fin s x y true | o => o)
  else if i < -1100 then .fin false 1 (2 ^ 1100) true
  else if rem = 0 then dyadic false 1 i
  else
    let f := rem * 2 ^ 256 / d
    let t := f * ln2Fixed / 2 ^ 256
    let m := expSeries t 60 0 (2 ^ 256)
    let p := pow2 i
    .fin false (m / 2 ^ 32 * p.1) (2 ^ 224 * p.2) true

/-- Σ z^(2k+1) / (2k+1) in fixed point with 256 bits. -/
def atanhSeries (z2 : Nat) : Nat → Nat → Nat → Nat
  | 0, _, _ => 0
  | f + 1, k, pw => pw / (2 * k + 1) + atanhSeries z2 f (k + 1) (pw * z2 / 2 ^ 256)

/-- log2 of a positive ratio n / d (R259). The log2 of a power of two is exact. -/
def exLog2 (n d : Nat) : Ex :=
  let e := flog2 n d
  let p := pow2 e
  let mn := n * p.2
  let md := d * p.1
  if mn = md then Ex.ofInt e
  else
    let z := (mn - md) * 2 ^ 256 / (mn + md)
    let l := 2 * atanhSeries (z * z / 2 ^ 256) 100 0 z
    let lg := l * 2 ^ 256 / ln2Fixed / 2 ^ 32
    if 0 ≤ e then .fin false (e.toNat * 2 ^ 224 + lg) (2 ^ 224) true
    else .fin true ((-e).toNat * 2 ^ 224 - (lg + 1)) (2 ^ 224) true

/-- A value rounded RNE to 12 significant bits with an unbounded exponent (R259). -/
def sig12 (v : Ex) : Ex :=
  match v with
  | .fin s n d st =>
    if n = 0 then v
    else
      let e := flog2 n d
      let q := pow2 (e - 11)
      dyadic s (roundInt 0 0 s (n * q.2) (d * q.1) st) (e - 11)
  | o => o

/-- The rounding of R259: y to 12 bits, then Round, with NX and UF judged against y. -/
def approxRound (f : Fmt) (rm : Nat) (sat : Bool) (rnd : Nat) (y : Ex) : Nat × Flags :=
  match y with
  | .fin _ n d st =>
    let r := roundTo f rm sat rnd (sig12 y)
    let differs := st || !(Ex.eq (f.decode r.1) y)
    let tiny := n != 0 && decide (flog2 n d < f.emin)
    (r.1, (r.2 &&& flagOF) ||| flagIf differs flagNX ||| flagIf (differs && tiny) flagUF)
  | o => roundTo f rm sat rnd o

/-- y and its flags for VRCP, VRSQ, VEXP2 and VLOG2, numbered 0 to 3 (R259). -/
def approxValue (op : Nat) (a : Ex) : Ex × Flags :=
  match a with
  | .nan => (.nan, 0)
  | .inf s =>
    if op = 0 then (.zero s, 0)
    else if op = 1 then (if s then (.nan, flagNV) else (.zero false, 0))
    else if op = 2 then (if s then (.zero false, 0) else (.inf false, 0))
    else (if s then (.nan, flagNV) else (.inf false, 0))
  | .fin s n d st =>
    if n = 0 then
      (if op = 0 || op = 1 then (.inf s, flagDZ) else if op = 2 then (Ex.ofInt 1, 0) else (.inf true, flagDZ))
    else if op = 0 then (.fin s d n st, 0)
    else if op = 1 then (if s then (.nan, flagNV) else exSqrt (.fin false d n st))
    else if op = 2 then (exExp2 s n d, 0)
    else (if s then (.nan, flagNV) else (exLog2 n d, 0))

end Sys2Proof.Machine
end

