-- ==== Sys2Proof/Machine/Descriptors.lean ====
section
/-!
DEFINITION. Machine/Descriptors.lean: copy descriptors (R302, R303), the boxes of their sides, and the ranges that outstanding
copy commands hold (R290, R308).
-/

namespace Sys2Proof.Machine

/-! ## Descriptors -/

/-- n bytes of a list as a number. -/
def listLe (b : List Byte) (o : Nat) : Nat → Nat
  | 0 => 0
  | n + 1 => ((b[o]?).getD 0).toNat + 256 * listLe b (o + 1) n

/-- A descriptor from its 128 bytes (R302); res0Zero says that the reserved fields and unused levels are zero. -/
def parseDescriptor (b : List Byte) : Descriptor :=
  let nlev := listLe b 0x13 1
  let lv := List.range (if nlev < 6 then nlev else 6)
  { src := BitVec.ofNat 64 (listLe b 0 8)
    dst := BitVec.ofNat 64 (listLe b 8 8)
    stype := listLe b 0x10 1
    dtype := listLe b 0x11 1
    op := listLe b 0x12 1
    nlev := nlev
    rnd := BitVec.ofNat 8 (listLe b 0x14 1)
    res0Zero := listLe b 0x15 11 == 0 && listLe b 0x14 1 / 16 == 0 &&
      ((List.range 6).all fun j => listLe b (0x2C + 16 * j) 4 == 0 && (decide (j < nlev) || listLe b (0x20 + 16 * j) 16 == 0))
    counts := lv.map fun j => listLe b (0x20 + 16 * j) 4
    sstr := lv.map fun j => signedField (listLe b (0x24 + 16 * j) 4) 32
    dstr := lv.map fun j => signedField (listLe b (0x28 + 16 * j) 4) 32 }

/-- Bytes of an element of a descriptor type. -/
def descBytes (ty : Nat) : Nat := typeBits ty / 8

/-- The product of the COUNTs. -/
def descTotal (d : Descriptor) : Nat := d.counts.foldl (· * ·) 1

/-- The lowest and highest offset that a nest adds to its base (R303, R308). -/
def nestSpan (counts : List Nat) (strides : List Int) : Int × Int :=
  (counts.zip strides).foldl (fun (a : Int × Int) p =>
    let x := ((p.1 : Int) - 1) * p.2
    if x < 0 then (a.1 + x, a.2) else (a.1, a.2 + x)) (0, 0)

/-- Is a descriptor malformed (R303)? -/
def descMalformed (isQ : Bool) (d : Descriptor) : Bool :=
  let es := descBytes d.stype
  let ed := descBytes d.dtype
  let span := nestSpan d.counts d.dstr
  !d.res0Zero || decide (1 < d.op) || d.nlev == 0 || decide (6 < d.nlev) || decide (9 < d.stype) || decide (9 < d.dtype) ||
    decide (4 < (d.rnd.extractLsb' 0 3).toNat) || decide (d.src.toNat % es ≠ 0) || decide (d.dst.toNat % ed ≠ 0) ||
    (d.sstr.any fun x => decide (x % (es : Int) ≠ 0)) || (d.dstr.any fun x => decide (x % (ed : Int) ≠ 0)) ||
    decide (2 ^ 32 < descTotal d) || (d.op == 1 && (isQ || !(d.dtype == 3 || d.dtype == 4 || d.dtype == 5))) ||
    (isQ && descTotal d != 0 &&
      (decide ((d.dst.toNat : Int) + span.1 < 0) || decide ((Config.slotBytes : Int) < d.dst.toNat + span.2 + ed)))

/-- The target and space that a local-window address names, relative addresses resolved (R115, R286). -/
def windowTarget (p : CorePos) (va : Word) : Int × Int × Int × Int × Nat :=
  let n := va.toNat
  let space := n / 2 ^ 37 % 2
  let die := n / 2 ^ 51 % 32
  let cx := n / 2 ^ 47 % 16
  let cy := n / 2 ^ 44 % 8
  let co := n / 2 ^ 38 % 64
  if n / 2 ^ 56 = 0xFD then
    (p.die + signedField die 5, p.cx + signedField cx 4, p.cy + signedField cy 3,
      if space = 1 then 0 else p.core + signedField co 6, space)
  else ((die : Int), (cx : Int), (cy : Int), if space = 1 then 0 else (co : Int), space)

/-- A relative local-window address resolved against a core's position, when its target lies in the grid (R115, R306). -/
def resolveWindow (p : CorePos) (va : Word) : Word :=
  if va.toNat / 2 ^ 56 = 0xFD then
    let t := windowTarget p va
    if 0 ≤ t.1 && t.1 < 32 && 0 ≤ t.2.1 && t.2.1 < 10 && 0 ≤ t.2.2.1 && t.2.2.1 < 8 && 0 ≤ t.2.2.2.1 && t.2.2.2.1 < 64 then
      BitVec.ofNat 64 (0xFE * 2 ^ 56 + t.1.toNat * 2 ^ 51 + t.2.1.toNat * 2 ^ 47 + t.2.2.1.toNat * 2 ^ 44 + t.2.2.2.1.toNat * 2 ^ 38 +
        va.toNat % 2 ^ 38)
    else va
  else va

/-! ## Boxes and ranges -/

/-- The lowest byte and the length of a side of a nest in bytes; empty when nothing moves. -/
def sideBox (base : Word) (counts : List Nat) (strides : List Int) (size : Nat) : Word × Nat :=
  let span := nestSpan counts strides
  if counts.any (· == 0) then (base, 0) else (base + BitVec.ofInt 64 span.1, (span.2 - span.1).toNat + size)

/-- The destination box of a CPY command: its lowest address and its length (R308, R368). -/
def destBox (k : CopyCmd) : Word × Nat := sideBox k.desc.dst k.desc.counts k.desc.dstr (descBytes k.desc.dtype)

/-- The source box of a command. -/
def srcBox (k : CopyCmd) : Word × Nat := sideBox k.desc.src k.desc.counts k.desc.sstr (descBytes k.desc.stype)

/-- A local range: first key, length, and whether the access writes (R290). -/
abbrev Range := Nat × Nat × Bool

/-- The range of a box, when it is a local window. -/
def boxRange (b : Word × Nat) (write : Bool) : List Range :=
  if isWindow b.1 && b.2 != 0 then [(absKey b.1, b.2, write)] else []

/-- The ranges that a command holds until its message is posted (R308). -/
def cmdRanges (k : CopyCmd) : List Range :=
  if k.early.isSome then []
  else boxRange (srcBox k) false ++ (if k.trough.isSome then [] else boxRange (destBox k) true)

/-- The outstanding commands of a core. -/
def commandsOf (s : State) (p : CorePos) : List CopyCmd := (clusterAt s p.cluster).cmds.filter fun k => k.core == p

/-- Do two ranges overlap, with a write among them (R290)? -/
def rangesMeet (a b : Range) : Bool := (a.2.2 || b.2.2) && overlaps a.1 a.2.1 b.1 b.2.1

/-- Is a range of the core in focus held back by an outstanding copy command (R290, R308)? -/
def rangeHeld (s : State) (r : Range) : Bool :=
  (commandsOf s s.core.pos).any fun k => (cmdRanges k).any (rangesMeet r)

end Sys2Proof.Machine
end

