-- ==== Sys2Proof/Machine/Access.lean ====
section
/-!
DEFINITION. Machine/Access.lean: reading and writing at a translated place (R273 to R280, R292), and what the memory
instructions of classes 5 and 6 share: the translation of a list of lanes (R285, R286, R299), their remote requests (R293,
R294), and the first poisoned byte (R280).
-/

namespace Sys2Proof.Machine

/-! ## One access -/

/-- The key of a place. -/
def placeKey (l : Loc) : Nat :=
  match l with
  | .bank k => k
  | .glob k _ _ => k
  | .peer k _ _ => k

/-- A place n bytes further on in the same page or bank. -/
def Loc.add (l : Loc) (n : Nat) : Loc :=
  match l with
  | .glob k pte ptePa => .glob (k + n) pte ptePa
  | .peer k pte ptePa => .peer (k + n) pte ptePa
  | .bank k => .bank (k + n)

/-- Reads up to four aligned bytes at a place, and whether their word is poisoned. -/
def readWordAt (s : State) (l : Loc) (n : Nat) : State × Nat × Bool :=
  match l with
  | .glob k pte _ => loadGlobal s s.core.pos k n (pteAttr pte)
  | .peer k pte _ =>
    let r := homeRead4 (peerRequest s s.core.pos.die s.core.fold k pte) (wordKey k)
    (r.1, sliceOf r.2.1 (k % 4) n, r.2.2)
  | .bank k => (s, peekLe s k n, poisoned s k)

/-- The levels of the core in focus that keep one word only of an 8-byte location as a copy give it up (R279, R357). -/
def pairReady (s : State) (l : Loc) : State :=
  match l with
  | .glob k _ _ => dropLone s k (.l1 s.core.pos :: sharedPath s s.core.pos)
  | _ => s

/-- Reads n aligned bytes (1, 2, 4 or 8) at a place: the value, and the offset of the first poisoned byte (R280). -/
def readAt (s : State) (l : Loc) (n : Nat) : State × Nat × Option Nat :=
  if n = 8 then
    let a := readWordAt (pairReady s l) l 4
    let b := readWordAt a.1 (l.add 4) 4
    (b.1, a.2.1 + 2 ^ 32 * b.2.1, if a.2.2 then some 0 else if b.2.2 then some 4 else none)
  else
    let a := readWordAt s l n
    (a.1, a.2.1, if a.2.2 then some 0 else none)

/-! ## Lanes -/

/-- One piece of a vector access: its lane or block number, its address, its size, and for a store its data. -/
structure Piece where
  idx : Nat
  va : Word
  size : Nat
  data : Nat
  deriving DecidableEq, Repr

/-- A piece with what its translation answered: a place, or the cause of a fault. -/
structure Placed where
  piece : Piece
  loc : Option Loc
  code : Nat
  deriving DecidableEq, Repr

/-- Translates pieces in order; none when one waits for service (R299). A and D are left to the access itself. -/
def translateAll (s : State) (w : Who) (acc : Access) : List Piece → State × Option (List Placed)
  | [] => (s, some [])
  | p :: t =>
    let r := translateAs s w p.va acc true false
    match r.2 with
    | .wait => (r.1, none)
    | .ok l =>
      let q := translateAll r.1 w acc t
      (q.1, q.2.map (⟨p, some l, 0⟩ :: ·))
    | .fault c =>
      let q := translateAll r.1 w acc t
      (q.1, q.2.map (⟨p, none, c⟩ :: ·))

/-- The faulting piece with the lowest address (R285). -/
def lowestFault (ps : List Placed) : Option Placed :=
  (ps.filter fun p => p.loc.isNone).foldl (fun (b : Option Placed) p =>
    match b with
    | none => some p
    | some q => if p.piece.va.ult q.piece.va then some p else some q) none

/-- The interval from the lowest to the highest byte of some local ranges. -/
def hull (rs : List Range) : List Range :=
  match rs with
  | [] => []
  | r :: t =>
    let lo := t.foldl (fun m x => Nat.min m x.1) r.1
    let hi := t.foldl (fun m x => Nat.max m (x.1 + x.2.1)) (r.1 + r.2.1)
    [(lo, hi - lo, r.2.2)]

/-- The local-window bytes of some pieces, relative windows resolved against a core. -/
def pieceRanges (p : CorePos) (write : Bool) (ps : List Piece) : List Range :=
  ps.filterMap fun x => if isWindow x.va then some (absKey (resolveWindow p x.va), x.size, write) else none

/-- The whole space of the target that a local-window address names. -/
def spaceRange (p : CorePos) (va : Word) (write : Bool) : List Range :=
  if isWindow va then [(absKey (resolveWindow p va) / 2 ^ 37 * 2 ^ 37, 2 ^ 37, write)] else []

/-- The local ranges that a vector or tile access carries (R290, R332): the whole space of its target for a gather or scatter, the
interval from its lowest to its highest byte for a strided or tile access, and else the bytes it touches. -/
def accessRanges (p : CorePos) (e : QEntry) (write : Bool) (ps : List Piece) : List Range :=
  match e.instr with
  | .vldg _ a _ _ | .vstg _ a _ _ => spaceRange p (e.x a) write
  | .vlds .. | .vsts .. | .tload .. | .tstore .. => hull (pieceRanges p write ps)
  | _ => pieceRanges p write ps

/-- Does an outstanding copy command hold back an access (R290, R308)? -/
def heldBack (s : State) (e : QEntry) (write : Bool) (ps : List Piece) : Bool :=
  (accessRanges s.core.pos e write ps).any (rangeHeld s)

/-- The bytes a store-buffer entry writes. -/
def sbBytes : SbOp → Nat
  | .store n _ => n
  | .facc _ _ => 8
  | .cbo _ => 64
  | .enter _ _ _ _ => 40
  | .leave _ _ => 40

/-- May a store-buffer entry write bytes of the line of a place, or overlap its bank bytes (R288, R291)? -/
def sbTouches (b : SbEntry) (l : Loc) (n : Nat) : Bool :=
  match b.loc, l with
  | .bank k, .bank k' => overlaps k (sbBytes b.op) k' n
  | .glob k _ _, .glob k' _ _ => k / 64 == k' / 64
  | .peer k _ _, .peer k' _ _ => k / 64 == k' / 64
  | _, _ => false

/-- Must a queued access wait for an older store-buffer entry to leave: one that writes its line, or bytes of its local range (R291)? -/
def sbHolds (s : State) (e : QEntry) (write : Bool) (ps : List Placed) : Bool :=
  let rs := accessRanges s.core.pos e write (ps.map (·.piece))
  s.core.q.sb.any fun b => decide (b.after ≤ e.seq) &&
    ((ps.any fun p => p.loc.any fun l => sbTouches b l p.piece.size) ||
      (match b.loc with
       | .bank k => rs.any fun r => overlaps k (sbBytes b.op) r.1 r.2.1
       | _ => false))

/-- May a queued access be performed now: no older store-buffer entry and no copy command holds it back (R290, R291)? -/
def accessHeld (s : State) (e : QEntry) (write : Bool) (ps : List Placed) : Bool :=
  heldBack s e write (ps.map (·.piece)) || sbHolds s e write ps

/-- Sends one remote request of a queued instruction that is answered at once: it takes RSEQ, and a refusal joins the late ones, to be
taken back with the instruction (R170, R293, R294). -/
def remoteOnce (s : State) (e : QEntry) (key : Nat) : State × Bool :=
  let q := s.core.q
  let no := targetRefuses s s.core.lid key
  (setQ s { q with rseq := q.rseq + 1, late := if no then q.late ++ [⟨q.rseq, s.core.trap.inh, e.seq + 1⟩] else q.late }, no)

/-- The remote requests of a vector access, one for each 64-byte line, after the requests sent before it (R292, R293). The
answer lists the refused lines. -/
def remoteLines (s : State) (e : QEntry) (ps : List Placed) : State × List Nat :=
  let lines := (ps.filterMap fun p => match p.loc with
    | some (.bank k) => if isRemote s.core.pos k then some (k / 64 * 64) else none
    | _ => none).eraseDups
  if lines.isEmpty then (s, [])
  else lines.foldl (fun (a : State × List Nat) k =>
    let r := remoteOnce a.1 e k
    (r.1, if r.2 then k :: a.2 else a.2)) (flushRemote s, [])

/-- Is a place on a refused line? -/
def onRefused (no : List Nat) (l : Loc) : Bool :=
  match l with
  | .bank k => no.contains (k / 64 * 64)
  | _ => false

/-- Reads the bytes of a placed piece, of up to 16 bytes: the value, and the address of the first poisoned byte. A refused
line reads 0 (R294). used says that the access cannot be squashed any more, so that it sets A (R297). -/
def readPiece (s : State) (used : Bool) (no : List Nat) (p : Placed) : State × Nat × Option Word :=
  match p.loc with
  | none => (s, 0, none)
  | some l =>
    if onRefused no l then (s, 0, none)
    else
      let s0 := if used then setAccessed s l false else s
      if p.piece.size = 16 then
        let a := readAt s0 l 8
        let b := readAt a.1 (l.add 8) 8
        (b.1, a.2.1 + 2 ^ 64 * b.2.1,
          match a.2.2, b.2.2 with
          | some o, _ => some (p.piece.va + BitVec.ofNat 64 o)
          | none, some o => some (p.piece.va + BitVec.ofNat 64 (8 + o))
          | none, none => none)
      else
        let a := readAt s0 l p.piece.size
        (a.1, a.2.1, a.2.2.map fun o => p.piece.va + BitVec.ofNat 64 o)

/-- Reads every placed piece in order: (number, value) pairs and the address of the first poisoned byte. -/
def readPieces (s : State) (used : Bool) (no : List Nat) : List Placed → State × List (Nat × Nat) × Option Word
  | [] => (s, [], none)
  | p :: t =>
    let a := readPiece s used no p
    let r := readPieces a.1 used no t
    (r.1, (p.piece.idx, a.2.1) :: r.2.1, match a.2.2 with | some v => some v | none => r.2.2)

/-- Writes a placed piece (R275, R292). -/
def writePiece (s : State) (no : List Nat) (p : Placed) : State :=
  match p.loc with
  | none => s
  | some l =>
    if onRefused no l then s
    else match l with
      | .bank k => pokeLe s k p.piece.size p.piece.data
      | _ => storeAt (setAccessed s l true) l p.piece.size (BitVec.ofNat 64 p.piece.data)

/-- The keys of the bytes that placed pieces write. -/
def bytesWritten (no : List Nat) (ps : List Placed) : List Nat :=
  ps.flatMap fun p => match p.loc with
    | some l => if onRefused no l then [] else (List.range p.piece.size).map (placeKey l + ·)
    | none => []

/-- The mark of the word at a place goes, where the instruction writes all of it (R280). -/
def clearMark (s : State) (l : Loc) : State :=
  match l with
  | .glob k _ _ =>
    (match wordAt s (.l1 s.core.pos) (wordKey k) with
     | some w => putWord s { w with poison := false }
     | none => s)
  | .peer k _ _ => clearPoison s k
  | .bank k => clearPoison s k

/-- Writes placed pieces in order. A word of which bytes lists all four loses its mark, though each piece be narrower (R280). -/
def writeEach (s : State) (no bytes : List Nat) : List Placed → State
  | [] => s
  | p :: t =>
    let s1 := writePiece s no p
    let s2 := match p.loc with
      | some l =>
        let w := wordKey (placeKey l)
        if p.piece.size < 4 && (List.range 4).all (fun i => bytes.contains (w + i)) then clearMark s1 l else s1
      | none => s1
    writeEach s2 no bytes t

/-- Writes the placed pieces of one instruction in order (R275, R280, R292). -/
def writePieces (s : State) (no : List Nat) (ps : List Placed) : State := writeEach s no (bytesWritten no ps) ps

/-- The words of one line that a contiguous store has written are visible together (R289): the part of each line joins. -/
def joinParts (s : State) (ps : List Placed) : State :=
  let ks := (bytesWritten [] (ps.filter fun p => p.loc.any fun l => match l with | .glob .. => true | _ => false)).map wordKey |>.eraseDups
  (linesOf ks).foldl (fun s line => joinWords s s.core.pos (ks.filter fun k => k / 64 * 64 == line)) s

/-- The value read for a number, or a default. -/
def readOf (vs : List (Nat × Nat)) (i dflt : Nat) : Nat := ((vs.find? fun v => v.1 == i).map (·.2)).getD dflt

/-- The store-buffer entries that may leave do so before a queued memory instruction runs (R291). -/
def olderStoresOut (s : State) : State := drainSb s.core.q.sb.length s 0

/-- The requester of a queued instruction: the strand at the level it was enqueued at. -/
def QEntry.who (s : State) (e : QEntry) : Who := { s.core.who with level := e.level, unit := queueUnit }

/-- What a contiguous load answers (R285): the values of its pieces, a trap, or a wait. -/
inductive LoadRes where
  | ok (s : State) (vs : List (Nat × Nat))
  | trap (s : State) (t : Trap)
  | wait (s : State)
  deriving Repr

/-- Performs a contiguous load: all of it or nothing (R280, R285). -/
def loadAll (s : State) (e : QEntry) (used : Bool) (ps : List Piece) : LoadRes :=
  let r := translateAll s (e.who s) .r ps
  match r.2 with
  | none => .wait r.1
  | some pl =>
    match lowestFault pl with
    | some f => .trap r.1 ⟨f.code, f.piece.va⟩
    | none =>
      if accessHeld r.1 e false pl then .wait r.1
      else
      let m := remoteLines r.1 e pl
      let v := readPieces m.1 used m.2 pl
      match v.2.2 with
      | some va => .trap v.1 ⟨11, va⟩
      | none => .ok v.1 v.2.1

/-- Performs a contiguous store: all of it or nothing (R285). -/
def storeAll (s : State) (e : QEntry) (ps : List Piece) : RunRes :=
  let r := translateAll s (e.who s) .w ps
  match r.2 with
  | none => .blocked r.1
  | some pl =>
    match lowestFault pl with
    | some f => .trap r.1 ⟨f.code, f.piece.va⟩ false
    | none =>
      if accessHeld r.1 e true pl then .blocked r.1
      else
        let m := remoteLines r.1 e pl
        .done (joinParts (writePieces m.1 m.2 pl) pl)

end Sys2Proof.Machine
end

