-- ==== Sys2Proof/Machine/Troughs.lean ====
section
/-!
DEFINITION. Machine/Troughs.lean: the troughs of a cluster (R313) and the instructions on them (R314, R315).
-/

namespace Sys2Proof.Machine

/-- A trough of a cluster. -/
def troughAt (s : State) (c : ClusterPos) (q : BitVec 2) : Trough := (clusterAt s c).troughs.get q.toFin

/-- Writes a trough of a cluster. -/
def setTrough (s : State) (c : ClusterPos) (q : BitVec 2) (t : Trough) : State :=
  let k := clusterAt s c
  setCluster s { k with troughs := k.troughs.set q.toNat t q.isLt }

/-- A trough of the cluster of the core in focus. -/
def myTrough (s : State) (q : BitVec 2) : Trough := troughAt s s.core.pos.cluster q

/-- The key of a slot's first byte (R313). -/
def slotKey (c : ClusterPos) (t : Trough) (slot : Nat) : Nat := padKey c + t.base + Config.slotBytes * slot

/-- The generation of a slot (R313). -/
def slotGen (t : Trough) (slot : Nat) : BitVec 32 := (t.gens[slot]?).getD 0

/-- The slot that the matrix engine reads (R313, R323). -/
def headSlot (t : Trough) : Nat := if t.nslot = 0 then 0 else t.head % t.nslot

/-- HEAD += 1 (R313). -/
def popTrough (s : State) (q : BitVec 2) : State :=
  let t := myTrough s q
  setTrough s s.core.pos.cluster q { t with head := t.head + 1 }

/-- TAIL advances over every reserved slot that has been written, in reservation order (R313). -/
def advanceTail : Nat → Trough → Trough
  | 0, t => t
  | f + 1, t =>
    if t.tail < t.res && t.written.contains t.tail then
      advanceTail f { t with tail := t.tail + 1, written := t.written.filter (· != t.tail) }
    else t

/-- A reserved slot counts as written (R313): its generation rises, and TAIL advances. n is its reservation number. -/
def slotWritten (t : Trough) (n : Nat) : Trough :=
  let slot := if t.nslot = 0 then 0 else n % t.nslot
  let t1 := { t with gens := (t.gens).set slot (slotGen t slot + 1), written := n :: t.written }
  advanceTail (t.res - t.tail) t1

/-- Bytes of the cluster frame of the launch in force (R108, R198). -/
def clusterFrameBytes (s : State) : Nat :=
  match myLaunch s with
  | some l => 40 + 8 * tSlots (recTmpl l.record 1)
  | none => 0

/-- Does a ring overlap another configured trough or the cluster frame (R314)? -/
def ringClash (s : State) (q : BitVec 2) (base bytes : Nat) : Bool :=
  overlaps base bytes 0 (clusterFrameBytes s) ||
    (List.range 4).any fun j =>
      let t := myTrough s (BitVec.ofNat 2 j)
      j != q.toNat && overlaps base bytes t.base (t.nslot * Config.slotBytes)

/-- The cause 22 trap of a trough (R154). -/
def troughTrap (q : BitVec 2) : Trap := ⟨22, q.setWidth 64⟩

/-- Discards every stationary copy taken from a trough of the cluster (R314, R324). -/
def dropCopies (s : State) (c : ClusterPos) (q : BitVec 2) : State :=
  mapCores s fun k =>
    if k.pos.cluster = c then { k with mat := { k.mat with stat := k.mat.stat.filter fun t => t.trough != q } } else k

/-- TRCFG (R314): it waits until every accepted CPYQ to the trough has written its slot. -/
def effTrcfg (e : QEntry) (x v : Reg) (q : BitVec 2) (s : State) : RunRes :=
  let c := s.core.pos.cluster
  let base := (e.x x).toNat
  let n := (e.x v).toNat
  if (clusterAt s c).cmds.any fun k => k.trough == some q then .blocked s
  else if 255 < n then .trap s (troughTrap q) false
  else if n ≠ 0 && (decide (base % 256 ≠ 0) || decide (padBytes (clusterAt s c).split < base + Config.slotBytes * n) ||
      ringClash s q base (Config.slotBytes * n)) then .trap s (troughTrap q) false
  else
    let t : Trough := { base := base, nslot := n, head := 0, tail := 0, res := 0, gens := List.replicate n 0, written := [] }
    .done (dropCopies (setTrough s c q t) c q)

/-- TRPOP (R315). -/
def effTrpop (_ : QEntry) (q : BitVec 2) (s : State) : RunRes :=
  let t := myTrough s q
  if t.nslot = 0 then .trap s (troughTrap q) false
  else if t.tail ≤ t.head then .blocked s
  else .done (popTrough s q)

/-- The TRSTAT word (R315). -/
def trstatWord (t : Trough) : Word :=
  if t.nslot = 0 then 0
  else BitVec.ofNat 64 (t.nslot + (t.base / 256) * 2 ^ 8 + (t.tail - t.head) * 2 ^ 24 + (t.res - t.head) * 2 ^ 32 + headSlot t * 2 ^ 40)

/-- TRSTAT (R315). -/
def effTrstat (_ : QEntry) (x : Reg) (q : BitVec 2) (s : State) : RunRes := .done (setXq s x (trstatWord (myTrough s q)))

end Sys2Proof.Machine
end

