-- ==== Sys2Proof/Machine/Copy.lean ====
section
/-!
DEFINITION. Machine/Copy.lean: accepting CPY and CPYQ (R305, R306), the elements of a command (R304, R307, R309), its slot and
its completion message (R310, R313), the dequeue of a message (R311), and ENGST (R312). A command runs whole in one step, or up
to an element that waits for the service of a page.
-/

namespace Sys2Proof.Machine

/-! ## Places of an engine's accesses -/

/-- What an engine's translation answers: a place, a status of R309, or a wait. -/
inductive EngRes where
  | ok (l : Loc)
  | fail (status : Nat)
  | wait
  deriving DecidableEq, Repr

/-- The unit of a copy command as a requester of its core. -/
def cmdUnit (k : CopyCmd) : Nat := 2 + k.tag.toNat

/-- The place of an element, or its status (R307, R309): a refused window is 4, another fault 1 for a source and 2 for a
destination. Only a destination may lie in a network window (R458). -/
def engLoc (s : State) (k : CopyCmd) (va : Word) (acc : Access) (n : Nat) : State × EngRes :=
  let fault := if acc = .r then 1 else 2
  if isWindow va then
    match windowKey s k.core k.fold va with
    | some key =>
      if isBankKey key && decide (padBytes (clusterAt s k.core.cluster).split < key % 2 ^ 37 + n) && (bankOwner key).2 then (s, .fail fault)
      else if targetRefuses s k.lid key then (s, .fail 4) else (s, .ok (.bank key))
    | none =>
      let t := windowTarget k.core va
      let inGrid := decide (0 ≤ t.1) && decide (t.1 < 32) && decide (0 ≤ t.2.1) && decide (t.2.1 < 10) && decide (0 ≤ t.2.2.1) &&
        decide (t.2.2.1 < 8) && decide (0 ≤ t.2.2.2.1) && decide (t.2.2.2.1 < 64)
      let q : CorePos := ⟨t.1.toNat, t.2.1.toNat, t.2.2.1.toNat, t.2.2.2.1.toNat⟩
      let inFold := ((foldAt s k.fold).map fun f => f.dies.contains q.die).getD false
      let on := if t.2.2.2.2 = 1 then clusterEnabled s q.cluster else coreEnabled s q
      (s, .fail (if inGrid && !(inFold && on) then 4 else fault))
  else
    let r := translateAs s ⟨k.core, k.fold, k.vf, k.level, cmdUnit k⟩ va acc false (acc = .w)
    match r.2 with
    | .ok (.peer key pte ptePa) => (r.1, if k.scope = 3 then .ok (.peer key pte ptePa) else .fail fault)
    | .ok l => (r.1, .ok l)
    | .fault _ => (r.1, .fail fault)
    | .wait => (r.1, .wait)

/-- The packet by which a request of an engine reaches a home: its own fold's where level(s) is the home, or a peer window's owner (R12,
R126, R307). -/
def engRequest (s : State) (k : CopyCmd) (l : Loc) : State :=
  match l with
  | .glob key pte _ => if levelOf s k.core k.scope = .home then sendHome s k.core.die key (pteAttr pte) else s
  | .peer key pte _ => peerRequest s k.core.die k.fold key pte
  | .bank _ => s

/-- The levels that an engine reads keep no lone copy of an 8-byte location (R279, R357). -/
def engPair (s : State) (k : CopyCmd) (l : Loc) : State :=
  match l with
  | .glob key _ _ => dropLone s key (from_ (levelOf s k.core k.scope) (sharedPath s k.core))
  | _ => s

/-- Reads a word for an engine, of level(s) or beyond (R307). -/
def engWord (s : State) (k : CopyCmd) (l : Loc) : State × BitVec 32 × Bool :=
  match l with
  | .glob key pte _ => engineRead4 s k.core (levelOf s k.core k.scope) (wordKey key) (pteAttr pte)
  | .peer key _ _ => homeRead4 s (wordKey key)
  | .bank key => (s, BitVec.ofNat 32 (peekLe s (wordKey key) 4), poisoned s key)

/-- The poison marks of the words that an element covers: of its only or low word, and of its high word (R280). -/
abbrev Marks := Bool × Bool

/-- Reads n bytes for an engine: the value, and the marks of its words. -/
def engRead (s : State) (k : CopyCmd) (l : Loc) (n : Nat) : State × Nat × Marks :=
  if n = 8 then
    let a := engWord (engPair s k l) k l
    let b := engWord a.1 k (l.add 4)
    (b.1, a.2.1.toNat + 2 ^ 32 * b.2.1.toNat, a.2.2, b.2.2)
  else
    let a := engWord s k l
    (a.1, sliceOf a.2.1 (placeKey l % 4) n, a.2.2, false)

/-- The newest value of a word on a path below a level, which the lowest level that holds it Held keeps, goes up to that level (R359,
R360). -/
def carryUp (s : State) (lv : Level) (path : List Level) (key : Nat) : State :=
  match (below lv path).findSome? fun l => (wordAt s l key).filter fun w => w.state == .held with
  | some w => placeHeld ((below lv path).foldl (fun s l => dropWord s l key) s) lv key w.attr w.value w.poison
  | none => s

/-- Revokes what stands registered of a word that an engine is to change, and carries a newer value from below, so that its present value
is at level(s) or beyond (R307, R359). -/
def engTake (s : State) (k : CopyCmd) (l : Loc) : State :=
  match l with
  | .glob key _ _ =>
    let lv := levelOf s k.core k.scope
    let path := sharedPath s k.core
    let s1 := (upTo lv path).foldl (fun s l => revokeOther s l (wordKey key) none) s
    countWriteBacks (carryUp s1 lv path (wordKey key))
  | .peer key _ _ => revokeAt s .home (wordKey key) none
  | .bank _ => s

/-- Writes a word for an engine (R307, R367). -/
def engPut (s : State) (k : CopyCmd) (l : Loc) (v : BitVec 32) (poison : Bool) : State :=
  match l with
  | .glob key pte _ => engineWrite4 s k.core (levelOf s k.core k.scope) (wordKey key) (pteAttr pte) v poison
  | .peer key _ _ => setHomeWord (revokeAt s .home (wordKey key) none) (wordKey key) v poison
  | .bank key =>
    let s1 := pokeLe s (wordKey key) 4 v.toNat
    if poison then markPoison s1 key else s1

/-- Writes n bytes for an engine; a narrower write keeps the mark of its word (R280), and carry brings the source's. -/
def engWrite (s0 : State) (k : CopyCmd) (l : Loc) (n v : Nat) (carry : Marks) : State :=
  let s := engRequest s0 k l
  if n = 8 then engPut (engPut s k l (BitVec.ofNat 32 v) carry.1) k (l.add 4) (BitVec.ofNat 32 (v / 2 ^ 32)) carry.2
  else if n = 4 then engPut s k l (BitVec.ofNat 32 v) carry.1
  else
    let a := engWord (engTake s k l) k l
    engPut a.1 k l (spliceInto a.2.1 (placeKey l % 4) n v) (a.2.2 || carry.1)

/-- The value of a destination element before an ADD (R304). That the old value of a poisoned destination is used, and the write clears the
mark of a whole word, is the model's choice (DESIGN CHOICE, log 72): R309 names a poisoned source only. -/
def engOld (s : State) (k : CopyCmd) (l : Loc) (n : Nat) : State × Nat × Marks :=
  let s1 := engTake s k l
  engRead (if n = 8 then engTake s1 k (l.add 4) else s1) k l n

/-! ## Elements -/

/-- The index vector of element number n in nest order (R304). -/
def indexOf (counts : List Nat) (n : Nat) : List Nat :=
  match counts with
  | [] => []
  | c :: t => (if c = 0 then 0 else n % c) :: indexOf t (if c = 0 then n else n / c)

/-- Σ k(j) × stride(j). -/
def offsetOf (ks : List Nat) (strides : List Int) : Int := (ks.zip strides).foldl (fun (a : Int) p => a + p.1 * p.2) 0

/-- The source address of element n. -/
def elemSrc (d : Descriptor) (n : Nat) : Word := d.src + BitVec.ofInt 64 (offsetOf (indexOf d.counts n) d.sstr)

/-- The destination address, or slot offset, of element n. -/
def elemDst (d : Descriptor) (n : Nat) : Word := d.dst + BitVec.ofInt 64 (offsetOf (indexOf d.counts n) d.dstr)

/-- The conversion of a source element (R304). -/
def convertElem (d : Descriptor) (v : Nat) : Nat × Flags :=
  let rm := (d.rnd.extractLsb' 0 3).toNat
  let sat := d.rnd.getLsbD 3
  if d.stype = d.dtype then (v, 0)
  else
    let x := match typeFmt d.stype with
      | some f => f.decode v
      | none => Ex.ofInt (intElem d.stype v)
    let snan := match typeFmt d.stype with
      | some f => flagIf (f.snan v) flagNV
      | none => 0
    match typeFmt d.dtype with
    | some f =>
      let r := roundTo f rm sat 0 x
      (r.1, r.2 ||| snan)
    | none => if isFloat d.stype then intFromFloat d.dtype rm 0 x else intResult d.dtype sat (intElem d.stype v)

/-- The ADD of an element (R304). -/
def addElem (d : Descriptor) (old r : Nat) : Nat × Flags :=
  if d.dtype = 5 then ((foldF32 2 (BitVec.ofNat 64 old) (BitVec.ofNat 64 r)).toNat, 0)
  else
    let w := typeBits d.dtype
    intResult d.dtype false (signedOf w old + signedOf w r)

/-- The interval of keys that an element's page, of the size of its leaf, shares with the destination box (R117, R311). -/
def regionEntry (k : CopyCmd) (va : Word) (l : Loc) : Option (Nat × Nat) :=
  match l with
  | .glob key pte _ =>
    let box := destBox k
    let size := 2 ^ leafBits (pteSize pte)
    let page := va.toNat / size * size
    let base := key - (va.toNat - page)
    let lo := Nat.max box.1.toNat page
    let hi := Nat.min (box.1.toNat + box.2) (page + size)
    some (base + (lo - page), base + (hi - page))
  | _ => none

/-- The place of a destination element: in the reserved slot for a CPYQ (R313). -/
def destLoc (s : State) (k : CopyCmd) (n : Nat) : State × EngRes :=
  match k.trough, k.slot with
  | some q, some r =>
    let t := troughAt s k.core.cluster q
    (s, .ok (.bank (slotKey k.core.cluster t (if t.nslot = 0 then 0 else r % t.nslot) + (elemDst k.desc n).toNat)))
  | _, _ => engLoc s k (elemDst k.desc n) .w (descBytes k.desc.dtype)

/-- What one element does. -/
inductive ElemRes where
  | ok (s : State) (k : CopyCmd)
  | stop (s : State) (status : Nat) (va : Word)
  | wait (s : State)
  deriving Repr

/-- One element of a command (R304, R309). That its destination is translated before its source is read, so that status 2 or 4 comes before
3 within one element, is the model's choice (DESIGN CHOICE, log 72): R309 orders elements only. -/
def runElem (s : State) (k : CopyCmd) (n : Nat) : ElemRes :=
  let d := k.desc
  let a := engLoc s k (elemSrc d n) .r (descBytes d.stype)
  match a.2 with
  | .wait => .wait a.1
  | .fail st => .stop a.1 st (elemSrc d n)
  | .ok src =>
    let b := destLoc a.1 k n
    match b.2 with
    | .wait => .wait b.1
    | .fail st =>
      .stop b.1 st (elemDst d n)
    | .ok dst =>
      let v := engRead (engRequest b.1 k src) k src (descBytes d.stype)
      let used := d.stype != d.dtype || d.op == 1
      if (v.2.2.1 || v.2.2.2) && used then .stop v.1 3 (elemSrc d n)
      else
        let c := convertElem d v.2.1
        let o := if d.op = 1 then engOld v.1 k dst (descBytes d.dtype) else (v.1, 0, false, false)
        let r := if d.op = 1 then addElem d o.2.1 c.1 else (c.1, 0)
        let s1 := engWrite o.1 k dst (descBytes d.dtype) r.1 (if used then (false, false) else v.2.2)
        let reg := match k.trough with
          | some _ => k.region
          | none => (match regionEntry k (elemDst d n) dst with
            | some e => if k.region.contains e then k.region else e :: k.region
            | none => k.region)
        .ok s1 { k with index := n + 1, flags := k.flags ||| ((c.2 ||| r.2) &&& 31), region := reg }

/-- Fills n bytes at a place with free values (R304, R309). -/
def freeFill (s : State) (k : CopyCmd) (l : Loc) (n : Nat) : State :=
  let v := (List.range n).foldl (fun (a : State × Nat) i =>
    let f := nextFree a.1
    (f.1, a.2 + (Config.freeByte f.2).toNat * 256 ^ i)) (s, 0)
  engWrite v.1 k l n v.2 (false, false)

/-- The destination elements of a command take unspecified values (R304, R309); an element that no translation reaches keeps
its bytes. -/
def freeElements (k : CopyCmd) : Nat → State → State
  | 0, s => s
  | n + 1, s =>
    let s1 := freeElements k n s
    let b := destLoc s1 k n
    match b.2 with
    | .ok l => freeFill b.1 k l (descBytes k.desc.dtype)
    | _ => s1

/-- The key of a place that an engine's translation answers. -/
def engKey (r : EngRes) : Option Nat := match r with | .ok l => some (placeKey l) | _ => none

/-- Does some source byte of a COPY coincide with a destination byte (R304)? The bytes themselves are compared, by their keys, and not
the addresses that name them. -/
def copyOverlaps (s : State) (k : CopyCmd) : Bool :=
  let d := k.desc
  let src := (List.range (descTotal d)).filterMap fun i => engKey (engLoc s k (elemSrc d i) .r (descBytes d.stype)).2
  let dst := (List.range (descTotal d)).filterMap fun i => engKey (destLoc s k i).2
  d.op == 0 && src.any fun a => dst.any fun b => overlaps a (descBytes d.stype) b (descBytes d.dtype)

/-- Runs a command from its index for at most f elements: its status is set when it ends; it keeps its index at a wait. -/
def runElems : Nat → State → CopyCmd → State × CopyCmd
  | 0, s, k => (s, { k with status := some 0 })
  | f + 1, s, k =>
    match runElem s k k.index with
    | .ok s1 k1 => runElems f s1 k1
    | .wait s1 => (s1, k)
    | .stop s1 st va => (freeElements k (descTotal k.desc) s1, { k with status := some st, failedVa := va })

/-- Runs a command that an engine has taken (R306, R309). -/
def runCommand (s : State) (k : CopyCmd) : State × CopyCmd :=
  match k.early with
  | some st => (s, { k with status := some st })
  | none =>
    let r := runElems (descTotal k.desc - k.index) s k
    if r.2.status = some 0 && copyOverlaps r.1 k then (freeElements r.2 (descTotal k.desc) r.1, r.2) else r

/-! ## Acceptance -/

/-- Reads the 128 bytes of a descriptor at DEVICE scope, or none when a byte of it is poisoned (R306). It is read at level(DEVICE) and takes
no value that the cluster or die cache holds below it, as R307 reads a source: a reading of the model (DEDUCED, log 75). -/
def readDescriptor (s : State) (k : CopyCmd) (l : Loc) : Nat → State × Option (List Byte)
  | 0 => (s, some [])
  | n + 1 =>
    let a := engWord s { k with scope := 2 } l
    let r := readDescriptor a.1 k (l.add 4) n
    (r.1, if a.2.2 then none else r.2.map (leBytes 4 a.2.1.toNat ++ ·))

/-- An empty descriptor. -/
def Descriptor.empty : Descriptor :=
  { src := 0, dst := 0, stype := 0, dtype := 0, op := 0, nlev := 0, rnd := 0, res0Zero := true, counts := [], sstr := [], dstr := [] }

/-- What accepting a command needs from memory: its early status and descriptor, or a wait for service (R305, R306). -/
def fetchDescriptor (s : State) (k : CopyCmd) (va : Word) : State × Option (Option Nat × Descriptor) :=
  if va.toNat % 128 ≠ 0 then (s, some (some 6, .empty))
  else
    let a := engLoc s { k with scope := 3 } va .r 128
    match a.2 with
    | .wait => (a.1, none)
    | .fail _ => (a.1, some (some 6, .empty))
    | .ok l =>
      let kd := { k with scope := 2 }
      let b := readDescriptor (engRequest (engRequest a.1 kd l) kd (l.add 64)) k l 32
      match b.2 with
      | none => (b.1, some (some 6, .empty))
      | some bs =>
        let d := parseDescriptor bs
        if descMalformed k.trough.isSome d then (b.1, some (some 5, .empty))
        else
          (b.1, some (none, { d with
            src := resolveWindow k.core d.src
            dst := if k.trough.isSome then d.dst else resolveWindow k.core d.dst }))

/-- The command of a CPY or CPYQ as its entry captured it (R305). -/
def newCommand (s : State) (e : QEntry) (tr : Option (BitVec 2)) (tag : BitVec 32) (sc : BitVec 2) : CopyCmd :=
  { core := s.core.pos, lid := s.core.lid, vf := s.core.vf, fold := s.core.fold, level := e.level, scope := sc, trough := tr, tag := tag,
    early := none, desc := .empty, slot := none, index := 0, flags := 0, region := [], failedVa := 0, status := none, orphan := false }

/-- CPY and CPYQ at their turn (R305, R306): the command enters the cluster's queue. -/
def acceptCopy (e : QEntry) (a : Reg) (tr : Option (BitVec 2)) (tag : BitVec 32) (sc : BitVec 2) (s0 : State) : RunRes :=
  let s := olderStoresOut s0
  let p := s.core.pos
  let c := clusterAt s p.cluster
  if Config.inboxDepth ≤ s.core.sync.outstanding + s.core.sync.inbox.length || Config.commandQueueDepth ≤ c.cmds.length then .blocked s
  else
    let k := newCommand s e tr tag sc
    let unset := match tr with | some q => (troughAt s p.cluster q).nslot == 0 | none => false
    let r := fetchDescriptor s k (e.x a)
    match r.2 with
    | none => .blocked r.1
    | some (early, d) =>
      let k1 := { k with early := if unset then some 7 else early, desc := d }
      if (cmdRanges k1).any (rangeHeld r.1) then .blocked r.1
      else
        let c1 := clusterAt r.1 p.cluster
        let s1 := setCluster r.1 { c1 with cmds := c1.cmds ++ [k1] }
        .done (setSync s1 { s1.core.sync with outstanding := s1.core.sync.outstanding + 1 })

/-- CPY (R305). -/
def effCpy (e : QEntry) (a b : Reg) (sc : BitVec 2) (s : State) : RunRes :=
  acceptCopy e a none ((e.x b).extractLsb' 0 32) sc s

/-- CPYQ (R305). -/
def effCpyq (e : QEntry) (a b : Reg) (sc : BitVec 2) (s : State) : RunRes :=
  acceptCopy e a (some ((e.x b).extractLsb' 0 2)) ((e.x b).extractLsb' 2 32) sc s

/-- ENGST.CNT (R312). -/
def effEngstCnt (_ : QEntry) (d : Reg) (s : State) : RunRes :=
  .done (setXq s d (BitVec.ofNat 64 (s.core.sync.outstanding % 32 + (s.core.sync.inbox.length % 32) * 256)))

/-- ENGST.FVA (R312). -/
def effEngstFva (_ : QEntry) (d : Reg) (s : State) : RunRes := .done (setXq s d s.core.sync.fva)

/-! ## The command queue -/

/-- Replaces a command of a cluster's queue by its place in it. -/
def setCmd (s : State) (c : ClusterPos) (i : Nat) (k : CopyCmd) : State :=
  let cl := clusterAt s c
  setCluster s { cl with cmds := cl.cmds.set i k }

/-- The first command of a trough that has no slot and needs one (R306, R313). -/
def reserveDue (s : State) (c : ClusterPos) (q : BitVec 2) : Option (Nat × CopyCmd) :=
  let t := troughAt s c q
  let cmds := (clusterAt s c).cmds
  match ((List.range cmds.length).zip cmds).find? fun p => p.2.trough == some q && p.2.slot.isNone && p.2.early != some 7 with
  | some p => if t.res - t.head < t.nslot then some p else none
  | none => none

/-- A CPYQ reserves its slot (R313). -/
def reserveSlot (s : State) (c : ClusterPos) (q : BitVec 2) (i : Nat) (k : CopyCmd) : State :=
  let t := troughAt s c q
  setCmd (setTrough s c q { t with res := t.res + 1 }) c i { k with slot := some t.res }

/-- May an engine take a command: it is not waiting for a slot (R306)? -/
def takeable (k : CopyCmd) : Bool := k.status.isNone && (k.trough.isNone || k.slot.isSome || k.early == some 7)

/-- The numbered commands that the four engines of a cluster may run. -/
def runnable (s : State) (c : ClusterPos) : List (Nat × CopyCmd) :=
  let cmds := (clusterAt s c).cmds
  (((List.range cmds.length).zip cmds).filter fun p => takeable p.2).take 4

/-- Runs the first command that does not only wait (R306). A wait that asks for the service of a page is an act too (R299). -/
def runFirst (s : State) (c : ClusterPos) : List (Nat × CopyCmd) → Option State
  | [] => none
  | (i, k) :: t =>
    let r := runCommand s k
    if r.2 ≠ k then some (setCmd r.1 c i r.2) else if r.1.pageReqs ≠ s.pageReqs then some r.1 else runFirst s c t

/-- Posts a message to the inbox of the core that issued a command, if it still runs that strand (R310, R197). -/
def postMessage (s : State) (k : CopyCmd) (st : Nat) : State :=
  let co := coreAt s k.core
  if !k.orphan && co.lid = k.lid && co.occ != .idle then
    let v := BitVec.ofNat 64 (k.tag.toNat + st * 2 ^ 32 + (k.flags.toNat % 32) * 2 ^ 40 +
      (match k.trough with | some q => 2 ^ 45 + q.toNat * 2 ^ 46 | none => 0))
    let m : Message := ⟨v, k.trough.isNone, k.region, k.failedVa⟩
    setCoreAt s { co with sync := { co.sync with inbox := co.sync.inbox ++ [m], outstanding := co.sync.outstanding - 1 } }
  else s

/-- The first command of a cluster that has ended and not posted. -/
def endedCmd (s : State) (c : ClusterPos) : Option (CopyCmd × Nat) :=
  ((clusterAt s c).cmds.find? fun k => k.status.isSome).map fun k => (k, k.status.getD 0)

/-- A command that has ended posts its message; a CPYQ's slot counts as written first (R310, R313). -/
def finishCommand (s : State) (c : ClusterPos) (k : CopyCmd) (st : Nat) : State :=
  let s1 := match k.trough, k.slot with
    | some q, some n => setTrough s c q (slotWritten (troughAt s c q) n)
    | _, _ => s
  let cl := clusterAt s1 c
  postMessage (endRefusals (setCluster s1 { cl with cmds := cl.cmds.erase k }) k.core (cmdUnit k)) k st

/-! ## The dequeue -/

/-- Self-invalidates the Valid L1 words of a message's region (R311). -/
def dequeueInvalidate (s : State) (m : Message) : State :=
  if m.isCpy then
    { s with words := s.words.filter fun w =>
        !(w.level == .l1 s.core.pos && w.state == .valid && m.region.any fun r => decide (r.1 < w.key + 4) && decide (w.key < r.2)) }
  else s

/-- STATUS of a message (R310). -/
def msgStatus (m : Message) : Nat := (m.value.extractLsb' 32 8).toNat

/-- Dequeues the oldest message (R310, R311): its value, with the address that ENGST.FVA reports (R312). -/
def dequeue (s : State) (m : Message) (rest : List Message) : State :=
  let s1 := dequeueInvalidate s m
  let y := s1.core.sync
  setSync s1 { y with inbox := rest, fva := if 1 ≤ msgStatus m && msgStatus m ≤ 4 then m.failedVa else y.fva }

end Sys2Proof.Machine
end

