-- ==== Sys2Proof/Machine/Exchange.lean ====
section
/-!
DEFINITION. Machine/Exchange.lean: the exchange phase (R403 to R406): the phase cycle, the port and arrival buffer of a die, and
the effects of XSEND, XSEL and XEND. A vector leaves its port by EXCHANGE_SEND, in the cycle it names.
-/

namespace Sys2Proof.Machine

/-- The phase cycle of a core in an exchange phase: phase cycle 0 is C0 + 1 (R403). Before it, the phase has not begun. -/
def phaseCycle (s : State) (c : Core) : Option Int := c.sync.phase.map fun c0 => (s.now : Int) - c0 - 1

/-- A cause 19 trap (R406). -/
def exchTrap (sub cycle : Nat) : Trap := subTrap 19 sub (cycle % 2 ^ 32)

/-- The send cycle of an XSEND. -/
def sendCycle (e : QEntry) (b : Reg) : Nat := ((e.x b).extractLsb' 0 32).toNat

/-- XSEND in the engine port (R404): it waits for its phase cycle. -/
def effXsend (e : QEntry) (_a b : Reg) (s : State) : RunRes :=
  match phaseCycle s s.core with
  | none => .trap s (exchTrap 4 (sendCycle e b)) false
  | some t => if (sendCycle e b : Int) < t then .trap s (exchTrap 2 (sendCycle e b)) false else .blocked s

/-- |a − b|. -/
def dist (a b : Nat) : Nat := (a - b) + (b - a)

/-- XSEL (R405). -/
def effXsel (e : QEntry) (d a : Reg) (s : State) : RunRes :=
  let cx := (e.x a).toNat % 16
  let cy := (e.x a).toNat / 16 % 8
  let send : Nat := (e.x a).toNat / 2 ^ 16 % 2 ^ 32
  let p := s.core.pos
  let arrive : Int := ((send + 3 + dist p.cx cx + dist p.cy cy : Nat) : Int)
  match phaseCycle s s.core with
  | none => .trap s (exchTrap 4 send) false
  | some t =>
    if t < arrive then .blocked s
    else if arrive + 63 < t then .trap s (exchTrap 5 send) false
    else
      match (if clusterEnabled s ⟨p.die, cx, cy⟩ then
          s.fabric.find? fun v => v.die == p.die && v.cx == cx && v.cy == cy && v.cycle == send && v.lid == s.core.lid && s.core.sync.phase == some v.phase
        else none) with
      | some v => .done (if d = 31 then pushSdq s e v.data else setV s d v.data)
      | none => .trap s (exchTrap 3 send) false

/-- XEND (R406): the phase closes for this strand; outside a phase nothing happens. -/
def effXend (_ : QEntry) (s : State) : RunRes := .done (setSync s { s.core.sync with phase := none })

end Sys2Proof.Machine
end

