-- ==== Sys2Proof/Machine/VecMem.lean ====
section
/-!
DEFINITION. Machine/VecMem.lean: the vector loads and stores (R283 to R291): contiguous accesses that are performed entirely or
not at all, lane-addressed accesses with LANEDONE, and early loads into the LDQ.
-/

namespace Sys2Proof.Machine

/-! ## Destinations of loads -/

/-- The LDQ entry of an early load. -/
def ldqOf (s : State) (seq : Nat) : Option LdqEntry := s.core.q.ldq.find? fun l => l.seq == seq

/-- Changes the LDQ entry of an early load. -/
def mapLdq (s : State) (seq : Nat) (f : LdqEntry → LdqEntry) : State :=
  setQ s { s.core.q with ldq := s.core.q.ldq.map fun l => if l.seq = seq then f l else l }

/-- Writes loaded lanes of width w under a mask to v(d), to the LDQ entry of an early load, or as a push. -/
def finishLoad (s : State) (e : QEntry) (d : Reg) (w : Nat) (mask : Word) (vals : List Nat) : State :=
  if d = 30 then
    mapLdq s e.seq fun l => { l with
      data := ofLanes w ((List.range (laneCount w)).map fun i => if mask.getLsbD i then laneOf vals i else lane l.data w i)
      deferred := false }
  else writeLanes s e d w mask vals

/-! ## Contiguous accesses -/

/-- The active lanes of a contiguous access from a base (R283). -/
def laneList (w : Nat) (act : Word) : List Nat := (List.range (laneCount w)).filter fun i => act.getLsbD i

/-- The pieces of VLD and VST (R283). -/
def rowPieces (base : Word) (w : Nat) (act : Word) (v : VWord) : List Piece :=
  (laneList w act).map fun i => ⟨i, base + BitVec.ofNat 64 (i * (w / 8)), w / 8, lane v w i⟩

/-- The base address of VLD and VST. -/
def rowBase (e : QEntry) (a : Reg) (i : BitVec 13) : Word := e.x a + i.signExtend 64

/-- VLD, into any destination (R283, R285); used as in readPiece. -/
def runVld (used : Bool) (e : QEntry) (d a : Reg) (i : BitVec 13) (s0 : State) : RunRes :=
  let s := olderStoresOut s0
  let base := rowBase e a i
  if base.toNat % (e.w / 8) ≠ 0 then .trap s ⟨4, base⟩ false
  else match loadAll s e used (rowPieces base e.w (activeOf s e) 0) with
    | .wait s1 => .blocked s1
    | .trap s1 t => .trap s1 t false
    | .ok s1 vs => .done (finishLoad s1 e d e.w (activeOf s e) ((List.range (laneCount e.w)).map fun j => readOf vs j 0))

/-- VST (R283, R285). -/
def effVst (e : QEntry) (d a : Reg) (i : BitVec 13) (s0 : State) : RunRes :=
  let s := olderStoresOut s0
  let base := rowBase e a i
  if base.toNat % (e.w / 8) ≠ 0 then .trap s ⟨7, base⟩ false
  else storeAll s e (rowPieces base e.w (activeOf s e) (storeData s e d))

/-- The bytes of a scale of VLDMX (R283). -/
def scaleBytes (m : BitVec 18) : Nat := if mSfmt m then 4 else 1

/-- The pieces of VLDMX: data of block j under number j, its scale under 4 + j (R283, R284). -/
def mxPieces (e : QEntry) (a b : Reg) (act : Word) : List Piece :=
  let js := (List.range 4).filter fun j => act.getLsbD j
  (js.map fun j => ⟨j, e.x a + BitVec.ofNat 64 (16 * j), 16, 0⟩) ++
    js.map fun j => ⟨4 + j, e.x b + BitVec.ofNat 64 (scaleBytes e.mode * j), scaleBytes e.mode, 0⟩

/-- VLDMX (R283 to R285): the blocks of v(d), or of a push, and its scale fields. -/
def effVldmx (e : QEntry) (d a b : Reg) (s0 : State) : RunRes :=
  let s := olderStoresOut s0
  let act := activeOf s e
  if (e.x a).toNat % 16 ≠ 0 then .trap s ⟨4, e.x a⟩ false
  else if (e.x b).toNat % scaleBytes e.mode ≠ 0 then .trap s ⟨4, e.x b⟩ false
  else match loadAll s e true (mxPieces e a b act) with
    | .wait s1 => .blocked s1
    | .trap s1 t => .trap s1 t false
    | .ok s1 vs =>
      let s2 := writeLanes s1 e d 128 act ((List.range 4).map fun j => readOf vs j 0)
      if d = 31 then .done s2
      else
        let sc : Vector Scale 4 := Vector.ofFn fun j =>
          if act.getLsbD j.val then
            (let n := readOf vs (4 + j.val) 0
             if mSfmt e.mode then BitVec.ofNat 20 n else scaleOfByte (BitVec.ofNat 8 n))
          else (scalesOf s2 d)[j]
        .done (setScales s2 d sc)

/-! ## Lane-addressed accesses -/

/-- Is a lane address of the same kind as x(a) (R286)? -/
def sameKind (p : CorePos) (base va : Word) : Bool :=
  if isWindow base then isWindow va && windowTarget p base == windowTarget p va else !isWindow va

/-- Translates the lanes of a lane-addressed access: a lane that breaks a rule of R286 is faulting; none when one waits. -/
def translateLanes (s : State) (w : Who) (acc : Access) (base : Word) : List Piece → State × Option (List Placed)
  | [] => (s, some [])
  | p :: t =>
    if p.va.toNat % p.size ≠ 0 || !sameKind w.pos base p.va then
      let q := translateLanes s w acc base t
      (q.1, q.2.map (⟨p, none, 13⟩ :: ·))
    else
      let r := translateAs s w p.va acc true false
      match r.2 with
      | .wait => (r.1, none)
      | .ok l =>
        let q := translateLanes r.1 w acc base t
        (q.1, q.2.map (⟨p, some l, 0⟩ :: ·))
      | .fault _ =>
        let q := translateLanes r.1 w acc base t
        (q.1, q.2.map (⟨p, none, 13⟩ :: ·))

/-- A set of lanes as a mask. -/
def maskOf (is : List Nat) : Word := is.foldl (fun (m : Word) i => m ||| (1 <<< i)) 0

/-- The pieces of the lanes that are active and not done (R286). -/
def lanePieces (e : QEntry) (act : Word) (addr : Nat → Word) (v : VWord) : List Piece :=
  ((laneList e.w act).filter fun i => !e.lanedone.getLsbD i).map fun i => ⟨i, addr i, e.w / 8, lane v e.w i⟩

/-- Sets LANEDONE. -/
def setLanedone (s : State) (m : Word) : State := setRegs s { s.core.regs with lanedone := m }

/-- A lane-addressed load (R286): used as in readPiece. A push that traps keeps the lanes it has loaded for its re-execution. -/
def runLaneLoad (used : Bool) (e : QEntry) (d : Reg) (base : Word) (addr : Nat → Word) (s0 : State) : RunRes :=
  let s := olderStoresOut s0
  let act := activeOf s e
  let r := translateLanes s (e.who s) .r base (lanePieces e act addr 0)
  match r.2 with
  | none => .blocked r.1
  | some pl =>
    let good := pl.filter fun p => p.loc.isSome
    if accessHeld r.1 e false good || heldBack r.1 e false (lanePieces { e with lanedone := 0 } act addr 0) then .blocked r.1
    else
    let m := remoteLines r.1 e good
    let v := readPieces m.1 used m.2 good
    match v.2.2 with
    | some va => .trap v.1 ⟨11, va⟩ false
    | none =>
      let fresh := maskOf (good.map (·.piece.idx))
      let mask := if d = 31 then fresh ||| (act &&& e.lanedone) else fresh
      let vals := (List.range (laneCount e.w)).map fun j =>
        readOf v.2.1 j (if d = 31 && e.lanedone.getLsbD j then lane v.1.core.q.pushed e.w j else 0)
      match pl.find? fun p => p.loc.isNone with
      | none => .done (finishLoad v.1 e d e.w mask vals)
      | some f =>
        let s1 := if d = 31 then
            setQ v.1 { v.1.core.q with pushed := ofLanes e.w ((List.range (laneCount e.w)).map fun j => if mask.getLsbD j then laneOf vals j else 0) }
          else finishLoad v.1 e d e.w mask vals
        .trap (setLanedone s1 (e.lanedone ||| fresh)) ⟨13, f.piece.va⟩ true

/-- A lane-addressed store (R286). -/
def runLaneStore (e : QEntry) (d : Reg) (base : Word) (addr : Nat → Word) (s0 : State) : RunRes :=
  let s := olderStoresOut s0
  let act := activeOf s e
  let r := translateLanes s (e.who s) .w base (lanePieces e act addr (storeData s e d))
  match r.2 with
  | none => .blocked r.1
  | some pl =>
    let good := pl.filter fun p => p.loc.isSome
    if accessHeld r.1 e true good || heldBack r.1 e true (lanePieces { e with lanedone := 0 } act addr 0) then .blocked r.1
    else
    let m := remoteLines r.1 e good
    let s1 := writePieces m.1 m.2 good
    match pl.find? fun p => p.loc.isNone with
    | none => .done s1
    | some f => .trap (setLanedone s1 (e.lanedone ||| maskOf (good.map (·.piece.idx)))) ⟨13, f.piece.va⟩ true

/-- Lane i of VLDS and VSTS (R283). -/
def strideAddr (e : QEntry) (a b : Reg) (i : Nat) : Word := e.x a + BitVec.ofNat 64 i * e.x b

/-- Lane i of VLDG and VSTG (R283). -/
def gatherAddr (s : State) (e : QEntry) (a b : Reg) (n : BitVec 2) (i : Nat) : Word :=
  e.x a + (BitVec.ofInt 64 (signedOf e.w (lane (vSrc s e b) e.w i)) <<< n.toNat)

/-- VLDS, into any destination (R283, R286). -/
def runVlds (used : Bool) (e : QEntry) (d a b : Reg) (s : State) : RunRes := runLaneLoad used e d (e.x a) (strideAddr e a b) s
/-- VLDG, into any destination (R283, R286). -/
def runVldg (used : Bool) (e : QEntry) (d a b : Reg) (n : BitVec 2) (s : State) : RunRes :=
  runLaneLoad used e d (e.x a) (gatherAddr s e a b n) s
/-- VSTS (R283, R286). -/
def effVsts (e : QEntry) (d a b : Reg) (s : State) : RunRes := runLaneStore e d (e.x a) (strideAddr e a b) s
/-- VSTG (R283, R286). -/
def effVstg (e : QEntry) (d a b : Reg) (n : BitVec 2) (s : State) : RunRes := runLaneStore e d (e.x a) (gatherAddr s e a b n) s

/-! ## Early loads -/

/-- The pieces of a vector load or store without its data; those of a lane-addressed one are the active lanes not yet done. -/
def vecPieces (s : State) (e : QEntry) (act : Word) : List Piece :=
  match e.instr with
  | .vld _ a i => rowPieces (rowBase e a i) e.w act 0
  | .vst _ a i => rowPieces (rowBase e a i) e.w act 0
  | .vldmx _ a b => mxPieces e a b act
  | .vlds _ a b => lanePieces e act (strideAddr e a b) 0
  | .vsts _ a b => lanePieces e act (strideAddr e a b) 0
  | .vldg _ a b n => lanePieces e act (gatherAddr s e a b n) 0
  | .vstg _ a b n => lanePieces e act (gatherAddr s e a b n) 0
  | _ => []

/-- An early load that was performed ahead of its turn now counts as executed: it sets A (R297). -/
def markLoaded (s : State) (e : QEntry) : State :=
  (vecPieces s e (activeOf s e)).foldl (fun s p =>
    match probe s (e.who s) p.va .r with
    | some l => setAccessed s l false
    | none => s) s

/-- The turn of an early load in the queue: a recorded fault is raised, and a deferred access is performed (R288). -/
def earlyTurn (e : QEntry) (s : State) (run : State → RunRes) : RunRes :=
  match ldqOf s e.seq with
  | none => .done s
  | some l =>
    match l.fault with
    | some t => if t.code = 13 then .trap (setLanedone s l.lanes) t true else .trap s t false
    | none => if l.deferred then run s else .done (markLoaded s e)

/-- VLD (R283). -/
def effVld (e : QEntry) (d a : Reg) (i : BitVec 13) (s : State) : RunRes :=
  if d = 30 then earlyTurn e s (runVld true e d a i) else runVld true e d a i s
/-- VLDS (R283). -/
def effVlds (e : QEntry) (d a b : Reg) (s : State) : RunRes :=
  if d = 30 then earlyTurn e s (runVlds true e d a b) else runVlds true e d a b s
/-- VLDG (R283). -/
def effVldg (e : QEntry) (d a b : Reg) (n : BitVec 2) (s : State) : RunRes :=
  if d = 30 then earlyTurn e s (runVldg true e d a b n) else runVldg true e d a b n s

/-- Performs an early load before its turn: its entry takes the data, or the fault for VCP (R288). -/
def fillEarly (e : QEntry) (s : State) (run : State → RunRes) : State :=
  match run s with
  | .done s1 => s1
  | .blocked s1 => s1
  | .trap s1 t _ =>
    let lanes := if t.code = 13 then s1.core.regs.lanedone else 0
    mapLdq (setLanedone s1 s.core.regs.lanedone) e.seq fun l => { l with fault := some t, lanes := lanes, deferred := false }

/-- The access of an early load, before its turn (R288). -/
def performEarly (s : State) (e : QEntry) : State :=
  match e.instr with
  | .vld d a i => fillEarly e s (runVld false e d a i)
  | .vlds d a b => fillEarly e s (runVlds false e d a b)
  | .vldg d a b n => fillEarly e s (runVldg false e d a b n)
  | _ => s

/-! ## What queued accesses touch -/

/-- A global line that a queued access touches: by its VA, and by its key where a translation is at hand. -/
structure Line where
  va : Nat
  key : Option Nat
  deriving DecidableEq, Repr

/-- What a queued instruction touches in memory (R290, R291): whether it writes, its local ranges and its lines; none where its
addresses are not settled. -/
structure Touched where
  write : Bool
  ranges : List Range
  lines : List Line
  deriving DecidableEq, Repr

/-- The lines of the pieces of an access. -/
def linesTouched (s : State) (e : QEntry) (ps : List Piece) : List Line :=
  (ps.filter fun p => !isWindow p.va).map fun p =>
    ⟨p.va.toNat / 64, match probe s (e.who s) p.va .r with
      | some (.glob k _ _) => some (k / 64)
      | some (.peer k _ _) => some (k / 64)
      | _ => none⟩

/-- Are two lines one? -/
def sameLine (a b : Line) : Bool := a.va == b.va || (a.key.isSome && a.key == b.key)

/-- Must two accesses be performed in program order: they meet, and one of them writes (R290, R291)? -/
def mustOrder (a b : Touched) : Bool :=
  (a.ranges.any fun x => b.ranges.any (rangesMeet x)) ||
    ((a.write || b.write) && a.lines.any fun x => b.lines.any (sameLine x))

/-- What a vector load or store touches when the lanes of a mask are active. -/
def vecTouched (s : State) (e : QEntry) (act : Word) (write : Bool) : Touched :=
  let ps := vecPieces s { e with lanedone := 0 } act
  ⟨write, accessRanges s.core.pos e write ps, linesTouched s e ps⟩

end Sys2Proof.Machine
end

