-- ==== Sys2Proof/Machine/Matrix.lean ====
section
/-!
DEFINITION. Machine/Matrix.lean: tiles (R317, R318), the stationary buffer (R321 to R324), and the effects of the row engine's
instructions (R325 to R331). Start and commit fall in one step, so the count P(q) of R323 is always 0 (log 9).
-/

namespace Sys2Proof.Machine

/-! ## Tiles -/

/-- A tile register. -/
def tileAt (s : State) (t : BitVec 3) : Tile := s.core.mat.tiles.get t.toFin

/-- Writes a tile register. -/
def setTile (s : State) (t : BitVec 3) (v : Tile) : State :=
  setMat s { s.core.mat with tiles := s.core.mat.tiles.set t.toNat v t.isLt }

/-- Element (r, c) of a tile. -/
def elemAt (v : Tile) (r c : Nat) : Acc := (v.acc[16 * r + c]?).getD 0

/-- KIND from a TYPE (R318). -/
def kindOf (ty : Nat) : Bool := intType ty

/-- The FACT check (R318). -/
def factTrap (s : State) (t : BitVec 3) : Option Trap := if (tileAt s t).fact then some (subTrap 14 7 t.toNat) else none

/-- The FACT and KIND checks of a row write (R318). -/
def rowTrap (s : State) (t : BitVec 3) (kind : Bool) : Option Trap :=
  match factTrap s t with
  | some x => some x
  | none => if (tileAt s t).valid && (tileAt s t).kind != kind then some (subTrap 14 8 t.toNat) else none

/-- A tile before a row write: an invalid tile becomes one of zeros (R318). -/
def opened (v : Tile) (kind : Bool) : Tile :=
  if v.valid then { v with dirty := true }
  else { v with acc := Vector.replicate 256 0, valid := true, kind := kind, dirty := true, rowv := 0 }

/-- Writes a row of a tile, and sets its ROWV bit. -/
def writeRow (v : Tile) (r : Nat) (cols : List Acc) : Tile :=
  let acc : Vector Acc 256 := Vector.ofFn fun i => if i.val / 16 = r then (cols[i.val % 16]?).getD 0 else v.acc[i]
  { v with acc := acc, rowv := v.rowv ||| (1 <<< r) }

/-- An element of a TYPE widened to an accumulator (R327). -/
def widen (ty : Nat) (sat : Bool) (p : Nat) : Acc × Flags :=
  match typeFmt ty with
  | some f =>
    let r := roundFA56 (f.decode p)
    (r.1, flagIf (f.snan p) flagNV)
  | none =>
    let r := fitInt (-(2 ^ 55)) (2 ^ 55 - 1) 56 sat (intElem ty p)
    (BitVec.ofNat 56 r.1, r.2)

/-- The union of flags of a list. -/
def flagUnion (fs : List Flags) : Flags := fs.foldl (· ||| ·) 0

/-! ## Binding to the trough -/

/-- Byte i of a stationary copy. -/
def copyByte (w : List Byte) (i : Nat) : Nat := ((w[i]?).getD 0).toNat

/-- n bytes of a stationary copy as a number. -/
def copyLe (w : List Byte) (i : Nat) : Nat → Nat
  | 0 => 0
  | n + 1 => copyByte w i + 256 * copyLe w (i + 1) n

/-- The first poisoned byte of a slot. -/
def slotPoison (s : State) (key : Nat) : Option Nat :=
  ((List.range (Config.slotBytes / 4)).map fun i => key + 4 * i).find? fun k => poisoned s k

/-- The stationary copy for an MROW: an existing one under R, or a new one; the copies with the one used first (R324). -/
def stationary (s : State) (q : BitVec 2) (t : Trough) (r : BitVec 1) : State × List Byte :=
  let slot := headSlot t
  let gen := slotGen t slot
  let stat := s.core.mat.stat
  let hit := fun (c : StatCopy) => c.trough == q && c.slot == slot && c.gen == gen
  match (if r = 1 then stat.find? hit else none) with
  | some c => (setMat s { s.core.mat with stat := c :: stat.erase c }, c.data)
  | none =>
    let data := Memory.bytes s.mem (slotKey s.core.pos.cluster t slot) Config.slotBytes
    let c : StatCopy := ⟨q, slot, gen, data⟩
    (setMat s { s.core.mat with stat := c :: stat.take 1 }, data)

/-- Would an MROW take a new copy (R324)? -/
def newCopy (s : State) (q : BitVec 2) (t : Trough) (r : BitVec 1) : Bool :=
  let slot := headSlot t
  !(r == 1 && s.core.mat.stat.any fun c => c.trough == q && c.slot == slot && c.gen == slotGen t slot)

/-! ## The row products -/

/-- The depth of a TYPE (R321). -/
def depthOf (ty : Nat) : Nat := if ty = 6 || ty = 7 then 32 else if ty = 10 then 128 else 64

/-- Is element j unmasked (R322)? -/
def depthBit (m : Word) (ty j : Nat) : Bool := if ty = 10 then m.getLsbD (j / 2) else m.getLsbD j

/-- The bits of W element (j, c) (R321). -/
def wBits (w : List Byte) (ty j c : Nat) : Nat :=
  if ty = 6 || ty = 7 then copyLe w (64 * c + 2 * j) 2
  else if ty = 10 then copyByte w (64 * c + j / 2) / (if j % 2 = 0 then 1 else 16) % 16
  else copyByte w (64 * c + j)

/-- The scale of block b of column c (R321). -/
def wScale (w : List Byte) (sfmt : Bool) (b c : Nat) : Scale :=
  if sfmt then BitVec.ofNat 20 (copyLe w (1024 + 16 * c + 4 * b) 4) else scaleOfByte (BitVec.ofNat 8 (copyByte w (1024 + 4 * c + b)))

/-- An element with its block scale under MXFP4. -/
def scaled (ty : Nat) (v : Ex) (sc : Scale) : Ex := if ty = 10 then (exMul v (scaleValue sc)).1 else v

/-- One column of a row product: the accumulator and its flags (R325). -/
def columnProduct (replace : Bool) (m : BitVec 18) (ty : Nat) (a : VWord) (asc : Vector Scale 4) (w : List Byte) (mask : Word) (acc : Acc) (c : Nat) : Acc × Flags :=
  let js := (List.range (depthOf ty)).filter fun j => depthBit mask ty j
  match typeFmt ty with
  | some f =>
    let terms : List (Ex × Flags) := js.map fun j =>
      let p := lane a (typeBits ty) j
      let q := wBits w ty j c
      let x := scaled ty (f.decode p) ((asc[j / 32]?).getD 0)
      let y := scaled ty (f.decode q) (wScale w (mSfmt m) (j / 32) c)
      let r := exMul x y
      (r.1, r.2 ||| flagIf (f.snan p || f.snan q) flagNV)
    let g := sumGroup (terms.map (·.1)) (flagUnion (terms.map (·.2)))
    let r := accumulate replace acc g.1
    (r.1, r.2 ||| g.2)
  | none =>
    accumulateInt replace acc ((js.map fun j => intElem ty (lane a 8 j) * intElem ty (wBits w ty j c)).foldl (· + ·) 0)

/-- The local range of a row product: the whole ring of its trough as it was configured at enqueue (R332). -/
def ringRange (e : QEntry) : List Range := if e.ring.2 = 0 then [] else [(e.ring.1, e.ring.2, false)]

/-- Is an older store-buffer entry about to write bytes of the ring of a row product (R291, R332)? -/
def ringStores (s : State) (e : QEntry) : Bool :=
  s.core.q.sb.any fun b => decide (b.after ≤ e.seq) &&
    (match b.loc with
     | .bank k => (ringRange e).any fun r => overlaps k (sbBytes b.op) r.1 r.2.1
     | _ => false)

/-- MROW, MROWP, MROWZ and MROWZP (R325). -/
def runRow (replace pop : Bool) (e : QEntry) (t : BitVec 3) (x v : Reg) (q : BitVec 2) (k : BitVec 3) (r : BitVec 1) (s0 : State) : RunRes :=
  let s := olderStoresOut s0
  let ty := e.ty
  let tr := myTrough s q
  match rowTrap s t (kindOf ty) with
  | some x => .trap s x false
  | none =>
    if tr.nslot = 0 then .trap s (troughTrap q) false
    else if decide (tr.tail ≤ tr.head) || (ringRange e).any (rangeHeld s) || ringStores s e then .blocked s
    else
      match (if newCopy s q tr r then slotPoison s (slotKey s.core.pos.cluster tr (headSlot tr)) else none) with
      | some b => .trap s ⟨11, BitVec.ofNat 64 b⟩ false
      | none =>
        let st := stationary s q tr r
        let s1 := st.1
        let row := (e.x x).toNat % 16
        let tile := opened (tileAt s1 t) (kindOf ty)
        let a := vSrc s1 e v
        let asc := if 30 ≤ v.toNat then Vector.replicate 4 0 else scalesOf s1 v
        let cols := (List.range 16).map fun c => columnProduct replace e.mode ty a asc st.2 (kReg s1 k) (elemAt tile row c) c
        let s2 := raiseFlags (setTile s1 t (writeRow tile row (cols.map (·.1)))) (flagUnion (cols.map (·.2)))
        .done (if pop then popTrough s2 q else s2)

/-- MROW (R325). -/
def effMrow (e : QEntry) (t : BitVec 3) (x v : Reg) (q : BitVec 2) (k : BitVec 3) (r : BitVec 1) (s : State) : RunRes :=
  runRow false false e t x v q k r s
/-- MROWP (R325). -/
def effMrowp (e : QEntry) (t : BitVec 3) (x v : Reg) (q : BitVec 2) (k : BitVec 3) (r : BitVec 1) (s : State) : RunRes :=
  runRow false true e t x v q k r s
/-- MROWZ (R325). -/
def effMrowz (e : QEntry) (t : BitVec 3) (x v : Reg) (q : BitVec 2) (k : BitVec 3) (r : BitVec 1) (s : State) : RunRes :=
  runRow true false e t x v q k r s
/-- MROWZP (R325). -/
def effMrowzp (e : QEntry) (t : BitVec 3) (x v : Reg) (q : BitVec 2) (k : BitVec 3) (r : BitVec 1) (s : State) : RunRes :=
  runRow true true e t x v q k r s

/-! ## Moving tiles -/

/-- TZERO (R326). -/
def effTzero (e : QEntry) (t : BitVec 3) (s : State) : RunRes :=
  match factTrap s t with
  | some x => .trap s x false
  | none =>
    .done (setTile s t { tileAt s t with acc := Vector.replicate 256 0, valid := true, kind := kindOf e.ty, dirty := true, rowv := 0 })

/-- The row stride of TLOAD and TSTORE (R327). -/
def tileStride (e : QEntry) (v : Reg) : Word := ((e.x v).extractLsb' 0 32).signExtend 64

/-- The start address of row i. -/
def rowStart (e : QEntry) (x v : Reg) (i : Nat) : Word := e.x x + BitVec.ofNat 64 i * tileStride e v

/-- The first row of a list whose start is not a multiple of n bytes. -/
def misaligned (e : QEntry) (x v : Reg) (n : Nat) (rows : List Nat) : Option Word :=
  (rows.map (rowStart e x v)).find? fun a => a.toNat % n != 0

/-- The pieces of a tile access: element (i, c) has number 16 i + c. -/
def tilePieces (e : QEntry) (x v : Reg) (n : Nat) (rows cols : List Nat) : List Piece :=
  rows.flatMap fun i => cols.map fun c => ⟨16 * i + c, rowStart e x v i + BitVec.ofNat 64 (c * n), n, 0⟩

/-- The set bits of the low 16 of a mask. -/
def low16 (m : Word) : List Nat := (List.range 16).filter fun i => m.getLsbD i

/-- TLOAD (R327). -/
def effTload (e : QEntry) (t : BitVec 3) (x v : Reg) (k : BitVec 3) (s0 : State) : RunRes :=
  let s := olderStoresOut s0
  let n := typeBits e.ty / 8
  let rows := low16 (kReg s k)
  match factTrap s t with
  | some x => .trap s x false
  | none =>
    match misaligned e x v n rows with
    | some a => .trap s ⟨4, a⟩ false
    | none =>
      match loadAll s e true (tilePieces e x v n rows (List.range 16)) with
      | .wait s1 => .blocked s1
      | .trap s1 tr => .trap s1 tr false
      | .ok s1 vs =>
        let at_ := fun (i : Nat) => widen e.ty (mSat e.mode) (readOf vs i 0)
        let acc : Vector Acc 256 := Vector.ofFn fun i => if rows.contains (i.val / 16) then (at_ i.val).1 else 0
        let fl := flagUnion (vs.map fun p => (widen e.ty (mSat e.mode) p.2).2)
        let rowv : BitVec 16 := (kReg s k).extractLsb' 0 16
        .done (raiseFlags (setTile s1 t { tileAt s1 t with
          acc := acc, valid := true, kind := kindOf e.ty, dirty := true, rowv := rowv }) fl)

/-- An accumulator stored as an element of a TYPE (R328). -/
def narrow (m : BitVec 18) (ty : Nat) (kind : Bool) (rnd : Nat) (a : Acc) : Nat × Flags :=
  match typeFmt ty with
  | some f => roundTo f (mRm m) (mSat m) rnd (if kind then Ex.ofInt (acc56 a) else accValue a)
  | none => if kind then intResult ty (mSat m) (acc56 a) else intFromFloat ty (mRm m) rnd (accValue a)

/-- The rows of a tile as an invalid tile reads (R317). -/
def readTile (v : Tile) : Tile := if v.valid then v else { v with acc := Vector.replicate 256 0, rowv := 0 }

/-- The physical row that stored row i comes from (R328). -/
def physRow (m : BitVec 18) (v : Tile) (i : Nat) : Nat := if mRmap m then ((v.map[i]?).getD 0).toNat else i

/-- The rows that TSTORE stores (R328). -/
def storedRows (e : QEntry) (v : Reg) : List Nat :=
  let cnt := ((e.x v).extractLsb' 32 8).toNat
  List.range (if 16 < cnt then 16 else cnt)

/-- TSTORE (R328). -/
def effTstore (e : QEntry) (t : BitVec 3) (x v : Reg) (k : BitVec 3) (s0 : State) : RunRes :=
  let s := olderStoresOut s0
  let n := typeBits e.ty / 8
  let rows := storedRows e v
  let cols := low16 (kReg s k)
  match (if cols.isEmpty then none else misaligned e x v n rows) with
  | some a => .trap s ⟨7, a⟩ false
  | none =>
    let r := translateAll s (e.who s) .w (tilePieces e x v n rows cols)
    match r.2 with
    | none => .blocked r.1
    | some pl =>
      match lowestFault pl with
      | some f => .trap r.1 ⟨f.code, f.piece.va⟩ false
      | none =>
        if accessHeld r.1 e true pl then .blocked r.1
        else
        let d := takeDraws r.1 e (16 * rows.length)
        let tile := readTile (tileAt d.1 t)
        let res := (List.range (16 * rows.length)).map fun i =>
          narrow e.mode e.ty tile.kind (laneOf d.2 i) (elemAt tile (physRow e.mode tile (i / 16)) (i % 16))
        let vals := res.map (·.1)
        let m := remoteLines d.1 e pl
        let s1 := writePieces m.1 m.2 (pl.map fun p => { p with piece := { p.piece with data := laneOf vals p.piece.idx } })
        let fl := flagUnion (((List.range res.length).zip res).map fun p => if cols.contains (p.1 % 16) then p.2.2 else 0)
        .done (raiseFlags s1 fl)

/-- The exponent field of the scale of TMOVV under MXFP4 (R329). -/
def mxExponent (m : Ex) : Nat :=
  match m with
  | .fin _ n d _ => (if flog2 n d + 125 < 0 then 0 else if 254 < flog2 n d + 125 then 254 else flog2 n d + 125).toNat
  | _ => 0

/-- TMOVV under MXFP4: the elements, scale field 0 and the flags (R329). -/
def mxRow (m : BitVec 18) (vals : List Ex) (rnds : List Nat) : List Nat × Scale × Flags :=
  let big := vals.foldl (fun (b : Ex) v => if b.lt v.abs then v.abs else b) (.zero false)
  if vals.any fun v => v.isNan || v.isInf then (List.replicate 16 0, scaleOfByte 255, flagNV)
  else if big.isZero then (List.replicate 16 0, scaleOfByte 127, 0)
  else
    let sc := scaleOfByte (BitVec.ofNat 8 (mxExponent big))
    let rs := ((List.range 16).zip vals).map fun p =>
      roundTo e2m1 (mRm m) true (laneOf rnds p.1) (exDiv p.2 (scaleValue sc)).1
    (rs.map (·.1), sc, flagUnion (rs.map (·.2)))

/-- TMOVV (R329). -/
def effTmovv (e : QEntry) (t : BitVec 3) (x v : Reg) (s : State) : RunRes :=
  let row := (e.x x).toNat % 16
  let d := takeDraws s e 16
  let tile := readTile (tileAt s t)
  let accs := (List.range 16).map fun c => elemAt tile row c
  if e.ty = 10 then
    let r := mxRow e.mode (accs.map fun a => if tile.kind then Ex.ofInt (acc56 a) else accValue a) d.2
    let sc : Vector Scale 4 := Vector.ofFn fun j => if j.val = 0 then r.2.1 else scaleOfByte 127
    .done (raiseFlags (setScales (setV d.1 v (ofLanes 4 r.1)) v sc) r.2.2)
  else
    let rs := ((List.range 16).zip accs).map fun p => narrow e.mode e.ty tile.kind (laneOf d.2 p.1) p.2
    let out := ofLanes (typeBits e.ty) (rs.map (·.1))
    .done (raiseFlags (if v = 31 then pushSdq d.1 e out else setV d.1 v out) (flagUnion (rs.map (·.2))))

/-- TVMOV (R330). -/
def effTvmov (e : QEntry) (t : BitVec 3) (x v : Reg) (s : State) : RunRes :=
  match rowTrap s t (kindOf e.ty) with
  | some tr => .trap s tr false
  | none =>
    let row := (e.x x).toNat % 16
    let src := vSrc s e v
    let cols : List (Acc × Flags) := (List.range 16).map fun c =>
      if e.ty = 10 then roundFA56 (exMul (e2m1.decode (lane src 4 c)) (scaleValue ((scalesOf s v)[0]))).1
      else widen e.ty (mSat e.mode) (lane src (typeBits e.ty) c)
    let tile := writeRow (opened (tileAt s t) (kindOf e.ty)) row (cols.map (·.1))
    .done (raiseFlags (setTile s t tile) (flagUnion (cols.map (·.2))))

/-- The TSTAT word (R331). -/
def tstatWord (v : Tile) : Word :=
  BitVec.ofNat 64 ((readTile v).rowv.toNat + (if v.valid then 2 ^ 16 else 0) + (if v.dirty then 2 ^ 17 else 0) +
    (if v.kind then 2 ^ 18 else 0) + (if v.fact then 2 ^ 19 else 0))

/-- TSTAT (R331). -/
def effTstat (_ : QEntry) (t : BitVec 3) (x : Reg) (s : State) : RunRes := .done (setXq s x (tstatWord (tileAt s t)))

end Sys2Proof.Machine
end

