-- ==== Sys2Proof/Machine/Factor.lean ====
section
/-!
DEFINITION. Machine/Factor.lean: the factor set (R335 to R337), the pivot search, the swap and the elimination of a column
(R341, R342), the effects of the factorising instructions (R339 to R345), and joining, leaving and posting to the pivot
negotiator (R347 to R352).
-/

namespace Sys2Proof.Machine

/-! ## The set -/

/-- The tiles of a set in rank order (R335). -/
def setTiles (m : BitVec 8) : List Nat := (List.range 8).filter fun t => m.getLsbD t

/-- A tile of a bank of tiles. -/
def tileOf (ts : Vector Tile 8) (t : Nat) : Tile := (ts[t]?).getD Tile.reset

/-- The tile and physical row of logical row l of a set (R335). -/
def placeOfRow (m : BitVec 8) (ts : Vector Tile 8) (l : Nat) : Nat × Nat :=
  let t := ((setTiles m)[l / 16]?).getD 8
  (t, (((tileOf ts t).map[l % 16]?).getD 0).toNat)

/-- Does a logical row take part: is its physical row's ROWV bit set (R335)? -/
def takesPart (m : BitVec 8) (ts : Vector Tile 8) (l : Nat) : Bool :=
  let p := placeOfRow m ts l
  decide (p.1 < 8) && (tileOf ts p.1).rowv.getLsbD p.2

/-- Element (l, c) of a set. -/
def setElem (m : BitVec 8) (ts : Vector Tile 8) (l c : Nat) : Acc :=
  let p := placeOfRow m ts l
  elemAt (tileOf ts p.1) p.2 c

/-- Writes element (l, c) of a set; its tile becomes dirty (R317). -/
def putElem (m : BitVec 8) (ts : Vector Tile 8) (l c : Nat) (v : Acc) : Vector Tile 8 :=
  let p := placeOfRow m ts l
  let t := tileOf ts p.1
  vset ts p.1 { t with acc := vset t.acc (16 * p.2 + c) v, dirty := true }

/-- The 16 accumulators of a physical row. -/
def rowAccs (t : Tile) (r : Nat) : List Acc := (List.range 16).map fun c => elemAt t r c

/-- A tile with a physical row and its ROWV bit replaced. -/
def putRow (t : Tile) (r : Nat) (cols : List Acc) (on : Bool) : Tile :=
  let w := writeRow t r cols
  { w with rowv := if on then t.rowv ||| (1 <<< r) else t.rowv &&& ~~~((1 : BitVec 16) <<< r), dirty := true }

/-- Swap of logical rows l1 and l2 (R336). -/
def swapRows (m : BitVec 8) (ts : Vector Tile 8) (l1 l2 : Nat) : Vector Tile 8 :=
  if l1 = l2 then ts
  else
    let p1 := placeOfRow m ts l1
    let p2 := placeOfRow m ts l2
    if p1.1 = p2.1 then
      let t := tileOf ts p1.1
      vset ts p1.1 { t with map := vset (vset t.map (l1 % 16) (BitVec.ofNat 4 p2.2)) (l2 % 16) (BitVec.ofNat 4 p1.2) }
    else
      let t1 := tileOf ts p1.1
      let t2 := tileOf ts p2.1
      let n1 := putRow t1 p1.2 (rowAccs t2 p2.2) (t2.rowv.getLsbD p2.2)
      let n2 := putRow t2 p2.2 (rowAccs t1 p1.2) (t1.rowv.getLsbD p1.2)
      vset (vset ts p1.1 n1) p2.1 n2

/-! ## Magnitudes -/

/-- |a| as an exact value. -/
def magOf (a : Acc) : Ex := (accValue a).abs

/-- max(a, b), NaN if either is (R341). -/
def maxNan (a b : Ex) : Ex := if a.isNan || b.isNan then .nan else if a.lt b then b else a

/-- Does b beat a as a pivot magnitude: a NaN counts as largest (R341)? -/
def beats (a b : Ex) : Bool := if a.isNan then false else if b.isNan then true else a.lt b

/-- FA56 1.0. -/
def acc1 : Acc := BitVec.ofNat 56 (1023 * 2 ^ 44)

/-- |TAU| or |GFLIM| (R338). -/
def absAcc (a : Acc) : Acc := a &&& BitVec.ofNat 56 (2 ^ 55 - 1)

/-- Is a pivot singular (R338)? -/
def singular (p tau : Acc) : Bool := (magOf p).lt (magOf tau) || (magOf p).eq (magOf tau)

/-- sign(p) × |TAU| (R341). -/
def replaced (p tau : Acc) : Acc := (p &&& BitVec.ofNat 56 (2 ^ 55)) ||| absAcc tau

/-- The growth ratio (R341). -/
def growth (a0 mx : Acc) : Acc :=
  if (accValue a0).isZero then acc1
  else if (accValue a0).isNan || (accValue mx).isNan then (roundFA56 .nan).1
  else (roundFA56 (exDiv (accValue mx) (accValue a0)).1).1

/-- Does the growth watch trap (R341)? -/
def growthTrap (m : BitVec 18) (g lim : Acc) : Bool := mGtrap m && ((accValue g).isNan || (magOf lim).lt (accValue g))

/-! ## The search and the elimination -/

/-- A candidate: its logical row, tile and physical row. -/
structure Cand where
  l : Nat
  tile : Nat
  prow : Nat
  deriving DecidableEq, Repr

/-- The candidates of a search, by tile and physical row (R341). -/
def candidates (f : FactorSet) (ts : Vector Tile 8) : List Cand :=
  ((List.range (16 * (setTiles f.set).length)).filterMap fun i =>
    let rank := i / 16
    let prow := i % 16
    let t := ((setTiles f.set)[rank]?).getD 0
    let idx := (List.range 16).find? fun j => (((tileOf ts t).map[j]?).getD 0).toNat == prow
    match idx with
    | some j =>
      let l := 16 * rank + j
      if f.np ≤ l && (tileOf ts t).rowv.getLsbD prow then some ⟨l, t, prow⟩ else none
    | none => none)

/-- The pivot of a column: the candidate of largest magnitude, ties to the lowest tile and physical row (R341). -/
def searchPivot (f : FactorSet) (ts : Vector Tile 8) (col : Nat) : Option Cand :=
  (candidates f ts).foldl (fun (b : Option Cand) c =>
    match b with
    | none => some c
    | some x => if beats (magOf (setElem f.set ts x.l col)) (magOf (setElem f.set ts c.l col)) then some c else some x) none

/-- The elimination of one row against a pivot row: the multiplier, then every column not done (R341). -/
def elimRow (f : FactorSet) (col : Nat) (prow : List Acc) (st : Vector Tile 8 × Ex × Flags) (l : Nat) : Vector Tile 8 × Ex × Flags :=
  let p := (prow[col]?).getD 0
  let q := exDiv (accValue (setElem f.set st.1 l col)) (accValue p)
  let m := roundFA56 q.1
  let s1 : Vector Tile 8 × Ex × Flags := (putElem f.set st.1 l col m.1, st.2.1, st.2.2 ||| q.2 ||| m.2)
  (List.range 16).foldl (fun (a : Vector Tile 8 × Ex × Flags) c =>
    if c = col || f.done.getLsbD c then a
    else
      let pr := exMul (accValue m.1) (accValue ((prow[c]?).getD 0))
      let d := exAdd 0 (accValue (setElem f.set a.1 l c)) pr.1.negate
      let r := roundFA56 d.1
      (putElem f.set a.1 l c r.1, maxNan a.2.1 (magOf r.1), a.2.2 ||| pr.2 ||| d.2 ||| r.2)) s1

/-- The elimination of every row from logical row lo up that takes part: the tiles, MX and the flags (R341, R349). -/
def eliminate (f : FactorSet) (ts : Vector Tile 8) (col : Nat) (prow : List Acc) (lo : Nat) : Vector Tile 8 × Acc × Flags :=
  let rows := (List.range 128).filter fun l => decide (lo ≤ l) && takesPart f.set ts l
  let r := rows.foldl (elimRow f col prow) (ts, accValue f.mx, 0)
  (r.1, (roundFA56 r.2.1).1, r.2.2)

/-- The accumulators of a logical row. -/
def logicalRow (m : BitVec 8) (ts : Vector Tile 8) (l : Nat) : List Acc := (List.range 16).map fun c => setElem m ts l c

/-- A pivot-history entry of a chosen pivot (R344). -/
def phWord (c : Cand) (core dest : Nat) (repl skip neg : Bool) : Word :=
  BitVec.ofNat 64 (c.l + c.tile * 2 ^ 8 + c.prow * 2 ^ 12 + core * 2 ^ 16 + dest * 2 ^ 24 + 2 ^ 32 +
    (if repl then 2 ^ 33 else 0) + (if skip then 2 ^ 34 else 0) + (if neg then 2 ^ 36 else 0))

/-- The entry of a column without candidates (R344). -/
def phNone (neg : Bool) : Word := BitVec.ofNat 64 (2 ^ 32 + 2 ^ 35 + (if neg then 2 ^ 36 else 0))

/-- A set with a column recorded and done. -/
def recordColumn (f : FactorSet) (col : Nat) (h : Word) : FactorSet :=
  { f with ph := vset f.ph col h, done := f.done ||| (1 <<< col) }

/-- Writes the tiles and the set. -/
def setFactor (s : State) (ts : Vector Tile 8) (f : FactorSet) : State :=
  setMat s { s.core.mat with tiles := ts, fset := f }

/-- The checks of FCOL and FCOLN (R337). -/
def columnTrap (s : State) (col : Nat) : Option Trap :=
  let f := s.core.mat.fset
  if !f.isOpen then some (subTrap 14 10 0)
  else if f.done.getLsbD col then some (subTrap 14 12 col)
  else none

/-! ## Opening, eliminating and closing -/

/-- FBEGIN (R339). -/
def effFbegin (_ : QEntry) (k : BitVec 3) (s : State) : RunRes :=
  let m : BitVec 8 := (kReg s k).extractLsb' 0 8
  let ts := s.core.mat.tiles
  if s.core.mat.fset.isOpen then .trap s (subTrap 14 9 0) false
  else if m = 0 then .trap s (subTrap 14 11 8) false
  else match (setTiles m).find? fun t => !(tileOf ts t).valid || (tileOf ts t).kind with
    | some t => .trap s (subTrap 14 11 t) false
    | none =>
      let rows := (List.range (16 * (setTiles m).length)).map fun i => (((setTiles m)[i / 16]?).getD 0, i % 16)
      let mags := (rows.filter fun r => (tileOf ts r.1).rowv.getLsbD r.2).flatMap fun r => (rowAccs (tileOf ts r.1) r.2).map magOf
      let a0 := (roundFA56 (mags.foldl maxNan (.zero false))).1
      let ts1 : Vector Tile 8 := Vector.ofFn fun i =>
        if m.getLsbD i.val then { ts[i] with map := identityMap, fact := true } else ts[i]
      let g := if (accValue a0).isNan then (roundFA56 .nan).1 else acc1
      .done (setFactor s ts1 { isOpen := true, set := m, np := 0, done := 0, ph := Vector.replicate 16 0, a0 := a0, mx := a0, g := g })

/-- FCOL (R341). -/
def effFcol (e : QEntry) (x : Reg) (s : State) : RunRes :=
  let col := (e.x x).toNat % 16
  let f := s.core.mat.fset
  let ts := s.core.mat.tiles
  match columnTrap s col with
  | some t => .trap s t false
  | none =>
    match searchPivot f ts col with
    | none => .done (setFactor s ts (recordColumn f col (phNone false)))
    | some c =>
      let core := s.core.pos.core
      let p0 := setElem f.set ts c.l col
      let sing := singular p0 e.tau
      if sing && mSpol e.mode = 0 then .trap s ⟨15, BitVec.ofNat 64 col⟩ false
      else if sing && mSpol e.mode = 2 then
        .done (raiseFlags (setFactor s ts (recordColumn f col (phWord c core 0 false true false))) flagSPF)
      else
        let ts1 := if sing then putElem f.set ts c.l col (replaced p0 e.tau) else ts
        let ts2 := swapRows f.set ts1 c.l f.np
        let r := eliminate f ts2 col (logicalRow f.set ts2 f.np) (f.np + 1)
        let g := growth f.a0 r.2.1
        if growthTrap e.mode g e.gflim then .trap s ⟨16, BitVec.ofNat 64 col⟩ false
        else
          let f1 := { recordColumn f col (phWord c core f.np sing false false) with np := f.np + 1, mx := r.2.1, g := g }
          .done (raiseFlags (setFactor s r.1 f1) (r.2.2 ||| flagIf sing flagSPF))

/-- FEND (R340). -/
def effFend (_ : QEntry) (s : State) : RunRes :=
  let f := s.core.mat.fset
  if !f.isOpen then .trap s (subTrap 14 10 0) false
  else
    let ts := s.core.mat.tiles
    let ts1 : Vector Tile 8 := Vector.ofFn fun i => if f.set.getLsbD i.val then { ts[i] with fact := false } else ts[i]
    .done (setFactor s ts1 { f with isOpen := false })

/-! ## Reading back -/

/-- FMAPRD (R343). -/
def effFmaprd (_ : QEntry) (t : BitVec 3) (x : Reg) (s : State) : RunRes :=
  let m := (tileAt s t).map
  .done (setXq s x ((List.range 16).foldl (fun (w : Word) i => w ||| (((m[i]?).getD 0).setWidth 64 <<< (4 * i))) 0))

/-- RDPH (R343). -/
def effRdph (e : QEntry) (x : Reg) (s : State) : RunRes :=
  .done (setXq s x ((s.core.mat.fset.ph[(e.x x).toNat % 16]?).getD 0))

/-- RDGF (R343). -/
def effRdgf (_ : QEntry) (x : Reg) (s : State) : RunRes := .done (setXq s x (s.core.mat.fset.g.setWidth 64))

/-- TPERM (R345). -/
def effTperm (_ : QEntry) (t : BitVec 3) (s : State) : RunRes :=
  match factTrap s t with
  | some x => .trap s x false
  | none =>
    let v := readTile (tileAt s t)
    let phys := fun (i : Nat) => ((v.map[i]?).getD 0).toNat
    let acc : Vector Acc 256 := Vector.ofFn fun i => elemAt v (phys (i.val / 16)) (i.val % 16)
    let rowv : BitVec 16 := (List.range 16).foldl (fun (b : BitVec 16) i => if v.rowv.getLsbD (phys i) then b ||| (1 <<< i) else b) 0
    .done (setTile s t { v with acc := acc, rowv := rowv, map := identityMap, valid := true, dirty := true })

/-! ## The negotiator -/

/-- A group of a cluster (R347). -/
def groupAt (s : State) (c : ClusterPos) (n : BitVec 2) : NegGroup := (clusterAt s c).groups.get n.toFin

/-- Writes a group. -/
def setGroup (s : State) (c : ClusterPos) (n : BitVec 2) (g : NegGroup) : State :=
  let k := clusterAt s c
  setCluster s { k with groups := k.groups.set n.toNat g n.isLt }

/-- A cause 17 trap (R352). -/
def negTrap (sub col : Nat) (n : BitVec 2) : Trap := subTrap 17 sub (col * 2 ^ 8 + n.toNat)

/-- Is a core a member of some group of its cluster? -/
def inSomeGroup (s : State) (p : CorePos) : Bool := (clusterAt s p.cluster).groups.toList.any fun g => g.members.contains p

/-- NGJOIN (R348). -/
def effNgjoin (e : QEntry) (x : Reg) (n : BitVec 2) (s : State) : RunRes :=
  let p := s.core.pos
  let c := (e.x x).toNat
  let g := groupAt s p.cluster n
  if c < 2 || 64 < c || inSomeGroup s p then .trap s (negTrap 1 0 n) false
  else if g.count = 0 then .done (setGroup s p.cluster n { NegGroup.reset with count := c, members := [p] })
  else if c ≠ g.count || g.count ≤ g.members.length || 0 < g.round || !g.left.isEmpty then .trap s (negTrap 1 0 n) false
  else .done (setGroup s p.cluster n { g with members := g.members ++ [p] })

/-- A group without a member that leaves or is lost; with no member it is free (R350, R351). -/
def withoutMember (g : NegGroup) (p : CorePos) (lost : Bool) : NegGroup :=
  let ms := g.members.filter fun m => m != p
  if ms.isEmpty then NegGroup.reset
  else { g with
    members := ms
    left := if lost then g.left else (p, g.round) :: g.left
    broken := g.broken || lost
    posts := g.posts.filter fun q => q.core != p }

/-- NGLEAVE (R350, R351). -/
def effNgleave (_ : QEntry) (n : BitVec 2) (s : State) : RunRes :=
  let p := s.core.pos
  let g := groupAt s p.cluster n
  if g.members.contains p then .done (setGroup s p.cluster n (withoutMember g p false))
  else .trap s (negTrap 4 0 n) false

/-- A core's strand ends, is killed or loses its context: its group breaks (R351). -/
def loseMember (s : State) (p : CorePos) : State :=
  let k := clusterAt s p.cluster
  if inSomeGroup s p then
    setCluster s { k with groups := k.groups.map fun g => if g.members.contains p then withoutMember g p true else g }
  else s

/-- Takes back what a core has posted for a round that has not completed (R349, R351). -/
def dropPosts (s : State) (p : CorePos) : State :=
  let k := clusterAt s p.cluster
  if k.groups.toList.any fun g => g.posts.any fun q => q.core == p then
    setCluster s { k with groups := k.groups.map fun g => { g with posts := g.posts.filter fun q => q.core != p } }
  else s

/-- The post of a member for a round (R349 step 1). -/
def roundPost (s : State) (e : QEntry) (col : Nat) : RoundPost :=
  let f := s.core.mat.fset
  let ts := s.core.mat.tiles
  match searchPivot f ts col with
  | some c =>
    { core := s.core.pos, column := col, cand := true, magnitude := absAcc (setElem f.set ts c.l col), tile := c.tile, prow := c.prow,
      lrow := c.l, spol := mSpol e.mode, tau := e.tau }
  | none =>
    { core := s.core.pos, column := col, cand := false, magnitude := 0, tile := 0, prow := 0, lrow := 0, spol := mSpol e.mode, tau := e.tau }

/-- FCOLN at its turn (R349): its checks, then its post; the round itself is NEGOTIATION_ROUND. -/
def effFcoln (e : QEntry) (x : Reg) (n : BitVec 2) (s : State) : RunRes :=
  let col := (e.x x).toNat % 16
  let p := s.core.pos
  let g := groupAt s p.cluster n
  match columnTrap s col with
  | some t => .trap s t false
  | none =>
    if !g.members.contains p then .trap s (negTrap 4 col n) false
    else if g.broken || !g.left.isEmpty then .trap (dropPosts s p) (negTrap 2 col n) false
    else if g.posts.any fun q => q.core == p then .blocked s
    else .blocked (setGroup s p.cluster n { g with posts := g.posts ++ [roundPost s e col] })

/-- What a member's part of a round gives (R349 steps 6 to 8): nothing to eliminate, a growth failure, or new tiles and set. -/
inductive MemberRes where
  | fail
  | pass (ts : Vector Tile 8) (f : FactorSet) (fl : Flags)
  deriving Repr

/-- A member's part of a round won by w, whose pivot row with any replacement is prow (R349 steps 5 and 6). -/
def memberPart (c : Core) (e : QEntry) (col : Nat) (w : RoundPost) (wnp : Nat) (sing : Bool) (prow : List Acc) : MemberRes :=
  let f := c.mat.fset
  let ts := c.mat.tiles
  let mine := c.pos == w.core
  let ts1 := if mine then
      swapRows f.set (if sing then putElem f.set ts w.lrow col ((prow[col]?).getD 0) else ts) w.lrow f.np
    else ts
  let r := eliminate f ts1 col prow (if mine then f.np + 1 else f.np)
  let g := growth f.a0 r.2.1
  if growthTrap e.mode g e.gflim then .fail
  else
    let h := phWord ⟨w.lrow, w.tile, w.prow⟩ w.core.core wnp sing false true
    let f1 := recordColumn f col h
    .pass r.1 { f1 with np := if mine then f.np + 1 else f.np, mx := r.2.1, g := g } (r.2.2 ||| flagIf (mine && sing) flagSPF)

end Sys2Proof.Machine
end

