-- ==== Sys2Proof/Machine/VecArith.lean ====
section
/-!
DEFINITION. Machine/VecArith.lean: the effects of the class 4 instructions (R255 to R262), one definition for each, over lane
operations shared by those of one shape.
-/

namespace Sys2Proof.Machine

/-- The rounding of a lane under the captured mode (R257). -/
def roundLane (e : QEntry) (f : Fmt) (rnd : Nat) (r : Ex × Flags) (snan : Bool) : Nat × Flags :=
  let q := roundTo f (mRm e.mode) (mSat e.mode) rnd r.1
  (q.1, q.2 ||| r.2 ||| flagIf snan flagNV)

/-- A binary arithmetic instruction: ff on exact floats, fi on integers with the width (R257). -/
def effBinary (s : State) (e : QEntry) (d a b : Reg) (x : BitVec 1) (ff : Ex → Ex → Ex × Flags) (fi : Int → Int → Nat × Flags) : RunRes :=
  let w := e.w
  match typeFmt e.ty with
  | some f => laneEffect s e d w fun i rnd =>
      let p := lane (vSrc s e a) w i
      let q := bLane s e w b x i
      roundLane e f rnd (ff (f.decode p) (f.decode q)) (f.snan p || f.snan q)
  | none => laneEffect s e d w fun i _ => fi (intElem e.ty (lane (vSrc s e a) w i)) (intElem e.ty (bLane s e w b x i))

/-- A fused instruction on a × B and d (R257). -/
def effFused (s : State) (e : QEntry) (d a b : Reg) (x : BitVec 1) (negProd negAdd : Bool) : RunRes :=
  let w := e.w
  match typeFmt e.ty with
  | some f => laneEffect s e d w fun i rnd =>
      let p := lane (vSrc s e a) w i
      let q := bLane s e w b x i
      let r := lane (vSrc s e d) w i
      let m := exMul (f.decode p) (f.decode q)
      let m1 := if negProd then m.1.negate else m.1
      let c := if negAdd then (f.decode r).negate else f.decode r
      let t := exAdd (mRm e.mode) m1 c
      roundLane e f rnd (t.1, m.2 ||| t.2) (f.snan p || f.snan q || f.snan r)
  | none => laneEffect s e d w fun i _ =>
      let p := intElem e.ty (lane (vSrc s e a) w i) * intElem e.ty (bLane s e w b x i)
      let c := intElem e.ty (lane (vSrc s e d) w i)
      intResult e.ty (mSat e.mode) ((if negProd then -p else p) + (if negAdd then -c else c))

/-- VADD (R257). -/
def effVadd (e : QEntry) (d a b : Reg) (x : BitVec 1) (s : State) : RunRes :=
  effBinary s e d a b x (exAdd (mRm e.mode)) fun p q => intResult e.ty (mSat e.mode) (p + q)

/-- VSUB (R257). -/
def effVsub (e : QEntry) (d a b : Reg) (x : BitVec 1) (s : State) : RunRes :=
  effBinary s e d a b x (fun p q => exAdd (mRm e.mode) p q.negate) fun p q => intResult e.ty (mSat e.mode) (p - q)

/-- VMUL (R257). -/
def effVmul (e : QEntry) (d a b : Reg) (x : BitVec 1) (s : State) : RunRes :=
  effBinary s e d a b x exMul fun p q => intResult e.ty (mSat e.mode) (p * q)

/-- VFMA (R257). -/
def effVfma (e : QEntry) (d a b : Reg) (x : BitVec 1) (s : State) : RunRes := effFused s e d a b x false false

/-- VFMS (R257). -/
def effVfms (e : QEntry) (d a b : Reg) (x : BitVec 1) (s : State) : RunRes := effFused s e d a b x false true

/-- VFNMA (R257). -/
def effVfnma (e : QEntry) (d a b : Reg) (x : BitVec 1) (s : State) : RunRes := effFused s e d a b x true false

/-- An integer division of a TYPE: the corner cases of R173 at width w, without flags (R257). -/
def intDiv (ty : Nat) (p q : Int) : Nat :=
  let w := typeBits ty
  if q = 0 then 2 ^ w - 1 else wrapBits w (Int.tdiv p q)

/-- VDIV (R257). -/
def effVdiv (e : QEntry) (d a b : Reg) (x : BitVec 1) (s : State) : RunRes :=
  effBinary s e d a b x exDiv fun p q => (intDiv e.ty p q, 0)

/-- VMIN and VMAX: FMIN and FMAX, or the integer order (R258). -/
def effOrder (s : State) (e : QEntry) (d a b : Reg) (x : BitVec 1) (ff : Ex → Ex → Ex) (fi : Int → Int → Int) : RunRes :=
  let w := e.w
  match typeFmt e.ty with
  | some f => laneEffect s e d w fun i _ =>
      let p := lane (vSrc s e a) w i
      let q := bLane s e w b x i
      ((roundTo f 1 false 0 (ff (f.decode p) (f.decode q))).1, flagIf (f.snan p || f.snan q) flagNV)
  | none => laneEffect s e d w fun i _ =>
      (wrapBits w (fi (intElem e.ty (lane (vSrc s e a) w i)) (intElem e.ty (bLane s e w b x i))), 0)

/-- VMIN (R258). -/
def effVmin (e : QEntry) (d a b : Reg) (x : BitVec 1) (s : State) : RunRes :=
  effOrder s e d a b x exMin fun p q => if p < q then p else q

/-- VMAX (R258). -/
def effVmax (e : QEntry) (d a b : Reg) (x : BitVec 1) (s : State) : RunRes :=
  effOrder s e d a b x exMax fun p q => if p < q then q else p

/-- A sign operation (R258). -/
def effSign (s : State) (e : QEntry) (d a : Reg) (ff : Ex → Ex) (fi : Int → Int) : RunRes :=
  let w := e.w
  match typeFmt e.ty with
  | some f => laneEffect s e d w fun i _ =>
      let p := lane (vSrc s e a) w i
      ((roundTo f 1 false 0 (ff (f.decode p))).1, flagIf (f.snan p) flagNV)
  | none => laneEffect s e d w fun i _ => intResult e.ty (mSat e.mode) (fi (intElem e.ty (lane (vSrc s e a) w i)))

/-- VABS (R258). -/
def effVabs (e : QEntry) (d a : Reg) (s : State) : RunRes := effSign s e d a Ex.abs fun p => (p.natAbs : Int)

/-- VNEG (R258). -/
def effVneg (e : QEntry) (d a : Reg) (s : State) : RunRes := effSign s e d a Ex.negate fun p => -p

/-- VCLAMP: d := min(max(d, a), B) (R258). -/
def effVclamp (e : QEntry) (d a b : Reg) (x : BitVec 1) (s : State) : RunRes :=
  let w := e.w
  match typeFmt e.ty with
  | some f => laneEffect s e d w fun i _ =>
      let p := lane (vSrc s e a) w i
      let q := bLane s e w b x i
      let r := lane (vSrc s e d) w i
      let v := f.decode r
      let c := if v.isNan then Ex.nan else exMin (exMax v (f.decode p)) (f.decode q)
      ((roundTo f 1 false 0 c).1, flagIf (f.snan p || f.snan q || f.snan r) flagNV)
  | none => laneEffect s e d w fun i _ =>
      let p := intElem e.ty (lane (vSrc s e a) w i)
      let q := intElem e.ty (bLane s e w b x i)
      let r := intElem e.ty (lane (vSrc s e d) w i)
      let m := if r < p then p else r
      (wrapBits w (if q < m then q else m), 0)

/-- VSQRT (R257). -/
def effVsqrt (e : QEntry) (d a : Reg) (s : State) : RunRes :=
  let f := (typeFmt e.ty).getD fp32
  laneEffect s e d e.w fun i rnd =>
    let p := lane (vSrc s e a) e.w i
    roundLane e f rnd (exSqrt (f.decode p)) (f.snan p)

/-- VRCP, VRSQ, VEXP2 and VLOG2 by number (R259). -/
def effApprox (s : State) (e : QEntry) (d a : Reg) (op : Nat) : RunRes :=
  let f := (typeFmt e.ty).getD fp32
  laneEffect s e d e.w fun i rnd =>
    let p := lane (vSrc s e a) e.w i
    let y := approxValue op (f.decode p)
    let r := approxRound f (mRm e.mode) (mSat e.mode) rnd y.1
    (r.1, r.2 ||| y.2 ||| flagIf (f.snan p) flagNV)

/-- VRCP (R259). -/
def effVrcp (e : QEntry) (d a : Reg) (s : State) : RunRes := effApprox s e d a 0
/-- VRSQ (R259). -/
def effVrsq (e : QEntry) (d a : Reg) (s : State) : RunRes := effApprox s e d a 1
/-- VEXP2 (R259). -/
def effVexp2 (e : QEntry) (d a : Reg) (s : State) : RunRes := effApprox s e d a 2
/-- VLOG2 (R259). -/
def effVlog2 (e : QEntry) (d a : Reg) (s : State) : RunRes := effApprox s e d a 3

/-- An instruction on the bits of lanes, without flags (R260). -/
def effBits (s : State) (e : QEntry) (d a b : Reg) (x : BitVec 1) (f : Nat → Nat → Nat) : RunRes :=
  laneEffect s e d e.w fun i _ => (f (lane (vSrc s e a) e.w i) (bLane s e e.w b x i), 0)

/-- VAND (R260). -/
def effVand (e : QEntry) (d a b : Reg) (x : BitVec 1) (s : State) : RunRes := effBits s e d a b x fun p q => p &&& q
/-- VOR (R260). -/
def effVor (e : QEntry) (d a b : Reg) (x : BitVec 1) (s : State) : RunRes := effBits s e d a b x fun p q => p ||| q
/-- VXOR (R260). -/
def effVxor (e : QEntry) (d a b : Reg) (x : BitVec 1) (s : State) : RunRes := effBits s e d a b x fun p q => p ^^^ q

/-- VSLL (R260): s is B(i)[log2 w − 1 : 0]. -/
def effVsll (e : QEntry) (d a b : Reg) (x : BitVec 1) (s : State) : RunRes :=
  effBits s e d a b x fun p q => p * 2 ^ (q % e.w) % 2 ^ e.w
/-- VSRL (R260). -/
def effVsrl (e : QEntry) (d a b : Reg) (x : BitVec 1) (s : State) : RunRes := effBits s e d a b x fun p q => p / 2 ^ (q % e.w)
/-- VSRA (R260): fills with the top bit of a, of a U8 lane too. -/
def effVsra (e : QEntry) (d a b : Reg) (x : BitVec 1) (s : State) : RunRes :=
  effBits s e d a b x fun p q => wrapBits e.w (signedOf e.w p / (2 ^ (q % e.w) : Nat))

/-- VMULH (R260). -/
def effVmulh (e : QEntry) (d a b : Reg) (x : BitVec 1) (s : State) : RunRes :=
  effBits s e d a b x fun p q => wrapBits e.w (intElem e.ty p * intElem e.ty q / (2 ^ e.w : Nat))

/-- A condition of VCMP on floats (R261). -/
def floatCond (c : Nat) (p q : Ex) : Bool :=
  let un := p.isNan || q.isNan
  if c = 0 then p.eq q
  else if c = 1 then un || !p.eq q
  else if c = 2 then p.lt q
  else if c = 3 then p.lt q || p.eq q
  else if c = 4 then q.lt p
  else if c = 5 then q.lt p || p.eq q
  else un

/-- A condition of VCMP on integers (R261). -/
def intCond (c : Nat) (p q : Int) : Bool :=
  if c = 0 then p == q else if c = 1 then p != q else if c = 2 then decide (p < q) else if c = 3 then decide (p ≤ q)
  else if c = 4 then decide (q < p) else decide (q ≤ p)

/-- Bits of a list from bit 0 up. -/
def bitsOf : List Bool → Nat
  | [] => 0
  | b :: t => (if b then 1 else 0) + 2 * bitsOf t

/-- VCMP (R261). -/
def effVcmp (e : QEntry) (d : BitVec 3) (a b : Reg) (x : BitVec 1) (c : BitVec 4) (s : State) : RunRes :=
  let w := e.w
  let act := activeOf s e
  let rs : List (Nat × Flags) := (List.range (laneCount w)).map fun i =>
    let p := lane (vSrc s e a) w i
    let q := bLane s e w b x i
    match typeFmt e.ty with
    | some f =>
      let u := f.decode p
      let v := f.decode q
      let ordered := decide (2 ≤ c.toNat) && decide (c.toNat ≤ 5)
      (if floatCond c.toNat u v then 1 else 0, flagIf (f.snan p || f.snan q || (ordered && (u.isNan || v.isNan))) flagNV)
    | none => (if intCond c.toNat (intElem e.ty p) (intElem e.ty q) then 1 else 0, 0)
  let bits := bitsOf (((List.range (laneCount w)).zip rs).map fun r => act.getLsbD r.1 && r.2.1 == 1)
  .done (raiseFlags (setK s d (BitVec.ofNat 64 bits)) (unionFlags act rs))

/-- VSEL (R262). -/
def effVsel (e : QEntry) (d a b : Reg) (x : BitVec 1) (k : BitVec 3) (s : State) : RunRes :=
  laneEffect s e d e.w fun i _ =>
    (if (kReg s k).getLsbD i then lane (vSrc s e a) e.w i else bLane s e e.w b x i, 0)

/-- VMOV (R262): whole, with the scale fields, under MXFP4. -/
def effVmov (e : QEntry) (d a : Reg) (s : State) : RunRes :=
  if e.ty = 10 then
    if d = 31 then .done (pushSdq s e (vSrc s e a)) else .done (setScales (setV s d (vSrc s e a)) d (scalesOf s a))
  else laneEffect s e d e.w fun i _ => (lane (vSrc s e a) e.w i, 0)

/-- VBC (R262). -/
def effVbc (e : QEntry) (d a : Reg) (s : State) : RunRes := laneEffect s e d e.w fun _ _ => ((e.x a).toNat % 2 ^ e.w, 0)

/-- VIOTA (R262): lane i takes the value i, exact in every accepted TYPE. -/
def effViota (e : QEntry) (d : Reg) (s : State) : RunRes :=
  laneEffect s e d e.w fun i _ =>
    match typeFmt e.ty with
    | some f => ((roundTo f 1 false 0 (Ex.ofInt i)).1, 0)
    | none => (i, 0)

end Sys2Proof.Machine
end

