-- ==== Sys2Proof/Machine/VecPerm.lean ====
section
/-!
DEFINITION. Machine/VecPerm.lean: the effects of the permute pipe: conversions (R263 to R265), permutations (R266), reductions
and lane moves (R267, R268), the mask stack and mask registers (R269, R270) and the scale fields (R272).
-/

namespace Sys2Proof.Machine

/-! ## Conversion -/

/-- Is bit i of a list of n positions from base on active, and at which position? -/
def cvtPos (base n : Nat) (act : Word) (i : Nat) : Option Nat :=
  if base ≤ i && i < base + n && act.getLsbD (i - base) then some (i - base) else none

/-- The exact value of source element k of a register, with its block scale when it is MXFP4, and whether it is a signalling
NaN (R226, R263). -/
def cvtSource (src : Nat) (v : VWord) (sc : Vector Scale 4) (k : Nat) : Ex × Bool :=
  let p := lane v (typeBits src) k
  match typeFmt src with
  | some f =>
    if src = 10 then ((exMul (f.decode p) (scaleValue ((sc[k / 32]?).getD 0))).1, false)
    else (f.decode p, f.snan p)
  | none => (Ex.ofInt (intElem src p), false)

/-- One result of VCVT (R263): dk is the index of the destination element. -/
def cvtResult (m : BitVec 18) (ty src : Nat) (dsc : Vector Scale 4) (dk rnd : Nat) (v : Ex × Bool) : Nat × Flags :=
  match typeFmt ty with
  | some f =>
    let w := if ty = 10 then (exDiv v.1 (scaleValue ((dsc[dk / 32]?).getD 0))).1 else v.1
    let r := roundTo f (mRm m) (mSat m) rnd w
    (r.1, r.2 ||| flagIf v.2 flagNV)
  | none =>
    if isFloat src then intFromFloat ty (mRm m) rnd v.1
    else match v.1 with
      | .fin s n _ _ => intResult ty (mSat m) (if s then -(n : Int) else n)
      | _ => (0, 0)

/-- VCVT (R263). -/
def effVcvt (e : QEntry) (d a : Reg) (p : BitVec 3) (src : BitVec 4) (s : State) : RunRes :=
  let ty := e.ty
  let wd := typeBits ty
  let ws := typeBits src.toNat
  let n := 512 / (if wd < ws then ws else wd)
  let sbase := if ws < wd then p.toNat * n else 0
  let dbase := if wd < ws then p.toNat * n else 0
  let v := vSrc s e a
  let sc := if a = 30 then Vector.replicate 4 0 else scalesOf s a
  let dsc := if d = 31 then Vector.replicate 4 0 else scalesOf s d
  let r := takeDraws s e n
  let act := activeOf r.1 e
  let rs := (List.range n).map fun j => cvtResult e.mode ty src.toNat dsc (dbase + j) (laneOf r.2 j) (cvtSource src.toNat v sc (sbase + j))
  let old := if d = 31 then (0 : VWord) else s.core.vec.v.get d.toFin
  let ls := (List.range (512 / wd)).map fun i =>
    match cvtPos dbase n act i with
    | some j => laneOf (rs.map (·.1)) j
    | none => lane old wd i
  let s1 := if d = 31 then pushSdq r.1 e (ofLanes wd ls) else setV r.1 d (ofLanes wd ls)
  .done (raiseFlags s1 (unionFlags act rs))

/-- The E4M3 code of a narrow code (R236, R237): f is 0 INT4, 1 E3M2, 2 E2M3, 3 CB4. -/
def narrowCode (cb : Vector Byte 16) (f : BitVec 2) (c : Nat) : Nat :=
  if f = 3 then ((cb[c]?).getD 0).toNat
  else if f = 0 then (roundTo e4m3 1 false 0 (Ex.ofInt (signedOf 4 c))).1
  else (roundTo e4m3 1 false 0 ((if f = 1 then e3m2 else e2m3).decode c)).1

/-- VCVTN (R264): 64 lanes of 8 bits whatever TYPE is. -/
def effVcvtn (e : QEntry) (d a : Reg) (h : BitVec 1) (f : BitVec 2) (s : State) : RunRes :=
  let v := vSrc s e a
  let codes := (List.range 64).map fun i =>
    if f = 0 || f = 3 then narrowCode s.core.vec.codebook f (lane v 4 (64 * h.toNat + i))
    else narrowCode s.core.vec.codebook f (lane v 6 i)
  .done (writeLanes s e d 8 (activeOf s e) codes)

/-- LDCB (R265). -/
def effLdcb (e : QEntry) (a b : Reg) (s : State) : RunRes :=
  let cb : Vector Byte 16 := Vector.ofFn fun i =>
    if i.val < 8 then (e.x a).extractLsb' (8 * i.val) 8 else (e.x b).extractLsb' (8 * (i.val - 8)) 8
  .done (setVec s { s.core.vec with codebook := cb })

/-! ## Permutation -/

/-- VPERM (R266). -/
def effVperm (e : QEntry) (d a b : Reg) (x : BitVec 1) (s : State) : RunRes :=
  laneEffect s e d e.w fun i _ => (lane (vSrc s e a) e.w (bLane s e e.w b x i % laneCount e.w), 0)

/-- VSLIDE.UP (R266). -/
def effVslideUp (e : QEntry) (d a b : Reg) (s : State) : RunRes :=
  let n := (e.x b).toNat
  laneEffect s e d e.w fun i _ => (if n ≤ i then lane (vSrc s e a) e.w (i - n) else 0, 0)

/-- VSLIDE.DN (R266). -/
def effVslideDn (e : QEntry) (d a b : Reg) (s : State) : RunRes :=
  let n := (e.x b).toNat
  laneEffect s e d e.w fun i _ => (if i + n < laneCount e.w then lane (vSrc s e a) e.w (i + n) else 0, 0)

/-- VZIP (R266). -/
def effVzip (e : QEntry) (d a b : Reg) (h : BitVec 1) (s : State) : RunRes :=
  let half := laneCount e.w / 2
  laneEffect s e d e.w fun i _ => (lane (if i % 2 = 0 then vSrc s e a else vSrc s e b) e.w (i / 2 + h.toNat * half), 0)

/-- VUNZIP (R266). -/
def effVunzip (e : QEntry) (d a b : Reg) (h : BitVec 1) (s : State) : RunRes :=
  let half := laneCount e.w / 2
  laneEffect s e d e.w fun i _ =>
    (if i < half then lane (vSrc s e a) e.w (2 * i + h.toNat) else lane (vSrc s e b) e.w (2 * (i - half) + h.toNat), 0)

/-! ## Reductions and lane moves -/

/-- The active lanes of a register, in order (R267). -/
def activeLanes (s : State) (e : QEntry) (a : Reg) : List Nat :=
  ((List.range (laneCount e.w)).filter fun i => (activeOf s e).getLsbD i).map (lane (vSrc s e a) e.w)

/-- The exact sum of floats with the flags of their class (R231, R267). -/
def sumFloats (rm : Nat) (vs : List Ex) : Ex × Flags :=
  let pos := vs.any fun v => v.isInf && !v.neg?
  let neg := vs.any fun v => v.isInf && v.neg?
  if vs.any Ex.isNan || (pos && neg) then (.nan, flagIf (pos && neg) flagNV)
  else match vs with
    | [] => (.zero false, 0)
    | v :: t => (t.foldl (fun a b => (exAdd rm a b).1) v, 0)

/-- VREDADD (R267). -/
def effVredadd (e : QEntry) (d a : Reg) (s : State) : RunRes :=
  let ls := activeLanes s e a
  match typeFmt e.ty with
  | some f =>
    let r := takeDraws s e 1
    let v := sumFloats (mRm e.mode) (ls.map f.decode)
    let q := roundTo f (mRm e.mode) (mSat e.mode) (laneOf r.2 0) v.1
    .done (raiseFlags (setXq r.1 d (BitVec.ofNat 64 q.1)) (q.2 ||| v.2 ||| flagIf (ls.any f.snan) flagNV))
  | none =>
    let q := intResult 4 (mSat e.mode) ((ls.map (intElem e.ty)).foldl (· + ·) 0)
    .done (raiseFlags (setXq s d (BitVec.ofNat 64 q.1)) q.2)

/-- The extreme of a list under a binary choice; none when it is empty. -/
def extreme {α : Type} (f : α → α → α) : List α → Option α
  | [] => none
  | v :: t => some (t.foldl f v)

/-- VREDMAX and VREDMIN (R267). -/
def effExtreme (s : State) (e : QEntry) (d a : Reg) (big : Bool) : RunRes :=
  let ls := activeLanes s e a
  match typeFmt e.ty with
  | some f =>
    let v := (extreme (if big then exMax else exMin) (ls.map f.decode)).getD (.inf big)
    .done (raiseFlags (setXq s d (BitVec.ofNat 64 (roundTo f 1 false 0 v).1)) (flagIf (ls.any f.snan) flagNV))
  | none =>
    let r := intRange e.ty
    let pick : Int → Int → Int := fun p q => if big then (if p < q then q else p) else (if q < p then q else p)
    let v := (extreme pick (ls.map (intElem e.ty))).getD (if big then r.1 else r.2)
    .done (setXq s d (BitVec.ofInt 64 v))

/-- VREDMAX (R267). -/
def effVredmax (e : QEntry) (d a : Reg) (s : State) : RunRes := effExtreme s e d a true
/-- VREDMIN (R267). -/
def effVredmin (e : QEntry) (d a : Reg) (s : State) : RunRes := effExtreme s e d a false

/-- VMVX (R268). -/
def effVmvx (e : QEntry) (d a b : Reg) (s : State) : RunRes :=
  let p := lane (vSrc s e a) e.w ((e.x b).toNat % laneCount e.w)
  .done (setXq s d (if e.ty ≤ 4 then BitVec.ofInt 64 (intElem e.ty p) else BitVec.ofNat 64 p))

/-- VINS (R268). -/
def effVins (e : QEntry) (d a b : Reg) (s : State) : RunRes :=
  let k := (e.x b).toNat % laneCount e.w
  let old := s.core.vec.v.get d.toFin
  let ls := (List.range (laneCount e.w)).map fun i => if i = k then (e.x a).toNat else lane old e.w i
  .done (setV s d (ofLanes e.w ls))

/-! ## Masks -/

/-- Writes the mask stack. -/
def setMasks (s : State) (ms : List Word) : State := setVec s { s.core.vec with masks := ms }

/-- MPUSH (R269). -/
def effMpush (_ : QEntry) (a : BitVec 3) (s : State) : RunRes :=
  let ms := s.core.vec.masks
  .done (setMasks s ((maskTop ms &&& kReg s a) :: ms))

/-- MINV (R269): below is all ones at depth 1. -/
def effMinv (_ : QEntry) (s : State) : RunRes :=
  match s.core.vec.masks with
  | [] => .done s
  | t :: below => .done (setMasks s ((maskTop below &&& ~~~t) :: below))

/-- MPOP (R269). -/
def effMpop (_ : QEntry) (s : State) : RunRes := .done (setMasks s (s.core.vec.masks.drop 1))

/-- MSTG (R269): it reads the STGV captured when it was enqueued. -/
def effMstg (e : QEntry) (st n : BitVec 3) (s : State) : RunRes :=
  let bit := e.stgv.getLsbD (8 * n.toNat + st.toNat)
  .done (setMasks s ((if bit then BitVec.allOnes 64 else 0) :: s.core.vec.masks))

/-- KMOV.KX (R270). -/
def effKmovKx (e : QEntry) (d : BitVec 3) (a : Reg) (s : State) : RunRes := .done (setK s d (e.x a))
/-- KMOV.XK (R270). -/
def effKmovXk (_ : QEntry) (d : Reg) (a : BitVec 3) (s : State) : RunRes := .done (setXq s d (kReg s a))
/-- KMOV.KT (R270). -/
def effKmovKt (_ : QEntry) (d : BitVec 3) (s : State) : RunRes := .done (setK s d (maskTop s.core.vec.masks))
/-- KOP.AND (R270). -/
def effKopAnd (_ : QEntry) (d a b : BitVec 3) (s : State) : RunRes := .done (setK s d (kReg s a &&& kReg s b))
/-- KOP.OR (R270). -/
def effKopOr (_ : QEntry) (d a b : BitVec 3) (s : State) : RunRes := .done (setK s d (kReg s a ||| kReg s b))
/-- KOP.XOR (R270). -/
def effKopXor (_ : QEntry) (d a b : BitVec 3) (s : State) : RunRes := .done (setK s d (kReg s a ^^^ kReg s b))
/-- KOP.ANDN (R270). -/
def effKopAndn (_ : QEntry) (d a b : BitVec 3) (s : State) : RunRes := .done (setK s d (kReg s a &&& ~~~(kReg s b)))

/-! ## Scale fields -/

/-- VSCL.SET (R272). -/
def effVsclSet (e : QEntry) (d a : Reg) (j : BitVec 2) (s : State) : RunRes :=
  .done (setScales s d (vset (scalesOf s d) j.toNat ((e.x a).extractLsb' 0 20)))
/-- VSCL.SETA (R272). -/
def effVsclSeta (e : QEntry) (d a : Reg) (s : State) : RunRes :=
  .done (setScales s d (Vector.replicate 4 ((e.x a).extractLsb' 0 20)))
/-- VSCL.GET (R272). -/
def effVsclGet (_ : QEntry) (d a : Reg) (j : BitVec 2) (s : State) : RunRes :=
  .done (setXq s d (((scalesOf s a)[j.toNat]).setWidth 64))

end Sys2Proof.Machine
end

