-- ==== Sys2Proof/Machine/Queue.lean ====
section
/-!
DEFINITION. Machine/Queue.lean: the vector queue (R161 to R170): a queued instruction's turn and completion, running ahead of an older
instruction that waits (R243, R244), the trap at VCP, drain points, traps of the strand (R156), pending registers (R162), and the enqueue
with its checks (R138, R252).

The oldest instruction runs first. While it waits, the oldest instruction of another unit that depends on nothing older runs ahead of it;
it completes in its place, and a Rollback takes it back (log 9).
-/

namespace Sys2Proof.Machine

/-! ## A queued instruction's turn -/

/-- The effect of a queued instruction at its turn. -/
def runEntry (e : QEntry) (s : State) : RunRes :=
  match e.instr with
  | .vadd d a b x => effVadd e d a b x s
  | .vsub d a b x => effVsub e d a b x s
  | .vmul d a b x => effVmul e d a b x s
  | .vfma d a b x => effVfma e d a b x s
  | .vfms d a b x => effVfms e d a b x s
  | .vfnma d a b x => effVfnma e d a b x s
  | .vmin d a b x => effVmin e d a b x s
  | .vmax d a b x => effVmax e d a b x s
  | .vabs d a => effVabs e d a s
  | .vneg d a => effVneg e d a s
  | .vdiv d a b x => effVdiv e d a b x s
  | .vsqrt d a => effVsqrt e d a s
  | .vrcp d a => effVrcp e d a s
  | .vrsq d a => effVrsq e d a s
  | .vexp2 d a => effVexp2 e d a s
  | .vlog2 d a => effVlog2 e d a s
  | .vand d a b x => effVand e d a b x s
  | .vor d a b x => effVor e d a b x s
  | .vxor d a b x => effVxor e d a b x s
  | .vsll d a b x => effVsll e d a b x s
  | .vsrl d a b x => effVsrl e d a b x s
  | .vsra d a b x => effVsra e d a b x s
  | .vcmp d a b x c => effVcmp e d a b x c s
  | .vsel d a b x k => effVsel e d a b x k s
  | .vmov d a => effVmov e d a s
  | .vbc d a => effVbc e d a s
  | .viota d => effViota e d s
  | .vmulh d a b x => effVmulh e d a b x s
  | .vclamp d a b x => effVclamp e d a b x s
  | .vld d a i => effVld e d a i s
  | .vlds d a b => effVlds e d a b s
  | .vldg d a b n => effVldg e d a b n s
  | .vldmx d a b => effVldmx e d a b s
  | .vst d a i => effVst e d a i s
  | .vsts d a b => effVsts e d a b s
  | .vstg d a b n => effVstg e d a b n s
  | .vcvt d a p t => effVcvt e d a p t s
  | .vcvtn d a h f => effVcvtn e d a h f s
  | .ldcb a b => effLdcb e a b s
  | .vperm d a b x => effVperm e d a b x s
  | .vslideUp d a b => effVslideUp e d a b s
  | .vslideDn d a b => effVslideDn e d a b s
  | .vzip d a b h => effVzip e d a b h s
  | .vunzip d a b h => effVunzip e d a b h s
  | .vredadd d a => effVredadd e d a s
  | .vredmax d a => effVredmax e d a s
  | .vredmin d a => effVredmin e d a s
  | .vmvx d a b => effVmvx e d a b s
  | .vins d a b => effVins e d a b s
  | .mpush a => effMpush e a s
  | .minv => effMinv e s
  | .mpop => effMpop e s
  | .mstg t n => effMstg e t n s
  | .kmovKx d a => effKmovKx e d a s
  | .kmovXk d a => effKmovXk e d a s
  | .kmovKt d => effKmovKt e d s
  | .kopAnd d a b => effKopAnd e d a b s
  | .kopOr d a b => effKopOr e d a b s
  | .kopXor d a b => effKopXor e d a b s
  | .kopAndn d a b => effKopAndn e d a b s
  | .vsclSet d a j => effVsclSet e d a j s
  | .vsclSeta d a => effVsclSeta e d a s
  | .vsclGet d a j => effVsclGet e d a j s
  | .mrow t x v q k r => effMrow e t x v q k r s
  | .mrowp t x v q k r => effMrowp e t x v q k r s
  | .mrowz t x v q k r => effMrowz e t x v q k r s
  | .mrowzp t x v q k r => effMrowzp e t x v q k r s
  | .tzero t => effTzero e t s
  | .tload t x v k => effTload e t x v k s
  | .tstore t x v k => effTstore e t x v k s
  | .tmovv t x v => effTmovv e t x v s
  | .tvmov t x v => effTvmov e t x v s
  | .tstat t x => effTstat e t x s
  | .trcfg x v q => effTrcfg e x v q s
  | .trpop q => effTrpop e q s
  | .trstat x q => effTrstat e x q s
  | .fbegin k => effFbegin e k s
  | .fcol x => effFcol e x s
  | .fcoln x g => effFcoln e x g s
  | .ngjoin x g => effNgjoin e x g s
  | .ngleave g => effNgleave e g s
  | .fend => effFend e s
  | .fmaprd t x => effFmaprd e t x s
  | .rdph x => effRdph e x s
  | .rdgf x => effRdgf e x s
  | .tperm t => effTperm e t s
  | .cpy a b c => effCpy e a b c s
  | .cpyq a b c => effCpyq e a b c s
  | .engstCnt d => effEngstCnt e d s
  | .engstFva d => effEngstFva e d s
  | .xsend a b => effXsend e a b s
  | .xsel d a => effXsel e d a s
  | .xend => effXend e s
  | _ => .done s

/-- The oldest queued instruction completes (R153, R161, R166, R250, R251): it leaves the queue, the LDQ entry it read and the push it
stored are freed, and so are undo entries that wait for it alone. What it
could have squashed sets A now (R297). -/
def completeHead (s : State) (e : QEntry) : State :=
  let q := s.core.q
  let s1 := setQ (endRefusals s s.core.pos queueUnit) { q with
    queue := q.queue.drop 1
    ldq := if readsLdq e.instr then q.ldq.filter fun l => l.kept || e.ldqSeq != some l.seq else q.ldq
    sdq := if takesSdq e.instr then q.sdq.filter fun d => e.sdqSeq != some d.seq else q.sdq }
  let s2 := if s1.core.sync.rcnt ≠ 0 && s1.core.sync.rpc = e.pc then setSync s1 { s1.core.sync with rcnt := 0 } else s1
  settleUses (settleRetry (freeUndo (setRegs s2 { s2.core.regs with instret := s2.core.regs.instret + 1 })))

/-- A queued instruction traps at VCP (R156, R169). -/
def trapHead (s : State) (e : QEntry) (t : Trap) (keep : Bool) : State :=
  trapEntry (endRefusals (rollback s e keep) s.core.pos queueUnit) t.code false t.tval e.pc

/-- What running the queue came to. -/
inductive DrainRes where
  | clear (s : State)
  | trapped (s : State)
  | blocked (s : State)
  deriving Repr

/-- An instruction that has run ahead completes: its flags and its x result take effect (R162, R235). -/
def takeHeld (s : State) (a : Ahead) : State :=
  let s1 := raiseFlags s a.flags
  match a.x with
  | some (d, v) => setX s1 d v
  | none => s1

/-- The turn of the oldest queued instruction, or clear when there is none. -/
def runHead (s : State) : DrainRes :=
  match s.core.q.queue with
  | [] => .clear s
  | e :: _ =>
    match e.ahead with
    | some a =>
      (match a.fault with
       | some t => .trapped (trapHead s e t false)
       | none => .clear (completeHead (takeHeld s a) e))
    | none =>
      match runEntry e s with
      | .done s1 => .clear (completeHead s1 e)
      | .trap s1 t keep => .trapped (trapHead s1 e t keep)
      | .blocked s1 => .blocked s1

/-! ## Running ahead -/

/-- Registers as numbers: v(r) with its scale fields is r, k(n) is 32 + n. -/
def resMasks : Nat := 40
/-- The codebook. -/
def resCodebook : Nat := 41
/-- SRSEED. -/
def resSeed : Nat := 42

/-- The k registers that a queued instruction reads. -/
def kSourcesOf : Instr → List (BitVec 3)
  | .vsel _ _ _ _ k => [k]
  | .kmovXk _ a => [a]
  | .kopAnd _ a b | .kopOr _ a b | .kopXor _ a b | .kopAndn _ a b => [a, b]
  | .mpush a => [a]
  | .mrow _ _ _ _ k _ | .mrowp _ _ _ _ k _ | .mrowz _ _ _ _ k _ | .mrowzp _ _ _ _ k _ => [k]
  | .tload _ _ _ k | .tstore _ _ _ k => [k]
  | .fbegin k => [k]
  | _ => []

/-- The k register that a queued instruction writes. -/
def kDestOf (i : Instr) : List (BitVec 3) := match destOf i with | .k n => [n] | _ => []

/-- Does a queued instruction move the mask stack? -/
def movesMasks : Instr → Bool
  | .mpush .. | .minv | .mpop | .mstg .. => true
  | _ => false

/-- The registers that a queued instruction writes. -/
def resWrites (e : QEntry) : List Nat :=
  ((vDestOf e.instr).toList.filter fun r => r != 30 && r != 31).map (·.toNat) ++ (kDestOf e.instr).map (fun k => 32 + k.toNat) ++
    (match e.instr with | .vsclSet d _ _ | .vsclSeta d _ => [d.toNat] | .ldcb _ _ => [resCodebook] | _ => []) ++
    (if movesMasks e.instr then [resMasks] else []) ++ (if drawsUnder e.mode e.instr then [resSeed] else [])

/-- The registers that a queued instruction reads. A destination counts, since lanes of it may stay. -/
def resReads (e : QEntry) : List Nat :=
  ((vSourcesOf e.instr).filter fun r => r != 30 && r != 31).map (·.toNat) ++ (kSourcesOf e.instr).map (fun k => 32 + k.toNat) ++
    resWrites e ++ (match e.instr with | .vcvtn .. => [resCodebook] | .kmovKt _ => [resMasks] | _ => []) ++
    (if mGuard e.mode then [resMasks] else [])

/-- Does an instruction depend on an older one by a register (R244)? -/
def dependsOn (o y : QEntry) : Bool :=
  ((resWrites o).any fun r => (resReads y).contains r) || ((resReads o).any fun r => (resWrites y).contains r)

/-- Has the early load that is assigned to a reader been performed, and the push that is assigned to a store (R250, R251)? -/
def queueDataReady (s : State) (e : QEntry) : Bool :=
  (!readsLdq e.instr || (ldqFor s e).any fun l => !l.deferred && l.fault.isNone) && (!takesSdq e.instr || (sdqFor s e).isSome) &&
    (!pushesSdq e.instr || decide (s.core.q.sdq.length < Config.ldqDepth))

/-- Is an instruction a copy command? -/
def isCopy : Instr → Bool
  | .cpy .. | .cpyq .. => true
  | _ => false

/-- Every byte of every local window. -/
def everyBank : Range := (2 ^ 63, 2 ^ 63, true)

/-- The local ranges of a copy command that is queued, one for each local side as its descriptor gives them (R308). While an older store may
still write the descriptor they are unsettled, and cover every bank. One whose descriptor moves nothing has none. -/
def copyRanges (s : State) (e : QEntry) (a : Reg) (tr : Option (BitVec 2)) (sc : BitVec 2) : List Range :=
  if !s.core.q.sb.isEmpty || s.core.q.queue.any (fun y => decide (y.seq < e.seq) && writesMemory y.instr) then [everyBank]
  else match (fetchDescriptor s (newCommand s e tr 0 sc) (e.x a)).2 with
    | some (none, d) => cmdRanges { newCommand s e tr 0 sc with desc := d }
    | some (some _, _) => []
    | none => [everyBank]

/-- What a queued instruction touches in memory, or none while its addresses are not settled: unsure lists the registers that older
instructions have yet to write (R290, R291, R308, R332). exact asks for the bytes it touches, not the ranges it carries. A copy command holds
no range for a global side (R308). -/
def touchedBy (s : State) (exact : Bool) (unsure : List Nat) (e : QEntry) : Option Touched :=
  let p := s.core.pos
  let act := if mGuard e.mode && unsure.contains resMasks then BitVec.allOnes 64 else activeOf s e
  let vec := fun (write : Bool) =>
    let t := vecTouched s e act write
    if exact then { t with ranges := pieceRanges p write (vecPieces s { e with lanedone := 0 } act) } else t
  let gather := fun (b : Reg) (write : Bool) =>
    if unsure.contains b.toNat || (b == 30 && !queueDataReady s e) then none else some (vec write)
  let cols := fun (k : BitVec 3) => if unsure.contains (32 + k.toNat) then List.range 16 else low16 (kReg s k)
  let tile := fun (x v : Reg) (rows cs : List Nat) (write : Bool) =>
    let ps := tilePieces e x v (typeBits e.ty / 8) rows cs
    some ⟨write, if exact then pieceRanges p write ps else accessRanges p e write ps, linesTouched s e ps⟩
  match e.instr with
  | .vld .. | .vldmx .. | .vlds .. => some (vec false)
  | .vst .. | .vsts .. => some (vec true)
  | .vldg _ _ b _ => gather b false
  | .vstg _ _ b _ => gather b true
  | .tload _ x v k => tile x v (cols k) (List.range 16) false
  | .tstore _ x v k => tile x v (storedRows e v) (cols k) true
  | .mrow .. | .mrowp .. | .mrowz .. | .mrowzp .. => some ⟨false, ringRange e, []⟩
  | .cpy a _ sc => some ⟨false, copyRanges s e a none sc, []⟩
  | .cpyq a b sc => some ⟨false, copyRanges s e a (some ((e.x b).extractLsb' 0 2)) sc, []⟩
  | _ => some ⟨false, [], []⟩

/-- The registers that some instructions have yet to write. -/
def unsureOf (es : List QEntry) : List Nat := es.flatMap resWrites

/-- Must a memory access wait for an older instruction's (R290, R291)? -/
def memoryHeld (s : State) (older : List QEntry) (o y : QEntry) : Bool :=
  match touchedBy s false (unsureOf older) y with
  | none => true
  | some t =>
    if t.ranges.isEmpty && t.lines.isEmpty then false
    else match touchedBy s false (unsureOf older) o with
      | none => true
      | some u => mustOrder u t

/-- Are A, and D for a write, already set in every leaf that an access goes through? One that may be squashed must set neither (R297). -/
def leavesUsed (s : State) (e : QEntry) : Bool :=
  (vecPieces s e (activeOf s e)).all fun p =>
    match probe s (e.who s) p.va (if writesMemory e.instr then .w else .r) with
    | some (.glob _ pte _) => usedBits pte (writesMemory e.instr) == 0
    | some (.peer _ pte _) => usedBits pte (writesMemory e.instr) == 0
    | _ => true

/-- Has an early load of the queue been performed, or met its fault, before its turn (R288)? -/
def earlyDone (s : State) (e : QEntry) : Bool :=
  isEarlyLoad e.instr && (ldqOf s e.seq).any fun l => !l.deferred || l.fault.isSome

/-- May an instruction still trap at its turn? Those of the FMA pipe do not, nor those of the permute pipe but LDCB. -/
def mayTrap (s : State) (e : QEntry) : Bool :=
  match e.ahead with
  | some a => a.fault.isSome
  | none =>
    if isEarlyLoad e.instr then !((ldqOf s e.seq).any fun l => !l.deferred && l.fault.isNone)
    else match e.instr with
      | .ldcb .. => true
      | i => unitOf i != some .fma && unitOf i != some .permute

/-- May an older instruction than an entry still trap, so that a Rollback takes the entry's effects back (R170)? -/
def underRollback (s : State) (e : QEntry) : Bool := s.core.q.queue.any fun y => decide (y.seq < e.seq) && mayTrap s y

/-- May an instruction be issued ahead of older ones that have not run (R244)? The matrix engine commits in order (R319), a copy command
issues once every older instruction has completed (R306), and an early load goes into its entry of its own accord (R288). A store, whose
bytes no Rollback gives back, is performed only once no older instruction may trap (R170). -/
def mayRunAhead (s : State) (older : List QEntry) (e : QEntry) : Bool :=
  (match unitOf e.instr, e.instr with
   | some .matrix, _ => false
   | some .engine, .xsel _ _ => true
   | some .engine, .xsend _ _ => true
   | some .engine, _ => false
   | some _, _ => true
   | none, _ => false) &&
    !isEarlyLoad e.instr && queueDataReady s e && !(older.any fun o => unitOf o.instr == unitOf e.instr || dependsOn o e || memoryHeld s older o e) &&
    leavesUsed s e && !(writesMemory e.instr && underRollback s e)

/-- What one state's vector registers, k registers, mask stack, codebook and generator hold that another's do not. -/
def replacedBy (a b : Core) : List Replaced :=
  ((List.range 32).filterMap fun r =>
    let v := (a.vec.v[r]?).getD 0
    let sc := (a.vec.scales[r]?).getD (Vector.replicate 4 0)
    if b.vec.v[r]? = some v && b.vec.scales[r]? = some sc then none else some (.v r v sc)) ++
  ((List.range 8).filterMap fun n =>
    let k := (a.vec.k[n]?).getD 0
    if b.vec.k[n]? = some k then none else some (.k n k)) ++
  (if a.vec.masks = b.vec.masks then [] else [.masks a.vec.masks]) ++
  (if a.vec.codebook = b.vec.codebook then [] else [.codebook a.vec.codebook]) ++
  (if a.regs.srseed = b.regs.srseed then [] else [.seed a.regs.srseed])

/-- Notes what an instruction that has run ahead holds. -/
def noteAhead (s : State) (e : QEntry) (a : Ahead) : State :=
  setQ s { s.core.q with queue := s.core.q.queue.map fun y => if y.seq = e.seq then { y with ahead := some a } else y }

/-- An instruction has run ahead, from a state to another: its flags and its x result are held back until it completes (R162, R235). -/
def holdAhead (s s1 : State) (e : QEntry) : State :=
  let a : Ahead :=
    { flags := s1.core.regs.fflags &&& ~~~s.core.regs.fflags, x := (xDestOf e.instr).map fun d => (d, xr s1 d), fault := none,
      old := replacedBy s.core s1.core }
  let s2 := setRegs s1 { s1.core.regs with fflags := s.core.regs.fflags }
  noteAhead (match xDestOf e.instr with | some d => setX s2 d (xr s d) | none => s2) e a

/-- An instruction runs ahead of the older ones, or asks for the service that it waits for (R299). A fault of the engine port is held for its
turn; another waits for its turn altogether. -/
def runsAhead (s : State) (older : List QEntry) (e : QEntry) : Option State :=
  if mayRunAhead s older e then
    match runEntry e s with
    | .done s1 => some (holdAhead s s1 e)
    | .trap _ t _ => if unitOf e.instr = some .engine then some (noteAhead s e ⟨0, none, some t, []⟩) else none
    | .blocked s1 => if s1 = s then none else some s1
  else none

/-- The first instruction of a list, and of those that a test picks, that can run ahead of all that have not run before it. An early load
that has been performed has run. -/
def aheadFrom (s : State) (p : Instr → Bool) (older : List QEntry) : List QEntry → Option State
  | [] => none
  | e :: t =>
    if e.ahead.isSome || earlyDone s e then aheadFrom s p older t
    else match (if older.isEmpty || !p e.instr then none else runsAhead s older e) with
      | some s1 => some s1
      | none => aheadFrom s p (older ++ [e]) t

/-- A unit goes on that takes the instructions that a test picks (R244): the oldest instruction of the queue is one of them and completes,
or has done something, or one runs ahead. -/
def unitGoes (s : State) (p : Instr → Bool) : Option State :=
  match s.core.q.queue with
  | [] => none
  | e :: _ =>
    let next := aheadFrom s p [] s.core.q.queue
    if !p e.instr then next
    else match runHead s with
      | .clear s1 => some s1
      | .trapped _ => none
      | .blocked s1 => if s1 = s then next else some s1

/-- Something in the queue goes on: its oldest instruction, or while that waits one that can run ahead of it (R244). -/
def runQueue (s : State) : DrainRes :=
  match runHead s with
  | .blocked s1 =>
    (match aheadFrom s1 (fun _ => true) [] s1.core.q.queue with
     | some s2 => .clear s2
     | none => .blocked s1)
  | other => other

/-- Runs queued instructions until a test holds, for at most f of them. -/
def drainUntil (p : State → Bool) : Nat → State → DrainRes
  | 0, s => if p s then .clear s else .blocked s
  | f + 1, s =>
    if p s then .clear s
    else match runQueue s with
      | .clear s1 => drainUntil p f s1
      | other => other

/-- Acts that empty a queue: each instruction may ask for the service of a page, run ahead, and completes. -/
def queueFuel (s : State) : Nat := 3 * s.core.q.queue.length

/-- Waits until a test holds, by running the queue. -/
def waitQueue (p : State → Bool) (s : State) : DrainRes := drainUntil p (queueFuel s) s

/-- Runs queued instructions until at most n are outstanding. -/
def drainTo (n : Nat) (s : State) : DrainRes := waitQueue (fun s => decide (s.core.q.queue.length ≤ n)) s

/-- Store-buffer entries leave until a test holds, queued instructions running where an entry waits for them (R165). -/
def drainSbUntil (p : State → Bool) : Nat → State → DrainRes
  | 0, s => if p s then .clear s else .blocked s
  | f + 1, s =>
    if p s then .clear s
    else match s.core.q.sb with
      | [] => .blocked s
      | e :: _ =>
        if mayLeave s e then drainSbUntil p f (popSb s)
        else if s.core.q.queue.isEmpty then .blocked s
        else match runQueue s with
          | .clear s1 => drainSbUntil p f s1
          | other => other

/-- Waits until a test holds, by emptying the store buffer. -/
def waitSb (p : State → Bool) (s : State) : DrainRes := drainSbUntil p (s.core.q.sb.length + queueFuel s) s

/-- Waits until no queued instruction is outstanding (R156, R167). -/
def drainAll (s : State) : DrainRes := drainTo 0 s

/-- The state of a drain result. -/
def DrainRes.state : DrainRes → State
  | .clear s => s
  | .trapped s => s
  | .blocked s => s

/-- After an instruction has issued: queued instructions, store-buffer entries and remote requests complete down to the model's
pace (log 9). -/
def settle (s : State) : State :=
  let s1 := (drainTo s.pace.queue s).state
  let s2 := drainSb s1.core.q.sb.length s1 s1.pace.sb
  drainRemote s2.core.q.remote.length s2 s2.pace.remote

/-! ## Waiting and trapping -/

/-- A drain point (R167): it issues once no queued instruction is outstanding; an older trap is taken instead. -/
def atDrain (s : State) (k : State → State) : State :=
  match drainAll s with
  | .clear s1 => k s1
  | .trapped s1 => s1
  | .blocked s1 => stall s1

/-- A trap of the strand (R156): it waits until no older queued instruction is outstanding. -/
def raiseTrap (s : State) (code : Nat) (v : Word) : State :=
  let pc := pcOf s
  match drainAll s with
  | .clear s1 => trapEntry s1 code false v pc
  | .trapped s1 => s1
  | .blocked s1 => stall (setSync s1 { s1.core.sync with trapWaits := true })

/-- Does a remote load wait to write a register (R277)? -/
def remotePending (s : State) (r : Reg) : Bool :=
  s.core.q.remote.any fun q => match q.op with | .load d _ _ => d == r | _ => false

/-- Is a register pending (R162)? -/
def pending (s : State) (r : Reg) : Bool :=
  r != 0 && ((s.core.q.queue.any fun e => xDestOf e.instr == some r) || remotePending s r)

/-- Performs remote requests until a register is no longer pending by one. -/
def drainRemoteFor (rs : List Reg) : Nat → State → State
  | 0, s => s
  | f + 1, s => if rs.any fun r => r != 0 && remotePending s r then drainRemoteFor rs f (popRemote s) else s

/-- Waits until no register of a list is pending (R162). -/
def whenReady (s : State) (rs : List Reg) (k : State → State) : State :=
  let s0 := drainRemoteFor rs s.core.q.remote.length s
  match waitQueue (fun t => !rs.any (pending t)) s0 with
  | .clear s1 => k s1
  | .trapped s1 => s1
  | .blocked s1 => stall s1

/-- May the strand issue an instruction: the queue is empty, or neither the queue nor the undo log is full and the entries that the
instruction takes fit (R163, R166)? -/
def hasRoom (k : State → State) (s : State) : Bool :=
  s.core.q.queue.isEmpty ||
    (decide (s.core.q.queue.length < Config.queueDepth) && decide (s.core.q.undo.length < Config.undoDepth) &&
      decide ((k s).core.q.undo.length ≤ Config.undoDepth))

/-- Waits until the queue and the undo log have room (R163). -/
def whenLogged (s : State) (k : State → State) : State :=
  match waitQueue (hasRoom k) s with
  | .clear s1 => k s1
  | .trapped s1 => s1
  | .blocked s1 => stall s1

/-- A strand instruction that reads and writes the registers named (R161 to R163): it waits for them, acts, and the model's pace
follows. -/
def strand (s : State) (rs : List Reg) (k : State → State) : State :=
  settle (whenLogged s fun s1 => whenReady s1 rs k)

/-- A strand instruction that is a drain point and reads and writes the registers named (R162, R167). -/
def drained (s : State) (rs : List Reg) (k : State → State) : State := settle (atDrain s fun s1 => whenReady s1 rs k)

/-- What a meaning answers. -/
abbrev Result := Host.Outcome State Fault Refusal

/-! ## Enqueue -/

/-- The mask-stack depth after every older enqueued instruction (R252). -/
def maskDepthAhead (s : State) : Int :=
  (s.core.q.queue.filter fun e => e.ahead.isNone).foldl (fun (d : Int) e => d + depthChange e.instr) s.core.vec.masks.length

/-- The subcode of cause 14 at enqueue, or none (R252). -/
def enqueueSub (s : State) (i : Instr) : Option Nat :=
  let q := s.core.q
  let depth := maskDepthAhead s
  if readsLdq i && q.u == 0 then some 1
  else if isEarlyLoad i && q.u == 8 then some 2
  else if takesSdq i && q.p == 0 then some 3
  else if pushesSdq i && q.p == 8 then some 4
  else match i with
    | .mpush _ | .mstg _ _ => if depth = 16 then some 5 else none
    | .mpop | .minv => if depth = 0 then some 6 else none
    | _ => none

/-- The ring of the trough that a row product reads, as configured now (R332). -/
def ringOf (s : State) (i : Instr) : Nat × Nat :=
  match i with
  | .mrow _ _ _ q _ _ | .mrowp _ _ _ q _ _ | .mrowz _ _ _ q _ _ | .mrowzp _ _ _ q _ _ =>
    let t := myTrough s q
    (padKey s.core.pos.cluster + t.base, t.nslot * Config.slotBytes)
  | _ => (0, 0)

/-- What the entry of an instruction captures (R161, R250, R251, R287, R305, R332, R338). -/
def capture (s : State) (i : Instr) : QEntry :=
  let g := s.core.regs
  let q := s.core.q
  { seq := q.qnext, instr := i, pc := g.pc, mode := g.mode, xs := (xReadsOf i).map fun r => (r, xr s r), stgv := stgv s,
    lanedone := if isLaneAddressed i then g.lanedone else 0, tau := g.tau, gflim := g.gflim, level := g.level,
    uBefore := q.u, pBefore := q.p, ldqSeq := if readsLdq i then (nextLdq s).map (·.seq) else none,
    sdqSeq := if takesSdq i then nextSdq s else none, ring := ringOf s i,
    instretAt := g.instret + BitVec.ofNat 64 q.queue.length, ahead := none }

/-- U after an enqueue (R252). -/
def uAfter (u : Nat) (i : Instr) : Nat := u - (if readsLdq i then 1 else 0) + (if isEarlyLoad i then 1 else 0)

/-- P after an enqueue (R252). -/
def pAfter (p : Nat) (i : Instr) : Nat := p - (if takesSdq i then 1 else 0) + (if pushesSdq i then 1 else 0)

/-- Gives an early load its LDQ entry: the one a Rollback kept for it, or a fresh one (R250, R254). -/
def allotLdq (s : State) (e : QEntry) : State :=
  if isEarlyLoad e.instr then
    match (if isLaneAddressed e.instr && e.lanedone != 0 then s.core.q.ldq.find? (·.kept) else none) with
    | some l => setQ s { s.core.q with ldq := (s.core.q.ldq.erase l) ++ [{ l with seq := e.seq, kept := false }] }
    | none =>
      let f := nextFree s
      setQ f.1 { f.1.core.q with ldq := f.1.core.q.ldq ++ [⟨e.seq, Config.freeVector f.2, 0, none, true, false⟩] }
  else s

/-- The instructions of the queue before an entry that have not run. -/
def olderThan (s : State) (e : QEntry) : List QEntry := s.core.q.queue.filter fun y => decide (y.seq < e.seq) && y.ahead.isNone

/-- Does no older store, queued or in the store buffer, and no queued copy command touch the bytes of an early load (R288, R308)? Lanes and addresses that an older
instruction has yet to settle count as touched (R243; log 9). -/
def earlyClear (s : State) (e : QEntry) : Bool :=
  let older := olderThan s e
  let unsure := unsureOf older
  !(mGuard e.mode && unsure.contains resMasks) &&
    (match touchedBy s false unsure e with
     | none => false
     | some t => older.all fun o => !(writesMemory o.instr || isCopy o.instr) || (match touchedBy s false unsure o with | none => false | some u => !mustOrder u t)) &&
    !sbHolds s e false ((vecPieces s e (activeOf s e)).map fun p => ⟨p, probe s (e.who s) p.va .r, 0⟩)

/-- Is the translation of every piece of an early load in the core's TLB (R288)? -/
def earlyTranslated (s : State) (e : QEntry) : Bool :=
  (vecPieces s e (activeOf s e)).all fun p => isWindow p.va || (tlbFind s (.core s.core.pos) s.core.vf p.va).isSome

/-- The access of a VLD or VLDS to v30 at its enqueue, or nothing when it is deferred (R288). -/
def earlyAtEnqueue (s : State) (e : QEntry) : State :=
  if isEarlyLoad e.instr && (match e.instr with | .vldg .. => false | _ => true) && earlyClear s e && earlyTranslated s e then
    performEarly s e
  else s

/-- Appends an entry to the queue (R161): counts, LANEDONE, the early load's entry and access, and the END test. -/
def append_ (s : State) (e : QEntry) : State :=
  let s1 := allotLdq s e
  let q := s1.core.q
  let s2 := setQ s1 { q with queue := q.queue ++ [e], qnext := q.qnext + 1, u := uAfter q.u e.instr, p := pAfter q.p e.instr }
  let s3 := if isLaneAddressed e.instr then setLanedone s2 0 else s2
  let s4 := earlyAtEnqueue s3 e
  endTest s4 e.pc 6

/-- Is there room for an enqueue: in the queue, and in the LDQ for an early load (R163, R250)? -/
def roomFor (s : State) (i : Instr) : Bool :=
  decide (s.core.q.queue.length < Config.queueDepth) &&
    (!isEarlyLoad i || decide (s.core.q.ldq.length < Config.ldqDepth) ||
      (s.core.q.ldq.any (·.kept) && isLaneAddressed i && s.core.regs.lanedone != 0))

/-- The enqueue of a class 4 to 7 instruction (R138, R161 to R163, R252). -/
def enqueue (s : State) (i : Instr) : State :=
  settle (whenLogged s fun s =>
    if !modeOk s.core.regs.mode i then raiseTrap s 2 ((encodeOr0 i).setWidth 64)
    else whenReady s (xReadsOf i) fun s =>
      match enqueueSub s i with
      | some n => raiseTrap s 14 (BitVec.ofNat 64 (n * 2 ^ 56))
      | none =>
        match waitQueue (fun t => roomFor t i) s with
        | .clear s1 => append_ s1 (capture s1 i)
        | .trapped s1 => s1
        | .blocked s1 => stall s1)

end Sys2Proof.Machine
end

