-- ==== Sys2Proof/Machine/ScalarMem.lean ====
section
/-!
DEFINITION. Machine/ScalarMem.lean: the scalar loads and stores (R164, R165, R277, R278, R293), PREF (R281) and CBO (R282).
-/

namespace Sys2Proof.Machine

/-! ## What loads and stores share -/

/-- x(a) + sext(imm, 13) (R277). -/
def effAddr (s : State) (a : Reg) (i : BitVec 13) : Word := xr s a + i.signExtend 64

/-- An instruction's own word as TVAL (R137). -/
def wordOf (i : Instr) : Word := (encodeOr0 i).setWidth 64

/-- Do the bytes of two places meet? -/
def placesMeet (a : Loc) (n : Nat) (b : Loc) (m : Nat) : Bool :=
  match a, b with
  | .bank k, .bank k' => overlaps k n k' m
  | .glob k _ _, .glob k' _ _ => overlaps k n k' m
  | .peer k _ _, .peer k' _ _ => overlaps k n k' m
  | _, _ => false

/-- Does a store-buffer entry make a load of n bytes at a place wait for it, whatever it holds (R164)? An FACC by its slot, a CBO
by its line, and a frame header by its bytes. -/
def sbBars (l : Loc) (n : Nat) (b : SbEntry) : Bool :=
  match b.op with
  | .store _ _ => false
  | .facc _ _ => placesMeet b.loc 8 l n
  | .cbo _ => (match b.loc, l with
    | .glob k _ _, .glob k' _ _ => k / 64 == k' / 64
    | .peer k _ _, .peer k' _ _ => k / 64 == k' / 64
    | .bank k, .bank k' => k / 64 == k' / 64
    | _, _ => false)
  | .enter _ _ _ _ => placesMeet b.loc 40 l n
  | .leave _ _ => placesMeet b.loc 40 l n

/-- The byte that the newest store entry holds for a place (R164). -/
def sbByte (sb : List SbEntry) (l : Loc) : Option Byte :=
  sb.reverse.findSome? fun b => match b.op with
    | .store n v =>
      if placesMeet b.loc n l 1 then
        some (v.extractLsb' (8 * (placeKey l - placeKey b.loc)) 8)
      else none
    | _ => none

/-- What the store buffer says to a load (R164): nothing, all its bytes, or wait. -/
inductive SbView where
  | none_
  | held (v : Nat)
  | wait
  deriving DecidableEq, Repr

/-- The store buffer's view of a load of n bytes at a place (R164). -/
def sbView (sb : List SbEntry) (l : Loc) (n : Nat) : SbView :=
  let bs := (List.range n).map fun i => sbByte sb (l.add i)
  if sb.any (sbBars l n) then .wait
  else if bs.all (·.isNone) then .none_
  else if bs.all (·.isSome) then .held (ofLeBytes (bs.map (·.getD 0)))
  else .wait

/-- Waits until the store buffer is empty and RRC = 0, with no queued instruction outstanding (R389). -/
def whenFlushed (s : State) (k : State → State) : State :=
  let s1 := flushStores s
  if s1.core.q.sb.isEmpty then k s1 else stall s1

/-- Goes on where a wait has come to its end. -/
def whenClear (r : DrainRes) (k : State → State) : State :=
  match r with
  | .clear s => k s
  | .trapped s => s
  | .blocked s => stall s

/-- Waits until the store buffer has room for one more entry (R163). -/
def whenSbRoom (s : State) (k : State → State) : State :=
  whenClear (waitSb (fun t => decide (t.core.q.sb.length < Config.storeBufferDepth)) s) k

/-- Does an entry make a load of n bytes at a place wait until it has left (R164): it touches bytes of the load, or a CBO its line? -/
def sbMeets (l : Loc) (n : Nat) (b : SbEntry) : Bool :=
  sbBars l n b || (match b.op with | .store m _ => placesMeet b.loc m l n | _ => false)

/-- Does an older queued instruction, that has not run, write bytes of the line of a load, or of its local bytes (R164)? One whose
addresses are not settled counts. -/
def queuedWrites (s : State) (va : Word) (l : Loc) (n : Nat) : Bool :=
  let es := s.core.q.queue.filter fun e => e.ahead.isNone
  let unsure := unsureOf es
  let line : Line := ⟨va.toNat / 64, match l with
    | .glob k _ _ => some (k / 64)
    | .peer k _ _ => some (k / 64)
    | .bank _ => none⟩
  es.any fun e => writesMemory e.instr && (match touchedBy s true unsure e with
    | none => true
    | some t => match l with
      | .bank k => t.ranges.any (rangesMeet (k, n, false))
      | _ => t.lines.any (sameLine line))

/-- Takes a store-buffer entry (R165). -/
def pushSb (s : State) (va : Word) (l : Loc) (op : SbOp) : State :=
  setQ s { s.core.q with sb := s.core.q.sb ++ [⟨s.core.q.qnext, va, l, op⟩] }

/-- The offset of the first poisoned byte among n at a bank key (R280). -/
def bankPoison (s : State) (k n : Nat) : Option Nat :=
  if poisoned s k then some 0 else if poisoned s (k + n - 1) then some (n - 1 - (k + n - 1) % 4) else none

/-- A remote load is sent, and leaves x(d) pending (R277, R293). A mark that its target would answer with raises cause 11, the older
remote requests having been performed (R280). -/
def remoteLoad (s : State) (d : Reg) (va : Word) (n : Nat) (signed : Bool) (k : Nat) : State :=
  let send := fun (u : State) =>
    let s2 := if d = 0 then u else pushUndo u (.xreg d (xr u d))
    fallThrough (sendRemote s2 k (.load d n signed))
  if (bankPoison s k n).isSome && !targetRefuses s s.core.lid k then
    let s1 := flushRemote s
    match bankPoison s1 k n with
    | some o => raiseTrap s1 11 (va + BitVec.ofNat 64 o)
    | none => send s1
  else send s

/-- Performs a load of n bytes at a place: the value and the address of its first poisoned byte, or for a remote place the
request (R277, R280, R293). -/
def loadAt (s : State) (d : Reg) (va : Word) (n : Nat) (signed : Bool) (l : Loc) : State :=
  let near := fun (_ : Unit) =>
    let r := readAt s l n
    match r.2.2 with
    | some o => raiseTrap r.1 11 (va + BitVec.ofNat 64 o)
    | none => fallThrough (writeX r.1 d (extendLoad n signed r.2.1))
  match l with
  | .bank k => if isRemote s.core.pos k then remoteLoad s d va n signed k else near ()
  | _ => near ()

/-- A strand load of n bytes at an address, once its operands are ready (R164, R277). It sets A once no queued instruction can squash it (R297). -/
def loadOp (s : State) (d : Reg) (va : Word) (n : Nat) (signed : Bool) : State :=
  if va.toNat % n ≠ 0 then raiseTrap s 4 va
  else
    let r := translateAs s s.core.who va .r true false
    match r.2 with
    | .wait => stall r.1
    | .fault c => raiseTrap r.1 c va
    | .ok l =>
      whenClear (waitQueue (fun t => !queuedWrites t va l n) r.1) fun s0 =>
        let s1 := noteUse s0 l
        match sbView s1.core.q.sb l n with
        | .held v => fallThrough (writeX s1 d (extendLoad n signed v))
        | .none_ => loadAt s1 d va n signed l
        | .wait =>
          whenClear (waitSb (fun t => !(t.core.q.sb.any (sbMeets l n))) s1) fun s2 => loadAt s2 d va n signed l

/-- A strand store of n bytes at an address: checked and translated at issue, then an entry (R165, R278). -/
def storeOp (s : State) (va : Word) (n : Nat) (data : Word) : State :=
  if va.toNat % n ≠ 0 then raiseTrap s 7 va
  else whenSbRoom s fun s1 =>
    let r := translateAs s1 s1.core.who va .w true false
    match r.2 with
    | .wait => stall r.1
    | .fault c => raiseTrap r.1 c va
    | .ok l => fallThrough (pushSb r.1 va l (.store n data))

/-- A scalar load (R277). -/
def execLoad (d a : Reg) (i : BitVec 13) (n : Nat) (signed : Bool) (s : State) : Result :=
  .next (strand s [d, a] fun s1 => loadOp s1 d (effAddr s1 a i) n signed)

/-- A scalar store (R278). -/
def execStore (d a : Reg) (i : BitVec 13) (n : Nat) (s : State) : Result :=
  .next (strand s [d, a] fun s1 => storeOp s1 (effAddr s1 a i) n (xr s1 d))

/-! ## The instructions -/

/-- LB (R277). -/
def execLb (d a : Reg) (i : BitVec 13) (s : State) : Result := execLoad d a i 1 true s
/-- LBU (R277). -/
def execLbu (d a : Reg) (i : BitVec 13) (s : State) : Result := execLoad d a i 1 false s
/-- LH (R277). -/
def execLh (d a : Reg) (i : BitVec 13) (s : State) : Result := execLoad d a i 2 true s
/-- LHU (R277). -/
def execLhu (d a : Reg) (i : BitVec 13) (s : State) : Result := execLoad d a i 2 false s
/-- LW (R277). -/
def execLw (d a : Reg) (i : BitVec 13) (s : State) : Result := execLoad d a i 4 true s
/-- LWU (R277). -/
def execLwu (d a : Reg) (i : BitVec 13) (s : State) : Result := execLoad d a i 4 false s
/-- LD (R277). -/
def execLd (d a : Reg) (i : BitVec 13) (s : State) : Result := execLoad d a i 8 true s
/-- SB (R278). -/
def execSb (d a : Reg) (i : BitVec 13) (s : State) : Result := execStore d a i 1 s
/-- SH (R278). -/
def execSh (d a : Reg) (i : BitVec 13) (s : State) : Result := execStore d a i 2 s
/-- SW (R278). -/
def execSw (d a : Reg) (i : BitVec 13) (s : State) : Result := execStore d a i 4 s
/-- SD (R278). -/
def execSd (d a : Reg) (i : BitVec 13) (s : State) : Result := execStore d a i 8 s

/-- The levels that a PREF's fill reaches (R281). -/
def prefLevels (s : State) (h : BitVec 2) : List Level :=
  let p := s.core.pos
  let lower := below .home (sharedPath s p)
  if h = 0 then .l1 p :: lower
  else if h = 1 then lower
  else if h = 2 then [.die p.die]
  else [.home]

/-- PREF (R281): the fill starts, and arrives by PREF_FILL; nothing else changes. -/
def execPref (h : BitVec 2) (a : Reg) (i : BitVec 13) (s : State) : Result :=
  .next (strand s [a] fun s1 =>
    match probe s1 s1.core.who (effAddr s1 a i) .r with
    | some (.glob k pte _) =>
      fallThrough (setCore s1 { s1.core with prefs := s1.core.prefs ++ [⟨prefLevels s1 h, k / 64 * 64, pteAttr pte⟩] })
    | _ => fallThrough s1)

/-- The fill of the oldest PREF of the core in focus arrives (R281). One that stops at the home slice brings no line to the die cache and
counts in neither counter (R128; log 10). -/
def prefArrives (s : State) (f : PrefFill) (rest : List PrefFill) : State :=
  let s1 := setCore s { s.core with prefs := rest }
  fillLine s1 s1.core.pos (f.levels ++ [.home]) f.key f.attr (f.levels != [.home])

/-- CBO on x(a): translated at issue, then an entry (R282). -/
def cboOp (s : State) (a : Reg) (fn : BitVec 2) (acc : Access) : State :=
  whenSbRoom s fun s1 =>
    let va := xr s1 a
    let r := translateAs s1 s1.core.who va acc true false
    match r.2 with
    | .wait => stall r.1
    | .fault c => raiseTrap r.1 c va
    | .ok l => fallThrough (pushSb r.1 va l (.cbo fn))

/-- CBO.WB (R282). -/
def execCboWb (a : Reg) (s : State) : Result := .next (strand s [a] fun s1 => cboOp s1 a 0 .r)
/-- CBO.WBINV (R282). -/
def execCboWbinv (a : Reg) (s : State) : Result := .next (strand s [a] fun s1 => cboOp s1 a 1 .r)
/-- CBO.INV (R282): level 2 only. -/
def execCboInv (a : Reg) (s : State) : Result :=
  .next (strand s [a] fun s1 =>
    if s1.core.regs.level ≠ 2 then raiseTrap s1 2 (wordOf (.cboInv a)) else cboOp s1 a 2 .w)

end Sys2Proof.Machine
end

