-- ==== Sys2Proof/Machine/FrameOps.lean ====
section
/-!
DEFINITION. Machine/FrameOps.lean: what frames, forks, joins and ends share: running a deque entry (R214 to R217, R220), the JOIN
steps (R218), the end of a strand (R197, R431) and of a task, and the unwinding of killed frames (R428, R430).
-/

namespace Sys2Proof.Machine

/-! ## The current frame -/

/-- STATE(current).ENT: an FENTER whose store-buffer entry has not left counts (R206, R207). -/
def curEnt (s : State) : Bool :=
  let h := curFrame s
  (s.core.q.sb.any fun b => match b.op with | .enter h' _ _ _ => h' == h | _ => false) ||
    stEnt (frameState s s.core.vf h).2

/-- The undo item of the frame-depth kind (R166). added is the offset of a frame that the instruction makes. -/
def logFrame (s : State) (added : Option Nat) : State :=
  pushUndo s (.frame s.core.regs.depth s.core.regs.d s.core.regs.shadow added)

/-- Is the strand in an exchange phase (R403)? -/
def inPhase (s : State) : Bool := s.core.sync.phase.isSome

/-! ## Deque entries -/

/-- A deque entry below a killed frame retires at once, as a frame of zero slots without fold action (R220). -/
def dropEntry (s : State) (e : DequeEntry) : State :=
  let sc := tScope (e.tmpl.setWidth 64)
  childDone (release (flushRemote s) s.core.pos sc allRegions) s.core.vf e.parent sc

/-- Runs a deque entry inline or nested (R216, R217), or retires it below a killed frame (R220). A frame fault leaves the state as
it was, but for the PC at the task's target (R202). counted says that the parent has counted the child already. -/
def runNested (s : State) (e : DequeEntry) (resume : Word) (counted : Bool) (popped : State → State) : State :=
  let vf := s.core.vf
  if chainKilled treeFuel s vf e.parent then
    setPc (dropEntry (popped (if counted then s else addChild s vf e.parent 1)) e) resume
  else
    let s1 := popped s
    let r := runTask (if counted then s1 else addChild s1 vf e.parent 1) e resume false
    match r.2 with
    | none => r.1
    | some t =>
      let s2 := setPc s e.target
      if t.code = 18 then foldPolicy (reportFault s2 s2.core.lid 18 t.tval e.target) 18 t.tval e.target
      else trapEntry s2 t.code false t.tval e.target

/-- What the JOIN steps come to (R218). -/
inductive JoinRes where
  | done (s : State)
  | ran (s : State)
  | wait (s : State)
  deriving Repr

/-- The JOIN steps on the current frame, the stores having left (R218). -/
def joinSteps (s : State) : JoinRes :=
  let vf := s.core.vf
  let st := frameState s vf (curFrame s)
  if stChild st.2 = 0 then
    let s1 := if stWv st.2 then acquire st.1 allRegions (stWscope st.2) else st.1
    let st1 := frameState s1 vf (curFrame s1)
    .done (frameWrite st1.1 vf (hState (curFrame s1)) (putField st1.2 39 1 0))
  else match s.core.sync.deque with
    | e :: t =>
      .ran (runNested s e (pcOf s) true fun u => setSync u { u.core.sync with deque := t })
    | [] => .wait s

/-! ## The end of a strand or task -/

/-- The core becomes idle: the strand's or task's state is discarded (R197, R214). Commands still in the queue post to nobody, and
a lock it holds stays held by no strand (R395, R428). RSEQ goes on across tasks (R293), and the stationary copies stay (R324). -/
def goIdle (s : State) : State :=
  let c := s.core
  let k := clusterAt s c.pos.cluster
  let s1 := if k.cmds.any fun q => q.core == c.pos && !q.orphan then
      setCluster s { k with cmds := k.cmds.map fun q => if q.core = c.pos then { q with orphan := true } else q }
    else s
  let s2 := loseMember (dropPosts s1 c.pos) c.pos
  let ls := s2.locks.map fun l => if l.holder = c.pos && l.lid = c.lid then { l with lid := BitVec.allOnes 64 } else l
  { s2 with
    locks := ls
    core := { Core.reset c.pos with
      fold := c.fold
      vf := c.vf
      lid := c.lid
      holds := c.holds
      icache := c.icache
      prefs := c.prefs
      gates := c.gates
      q := { Queues.reset with rseq := c.q.rseq }
      mat := { MatRegs.reset with stat := c.mat.stat }
      regs := { Regs.reset with frames := c.regs.frames } } }

/-- The end of a strand that brings its cluster's node to zero: the core is freed once the reports have run up the tree (R432). -/
def retiring (s : State) : State :=
  let s1 := goIdle s
  { s1 with core := { s1.core with occ := .strand, sync := { s1.core.sync with wait := some .retiring } } }

/-- The end of the strand in focus, its frame steps done (R197, R431): the retirement release, the trigger, the cluster's node,
the discard, and the freeing of the core. -/
def endStrandSteps (s : State) : State :=
  match myLaunch s with
  | none => goIdle s
  | some l =>
    let c := s.core.pos.cluster
    let untriggered := recTrigexp l.record && !s.core.sync.triggered
    let m := l.record.creg ||| (if untriggered then l.record.treg else 0)
    let s1 := release s s.core.pos 2 m
    let s2 := if untriggered then triggerDec s1 l.lid 1 (treeEnds l c 1) else s1
    match launchAt s2 l.lid with
    | some l2 =>
      let l3 := nodeDec l2 (.cluster c) 1
      if reportDue l3 (.cluster c) then retiring (setLaunch s2 l3) else goIdle (setLaunch s2 l3)
    | none => goIdle s2

/-- The resumption of the frame below an ended task (R219). A header with the wrong DEPTH is contained under the fold policy
(R222). -/
def resumeAt (s : State) (retfr resume : Word) : State :=
  let pc : Word := (resume >>> 2) <<< 2
  let r := rebuildDisplay s s.core.vf retfr
  if r.2 then setPc r.1 pc
  else foldPolicy (reportFault (setPc s pc) s.core.lid 18 2 pc) 18 2 pc

/-- Leave(current), then the end of the strand or task whose frame it is (R219). -/
def endFrame (s : State) : State :=
  let vf := s.core.vf
  let h := curFrame s
  let resume := frameRead s vf (hResume h)
  let retfr := frameRead resume.1 vf (hRetfr h)
  let s1 := leaveFrame retfr.1 vf h (shadowAt s s.core.regs.depth)
  if s.core.regs.depth = 2 then endStrandSteps s1
  else if resume.2.getLsbD 0 then goIdle s1
  else resumeAt s1 retfr.2 resume.2

/-! ## Killed frames -/

/-- Is the frame of a header made in this core's own TCM? -/
def ownFrame (s : State) (h : Word) : Bool :=
  isWindow h && (bankOwner h.toNat).1 == s.core.pos && !(bankOwner h.toNat).2

/-- The depth of the outermost killed frame on the current chain, if any. -/
def killedDepth (s : State) : Option Nat :=
  (List.range (s.core.regs.depth + 1)).find? fun n => stKill (seenState s s.core.vf (dreg s n)).2

/-- Retires the deque entries below a killed frame, be it on the current chain or left (R220, R428). -/
def dropKilled (s : State) : State :=
  let below := fun (e : DequeEntry) => chainKilled treeFuel s s.core.vf e.parent
  let s1 := setSync s { s.core.sync with deque := s.core.sync.deque.filter fun e => !below e }
  (s.core.sync.deque.filter below).foldl dropEntry s1

/-- Has the frame of the strand in focus, at the start of its TCM (R109), retired? -/
def strandRetired (s : State) : Bool := !(s.core.regs.frames.any fun f => f.off == 0)

/-- Leaves the core's own frames from the current one outward to depth n, each marked killed so that it makes no fold action
(R428 step 3). Frames that an FENTER has put on the chain are left the same way. -/
def unwindTo (s : State) (n : Nat) : Nat → State
  | 0 => s
  | f + 1 =>
    let d := s.core.regs.depth
    let h := dreg s d
    if d < n || !ownFrame s h then s
    else
      let s1 := setKill s s.core.vf h
      let s2 := leaveFrame s1 s.core.vf h (shadowAt s1 d)
      unwindTo (setRegs s2 { s2.core.regs with depth := d - 1 }) n f

/-- A strand that Kill has unwound ends once its frame has retired, with every task below it (R211, R428, R431). -/
def endUnwound (s : State) : State :=
  if strandRetired s then endStrandSteps s
  else setSync s { s.core.sync with wait := some .unwound, npr := false, phase := none }

/-- KILL_UNWIND on the core in focus, killed from depth n (R428): Rollback, the stores performed, the frames unwound, and the
continuation at the outermost killed frame. Data in the SDQ and the LDQ goes with the killed code. While a store waits to be performed
for the copy of a page, nothing is unwound. -/
def unwindKilled (s : State) (n : Nat) : State :=
  let s1 := match s.core.q.queue with
    | [] => s
    | e :: _ => dropPosts (rollback s e false) s.core.pos
  let s2 := setQ s1 { s1.core.q with sdq := [], ldq := [], u := 0, p := 0 }
  let s3 := flushStores s2
  if !s3.core.q.sb.isEmpty then s3
  else
  let s4 := setSync s3 { s3.core.sync with wait := none, stall := false, trapWaits := false }
  let s5 := dropKilled { s4 with parked := s4.parked.filter fun p => p.core != s.core.pos }
  let own := (List.range (s5.core.regs.depth + 1)).filter fun k => decide (n ≤ k) && ownFrame s5 (dreg s5 k)
  match own with
  | [] => goIdle s5
  | k :: _ =>
    let vf := s5.core.vf
    let h := dreg s5 k
    let resume := (frameRead s5 vf (hResume h)).2
    let retfr := (frameRead s5 vf (hRetfr h)).2
    let s6 := unwindTo s5 k 8
    if k = 2 then endUnwound s6
    else if resume.getLsbD 0 then goIdle s6
    else resumeAt s6 retfr resume

end Sys2Proof.Machine
end

