-- ==== Sys2Proof/Machine/FrameExec.lean ====
section
/-!
DEFINITION. Machine/FrameExec.lean: the frame instructions (R203 to R210), FORK (R212), JOIN (R218) and END (R219).
-/

namespace Sys2Proof.Machine

/-! ## Slots -/

/-- The frame fault of a slot operand, if any (R202, R203). -/
def slotFault (s : State) (n : BitVec 3) (k : BitVec 10) : Option Word :=
  let v := n.toNat * 2 ^ 10 + k.toNat
  if s.core.regs.depth < n.toNat then some (BitVec.ofNat 64 (1 * 2 ^ 56 + v))
  else if tSlots (shadowAt s n.toNat) ≤ k.toNat then some (BitVec.ofNat 64 (2 * 2 ^ 56 + v))
  else none

/-- The address of a slot operand (R203). -/
def slotAddr (s : State) (n : BitVec 3) (k : BitVec 10) : Word := slotVa (dreg s n.toNat) k.toNat

/-- A slot instruction: its frame faults, then its effect at the slot's address (R203). -/
def slotOp (s : State) (n : BitVec 3) (k : BitVec 10) (f : State → Word → State) : State :=
  match slotFault s n k with
  | some v => raiseTrap s 9 v
  | none => f s (slotAddr s n k)

/-- FLD: as LD (R203). -/
def execFld (x : Reg) (n : BitVec 3) (k : BitVec 10) (s : State) : Result :=
  .next (strand s [x] fun s1 => slotOp s1 n k fun s2 va => loadOp s2 x va 8 true)
/-- FST: as SD (R203). -/
def execFst (x : Reg) (n : BitVec 3) (k : BitVec 10) (s : State) : Result :=
  .next (strand s [x] fun s1 => slotOp s1 n k fun s2 va => storeOp s2 va 8 (xr s2 x))
/-- FADR: the slot's address (R203). -/
def execFadr (x : Reg) (n : BitVec 3) (k : BitVec 10) (s : State) : Result :=
  .next (strand s [x] fun s1 => slotOp s1 n k fun s2 va => fallThrough (writeX s2 x va))

/-- FACC: translated at issue as a store, then an entry (R204). -/
def execFacc (x : Reg) (n : BitVec 3) (k : BitVec 10) (f : BitVec 5) (s : State) : Result :=
  .next (strand s [x] fun s1 => slotOp s1 n k fun s2 va => whenSbRoom s2 fun s3 =>
    let r := translateAs s3 s3.core.who va .w true false
    match r.2 with
    | .wait => stall r.1
    | .fault c => raiseTrap r.1 c va
    | .ok l =>
      if lacksAtomics r.1 r.1.core.who va then raiseTrap r.1 6 va
      else fallThrough (pushSb r.1 va l (.facc (f.setWidth 3) (xr r.1 x))))

/-! ## Entering and leaving -/

/-- The low 56 bits of a size operand, with a subcode (R202). -/
def sizeFault (sub : Nat) (v : Word) : Word := BitVec.ofNat 64 (sub * 2 ^ 56 + v.toNat % 2 ^ 56)

/-- Makes the entered frame: depth, display and FTOP at issue, the header by a store-buffer entry (R206). -/
def enterFrame (s : State) (d : Reg) (n off : Nat) (t : Word) : State :=
  let parent := curFrame s
  let s1 := logFrame s (some off)
  let g := s1.core.regs
  let depth := g.depth + 1
  let h := tcmVa s1.core.pos off
  let fr : FrameRec := ⟨off, off + 40 + 8 * n, t⟩
  let s2 := setRegs s1 { g with
    depth := depth
    d := vset g.d depth h
    shadow := vset g.shadow depth t
    frames := g.frames ++ [fr] }
  fallThrough (writeX (pushSb s2 h (.bank (tcmKey s1.core.pos + off)) (.enter h t parent depth)) d (BitVec.ofNat 64 depth))

/-- FENTER (R206). -/
def execFenter (d a : Reg) (p sc : BitVec 2) (s : State) : Result :=
  .next (strand s [d, a] fun s1 =>
    let g := s1.core.regs
    let n := xr s1 a
    if g.depth = 7 then raiseTrap s1 9 (sizeFault 3 7)
    else if 1023 < n.toNat then raiseTrap s1 9 (sizeFault 5 n)
    else whenSbRoom s1 fun s2 =>
      let off := ftopOf s2.core.regs
      let fin := off + 40 + 8 * n.toNat
      if Config.tcmBytes < fin then raiseTrap s2 9 (sizeFault 4 (BitVec.ofNat 64 fin))
      else enterFrame s2 d n.toNat off (BitVec.ofNat 64 (n.toNat + sc.toNat * 2 ^ 10 + p.toNat * 2 ^ 12)))

/-- FLEAVE (R207). -/
def execFleave (s : State) : Result :=
  .next (strand s [] fun s1 =>
    let g := s1.core.regs
    if !curEnt s1 then raiseTrap s1 9 (sizeFault 6 (BitVec.ofNat 64 g.depth))
    else whenSbRoom s1 fun s2 =>
      let h := curFrame s2
      let t := shadowAt s2 s2.core.regs.depth
      let s3 := logFrame s2 none
      let g3 := s3.core.regs
      let s4 := setRegs s3 { g3 with
        depth := g3.depth - 1
        d := vset g3.d g3.depth 0
        shadow := vset g3.shadow g3.depth 0 }
      fallThrough (pushSb s4 h (.bank (absKey h)) (.leave h t)))

/-- Replaces the shadow of the current frame (R209). -/
def setShadow (s : State) (t : Word) : State :=
  let s1 := logFrame s none
  syncLive (setRegs s1 { s1.core.regs with shadow := vset s1.core.regs.shadow s1.core.regs.depth t })

/-- FFOLD (R209). -/
def execFfold (a b : Reg) (f : BitVec 8) (s : State) : Result :=
  .next (strand s [a, b] fun s1 =>
    let depth := s1.core.regs.depth
    let t := shadowAt s1 depth
    let x := xr s1 a
    let y := xr s1 b
    if f ≠ 0 && (decide (tSlots t ≤ x.toNat) || decide (tSlots (shadowAt s1 (depth - 1)) ≤ y.toNat)) then
      raiseTrap s1 9 (BitVec.ofNat 64 (8 * 2 ^ 56 + y.toNat % 2 ^ 10 * 2 ^ 10 + x.toNat % 2 ^ 10))
    else
      let op := f.toNat
      let own := if f = 0 then 0 else x.toNat
      let par := if f = 0 then 0 else y.toNat
      fallThrough (setShadow s1 (putField (putField (putField t 14 3 op) 17 10 own) 27 10 par)))

/-- FPOL (R209). -/
def execFpol (p : BitVec 2) (s : State) : Result :=
  .next (strand s [] fun s1 => fallThrough (setShadow s1 (putField (shadowAt s1 s1.core.regs.depth) 12 2 p.toNat)))

/-- DSPR (R210). -/
def execDspr (d : Reg) (n : BitVec 3) (s : State) : Result :=
  .next (strand s [d] fun s1 => fallThrough (writeX s1 d (dreg s1 n.toNat)))

/-! ## Fork, join and end -/

/-- A target of B format: PC + sext(off, 13) × 4 (R135). -/
def branchTarget (s : State) (o : BitVec 13) : Word := pcOf s + (o.signExtend 64 <<< 2)

/-- The entry of a FORK (R212). -/
def forkEntry (s : State) (a b : Reg) (o : BitVec 13) : DequeEntry :=
  { target := branchTarget s o, parent := curFrame s, arg := xr s a, tmpl := (xr s b).setWidth 14, idx := s.core.idx }

/-- FORK (R212). -/
def execFork (a b : Reg) (o : BitVec 13) (s : State) : Result :=
  .next (drained s [a, b] fun s1 =>
    if s1.core.regs.depth = 7 then raiseTrap s1 9 (sizeFault 3 7)
    else if (xr s1 b) >>> 14 ≠ 0 then raiseTrap s1 9 (sizeFault 5 (xr s1 b))
    else if inPhase s1 then raiseTrap s1 18 1
    else whenFlushed s1 fun s2 =>
      let e := forkEntry s2 a b o
      if Config.dequeDepth ≤ s2.core.sync.deque.length then runNested s2 e (pcOf s2 + 4) false retired
      else if !s2.core.q.sdq.isEmpty then stall s2
      else
        let s3 := release s2 s2.core.pos 0 allRegions
        let s4 := setSync s3 { s3.core.sync with deque := e :: s3.core.sync.deque }
        fallThrough (addChild s4 s4.core.vf e.parent 1))

/-- JOIN (R218). -/
def execJoin (s : State) : Result :=
  .next (drained s [] fun s1 =>
    if inPhase s1 then raiseTrap s1 18 1
    else whenFlushed s1 fun s2 =>
      match joinSteps s2 with
      | .done s3 => fallThrough s3
      | .ran s3 => s3
      | .wait s3 => setSync s3 { s3.core.sync with wait := some .join })

/-- END closes an open region of the strand or task that it ends (R401). -/
def closeRegion (s : State) : State := setSync s { s.core.sync with npr := false }

/-- END (R197, R219, R401). A strand's END waits for its copy commands before its frame leaves; a Leave waits for the SDQ (R361), and
where it retires the launch frame's children for the copies of its pages (R117). -/
def execEnd (s : State) : Result :=
  .next (drained s [] fun s1 =>
    if curEnt s1 then raiseTrap s1 9 (sizeFault 7 (BitVec.ofNat 64 s1.core.regs.depth))
    else whenFlushed s1 fun s2 =>
      match joinSteps s2 with
      | .ran s3 => s3
      | .wait s3 => setSync s3 { s3.core.sync with wait := some .join }
      | .done s3 =>
        if !s3.core.q.sdq.isEmpty || (s3.core.regs.depth = 2 && s3.core.sync.outstanding ≠ 0) then stall s3
        else
          let s4 := endFrame (closeRegion (retired s3))
          match rootCopies s3 s4 with
          | some s5 => stall s5
          | none => s4)

end Sys2Proof.Machine
end

