-- ==== Sys2Proof/Machine/Control.lean ====
section
/-!
DEFINITION. Machine/Control.lean: branches and jumps (R182 to R184), the loop unit's instructions (R185 to R190), LIDX (R193) and
the gates (R194 to R196).
-/

namespace Sys2Proof.Machine

/-! ## Branches and jumps -/

/-- A branch (R182): taken, or it falls through. -/
def branchIf (s : State) (c : Bool) (o : BitVec 13) : State :=
  if c then jumpTo s (branchTarget s o) else fallThrough s

/-- A branch on a comparison of two registers (R182). -/
def branch2 (s : State) (a b : Reg) (o : BitVec 13) (c : Word → Word → Bool) : Result :=
  .next (strand s [a, b] fun s1 => branchIf s1 (c (xr s1 a) (xr s1 b)) o)

/-- BEQ (R182). -/
def execBeq (a b : Reg) (o : BitVec 13) (s : State) : Result := branch2 s a b o fun x y => x == y
/-- BNE (R182). -/
def execBne (a b : Reg) (o : BitVec 13) (s : State) : Result := branch2 s a b o fun x y => x != y
/-- BLT (R182). -/
def execBlt (a b : Reg) (o : BitVec 13) (s : State) : Result := branch2 s a b o fun x y => x.slt y
/-- BGE (R182). -/
def execBge (a b : Reg) (o : BitVec 13) (s : State) : Result := branch2 s a b o fun x y => !x.slt y
/-- BLTU (R182). -/
def execBltu (a b : Reg) (o : BitVec 13) (s : State) : Result := branch2 s a b o fun x y => x.ult y
/-- BGEU (R182). -/
def execBgeu (a b : Reg) (o : BitVec 13) (s : State) : Result := branch2 s a b o fun x y => !x.ult y

/-- JAL (R183). -/
def execJal (d : Reg) (i : BitVec 18) (s : State) : Result :=
  .next (strand s [d] fun s1 => jumpTo (writeX s1 d (pcOf s1 + 4)) (pcOf s1 + (i.signExtend 64 <<< 2)))

/-- JALR (R183): the target is read before x(d) is written. -/
def execJalr (d a : Reg) (i : BitVec 13) (s : State) : Result :=
  .next (strand s [d, a] fun s1 =>
    let t := xr s1 a + i.signExtend 64
    if t.extractLsb' 0 2 ≠ 0 then raiseTrap s1 0 t else jumpTo (writeX s1 d (pcOf s1 + 4)) t)

/-- Waits until no older queued instruction that changes the mask stack or a k register is outstanding (R184). -/
def whenMasked (s : State) (k : State → State) : State :=
  match waitQueue (fun t => !(t.core.q.queue.any fun e => changesMask e.instr)) s with
  | .clear s1 => k s1
  | .trapped s1 => s1
  | .blocked s1 => stall s1

/-- BMZ (R184): taken when the mask-stack top is all zero. -/
def execBmz (o : BitVec 13) (s : State) : Result :=
  .next (strand s [] fun s0 => whenMasked s0 fun s1 => branchIf s1 (maskTop s1.core.vec.masks == 0) o)
/-- BMNZ (R184): taken when any bit of the mask-stack top is one. -/
def execBmnz (o : BitVec 13) (s : State) : Result :=
  .next (strand s [] fun s0 => whenMasked s0 fun s1 => branchIf s1 (maskTop s1.core.vec.masks != 0) o)

/-! ## Loops -/

/-- A loop setting (R186): N passes of a body of n words at level l, in st stages, bound to entry m. -/
def setLoop (s : State) (l : BitVec 3) (n : Nat) (st : Nat) (bind : Option (BitVec 3)) (body : Nat) : State :=
  let pc := pcOf s
  let len : Word := BitVec.ofNat 64 (4 * body)
  if n = 0 then jumpTo s (pc + 4 + len)
  else
    fallThrough (writeLoop s l.toNat
      { act := true, start := pc + 4, stop := pc + len, lc := BitVec.ofNat 64 (n + st - 1), count := BitVec.ofNat 64 n,
        stages := st, bind := bind, lvl := s.core.regs.level, stg := 1 })

/-- x(a)[47:0] as a loop count (R186). -/
def loopCountOf (s : State) (a : Reg) : Nat := ((xr s a).extractLsb' 0 48).toNat

/-- LOOP (R186). -/
def execLoop (n : BitVec 3) (a : Reg) (l : BitVec 12) (s : State) : Result :=
  .next (strand s [a] fun s1 => setLoop s1 n (loopCountOf s1 a) 1 none l.toNat)

/-- The trip count of a loop-table entry, 0 for an unused one (R42, R186). -/
def tripOf (s : State) (m : Nat) : Nat :=
  match myLaunch s with
  | some l => if loopKind (recLoop l.record m) = 0 then 0 else (l.trips[m]?).getD 0
  | none => 0

/-- LOOPT (R186). -/
def execLoopt (n m : BitVec 3) (l : BitVec 12) (s : State) : Result :=
  .next (strand s [] fun s1 => setLoop s1 n (tripOf s1 m.toNat) 1 (some m) l.toNat)

/-- LOOPS (R186, R189). -/
def execLoops (n : BitVec 3) (a : Reg) (st : BitVec 3) (l : BitVec 10) (s : State) : Result :=
  .next (strand s [a] fun s1 => setLoop s1 n (loopCountOf s1 a) (st.toNat + 1) none l.toNat)

/-- Ends level n and every active level above it (R188). -/
def endLevels (s : State) (n : Nat) : State :=
  (List.range 6).foldl (fun s k =>
    let l := loopAt s k
    if n ≤ k && l.act then writeLoop s k { l with act := false, lc := 0, stg := 0 } else s) s

/-- LBRK (R188). -/
def execLbrk (n : BitVec 3) (s : State) : Result :=
  .next (strand s [] fun s1 =>
    let l := loopAt s1 n.toNat
    if l.act then jumpTo (endLevels s1 n.toNat) (l.stop + 4) else fallThrough s1)

/-- BST (R190): taken when bit 8n + s of STGV is 0. -/
def execBst (st n : BitVec 3) (o : BitVec 13) (s : State) : Result :=
  .next (strand s [] fun s1 => branchIf s1 (!(stgv s1).getLsbD (8 * n.toNat + st.toNat)) o)

/-- The highest active level bound to an entry (R193). -/
def boundLevel (s : State) (m : BitVec 3) : Option LoopLevel :=
  (((List.range 6).reverse.map (loopAt s)).find? fun l => l.act && l.bind == some m)

/-- The value of LIDX (R193). -/
def lidxValue (s : State) (m : BitVec 3) : Word :=
  match myLaunch s with
  | none => 0
  | some l =>
    let e := recLoop l.record m.toNat
    if loopKind e = 1 || loopKind e = 2 then BitVec.ofInt 64 (((s.core.idx[m.toNat]?).getD 0 : Nat) * loopStep e)
    else if loopKind e = 3 then
      match boundLevel s m with
      | some v => BitVec.ofInt 64 (((v.count.toNat : Int) - v.lc.toNat) * loopStep e)
      | none => 0
    else 0

/-- LIDX (R193). -/
def execLidx (d : Reg) (m : BitVec 3) (s : State) : Result :=
  .next (strand s [d] fun s1 => fallThrough (writeX s1 d (lidxValue s1 m)))

/-! ## Gates -/

/-- The entries of the gate table: values above 256 act as 256 (R194). -/
def gateCount (s : State) : Nat := if 256 < s.core.trap.gtsize.toNat then 256 else s.core.trap.gtsize.toNat

/-- Is a gate entry malformed (R39)? -/
def gateMalformed (lo hi : Word) : Bool :=
  decide (lo.toNat % 4 ≠ 0) || decide (2 < (hi.extractLsb' 0 8).toNat) || decide (1 < (hi.extractLsb' 8 8).toNat) ||
    (hi.extractLsb' 16 48) != 0

/-- What reading a gate entry comes to (R195). -/
inductive GateRes where
  | ok (s : State) (lo hi : Word)
  | bad (s : State)
  | wait (s : State)
  deriving Repr

/-- Reads the 16 bytes of a gate entry under the rights of level 2, from the core's cache of entries when it holds them
(R195). -/
def readGate (s : State) (va : Word) : GateRes :=
  match s.core.gates.find? fun g => g.va == va with
  | some g => .ok s g.lo g.hi
  | none =>
    let r := translate s { s.core.who with level := 2 } va .r
    match r.2 with
    | .wait => .wait r.1
    | .fault _ => .bad r.1
    | .ok l =>
      let a := readAt r.1 l 8
      let b := readAt a.1 (l.add 8) 8
      if a.2.2.isSome || b.2.2.isSome then .bad b.1
      else
        let lo : Word := BitVec.ofNat 64 a.2.1
        let hi : Word := BitVec.ofNat 64 b.2.1
        .ok (if b.1.pace.gates then setCore b.1 { b.1.core with gates := ⟨va, lo, hi⟩ :: b.1.core.gates } else b.1) lo hi

/-- Passes the gate (R195). -/
def passGate (s : State) (g : BitVec 8) (lo hi : Word) : State :=
  let t := s.core.trap
  let push := hi.getLsbD 8
  let s1 := setTrap s { t with
    gepc := pcOf s + 4
    gPlv := s.core.regs.level
    gAct := true
    gMpush := push
    gIndex := g }
  let s2 := if push then setVec s1 { s1.core.vec with masks := BitVec.allOnes 64 :: s1.core.vec.masks } else s1
  let s3 := retired s2
  setRegs s3 { s3.core.regs with level := hi.extractLsb' 0 2, pc := lo }

/-- GATE (R195). -/
def execGate (g : BitVec 8) (s : State) : Result :=
  .next (drained s [] fun s1 =>
    let bad := fun (u : State) => raiseTrap u 8 (g.setWidth 64)
    if s1.core.trap.gAct || decide (gateCount s1 ≤ g.toNat) then bad s1
    else match readGate s1 (s1.core.trap.gtbase + BitVec.ofNat 64 (16 * g.toNat)) with
      | .wait s2 => stall s2
      | .bad s2 => bad s2
      | .ok s2 lo hi =>
        if gateMalformed lo hi || (hi.extractLsb' 0 2).ult s2.core.regs.level ||
            (hi.getLsbD 8 && decide (Config.maskDepth ≤ s2.core.vec.masks.length)) then bad s2
        else passGate s2 g lo hi)

/-- GRET (R196). -/
def execGret (s : State) : Result :=
  .next (drained s [] fun s1 =>
    let t := s1.core.trap
    if !t.gAct || s1.core.regs.level.ult t.gPlv || (t.gMpush && s1.core.vec.masks.isEmpty) then raiseTrap s1 8 256
    else
      let s2 := if t.gMpush then setVec s1 { s1.core.vec with masks := s1.core.vec.masks.drop 1 } else s1
      let s3 := setTrap (retired s2) { t with gPlv := 0, gAct := false, gMpush := false, gIndex := 0 }
      setRegs s3 { s3.core.regs with level := t.gPlv, pc := (t.gepc >>> 2) <<< 2 })

end Sys2Proof.Machine
end

