-- ==== Sys2Proof/Machine/SyncOps.lean ====
section
/-!
DEFINITION. Machine/SyncOps.lean: what the synchronisation instructions share: releases, the queue engines (R366, R390 to R395),
barriers (R396, R403) and the ranges of FENCE (R368).
-/

namespace Sys2Proof.Machine

/-- Waits until a release may run: the store buffer and the SDQ are empty and RRC = 0 (R361). -/
def whenReleasable (s : State) (k : State → State) : State :=
  whenFlushed s fun s1 => if s1.core.q.sdq.isEmpty then k s1 else stall s1

/-- A release of the core in focus (R361). -/
def releaseHere (s : State) (sc : Scope) (m : Word) : State := release s s.core.pos sc m

/-! ## Sync variables -/

/-- The word that a sync-variable place names. -/
def svKey (l : Loc) : Nat :=
  match l with
  | .glob k _ _ => k
  | .peer k _ _ => k
  | .bank k => k

/-- What the engine keeps of the leaf through which a variable was reached. -/
def svAttr (l : Loc) : Attr :=
  match l with
  | .glob _ pte _ => pteAttr pte
  | _ => Attr.plain

/-- Reads the variable at level(scope), after a registration of it there has been revoked (R366). A word that an earlier operation used at
another scope gives a free value (log 8). -/
def svRead (s : State) (l : Loc) (sc : Scope) : State × Word :=
  let r : State × Nat := match l with
    | .glob k pte _ => levelRead8 s s.core.pos (levelOf s s.core.pos sc) k (pteAttr pte)
    | .peer k _ _ => levelRead8 s s.core.pos .home k Attr.plain
    | .bank _ => (s, 0)
  let k := svKey l
  match r.1.svScopes.find? fun e => e.1 == k with
  | none => ({ r.1 with svScopes := r.1.svScopes ++ [(k, sc)] }, BitVec.ofNat 64 r.2)
  | some e =>
    if e.2 = sc then (r.1, BitVec.ofNat 64 r.2)
    else
      let f := nextFree r.1
      (f.1, Config.freeWord f.2)

/-- Does a request wait at an engine for a word, by SVWAIT? -/
def waitsFor (g : Engine) (key : Nat) (p : Parked) : Bool := !p.isLock && p.engine == g && homeKey p.fold p.pa == key

/-- Writes the variable at level(scope); the engine will test the word's parked requests (R366, R393). -/
def svWrite (s : State) (l : Loc) (sc : Scope) (v : Word) : State :=
  let s1 := match l with
    | .glob k pte _ => levelWrite8 s (levelOf s s.core.pos sc) k (pteAttr pte) v.toNat
    | .peer k _ _ => homeWriteWords s k 2 v.toNat
    | .bank _ => s
  let e := (engineOf s s.core.pos sc l, svKey l)
  if s1.svTests.contains e || !(s1.parked.any (waitsFor e.1 e.2)) then s1 else { s1 with svTests := s1.svTests ++ [e] }

/-- The request that an operation at a home makes: one of DEVICE scope counts (R128), one of SYSTEM scope is a packet alone, be it through a
peer window (R12, R126). -/
def svCount (s : State) (l : Loc) (sc : Scope) : State :=
  match l with
  | .glob k pte _ =>
    if sc = 2 then countHome s s.core.pos.die k (pteAttr pte) else if sc = 3 then sendHome s s.core.pos.die k (pteAttr pte) else s
  | .peer k pte _ => peerRequest s s.core.pos.die s.core.fold k pte
  | .bank _ => s

/-- What the checks of a sync variable come to (R392). -/
inductive SvRes where
  | ok (s : State) (l : Loc)
  | trap (s : State) (t : Trap)
  | wait (s : State)
  deriving Repr

/-- The checks of R392, in order: alignment, place and translation. -/
def svCheck (s : State) (va : Word) (sc : Scope) (acc : Access) : SvRes :=
  if va.toNat % 8 ≠ 0 then .trap s ⟨if acc = .r then 4 else 7, va⟩
  else if isWindow va then .trap s ⟨21, sizeFault 1 va⟩
  else
    let lf := leafFor s s.core.who va
    let far := match lf.2 with
      | .leaf pte _ _ => canonical va && (ptePlace pte == 4 || ptePlace pte == 5) && sc != 3
      | _ => false
    if far then .trap lf.1 ⟨21, sizeFault 1 va⟩
    else
      let r := translate lf.1 lf.1.core.who va acc
      match r.2 with
      | .wait => .wait r.1
      | .fault c => .trap r.1 ⟨c, va⟩
      | .ok l => if acc = .w && lacksAtomics r.1 r.1.core.who va then .trap r.1 ⟨6, va⟩ else .ok r.1 l

/-- A sync-variable instruction (R392): its checks, the release, and the operation with its acquire, for which it waits while every entry
of the engine is taken. -/
def svOp (s : State) (a : Reg) (acc : Access) (sc : Scope) (rel : Bool) (k : State → Loc → State) : State :=
  match svCheck s (xr s a) sc acc with
  | .trap s1 t => raiseTrap s1 t.code t.tval
  | .wait s1 => stall s1
  | .ok s1 l =>
    let go := fun (s2 : State) => if engineFull s2 (engineOf s2 s2.core.pos sc l) then stall s2 else k s2 l
    if rel then whenReleasable s1 fun s2 => go (releaseHere s2 sc allRegions)
    else go s1

/-- The acquire that fn asks for (R392). -/
def svAcquire (s : State) (sc : Scope) (acq : Bool) : State := if acq then acquire s allRegions sc else s

/-- An operation that reads the variable, may write it, and writes x(d) := old (R391). -/
def svRmw (s : State) (l : Loc) (d : Reg) (sc : Scope) (acq : Bool) (f : Word → Option Word) : State :=
  let r := svRead (svCount s l sc) l sc
  let s1 := match f r.2 with
    | some v => svWrite r.1 l sc v
    | none => r.1
  fallThrough (writeX (svAcquire s1 sc acq) d r.2)

/-- A condition of SVWAIT, both values signed (R391). -/
def svHolds (c : BitVec 2) (old x : Word) : Bool :=
  if c = 0 then old == x
  else if c = 1 then old != x
  else if c = 2 then !old.slt x
  else old.slt x

/-- The fold and PA of a place, for the engine's parked requests. -/
def svPlace (l : Loc) : Nat × Nat := (svKey l / 2 ^ 52, svKey l % 2 ^ 52)

/-- Parks a request at its engine (R393, R395). -/
def park (s : State) (l : Loc) (sc : Scope) (isLock : Bool) (w : Wait) : State :=
  let p := svPlace l
  let s1 := setSync s { s.core.sync with wait := some w }
  { s1 with parked := s1.parked ++ [⟨engineOf s s.core.pos sc l, s.core.pos, s.core.vf, p.1, p.2, isLock, svAttr l⟩] }

/-- Withdraws a core's parked request, its PC kept (R393, R399). -/
def unpark (s : State) (p : CorePos) : State := { s with parked := s.parked.filter fun q => q.core != p }

/-- The core in focus stops waiting. -/
def endWait (s : State) : State := setSync (unpark s s.core.pos) { s.core.sync with wait := none }

/-- Acts as a core and returns the focus (log 2). -/
def asCore (s : State) (p : CorePos) (f : State → State) : State := focusOn (f (focusOn s p)) s.core.pos

/-- The request that the core in focus has parked. -/
def myParked (s : State) : Option Parked := s.parked.find? fun p => p.core == s.core.pos

/-- A parked SVWAIT of the core in focus is tested after a write to its word: it completes when its condition holds (R393). One that a gang
switch has withdrawn, or is about to, does not (R412). -/
def testParked (s : State) : State :=
  match s.core.sync.wait, myParked s with
  | some (.svwait fold pa sc c x d acq), some p =>
    if switchStops s s.core then s
    else
      let r := levelRead8 s s.core.pos (levelOf s s.core.pos sc) (homeKey fold pa) p.attr
      let v : Word := BitVec.ofNat 64 r.2
      if svHolds c v x then fallThrough (writeX (svAcquire (endWait r.1) sc acq) d v) else r.1
  | _, _ => s

/-! ## Locks -/

/-- Does a record stand for the lock at a place, of an engine? -/
def isLock (g : Engine) (l : Loc) (k : Lock) : Bool := k.engine == g && k.fold == (svPlace l).1 && k.pa == (svPlace l).2

/-- The engine that serves a lock for the strand in focus. -/
def lockEngine (s : State) (l : Loc) (sc : Scope) : Engine := engineOf s s.core.pos sc l

/-- The record of a lock that is held. -/
def lockAt (s : State) (l : Loc) (sc : Scope) : Option Lock := s.locks.find? (isLock (lockEngine s l sc) l)

/-- Does the strand in focus hold a lock? -/
def holdsLock (s : State) (l : Loc) (sc : Scope) : Bool := (lockAt s l sc).any fun k => k.holder == s.core.pos && k.lid == s.core.lid

/-- Records the holder of a lock (R395). -/
def setHolder (s : State) (l : Loc) (sc : Scope) (p : CorePos) (lid : Word) : State :=
  let g := lockEngine s l sc
  { s with locks := upsert (isLock g l) ⟨g, (svPlace l).1, (svPlace l).2, p, lid⟩ s.locks }

/-- Drops the record of a lock. -/
def dropHolder (s : State) (l : Loc) (sc : Scope) : State :=
  { s with locks := s.locks.filter fun k => !isLock (lockEngine s l sc) l k }

/-- The oldest SVLOCK that waits in the FIFO of a lock (R395), and that no gang switch withdraws. -/
def nextLocker (s : State) (l : Loc) (sc : Scope) : Option Parked :=
  s.parked.find? fun p => p.isLock && p.engine == lockEngine s l sc && p.fold == (svPlace l).1 && p.pa == (svPlace l).2 &&
    !switchStops s (coreAt s p.core)

/-- An SVLOCK of the core in focus takes the lock and completes (R395). -/
def takeLock (s : State) (l : Loc) (sc : Scope) : State :=
  fallThrough (acquire (setHolder (endWait s) l sc s.core.pos s.core.lid) allRegions sc)

/-- The scope that a parked SVLOCK waits with. -/
def lockScope (s : State) : Scope :=
  match s.core.sync.wait with
  | some (.svlock _ _ sc) => sc
  | _ => 2

/-! ## Barriers -/

/-- The enabled cores of a barrier's domain (R396). -/
def domainCores (s : State) (l : Launch) (form : BitVec 2) (p : CorePos) : List CorePos :=
  if form = 0 then clusterCores s p.cluster
  else if form = 1 then (dieClusters s p.die).flatMap (clusterCores s)
  else match foldAt s l.fold with
    | some f => f.dies.flatMap fun d => (dieClusters s d).flatMap (clusterCores s)
    | none => []

/-- Does the domain hold strands of more than one wave (R396)? -/
def manyWaves (s : State) (l : Launch) (form : BitVec 2) (p : CorePos) : Bool :=
  (domainCores s l form p).any fun q => decide (1 < assigned s l q)

/-- Does a core still hold a strand of a launch? -/
def holdsStrand (s : State) (l : Launch) (q : CorePos) : Bool :=
  let c := coreAt s q
  c.occ == .strand && c.lid == l.lid && c.sync.wait != some .retiring

/-- Has every strand of the domain that has not ended arrived (R396)? -/
def allArrived (s : State) (l : Launch) (form : BitVec 2) (p : CorePos) : Bool :=
  (domainCores s l form p).all fun q =>
    if assigned s l q = 0 then true
    else if startedOn l q = 0 then false
    else if holdsStrand s l q then (coreAt s q).sync.arrived == some form && (coreAt s q).sync.passed.isNone
    else true

/-- A scope of a barrier form (R396): CLUSTER, DIE or DEVICE. -/
def barScope (form : BitVec 2) : Scope := form

/-- The strand in focus leaves a barrier: it acquires and goes on, with an open phase after SSTEP (R396, R403). -/
def leaveBarrier (s : State) (form : BitVec 2) (sstep : Bool) (c0 : Nat) : State :=
  let s1 := acquire s allRegions (barScope form)
  let y := s1.core.sync
  fallThrough (setSync s1 { y with
    wait := none
    arrived := none
    arrivedStep := false
    passed := none
    phase := if sstep then some c0 else y.phase })

/-- BAR and the barrier part of SSTEP (R396, R403). -/
def barrier (s : State) (form : BitVec 2) (sstep : Bool) : State :=
  let y := s.core.sync
  if y.arrived.isSome then
    match y.passed with
    | some c0 => leaveBarrier s form sstep c0
    | none => setSync s { y with wait := some (.barrier form sstep) }
  else match myLaunch s with
    | none => s
    | some l =>
      if manyWaves s l form s.core.pos then raiseTrap s 21 (sizeFault 4 0)
      else whenReleasable s fun s1 =>
        let s2 := releaseHere s1 (barScope form) allRegions
        setSync s2 { s2.core.sync with arrived := some form, arrivedStep := sstep, passed := none, wait := some (.barrier form sstep) }

/-- A task on a core that holds no strand (R396). -/
def isLoneTask (s : State) : Bool := s.core.occ == .task

/-! ## FENCE.RANGE -/

/-- A part of the 57-bit address space: first address and length. -/
abbrev Span := Nat × Nat

/-- The leaves that map part of a span, from a table at PA base whose range starts at lo0: (57-bit VA, log2 size, PA). -/
def leavesIn (s : State) (fold : Nat) (sp : Span) : List (Nat × Nat × Option Nat) → Nat → Nat → List (Nat × Nat × Nat)
  | [], _, _ => []
  | (shift, width, _) :: rest, base, lo0 =>
    let a := if sp.1 ≤ lo0 then 0 else (sp.1 - lo0) / 2 ^ shift
    let e := sp.1 + sp.2 - 1
    let n := if e < lo0 then 0 else (e - lo0) / 2 ^ shift + 1 - a
    let n1 := if 2 ^ width ≤ a then 0 else if 2 ^ width < a + n then 2 ^ width - a else n
    (List.range n1).flatMap fun i =>
      let k := a + i
      let pte := (homeRead8 s (homeKey fold (base + 8 * k))).2
      let va := lo0 + k * 2 ^ shift
      if !pteV pte then []
      else if pteSize pte = 3 then leavesIn s fold sp rest (ptePfn pte * 65536) va
      else [(va, leafBits (pteSize pte), ptePfn pte * 65536)]

/-- The home keys of the bytes of a VA range of a VF: (first key, length) pairs. -/
def rangeKeys (s : State) (vf : Nat) (base len : Nat) : List (Nat × Nat) :=
  match vfAt s vf with
  | none => []
  | some v =>
    let e := if base + len ≤ 2 ^ 64 then base + len else 2 ^ 64
    let half := 2 ^ 56
    let hi0 := 2 ^ 64 - half
    let lowS : List Span := if base < half then [(base, (if e < half then e else half) - base)] else []
    let highS : List Span := if hi0 < e then
        (let b := if base < hi0 then hi0 else base
         [(b - hi0 + half, e - b)])
      else []
    (lowS ++ highS).flatMap fun sp =>
      if sp.2 = 0 then []
      else (leavesIn s v.fold sp walkLevels v.root 0).map fun f =>
        let lo := if f.1 < sp.1 then sp.1 else f.1
        let hi := if f.1 + 2 ^ f.2.1 < sp.1 + sp.2 then f.1 + 2 ^ f.2.1 else sp.1 + sp.2
        (homeKey v.fold (f.2.2 + (lo - f.1)), hi - lo)

/-- Does the distance from b to a fit a field of w bits (R115)? -/
def deltaFits (w a b : Nat) : Bool := decide (-(2 ^ (w - 1) : Int) ≤ (a : Int) - b) && decide ((a : Int) - b < 2 ^ (w - 1))

/-- A two's-complement field of w bits that holds the distance from b to a. -/
def deltaField (w a b : Nat) : Nat := (BitVec.ofInt w ((a : Int) - b)).toNat

/-- Every local-window address, absolute or relative to core p, that names the byte of a bank key (R114, R115): CORE is ignored for a
scratchpad. -/
def windowNames (p : CorePos) (key : Nat) : List Nat :=
  let o := bankOwner key
  let at_ := fun (tag d x y c : Nat) => tag * 2 ^ 56 + d * 2 ^ 51 + x * 2 ^ 47 + y * 2 ^ 44 + c * 2 ^ 38 + key % 2 ^ 38
  let near := deltaFits 5 o.1.die p.die && deltaFits 4 o.1.cx p.cx && deltaFits 3 o.1.cy p.cy && (o.2 || deltaFits 6 o.1.core p.core)
  ((if o.2 then List.range 64 else [o.1.core]).map (at_ 0xFE o.1.die o.1.cx o.1.cy)) ++
    (if near then (if o.2 then List.range 64 else [deltaField 6 o.1.core p.core]).map
      (at_ 0xFD (deltaField 5 o.1.die p.die) (deltaField 4 o.1.cx p.cx) (deltaField 3 o.1.cy p.cy)) else [])

/-- Does a range of addresses name one of n bytes from a bank key? -/
def namesBank (p : CorePos) (base len key n : Nat) : Bool := (windowNames p key).any fun a => overlaps a n base len

/-- Does an outstanding command of the core in focus write into a range (R368)? -/
def fenceHeld (s : State) (base len : Nat) : Bool :=
  let p := s.core.pos
  (commandsOf s p).any fun k =>
    match k.trough with
    | none =>
      let d := destBox k
      if isWindow d.1 then namesBank p base len (absKey (resolveWindow p d.1)) d.2 else overlaps d.1.toNat d.2 base len
    | some q =>
      match k.slot with
      | some n =>
        let t := troughAt s p.cluster q
        namesBank p base len (slotKey p.cluster t (n % t.nslot)) Config.slotBytes
      | none => false

/-- Sets every Valid L1 word of a range to Invalid (R368). -/
def fenceRange (s : State) (base len : Nat) : State :=
  let ks := rangeKeys s s.core.vf base len
  { s with words := s.words.filter fun w =>
      !(w.level == .l1 s.core.pos && w.state == .valid && ks.any fun r => overlaps w.key 4 r.1 r.2) }

end Sys2Proof.Machine
end

