-- ==== Sys2Proof/Machine/SyncExec.lean ====
section
/-!
DEFINITION. Machine/SyncExec.lean: the class 3 instructions of synchronisation (R388 to R401, R403): ACQ, REL, FENCE, the sync
variables, BAR, SSTEP, TRIG, LAUNCH, INBOX, WFI, NPRB and NPRE. Each is a drain point.
-/

namespace Sys2Proof.Machine

/-- ACQ (R388). -/
def execAcq (a : Reg) (sc : BitVec 2) (s : State) : Result :=
  .next (drained s [a] fun s1 => fallThrough (acquire s1 (xr s1 a ||| 1) sc))
/-- REL (R388). -/
def execRel (a : Reg) (sc : BitVec 2) (s : State) : Result :=
  .next (drained s [a] fun s1 => whenReleasable s1 fun s2 => fallThrough (releaseHere s2 sc (xr s2 a ||| 1)))
/-- FENCE.RANGE (R368, R389). -/
def execFenceRange (a b : Reg) (s : State) : Result :=
  .next (drained s [a, b] fun s1 => whenFlushed s1 fun s2 =>
    if fenceHeld s2 (xr s2 a).toNat (xr s2 b).toNat then stall s2
    else fallThrough (fenceRange s2 (xr s2 a).toNat (xr s2 b).toNat))
/-- FENCE.REMOTE (R389). -/
def execFenceRemote (s : State) : Result := .next (drained s [] fun s1 => fallThrough (flushRemote s1))
/-- FENCE.ALL (R131, R389). -/
def execFenceAll (s : State) : Result :=
  .next (drained s [] fun s1 => whenFlushed s1 fun s2 =>
    fallThrough (setCore s2 { s2.core with icache := [], gates := [] }))

/-! ## Sync variables -/

/-- A read-modify-write of R391 that depends on old and x(b). -/
def sv3 (d a b : Reg) (l c : BitVec 1) (sc : BitVec 2) (f : Word → Word → Word) (s : State) : Result :=
  .next (drained s [d, a, b] fun s1 => svOp s1 a .w sc (l == 1) fun s2 loc =>
    svRmw s2 loc d sc (c == 1) fun old => some (f old (xr s2 b)))

/-- SVLD (R391). -/
def execSvld (d a : Reg) (l c : BitVec 1) (sc : BitVec 2) (s : State) : Result :=
  .next (drained s [d, a] fun s1 => svOp s1 a .r sc (l == 1) fun s2 loc => svRmw s2 loc d sc (c == 1) fun _ => none)
/-- SVST (R391). -/
def execSvst (a b : Reg) (l c : BitVec 1) (sc : BitVec 2) (s : State) : Result :=
  .next (drained s [a, b] fun s1 => svOp s1 a .w sc (l == 1) fun s2 loc =>
    svRmw s2 loc 0 sc (c == 1) fun _ => some (xr s2 b))
/-- SVADD (R391): I64 or F32. -/
def execSvadd (d a b : Reg) (u l c : BitVec 1) (sc : BitVec 2) (s : State) : Result :=
  sv3 d a b l c sc (fun old x => if u = 0 then old + x else foldOp 2 old x) s
/-- SVMAX (R391): I64, U64 or F32. -/
def execSvmax (d a b : Reg) (u : BitVec 2) (l c : BitVec 1) (sc : BitVec 2) (s : State) : Result :=
  sv3 d a b l c sc (fun old x =>
    if u = 0 then (if old.slt x then x else old) else if u = 1 then (if old.ult x then x else old) else foldOp 4 old x) s
/-- SVMIN (R391): I64, U64 or F32. -/
def execSvmin (d a b : Reg) (u : BitVec 2) (l c : BitVec 1) (sc : BitVec 2) (s : State) : Result :=
  sv3 d a b l c sc (fun old x =>
    if u = 0 then (if x.slt old then x else old) else if u = 1 then (if x.ult old then x else old) else foldOp 6 old x) s
/-- SVAND (R391). -/
def execSvand (d a b : Reg) (l c : BitVec 1) (sc : BitVec 2) (s : State) : Result :=
  sv3 d a b l c sc (fun old x => old &&& x) s
/-- SVOR (R391). -/
def execSvor (d a b : Reg) (l c : BitVec 1) (sc : BitVec 2) (s : State) : Result :=
  sv3 d a b l c sc (fun old x => old ||| x) s
/-- SVSWAP (R391, R394). -/
def execSvswap (d a b : Reg) (l c : BitVec 1) (sc : BitVec 2) (s : State) : Result :=
  sv3 d a b l c sc (fun _ x => x) s
/-- SVCAS (R391): x(b) is stored when old = x(d). -/
def execSvcas (d a b : Reg) (l c : BitVec 1) (sc : BitVec 2) (s : State) : Result :=
  .next (drained s [d, a, b] fun s1 => svOp s1 a .w sc (l == 1) fun s2 loc =>
    svRmw s2 loc d sc (c == 1) fun old => if old = xr s2 d then some (xr s2 b) else none)

/-- SVWAIT (R391, R393): it completes when the condition holds, else it parks at the engine. -/
def execSvwait (d a b : Reg) (u : BitVec 2) (l c : BitVec 1) (sc : BitVec 2) (s : State) : Result :=
  .next (drained s [d, a, b] fun s1 => svOp s1 a .r sc (l == 1) fun s2 loc =>
    let r := svRead (svCount s2 loc sc) loc sc
    let x := xr s2 b
    if svHolds u r.2 x then fallThrough (writeX (svAcquire r.1 sc (c == 1)) d r.2)
    else park r.1 loc sc false (.svwait (svPlace loc).1 (svPlace loc).2 sc u x d (c == 1)))

/-- SVLOCK (R395). -/
def execSvlock (a : Reg) (sc : BitVec 2) (s : State) : Result :=
  .next (drained s [a] fun s1 => svOp s1 a .w sc false fun s2 loc =>
    let r := svRead (svCount s2 loc sc) loc sc
    if r.2 = 0 then takeLock (svWrite r.1 loc sc 1) loc sc
    else if holdsLock r.1 loc sc then raiseTrap r.1 21 (sizeFault 3 (xr s2 a))
    else park r.1 loc sc true (.svlock (svPlace loc).1 (svPlace loc).2 sc))

/-- SVUNLOCK (R395): the oldest waiter takes the lock, or the variable becomes 0. -/
def execSvunlock (a : Reg) (sc : BitVec 2) (s : State) : Result :=
  .next (drained s [a] fun s1 => svOp s1 a .w sc false fun s2 loc =>
    let r := svRead (svCount s2 loc sc) loc sc
    if !holdsLock r.1 loc sc then raiseTrap r.1 21 (sizeFault 2 (xr s2 a))
    else whenReleasable r.1 fun s3 =>
      let s4 := releaseHere s3 sc allRegions
      match nextLocker s4 loc sc with
      | some p => fallThrough (asCore s4 p.core fun u => takeLock u loc (lockScope u))
      | none => fallThrough (svWrite (dropHolder s4 loc sc) loc sc 0))

/-! ## Barriers, triggers and launches -/

/-- BAR of a form (R396). -/
def barOp (form : BitVec 2) (s : State) : Result :=
  .next (drained s [] fun s1 =>
    if inPhase s1 then raiseTrap s1 21 (sizeFault 10 0)
    else if isLoneTask s1 then raiseTrap s1 21 (sizeFault 11 0)
    else barrier s1 form false)

/-- BAR.CLUSTER (R396). -/
def execBarCluster (s : State) : Result := barOp 0 s
/-- BAR.DIE (R396). -/
def execBarDie (s : State) : Result := barOp 1 s
/-- BAR.LAUNCH (R396). -/
def execBarLaunch (s : State) : Result := barOp 2 s

/-- SSTEP (R403): an open phase closes, then the barrier over the launch, which opens the next. A core that the phase alone has kept
from a gang switch stops between the two, and issues the SSTEP again after restore (R416). -/
def execSstep (s : State) : Result :=
  .next (drained s [] fun s1 =>
    if !((myLaunch s1).any fun l => recSstep l.record) then raiseTrap s1 21 (sizeFault 5 0)
    else if isLoneTask s1 then raiseTrap s1 21 (sizeFault 11 0)
    else
      let s2 := setSync s1 { s1.core.sync with phase := none }
      if inPhase s1 && switchDue s1 s1.core && !s1.core.sync.npr then s2 else barrier s2 2 true)

/-- TRIG (R397). -/
def execTrig (s : State) : Result :=
  .next (drained s [] fun s1 =>
    match myLaunch s1 with
    | none => fallThrough s1
    | some l =>
      if !recTrigexp l.record then raiseTrap s1 21 (sizeFault 6 0)
      else if isLoneTask s1 then raiseTrap s1 21 (sizeFault 11 0)
      else whenReleasable s1 fun s2 =>
        let s3 := releaseHere s2 2 l.record.treg
        if s3.core.sync.triggered then fallThrough s3
        else fallThrough (triggerDec (setSync s3 { s3.core.sync with triggered := true }) l.lid 1 false))

/-- PRIO of the record at a VA, as the strand may read it (R398). -/
def readPrio (s : State) (va : Word) : State × Option Nat :=
  if va.toNat % 256 ≠ 0 then (s, none)
  else match probe s s.core.who va .r with
    | some (.glob k _ _) | some (.peer k _ _) =>
      let r := homeRead4 s k
      (r.1, if r.2.2 then none else some (r.2.1.toNat / 2 ^ 24))
    | _ => (s, none)

/-- LAUNCH (R398). It waits while a page that the append writes is being copied (R117). -/
def execLaunch (d a : Reg) (s : State) : Result :=
  .next (drained s [d, a] fun s1 => whenReleasable s1 fun s2 =>
    let s3 := releaseHere s2 2 allRegions
    let va := xr s3 a
    let r := readPrio s3 va
    match r.2.bind fun p => appendWaits r.1 r.1.core.vf p va with
    | some s4 => stall s4
    | none =>
      match r.2.bind fun p => append r.1 r.1.core.vf p va with
      | some q => fallThrough (writeX q.1 d q.2)
      | none => fallThrough (writeX r.1 d 0))

/-! ## Inbox, waiting and regions -/

/-- The dequeue of an INBOX, or none while its source is empty (R399). -/
def inboxTake (s : State) (d : Reg) (drv : Bool) : Option State :=
  if drv then
    s.core.sync.drvmsg.map fun v => fallThrough (writeX (setSync s { s.core.sync with drvmsg := none }) d v)
  else match s.core.sync.inbox with
    | [] => none
    | m :: t => some (fallThrough (writeX (dequeue s m t) d m.value))

/-- INBOX.WAIT (R399). -/
def execInboxWait (d : Reg) (v : BitVec 1) (s : State) : Result :=
  .next (drained s [d] fun s1 =>
    match inboxTake s1 d (v == 1) with
    | some s2 => s2
    | none =>
      if v = 0 && s1.core.sync.outstanding = 0 then raiseTrap s1 21 (sizeFault 7 0)
      else setSync s1 { s1.core.sync with wait := some (.inbox d (v == 1)) })

/-- INBOX.POLL (R399). -/
def execInboxPoll (d : Reg) (v : BitVec 1) (s : State) : Result :=
  .next (drained s [d] fun s1 =>
    match inboxTake s1 d (v == 1) with
    | some s2 => s2
    | none => fallThrough (writeX s1 d (BitVec.allOnes 64)))

/-- Is interrupt code c pending (R155)? -/
def pendingCode (s : State) (c : Nat) : Bool :=
  let y := s.core.sync
  let t := s.core.trap.tcmp
  if c = 1 then y.drvmsg.isSome
  else if c = 2 then !y.inbox.isEmpty
  else if c = 3 then t != 0 && decide (t.toNat ≤ (timeOf s).toNat)
  else if c = 4 then y.notice
  else false

/-- IPEND: bit c − 1 is interrupt code c (R151). -/
def ipend (s : State) : BitVec 4 :=
  BitVec.ofNat 4 ((if pendingCode s 1 then 1 else 0) + (if pendingCode s 2 then 2 else 0) + (if pendingCode s 3 then 4 else 0) +
    (if pendingCode s 4 then 8 else 0))

/-- WFI (R400). -/
def execWfi (s : State) : Result :=
  .next (drained s [] fun s1 =>
    if s1.core.trap.ien = 0 || (ipend s1 &&& s1.core.trap.ien) != 0 then fallThrough s1
    else setSync s1 { s1.core.sync with wait := some .wfi })

/-- NPRB (R401). -/
def execNprb (s : State) : Result :=
  .next (drained s [] fun s1 =>
    if s1.core.sync.npr || inPhase s1 then raiseTrap s1 21 (sizeFault 8 0)
    else fallThrough (setSync s1 { s1.core.sync with npr := true }))

/-- NPRE (R401). -/
def execNpre (s : State) : Result :=
  .next (drained s [] fun s1 =>
    if s1.core.sync.npr then fallThrough (setSync s1 { s1.core.sync with npr := false })
    else raiseTrap s1 21 (sizeFault 9 0))

end Sys2Proof.Machine
end

