-- ==== Sys2Proof/Machine/Csr.lean ====
section
/-!
DEFINITION. Machine/Csr.lean: the CSRs (R127, R147 to R153, R168, R185, R194, R287, R293, R338, R418) and CSRR, CSRW, CSRS and
CSRC.
-/

namespace Sys2Proof.Machine

/-! ## Reading -/

/-- VCP (R168): the slot of the oldest outstanding instruction, and how many are outstanding. Slots follow the enqueue count. -/
def vcpOf (s : State) : Word :=
  let q := s.core.q
  let idx := match q.queue with
    | e :: _ => e.seq % 64
    | [] => q.qnext % 64
  BitVec.ofNat 64 (idx + q.queue.length * 2 ^ 8)

/-- CYCLE (R153). -/
def cycleOf (s : State) : Word := BitVec.ofNat 64 s.now - s.core.regs.cycleBase

/-- COREID (R153). -/
def coreIdOf (p : CorePos) : Word := BitVec.ofNat 64 (p.core + p.cy * 2 ^ 6 + p.cx * 2 ^ 9 + p.die * 2 ^ 13)

/-- STATUS (R151). -/
def statusOf (s : State) : Word :=
  let t := s.core.trap
  BitVec.ofNat 64 (t.plv.toNat + (if t.ie then 4 else 0) + (if t.pie then 8 else 0) + (if t.inh then 16 else 0) +
    t.ien.toNat * 2 ^ 8 + (ipend s).toNat * 2 ^ 12)

/-- GSTATUS (R194). -/
def gstatusOf (t : TrapRegs) : Word :=
  BitVec.ofNat 64 (t.gPlv.toNat + (if t.gAct then 4 else 0) + (if t.gMpush then 8 else 0) + t.gIndex.toNat * 2 ^ 8)

/-- The value of a CSR, or none for an unassigned address (R150). -/
def csrRead (s : State) (c : Nat) : Option Word :=
  let g := s.core.regs
  let t := s.core.trap
  let q := s.core.q
  if c = 0x000 then some (g.mode.setWidth 64)
  else if c = 0x001 then some (g.fflags.setWidth 64)
  else if c = 0x002 then some g.srseed
  else if c = 0x003 then some (vcpOf s)
  else if c = 0x004 then some (BitVec.ofNat 64 q.remote.length)
  else if c = 0x005 then some (q.rseq.setWidth 64)
  else if c = 0x006 then some g.lanedone
  else if c = 0x007 then some (g.tau.setWidth 64)
  else if c = 0x008 then some (g.gflim.setWidth 64)
  else if 0x010 ≤ c && c ≤ 0x015 then some (loopAt s (c - 0x010)).lc
  else if c = 0x016 then some (stgv s)
  else if c = 0x020 then some (cycleOf s)
  else if c = 0x021 then some g.instret
  else if c = 0x022 then some (timeOf s)
  else if c = 0x030 then some (dieAt s s.core.pos.die).hreql
  else if c = 0x031 then some (dieAt s s.core.pos.die).hreqr
  else if c = 0x040 then some (coreIdOf s.core.pos)
  else if c = 0x041 then some s.core.lid
  else if c = 0x100 then some (gstatusOf t)
  else if c = 0x101 then some t.gepc
  else if c = 0x200 then some (statusOf s)
  else if c = 0x201 then some t.tvec
  else if c = 0x202 then some t.epc
  else if c = 0x203 then some t.cause
  else if c = 0x204 then some t.tval
  else if c = 0x205 then some t.scratch
  else if c = 0x206 then some t.gtbase
  else if c = 0x207 then some (t.gtsize.setWidth 64)
  else if c = 0x208 then some (t.nprlim.setWidth 64)
  else if c = 0x209 then some (t.emode.setWidth 64)
  else if c = 0x20A then some (t.emaskd.setWidth 64)
  else if c = 0x20B then some t.tcmp
  else none

/-! ## Writing -/

/-- A word with its low bits cleared. -/
def alignTo (v : Word) (n : Nat) : Word := (v >>> n) <<< n

/-- Writes LCn (R185). -/
def writeLc (s : State) (n : Nat) (v : Word) : State := writeLoop s n { loopAt s n with lc := v }

/-- Writes STGV: an active level keeps its stages, an inactive one ignores the write (R185). -/
def writeStgv (s : State) (v : Word) : State :=
  (List.range 6).foldl (fun s n =>
    let l := loopAt s n
    if l.act then writeLoop s n { l with stg := v.extractLsb' (8 * n) 8 &&& BitVec.ofNat 8 (2 ^ l.stages - 1) } else s) s

/-- Writes LANEDONE; zero drops an LDQ entry that a Rollback kept (R254, R287). -/
def writeLanedone (s : State) (v : Word) : State :=
  let s1 := setLanedone s v
  if v = 0 then dropOrphans s1 else s1

/-- Writes GSTATUS (R194). -/
def writeGstatus (s : State) (v : Word) : State :=
  let t := s.core.trap
  setTrap s { t with
    gPlv := v.extractLsb' 0 2
    gAct := v.getLsbD 2
    gMpush := v.getLsbD 3
    gIndex := v.extractLsb' 8 8 }

/-- Writes STATUS: INH and IPEND are read-only (R151). -/
def writeStatus (s : State) (v : Word) : State :=
  let t := s.core.trap
  setTrap s { t with
    plv := v.extractLsb' 0 2
    ie := v.getLsbD 2
    pie := v.getLsbD 3
    ien := v.extractLsb' 8 4 }

/-- Writes a CSR; a read-only one ignores the write (R3, R147). -/
def csrWrite (s : State) (c : Nat) (v : Word) : State :=
  let g := s.core.regs
  let t := s.core.trap
  if c = 0x000 then setRegs s { g with mode := v.extractLsb' 0 18 }
  else if c = 0x001 then setRegs s { g with fflags := v.extractLsb' 0 6 }
  else if c = 0x002 then setRegs s { g with srseed := v }
  else if c = 0x006 then writeLanedone s v
  else if c = 0x007 then setRegs s { g with tau := v.extractLsb' 0 56 }
  else if c = 0x008 then setRegs s { g with gflim := v.extractLsb' 0 56 }
  else if 0x010 ≤ c && c ≤ 0x015 then writeLc s (c - 0x010) v
  else if c = 0x016 then writeStgv s v
  else if c = 0x020 then setRegs s { g with cycleBase := BitVec.ofNat 64 s.now - v }
  else if c = 0x021 then setRegs s { g with instret := v }
  else if c = 0x100 then writeGstatus s v
  else if c = 0x101 then setTrap s { t with gepc := alignTo v 2 }
  else if c = 0x200 then writeStatus s v
  else if c = 0x201 then setTrap s { t with tvec := alignTo v 2 }
  else if c = 0x202 then setTrap s { t with epc := alignTo v 2 }
  else if c = 0x203 then setTrap s { t with cause := v }
  else if c = 0x204 then setTrap s { t with tval := v }
  else if c = 0x205 then setTrap s { t with scratch := v }
  else if c = 0x206 then setTrap s { t with gtbase := alignTo v 4 }
  else if c = 0x207 then setTrap s { t with gtsize := v.extractLsb' 0 9 }
  else if c = 0x208 then setTrap s { t with nprlim := v.extractLsb' 0 32 }
  else if c = 0x209 then setTrap s { t with emode := v.extractLsb' 0 18 }
  else if c = 0x20A then setTrap s { t with emaskd := v.extractLsb' 0 5 }
  else if c = 0x20B then setTrap s { t with tcmp := v }
  else s

/-! ## The instructions -/

/-- Is an access to a CSR address illegal at the strand's level: reserved bits, no register, or too low a level (R147)? -/
def csrBad (s : State) (c : BitVec 13) : Bool :=
  c.extractLsb' 10 3 != 0 || (csrRead s c.toNat).isNone || s.core.regs.level.ult (c.extractLsb' 8 2)

/-- Would a write put an illegal mode word into MODE (R147)? -/
def modeWriteBad (c : BitVec 13) (v : Word) : Bool := c == 0 && modeIllegal (v.extractLsb' 0 18)

/-- The instruction that writes INSTRET does not count itself: INSTRET then holds the value written (R153, log 29). -/
def keepWritten (c : BitVec 13) (v : Word) (s : State) : State :=
  if c = 0x021 then setRegs s { s.core.regs with instret := v } else s

/-- A CSR access that writes v(old), or nothing (R148). -/
def csrAccess (s : State) (w : Word) (d : Reg) (c : BitVec 13) (v : Option (Word → Word)) : State :=
  if csrBad s c then raiseTrap s 2 w
  else
    let old := (csrRead s c.toNat).getD 0
    match v with
    | none => fallThrough (writeX s d old)
    | some f =>
      if modeWriteBad c (f old) then raiseTrap s 2 w
      else keepWritten c (f old) (fallThrough (writeX (csrWrite s c.toNat (f old)) d old))

/-- Is a read of a CSR a drain point (R149)? -/
def drainsOnRead (c : BitVec 13) : Bool := c == 1 || c == 2 || c == 6

/-- A CSR read (R148, R149). -/
def csrReadOp (w : Word) (d : Reg) (c : BitVec 13) (s : State) : Result :=
  if drainsOnRead c then .next (drained s [d] fun s1 => csrAccess s1 w d c none)
  else .next (strand s [d] fun s1 => csrAccess s1 w d c none)

/-- CSRR (R148). -/
def execCsrr (d : Reg) (c : BitVec 13) (s : State) : Result := csrReadOp (wordOf (.csrr d c)) d c s
/-- CSRW (R148). -/
def execCsrw (d a : Reg) (c : BitVec 13) (s : State) : Result :=
  .next (drained s [d, a] fun s1 => csrAccess s1 (wordOf (.csrw d a c)) d c (some fun _ => xr s1 a))
/-- CSRS (R148): with a = 0 it only reads. -/
def execCsrs (d a : Reg) (c : BitVec 13) (s : State) : Result :=
  if a = 0 then csrReadOp (wordOf (.csrs d a c)) d c s
  else .next (drained s [d, a] fun s1 => csrAccess s1 (wordOf (.csrs d a c)) d c (some fun o => o ||| xr s1 a))
/-- CSRC (R148): with a = 0 it only reads. -/
def execCsrc (d a : Reg) (c : BitVec 13) (s : State) : Result :=
  if a = 0 then csrReadOp (wordOf (.csrc d a c)) d c s
  else .next (drained s [d, a] fun s1 => csrAccess s1 (wordOf (.csrc d a c)) d c (some fun o => o &&& ~~~xr s1 a))

end Sys2Proof.Machine
end

