-- ==== Sys2Proof/Machine/EngineExec.lean ====
section
/-!
DEFINITION. Machine/EngineExec.lean: the strand's side of class 7: copy engines and exchange (R305, R312, R404 to R406). Each instruction is checked and enqueued (R138, R161); its effect is that of Machine/Queue.lean at its turn.
-/

namespace Sys2Proof.Machine

/-- CPY (R305). -/
def execCpy (a : Reg) (b : Reg) (sf : BitVec 2) (s : State) : Result := .next (enqueue s (.cpy a b sf))
/-- CPYQ (R305). -/
def execCpyq (a : Reg) (b : Reg) (sf : BitVec 2) (s : State) : Result := .next (enqueue s (.cpyq a b sf))
/-- ENGST_CNT (R312). -/
def execEngstCnt (d : Reg) (s : State) : Result := .next (enqueue s (.engstCnt d))
/-- ENGST_FVA (R312). -/
def execEngstFva (d : Reg) (s : State) : Result := .next (enqueue s (.engstFva d))
/-- XSEND (R404). -/
def execXsend (a : Reg) (b : Reg) (s : State) : Result := .next (enqueue s (.xsend a b))
/-- XSEL (R405). -/
def execXsel (d : Reg) (a : Reg) (s : State) : Result := .next (enqueue s (.xsel d a))
/-- XEND (R406). -/
def execXend (s : State) : Result := .next (enqueue s (.xend))

end Sys2Proof.Machine
end

