-- ==== Sys2Proof/Machine/MatrixExec.lean ====
section
/-!
DEFINITION. Machine/MatrixExec.lean: the strand's side of class 6: the matrix engine, the troughs and factorising (R314, R315, R325 to R331, R339 to R350). Each instruction is checked and enqueued (R138, R161); its effect is that of Machine/Queue.lean at its turn.
-/

namespace Sys2Proof.Machine

/-- MROW (R325). -/
def execMrow (t : BitVec 3) (x : Reg) (v : Reg) (q : BitVec 2) (k : BitVec 3) (r : BitVec 1) (s : State) : Result := .next (enqueue s (.mrow t x v q k r))
/-- MROWP (R325). -/
def execMrowp (t : BitVec 3) (x : Reg) (v : Reg) (q : BitVec 2) (k : BitVec 3) (r : BitVec 1) (s : State) : Result := .next (enqueue s (.mrowp t x v q k r))
/-- MROWZ (R325). -/
def execMrowz (t : BitVec 3) (x : Reg) (v : Reg) (q : BitVec 2) (k : BitVec 3) (r : BitVec 1) (s : State) : Result := .next (enqueue s (.mrowz t x v q k r))
/-- MROWZP (R325). -/
def execMrowzp (t : BitVec 3) (x : Reg) (v : Reg) (q : BitVec 2) (k : BitVec 3) (r : BitVec 1) (s : State) : Result := .next (enqueue s (.mrowzp t x v q k r))
/-- TZERO (R326). -/
def execTzero (t : BitVec 3) (s : State) : Result := .next (enqueue s (.tzero t))
/-- TLOAD (R327). -/
def execTload (t : BitVec 3) (x : Reg) (v : Reg) (k : BitVec 3) (s : State) : Result := .next (enqueue s (.tload t x v k))
/-- TSTORE (R328). -/
def execTstore (t : BitVec 3) (x : Reg) (v : Reg) (k : BitVec 3) (s : State) : Result := .next (enqueue s (.tstore t x v k))
/-- TMOVV (R329). -/
def execTmovv (t : BitVec 3) (x : Reg) (v : Reg) (s : State) : Result := .next (enqueue s (.tmovv t x v))
/-- TVMOV (R330). -/
def execTvmov (t : BitVec 3) (x : Reg) (v : Reg) (s : State) : Result := .next (enqueue s (.tvmov t x v))
/-- TSTAT (R331). -/
def execTstat (t : BitVec 3) (x : Reg) (s : State) : Result := .next (enqueue s (.tstat t x))
/-- TRCFG (R314). -/
def execTrcfg (x : Reg) (v : Reg) (q : BitVec 2) (s : State) : Result := .next (enqueue s (.trcfg x v q))
/-- TRPOP (R315). -/
def execTrpop (q : BitVec 2) (s : State) : Result := .next (enqueue s (.trpop q))
/-- TRSTAT (R315). -/
def execTrstat (x : Reg) (q : BitVec 2) (s : State) : Result := .next (enqueue s (.trstat x q))
/-- FBEGIN (R339). -/
def execFbegin (k : BitVec 3) (s : State) : Result := .next (enqueue s (.fbegin k))
/-- FCOL (R341). -/
def execFcol (x : Reg) (s : State) : Result := .next (enqueue s (.fcol x))
/-- FCOLN (R349). -/
def execFcoln (x : Reg) (g : BitVec 2) (s : State) : Result := .next (enqueue s (.fcoln x g))
/-- NGJOIN (R348). -/
def execNgjoin (x : Reg) (g : BitVec 2) (s : State) : Result := .next (enqueue s (.ngjoin x g))
/-- NGLEAVE (R350). -/
def execNgleave (g : BitVec 2) (s : State) : Result := .next (enqueue s (.ngleave g))
/-- FEND (R340). -/
def execFend (s : State) : Result := .next (enqueue s (.fend))
/-- FMAPRD (R343). -/
def execFmaprd (t : BitVec 3) (x : Reg) (s : State) : Result := .next (enqueue s (.fmaprd t x))
/-- RDPH (R343). -/
def execRdph (x : Reg) (s : State) : Result := .next (enqueue s (.rdph x))
/-- RDGF (R343). -/
def execRdgf (x : Reg) (s : State) : Result := .next (enqueue s (.rdgf x))
/-- TPERM (R345). -/
def execTperm (t : BitVec 3) (s : State) : Result := .next (enqueue s (.tperm t))

end Sys2Proof.Machine
end

