-- ==== Sys2Proof/Machine/Flags.lean ====
section
/-!
DEFINITION. Machine/Flags.lean: the exception flags of the scalar FP32 instructions (R166, R177, R235) and their draws from the
generator (R181, R233).
-/

namespace Sys2Proof.Machine

/-- Flags of a scalar FP32 instruction: held in its undo entry while a queued instruction is outstanding, else merged at once
(R166, R177). own says that the instruction has taken an entry for another item; without one the flags take an entry. -/
def scalarFlags (s : State) (f : Flags) (own : Bool) : State :=
  if f = 0 then s
  else if s.core.q.queue.isEmpty then setRegs s { s.core.regs with fflags := s.core.regs.fflags ||| f }
  else
    let s1 := if own then s else pushUndo s .flagsOnly
    setQ s1 { s1.core.q with undo := holdFlags f s1.core.q.undo }

/-- Is a queued instruction outstanding that draws (R181)? -/
def drawsOutstanding (s : State) : Bool := s.core.q.queue.any fun e => drawsUnder e.mode e.instr

/-- The draw of a scalar FP32 instruction under SR (R181): the state and its 16 random bits. -/
def scalarDraw (s : State) (rounds : Bool) : State × Nat :=
  if rounds && mSr s.core.regs.mode then
    let r := xorshift s.core.regs.srseed
    let s1 := pushUndo s (.srseed s.core.regs.srseed)
    (setRegs s1 { s1.core.regs with srseed := r }, drawBits r)
  else (s, 0)

/-- Waits, under SR, until no older queued instruction that draws is outstanding (R181). -/
def whenDrawn (s : State) (rounds : Bool) (k : State → State) : State :=
  if rounds && mSr s.core.regs.mode then
    match waitQueue (fun t => !drawsOutstanding t) s with
    | .clear s1 => k s1
    | .trapped s1 => s1
    | .blocked s1 => stall s1
  else k s

end Sys2Proof.Machine
end

