-- ==== Sys2Proof/Machine/ScalarFp.lean ====
section
/-!
DEFINITION. Machine/ScalarFp.lean: the scalar FP32 instructions of class 0 (R177 to R181).
-/

namespace Sys2Proof.Machine

/-- A scalar FP32 instruction (R177): f gives the result and flags from the state and the random bits; rounds says that it takes
a draw under SR (R181). -/
def fp (s : State) (d : Reg) (rs : List Reg) (rounds : Bool) (f : State → Nat → Nat × Flags) : Result :=
  .next (strand s (d :: rs) fun s0 => whenDrawn s0 rounds fun s1 =>
    let w := scalarDraw s1 rounds
    let r := f s1 w.2
    fallThrough (scalarFlags (writeX w.1 d (BitVec.ofNat 64 r.1)) r.2 (d != 0 || (rounds && mSr s1.core.regs.mode))))

/-- The low 32 bits of a register. -/
def lo32 (x : Word) : Nat := x.toNat % 2 ^ 32

/-- RM of MODE as it stands (R145). -/
def rmNow (s : State) : Nat := mRm s.core.regs.mode
/-- SAT of MODE as it stands (R145). -/
def satNow (s : State) : Bool := mSat s.core.regs.mode

/-- An arithmetic instruction rounded to FP32 once (R177, R178). -/
def fpArith (s : State) (d : Reg) (rs : List Reg) (f : State → Ex × Flags) : Result :=
  fp s d rs true fun t rnd =>
    let v := f t
    let r := roundTo fp32 (rmNow t) (satNow t) rnd v.1
    let sn := rs.any fun q => fp32.snan (lo32 (xr t q))
    (r.1, r.2 ||| v.2 ||| flagIf sn flagNV)

/-- The FP32 value of a register. -/
def f32 (s : State) (r : Reg) : Ex := fp32.decode (lo32 (xr s r))

/-- FADD (R178). -/
def execFadd (d a b : Reg) (s : State) : Result := fpArith s d [a, b] fun t => exAdd (rmNow t) (f32 t a) (f32 t b)
/-- FSUB (R178). -/
def execFsub (d a b : Reg) (s : State) : Result := fpArith s d [a, b] fun t => exAdd (rmNow t) (f32 t a) (f32 t b).negate
/-- FMUL (R178). -/
def execFmul (d a b : Reg) (s : State) : Result := fpArith s d [a, b] fun t => exMul (f32 t a) (f32 t b)
/-- FDIV (R178). -/
def execFdiv (d a b : Reg) (s : State) : Result := fpArith s d [a, b] fun t => exDiv (f32 t a) (f32 t b)
/-- FMA (R178): a × b + d, one rounding. -/
def execFma (d a b : Reg) (s : State) : Result :=
  fpArith s d [a, b, d] fun t =>
    let m := exMul (f32 t a) (f32 t b)
    let r := exAdd (rmNow t) m.1 (f32 t d)
    (r.1, m.2 ||| r.2)
/-- FSQRT (R178). -/
def execFsqrt (d a : Reg) (s : State) : Result := fpArith s d [a] fun t => exSqrt (f32 t a)

/-- FMIN and FMAX (R179): no rounding and no draw. -/
def fpPick (s : State) (d a b : Reg) (f : Ex → Ex → Ex) : Result :=
  fp s d [a, b] false fun t _ =>
    ((roundTo fp32 1 false 0 (f (f32 t a) (f32 t b))).1, flagIf (fp32.snan (lo32 (xr t a)) || fp32.snan (lo32 (xr t b))) flagNV)

/-- FMIN (R179). -/
def execFmin (d a b : Reg) (s : State) : Result := fpPick s d a b exMin
/-- FMAX (R179). -/
def execFmax (d a b : Reg) (s : State) : Result := fpPick s d a b exMax

/-- FCMP (R179): quiet says that only a signalling NaN sets NV. -/
def fpCmp (s : State) (d a b : Reg) (quiet : Bool) (f : Ex → Ex → Bool) : Result :=
  fp s d [a, b] false fun t _ =>
    let x := f32 t a
    let y := f32 t b
    let sn := fp32.snan (lo32 (xr t a)) || fp32.snan (lo32 (xr t b))
    (if f x y then 1 else 0, flagIf (sn || (!quiet && (x.isNan || y.isNan))) flagNV)

/-- FCMP.EQ (R179). -/
def execFcmpEq (d a b : Reg) (s : State) : Result := fpCmp s d a b true Ex.eq
/-- FCMP.LT (R179). -/
def execFcmpLt (d a b : Reg) (s : State) : Result := fpCmp s d a b false Ex.lt
/-- FCMP.LE (R179). -/
def execFcmpLe (d a b : Reg) (s : State) : Result := fpCmp s d a b false fun x y => x.lt y || x.eq y

/-- FCVT.I64F (R180). -/
def execFcvtI64f (d a : Reg) (s : State) : Result :=
  fp s d [a] true fun t rnd => roundTo fp32 (rmNow t) (satNow t) rnd (Ex.ofInt (xr t a).toInt)
/-- FCVT.FI64 (R180). -/
def execFcvtFi64 (d a : Reg) (s : State) : Result :=
  fp s d [a] true fun t rnd => intFromFloatIn (-(2 ^ 63)) (2 ^ 63 - 1) 64 (rmNow t) rnd (f32 t a)

/-- A widening conversion to FP32, exact (R180). -/
def fpWiden (s : State) (d a : Reg) (f : Fmt) : Result :=
  fp s d [a] false fun t _ =>
    let p := (xr t a).toNat % 2 ^ f.width
    ((roundTo fp32 1 false 0 (f.decode p)).1, flagIf (f.snan p) flagNV)

/-- A narrowing conversion from FP32 (R180). -/
def fpNarrow (s : State) (d a : Reg) (f : Fmt) : Result :=
  fp s d [a] true fun t rnd =>
    let r := roundTo f (rmNow t) (satNow t) rnd (f32 t a)
    (r.1, r.2 ||| flagIf (fp32.snan (lo32 (xr t a))) flagNV)

/-- FCVT.F16F (R180). -/
def execFcvtF16f (d a : Reg) (s : State) : Result := fpWiden s d a fp16
/-- FCVT.FF16 (R180). -/
def execFcvtFf16 (d a : Reg) (s : State) : Result := fpNarrow s d a fp16
/-- FCVT.B16F (R180). -/
def execFcvtB16f (d a : Reg) (s : State) : Result := fpWiden s d a bf16
/-- FCVT.FB16 (R180). -/
def execFcvtFb16 (d a : Reg) (s : State) : Result := fpNarrow s d a bf16

/-- FCVT.S20F (R180). -/
def execFcvtS20f (d a : Reg) (s : State) : Result :=
  fp s d [a] false fun t _ => ((roundTo fp32 1 false 0 (scaleValue ((xr t a).extractLsb' 0 20))).1, 0)

/-- The S20 scale of a value, with its flags (R180). -/
def scaleFromEx (rm : Nat) (sat : Bool) (rnd : Nat) (v : Ex) : Nat × Flags :=
  let nan := 255 * 4096
  match v with
  | .nan => (nan, flagNV)
  | .inf _ => (nan, flagNV)
  | .fin neg n d st =>
    if n = 0 || neg then (nan, flagNV)
    else
      let e := flog2 n d
      let q := pow2 (e - 12)
      let m := roundInt rm rnd false (n * q.2) (d * q.1) st
      let exact := m * (d * q.1) = n * q.2 && !st
      let e1 := if m = 8192 then e + 1 else e
      let m1 := if m = 8192 then 4096 else m
      if e1 < -127 then (0, flagUF ||| flagNX)
      else if 127 < e1 then (if sat then 254 * 4096 + 4095 else nan, flagOF ||| flagNX)
      else ((e1 + 127).toNat * 4096 + (m1 - 4096), flagIf (!exact) flagNX)

/-- FCVT.FS20 (R180). -/
def execFcvtFs20 (d a : Reg) (s : State) : Result :=
  fp s d [a] true fun t rnd => scaleFromEx (rmNow t) (satNow t) rnd (f32 t a)

end Sys2Proof.Machine
end

