-- ==== Sys2Proof/Machine/ScalarInt.lean ====
section
/-!
DEFINITION. Machine/ScalarInt.lean: the integer instructions of class 0 (R171 to R176).
-/

namespace Sys2Proof.Machine

/-- A class 0 instruction that reads the registers rs and writes x(d) (R171). -/
def alu (s : State) (d : Reg) (rs : List Reg) (f : State → Word) : Result :=
  .next (strand s (d :: rs) fun s1 => fallThrough (writeX s1 d (f s1)))

/-- An R-format integer instruction (R172). -/
def alu2 (s : State) (d a b : Reg) (f : Word → Word → Word) : Result := alu s d [a, b] fun s1 => f (xr s1 a) (xr s1 b)

/-- A shift amount: bits 5:0 (R172). -/
def shamt (b : Word) : Nat := b.toNat % 64

/-- A signed quotient with the corners of R173. -/
def divSigned (a b : Word) : Word := if b = 0 then BitVec.allOnes 64 else a.sdiv b
/-- An unsigned quotient with the corner of R173. -/
def divUnsigned (a b : Word) : Word := if b = 0 then BitVec.allOnes 64 else a / b
/-- A signed remainder with the corners of R173. -/
def remSigned (a b : Word) : Word := if b = 0 then a else a.srem b
/-- An unsigned remainder with the corner of R173. -/
def remUnsigned (a b : Word) : Word := if b = 0 then a else a % b

/-- ADD (R172). -/
def execAdd (d a b : Reg) (s : State) : Result := alu2 s d a b fun x y => x + y
/-- SUB (R172). -/
def execSub (d a b : Reg) (s : State) : Result := alu2 s d a b fun x y => x - y
/-- AND (R172). -/
def execAnd (d a b : Reg) (s : State) : Result := alu2 s d a b fun x y => x &&& y
/-- OR (R172). -/
def execOr (d a b : Reg) (s : State) : Result := alu2 s d a b fun x y => x ||| y
/-- XOR (R172). -/
def execXor (d a b : Reg) (s : State) : Result := alu2 s d a b fun x y => x ^^^ y
/-- SLL (R172). -/
def execSll (d a b : Reg) (s : State) : Result := alu2 s d a b fun x y => x <<< shamt y
/-- SRL (R172). -/
def execSrl (d a b : Reg) (s : State) : Result := alu2 s d a b fun x y => x >>> shamt y
/-- SRA (R172). -/
def execSra (d a b : Reg) (s : State) : Result := alu2 s d a b fun x y => x.sshiftRight (shamt y)
/-- SLT (R172). -/
def execSlt (d a b : Reg) (s : State) : Result := alu2 s d a b fun x y => bitWord (x.slt y)
/-- SLTU (R172). -/
def execSltu (d a b : Reg) (s : State) : Result := alu2 s d a b fun x y => bitWord (x.ult y)
/-- MIN (R172). -/
def execMin (d a b : Reg) (s : State) : Result := alu2 s d a b fun x y => if y.slt x then y else x
/-- MAX (R172). -/
def execMax (d a b : Reg) (s : State) : Result := alu2 s d a b fun x y => if x.slt y then y else x
/-- MINU (R172). -/
def execMinu (d a b : Reg) (s : State) : Result := alu2 s d a b fun x y => if y.ult x then y else x
/-- MAXU (R172). -/
def execMaxu (d a b : Reg) (s : State) : Result := alu2 s d a b fun x y => if x.ult y then y else x
/-- MUL (R172). -/
def execMul (d a b : Reg) (s : State) : Result := alu2 s d a b fun x y => x * y
/-- MULH (R172). -/
def execMulh (d a b : Reg) (s : State) : Result := alu2 s d a b fun x y => BitVec.ofInt 64 (x.toInt * y.toInt / (2 ^ 64 : Nat))
/-- MULHU (R172). -/
def execMulhu (d a b : Reg) (s : State) : Result := alu2 s d a b fun x y => BitVec.ofNat 64 (x.toNat * y.toNat / 2 ^ 64)
/-- DIV (R172, R173). -/
def execDiv (d a b : Reg) (s : State) : Result := alu2 s d a b divSigned
/-- DIVU (R172, R173). -/
def execDivu (d a b : Reg) (s : State) : Result := alu2 s d a b divUnsigned
/-- REM (R172, R173). -/
def execRem (d a b : Reg) (s : State) : Result := alu2 s d a b remSigned
/-- REMU (R172, R173). -/
def execRemu (d a b : Reg) (s : State) : Result := alu2 s d a b remUnsigned

/-- Leading zero bits, 64 for 0 (R174). -/
def clz (a : Word) : Nat := ((List.range 64).find? fun i => a.getLsbD (63 - i)).getD 64
/-- Trailing zero bits, 64 for 0 (R174). -/
def ctz (a : Word) : Nat := ((List.range 64).find? fun i => a.getLsbD i).getD 64
/-- One bits (R174). -/
def popc (a : Word) : Nat := ((List.range 64).filter fun i => a.getLsbD i).length
/-- Bit j moved to bit 63 − j (R174). -/
def brev (a : Word) : Word := (List.range 64).foldl (fun (r : Word) j => if a.getLsbD j then r ||| (1 <<< (63 - j)) else r) 0

/-- BIT.CLZ (R174). -/
def execBitClz (d a : Reg) (s : State) : Result := alu s d [a] fun t => BitVec.ofNat 64 (clz (xr t a))
/-- BIT.CTZ (R174). -/
def execBitCtz (d a : Reg) (s : State) : Result := alu s d [a] fun t => BitVec.ofNat 64 (ctz (xr t a))
/-- BIT.POPC (R174). -/
def execBitPopc (d a : Reg) (s : State) : Result := alu s d [a] fun t => BitVec.ofNat 64 (popc (xr t a))
/-- BIT.BREV (R174). -/
def execBitBrev (d a : Reg) (s : State) : Result := alu s d [a] fun t => brev (xr t a)

/-- sext(imm, 13) (R175). -/
def simm (i : BitVec 13) : Word := i.signExtend 64
/-- zext(imm, 13) (R175). -/
def uimm (i : BitVec 13) : Word := i.setWidth 64

/-- ADDI (R175). -/
def execAddi (d a : Reg) (i : BitVec 13) (s : State) : Result := alu s d [a] fun t => xr t a + simm i
/-- ANDI (R175). -/
def execAndi (d a : Reg) (i : BitVec 13) (s : State) : Result := alu s d [a] fun t => xr t a &&& uimm i
/-- ORI (R175). -/
def execOri (d a : Reg) (i : BitVec 13) (s : State) : Result := alu s d [a] fun t => xr t a ||| uimm i
/-- XORI (R175). -/
def execXori (d a : Reg) (i : BitVec 13) (s : State) : Result := alu s d [a] fun t => xr t a ^^^ uimm i
/-- SLLI (R175). -/
def execSlli (d a : Reg) (i : BitVec 6) (s : State) : Result := alu s d [a] fun t => xr t a <<< i.toNat
/-- SRLI (R175). -/
def execSrli (d a : Reg) (i : BitVec 6) (s : State) : Result := alu s d [a] fun t => xr t a >>> i.toNat
/-- SRAI (R175). -/
def execSrai (d a : Reg) (i : BitVec 6) (s : State) : Result := alu s d [a] fun t => (xr t a).sshiftRight i.toNat
/-- SLTI (R175). -/
def execSlti (d a : Reg) (i : BitVec 13) (s : State) : Result := alu s d [a] fun t => bitWord ((xr t a).slt (simm i))
/-- SLTIU (R175). -/
def execSltiu (d a : Reg) (i : BitVec 13) (s : State) : Result := alu s d [a] fun t => bitWord ((xr t a).ult (simm i))

/-- sext(imm << 14, 32) (R176). -/
def upperImm (i : BitVec 18) : Word := (i.setWidth 32 <<< 14).signExtend 64

/-- LUI (R176). -/
def execLui (d : Reg) (i : BitVec 18) (s : State) : Result := alu s d [] fun _ => upperImm i
/-- AUIPC (R176). -/
def execAuipc (d : Reg) (i : BitVec 18) (s : State) : Result := alu s d [] fun t => pcOf t + upperImm i
/-- SHOR (R176): it reads its own destination. -/
def execShor (d : Reg) (i : BitVec 18) (s : State) : Result := alu s d [d] fun t => (xr t d <<< 18) ||| i.setWidth 64

end Sys2Proof.Machine
end

