-- ==== Sys2Proof/Machine/CoreEvents.lean ====
section
/-!
DEFINITION. Machine/CoreEvents.lean: the events that the units of a core and of its cluster bring about: the boundary events (R157,
R294, R418, R428), the ends of waits (R218, R393, R396, R399, R400), the queue's units (R244, R288, R319), the store buffer and the
remote requests (R165, R293), PREF fills (R281), the negotiator (R349), the exchange port (R404), copy commands (R306 to R313) and
stealing (R214, R215). An event that names no core is one of the core in focus.
-/

namespace Sys2Proof.Machine

/-- What an event answers when the rules do not let it occur in this state. -/
def notDue (n : String) : Result := .refused (.notDue n)

/-- An event that occurs when a next state is given. -/
def whenDue (n : String) (r : Option State) : Result :=
  match r with
  | some s => .next s
  | none => notDue n

/-- The state of an outcome, if it is a next state. -/
def nextOf (r : Result) : Option State :=
  match r with
  | .next s => some s
  | _ => none

/-! ## Boundary events -/

/-- Has the strand of a core issued its last instruction: it has ended, or has been unwound by a Kill (R428, R431)? -/
def hasEnded (c : Core) : Bool := c.sync.wait == some .unwound || c.sync.wait == some .retiring

/-- A wait is withdrawn, its PC kept; a WFI completes instead (R393, R395, R396, R399, R400, R418). -/
def withdrawWait (s : State) : State :=
  match s.core.sync.wait with
  | some .wfi => fallThrough (endWait s)
  | some _ => if hasEnded s.core then s else endWait s
  | none => s

/-- Does the strand in focus stand at a boundary before an instruction: it waits for nothing that has issued (R157, R412)? -/
def atBoundary (s : State) : Bool :=
  match s.core.sync.wait with
  | none => true
  | some .join => true
  | _ => false

/-- The cycle at which a TIME value begins (R20). -/
def cycleOfTime (t : Nat) : Nat := (25 * t + 1) / 2

/-- Has NPRLIM run out for a core that delays its stop (R418)? -/
def nprDue (s : State) (c : Core) : Bool :=
  match foldAt s c.fold with
  | some f => c.occ != .idle && f.running == some c.vf && regionOpen c &&
      f.switchT.any fun t => decide (cycleOfTime t + c.trap.nprlim.toNat ≤ s.now)
  | none => false

/-- Cause 20 of the core in focus (R418): Rollback, the wait withdrawn, the region and the phase closed, the trap. -/
def takeNpr (s : State) : State :=
  let s1 := match s.core.q.queue with
    | [] => s
    | e :: _ => endRefusals (dropPosts (rollback s e false) s.core.pos) s.core.pos queueUnit
  let s2 := withdrawWait s1
  let s3 := setSync s2 { s2.core.sync with npr := false, phase := none, stall := false, trapWaits := false }
  trapEntry s3 20 false 0 (pcOf s3)

/-- The late refusal that the next boundary raises (R157, R294): the oldest while INH = 0, else the oldest that arrived while INH
was 1. -/
def lateDue (s : State) : Option LateRefusal :=
  if atBoundary s then (if s.core.trap.inh then s.core.q.late.find? (·.inh) else s.core.q.late.head?) else none

/-- Cause 12 of the core in focus (R294). -/
def takeLate (s : State) (r : LateRefusal) : State :=
  atDrain (setSync s { s.core.sync with trapWaits := false } |> withdrawWait) fun s1 =>
    trapEntry (setQ s1 { s1.core.q with late := s1.core.q.late.erase r }) 12 false (r.seq.setWidth 64) (pcOf s1)

/-- The interrupt that the next boundary takes (R157, R396): the highest code that is pending and enabled. -/
def interruptDue (s : State) : Option Nat :=
  let t := s.core.trap
  let y := s.core.sync
  if t.tvec >>> 2 != 0 && !t.inh && t.ie && !inPhase s && (y.arrived.isNone || y.passed.isSome) then
    ([4, 3, 2, 1]).find? fun c => pendingCode s c && t.ien.getLsbD (c - 1)
  else none

/-- Takes an interrupt (R157); code 4 clears its notice (R430). -/
def takeInterrupt (s : State) (c : Nat) : State :=
  atDrain (withdrawWait s) fun s1 =>
    let s2 := if c = 4 then setSync s1 { s1.core.sync with notice := false } else s1
    trapEntry s2 c true 0 (pcOf s2)

/-- The NPR overrun or the late refusal that is due at the boundary of the core in focus (R157). A strand that waits for CONTAINACT, or
that has stopped for a gang switch, takes neither. -/
def pendingTrap (s : State) : Option State :=
  if s.core.occ = .idle || s.core.sync.stopped || hasEnded s.core then none
  else if nprDue s s.core then some (takeNpr s)
  else if switchStops s s.core then none
  else (lateDue s).map (takeLate s)

/-- The interrupt that the core in focus takes at its boundary: a synchronous trap there, one that waits for older queued instructions among
them, comes before it (R157). fetchFails says that the word at the PC raises one. -/
def interruptTaken (s : State) (fetchFails : Bool) : Option State :=
  match interruptDue s with
  | none => none
  | some c =>
    if s.core.occ = .idle || s.core.sync.stopped || hasEnded s.core || switchStops s s.core || s.core.sync.trapWaits || (s.core.sync.wait.isNone && fetchFails) then none
    else some (takeInterrupt s c)

/-- The trap or interrupt that is due at the boundary of the core in focus, in the order of R157. -/
def boundaryTrap (s : State) (fetchFails : Bool) : Option State :=
  match pendingTrap s with
  | some s1 => some s1
  | none => interruptTaken s fetchFails

/-- The requests to the host of a core that no longer waits for their answers. -/
def dropContReqs (s : State) (p : CorePos) : State :=
  match foldAt s s.core.fold with
  | some f => if f.contReqs.any fun r => r.core == p then setFold s { f with contReqs := f.contReqs.filter fun r => r.core != p } else s
  | none => s

/-- The core in focus unwinds, killed from depth n (R428); where that retires the launch frame's children, it waits for the copies of the
frame's pages (R117). -/
def unwindStep (s : State) (n : Nat) : State :=
  let s1 := endRefusals (endRefusals (dropContReqs s s.core.pos) s.core.pos 0) s.core.pos queueUnit
  let t := unwindKilled (setSync s1 { s1.core.sync with stopped := false }) n
  (rootCopies s t).getD t

/-- The unwinding that is due when the chain of the core in focus holds a killed frame, or the end of a strand whose frame has retired since
(R428). -/
def killDue (s : State) : Option State :=
  if s.core.occ = .idle || switchStops s s.core then none
  else match s.core.sync.wait with
    | some .retiring => none
    | some .unwound => if strandRetired s then some (endStrandSteps s) else none
    | _ => (killedDepth s).map (unwindStep s)

/-- NPR_OVERRUN (R418). -/
def execNprOverrun (s : State) : Result := if nprDue s s.core then .next (takeNpr s) else notDue "NPR_OVERRUN"

/-- TIME_COMPARE (R152, R155): interrupt 3 is pending by TIME alone, so nothing else changes. -/
def execTimeCompare (s : State) : Result := if pendingCode s 3 then .next s else notDue "TIME_COMPARE"

/-- KILL_UNWIND (R428, R430). -/
def execKillUnwind (s : State) : Result := whenDue "KILL_UNWIND" (killDue s)

/-! ## The ends of waits -/

/-- May a waiting strand of a core go on: it has not stopped for a gang switch (R412)? -/
def mayWake (s : State) (c : Core) : Bool := c.occ != .idle && !c.sync.stopped && !switchStops s c

/-- A waiting JOIN looks again when CHILD is 0 or the deque holds an entry (R218). -/
def joinWakes (s : State) : Option State :=
  if mayWake s s.core && s.core.sync.wait == some .join &&
      (stChild (frameState s s.core.vf (curFrame s)).2 == 0 || !s.core.sync.deque.isEmpty) then
    some (setSync s { s.core.sync with wait := none })
  else none

/-- JOIN_WAKE (R218). -/
def execJoinWake (s : State) : Result := whenDue "JOIN_WAKE" (joinWakes s)

/-- SVWAIT_WAKE (R393): after a write to a word, an engine tests its parked requests in arrival order. -/
def execSvwaitWake (key : Nat) (s : State) : Result :=
  match s.svTests.find? fun e => e.2 == key with
  | none => notDue "SVWAIT_WAKE"
  | some e =>
    let s1 := { s with svTests := s.svTests.filter (· != e) }
    .next ((s1.parked.filter (waitsFor e.1 e.2)).foldl (fun s p => asCore s p.core testParked) s1)

/-- Does a strand wait at the barrier at which it has arrived, not stopped for a gang switch? -/
def atBarrier (s : State) (c : Core) : Bool :=
  !switchStops s c && (match c.sync.wait with | some (.barrier _ _) => true | _ => false)

/-- The cores of a launch that a completed barrier of a form releases (R396). One that SSTEP has arrived at waits until every strand of the
launch that it releases can leave in one cycle (R403). -/
def barrierCores (s : State) (lid : Word) (form : BitVec 2) : List CorePos :=
  match launchAt s lid with
  | none => []
  | some l =>
    let cs := (allCores s).filter fun c => c.occ == .strand && c.lid == lid && c.sync.arrived == some form && c.sync.passed.isNone &&
      allArrived s l form c.pos
    if cs.all fun c => !c.sync.arrivedStep || atBarrier s c then cs.map (·.pos) else []

/-- The strand in focus is released by a barrier: it leaves, or, when it does not wait at it, it will leave when it comes back
(R396). -/
def releaseFrom (c0 : Nat) (form : BitVec 2) (s : State) : State :=
  match s.core.sync.wait with
  | some (.barrier _ sstep) =>
    if switchStops s s.core then setSync s { s.core.sync with passed := some c0 } else leaveBarrier s form sstep c0
  | _ => setSync s { s.core.sync with passed := some c0 }

/-- BARRIER_COMPLETE (R396, R403): every strand of the domain leaves in one cycle. -/
def execBarrierComplete (lid : Word) (form : BitVec 2) (s : State) : Result :=
  match barrierCores s lid form with
  | [] => notDue "BARRIER_COMPLETE"
  | ps => .next (ps.foldl (fun u p => asCore u p (releaseFrom s.now form)) s)

/-- A waiting INBOX takes the message that has come (R399). -/
def inboxWakes (s : State) : Option State :=
  match s.core.sync.wait with
  | some (.inbox d drv) => if mayWake s s.core then inboxTake (endWait s) d drv else none
  | _ => none

/-- INBOX_WAKE (R399). -/
def execInboxWake (s : State) : Result := whenDue "INBOX_WAKE" (inboxWakes s)

/-- A WFI completes once an enabled code is pending (R400). -/
def wfiWakes (s : State) : Option State :=
  if mayWake s s.core && s.core.sync.wait == some .wfi && (s.core.trap.ien == 0 || (ipend s &&& s.core.trap.ien) != 0) then
    some (fallThrough (endWait s))
  else none

/-- WFI_WAKE (R400). -/
def execWfiWake (s : State) : Result := whenDue "WFI_WAKE" (wfiWakes s)

/-- DROVER_MESSAGE (R399): the mailbox of a strand takes one message. During a swap no drover sends one (R446). -/
def execDroverMessage (p : CorePos) (v : Word) (s : State) : Result :=
  let c := coreAt s p
  if c.occ = .idle || c.sync.drvmsg.isSome || s.svc.swapping then notDue "DROVER_MESSAGE"
  else .next (setCoreAt s { c with sync := { c.sync with drvmsg := some v } })

/-! ## The units of the queue -/

/-- An act of the queue of the core in focus, which has stopped for a gang switch once the switch time has come (R412). -/
def ifRunning (s : State) (r : Option State) : Option State := if switchStops s s.core then none else r

/-- The oldest queued instruction completes. -/
def headCompletes (s : State) (p : Instr → Bool) : Option State :=
  if s.core.q.queue.any fun e => p e.instr then
    match s.core.q.queue, runHead s with
    | e :: _, .clear s1 => if p e.instr then some s1 else none
    | _, _ => none
  else none

/-- The oldest queued instruction traps (R169). -/
def headTraps (s : State) : Option State :=
  match runHead s with
  | .trapped s1 => some s1
  | _ => none

/-- UNIT_ISSUE (R244): a unit takes its oldest instruction that is ready, which runs to its end (log 9). -/
def execUnitIssue (u : QUnit) (s : State) : Result :=
  whenDue "UNIT_ISSUE" (ifRunning s (unitGoes s fun i => unitOf i == some u))

/-- MATRIX_COMMIT (R319): a class 6 instruction counts as completed. -/
def execMatrixCommit (s : State) : Result :=
  whenDue "MATRIX_COMMIT" (ifRunning s (headCompletes s fun i => unitOf i == some .matrix))

/-- QUEUED_TRAP (R169). -/
def execQueuedTrap (s : State) : Result := whenDue "QUEUED_TRAP" (ifRunning s (headTraps s))

/-- Is an instruction an XSEL? -/
def isXsel (i : Instr) : Bool :=
  match i with
  | .xsel _ _ => true
  | _ => false

/-- EXCHANGE_ARRIVAL (R405). -/
def execExchangeArrival (s : State) : Result := whenDue "EXCHANGE_ARRIVAL" (ifRunning s (unitGoes s isXsel))

/-- The queued instruction of the first early load that is deferred and free to be performed. -/
def deferredEarly (s : State) : Option QEntry :=
  s.core.q.queue.find? fun e =>
    isEarlyLoad e.instr && ((ldqOf s e.seq).any fun l => l.deferred && l.fault.isNone) && earlyClear s e

/-- A deferred early load is performed (R288), or does something towards it. -/
def earlyRuns (s : State) : Option State :=
  (deferredEarly s).bind fun e =>
    let s1 := performEarly s e
    if s1 = s then none else some s1

/-- EARLY_LOAD_DEFERRED (R288). -/
def execEarlyLoadDeferred (s : State) : Result := whenDue "EARLY_LOAD_DEFERRED" (ifRunning s (earlyRuns s))

/-! ## The store buffer, remote requests and PREF -/

/-- The oldest store-buffer entry leaves when it may (R165), or a Leave asks for the page copies that it waits for (R117). -/
def sbLeaves (s : State) : Option State :=
  if s.core.q.sb.any (leaveTurn s) then
    let s1 := popSb s
    if s1 = s then none else some s1
  else none

/-- STORE_BUFFER_LEAVE (R165). -/
def execStoreBufferLeave (s : State) : Result := whenDue "STORE_BUFFER_LEAVE" (sbLeaves s)

/-- The oldest remote request is answered, as its target accepts or refuses it (R293, R294). -/
def remoteAnswered (s : State) (refused : Bool) : Option State :=
  match s.core.q.remote with
  | [] => none
  | r :: _ => if targetRefuses s s.core.lid r.key = refused then some (popRemote s) else none

/-- REMOTE_REPLY (R293). -/
def execRemoteReply (s : State) : Result := whenDue "REMOTE_REPLY" (remoteAnswered s false)

/-- LATE_REFUSAL (R294). -/
def execLateRefusal (s : State) : Result := whenDue "LATE_REFUSAL" (remoteAnswered s true)

/-- The oldest fill of a PREF arrives (R281). -/
def prefDue (s : State) : Option State :=
  match s.core.prefs with
  | [] => none
  | f :: t => some (prefArrives s f t)

/-- PREF_FILL (R281). -/
def execPrefFill (s : State) : Result := whenDue "PREF_FILL" (prefDue s)

/-! ## The negotiator -/

/-- The head FCOLN of a member, if its core still waits with it. -/
def memberEntry (s : State) (p : CorePos) : Option QEntry := (coreAt s p).q.queue.head?

/-- The candidate that wins a round, and ties go to the lowest core, tile and physical row (R349 step 3). -/
def roundWinner (ps : List RoundPost) : Option RoundPost :=
  let before := fun (a b : RoundPost) =>
    decide (a.core.core < b.core.core) || (a.core.core == b.core.core && (decide (a.tile < b.tile) || (a.tile == b.tile && decide (a.prow < b.prow))))
  (ps.filter (·.cand)).foldl (fun (b : Option RoundPost) c =>
    match b with
    | none => some c
    | some x =>
      if beats (magOf x.magnitude) (magOf c.magnitude) then some c
      else if beats (magOf c.magnitude) (magOf x.magnitude) then some x
      else if before c x then some c else some x) none

/-- The FCOLN of a member traps at VCP (R349, R352). -/
def memberTraps (s : State) (p : CorePos) (t : Trap) : State :=
  match memberEntry s p with
  | some e => asCore s p fun u => trapHead u e t false
  | none => s

/-- A member commits a column with new tiles and a new set (R349 step 8). -/
def memberCommits (s : State) (p : CorePos) (ts : Vector Tile 8) (f : FactorSet) (fl : Flags) : State :=
  match memberEntry s p with
  | some e => asCore s p fun u => completeHead (raiseFlags (setFactor u ts f) fl) e
  | none => s

/-- A round that is complete: the next one has no posts (R349 step 8). -/
def roundDone (s : State) (c : ClusterPos) (n : BitVec 2) : State :=
  let g := groupAt s c n
  setGroup s c n { g with round := g.round + 1, posts := [] }

/-- A round that is cancelled: its posts are dropped (R349). -/
def roundCancelled (s : State) (c : ClusterPos) (n : BitVec 2) : State :=
  let g := groupAt s c n
  setGroup s c n { g with posts := [] }

/-- Every member records a column that nothing is eliminated from (R349 steps 3 and 4). -/
def recordAll (s : State) (ps : List RoundPost) (col : Nat) (h : Word) (winner : Option CorePos) : State :=
  ps.foldl (fun s q =>
    let m := (coreAt s q.core).mat
    memberCommits s q.core m.tiles (recordColumn m.fset col h) (flagIf (winner == some q.core) flagSPF)) s

/-- What every member's part gives, by its core (R349 step 6). -/
def memberParts (s : State) (ps : List RoundPost) (col : Nat) (w : RoundPost) (sing : Bool) (prow : List Acc) : List (CorePos × MemberRes) :=
  let wnp := (coreAt s w.core).mat.fset.np
  ps.filterMap fun q => (memberEntry s q.core).map fun e => (q.core, memberPart (coreAt s q.core) e col w wnp sing prow)

/-- Did a member's part fail? -/
def failed (r : MemberRes) : Bool :=
  match r with
  | .fail => true
  | _ => false

/-- The round of a group in which every member has posted (R349 steps 2 to 8). Steps 3 and 4 do not say whether NEG (R344) is set in the entries
NONE and SKIP that they record; that it is set, FCOLN having recorded them, is the model's choice (DESIGN CHOICE, log 74). -/
def playRound (s : State) (c : ClusterPos) (n : BitVec 2) (g : NegGroup) : State :=
  let ps := g.posts
  let col := (ps.head?.map (·.column)).getD 0
  if ps.any fun q => q.column != col then
    ps.foldl (fun s q => memberTraps s q.core (negTrap 3 q.column n)) (roundCancelled s c n)
  else match roundWinner ps with
    | none => roundDone (recordAll s ps col (phNone true) none) c n
    | some w =>
      let wc := coreAt s w.core
      let f := wc.mat.fset
      let row := logicalRow f.set wc.mat.tiles w.lrow
      let p0 := (row[col]?).getD 0
      let sing := singular p0 w.tau
      if sing && w.spol = 0 then memberTraps (roundCancelled s c n) w.core ⟨15, BitVec.ofNat 64 col⟩
      else if sing && w.spol = 2 then
        roundDone (recordAll s ps col (phWord ⟨w.lrow, w.tile, w.prow⟩ w.core.core 0 false true true) (some w.core)) c n
      else
        let prow := if sing then row.set col (replaced p0 w.tau) else row
        let parts := memberParts s ps col w sing prow
        if parts.any fun r => failed r.2 then
          (parts.filter fun r => failed r.2).foldl (fun s r => memberTraps s r.1 ⟨16, BitVec.ofNat 64 col⟩) (roundCancelled s c n)
        else
          roundDone (parts.foldl (fun s r => match r.2 with
            | .pass ts f1 fl => memberCommits s r.1 ts f1 fl
            | .fail => s) s) c n

/-- Has every member of a group posted, none of them stopped for a gang switch (R349 step 2, R351)? -/
def roundReady (s : State) (g : NegGroup) : Bool :=
  g.count != 0 && g.members.length == g.count && g.left.isEmpty && !g.broken && g.posts.length == g.count &&
    !(g.posts.any fun q => switchStops s (coreAt s q.core))

/-- NEGOTIATION_ROUND (R349). -/
def execNegotiationRound (c : ClusterPos) (n : BitVec 2) (s : State) : Result :=
  let g := groupAt s c n
  if roundReady s g then .next (playRound s c n g) else notDue "NEGOTIATION_ROUND"

/-! ## The exchange port -/

/-- An XSEND whose cycle has come: its core, the C0 of the phase, its queue entry, its register and its cycle. -/
structure Sender where
  core : CorePos
  phase : Nat
  entry : QEntry
  reg : Reg
  cycle : Nat
  deriving Repr

/-- The XSEND in the engine port of the core in focus whose cycle is now: the oldest instruction of its unit, and the oldest of the queue or
free to run ahead (R244, R404). -/
def sendDue (s : State) : Option Sender :=
  match s.core.sync.phase, s.core.q.queue.find? fun e => unitOf e.instr == some .engine && e.ahead.isNone with
  | some c0, some e =>
    (match e.instr with
     | .xsend a b =>
       let older := olderThan s e
       if phaseCycle s s.core = some (sendCycle e b : Int) && (older.isEmpty || mayRunAhead s older e) then
         some ⟨s.core.pos, c0, e, a, sendCycle e b⟩
       else none
     | _ => none)
  | _, _ => none

/-- The XSENDs whose cycle is now. -/
def sendersNow (s : State) : List Sender := (allCores s).filterMap fun c => if c.sync.phase.isSome then sendDue (focusOn s c.pos) else none

/-- An instruction of the core in focus is done in its unit: it completes where it is the oldest of the queue, else it waits for its place. -/
def portDone (s : State) (e : QEntry) (fault : Option Trap) : State :=
  if (olderThan s e).isEmpty && (s.core.q.queue.head?.map (·.seq)) == some e.seq then
    match fault with
    | some t => trapHead s e t false
    | none => completeHead s e
  else noteAhead s e ⟨0, none, fault, []⟩

/-- One due XSEND: the lowest core of its cluster sends, any other takes cause 19 (R404). The fabric keeps the vectors of the phases that
are open. -/
def sendOne (all : List Sender) (s : State) (x : Sender) : State :=
  let p := x.core
  if all.any fun y => y.core.cluster == p.cluster && decide (y.core.core < p.core) then
    asCore s p fun u => portDone u x.entry (some (exchTrap 1 x.cycle))
  else
    let kept := s.fabric.filter fun v => (allCores s).any fun c => c.sync.phase == some v.phase
    asCore s p fun u =>
      let v : XSend := ⟨x.phase, p.die, p.cx, p.cy, p.core, u.core.lid, x.cycle, vSrc u x.entry x.reg⟩
      portDone { u with fabric := kept ++ [v] } x.entry none

/-- EXCHANGE_SEND (R404): every XSEND that is due in this cycle. -/
def execExchangeSend (s : State) : Result :=
  match sendersNow s with
  | [] => notDue "EXCHANGE_SEND"
  | xs => .next (xs.foldl (sendOne xs) s)

/-! ## Copy commands -/

/-- Do the engines of a cluster act: the switch time of its fold has not come, nor is a restart still to come (R316, R413, R415)? -/
def enginesRun (s : State) (c : ClusterPos) : Bool :=
  !(s.folds.any fun f => f.dies.contains c.die && (f.restart.isSome || f.switchT.any fun t => decide (t ≤ (timeOf s).toNat)))

/-- An act of the engines of a cluster. -/
def ifEngines (s : State) (c : ClusterPos) (r : Option State) : Option State := if enginesRun s c then r else none

/-- COPY_COMMAND_RUN (R306): an engine of the cluster moves the elements of a command. -/
def execCopyCommandRun (c : ClusterPos) (s : State) : Result :=
  whenDue "COPY_COMMAND_RUN" (ifEngines s c (runFirst s c (runnable s c)))

/-- CPYQ_RESERVE (R313). -/
def execCpyqReserve (c : ClusterPos) (q : BitVec 2) (s : State) : Result :=
  whenDue "CPYQ_RESERVE" (ifEngines s c ((reserveDue s c q).map fun k => reserveSlot s c q k.1 k.2))

/-- COPY_COMPLETE (R310). -/
def execCopyComplete (c : ClusterPos) (s : State) : Result :=
  whenDue "COPY_COMPLETE" (ifEngines s c ((endedCmd s c).map fun k => finishCommand s c k.1 k.2))

/-! ## A core's first state, and stealing -/

/-- Zeroes the keys of a range, with its marks. -/
def zeroRange (s : State) (lo n : Nat) : State :=
  { s with mem := Memory.clear s.mem lo (lo + n), poison := s.poison.filter fun k => decide (k < lo) || decide (lo + n ≤ k) }

/-- SRSEED at strand start (R110). -/
def startSeed (lid : Word) (p : CorePos) : Word :=
  let v := (lid <<< 16) ^^^ coreIdOf p
  if v = 0 then 1 else v

/-- The state in which a strand or a thief's task starts on a core that is put in focus (R110, R215): its TCM keeps its bytes when the
core's previous strand or task was of the same VF, the instruction cache and the gate entries go when it was of another
launch (R111), and RSEQ goes on in a task (R293). -/
def startCore (s : State) (l : Launch) (p : CorePos) (occ : Occupancy) (idx : Vector Nat 6) : State :=
  let s0 := focusOn s p
  let c := s0.core
  let s1 := if c.holds.isSome && c.vf = l.vf then s0 else zeroRange s0 (tcmKey p) Config.tcmBytes
  let same := c.holds == some l.lid
  let r := Core.reset p
  { s1 with core := { r with
      occ := occ
      fold := l.fold
      vf := l.vf
      lid := l.lid
      holds := some l.lid
      idx := idx
      icache := if same then c.icache else []
      gates := if same then c.gates else []
      prefs := c.prefs
      q := { r.q with rseq := if occ = .task then c.q.rseq else r.q.rseq }
      mat := { r.mat with stat := if same then c.mat.stat else [] }
      regs := { r.regs with srseed := startSeed l.lid p, cycleBase := BitVec.ofNat 64 s.now }
      trap := { r.trap with gtbase := l.record.gtab, gtsize := l.record.gtcnt.extractLsb' 0 9 } } }

/-- Is the VF of a launch running, with no gang switch due, nor a restart still to come (R85, R412, R415)? -/
def vfRuns (s : State) (l : Launch) : Bool :=
  match foldAt s l.fold with
  | some f => f.running == some l.vf && f.restart.isNone && !(f.switchT.any fun t => decide (t ≤ (timeOf s).toNat))
  | none => false

/-- Is the strand in focus about to pop its deque: its JOIN or END reaches it in this cycle (R213)? -/
def ownerPops (s : State) : Bool :=
  let q := s.core.q
  mayWake s s.core && (killDue s).isNone && (boundaryTrap s false).isNone && q.queue.isEmpty && q.sb.isEmpty && q.remote.isEmpty &&
    (match s.core.sync.wait, (wordAtPc s (pcOf s)).map decodeWord with
     | some .join, _ => true
     | none, some (.ok .join) => true
     | none, some (.ok .endStrand) => true
     | _, _ => false)

/-- May a thief take the tail of a core's deque: it holds an entry, and the owner does not reach the last one in the same cycle (R213)? -/
def mayRob (s : State) (q : CorePos) : Bool :=
  match (coreAt s q).sync.deque with
  | [] => false
  | [_] => !ownerPops (focusOn s q)
  | _ => true

/-- The core whose deque an idle core steals from: the first in ring order with an entry (R214). -/
def robbed (s : State) (p : CorePos) : Option CorePos :=
  (((List.range 63).map fun k => ({ p with core := (p.core + k + 1) % 64 } : CorePos)).find? fun q =>
    coreEnabled s q && !(coreAt s q).sync.deque.isEmpty).filter (mayRob s)

/-- A theft by a core (R215): the tail entry of the victim's deque starts as a task, or retires below a killed frame (R220). A header
with the wrong DEPTH is contained under the fold policy, and the entry retires. -/
def theft (s : State) (l : Launch) (p v : CorePos) (e : DequeEntry) : State :=
  let vc := coreAt s v
  let s1 := setCoreAt s { vc with sync := { vc.sync with deque := vc.sync.deque.dropLast } }
  let s2 := startCore s1 l p .task e.idx
  if chainKilled treeFuel s2 l.vf e.parent then goIdle (dropEntry s2 e)
  else
    let s3 := acquire s2 allRegions 0
    let r := runTask s3 e 1 true
    match r.2 with
    | none => r.1
    | some t =>
      let s4 := reportFault (setPc s3 e.target) l.lid t.code t.tval e.target
      goIdle (dropEntry (foldPolicy s4 t.code t.tval e.target) e)

/-- Can an idle core take a strand or a task: it is enabled, and every frame in its TCM has retired (R200, log 17)? -/
def coreFree (s : State) (c : Core) : Bool := coreEnabled s c.pos && c.occ == .idle && c.regs.frames.isEmpty

/-- The strands of the launch that the core in focus may still start (R104). -/
def strandWaits (s : State) (l : Launch) (p : CorePos) : Bool :=
  l.phase == .placing && !l.killed && !l.killWaits.contains (.cluster p.cluster) && decide (startedOn l p < assigned s l p)

end Sys2Proof.Machine
end

