-- ==== Sys2Proof/Machine/PageEvents.lean ====
section
/-!
DEFINITION. Machine/PageEvents.lean: the events of translation: the walk (R296, R298), the service of a not-present page (R299), the
copy of a COW page (R300), TLB invalidation (R301), and the host's part in them (R450, R451).
-/

namespace Sys2Proof.Machine

/-! ## The host's messages -/

/-- The device has acted on the oldest message of the host (R451). A message that comes as an event is announced with it where H2DTAIL was
not ahead (log 18). -/
def consumeMsg (s : State) (f : Fold) : State :=
  setFold s { f with h2dhead := f.h2dhead + 1, h2dtail := Nat.max f.h2dtail (f.h2dhead + 1) }

/-- A message of the host is ignored and answered with MBERR (R98, R424, R450). -/
def ignoreMsg (s : State) (f : Fold) (kind vf : Nat) (a : Word) : State :=
  postMb (consumeMsg s f) f.num ⟨15, vf, BitVec.ofNat 64 kind, a, 0⟩

/-- Does a VF belong to a fold? -/
def vfInFold (s : State) (fold vf : Nat) : Bool := (vfAt s vf).any fun v => v.fold == fold

/-! ## The walk -/

/-- PAGE_WALK of the core in focus (R296, R298): a miss of its TLB walks the tables and fills both TLBs; a not-present page asks for
service (R299). A and D are set by the access itself (R297). -/
def execPageWalk (va : Word) (acc : Access) (s : State) : Result :=
  let w := s.core.who
  if s.core.occ = .idle || isWindow va || !canonical va || (tlbFind s (.core w.pos) w.vf va).isSome || (vfAt s w.vf).isNone then notDue "PAGE_WALK"
  else
    let r := leafFor s w va
    match r.2 with
    | .absent => .next (askPage r.1 w va acc false)
    | _ => .next r.1

/-- The PA of the entry at which a walk meets V = 0, if it does (R296). -/
def absentAt (s : State) (fold : Nat) (va : Nat) : List (Nat × Nat × Option Nat) → Nat → Option Nat
  | [], _ => none
  | (shift, width, _) :: rest, base =>
    let pa := base + 8 * (va / 2 ^ shift % 2 ^ width)
    let e := (homeRead8 s (homeKey fold pa)).2
    if !pteV e then some pa
    else if e.getLsbD 25 || pteSize e ≠ 3 then none
    else absentAt s fold va rest (ptePfn e * 65536)

/-- Is there a request for service of a page that has not been refused? -/
def asked (s : State) (vf page : Nat) (cow : Bool) : Bool := s.pageReqs.any (openReq vf page cow)

/-- Drops the requests for a page. -/
def dropReq (s : State) (vf page : Nat) (cow : Bool) : State :=
  { s with pageReqs := s.pageReqs.filter fun r => !openReq vf page cow r }

/-- A request for a page is refused: the accesses that wait for it will fault (R299). -/
def refuseReq (s : State) (vf page : Nat) : State :=
  { s with pageReqs := s.pageReqs.map fun r => if openReq vf page false r then { r with refused := true } else r }

/-- The fold of a command in the drovers' mailboxes. -/
def cmdFold (s : State) (c : DrvCmd) : Option Nat :=
  match c with
  | .policy f _ _ => some f
  | .page vf _ _ => (vfAt s vf).map (·.fold)

/-- The oldest command of a fold in its drovers' mailboxes (R446). -/
def oldestCmd (s : State) (fold : Nat) : Option DrvCmd := s.svc.drvQueue.find? fun c => cmdFold s c == some fold

/-- Do the drovers of a fold serve a page now: no swap is under way, and no command that came before it during one waits (R446)? -/
def drvServes (s : State) (fold vf page : Nat) (cow : Bool) : Bool :=
  !s.svc.swapping && (match oldestCmd s fold with | none => true | some c => c == .page vf page cow)

/-- A command has been served. -/
def cmdServed (s : State) (c : DrvCmd) : State := { s with svc := { s.svc with drvQueue := s.svc.drvQueue.filter (· != c) } }

/-- PAGE_SERVICE (R299): in the hardware mode the drover writes the entry at which the walk met V = 0, or refuses. -/
def execPageService (vf : Nat) (va : Word) (answer : PageAnswer) (s : State) : Result :=
  let page := pageOf va 16
  match vfAt s vf with
  | none => notDue "PAGE_SERVICE"
  | some v =>
    if !drvServes s v.fold vf page false || !asked s vf page false || ((foldAt s v.fold).map fun f => f.mode.getLsbD 0).getD true then notDue "PAGE_SERVICE"
    else match answer with
      | .refuse => .next (refuseReq (cmdServed s (.page vf page false)) vf page)
      | .install pte =>
        let s1 := dropReq (cmdServed s (.page vf page false)) vf page false
        match absentAt s v.fold va.toNat walkLevels v.root with
        | some pa => .next (homeWriteWords s1 (homeKey v.fold pa) 2 pte.toNat)
        | none => .next s1

/-- PGDONE (R299, R450): the host has installed the entry by its own writes, or refuses. -/
def execPgdone (fold vf : Nat) (va answer : Word) (s : State) : Result :=
  match foldAt s fold with
  | none => notDue "PGDONE"
  | some f =>
    if !vfInFold s fold vf || 1 < answer.toNat then .next (ignoreMsg s f 2 vf va)
    else
      let s1 := consumeMsg s f
      .next (if answer = 0 then dropReq s1 vf (pageOf va 16) false else refuseReq s1 vf (pageOf va 16))

/-! ## Copy-on-write -/

/-- Drops the TLB entries of a VF that hold a VA (R300). -/
def dropTlbVa (s : State) (vf : Nat) (va : Word) : State :=
  { s with tlb := s.tlb.filter fun e => !(e.vf == vf && e.page == pageOf va e.bits) }

/-- Drops the COW requests of a VF inside a page of a size. -/
def dropCow (s : State) (vf : Nat) (va : Word) (bits : Nat) : State :=
  { s with pageReqs := s.pageReqs.filter fun r => !(r.vf == vf && r.cow && r.page * 65536 / 2 ^ bits == pageOf va bits) }

/-- Is a frame of a fold named by no snapshot (R454)? -/
def frameFree (s : State) (fold frame bytes : Nat) : Bool :=
  !(s.vfs.any fun v => v.snapshot.any fun x => x.frames.any fun r => overlaps (homeKey fold frame) bytes r.1 r.2)

/-- Does a frame lie in the range that PLACE and DIE require (R300)? -/
def frameAllowed (f : Fold) (pte : Word) (frame bytes : Nat) : Bool :=
  let m := f.map
  if ptePlace pte ≤ 1 then decide (m.ibase ≤ frame) && decide (frame + bytes ≤ m.ibase + m.isize)
  else if ptePlace pte ≤ 3 then
    let h := if ptePlace pte = 2 then 32 + pteDie pte else ((homeDies f)[pteDie pte % f.dies.length]?).getD 0
    let r := localRange m h
    (homeDies f).contains h && decide (r.1 ≤ frame) && decide (frame + bytes ≤ r.1 + r.2)
  else decide (ptePlace pte = 4) && decide (m.pbase ≤ frame) && decide (frame + bytes ≤ m.pbase + m.psize)

/-- Puts cells into memory at keys moved by a distance. -/
def putMoved (m : Memory) (lo hi : Nat) : List Host.Cell → Memory
  | [] => m
  | c :: t => putMoved (Memory.set m (c.1 - lo + hi) c.2) lo hi t

/-- Copies n bytes of home memory from one key to another as a DEVICE-scope copy reads them: words registered at the home are
forwarded, and marks go along (R300, R363). -/
def copyFrame (s : State) (src dst n : Nat) : State :=
  let inSrc := fun (k : Nat) => decide (src ≤ k) && decide (k < src + n)
  let regs := (s.words.filter fun w => w.level == .home && inSrc w.key).map (·.key)
  let fwd := regs.map fun k => (k, (homeRead4 s k).2)
  let cells := s.mem.filter fun c => inSrc c.1
  let s1 := { s with
    mem := putMoved (Memory.clear s.mem dst (dst + n)) src dst cells
    poison := s.poison.filter fun k => decide (k < dst) || decide (dst + n ≤ k)
    words := s.words.filter fun w => !(w.level == .home && decide (dst ≤ w.key) && decide (w.key < dst + n)) }
  let s2 := (s.poison.filter inSrc).foldl (fun s k => markPoison s (k - src + dst)) s1
  fwd.foldl (fun s w => setHomeWord s (w.1 - src + dst) w.2.1 w.2.2) s2

/-- The new leaf of a copied page (R300): the new PFN, COW = 0, D = 1. -/
def cowLeaf (pte : Word) (frame : Nat) : Word := (putField pte 26 36 (frame / 65536) &&& ~~~(0x80 : Word)) ||| 0x40

/-- COPY_ON_WRITE (R300): in the hardware mode the page is copied to a new frame, which no snapshot names (R454), and the leaf is written. -/
def execCopyOnWrite (vf : Nat) (va : Word) (frame : Nat) (s : State) : Result :=
  match vfAt s vf with
  | none => notDue "COPY_ON_WRITE"
  | some v =>
    match foldAt s v.fold, (walk s v.fold v.root va).2 with
    | some f, .leaf pte ptePa bits =>
      let old := ptePfn pte * 65536
      if !drvServes s f.num vf (pageOf va 16) true || !frameFree s f.num frame (2 ^ bits) || f.mode.getLsbD 1 || !asked s vf (pageOf va 16) true || !pteCow pte || decide (frame % 2 ^ bits ≠ 0) || !frameAllowed f pte frame (2 ^ bits) ||
          frame == old then notDue "COPY_ON_WRITE"
      else
        let s1 := copyFrame s (homeKey f.num old) (homeKey f.num frame) (2 ^ bits)
        let s2 := homeWriteWords s1 (homeKey f.num ptePa) 2 (cowLeaf pte frame).toNat
        let s3 := dropCow (dropTlbVa (cmdServed s2 (.page vf (pageOf va 16) true)) vf va) vf va bits
        .next (setVf s3 { v with copied := v.copied ++ [pageOf va 16] })
    | _, _ => notDue "COPY_ON_WRITE"

/-- COWDONE (R300, R450): the host has copied the page and written the leaf; the old entry goes from every TLB of the VF, and the
waiting writes go on. -/
def execCowdone (fold vf : Nat) (va : Word) (s : State) : Result :=
  match foldAt s fold with
  | none => notDue "COWDONE"
  | some f =>
    match vfAt s vf with
    | none => .next (ignoreMsg s f 4 vf va)
    | some v =>
      if v.fold ≠ fold then .next (ignoreMsg s f 4 vf va)
      else
        let bits := match (walk s fold v.root va).2 with | .leaf _ _ b => b | _ => 16
        let s1 := dropCow (dropTlbVa (consumeMsg s f) vf va) vf va bits
        .next (setVf s1 { v with copied := v.copied ++ [pageOf va 16] })

/-! ## TLB invalidation -/

/-- Has a store-buffer entry captured a translation that the page tables no longer give, by its leaf or by an entry above it (R301)? A and D
do not count. -/
def staleEntry (s : State) (v : Vf) (b : SbEntry) : Bool :=
  let stale := fun (pte : Word) (ptePa : Nat) =>
    match (walk s v.fold v.root b.va).2 with
    | .leaf pte' ptePa' _ => ptePa' != ptePa || (pte' ||| 0x60) != (pte ||| 0x60)
    | _ => true
  match b.loc with
  | .glob _ pte ptePa => stale pte ptePa
  | .peer _ pte ptePa => stale pte ptePa
  | .bank _ => false

/-- TLB_INVALIDATION (R301): it completes once every store-buffer entry that captured an old translation has left. -/
def execTlbInvalidation (vf : Nat) (s : State) : Result :=
  match vfAt s vf with
  | none => notDue "TLB_INVALIDATION"
  | some v =>
    if s.svc.swapping || (oldestCmd s v.fold).isSome || (allCores s).any (fun c => c.vf == vf && c.occ != .idle && c.q.sb.any (staleEntry s v)) then notDue "TLB_INVALIDATION"
    else .next { s with tlb := s.tlb.filter fun e => e.vf != vf }

/-! ## After a swap -/

/-- The drovers of a fold come to a command that waited during a swap (R446): a containment policy is applied (R424). One whose page needs no
service any more is dropped. -/
def serveCmd (s : State) (c : DrvCmd) : Option State :=
  match c with
  | .policy fold lid vf => some (match foldAt s fold with
    | some f => applyPolicy (cmdServed s c) fold lid vf f.policy
    | none => cmdServed s c)
  | .page vf page cow => if asked s vf page cow then none else some (cmdServed s c)

/-- What the drovers do of themselves once the new image serves its mailbox (R446). -/
def mailboxDue (s : State) : Option State :=
  if s.svc.swapping then none
  else s.svc.drvQueue.findSome? fun c =>
    if (match cmdFold s c with | some f => oldestCmd s f == some c | none => true) then serveCmd s c else none

end Sys2Proof.Machine
end

