-- ==== Sys2Proof/Machine/MeshEvents.lean ====
section
/-!
DEFINITION. Machine/MeshEvents.lean: the mesh and its packets (R10 to R18, R126), the host's accesses at the home (R354), and memory
errors (R130, R280).
-/

namespace Sys2Proof.Machine

/-! ## Routers and ports -/

/-- The router of a port of a passenger: compute and home dies share a 2 × 2 block, I/O dies have eight ports (R11). -/
def routerOf (socket port : Nat) : Nat × Nat :=
  if socket < 64 then
    let n := socket % 32
    (2 * (n % 8) + port % 2, 2 * (n / 8) + port / 2 % 2)
  else if socket = 80 then (0, port % 8)
  else if socket = 81 then (15, port % 8)
  else if socket = 82 then (4 + port % 8, 0)
  else (4 + port % 8, 7)

/-- The router that a packet is bound for (R11). -/
def destRouter (p : Packet) : Nat × Nat := routerOf p.dstSocket p.dstPort

/-- The input of its router that a passenger's port feeds. -/
def portInput (socket : Nat) : MeshInput := if socket < 32 then .computePort else if socket < 64 then .homePort else .ioPort

/-- The output of its router that feeds a passenger's port. -/
def portOutput (socket : Nat) : MeshOutput := if socket < 32 then .computePort else if socket < 64 then .homePort else .ioPort

/-- The output that a packet leaves a router by, and where it stands then: along its row to the destination column, along the column, and
into the port (R13). -/
def nextPlace (p : Packet) (col row : Nat) : MeshOutput × PacketAt :=
  let d := destRouter p
  if col < d.1 then (.toEast, .input (col + 1) row .fromWest)
  else if d.1 < col then (.toWest, .input (col - 1) row .fromEast)
  else if row < d.2 then (.toSouth, .input col (row + 1) .fromNorth)
  else if d.2 < row then (.toNorth, .input col (row - 1) .fromSouth)
  else (portOutput p.dstSocket, .arriving)

/-- |a − b| steps along one axis each. -/
def hopCount (a b : Nat × Nat) : Nat := dist a.1 b.1 + dist a.2 b.2

/-- The hops that a packet still has before it (R414). -/
def hopsLeft (p : Packet) : Nat :=
  match p.at_ with
  | .input c r _ => hopCount (c, r) (destRouter p)
  | .drop c r _ => hopCount (c, r) (destRouter p)
  | .arriving => 0
  | _ => hopCount (routerOf p.srcSocket p.srcPort) (destRouter p)

/-- Do two packets stand in one buffer: of a router input and plane, or of a port, direction and plane (R13, R16)? -/
def sameBuffer (a b : Packet) : Bool :=
  a.at_ == b.at_ && a.response == b.response &&
    (match a.at_ with
     | .passenger | .leaving => a.srcSocket == b.srcSocket && a.srcPort == b.srcPort
     | .arriving => a.dstSocket == b.dstSocket && a.dstPort == b.dstPort
     | _ => true)

/-- Flits of a buffer: a port FIFO holds 16 (R16). A router's inputs hold at most 64 flits over both planes (R13): 4 for each of its at most
seven inputs and each plane, which is the model's choice (log 19). -/
def bufferFlits (a : PacketAt) : Nat :=
  match a with
  | .leaving | .arriving => 16
  | _ => 4

/-- Has the buffer in which a packet would stand credit for all of its flits (R13, R16)? -/
def hasCredit (s : State) (p : Packet) : Bool :=
  decide (((s.packets.filter (sameBuffer p)).map (·.flits)).sum + p.flits ≤ bufferFlits p.at_)

/-- Is packet number i the first of its buffer, in which packets keep their order (R14, R16)? -/
def isFirst (s : State) (i : Nat) (p : Packet) : Bool := !(s.packets.take i).any (sameBuffer p)

/-- The packets without number i. -/
def withoutPacket (s : State) (i : Nat) : List Packet := s.packets.take i ++ s.packets.drop (i + 1)

/-- The inputs of a router in the order of its round-robin. -/
def meshInputs : List MeshInput := [.fromWest, .fromEast, .fromNorth, .fromSouth, .computePort, .homePort, .ioPort]

/-- The inputs in turn after one. -/
def inputsAfter (i : MeshInput) : List MeshInput :=
  let n := (meshInputs.findIdx? (· == i)).getD 0
  meshInputs.drop (n + 1) ++ meshInputs.take (n + 1)

/-- Does the first packet of an input want an output of its router, on a plane (R14)? -/
def wants (s : State) (col row : Nat) (o : MeshOutput) (response : Bool) (i : MeshInput) : Bool :=
  match s.packets.find? fun p => p.at_ == .input col row i && p.response == response with
  | some p => (nextPlace p col row).1 == o
  | none => false

/-- Whose turn is it at an output of a router, on a plane (R14)? -/
def isGrant (col row : Nat) (o : MeshOutput) (response : Bool) (g : Grant) : Bool :=
  g.col == col && g.row == row && g.output == o && g.response == response

/-- The input that an output serves next: round-robin among those that hold a packet for it (R14). -/
def turnOf (s : State) (col row : Nat) (o : MeshOutput) (response : Bool) : Option MeshInput :=
  let order := match s.grants.find? (isGrant col row o response) with
    | some g => inputsAfter g.last
    | none => meshInputs
  order.find? (wants s col row o response)

/-- The packet at number i moves, in the order of arrival at its new buffer. -/
def movePacket (s : State) (i : Nat) (p : Packet) (a : PacketAt) : State :=
  { s with packets := withoutPacket s i ++ [{ p with at_ := a }] }

/-- The move of packet number i that is due (R13, R14, R16): into its port, from there into the router, or on from a router. -/
def hopDue (s : State) (i : Nat) (p : Packet) : Option State :=
  if !isFirst s i p then none
  else match p.at_ with
    | .passenger => if hasCredit s { p with at_ := .leaving } then some (movePacket s i p .leaving) else none
    | .leaving =>
      let r := routerOf p.srcSocket p.srcPort
      let a := PacketAt.input r.1 r.2 (portInput p.srcSocket)
      if hasCredit s { p with at_ := a } then some (movePacket s i p a) else none
    | .input c r from_ =>
      let n := nextPlace p c r
      if turnOf s c r n.1 p.response == some from_ && hasCredit s { p with at_ := n.2 } then
        let s1 := movePacket s i p n.2
        some { s1 with grants := upsert (isGrant c r n.1 p.response) ⟨c, r, n.1, p.response, from_⟩ s1.grants }
      else none
    | _ => none

/-- PACKET_HOP (R13, R14, R16): a packet advances as a whole when the next buffer has credit for all of its flits and it is its turn. -/
def execPacketHop (i : Nat) (s : State) : Result := whenDue "PACKET_HOP" ((s.packets[i]?).bind (hopDue s i))

/-- The fold of a passenger: that of the compute die or of the compute die paired with a home die; I/O dies have none (R8, R17). -/
def passengerFold (s : State) (socket : Nat) : Option Nat := if socket < 64 then (dieAt s (socket % 32)).fold else none

/-- Does a destination port deliver a packet (R17, R126)? A peer-window packet needs a handle that the receiving fold exports to the fold of
the tag; a service mark stands in place of a tag, for the drovers and the configuration ports of home dies; and an I/O die takes what is
bound for it (log 19). -/
def delivers (s : State) (p : Packet) : Bool :=
  match p.kind with
  | .plain => passengerFold s p.dstSocket == some p.fold
  | .ioDie => passengerFold s p.dstSocket == some p.fold || decide (64 ≤ p.dstSocket)
  | .service => decide (p.dstSocket < 64)
  | .peer id =>
    passengerFold s p.dstSocket == some p.fold ||
      ((passengerFold s p.dstSocket).bind (foldAt s)).any fun f => f.handles.any fun h => h.id == id && h.importer == p.fold && !h.revoked

/-- Reads n bytes at the home, each as DEVICE scope sees it (R354, R363). -/
def hostReadBytes (s : State) (key : Nat) : Nat → State × List Byte
  | 0 => (s, [])
  | n + 1 =>
    let a := homeRead4 s (wordKey key)
    let r := hostReadBytes a.1 (key + 1) n
    (r.1, BitVec.ofNat 8 (sliceOf a.2.1 (key % 4) 1) :: r.2)

/-- Writes bytes at the home, each registration being revoked first (R354, R366). A word that is written whole loses its mark, and a
narrower write keeps it (R280). -/
def hostWriteBytes (s : State) (key : Nat) : List Byte → State
  | [] => s
  | b :: t =>
    let s1 := revokeAt s .home (wordKey key) none
    let s2 := { s1 with mem := Memory.set s1.mem key b }
    let whole := decide (key % 4 = 0) && decide (4 ≤ (b :: t).length)
    hostWriteBytes (if whole then clearPoison s2 key else s2) (key + 1) t

/-- A host's access at the home of a fold, and the bytes that it reads (R354). -/
def performHost (s : State) (fold pa : Nat) (op : HostOp) : State × List Byte :=
  match op with
  | .read n => hostReadBytes s (homeKey fold pa) n
  | .write d => (hostWriteBytes s (homeKey fold pa) d, [])

/-- The bytes of an answer reach the host. -/
def hostTakes (cells : List Host.Cell) (key : Nat) : List Byte → List Host.Cell
  | [] => cells
  | b :: t => hostTakes (upsert (fun c => c.1 == key) (key, b) cells) (key + 1) t

/-- The response to a request goes back by the same two ports on the response plane (R12, R13). -/
def respond (s : State) (p : Packet) (flits : Nat) (cargo : Cargo) : State :=
  { s with packets := s.packets ++ [newPacket p.fold p.kind true (p.dstSocket, p.dstPort) (p.srcSocket, p.srcPort) flits cargo] }

/-- A port has delivered a packet: a request is performed and answered. -/
def landed (s : State) (p : Packet) : State :=
  match p.cargo with
  | .traffic => if p.response then s else respond s p 2 .traffic
  | .host pa op =>
    let r := performHost s p.fold pa op
    respond r.1 p (if r.2.isEmpty then 1 else 2) (.answer pa r.2)
  | .answer pa bytes => { s with hostRead := hostTakes s.hostRead (homeKey p.fold pa) bytes }

/-- The delivery of packet number i that is due (R16, R17): the port delivers it, or discards it and logs an isolation event. -/
def deliverDue (s : State) (i : Nat) (p : Packet) : Option State :=
  if p.at_ ≠ .arriving || !isFirst s i p then none
  else
    let s1 := { s with packets := withoutPacket s i }
    some (if delivers s p then landed s1 p else logRas s1 (some p.fold) .isolation (BitVec.ofNat 64 p.dstSocket))

/-- PACKET_DELIVER (R17). -/
def execPacketDeliver (i : Nat) (s : State) : Result := whenDue "PACKET_DELIVER" ((s.packets[i]?).bind (deliverDue s i))

/-! ## The host -/

/-- The parts of n bytes from a PA, each in one 64-byte line. -/
def lineParts : Nat → Nat → Nat → List (Nat × Nat)
  | 0, _, _ => []
  | f + 1, pa, n =>
    if n = 0 then []
    else
      let k := Nat.min n (64 - pa % 64)
      (pa, k) :: lineParts f (pa + k) (n - k)

/-- The part of an access from a PA that a line takes. -/
def partOf (op : HostOp) (pa : Nat) (x : Nat × Nat) : HostOp :=
  match op with
  | .read _ => .read x.2
  | .write d => .write ((d.drop (x.1 - pa)).take x.2)

/-- The packet of one part of a host's access from I/O die 80 to the home die h of its line (R12, R17; log 19): a write carries its bytes in
a second flit. -/
def hostPacket (f : Fold) (h pa : Nat) (op : HostOp) : Packet :=
  let s := homeSlice pa
  newPacket f.num .ioDie false (80, (h + s) % 8) (h, s % 4) (match op with | .read _ => 1 | .write _ => 2) (.host pa op)

/-- One part of a host's access: its packet leaves for its home, or where UALink serves the pooled range it is performed there (R125). -/
def hostPart (f : Fold) (op : HostOp) (pa : Nat) (s : State) (x : Nat × Nat) : State :=
  match homeOf f x.1 with
  | some h => { s with packets := s.packets ++ [hostPacket f h x.1 (partOf op pa x)] }
  | none =>
    let r := performHost s f.num x.1 (partOf op pa x)
    { r.1 with hostRead := hostTakes r.1.hostRead (homeKey f.num x.1) r.2 }

/-- HOST_ACCESS (R354): the host or an I/O-die agent reads or writes at the home, where the packets of the access arrive; a response brings
back what it reads. -/
def execHostAccess (fold pa : Nat) (op : HostOp) (s : State) : Result :=
  match foldAt s fold with
  | none => notDue "HOST_ACCESS"
  | some f =>
    let n := match op with | .read n => n | .write d => d.length
    let ps := lineParts n pa n
    let reached := fun (x : Nat × Nat) =>
      (homeOf f x.1).isSome || (decide (f.map.pbase ≤ x.1) && decide (x.1 + x.2 ≤ f.map.pbase + f.map.psize))
    if n = 0 || !ps.all reached then notDue "HOST_ACCESS"
    else
      let k := homeKey fold pa
      let s0 := { s with hostRead := s.hostRead.filter fun c => decide (c.1 < k) || decide (k + n ≤ c.1) }
      .next (ps.foldl (hostPart f op pa) s0)

/-! ## Memory errors -/

/-- The fold whose data a word belongs to. -/
def foldOfKey (s : State) (key : Nat) : Option Nat :=
  if isBankKey key then (dieAt s (bankOwner key).1.die).fold else some (key / 2 ^ 52)

/-- Marks a word that stands at a place (R280). -/
def poisonAt (s : State) (place : ErrPlace) (key : Nat) : State :=
  let k := wordKey key
  let mark := fun (l : Level) => match wordAt s l k with
    | some w => putWord s { w with poison := true }
    | none => s
  match place with
  | .stored => markPoison s k
  | .l1 p => mark (.l1 p)
  | .clusterCache c => mark (.cluster c)
  | .dieCache n => mark (.die n)

/-- A core's outstanding remote stores to words that an error has hit at their bank are refused late (R294). -/
def refuseStores (ks : List Nat) (c : Core) : Core :=
  let hit := fun (r : RemoteReq) => (match r.op with | .store _ _ => true | _ => false) && ks.contains (wordKey r.key)
  if c.q.remote.any hit then
    { c with q := { c.q with
        remote := c.q.remote.filter fun r => !hit r
        late := c.q.late ++ (c.q.remote.filter hit).map fun r => ⟨r.seq, c.trap.inh, 0⟩ } }
  else c

/-- UNCORRECTABLE_ERROR (R280, R294). -/
def execUncorrectableError (place : ErrPlace) (keys : List Nat) (s : State) : Result :=
  match keys with
  | [] => notDue "UNCORRECTABLE_ERROR"
  | k :: _ =>
    let s1 := keys.foldl (fun s k => poisonAt s place k) s
    let s2 := if place = .stored then mapCores s1 (refuseStores (keys.map wordKey)) else s1
    .next (logRas s2 (foldOfKey s k) .uncorrectable (BitVec.ofNat 64 k))

/-- SOFT_ERROR (R280): corrected, and counted in the RAS log. -/
def execSoftError (key : Nat) (s : State) : Result := .next (logRas s (foldOfKey s key) .softError (BitVec.ofNat 64 key))

/-- PARITY_ERROR (R130): the core in focus discards the line, which is fetched again, and the RAS log counts it. -/
def execParityError (line : Nat) (s : State) : Result :=
  if s.core.icache.any fun l => l.line == line then
    let s1 := setCore s { s.core with icache := s.core.icache.filter fun l => l.line != line }
    .next (logRas s1 (some s.core.fold) .parity (BitVec.ofNat 64 line))
  else notDue "PARITY_ERROR"

end Sys2Proof.Machine
end

