-- ==== Sys2Proof/Machine/DispatchEvents.lean ====
section
/-!
DEFINITION. Machine/DispatchEvents.lean: the dispatcher of a fold: doorbells (R84), head checks and dependence tests (R90, R91, R95),
the choice of a launch and its placement (R92 to R112), counter reports (R432), slices (R85 to R89), and the host's part in each
(R98, R99, R113, R424, R451).
-/

namespace Sys2Proof.Machine

/-! ## Submission -/

/-- A refused doorbell write (R84). -/
def refuseDoorbell (s : State) (v : Vf) (p : Nat) : State :=
  let full := (queueOf v p).enabled && queueFull (queueOf v p)
  setVf s { v with
    dbdrop := if v.dbdrop = BitVec.allOnes 32 then v.dbdrop else v.dbdrop + 1
    qovf := if full then v.qovf ||| BitVec.ofNat 8 (2 ^ p) else v.qovf }

/-- The record VA of a doorbell write: sext(RECVA << 8, 57) (R84). -/
def doorbellVa (value : Word) : Word := ((value.extractLsb' 8 49) ++ (0 : BitVec 8)).signExtend 64

/-- A doorbell write appends, or is refused (R81, R84). -/
def bellAppends (s : State) (vf p : Nat) (recVa : Word) : State :=
  match append s vf p recVa, vfAt s vf with
  | some r, _ => r.1
  | none, some v => refuseDoorbell s v p
  | none, none => s

/-- A doorbell write appends at once, or after the copy of a page that the append writes, and not before an older one (R84, R117). -/
def ringBell (s : State) (v : Vf) (p : Nat) (recVa : Word) : State :=
  if !v.bells.isEmpty then setVf s { v with bells := v.bells ++ [(p, recVa)] }
  else match appendWaits s v.num p recVa with
    | some s1 => setVf s1 { v with bells := [(p, recVa)] }
    | none => bellAppends s v.num p recVa

/-- DOORBELL (R81, R84): a write to the page of a VF that is not configured is ignored; one with a non-zero res0 bit is refused. -/
def execDoorbell (vf p : Nat) (value : Word) (s : State) : Result :=
  if 8 ≤ p || 512 ≤ vf then notDue "DOORBELL"
  else match vfAt s vf with
    | none => .next s
    | some v =>
      if value.extractLsb' 0 8 ≠ 0 || value.extractLsb' 57 7 ≠ 0 then
        .next (setVf s { v with dbdrop := if v.dbdrop = BitVec.allOnes 32 then v.dbdrop else v.dbdrop + 1 })
      else .next (ringBell s v p (doorbellVa value))

/-- The oldest doorbell write of a VF that waits for the copy of a page is performed, or asks for the copies (R84, R117). -/
def bellsDue (s : State) (v : Vf) : Option State :=
  match v.bells with
  | [] => none
  | b :: t =>
    match appendWaits s v.num b.1 b.2 with
    | some s1 => if s1 = s then none else some s1
    | none => some (bellAppends (setVf s { v with bells := t }) v.num b.1 b.2)

/-- A write that waits for the copies of pages is due: they are asked for where no request for them is open, or else it is made. -/
def copiedFirst (s : State) (vf : Nat) (vas : List Word) (act : State) : Option State :=
  match askCopies s vf vas with
  | some s1 => if s1 = s then none else some s1
  | none => some act

/-- HEAD and TAIL of a queue of a VF are written once their page has been copied (R79, R90, R117). -/
def blocksDue (s : State) (v : Vf) : Option State :=
  v.blockDue.findSome? fun p => copiedFirst s v.num [blockVa v p 0x10] (postBlock s v.num p)

/-- Is the VF of a launch running, its cores issuing again after a restore (R415)? -/
def vfGoes (s : State) (l : Launch) : Bool := (foldAt s l.fold).any fun f => f.running == some l.vf && f.restart.isNone

/-- May the record of a launch that has ended be written now? A record that the root writes waits while the VF is switched out (R433); one with
STATUS 8 or 4, or of a launch that has not been placed, does not (R435). -/
def mayWriteRecord (s : State) (l : Launch) (status : Nat) : Bool :=
  status == 8 || status == 4 || !l.reported.contains .root || vfGoes s l

/-- A write to a launch's completion record is made once its page has been copied (R117, R433, R436). -/
def recordsDue (s : State) : Option State :=
  s.launches.findSome? fun l =>
    match l.ending with
    | some e => if mayWriteRecord s l e.1 then copiedFirst s l.vf [l.record.compl] (answerNow s l e.1 e.2.1 e.2.2) else none
    | none => if l.trigWaits then copiedFirst s l.vf [l.record.compl] (writeTriggered s l) else none

/-- QOVF_CLEAR (R3, R84). -/
def execQovfClear (vf : Nat) (value : Word) (s : State) : Result :=
  if 512 ≤ vf then notDue "QOVF_CLEAR"
  else match vfAt s vf with
    | none => .next s
    | some v => .next (setVf s { v with qovf := v.qovf &&& ~~~(value.extractLsb' 0 8) })

/-! ## Heads and dependences -/

/-- HEADREADY for a head that has passed the checks, where the host chooses launches (R98). -/
def postHead (s : State) (fold : Nat) (l : Launch) : State :=
  match foldAt s fold with
  | some f => if f.mode.getLsbD 3 then postMb s fold ⟨7, l.vf, l.lid, BitVec.ofNat 64 l.prio, 0⟩ else s
  | none => s

/-- Does the answer of the entry at the head of a ring wait for the copy of its record's page, and HEAD with it (R90, R117)? -/
def headAnswering (s : State) (vf p : Nat) : Bool := s.launches.any fun l => l.vf == vf && l.prio == p && l.atHead

/-- An entry that has reached the head of its ring has been read and is checked (R90). One whose LID a launch still bears waits for the end
of that one (R82; log 44). HEAD advances after the completion record has been written. -/
def checkHead (s : State) (v : Vf) (p : Nat) : Option State :=
  match readHead s v p with
  | .unreadable => none
  | .unusable s1 lid => some (reportBad (advanceHead s1 v.num p) v.num lid .badLaunch)
  | .usable s1 l =>
    if (launchAt s l.lid).isSome then none
    else if malformed l.record || decide (l.record.prio.toNat ≠ p) then some (answer s1 { l with atHead := true } 5 0 0)
    else some (postHead (testHead (setLaunch s1 l) l) v.fold l)

/-- HEAD_CHECK (R90): the dispatcher reads the entry at the head of a ring once. -/
def execHeadCheck (vf p : Nat) (s : State) : Result :=
  match vfAt s vf with
  | none => notDue "HEAD_CHECK"
  | some v =>
    let q := queueOf v p
    if 8 ≤ p || q.tail ≤ q.head || (waitingHead s vf p).isSome || headAnswering s vf p then notDue "HEAD_CHECK" else whenDue "HEAD_CHECK" (checkHead s v p)

/-- Is a test of the waiting heads due: the device has written STATE, or 4 µs have passed (R91)? -/
def testIsDue (s : State) (f : Fold) : Bool := f.testDue || decide (f.lastTest + 400 ≤ (timeOf s).toNat)

/-- DEPENDENCE_TEST (R91). -/
def execDependenceTest (fold : Nat) (s : State) : Result :=
  match foldAt s fold with
  | none => notDue "DEPENDENCE_TEST"
  | some f => if testIsDue s f then .next (testHeads s f) else notDue "DEPENDENCE_TEST"

/-! ## Choosing and placing -/

/-- n words from a VA of any alignment, or none when a byte of them is not readable (R107). -/
def readImage (s : State) (vf : Nat) (va : Word) (n : Nat) : Option (State × List Word) :=
  let o := va.toNat % 8
  let base : Word := (va >>> 3) <<< 3
  if n = 0 then some (s, [])
  else (vfKeys s vf .r base (if o = 0 then n else n + 1)).map fun ks =>
    let r := readKeys (useVas s vf .r va (8 * n)) ks
    (r.1, if o = 0 then r.2 else (List.range n).map fun i =>
      (wordIdx r.2 i >>> (8 * o)) ||| (wordIdx r.2 (i + 1) <<< (64 - 8 * o)))

/-- The trip count of each level, from the record or from the launch frame's image (R41, R42, R94). -/
def tripsFrom (r : LaunchRec) (image : List Word) : Vector Nat 6 :=
  Vector.ofFn fun m =>
    let e := recLoop r m.val
    if r.nlevels.toNat ≤ m.val then 1
    else if loopCslot e then (wordIdx image (loopCount e)).toNat else loopCount e

/-- Bytes of a launch's frame (R107). -/
def frameBytes (l : Launch) : Nat := 40 + 8 * tSlots (recTmpl l.record 0)

/-- The regions of the pages of the launch frame, with region 0 (R95). -/
def frameRegions (s : State) (l : Launch) : Word :=
  (pagesOf l.record.lframe (frameBytes l)).foldl (fun (m : Word) va =>
    match vfKey s l.vf va .r with
    | some (_, pte) => m ||| (1 <<< (pteRegion pte).toNat)
    | none => m) 1

/-- The clusters of a fold with strands of a launch, and how many (R112). -/
def clusterShares (s : State) (f : Fold) (l : Launch) : List (ClusterPos × Nat) :=
  (f.dies.flatMap (dieClusters s)).filterMap fun c =>
    let n := clusterAssigned s l c
    if n = 0 then none else some (c, n)

/-- The counter tree of a launch at placement (R112). -/
def treeNodes (f : Fold) (shares : List (ClusterPos × Nat)) : List (TreeNode × Nat) :=
  let dies := f.dies.filterMap fun d =>
    let n := (shares.filter fun c => c.1.die == d).length
    if n = 0 then none else some (TreeNode.die d, n)
  (shares.map fun c => (TreeNode.cluster c.1, c.2)) ++ dies ++ [(TreeNode.root, dies.length)]

/-- Does a configured trough overlap the bytes of the cluster frame (R108)? -/
def troughsClash (r : LaunchRec) : Bool :=
  (List.range 4).any fun q =>
    overlaps (troughBase (recTrough r q)) (troughSlots (recTrough r q) * Config.slotBytes) 0 (40 + 8 * tSlots (recTmpl r 1))

/-- Do all strands of a launch have wave 0 (R96)? -/
def oneWave (s : State) (f : Fold) (l : Launch) : Bool :=
  (List.range f.dies.length).all fun j => decide (dieStrands l f.dies.length j ≤ dieCoreCount s ((f.dies[j]?).getD 0))

/-- Posts PLACEWAVE for a wave of a die (R113). -/
def postWave (s : State) (f : Fold) (l : Launch) (die wave : Nat) : State :=
  let j := (dieIndex f die).getD 0
  let n := dieCoreCount s die
  let total := dieStrands l f.dies.length j
  let count := Nat.min n (total - wave * n)
  let s1 := postMb s f.num ⟨10, l.vf, l.lid, BitVec.ofNat 64 die, BitVec.ofNat 64 (wave * 2 ^ 32 + count)⟩
  match foldAt s1 f.num with
  | some f1 => setFold s1 { f1 with placewaves := f1.placewaves ++ [(l.lid, die, wave)] }
  | none => s1

/-- The status with which a launch ends at once by its trip counts, if it does (R42, R94). -/
def tripsEnd (r : LaunchRec) (trips : Vector Nat 6) : Option Nat :=
  let n := kindProduct r trips 1 * kindProduct r trips 2
  if (List.range 6).any (fun m => decide (2 ^ 32 ≤ (trips[m]?).getD 0)) || decide (2 ^ 32 ≤ n) then some 6
  else if n = 0 then some 0
  else none

/-- Does the launch frame's image supply a trip count (R41)? -/
def slotCounts (r : LaunchRec) : Bool := (List.range r.nlevels.toNat).any fun m => loopCslot (recLoop r m)

/-- What the start of placing comes to (R94, R96, R107, R108): the launch ends with a status, or its frame takes words at some keys. -/
inductive Placing where
  | ends (s : State) (status : Nat)
  | frame (s : State) (l : Launch) (image : List Word) (keys : List Nat)
  deriving Repr

/-- The tests at the start of placing, in the order of R94 and R107. Trip counts that the record gives are tested before the image is read
(log 45). -/
def placingTests (s : State) (f : Fold) (l : Launch) : Placing :=
  let r := l.record
  let n0 := tSlots (recTmpl r 0)
  match if slotCounts r then none else tripsEnd r (tripsFrom r []) with
  | some st => .ends s st
  | none =>
    match if r.image = 0 then some (s, List.replicate n0 (0 : Word)) else readImage s l.vf r.image n0 with
    | none => .ends s 6
    | some (s1, image) =>
      let trips := tripsFrom r image
      let l1 := { l with phase := .placing, trips := trips, nd := kindProduct r trips 1, nc := kindProduct r trips 2, assisted := f.mode.getLsbD 4 }
      match tripsEnd r trips with
      | some st => .ends s1 st
      | none =>
        if (recSstep r && !oneWave s1 f l1) || troughsClash r then .ends s1 6
        else match vfKeys s1 l.vf .w r.lframe (5 + n0) with
          | none => .ends s1 6
          | some ks => .frame s1 l1 image ks

/-- A launch starts placing: its launch frame and its counter tree are set (R107, R112), and the host is told of its waves (R113). -/
def startPlacing (s : State) (f : Fold) (l : Launch) (image : List Word) (ks : List Nat) : State :=
  let r := l.record
  let shares := clusterShares s f l
  let head : List Word := [recTmpl r 0, 0, 0, newState shares.length 0 true false, 0]
  let s1 := writeKeys (useVas (advanceHead s l.vf l.prio) l.vf .w r.lframe (frameBytes l)) (ks.zip (head ++ image))
  let m := (if l.ready then l.mask else (depsTest s1 f l.vf r.deps.toList).2.2.2) ||| frameRegions s1 l
  let l1 := { l with mask := m, nodes := treeNodes f shares, trigger := l.nd * l.nc, taken := true }
  let s2 := setLaunch s1 l1
  if l1.assisted then
    (f.dies.filter fun d => shares.any fun c => c.1.die == d).foldl (fun s d => postWave s ((foldAt s f.num).getD f) l1 d 0) s2
  else s2

/-- A launch is taken for placing (R92, R94): it ends at once, or starts placing once the pages of its frame have been copied (R117). None
while it waits for them. -/
def beginPlacing (s : State) (f : Fold) (l : Launch) : Option State :=
  let take := fun (s : State) =>
    match foldAt s f.num with
    | some f1 => setFold s { f1 with starts := f1.starts.filter (· != l.lid) }
    | none => s
  match placingTests s f l with
  | .ends s1 st => some (advanceHead (answer (take s1) { l with taken := true } st 0 0) l.vf l.prio)
  | .frame s1 l1 image ks =>
    match askCopies s1 l.vf (pagesOf l.record.lframe (frameBytes l)) with
    | some s2 => if s2 = s then none else some s2
    | none => some (startPlacing (take s1) f l1 image ks)

/-- The waiting head that is taken next: in the hardware mode the ready head of the highest-priority queue that has one (R92); in the
assisted mode the one that the host started first (R98). -/
def nextLaunch (s : State) (f : Fold) (vf : Nat) : Option Launch :=
  let heads := s.launches.filter fun l => l.vf == vf && l.phase == .waiting
  if f.mode.getLsbD 3 then
    (f.starts.findSome? fun lid => heads.find? fun l => l.lid == lid)
  else ([7, 6, 5, 4, 3, 2, 1, 0]).findSome? fun p => heads.find? fun l => l.prio == p && l.ready

/-- The launch that is placing for a VF (R93). -/
def placingOf (s : State) (vf : Nat) : Option Launch := s.launches.find? fun l => l.vf == vf && l.phase == .placing

/-- The choice that is due for a fold (R92). -/
def chooseDue (s : State) (f : Fold) : Option State :=
  match f.running with
  | none => none
  | some vf =>
    if (placingOf s vf).isSome || (f.switchT.any fun t => decide (t ≤ (timeOf s).toNat)) then none
    else (nextLaunch s f vf).bind (beginPlacing s f)

/-- CHOOSE_LAUNCH (R92 to R96, R106, R107, R112). -/
def execChooseLaunch (fold : Nat) (s : State) : Result :=
  match foldAt s fold with
  | none => notDue "CHOOSE_LAUNCH"
  | some f => whenDue "CHOOSE_LAUNCH" (chooseDue s f)

/-! ## Clusters -/

/-- May a launch hold an entry of a node: it does already, or fewer than n others do that have not completed there (R106)? -/
def mayEnter (s : State) (l : Launch) (node : TreeNode) (n : Nat) : Bool :=
  l.entered.contains node ||
    decide ((s.launches.filter fun e => e.fold == l.fold && e.entered.contains node && !e.reported.contains node).length < n)

/-- Is a cluster free for a launch: its node has reached zero for the launch it holds, which is no superstep launch still to complete (R97),
or that launch's VF is switched out (R105)? -/
def clusterFree (s : State) (c : ClusterPos) (l : Launch) : Bool :=
  match (clusterAt s c).holds with
  | none => true
  | some h => match launchAt s h.1 with
    | none => true
    | some e => e.vf != l.vf || (nodeCount e (.cluster c) == 0 && !recSstep e.record)

/-- The cluster cache empties itself at a change of split: Held words and registrations go to the die cache (R105 step 1). -/
def emptyCluster (s : State) (c : ClusterPos) : State :=
  let lv := Level.cluster c
  let path := [lv, Level.die c.die, Level.home]
  let keys := (s.words.filter fun w => w.level == lv).map (·.key)
  let s1 := countWriteBacks (keys.foldl (fun s k => promote s 1 (.die c.die) path lv k) s)
  { s1 with words := s1.words.filter (fun w => w.level != lv), lines := s1.lines.filter fun e => e.at_ != .cluster c }

/-- Sets up the troughs of a launch (R105 step 3). -/
def troughsOf (r : LaunchRec) : Vector Trough 4 :=
  Vector.ofFn fun q =>
    let w := recTrough r q.val
    let n := troughSlots w
    if n = 0 then Trough.reset
    else { base := troughBase w, nslot := n, head := 0, tail := 0, res := 0, gens := List.replicate n 0, written := [] }

/-- A launch takes its entries of the root and of a die node (R106). -/
def enterNodes (l : Launch) (die : Nat) : Launch := { l with entered := ([TreeNode.root, .die die] ++ l.entered).eraseDups }

/-- A cluster takes a launch (R105, R106, R108). -/
def takeLaunch (s0 : State) (c : ClusterPos) (l : Launch) : State :=
  let s := setLaunch s0 (enterNodes l c.die)
  let k := clusterAt s c
  let split := l.record.split.toNat
  let s1 := if split ≠ k.split then emptyCluster s c else s
  let s2 := if (k.holds.map (·.2)) = some l.vf then s1 else zeroRange s1 (padKey c) Config.clusterSram
  let s3 := setCluster s2 { k with split := split, holds := some (l.lid, l.vf), troughs := troughsOf l.record, groups := Vector.replicate 4 NegGroup.reset }
  let s4 := mapCores s3 fun x => if x.pos.cluster = c then { x with mat := { x.mat with stat := [] } } else x
  let n := tSlots (recTmpl l.record 1)
  let s5 := zeroRange s4 (padKey c + 40) (8 * n)
  writeHeader s5 l.vf (clusterFrameVa c) (recTmpl l.record 1) l.record.lframe 0 (newState (clusterAssigned s l c) 1 true false) 0

/-- CLUSTER_TAKE_LAUNCH (R104 to R106, R108). -/
def execClusterTakeLaunch (c : ClusterPos) (lid : Word) (s : State) : Result :=
  match launchAt s lid with
  | none => notDue "CLUSTER_TAKE_LAUNCH"
  | some l =>
    if l.phase = .placing && !l.killed && !l.killWaits.contains (.cluster c) && vfRuns s l && clusterEnabled s c && clusterAssigned s l c ≠ 0 &&
        ((clusterAt s c).holds.map (·.1)) ≠ some lid && clusterFree s c l && mayEnter s l (.die c.die) Config.dieNodeEntries &&
        mayEnter s l .root Config.rootEntries then .next (takeLaunch s c l)
    else notDue "CLUSTER_TAKE_LAUNCH"

/-! ## Strands -/

/-- The cores that a launch assigns strands to (R103). -/
def launchCores (s : State) (f : Fold) (l : Launch) : List CorePos :=
  ((f.dies.flatMap (dieClusters s)).flatMap (clusterCores s)).filter fun p => assigned s l p ≠ 0

/-- Is a core free for the next strand of a launch (R104)? -/
def coreAdmits (s : State) (l : Launch) (p : CorePos) : Bool :=
  coreFree s (coreAt s p) && decide (startedOn l p < assigned s l p) && ((clusterAt s p.cluster).holds.map (·.1)) == some l.lid

/-- The next strand of a launch starts on a core, which is put in focus (R102, R103, R109 to R111). -/
def startStrand (s : State) (f : Fold) (l : Launch) (p : CorePos) : State :=
  let j := (dieIndex f p.die).getD 0
  let ic := indexPair l f.dies.length j (nextSeq s l p)
  let s1 := startCore s l p .strand (indicesOf l ic.1 ic.2)
  let t := recTmpl l.record 2
  let n := tSlots t
  let h := tcmVa p 0
  let s2 := zeroRange s1 (tcmKey p + 40) (8 * n)
  let s3 := writeHeader s2 l.vf h t (clusterFrameVa p.cluster) 0 (newState 0 2 false false) 0
  let g := s3.core.regs
  let chain := [(0, l.record.lframe, recTmpl l.record 0), (1, clusterFrameVa p.cluster, recTmpl l.record 1), (2, h, t)]
  let s4 := setRegs s3 { g with pc := l.record.entry, frames := [⟨0, 40 + 8 * n, t⟩] }
  let s5 := acquire (setDisplay s4 2 chain) l.mask 2
  setLaunch s5 (endPlacing (setStarted ((launchAt s5 l.lid).getD l) p (startedOn l p + 1)))

/-- Has the host let every wave 0 of an assisted launch go (R113, log 20)? -/
def wavesGo (f : Fold) (l : Launch) : Bool :=
  (f.dies.filter fun d => l.nodes.any fun n => n.1 == .die d).all fun d => l.go.contains (d, 0)

/-- The launch that a core's cluster holds, with its fold. -/
def heldLaunch (s : State) (p : CorePos) : Option (Launch × Fold) :=
  (((clusterAt s p.cluster).holds).bind fun h => launchAt s h.1).bind fun l => (foldAt s l.fold).map fun f => (l, f)

/-- Does the wave of a core's next strand wait for PLACEGO (R113)? -/
def waveHeld (f : Fold) (l : Launch) (p : CorePos) : Bool := l.assisted && !(wavesGo f l && l.go.contains (p.die, startedOn l p))

/-- Can a strand of a launch start on a core (R104): it is free for it, its wave may go, and for a superstep launch every core is (R96)? -/
def canStart (s : State) (f : Fold) (l : Launch) (p : CorePos) : Bool :=
  vfRuns s l && strandWaits s l p && coreAdmits s l p && !waveHeld f l p && (!recSstep l.record || (launchCores s f l).all (coreAdmits s l))

/-- The start of a strand on a core (R104): a superstep launch starts all its strands in one step (R96), and in the assisted mode a wave
waits for PLACEGO (R113). -/
def strandDue (s : State) (p : CorePos) : Option State :=
  match heldLaunch s p with
  | none => none
  | some (l, f) =>
    if canStart s f l p then
      if recSstep l.record then some ((launchCores s f l).foldl (fun s q => startStrand s f ((launchAt s l.lid).getD l) q) s)
      else some (startStrand s f l p)
    else
      let wave := startedOn l p
      if vfRuns s l && strandWaits s l p && coreAdmits s l p && waveHeld f l p && wave != 0 && !f.placewaves.contains (l.lid, p.die, wave) &&
          !l.go.contains (p.die, wave) then some (postWave s f l p.die wave)
      else none

/-- STRAND_START (R104, R109 to R111). -/
def execStrandStart (p : CorePos) (s : State) : Result := whenDue "STRAND_START" (strandDue s p)

/-- The theft that is due for the core in focus, which is idle and can start no strand (R214, R215). One that changes the launch frame, below a
killed frame, waits for the copies of the frame's pages (R117). -/
def stealDue (s : State) : Option State :=
  let p := s.core.pos
  match heldLaunch s p with
  | none => none
  | some (l, f) =>
    if !coreFree s s.core || !vfRuns s l || canStart s f l p then none
    else (robbed s p).bind fun v => ((coreAt s v).sync.deque.getLast?).bind fun e =>
      let t := theft s l p v e
      match launchCopies s t l with
      | some s1 => if s1 = s then none else some s1
      | none => some t

/-- STEAL (R215). -/
def execSteal (s : State) : Result := whenDue "STEAL" (stealDue s)

/-- Have the reports that the end of a strand on a core has brought about run up the tree of its launch (R432)? -/
def chainDone (s : State) (lid : Word) (p : CorePos) : Bool :=
  match launchAt s lid with
  | none => true
  | some l => !reportDue l (.cluster p.cluster) && !reportDue l (.die p.die) && !reportDue l .root

/-- A core whose strand has ended is freed once the reports have run up the tree (R431 step 4, R432). -/
def freeRetired (s : State) (lid : Word) : State :=
  mapCores s fun c =>
    if c.lid = lid && c.sync.wait == some .retiring && chainDone s lid c.pos then { c with occ := .idle, sync := { c.sync with wait := none } } else c

/-- The report of a node of a launch whose VF runs, when one is due (R432, R433). -/
def nodeReports (s : State) (l : Launch) (n : TreeNode) : Option State :=
  if l.phase ≠ .waiting && vfGoes s l && reportDue l n then some (freeRetired (nodeReport s l n) l.lid) else none

/-- COUNTER_REPORT (R432, R433). -/
def execCounterReport (lid : Word) (node : TreeNode) (s : State) : Result :=
  whenDue "COUNTER_REPORT" ((launchAt s lid).bind fun l => nodeReports s l node)

/-! ## Slices -/

/-- Has a VF ready work (R86)? Where the host chooses launches, a waiting head is ready once the host has started it (R98). -/
def readyWork (s : State) (f : Fold) (vf : Nat) : Bool :=
  s.launches.any fun l => l.vf == vf &&
    (match l.phase with
     | .waiting => if f.mode.getLsbD 3 then f.starts.contains l.lid else l.ready
     | _ => underWay l)

/-- Inserts a VF by number. -/
def insertVf (v : Vf) : List Vf → List Vf
  | [] => [v]
  | h :: t => if v.num < h.num then v :: h :: t else h :: insertVf v t

/-- The VFs of a fold in ascending order. -/
def foldVfs (s : State) (fold : Nat) : List Vf := (s.vfs.filter fun v => v.fold == fold).foldl (fun acc v => insertVf v acc) []

/-- The VFs in turn after the one served last, wrapping (R87). -/
def turnOrder (vs : List Vf) (served : Option Nat) : List Vf :=
  match served with
  | none => vs
  | some n => (vs.filter fun v => decide (n < v.num)) ++ (vs.filter fun v => decide (v.num ≤ n))

/-- A change of WEIGHT or QUANTUM takes effect at the VF's turn (R89). -/
def atTurn (v : Vf) : Vf := { v with weight := v.nextWeight, quantum := v.nextQuantum }

/-- One round of R87 over the VFs in turn: the VFs as the round leaves them, and the VF that runs. -/
def roundOf (s : State) (f : Fold) : List Vf → List Vf × Option Nat
  | [] => ([], none)
  | v0 :: t =>
    let v := atTurn v0
    let go := fun (v : Vf) =>
      let r := roundOf s f t
      (v :: r.1, r.2)
    if v.weight = 0 then go v
    else if !readyWork s f v.num then go { v with deficit := 0 }
    else
      let d : Int := v.deficit + ((v.weight * 800 : Nat) : Int)
      if ((v.quantum * 100 : Nat) : Int) ≤ d then ({ v with deficit := d } :: t, some v.num) else go { v with deficit := d }

/-- Does a VF take part in the rounds with ready work? -/
def contends (s : State) (f : Fold) (v : Vf) : Bool := v.weight != 0 && readyWork s f v.num

/-- The rounds of credit after which a VF's deficit reaches its QUANTUM (R87). -/
def roundsNeeded (v : Vf) : Nat := ((((v.quantum * 100 : Nat) : Int) - v.deficit).toNat + v.weight * 800 - 1) / (v.weight * 800)

/-- The credit of n rounds that run no slice (R87). -/
def creditRounds (s : State) (f : Fold) (n : Nat) (v : Vf) : Vf :=
  if contends s f v then { v with deficit := v.deficit + ((n * v.weight * 800 : Nat) : Int) } else v

/-- Rounds until a VF runs (R87): after one that runs no slice, all but the last of those that are needed give credit alone. None when no VF
of positive WEIGHT has ready work. -/
def roundsOf (s : State) (f : Fold) (vs : List Vf) : List Vf × Option Nat :=
  let r := roundOf s f vs
  match r.2, (r.1.filter (contends s f)).map roundsNeeded with
  | some _, _ => r
  | none, [] => r
  | none, n :: t => roundOf s f (r.1.map (creditRounds s f (t.foldl Nat.min n - 1)))

/-- The VF that runs next (R87, R88): again the one served last while its deficit lasts, else by rounds, else a VF of WEIGHT 0, in the order
after the VF served last, whatever its WEIGHT (log 60). -/
def pickVf (s : State) (f : Fold) (again : Option Nat) : State × Option Nat :=
  let vs := foldVfs s f.num
  let stay := again.bind fun n => vs.find? fun v =>
    v.num == n && v.weight != 0 && readyWork s f n && decide (((v.quantum * 100 : Nat) : Int) ≤ v.deficit)
  match stay with
  | some v => (s, some v.num)
  | none =>
    let r := roundsOf s f (turnOrder vs f.lastServed)
    let s1 := r.1.foldl setVf s
    match r.2 with
    | some v => (s1, some v)
    | none => (s1, (r.1.find? fun v => v.weight == 0 && readyWork s f v.num).map (·.num))

/-- A slice of a VF begins, or the gang switch that leads to it is requested (R87, R411). A VF with no saved context starts where none
runs. -/
def beginSlice (s : State) (f : Fold) (vf : Nat) : State :=
  let now := (timeOf s).toNat
  let q := ((vfAt s vf).map (·.quantum)).getD 0
  let saved := ((vfAt s vf).map fun v => v.saved.isSome).getD false
  let f1 := { f with lastServed := some vf, sliceWaiting := false }
  if f.running = some vf || (f.running.isNone && !saved) then setFold s { f1 with running := some vf, sliceStart := now, sliceQuantum := q }
  else if f.running.isNone then setFold s { f1 with switchTo := some vf, sliceQuantum := 0 }
  else setFold s { f1 with switchT := some (now + 2000), switchTo := some vf, sliceQuantum := 0 }

/-- FOLDMODE takes effect at a slice boundary (R99, R452). Where the host comes to choose launches, it is told of the heads that wait; where
it no longer does, its STARTs lapse (log 60). -/
def applyMode (s : State) (f : Fold) : State :=
  let now := f.nextMode.getLsbD 3
  let s1 := setFold s { f with mode := f.nextMode, starts := if now then f.starts else [] }
  let s2 := { s1 with dies := s1.dies.map fun d => if d.fold = some f.num then { d with drvmode := f.nextMode } else d }
  if now && !f.mode.getLsbD 3 then
    (s2.launches.filter fun l => l.fold == f.num && l.phase == .waiting).foldl (fun s l => postHead s f.num l) s2
  else s2

/-- The time that the running VF has run in its slice is deducted with its debt (R87). -/
def chargeSlice (s : State) (f : Fold) (vf : Nat) : State :=
  match vfAt s vf with
  | none => s
  | some v =>
    let used : Int := (((timeOf s).toNat - f.sliceStart : Nat) : Int)
    setVf s { v with deficit := if v.weight = 0 then v.deficit else v.deficit - used - (v.debt : Int), debt := 0 }

/-- Is a slice running? -/
def sliceRuns (f : Fold) : Bool := f.sliceQuantum != 0 && !f.sliceWaiting

/-- Does a SNAPSHOT or MIGRATE take the gang switches of a fold (R454, R455)? -/
def jobHolds (s : State) (f : Fold) : Bool := s.svc.job.any fun j =>
  (j.stage == .leaving || j.stage == .returning || j.stage == .final) && (vfAt s j.vf).any fun v => v.fold == f.num

/-- SLICEEND, where the host chooses VFs: it reports the time used and the debt in whole µs, and the device deducts nothing (R98). That both
are rounded down is the model's choice (DESIGN CHOICE, log 60): no rule says how they come to whole µs. -/
def reportSlice (s : State) (f : Fold) (vf : Nat) : State :=
  let used := ((timeOf s).toNat - f.sliceStart) / 100
  let debt := ((vfAt s vf).map (·.debt)).getD 0
  let s1 := postMb (setFold s { f with sliceWaiting := true, sliceQuantum := 0 }) f.num ⟨5, vf, BitVec.ofNat 64 used, BitVec.ofNat 64 (debt / 100), 0⟩
  match vfAt s1 vf with
  | some v => setVf s1 { v with debt := 0 }
  | none => s1

/-- The slice boundary that is due for a fold (R87, R98, R99). While no slice runs there is no boundary to wait for, and a new FOLDMODE takes
effect at once (DESIGN CHOICE, log 76). -/
def sliceDue (s : State) (f : Fold) : Option State :=
  if f.switchT.isSome || f.switchTo.isSome || f.sliceWaiting || f.restart.isSome || jobHolds s f then none
  else if sliceRuns f then
    match f.running with
    | none => none
    | some vf =>
      if decide ((timeOf s).toNat < f.sliceStart + 100 * f.sliceQuantum) && readyWork s f vf then none
      else
        let s0 := applyMode s f
        let f0 := (foldAt s0 f.num).getD f
        if f0.mode.getLsbD 2 then some (reportSlice s0 f0 vf)
        else
          let r := pickVf (chargeSlice s0 f vf) f0 (some vf)
          some (match r.2 with
            | some v => beginSlice r.1 f0 v
            | none => setFold r.1 { f0 with sliceQuantum := 0 })
  else if f.nextMode ≠ f.mode then some (applyMode s f)
  else if !f.mode.getLsbD 2 && (foldVfs s f.num).any fun v => readyWork s f v.num then
    let r := pickVf s f none
    r.2.map fun v => beginSlice r.1 f v
  else none

/-- SLICE_END (R85 to R89, R98, R99): the slice ends, or none is running, and the next VF is chosen. -/
def execSliceEnd (fold : Nat) (s : State) : Result :=
  match foldAt s fold with
  | none => notDue "SLICE_END"
  | some f => whenDue "SLICE_END" (sliceDue s f)

/-! ## The host's part -/

/-- NEXTVF (R98), which counts as the VF's turn for a change of WEIGHT or QUANTUM (R89; log 60): it names the VF of the next slice; one
without ready work, or not of the fold, is ignored and reported. -/
def execNextvf (fold vf : Nat) (s : State) : Result :=
  match foldAt s fold with
  | none => notDue "NEXTVF"
  | some f =>
    let may := f.mode.getLsbD 2 && !sliceRuns f && f.switchT.isNone && f.switchTo.isNone
    if may && f.restart.isNone && vfInFold s fold vf && readyWork s f vf then
      let s1 := consumeMsg s f
      let s2 := match vfAt s1 vf with | some v => setVf s1 (atTurn v) | none => s1
      .next (beginSlice s2 ((foldAt s2 fold).getD f) vf)
    else .next (ignoreMsg s f 6 vf (BitVec.ofNat 64 0))

/-- The VF that a LID names (R82). -/
def lidVf (lid : Word) : Nat := lid.toNat / 2 ^ 39 % 512

/-- START (R98): the host lets a waiting head be placed. One for a LID that is not a waiting head is ignored; that MBERR reports it is the
model's choice (DESIGN CHOICE, log 18). -/
def execStart (fold : Nat) (lid : Word) (s : State) : Result :=
  match foldAt s fold with
  | none => notDue "START"
  | some f =>
    if f.mode.getLsbD 3 && (s.launches.any fun l => l.lid == lid && l.fold == fold && l.phase == .waiting) && !f.starts.contains lid then
      let s1 := consumeMsg s f
      .next (setFold s1 { (foldAt s1 fold).getD f with starts := f.starts ++ [lid] })
    else .next (ignoreMsg s f 8 (lidVf lid) lid)

/-- REFUSE (R98, R113): the host completes a waiting head with STATUS 5 or 6, or a launch in assisted placement, none of whose strands
has started, with STATUS 6. -/
def execRefuse (fold : Nat) (lid status : Word) (s : State) : Result :=
  match foldAt s fold with
  | none => notDue "REFUSE"
  | some f =>
    match (launchAt s lid).filter fun l => l.fold == fold with
    | none => .next (ignoreMsg s f 9 (lidVf lid) lid)
    | some l =>
      let head := f.mode.getLsbD 3 && l.phase == .waiting && (status == 5 || status == 6)
      let place := l.assisted && l.phase == .placing && status == 6 && !wavesGo f l
      if head then
        let s2 := answer (consumeMsg s f) { l with atHead := true } status.toNat 0 0
        .next (setFold s2 { (foldAt s2 fold).getD f with starts := f.starts.filter (· != lid) })
      else if place then
        let s1 := answer (consumeMsg s f) l 6 0 0
        .next (setFold s1 { (foldAt s1 fold).getD f with placewaves := f.placewaves.filter fun w => w.1 != lid })
      else .next (ignoreMsg s f 9 (lidVf lid) lid)

/-- PLACEGO (R113). -/
def execPlacego (fold : Nat) (lid : Word) (die wave : Nat) (s : State) : Result :=
  match foldAt s fold with
  | none => notDue "PLACEGO"
  | some f =>
    match launchAt s lid with
    | none => .next (ignoreMsg s f 11 (lidVf lid) lid)
    | some l =>
      if f.placewaves.contains (lid, die, wave) then
        let s1 := consumeMsg s f
        let s2 := setFold s1 { (foldAt s1 fold).getD f with placewaves := f.placewaves.erase (lid, die, wave) }
        .next (setLaunch s2 { l with go := (die, wave) :: l.go })
      else .next (ignoreMsg s f 11 (lidVf lid) lid)

/-- A strand that waited for the host's policy is no longer stopped (R424). -/
def goOn (c : Core) : Core := { c with sync := { c.sync with stopped := false } }

/-- CONTAINACT (R424): the policy is applied to the oldest waiting request of the LID, whose strand is no longer stopped. -/
def execContainact (fold : Nat) (lid policy : Word) (s : State) : Result :=
  match foldAt s fold with
  | none => notDue "CONTAINACT"
  | some f =>
    match f.contReqs.find? fun r => r.lid == lid with
    | some r =>
      if policy.toNat ≤ 2 then
        let s1 := consumeMsg s f
        let s2 := setFold s1 { (foldAt s1 fold).getD f with contReqs := f.contReqs.erase r }
        let c := coreAt s2 r.core
        let s3 := if c.lid = lid then setCoreAt s2 (goOn c) else s2
        let s4 := { s3 with vfs := s3.vfs.map fun v => { v with saved := v.saved.map fun x =>
          { x with cores := x.cores.map fun k => if k.pos = r.core && k.lid = lid then goOn k else k } } }
        .next (applyPolicy s4 fold lid (lidVf lid) policy.toNat)
      else .next (ignoreMsg s f 13 (lidVf lid) lid)
    | none => .next (ignoreMsg s f 13 (lidVf lid) lid)

/-- Posts the entries that wait for room (R450). -/
def postWaiting : Nat → State → Nat → State
  | 0, s, _ => s
  | n + 1, s, fold =>
    match foldAt s fold with
    | none => s
    | some f =>
      match f.mbWait with
      | [] => s
      | e :: t => if f.d2htail - f.d2hhead < Config.mailboxEntries then
            let s1 := postMb (setFold s { f with mbWait := [] }) fold e
            postWaiting n (setFold s1 { (foldAt s1 fold).getD f with mbWait := t }) fold
          else s

/-- D2HHEAD_WRITE (R451): a write below the current value or above D2HTAIL is ignored; entries that waited for room are posted. -/
def execD2hheadWrite (fold : Nat) (value : Word) (s : State) : Result :=
  match foldAt s fold with
  | none => notDue "D2HHEAD_WRITE"
  | some f =>
    if value.toNat < f.d2hhead || f.d2htail < value.toNat then .next s
    else
      let s1 := setFold s { f with d2hhead := value.toNat }
      .next (postWaiting f.mbWait.length s1 fold)

end Sys2Proof.Machine
end

