-- ==== Sys2Proof/Machine/SwitchEvents.lean ====
section
/-!
DEFINITION. Machine/SwitchEvents.lean: the gang switch out and in (R371, R411 to R417, R419 to R422), and the fold reset (R449).
-/

namespace Sys2Proof.Machine

/-! ## Stopping and saving -/

/-- Queued instructions that have started complete, as long as none before them has not: one that faulted takes its trap (R412 step 2). -/
def completeStarted : Nat → State → State
  | 0, s => s
  | n + 1, s =>
    if (s.core.q.queue.head?).any fun e => e.ahead.isSome then
      match runHead s with
      | .clear s1 => completeStarted n s1
      | .trapped s1 => s1
      | .blocked s1 => s1
    else s

/-- The store-buffer entries that remain at a switch are performed (R412 step 3), up to a Leave that waits for the copy of a page (R117). -/
def performAllSb : Nat → State → State
  | 0, s => s
  | n + 1, s =>
    match s.core.q.sb with
    | [] => s
    | e :: t =>
      match leaveCopies s e with
      | some s1 => s1
      | none => performAllSb n (performSb (setQ s { s.core.q with sb := t }) e)

/-- A core no longer waits for the service of a page (R299). -/
def forgetWaits (s : State) (p : CorePos) : State :=
  { s with pageReqs := (s.pageReqs.map fun r => { r with waiters := r.waiters.filter fun w => w.1 != p }).filter fun r =>
      !r.refused || !r.waiters.isEmpty }

/-- An act leaves the home request counters as they were: a gang switch does (R127). -/
def uncounted (f : State → State) (s : State) : State :=
  let t := f s
  { t with dies := t.dies.map fun d => { d with hreql := (dieAt s d.num).hreql, hreqr := (dieAt s d.num).hreqr } }

/-- The core in focus stops (R412 steps 1 to 5): its wait is withdrawn, what has started completes and the rest of its queue is rolled back,
its stores are performed and its remote requests answered, and its L1 is written back (R371). -/
def stopCore (s : State) : State :=
  let s1 := withdrawWait s
  let s2 := completeStarted s1.core.q.queue.length s1
  let s3 := match s2.core.q.queue with
    | [] => s2
    | e :: _ => rollback s2 e false
  let s4 := performAllSb s3.core.q.sb.length (forgetWaits (dropPosts s3 s3.core.pos) s3.core.pos)
  if s4.core.q.sb.isEmpty then
    let s5 := uncounted (fun u => writeBackCore u u.core.pos) (flushRemote s4)
    setCore s5 { s5.core with prefs := [], sync := { s5.core.sync with stall := false, trapWaits := false, halted := true } }
  else s4

/-- The cores that a VF of a fold has used: those that hold a strand or a task, and those whose L1 may hold words of it. -/
def coresOf (s : State) (f : Fold) (vf : Nat) : List Core := (allCores s).filter fun c => c.vf == vf && c.fold == f.num

/-- Does an open region of its strand delay a core (R416)? -/
def isDelayed (c : Core) : Bool := c.occ != .idle && regionOpen c

/-- The cores of a VF that stop now (R412, R416). -/
def stopsNow (s : State) (f : Fold) (vf : Nat) : List CorePos :=
  ((coresOf s f vf).filter fun c => !c.sync.halted && !isDelayed c).map (·.pos)

/-- The negotiators of a fold cancel their incomplete rounds (R351, R413). -/
def cancelRounds (s : State) (f : Fold) : State :=
  { s with clusters := s.clusters.map fun k =>
      if f.dies.contains k.pos.die then { k with groups := k.groups.map fun g => { g with posts := [] } } else k }

/-- At the switch time the negotiators cancel their rounds, and the fold notes whether an open region delays a core (R413, R416, R417). -/
def atSwitchTime (s : State) (f : Fold) (vf : Nat) : State :=
  let s1 := cancelRounds s f
  match foldAt s1 f.num with
  | some f1 => setFold s1 { f1 with delayed := f1.delayed || (coresOf s1 f1 vf).any isDelayed }
  | none => s1

/-- Every core that no open region delays stops (R412). -/
def stopCores (s : State) (f : Fold) (vf : Nat) : State := (stopsNow s f vf).foldl (fun s p => asCore s p stopCore) s

/-- A tile that has been saved is not dirty (R419). -/
def savedTile (t : Tile) : Tile := if t.valid then { t with dirty := false } else t

/-- What the save area keeps of a core (R419): its caches and stationary copies are not kept, and CYCLE is kept as the count so far
(R153). -/
def savedCore (now : Nat) (c : Core) : Core :=
  { c with
    icache := []
    prefs := []
    gates := []
    mat := { c.mat with tiles := c.mat.tiles.map savedTile, stat := [] }
    sync := { c.sync with halted := false }
    regs := { c.regs with cycleBase := BitVec.ofNat 64 now - c.regs.cycleBase } }

/-- Does a core hold state of a VF (R411, R419)? -/
def holdsState (vf : Nat) (c : Core) : Bool := c.vf == vf && (c.occ != .idle || !c.regs.frames.isEmpty)

/-- Does a cluster hold state of a VF: the launch in force there has not reported, or is a superstep launch still to complete, which keeps its
cores (R97, R411, R419)? -/
def clusterHolds (s : State) (vf : Nat) (k : Cluster) : Bool :=
  match k.holds with
  | none => false
  | some h => h.2 == vf && (!k.cmds.isEmpty || (launchAt s h.1).any fun l => !l.reported.contains (.cluster k.pos) || recSstep l.record)

/-! ## The save area -/

/-- The numbers of the 4 KiB blocks of n bytes. -/
def pieces (n : Nat) : List Nat := List.range (n / 4096)

/-- The blocks of a core in a save area (R419). -/
def coreBlocks (c : Core) : List SaveBlock :=
  .core c.pos :: ((List.range 8).filter fun t => (c.mat.tiles[t]?).any (·.valid)).map (SaveBlock.tile c.pos) ++ (pieces Config.tcmBytes).map (SaveBlock.tcm c.pos)

/-- The blocks of a cluster in a save area (R419). -/
def clusterBlocks (k : Cluster) : List SaveBlock := .cluster k.pos :: (pieces (padBytes k.split)).map (SaveBlock.pad k.pos)

/-- The blocks of a save (R419, R420), the manifest last. -/
def saveBlocks (f : Fold) (cores : List Core) (clusters : List Cluster) : List SaveBlock :=
  cores.flatMap coreBlocks ++ clusters.flatMap clusterBlocks ++ f.dies.map SaveBlock.die ++ [.fold, .manifest]

/-- Is a snapshot of a VF under way (R454)? -/
def snapshotting (s : State) (vf : Nat) : Bool := s.svc.job.any fun j => j.vf == vf && j.stage == .leaving

/-- Is a block kept over from an earlier epoch: a snapshot skips a tile whose DIRTY is clear and whose last saved copy is still in the area
(R419)? -/
def keptOver (area : List AreaBlock) (cores : List Core) (b : SaveBlock) : Bool :=
  match b with
  | .tile p t => (area.any fun a => a.block == b) && cores.any fun c => c.pos == p && (c.mat.tiles[t]?).any fun x => !x.dirty
  | _ => false

/-- The save area of a VF after a save under an epoch (R419, R420): each block written has a tag of its own, and the manifest keeps the epoch of
one kept over. -/
def writeArea (s : State) (v : Vf) (epoch : Nat) (cores : List Core) (bs : List SaveBlock) : State × List AreaBlock :=
  let snap := snapshotting s v.num
  let f := nextFree s
  (f.1, ((List.range bs.length).zip bs).map fun x =>
    match (if snap && keptOver v.area cores x.2 then v.area.find? fun a => a.block == x.2 else none) with
    | some a => a
    | none => ⟨x.2, epoch, Config.blockTag f.2 x.1⟩)

/-- Do the blocks of a saved context pass their tags (R420, R422): under the fold's key, and each under the epoch that the manifest gives? -/
def areaOk (f : Fold) (v : Vf) (x : Saved) : Bool :=
  x.intact && x.key == f.saveKey && (v.area.all fun b => decide (b.epoch ≤ x.epoch)) &&
    (v.area.any fun b => b.block == .manifest && b.epoch == x.epoch)

/-- A core whose state has been saved: idle, with what it last held (R294, R412). -/
def vacated (c : Core) : Core := { Core.reset c.pos with fold := c.fold, vf := c.vf, lid := c.lid, holds := c.holds }

/-- The keys of a saved context's local memories: (first key, length) of each TCM and scratchpad. -/
def localRanges (cores : List Core) (clusters : List Cluster) : List (Nat × Nat) :=
  (cores.map fun c => (tcmKey c.pos, Config.tcmBytes)) ++ (clusters.map fun k => (padKey k.pos, Config.clusterSram))

/-- Is a key in one of the ranges? -/
def inRanges (rs : List (Nat × Nat)) (k : Nat) : Bool := rs.any fun r => decide (r.1 ≤ k) && decide (k < r.1 + r.2)

/-- The write-back of the cluster caches, then of the die caches, of a fold (R371 step 3). -/
def writeBackCaches (s : State) (f : Fold) : State :=
  let cs := ((s.words.filterMap fun w => match w.level with | .cluster c => some c | _ => none).eraseDups).filter fun c => f.dies.contains c.die
  let s1 := cs.foldl (fun s c => writeBackLevel s (.cluster c) (.die c.die)) s
  f.dies.foldl (fun s d => writeBackLevel s (.die d) .home) s1

/-- A packet falls out into the drop buffer of the router that holds it, or stays with the port that holds it, and its remaining hop count is
recorded (R18, R414). -/
def dropOut (p : Packet) : Packet :=
  { p with
    at_ := match p.at_ with | .input c r i => .drop c r i | a => a
    hops := hopsLeft p
    again := false }

/-- The context of a VF whose cores have all stopped is saved (R413, R414, R419, R420). The engines drop the requests that its strands have
parked, wherever their words lie. -/
def saveVf (s : State) (f : Fold) (vf : Nat) : State :=
  let s1 := uncounted (fun u => writeBackCaches u f) s
  let cores := (allCores s1).filter (holdsState vf)
  let clusters := s1.clusters.filter (clusterHolds s1 vf)
  let rs := localRanges cores clusters
  match vfAt s1 vf with
  | none => s1
  | some v =>
    let keep := (s1.packets.filter fun p => p.fold == f.num).map dropOut
    let area := writeArea s1 v (v.epoch + 1) cores (saveBlocks f cores clusters)
    let ctx : Saved := ⟨v.epoch + 1, f.saveKey, true, cores.map (savedCore s1.now), clusters, s1.mem.filter (fun c => inRanges rs c.1),
      s1.poison.filter (inRanges rs), keep, false⟩
    let used := !cores.isEmpty || !clusters.isEmpty || !keep.isEmpty || (s1.launches.any fun l => l.vf == vf && l.phase != .waiting)
    let s2 := setVf area.1 { v with epoch := v.epoch + 1, saved := if used then some ctx else none, area := if used then area.2 else [] }
    let s3 := mapCores s2 fun c => if c.vf = vf && c.fold = f.num then vacated c else c
    { s3 with
      clusters := s3.clusters.map (fun k =>
        if clusterHolds s1 vf k then { Cluster.reset k.pos with split := k.split, holds := k.holds } else k)
      packets := s3.packets.filter (fun p => p.fold != f.num)
      parked := s3.parked.filter (fun p => p.vf != vf) }

/-- The excess of a switch in TIME counts: whole microseconds, to nearest, ties up (R417). -/
def excess (now t : Nat) : Nat := (now - t + 50) / 100 * 100

/-- The switch out of a fold's running VF whose cores have all stopped, with the debt of its delay (R411 to R417). -/
def switchOut (s : State) (f : Fold) (vf t : Nat) : State :=
  let s1 := saveVf s f vf
  let e := if f.delayed then excess (timeOf s).toNat t else 0
  let s2 := match vfAt s1 vf with
    | some v => setVf s1 { v with debt := v.debt + e }
    | none => s1
  match foldAt s2 f.num with
  | some f2 => setFold s2 { f2 with running := none, switchT := none, delayed := false, sliceQuantum := 0, sliceWaiting := false }
  | none => s2

/-- What a gang switch out does next once T has come: the cores that may stop do so, and with the last of them the context is saved
(R412, R416). -/
def switchOutDue (s : State) (f : Fold) : Option State :=
  match f.running, f.switchT with
  | some vf, some t =>
    if (timeOf s).toNat < t then none
    else
      let s1 := stopCores (atSwitchTime s f vf) f vf
      let f1 := (foldAt s1 f.num).getD f
      if (coresOf s1 f1 vf).all fun c => c.sync.halted then some (switchOut s1 f1 vf t)
      else if s1 = s then none
      else some s1
  | _, _ => none

/-- GANG_SWITCH_OUT (R411 to R417, R419, R420). -/
def execGangSwitchOut (fold : Nat) (s : State) : Result :=
  match foldAt s fold with
  | none => notDue "GANG_SWITCH_OUT"
  | some f => whenDue "GANG_SWITCH_OUT" (switchOutDue s f)

/-! ## Restoring -/

/-- Does a packet of a fold that a switch in has injected anew stand in the mesh (R415)? -/
def reinjected (s : State) (f : Fold) : Bool := s.packets.any fun p => p.fold == f.num && p.again

/-- A packet from a drop buffer goes back to the input that it left. -/
def injected (p : Packet) : Packet :=
  { p with at_ := match p.at_ with | .drop c r i => .input c r i | a => a, again := true }

/-- A round of re-injection (R415 step 1): the packets of hop count h go back where there is credit, in their order. kept are those that
stay. -/
def injectRound (h : Nat) (s : State) (kept : List Packet) : List Packet → State × List Packet
  | [] => (s, kept)
  | p :: t =>
    let q := injected p
    let behind := kept.any fun x => x.hops == h && sameBuffer (injected x) q
    if p.hops = h && !behind && hasCredit s q then injectRound h { s with packets := s.packets ++ [q] } kept t
    else injectRound h s (kept ++ [p]) t

/-- Puts saved cells back. -/
def putCells (m : Memory) : List Host.Cell → Memory
  | [] => m
  | c :: t => putCells (Memory.set m c.1 c.2) t

/-- A saved core is put back: CYCLE goes on from its count (R153). -/
def restoredCore (now : Nat) (c : Core) : Core := { c with regs := { c.regs with cycleBase := BitVec.ofNat 64 now - c.regs.cycleBase } }

/-- Restores a saved context (R415 steps 2 and 3): the nodes, troughs, groups and commands stand again, and each core is the one that
saved. -/
def restoreCtx (s : State) (x : Saved) : State :=
  let rs := localRanges x.cores x.clusters
  let s1 := { s with
    mem := putCells (rs.foldl (fun m r => Memory.clear m r.1 (r.1 + r.2)) s.mem) x.locals
    poison := x.localPoison.foldl (fun l k => insertSorted k l) (s.poison.filter fun k => !inRanges rs k) }
  let s2 := x.clusters.foldl setCluster s1
  x.cores.foldl (fun s c => setCoreAt s (restoredCore s.now c)) s2

/-- A restore that fails (R422): every started launch of the VF completes with STATUS 4, and its groups and cores are free. -/
def failRestore (s : State) (f : Fold) (vf : Nat) : State :=
  let s1 := logRas s (some f.num) .saveIntegrity (BitVec.ofNat 64 vf)
  let ls := s1.launches.filter fun l => l.vf == vf && underWay l
  ls.foldl (fun s l => answer s l 4 l.tstart (l.nd * l.nc)) s1

/-- The slice of a VF of a fold begins (R87), or goes on after a snapshot, with what it had run (R454). -/
def beginRunning (s : State) (f : Fold) (vf : Nat) : State :=
  let q := ((vfAt s vf).map (·.quantum)).getD 0
  let ran := (s.svc.job.filter fun j => j.vf == vf && j.stage == .returning).map (·.ran)
  setFold s { (foldAt s f.num).getD f with
    running := some vf, switchTo := none, restart := none, delayed := false, sliceStart := (timeOf s).toNat - ran.getD 0, sliceQuantum := q }

/-- An uncorrectable error, or a write that is not the save engines', reaches a block of a VF's saved context (R422). -/
def faultSaved (s : State) (vf : Nat) : State :=
  match vfAt s vf with
  | some v => setVf s { v with saved := v.saved.map fun x => { x with intact := false } }
  | none => s

/-- The saved context of a VF is used up; its blocks stay in the area (R419). -/
def dropSaved (s : State) (vf : Nat) : State :=
  match vfAt s vf with
  | some v => setVf s { v with saved := none }
  | none => s

/-- The restored cores of a VF acquire at DEVICE and start to issue, and its slice begins (R415 step 4, R371). -/
def restartVf (s : State) (f : Fold) (vf : Nat) : State :=
  beginRunning ((coresOf s f vf).foldl (fun s c => asCore s c.pos fun u => acquire u allRegions 2) s) f vf

/-- The saved context of a VF is put back, with a restart time at least 20 µs ahead (R411, R415; log 59). -/
def putBack (s : State) (f : Fold) (vf : Nat) (x : Saved) : State :=
  let s1 := dropSaved (restoreCtx s x) vf
  setFold s1 { (foldAt s1 f.num).getD f with running := some vf, switchTo := none, sliceQuantum := 0, restart := some ((timeOf s).toNat + 2000) }

/-- The next step of the restore of a saved context (R415, R422): a failing tag ends it before anything is loaded; then the rounds of
re-injection, each once the packets of the one before have been delivered; then the rest. -/
def restoreDue (s : State) (f : Fold) (v : Vf) (x : Saved) (tagsOk : Bool) : Option State :=
  if !(tagsOk && areaOk f v x) then (if x.restoring then none else some (beginRunning (dropSaved (failRestore s f v.num) v.num) f v.num))
  else if reinjected s f then none
  else match x.packets.map (·.hops) with
    | [] => some (putBack s f v.num x)
    | h :: t =>
      let r := injectRound (t.foldl Nat.min h) s [] x.packets
      if r.2.length = x.packets.length then none
      else some (setVf r.1 { v with saved := some { x with packets := r.2, restoring := true } })

/-- What a switch in of a VF does next (R415): it starts at once where nothing is saved of it, or its restore goes on. -/
def switchInDue (s : State) (f : Fold) (vf : Nat) (tagsOk : Bool) : Option State :=
  match f.running, f.restart with
  | some r, some t => if r = vf && decide (t ≤ (timeOf s).toNat) then some (restartVf s f vf) else none
  | some _, none => none
  | none, _ =>
    if f.switchTo ≠ some vf then none
    else (vfAt s vf).bind fun v =>
      match v.saved with
      | none => some (beginRunning s f vf)
      | some x => restoreDue s f v x tagsOk

/-- GANG_SWITCH_IN (R415, R420, R422), one step of it at a time. tagsOk is the outcome of the tag checks (log 7). -/
def execGangSwitchIn (fold vf : Nat) (tagsOk : Bool) (s : State) : Result :=
  match foldAt s fold with
  | none => notDue "GANG_SWITCH_IN"
  | some f => whenDue "GANG_SWITCH_IN" (switchInDue s f vf tagsOk)

/-! ## Fold reset -/

/-- The home slices of a fold write back what they hold, and drop their records; every cache loses its words (R449 step 3). -/
def resetWords (s : State) (f : Fold) : State :=
  let mine := fun (w : CacheWord) => w.key / 2 ^ 52 == f.num
  let copies := s.words.filter fun w => mine w && w.level == .home && (match w.state with | .registered _ c => c | _ => false)
  let s1 := copies.foldl (fun s w => setHomeWord s w.key w.value w.poison) s
  let ofFold := fun (l : CacheLine) => match l.at_ with
    | .cluster c => f.dies.contains c.die
    | .die n => f.dies.contains n
    | .slice h _ => f.dies.contains (h - 32)
  { s1 with words := s1.words.filter (fun w => !mine w), lines := s1.lines.filter fun l => !ofFold l }

/-- Is a key a TCM or scratchpad byte of a list of dies? -/
def bankOfDies (dies : List Nat) (k : Nat) : Bool := isBankKey k && dies.contains (bankOwner k).1.die

/-- The doorbell page of a VF takes its reset values (R3, R84), with LIDNEXT, and its saved context is discarded (R449). -/
def resetVf (v : Vf) : Vf := { v with appends := 1, qovf := 0, dbdrop := 0, badlid := 0, deficit := 0, debt := 0, saved := none, area := [] }

/-- A fold's dispatcher, mailbox and watchdog after a reset (R449, R451). -/
def resetFoldRec (s : State) (f : Fold) : Fold :=
  { f with
    running := none
    lastServed := none
    sliceStart := 0
    sliceQuantum := 0
    sliceWaiting := false
    switchT := none
    switchTo := none
    delayed := false
    restart := none
    placewaves := []
    contReqs := []
    finished := []
    starts := []
    d2h := []
    mbWait := []
    d2htail := 0
    d2hhead := 0
    h2dtail := 0
    h2dhead := 0
    h2d := []
    ien := false
    saveKey := f.saveKey + 1
    wdStage := 0
    wdSince := (timeOf s).toNat
    testDue := true }

/-- A core of a reset fold is as reset leaves it. -/
def resetCoreOf (dies : List Nat) (c : Core) : Core := if dies.contains c.pos.die then Core.reset c.pos else c

/-- The drover and the counters of a die after a fold reset (R127, R449). -/
def resetDie (now : Nat) (dies : List Nat) (d : Die) : Die :=
  if dies.contains d.num then { d with hreql := 0, hreqr := 0, drvbeat := 0, beatAt := now, drvmbox := 0, drvmode := 0, drover := Drover.reset } else d

/-- A head that waits is placed as usual after a reset: it is tested anew (R91, R449 step 5). -/
def resetHead (l : Launch) : Launch := if l.phase = .waiting then { l with ready := false, mask := 0 } else l

/-- The heads that wait in a fold are made known to the host again where it chooses launches (R98, R449; log 60). -/
def postHeads (s : State) (f : Fold) : State :=
  (s.launches.filter fun l => l.fold == f.num && l.phase == .waiting).foldl (fun s l => postHead s f.num l) s

/-- A SNAPSHOT or MIGRATE of a VF of a fold ends with its reset (R449; log 22). -/
def cancelJob (s : State) (vfs : List Nat) : State :=
  { s with svc := { s.svc with job := s.svc.job.map fun j => if vfs.contains j.vf then { j with stage := .cancelled } else j } }

/-- Fold reset (R449). -/
def resetFold (s : State) (f : Fold) : State :=
  let vfs := (s.vfs.filter fun v => v.fold == f.num).map (·.num)
  let s1 := cancelJob { s with packets := s.packets.filter fun p => p.fold != f.num } vfs
  let ls := s1.launches.filter fun l => l.fold == f.num && underWay l
  let s2 := ls.foldl (fun s l => answer s l 8 l.tstart (l.nd * l.nc)) s1
  let s3 := resetWords s2 f
  let s4 := { s3 with
    mem := s3.mem.filter fun c => !bankOfDies f.dies c.1
    poison := s3.poison.filter fun k => !bankOfDies f.dies k
    clusters := s3.clusters.filter fun k => !f.dies.contains k.pos.die
    core := resetCoreOf f.dies s3.core
    others := s3.others.map (resetCoreOf f.dies)
    dies := s3.dies.map (resetDie (timeOf s).toNat f.dies)
    parked := s3.parked.filter fun p => p.fold != f.num && !f.dies.contains p.core.die
    locks := s3.locks.filter fun l => l.fold != f.num
    svScopes := s3.svScopes.filter fun e => e.1 / 2 ^ 52 != f.num
    svTests := s3.svTests.filter fun k => k.2 / 2 ^ 52 != f.num
    fabric := s3.fabric.filter fun x => !f.dies.contains x.die
    tlb := s3.tlb.filter fun e => !vfs.contains e.vf
    pageReqs := s3.pageReqs.filter fun r => !vfs.contains r.vf
    svc := { s3.svc with drvQueue := s3.svc.drvQueue.filter fun c => cmdFold s c != some f.num }
    launches := s3.launches.map fun l => if l.fold = f.num then resetHead l else l
    vfs := s3.vfs.map fun v => if v.fold = f.num then resetVf v else v
    inputs := s3.inputs.filter fun i => i != .foldReset f.num }
  postHeads (setFold s4 (resetFoldRec s ((foldAt s4 f.num).getD f))) f

end Sys2Proof.Machine
end

