-- ==== Sys2Proof/Machine/Crypto.lean ====
section
/-!
DEFINITION. Machine/Crypto.lean: the published standards that R437 names and does not restate: SHA-256 (FIPS 180-4), and the verification of
RSASSA-PSS (RFC 8017) with RSA-3072, SHA-256, MGF1 with SHA-256 and a 32-byte salt (log 7).
-/

namespace Sys2Proof.Machine

/-! ## SHA-256 -/

/-- A number of n bytes, most significant first. -/
def beBytes (n v : Nat) : List Byte := (leBytes n v).reverse

/-- The number that bytes give, most significant first. -/
def ofBeBytes (bs : List Byte) : Nat := bs.foldl (fun v b => v * 256 + b.toNat) 0

/-- Rotates 32 bits right. -/
def rotr (x n : Nat) : Nat := ((x >>> n) ||| (x <<< (32 - n))) % 2 ^ 32

/-- The constants of the rounds. -/
def shaConstants : List (List Nat) :=
  [[0x428A2F98, 0x71374491, 0xB5C0FBCF, 0xE9B5DBA5, 0x3956C25B, 0x59F111F1, 0x923F82A4, 0xAB1C5ED5],
  [0xD807AA98, 0x12835B01, 0x243185BE, 0x550C7DC3, 0x72BE5D74, 0x80DEB1FE, 0x9BDC06A7, 0xC19BF174],
  [0xE49B69C1, 0xEFBE4786, 0x0FC19DC6, 0x240CA1CC, 0x2DE92C6F, 0x4A7484AA, 0x5CB0A9DC, 0x76F988DA],
  [0x983E5152, 0xA831C66D, 0xB00327C8, 0xBF597FC7, 0xC6E00BF3, 0xD5A79147, 0x06CA6351, 0x14292967],
  [0x27B70A85, 0x2E1B2138, 0x4D2C6DFC, 0x53380D13, 0x650A7354, 0x766A0ABB, 0x81C2C92E, 0x92722C85],
  [0xA2BFE8A1, 0xA81A664B, 0xC24B8B70, 0xC76C51A3, 0xD192E819, 0xD6990624, 0xF40E3585, 0x106AA070],
  [0x19A4C116, 0x1E376C08, 0x2748774C, 0x34B0BCB5, 0x391C0CB3, 0x4ED8AA4A, 0x5B9CCA4F, 0x682E6FF3],
  [0x748F82EE, 0x78A5636F, 0x84C87814, 0x8CC70208, 0x90BEFFFA, 0xA4506CEB, 0xBEF9A3F7, 0xC67178F2]]

/-- The eight words of a hash under way. -/
structure ShaState where
  a : Nat
  b : Nat
  c : Nat
  d : Nat
  e : Nat
  f : Nat
  g : Nat
  h : Nat
  deriving DecidableEq, Repr

/-- The initial hash value. -/
def shaInit : ShaState :=
  ⟨0x6A09E667, 0xBB67AE85, 0x3C6EF372, 0xA54FF53A, 0x510E527F, 0x9B05688C, 0x1F83D9AB, 0x5BE0CD19⟩

/-- One round, with its constant and its schedule word. -/
def shaRound (x : ShaState) (k w : Nat) : ShaState :=
  let s1 := Nat.xor (Nat.xor (rotr x.e 6) (rotr x.e 11)) (rotr x.e 25)
  let ch := Nat.xor (x.e &&& x.f) ((2 ^ 32 - 1 - x.e) &&& x.g)
  let t1 := x.h + s1 + ch + k + w
  let s0 := Nat.xor (Nat.xor (rotr x.a 2) (rotr x.a 13)) (rotr x.a 22)
  let maj := Nat.xor (Nat.xor (x.a &&& x.b) (x.a &&& x.c)) (x.b &&& x.c)
  ⟨(t1 + s0 + maj) % 2 ^ 32, x.a, x.b, x.c, (x.d + t1) % 2 ^ 32, x.e, x.f, x.g⟩

/-- n more schedule words, before those that stand, of which the latest is the first. -/
def shaExtend : Nat → List Nat → List Nat
  | 0, ws => ws
  | n + 1, ws =>
    let w := fun (i : Nat) => (ws[i]?).getD 0
    let s0 := Nat.xor (Nat.xor (rotr (w 14) 7) (rotr (w 14) 18)) (w 14 >>> 3)
    let s1 := Nat.xor (Nat.xor (rotr (w 1) 17) (rotr (w 1) 19)) (w 1 >>> 10)
    shaExtend n ((s1 + w 6 + s0 + w 15) % 2 ^ 32 :: ws)

/-- n words of a block. -/
def shaWords : Nat → List Byte → List Nat
  | 0, _ => []
  | n + 1, bs => ofBeBytes (bs.take 4) :: shaWords n (bs.drop 4)

/-- The hash after a block of 64 bytes. -/
def shaBlock (x : ShaState) (block : List Byte) : ShaState :=
  let ws := (shaExtend 48 (shaWords 16 block).reverse).reverse
  let y := (shaConstants.flatten.zip ws).foldl (fun y p => shaRound y p.1 p.2) x
  let add := fun (a b : Nat) => (a + b) % 2 ^ 32
  ⟨add x.a y.a, add x.b y.b, add x.c y.c, add x.d y.d, add x.e y.e, add x.f y.f, add x.g y.g, add x.h y.h⟩

/-- The hash after n blocks. -/
def shaBlocks : Nat → ShaState → List Byte → ShaState
  | 0, x, _ => x
  | n + 1, x, bs => shaBlocks n (shaBlock x (bs.take 64)) (bs.drop 64)

/-- A message with its padding. -/
def shaPad (m : List Byte) : List Byte :=
  m ++ [(0x80 : Byte)] ++ List.replicate ((119 - m.length % 64) % 64) (0 : Byte) ++ beBytes 8 (8 * m.length)

/-- The SHA-256 of a message, as 32 bytes. -/
def sha256 (m : List Byte) : List Byte :=
  let p := shaPad m
  let x := shaBlocks (p.length / 64) shaInit p
  [x.a, x.b, x.c, x.d, x.e, x.f, x.g, x.h].flatMap (beBytes 4)

/-! ## RSASSA-PSS -/

/-- Bytes of a modulus of RSA-3072, and of a signature. -/
def rsaBytes : Nat := 384

/-- b ^ e modulo n, by the bits of e, of which there are at most k. -/
def powMod (n : Nat) : Nat → Nat → Nat → Nat
  | 0, _, _ => 1 % n
  | k + 1, b, e =>
    let r := powMod n k (b * b % n) (e / 2)
    if e % 2 = 1 then b * r % n else r

/-- The mask of MGF1 for a database of 351 bytes. -/
def mgfMask (h : List Byte) : Nat := ofBeBytes (((List.range 11).flatMap fun c => sha256 (h ++ beBytes 4 c)).take 351)

/-- The hash that an encoded message of a given salt holds. -/
def pssHash (m salt : List Byte) : List Byte := sha256 (List.replicate 8 (0 : Byte) ++ sha256 m ++ salt)

/-- Does an encoded message of 3,071 bits fit a message? Its trailer is 0xBC, before it stands the hash, and before that the masked database:
zeros, 0x01 and the salt. -/
def pssFits (m : List Byte) (em : Nat) : Bool :=
  let h := beBytes 32 (em / 256)
  let db := Nat.xor (em / 2 ^ 264) (mgfMask h) % 2 ^ 2807
  decide (em < 2 ^ 3071) && em % 256 == 0xBC && db / 2 ^ 256 == 1 && h == pssHash m (beBytes 32 db)

/-- RSASSA-PSS verification of a signature over a message (R437). -/
def pssVerify (key : PubKey) (m sig : List Byte) : Bool :=
  let x := ofBeBytes sig
  sig.length == rsaBytes && decide (x < key.modulus) && pssFits m (powMod key.modulus 32 x key.exponent.toNat)

end Sys2Proof.Machine
end

