-- ==== Sys2Proof/Machine/Bodies.lean ====
section
/-!
DEFINITION. Machine/Bodies.lean: the bytes of a request frame (R442) and of the request bodies (R445), with the checks that make one
malformed.
-/

namespace Sys2Proof.Machine

/-! ## Frames -/

/-- The little-endian field of n bytes at an offset. -/
def leField (bs : List Byte) (off n : Nat) : Nat := ofLeBytes ((bs.drop off).take n)

/-- What a frame's header says of its answer (R442). -/
structure ReqHdr where
  viaPcie : Bool
  code : BitVec 16
  keyid : Nat
  count : Word
  salt : Word
  deriving DecidableEq, Repr

/-- The header of a frame (R442). -/
def headerOf (fr : Frame) : ReqHdr :=
  ⟨fr.viaPcie, BitVec.ofNat 16 (leField fr.bytes 0x04 2), leField fr.bytes 0x0C 4, BitVec.ofNat 64 (leField fr.bytes 0x10 8),
    BitVec.ofNat 64 (leField fr.bytes 0x18 8)⟩

/-- Is INDIRECT set in a frame (R442)? -/
def isIndirect (fr : Frame) : Bool := leField fr.bytes 0x06 2 % 2 == 1

/-- LENGTH of the body of a frame. -/
def bodyLength (fr : Frame) : Nat := leField fr.bytes 0x08 4

/-- Bytes of the body that the frame itself carries: 16 where it is indirect (R442). -/
def storedLength (fr : Frame) : Nat := if isIndirect fr then 16 else bodyLength fr

/-- The body of a frame: what it carries, or what host memory holds at its bus address. -/
def bodyOf (fr : Frame) : List Byte := if isIndirect fr then fr.hostBody else (fr.bytes.drop 64).take (bodyLength fr)

/-- The signature of a frame. -/
def sigOf (fr : Frame) : List Byte := (fr.bytes.drop (64 + storedLength fr)).take rsaBytes

/-- What the signature of a frame covers: its header and its body (R442). -/
def signedPart (fr : Frame) : List Byte := fr.bytes.take 64 ++ bodyOf fr

/-- Does a frame fit its source: the 64 KiB request buffer, or one message of at most 16 MiB (R441, R443)? -/
def frameFits (fr : Frame) : Bool :=
  let n := 64 + storedLength fr + rsaBytes
  if fr.viaPcie then decide (n ≤ fr.bytes.length) && decide (fr.bytes.length ≤ 65536)
  else fr.bytes.length == n && decide (n ≤ 16777216)

/-- Does a frame keep the layout of R442? INDIRECT is for the PCIe mailbox, and LENGTH is that of the body read from host memory. -/
def frameOk (fr : Frame) : Bool :=
  leField fr.bytes 0 4 == 0x51524E42 && leField fr.bytes 0x06 2 / 2 == 0 && leField fr.bytes 0x20 32 == 0 && frameFits fr &&
    (!isIndirect fr || (fr.viaPcie && leField fr.bytes 72 8 == bodyLength fr && fr.hostBody.length == bodyLength fr))

/-! ## Bodies -/

/-- A key of a body: KEYN at an offset, and KEYE after it (R445). -/
def keyAt (b : List Byte) (off : Nat) : PubKey := ⟨leField b off 384, BitVec.ofNat 32 (leField b (off + 384) 4)⟩

/-- The dies of a DIES word. -/
def diesOf (w : Nat) : List Nat := (List.range 32).filter fun n => w.testBit n

/-- The pairs of LRANGE from an offset. -/
def rangesAt (b : List Byte) (off : Nat) : List (Nat × Nat) :=
  (List.range 32).map fun n => (leField b (off + 16 * n) 8, leField b (off + 16 * n + 8) 8)

/-- Reads the body of FOLDNEW (R445), or finds it malformed. -/
def parseFoldNew (b : List Byte) : Option FoldNewBody :=
  let dies := diesOf (leField b 0x04 4)
  let ranges := rangesAt b 0x38
  let present := leField b 0x03 1
  let extra := (List.range 32).any fun n => !dies.contains n && (ranges[n]?).getD (0, 0) != (0, 0)
  if b.length ≠ 0x3BC || 31 < leField b 0 1 || 127 < leField b 1 1 || 2 < leField b 2 1 || 1 < present || extra ||
      (present = 0 && leField b 0x238 388 != 0) then none
  else some {
    fold := leField b 0 1
    foldmode := BitVec.ofNat 7 (leField b 1 1)
    policy := leField b 2 1
    dies := dies
    map := ⟨leField b 0x08 8, leField b 0x10 8, leField b 0x18 8, leField b 0x20 8, leField b 0x28 8, leField b 0x30 8, ranges⟩
    codeKey := if present = 1 then some (keyAt b 0x238) else none }

/-- Reads the body of VFSET (R445), or finds it malformed: QUANTUM has 20 bits (R85) and a PA 52 (R119). -/
def parseVfSet (b : List Byte) : Option VfSetBody :=
  if b.length ≠ 24 || 511 < leField b 0 2 || 2 ^ 20 ≤ leField b 4 4 || 2 ^ 52 ≤ leField b 16 8 then none
  else some ⟨leField b 0 2, leField b 2 1, leField b 3 1, leField b 4 4, BitVec.ofNat 64 (leField b 8 8), leField b 16 8⟩

/-- 64 MiB. -/
def mib64 : Nat := 67108864

/-- OP of a HANDLE body. -/
def handleOp (b : List Byte) : Nat := leField b 0 1

/-- Does a HANDLE body hold only what its OP needs (R445)? An export names its importer, and an endpoint only of a remote one; an install
names a length, and rights where the exporter is remote; a revoke names the handle and its VF. -/
def handleNeeds (op : Nat) (h : HandleBody) : Bool :=
  if op = 0 then h.handle == 0 && h.length != 0 && (h.importer == 0xFF || (decide (h.importer ≤ 31) && h.endpoint == 0))
  else if op = 1 then h.importer == 0 && h.length != 0 && (h.endpoint != 0 || h.rights == 0)
  else h.rights == 0 && h.base == 0 && h.length == 0 && h.importer == 0 && h.endpoint == 0

/-- Reads the body of HANDLE of an OP (R445), or finds it malformed. -/
def parseHandle (op : Nat) (b : List Byte) : Option HandleBody :=
  let h : HandleBody := ⟨BitVec.ofNat 3 (leField b 1 1), leField b 2 2, BitVec.ofNat 64 (leField b 8 8), leField b 16 8, leField b 24 8,
    leField b 32 1, BitVec.ofNat 128 (leField b 40 16)⟩
  if b.length ≠ 56 || handleOp b ≠ op || 7 < leField b 1 1 || h.length % mib64 ≠ 0 || !handleNeeds op h then none else some h

/-- The fold and the table words of an RCT body (R122, R445), or none when one has a non-zero res0 bit. -/
def parseRct (b : List Byte) : Option (Nat × List (BitVec 32)) :=
  let ws := (List.range 8).map fun i => BitVec.ofNat 32 (leField b (4 + 4 * i) 4)
  if b.length ≠ 36 || ws.any fun w => w.extractLsb' 2 2 != 0 || w.extractLsb' 22 10 != 0 then none else some (leField b 0 1, ws)

/-- The one field that fills a body of n bytes. -/
def parseOnly (n : Nat) (b : List Byte) : Option Nat := if b.length = n then some (leField b 0 n) else none

/-- The fold and the value of a FOLDSET body of n bytes with a WHAT (R445). -/
def parseFoldset {α : Type} (what n : Nat) (value : List Byte → Option α) (b : List Byte) : Option (Nat × α) :=
  if b.length ≠ n || leField b 1 1 ≠ what then none else (value b).map fun v => (leField b 0 1, v)

/-- FOLDMODE of a FOLDSET body (R452). -/
def foldmodeValue (b : List Byte) : Option (BitVec 7) := if 127 < leField b 8 1 then none else some (BitVec.ofNat 7 (leField b 8 1))

/-- The containment policy of a FOLDSET body (R424). -/
def policyValue (b : List Byte) : Option Nat := if 2 < leField b 8 1 then none else some (leField b 8 1)

/-- The six trigger times of a FOLDSET body, in milliseconds (R456). -/
def timesValue (b : List Byte) : Option (Vector Nat 6) := some (Vector.ofFn fun i => leField b (8 + 4 * i.val) 4)

/-- The VF of a LOAD body: what follows its first eight bytes is the file. -/
def parseLoad (b : List Byte) : Option Nat := if b.length < 8 then none else some (leField b 0 2)

/-- The body of MIGRATE: VF, destination fold, DELTA threshold and destination endpoint. -/
def parseMigrate (b : List Byte) : Option (Nat × Nat × Nat × Nat) :=
  if b.length ≠ 32 then none else some (leField b 0 2, leField b 2 1, leField b 8 8, leField b 16 16)

/-- The body of KEYADD: KEYID and the key. -/
def parseKeyAdd (b : List Byte) : Option (Nat × PubKey) := if b.length ≠ 0x188 then none else some (leField b 0 4, keyAt b 4)

end Sys2Proof.Machine
end

