-- ==== Sys2Proof/Machine/ServiceEvents.lean ====
section
/-!
DEFINITION. Machine/ServiceEvents.lean: the requests of Benostale (R441 to R445): the frame's checks and the answer, and the requests
about folds (R447, R449, R452, R424, R55, R456), VFs (R448), the replacement classes (R122), handles (R124) and the identity
(R439, R440).
-/

namespace Sys2Proof.Machine

/-! ## Frames -/

/-- Replaces the module record. -/
def setSvc (s : State) (m : Module) : State := { s with svc := m }

/-- The entry of a KEYID. -/
def keyOf (s : State) (id : Nat) : Option OperatorKey := s.svc.keys.find? fun k => k.id == id

/-- Writes the entry of a KEYID. -/
def setKey (s : State) (k : OperatorKey) : State := setSvc s { s.svc with keys := upsert (fun h => h.id == k.id) k s.svc.keys }

/-- The registered key of a KEYID. -/
def registered (s : State) (id : Nat) : Option OperatorKey := (keyOf s id).filter fun k => k.key.isSome

/-- Is a frame signed by a key (R442)? -/
def frameSigned (key : PubKey) (fr : Frame) : Bool := pssVerify key (signedPart fr) (sigOf fr)

/-- Does the COUNT of a frame not exceed the highest that has been accepted for its key (R442)? -/
def isStale (k : OperatorKey) (h : ReqHdr) : Bool := k.count.any fun c => decide (h.count.toNat ≤ c.toNat)

/-- The STATUS with which the checks of a frame refuse it: its layout, then the key and the signature, then COUNT (R442, R444; log 7). -/
def frameStatus (s : State) (fr : Frame) : Option Nat :=
  if !frameOk fr then some 4
  else match registered s (headerOf fr).keyid with
    | none => some 1
    | some k =>
      if !(k.key.any fun key => frameSigned key fr) then some 1
      else if isStale k (headerOf fr) then some 2
      else none

/-- COUNT is recorded before the request is acted on (R442). -/
def recordCount (s : State) (h : ReqHdr) : State :=
  match keyOf s h.keyid with
  | some k => setKey s { k with count := some h.count }
  | none => s

/-- A response body above 65,088 bytes is not produced (R443). -/
def bodyLimit : Nat := 65088

/-- n bytes of free value about a subject (log 7). -/
def freeBytes (subject n : Nat) : List Byte :=
  ((List.range (n / 32)).flatMap fun i => leBytes 32 (Config.freeDigest (subject * 16 + i)).toNat)

/-- The signature of the module's identity key over a text, which no rule gives (R439, R442; log 7). -/
def identitySign (text : List Byte) : List Byte := freeBytes (ofLeBytes (text ++ [1])) rsaBytes

/-- The header of a response (R442). -/
def responseHeader (code : BitVec 16) (status length : Nat) (count salt : Word) : List Byte :=
  leBytes 4 0x53504E42 ++ leBytes 2 code.toNat ++ leBytes 2 status ++ leBytes 4 length ++ leBytes 4 0 ++ leBytes 8 count.toNat ++
    leBytes 8 salt.toNat ++ leBytes 32 0

/-- The response to a request (R442, R444), signed by the identity key over its header and body. -/
def responseTo (h : ReqHdr) (status : Nat) (body : List Byte) : Response :=
  ⟨h.code, status, h.count, h.salt, body, identitySign (responseHeader h.code status body.length h.count h.salt ++ body)⟩

/-- The frame of a response (R442): header, body and signature. -/
def responseBytes (r : Response) : List Byte := responseHeader r.code r.status r.body.length r.count r.salt ++ r.body ++ r.signature

/-- Answers a request (R442 to R444): in the response buffer with DONE and MSI-X vector 0, or to the management endpoint. -/
def answerFrame (s : State) (h : ReqHdr) (status : Nat) (body : List Byte) : State :=
  let r := responseTo h status body
  if h.viaPcie then
    setSvc s { s.svc with
      response := some r, busy := false, submitted := none, done := true, rlen := BitVec.ofNat 32 (64 + body.length + rsaBytes)
      msix := s.svc.msix ++ [0] }
  else setSvc s { s.svc with netResponse := some r }

/-- What acting on a request comes to: refused with a STATUS, in which case nothing changes, done with a response body, or under way, with
an answer that comes later (R454, R455). -/
inductive Served where
  | refused (status : Nat)
  | ok (s : State) (body : List Byte)
  | started (s : State)
  deriving Repr

/-- Is a frame the one that GO has handed in (R443)? -/
def isSubmitted (s : State) (fr : Frame) : Bool := fr.viaPcie && s.svc.submitted == some fr.bytes

/-- The answer to a request that has been acted on. A body above the limit is not produced (R443): STATUS 8, which is the model's choice
(log 73). -/
def answerServed (s s1 : State) (h : ReqHdr) (body : List Byte) : State :=
  if bodyLimit < body.length then answerFrame (logRas s none .internalError (BitVec.ofNat 64 h.code.toNat)) h 8 []
  else answerFrame s1 h 0 body

/-- One request frame with its CODE (R441 to R444). One that GO has handed in is served in its turn; another one that comes as an act of
the outside stands for its writes to the buffer and GO, which is ignored while BUSY or DONE is 1 (R443). Requests are served one at a time,
in arrival order, and Benostale serves nothing before it has started (R437). -/
def serve (n : String) (code : Nat) (fr : Frame) (s : State) (act : State → List Byte → Served) : Result :=
  let h := headerOf fr
  if h.code.toNat ≠ code || s.svc.bootStep ≠ 5 || s.svc.powerCycle then notDue n
  else if h.viaPcie && !isSubmitted s fr && (s.svc.busy || s.svc.done) then .next s
  else if s.svc.job.isSome || (s.svc.submitted.isSome && !isSubmitted s fr) then notDue n
  else match frameStatus s fr with
    | some st => .next (answerFrame s h st [])
    | none =>
      let s1 := recordCount s h
      match act s1 (bodyOf fr) with
      | .refused st => .next (answerFrame s1 h st [])
      | .ok s2 b => .next (answerServed s1 s2 h b)
      | .started s2 => .next s2

/-- A request with operands x, which its frame's body gives; a body that breaks its layout is malformed (R444, R445), and a frame whose body
gives other operands is another event's. -/
def servePar {α : Type} [DecidableEq α] (n : String) (code : Nat) (fr : Frame) (s : State) (parse : List Byte → Option α) (x : α)
    (act : State → Served) : Result :=
  if (parse (bodyOf fr)).any (· ≠ x) then notDue n
  else serve n code fr s fun s1 b => if (parse b).isNone then .refused 4 else act s1

/-- The CODEs that R441 gives. -/
def knownCodes : List Nat :=
  [0x01, 0x02, 0x03, 0x04, 0x10, 0x11, 0x12, 0x13, 0x20, 0x21, 0x30, 0x31, 0x40, 0x41, 0x50, 0x51, 0x60, 0x70, 0x71]

/-- UNKNOWN_CODE (R444): a frame with a CODE that R441 does not give. -/
def execUnknownCode (fr : Frame) (s : State) : Result :=
  let c := (headerOf fr).code.toNat
  if knownCodes.contains c then notDue "UNKNOWN_CODE" else serve "UNKNOWN_CODE" c fr s fun _ _ => .refused 3

/-- MBSTAT_DONE_CLEAR (R443). -/
def execMbstatDoneClear (s : State) : Result := .next (setSvc s { s.svc with done := false })

/-! ## Folds -/

/-- The ranges of a home map (R119). -/
def mapRanges (m : HomeMap) : List (Nat × Nat) := [(m.ibase, m.isize), (m.pbase, m.psize), (m.wbase, m.wsize)] ++ m.localRange

/-- Do no two ranges of a list overlap? -/
def disjointRanges : List (Nat × Nat) → Bool
  | [] => true
  | r :: t => (t.all fun q => !overlaps r.1 r.2 q.1 q.2) && disjointRanges t

/-- Does a home map obey R119 on a list of compute dies, with at most 16 TiB of pooled memory (R19)? -/
def mapOk (m : HomeMap) (dies : List Nat) : Bool :=
  let ni := interleaveCount dies.length
  decide (m.ibase % mib64 = 0) && decide (m.isize % (ni * mib64) = 0) &&
    (m.localRange.all fun r => decide (r.1 % mib64 = 0) && decide (r.2 % mib64 = 0)) &&
    (mapRanges m).all (fun r => decide (r.1 + r.2 ≤ 2 ^ 52)) && decide (m.psize ≤ 2 ^ 44) && disjointRanges (mapRanges m) &&
    (List.range dies.length).all fun j =>
      let l := (localRange m (32 + (dies[j]?).getD 0)).2
      decide ((if j < ni then m.isize / ni else 0) + l ≤ 32 * 2 ^ 30)

/-- The replacement-class table at fold creation (R122). -/
def rctReset : Vector (BitVec 32) 8 := Vector.replicate 8 0x000FFFF2

/-- TIME counts of a millisecond (R20). -/
def msCounts (ms : Nat) : Nat := ms * 100000

/-- The watchdog's trigger times as R456 gives them. -/
def wdDefaults : Vector Nat 6 := #v[msCounts 50, msCounts 50, msCounts 100, msCounts 100, msCounts 100, msCounts 1000]

/-- A new fold (R447, R451), with its SAVEMAX. -/
def newFold (now saveMax : Nat) (b : FoldNewBody) : Fold :=
  { num := b.fold, dies := b.dies, map := b.map, mode := b.foldmode, nextMode := b.foldmode, policy := b.policy, codeKey := b.codeKey,
    rct := rctReset, running := none, lastServed := none, sliceStart := 0, sliceQuantum := 0, sliceWaiting := false, switchT := none,
    switchTo := none, delayed := false, restart := none, saveMax := saveMax, placewaves := [], contReqs := [], finished := [], handles := [],
    d2h := [], mbWait := [], starts := [], d2htail := 0, d2hhead := 0, h2dtail := 0, h2dhead := 0, h2d := [], ien := false, saveKey := now,
    wdTimes := wdDefaults, wdStage := 0, wdSince := now, testDue := true, lastTest := now }

/-- SAVEMAX of a fold of dies (R421): 310 µs where every unit of them is enabled; else it depends on the largest state of a die (log 14). -/
def saveMaxFor (s : State) (dies : List Nat) : Nat :=
  let ns := dies.map (dieCoreCount s)
  if ns.all (· == 5120) then Config.saveMaxUs else Config.saveMaxOf (ns.foldl Nat.max 0)

/-- The drover of a die that joins or leaves a fold. -/
def setDieFold (s : State) (fold : Option Nat) (mode : BitVec 7) (n : Nat) : State :=
  setDie s { dieAt s n with fold := fold, drvmode := mode, beatAt := (timeOf s).toNat }

/-- FOLDNEW (R447). -/
def execFoldnew (fr : Frame) (b : FoldNewBody) (s : State) : Result :=
  servePar "FOLDNEW" 0x01 fr s parseFoldNew b fun s1 =>
    if (foldAt s1 b.fold).isSome || b.dies.isEmpty || !(b.dies.all fun n => dieEnabled s1 n && (dieAt s1 n).fold.isNone) ||
        !mapOk b.map b.dies then .refused 5
    else
      let m := saveMaxFor s1 b.dies
      let s2 := setFold s1 (newFold (timeOf s1).toNat m b)
      .ok (b.dies.foldl (fun s n => setDieFold s (some b.fold) b.foldmode n) s2) (leBytes 8 m)

/-- The handles of every fold, each through a function. -/
def mapHandles (s : State) (g : Handle → Handle) : State := { s with folds := s.folds.map fun f => { f with handles := f.handles.map g } }

/-- A fold is removed: its VFs cease to exist, its dies are free, and its memory and handles go (R441). -/
def removeFold (s : State) (f : Fold) : State :=
  let vfs := (s.vfs.filter fun v => v.fold == f.num).map (·.num)
  let s1 := resetFold s f
  let s2 := f.dies.foldl (fun s n => setDieFold s none 0 n) s1
  let s3 := mapHandles { s2 with folds := s2.folds.filter fun g => g.num != f.num } fun h => { h with installed := h.installed.filter fun i => i.1 != f.num }
  { s3 with
    vfs := s3.vfs.filter fun v => v.fold != f.num
    launches := s3.launches.filter fun l => l.fold != f.num
    tlb := s3.tlb.filter fun e => !vfs.contains e.vf
    pageReqs := s3.pageReqs.filter fun r => !vfs.contains r.vf
    mem := Memory.clear s3.mem (homeKey f.num 0) (homeKey (f.num + 1) 0)
    poison := s3.poison.filter fun k => k / 2 ^ 52 != f.num
    hostRead := s3.hostRead.filter fun c => c.1 / 2 ^ 52 != f.num }

/-- FOLDDEL (R441, R449). -/
def execFolddel (fr : Frame) (fold : Nat) (s : State) : Result :=
  servePar "FOLDDEL" 0x02 fr s (parseOnly 1) fold fun s1 =>
    match foldAt s1 fold with
    | none => .refused 6
    | some f => .ok (removeFold s1 f) []

/-- FOLDRESET (R449): by request, or by the fold's policy or its watchdog, which leave it among the pending inputs. -/
def execFoldreset (fr : Option Frame) (fold : Nat) (s : State) : Result :=
  match fr with
  | some fr => servePar "FOLDRESET" 0x03 fr s (parseOnly 1) fold fun s1 =>
      match foldAt s1 fold with
      | none => .refused 6
      | some f => .ok (resetFold s1 f) []
  | none =>
    match foldAt s fold with
    | none => notDue "FOLDRESET"
    | some f => if s.inputs.contains (.foldReset fold) then .next (resetFold s f) else notDue "FOLDRESET"

/-- The form of FOLDSET that serves a frame, by its WHAT; the first also answers a frame with a WHAT that R445 does not give. -/
def foldsetForm (fr : Frame) : Nat :=
  let w := leField (bodyOf fr) 1 1
  if w ≤ 3 then w else 0

/-- A FOLDSET request (R441) of a form, with a body of n bytes that gives a fold and a value, and the change of the fold. -/
def foldset {α : Type} [DecidableEq α] (name : String) (what n : Nat) (fr : Frame) (value : List Byte → Option α) (fold : Nat) (x : α)
    (change : Fold → Fold) (s : State) : Result :=
  if foldsetForm fr ≠ what then notDue name
  else servePar name 0x04 fr s (parseFoldset what n value) (fold, x) fun s1 =>
    match foldAt s1 fold with
    | none => .refused 6
    | some f => .ok (setFold s1 (change f)) []

/-- FOLDSET of FOLDMODE (R452): it takes effect at the fold's next slice boundary. -/
def execFoldsetFoldmode (fr : Frame) (fold : Nat) (mode : BitVec 7) (s : State) : Result :=
  foldset "FOLDSET_FOLDMODE" 0 9 fr foldmodeValue fold mode (fun f => { f with nextMode := mode }) s

/-- FOLDSET of the containment policy (R424). -/
def execFoldsetPolicy (fr : Frame) (fold policy : Nat) (s : State) : Result :=
  foldset "FOLDSET_POLICY" 1 9 fr policyValue fold policy (fun f => { f with policy := policy }) s

/-- FOLDSET of the code key (R55). -/
def execFoldsetCodeKey (fr : Frame) (fold : Nat) (key : PubKey) (s : State) : Result :=
  foldset "FOLDSET_CODE_KEY" 2 396 fr (fun b => some (keyAt b 8)) fold key (fun f => { f with codeKey := some key }) s

/-- FOLDSET of the watchdog's trigger times, in milliseconds (R456). -/
def execFoldsetWatchdogTimes (fr : Frame) (fold : Nat) (times : Vector Nat 6) (s : State) : Result :=
  foldset "FOLDSET_WATCHDOG_TIMES" 3 32 fr timesValue fold times (fun f => { f with wdTimes := times.map msCounts }) s

/-! ## VFs -/

/-- The QUANTUM in force in a fold for one that is asked for (R85). -/
def quantumOf (f : Fold) (q : Nat) : Nat := Nat.max q (2 * f.saveMax)

/-- A launch queue as the queue block gives it (R78, R79); one that breaks R78 is disabled, and so is one whose entry cannot be read, which is
the model's choice (log 66). -/
def readQueue (s : State) (vf : Nat) (qb : Word) (p : Nat) : State × LQueue :=
  match vfKeys s vf .r (qb + BitVec.ofNat 64 (32 * p)) 2 with
  | some ks =>
    let r := readKeys s ks
    let base := wordIdx r.2 0
    let w := wordIdx r.2 1
    let n := fieldN w 0 8
    let ok := decide (base.toNat % 64 = 0) && canonical base && decide (4 ≤ n) && decide (n ≤ 12) && w >>> 8 == 0
    (r.1, ⟨base, n, 0, 0, ok⟩)
  | none => (s, ⟨0, 0, 0, 0, false⟩)

/-- A VF as it is configured (R448): every queue is as its block will give it, HEAD and TAIL at 0. -/
def newVf (b : VfSetBody) (quantum : Nat) : Vf :=
  { num := b.vf, fold := b.fold, weight := b.weight, quantum := quantum, nextWeight := b.weight, nextQuantum := quantum,
    queueBlock := b.queueBlock, root := b.root, queues := Vector.replicate 8 ⟨0, 0, 0, 0, false⟩, appends := 1, qovf := 0, dbdrop := 0,
    badlid := 0, deficit := 0, debt := 0, epoch := 0, saved := none, area := [], snapshot := none, copied := [], bells := [],
    blockDue := [] }

/-- Configures a VF afresh (R79, R84, R448): each queue is read from the block, and HEAD and TAIL of each are set to 0. -/
def configureVf (s : State) (b : VfSetBody) (quantum : Nat) : State :=
  (List.range 8).foldl (fun s p =>
    let r := readQueue s b.vf b.queueBlock p
    let s2 := match vfAt r.1 b.vf with
      | some v => setVf r.1 { v with queues := vset v.queues p r.2 }
      | none => r.1
    postBlock s2 b.vf p) { s with vfs := s.vfs ++ [newVf b quantum] }

/-- VFSET (R85, R89, R448). Its response is the QUANTUM in force alone, as R445 lays it out (DEDUCED, log 77). -/
def execVfset (fr : Frame) (b : VfSetBody) (s : State) : Result :=
  servePar "VFSET" 0x10 fr s parseVfSet b fun s1 =>
    match foldAt s1 b.fold with
    | none => .refused 6
    | some f =>
      let q := quantumOf f b.quantum
      if b.quantum = 0 || decide (b.queueBlock.toNat % 256 ≠ 0) then .refused 5
      else match vfAt s1 b.vf with
        | some v =>
          if v.fold ≠ f.num || v.queueBlock ≠ b.queueBlock || v.root ≠ b.root then .refused 5
          else .ok (setVf s1 { v with nextWeight := b.weight, nextQuantum := q }) (leBytes 4 q)
        | none =>
          if 64 ≤ (s1.vfs.filter fun v => v.fold == f.num).length then .refused 5
          else .ok (configureVf s1 b q) (leBytes 4 q)

/-- A later change of SAVEMAX that would break QUANTUM ≥ 2 × SAVEMAX raises QUANTUM to it, from the VF's next turn on (R89), and the new
value is reported, above the VF (R85; log 16). -/
def changeSaveMax (s : State) (fold us : Nat) : State :=
  match foldAt s fold with
  | none => s
  | some f =>
    let s1 := setFold s { f with saveMax := us }
    (s.vfs.filter fun v => v.fold == fold && decide (v.nextQuantum < 2 * us)).foldl (fun s v =>
      logRas (setVf s { v with nextQuantum := 2 * us }) (some fold) .quantumRaised (BitVec.ofNat 64 (v.num + 2 * us * 2 ^ 32))) s1

/-- What last held a VF's state forgets it: the next VF of the number is another (R448). A cluster keeps the split in force (R105). -/
def forgetVf (s : State) (vf : Nat) : State :=
  let s1 := mapCores s fun c => if c.vf = vf then Core.reset c.pos else c
  { s1 with clusters := s1.clusters.map fun k => if (k.holds.map (·.2)) = some vf then { Cluster.reset k.pos with split := k.split } else k }

/-- A VF ceases to exist. -/
def removeVf (s : State) (v : Vf) : State :=
  let s1 := forgetVf s v.num
  let off := fun (f : Fold) =>
    { f with
      running := if f.running = some v.num then none else f.running
      switchTo := if f.switchTo = some v.num then none else f.switchTo
      sliceQuantum := if f.running = some v.num then 0 else f.sliceQuantum
      switchT := if f.running = some v.num then none else f.switchT
      restart := if f.running = some v.num then none else f.restart
      contReqs := f.contReqs.filter (fun r => r.lid.toNat / 2 ^ 39 != v.num)
      starts := f.starts.filter (fun lid => lid.toNat / 2 ^ 39 != v.num) }
  { s1 with
    vfs := s1.vfs.filter fun w => w.num != v.num
    launches := s1.launches.filter fun l => l.vf != v.num
    tlb := s1.tlb.filter fun e => e.vf != v.num
    pageReqs := s1.pageReqs.filter fun r => r.vf != v.num
    folds := s1.folds.map fun f => if f.num = v.fold then off f else f }

/-- VFDEL (R448). -/
def execVfdel (fr : Frame) (vf : Nat) (s : State) : Result :=
  servePar "VFDEL" 0x11 fr s (parseOnly 2) vf fun s1 =>
    match vfAt s1 vf with
    | none => .refused 6
    | some v =>
      if s1.launches.any fun l => l.vf == vf && l.phase != .waiting then .refused 5
      else .ok (removeVf s1 v) []

/-! ## The replacement classes and the handles -/

/-- RCT (R122). -/
def execRct (fr : Frame) (fold : Nat) (table : List (BitVec 32)) (s : State) : Result :=
  servePar "RCT" 0x12 fr s parseRct (fold, table) fun s1 =>
    match foldAt s1 fold with
    | none => .refused 6
    | some f =>
      if table.any fun w => w.extractLsb' 4 16 == 0 then .refused 5
      else .ok (setFold s1 { f with rct := Vector.ofFn fun i => (table[i.val]?).getD 0 }) []

/-- Every handle of the module. -/
def allHandles (s : State) : List Handle := s.folds.flatMap (·.handles)

/-- The id of the next handle. -/
def nextHandle (s : State) : Word := (allHandles s).foldl (fun n h => if n.toNat ≤ h.id.toNat then h.id + 1 else n) 1

/-- The form of HANDLE that serves a frame, by its OP; the first also answers a frame with an OP that R445 does not give. -/
def handleForm (fr : Frame) : Nat := if handleOp (bodyOf fr) ≤ 2 then handleOp (bodyOf fr) else 0

/-- A HANDLE request of an OP (R445). -/
def serveHandle (name : String) (op : Nat) (fr : Frame) (b : HandleBody) (s : State) (act : State → Served) : Result :=
  if handleForm fr ≠ op then notDue name else servePar name 0x13 fr s (parseHandle op) b act

/-- HANDLE, export (R124, R445). -/
def execHandleExport (fr : Frame) (b : HandleBody) (s : State) : Result :=
  serveHandle "HANDLE_EXPORT" 0 fr b s fun s1 =>
    match (vfAt s1 b.vf).bind fun v => foldAt s1 v.fold with
    | none => .refused 6
    | some f =>
      let id := nextHandle s1
      let k : Handle := ⟨id, b.vf, f.num, b.base, b.length, b.rights, b.importer, b.endpoint, [], false⟩
      .ok (setFold s1 { f with handles := f.handles ++ [k] }) (leBytes 8 id.toNat)

/-- Is a part of a fold's peer-window range free for a handle (R124)? -/
def windowFree (s : State) (f : Fold) (off len : Nat) : Bool :=
  decide (off % mib64 = 0) && decide (off + len ≤ f.map.wsize) &&
    (allHandles s).all fun h => h.installed.all fun i => !(i.1 == f.num && overlaps off len i.2.1 i.2.2)

/-- Do the drovers of the fold of a VF take a command now: no swap is under way, and none waits from one (R446)? -/
def droversTake (s : State) (vf : Nat) : Bool := !s.svc.swapping && (vfAt s vf).all fun v => (oldestCmd s v.fold).isNone

/-- HANDLE, install (R124, R445): of a handle that another fold exported to this one, or of one of a remote endpoint. The drovers do it
(R453), so it waits during a swap (R446). -/
def execHandleInstall (fr : Frame) (b : HandleBody) (s : State) : Result :=
  if !droversTake s b.vf then notDue "HANDLE_INSTALL"
  else serveHandle "HANDLE_INSTALL" 1 fr b s fun s1 =>
    match (vfAt s1 b.vf).bind fun v => foldAt s1 v.fold with
    | none => .refused 6
    | some f =>
      if !windowFree s1 f b.base b.length then .refused 5
      else if b.endpoint ≠ 0 then
        let k : Handle := ⟨b.handle, b.vf, f.num, 0, b.length, b.rights, f.num, b.endpoint, [(f.num, b.base, b.length)], false⟩
        .ok (setFold s1 { f with handles := f.handles ++ [k] }) []
      else match (allHandles s1).find? fun k => k.id == b.handle && k.endpoint == 0 with
        | none => .refused 6
        | some k =>
          if k.revoked || k.importer ≠ f.num || k.length < b.length then .refused 5
          else .ok (mapHandles s1 fun x =>
            if x.id = k.id && x.endpoint = 0 then { x with installed := x.installed ++ [(f.num, b.base, b.length)] } else x) []

/-- HANDLE, revoke (R124): every later access through the handle faults. -/
def execHandleRevoke (fr : Frame) (b : HandleBody) (s : State) : Result :=
  serveHandle "HANDLE_REVOKE" 2 fr b s fun s1 =>
    match (allHandles s1).find? fun k => k.id == b.handle with
    | none => .refused 6
    | some k =>
      if k.vf ≠ b.vf then .refused 5
      else .ok (mapHandles s1 fun x => if x.id = k.id && x.vf = k.vf then { x with revoked := true } else x) []

/-! ## Images, identity, reports and keys -/

/-- A flash image, as its header gives it (R438). -/
def imageKind (i : List Byte) : Nat := leField i 0x04 2
/-- SVN of a flash image. -/
def imageSvn (i : List Byte) : Nat := leField i 0x08 4
/-- LENGTH of the body of a flash image. -/
def imageLength (i : List Byte) : Nat := leField i 0x10 8
/-- The body of a flash image. -/
def imageBody (i : List Byte) : List Byte := (i.drop 64).take (imageLength i)
/-- HASH of a flash image. -/
def imageHash (i : List Byte) : List Byte := (i.drop 0x18).take 32

/-- The counter of an image KIND (R440). -/
def svnCounter (m : Module) (kind : Nat) : BitVec 32 := ((m.counters.find? fun c => c.1 == kind).map (·.2)).getD 0

/-- Does an image keep the layout of R438, with the hash of its body? -/
def imageLaidOut (i : List Byte) : Bool :=
  leField i 0 4 == 0x4D494B53 && decide (1 ≤ imageKind i) && decide (imageKind i ≤ 3) && leField i 0x06 2 == 0 && leField i 0x0C 4 == 0 &&
    leField i 0x38 8 == 0 && i.length == 64 + imageLength i + rsaBytes && imageHash i == sha256 (imageBody i)

/-- Is an image signed by a key (R438)? The signature covers its header. -/
def imageSigned (key : PubKey) (i : List Byte) : Bool := pssVerify key (i.take 64) (i.drop (64 + imageLength i))

/-- Does an image pass R437, R438 and R440? -/
def imageOk (m : Module) (i : List Byte) : Bool :=
  imageLaidOut i && imageSigned m.rootKey i && decide ((svnCounter m (imageKind i)).toNat ≤ imageSvn i)

/-- The image of a KIND in a list. -/
def imageOf (l : List (List Byte)) (kind : Nat) : Option (List Byte) := l.find? fun i => imageKind i == kind

/-- Puts an image in the place of its KIND. -/
def putImage (l : List (List Byte)) (i : List Byte) : List (List Byte) := upsert (fun h => imageKind h == imageKind i) i l

/-- The measurement of an image (R439). -/
def measureOf (i : List Byte) : Measured := ⟨imageKind i, imageSvn i, ofLeBytes (imageHash i)⟩

/-- Marks an image as running, with its measurement (R439, R446). -/
def runImage (m : Module) (i : List Byte) : Module :=
  { m with running := upsert (fun h => h.kind == imageKind i) (measureOf i) m.running, measured := m.measured ++ [measureOf i] }

/-- STAGE (R446): a failed image is discarded; a drover image starts the swap. -/
def execStage (fr : Frame) (image : List Byte) (s : State) : Result :=
  servePar "STAGE" 0x30 fr s some image fun s1 =>
    if !imageOk s1.svc image then .refused 7
    else .ok (setSvc s1 { s1.svc with flash := putImage s1.svc.flash image, swapping := s1.svc.swapping || imageKind image == 2 }) []

/-- DROVER_SWAP (R446): the drovers go on in the new image, and its measurement is appended. -/
def execDroverSwap (s : State) : Result :=
  match imageOf s.svc.flash 2 with
  | some i => if s.svc.swapping then .next (setSvc s { runImage s.svc i with swapping := false }) else notDue "DROVER_SWAP"
  | none => notDue "DROVER_SWAP"

/-- COMMIT (R440): the counter of a KIND is raised to the SVN of the running image, and never falls. -/
def execCommit (fr : Frame) (kind : Nat) (s : State) : Result :=
  servePar "COMMIT" 0x31 fr s (parseOnly 2) kind fun s1 =>
    if kind = 0 || 3 < kind then .refused 4
    else match s1.svc.running.find? fun i => i.kind == kind with
      | none => .refused 5
      | some i =>
        let c := Nat.max (svnCounter s1.svc kind).toNat i.svn
        .ok (setSvc s1 { s1.svc with counters := upsert (fun x => x.1 == kind) (kind, BitVec.ofNat 32 c) s1.svc.counters }) (leBytes 4 c)

/-- IDENTITY (R439): KEYN and KEYE of the identity key, whose value no rule gives (log 7). -/
def execIdentity (fr : Frame) (s : State) : Result :=
  servePar "IDENTITY" 0x40 fr s (parseOnly 0) 0 fun s1 => .ok s1 (freeBytes 0 384 ++ leBytes 4 (Config.freeDigest 15).toNat)

/-- An entry of the measurement log: KIND, SVN and HASH in 64 bytes, at the places that a flash image's header gives them (log 7). -/
def logEntry (m : Measured) : List Byte :=
  leBytes 4 0 ++ leBytes 2 m.kind ++ leBytes 2 0 ++ leBytes 4 m.svn ++ leBytes 12 0 ++ leBytes 32 m.hash ++ leBytes 8 0

/-- QUOTE (R439): the log, the nonce, and a signature that no rule gives (log 7). -/
def execQuote (fr : Frame) (nonce : Nat) (s : State) : Result :=
  servePar "QUOTE" 0x41 fr s (parseOnly 32) nonce fun s1 =>
    let b := s1.svc.measured.flatMap logEntry ++ leBytes 32 nonce
    .ok s1 (b ++ identitySign b)

/-- TELEMETRY (R445): one counter record of unstated content, and the next index (log 6). -/
def execTelemetry (fr : Frame) (first : Nat) (s : State) : Result :=
  servePar "TELEMETRY" 0x50 fr s (parseOnly 4) first fun s1 => .ok s1 (leBytes 4 0 ++ leBytes 8 (Config.freeTelemetry first).toNat)

/-- The bytes of a RAS record in a report: class, location and TIME, as RASREC has them (R450, log 16). -/
def rasBytes (r : RasRec) : List Byte := leBytes 8 (rasCode r.cls) ++ leBytes 8 r.loc.toNat ++ leBytes 8 r.time.toNat

/-- RASLOG (R443, R445): the next index, 0 when complete, then the records that fit. -/
def execRaslog (fr : Frame) (first : Nat) (s : State) : Result :=
  servePar "RASLOG" 0x51 fr s (parseOnly 8) first fun s1 =>
    let n := (bodyLimit - 8) / 24
    let rs := s1.ras.drop first
    let next := if n < rs.length then first + n else 0
    .ok s1 (leBytes 8 next ++ (rs.take n).flatMap rasBytes)

/-- KEYADD (R441): a KEYID that holds a key keeps it (log 7). -/
def execKeyadd (fr : Frame) (keyid : Nat) (key : PubKey) (s : State) : Result :=
  servePar "KEYADD" 0x70 fr s parseKeyAdd (keyid, key) fun s1 =>
    if (registered s1 keyid).isSome then .refused 5 else .ok (setKey s1 ⟨keyid, some key, (keyOf s1 keyid).bind (·.count)⟩) []

/-- KEYDEL (R441, R445): the key that signs the request may not delete itself. -/
def execKeydel (fr : Frame) (keyid : Nat) (s : State) : Result :=
  servePar "KEYDEL" 0x71 fr s (parseOnly 4) keyid fun s1 =>
    match registered s1 keyid with
    | none => .refused 6
    | some k => if keyid = (headerOf fr).keyid then .refused 5 else .ok (setKey s1 { k with key := none }) []

end Sys2Proof.Machine
end

