-- ==== Sys2Proof/Machine/Zof.lean ====
section
/-!
DEFINITION. Machine/Zof.lean: the Zwihar Object Format as a loader reads it, byte by byte (R27 to R32, R36 to R38, R54, R55). A list of bytes
b stands for a file.
-/

namespace Sys2Proof.Machine

/-! ## Header, section table and section kinds -/

/-- An entry of the section table (R28). -/
structure ZofSection where
  name : Nat
  skind : Nat
  sflags : Nat
  offset : Nat
  size : Nat
  addr : Nat
  align : Nat
  link : Nat
  entsize : Nat
  res0 : Nat
  deriving DecidableEq, Repr

/-- The entry of the section table at an offset (R28). -/
def sectionAt (b : List Byte) (o : Nat) : ZofSection :=
  ⟨leField b o 4, leField b (o + 0x04) 2, leField b (o + 0x06) 2, leField b (o + 0x08) 8, leField b (o + 0x10) 8, leField b (o + 0x18) 8,
    leField b (o + 0x20) 4, leField b (o + 0x24) 4, leField b (o + 0x28) 4, leField b (o + 0x2C) 4⟩

/-- SECCOUNT (R27). -/
def secCount (b : List Byte) : Nat := leField b 0x08 2
/-- SECTAB (R27). -/
def secTab (b : List Byte) : Nat := leField b 0x10 8
/-- FILESIZE (R27). -/
def fileSize (b : List Byte) : Nat := leField b 0x18 8
/-- SIGNED (R27). -/
def isSigned (b : List Byte) : Bool := leField b 0x0C 4 % 2 == 1

/-- The section table (R28). -/
def sections (b : List Byte) : List ZofSection := (List.range (secCount b)).map fun i => sectionAt b (secTab b + 48 * i)

/-- The first section of a kind. -/
def sectionOf (b : List Byte) (kind : Nat) : Option ZofSection := (sections b).find? fun x => x.skind == kind

/-- What R29 says of a section kind: loaded, SFLAGS and ENTSIZE. -/
def kindInfo (k : Nat) : Option (Bool × Nat × Nat) :=
  ([(0, false, 0, 0), (1, true, 2, 0), (2, true, 1, 0), (3, true, 0, 0), (4, true, 1, 0), (5, false, 0, 16), (6, true, 1, 256),
    (7, false, 0, 32), (8, false, 0, 16), (9, true, 0, 16), (10, false, 0, 24), (11, false, 0, 0), (12, false, 0, 24),
    (13, false, 0, 40), (14, false, 0, 0)].find? fun (e : Nat × Bool × Nat × Nat) => e.1 == k).map (·.2)

/-- Is a section loaded (R29)? -/
def isLoaded (x : ZofSection) : Bool := ((kindInfo x.skind).map (·.1)).getD false

/-- The loaded sections of a file. -/
def loadedSections (b : List Byte) : List ZofSection := (sections b).filter isLoaded

/-- Bytes that a section has in the file. -/
def fileBytes (x : ZofSection) : Nat := if x.skind = 4 || x.skind = 0 then 0 else x.size

/-- The bytes that a section has in the file. -/
def contentOf (b : List Byte) (x : ZofSection) : List Byte := (b.drop x.offset).take (fileBytes x)

/-- The records of a section that is made of them. -/
def sectionRecords (b : List Byte) (x : ZofSection) : List (List Byte) :=
  (List.range (x.size / x.entsize)).map fun i => ((contentOf b x).drop (x.entsize * i)).take x.entsize

/-- The records of every section of a kind. -/
def recordsOfKind (b : List Byte) (kind : Nat) : List (List Byte) := ((sections b).filter fun x => x.skind == kind).flatMap (sectionRecords b)

/-! ## Names and symbols -/

/-- The strings of a file, none where it has no STRTAB. -/
def strings (b : List Byte) : List Byte := ((sectionOf b 11).map (contentOf b)).getD []

/-- Does a name begin at an offset of the strings: at the start of a string of at most 255 ASCII characters that a zero ends (R31)? Offset 0
names the empty string. -/
def nameOk (st : List Byte) (off : Nat) : Bool :=
  let rest := st.drop off
  let text := rest.takeWhile (· != 0)
  off == 0 ||
    (st[off - 1]? == some 0 && decide (text.length < rest.length) && decide (text.length ≤ 255) && text.all fun c => decide (c.toNat < 128))

/-- Do the strings keep the form of R31: the first byte is zero, and a zero ends the last string? -/
def stringsOk (b : List Byte) : Bool :=
  match sectionOf b 11 with
  | none => true
  | some x => (contentOf b x).head? == some 0 && (contentOf b x).getLast? == some 0

/-- The symbol records of a file (R32). -/
def symbols (b : List Byte) : List (List Byte) := recordsOfKind b 10

/-- Is a symbol record, other than record 0, one of a linked image: defined, with its name in the strings (R30 to R32)? R30 lists no refusal
for a SYMKIND, BIND, SECTION or VALUE outside the ranges of R32; that a loader accepts such a record is the model's choice (DESIGN CHOICE,
log 67). -/
def symbolOk (b r : List Byte) : Bool := leField r 4 2 != 0 && nameOk (strings b) (leField r 0 4)

/-- Are the symbols those of a linked image, with a record 0 that is all zero (R30, R32)? -/
def symbolsOk (b : List Byte) : Bool :=
  match symbols b with
  | [] => true
  | z :: t => ofLeBytes z == 0 && t.all (symbolOk b)

/-- The launch record that a kernel symbol names: VALUE bytes into its section, which is one of launch records (R32). -/
def kernelRecord (b : List Byte) (symbol : Nat) : Option (List Byte) :=
  (symbols b)[symbol]?.bind fun r =>
    let value := leField r 8 8
    match (sections b)[leField r 4 2]? with
    | some x =>
      if symbol ≠ 0 && leField r 6 1 = 3 && x.skind = 6 && value % 256 = 0 && decide (value + 256 ≤ x.size) then
        some (((contentOf b x).drop value).take 256)
      else none
    | none => none

/-! ## The records of the other sections -/

/-- The section of a REGIONS record. -/
def regionSection (b r : List Byte) : Option ZofSection := (sections b)[leField r 4 2]?

/-- Does a REGIONS record obey R36? -/
def regionOk (b r : List Byte) : Bool :=
  match regionSection b r with
  | none => false
  | some x =>
    let offset := leField r 0x10 8
    let length := leField r 0x18 8
    nameOk (strings b) (leField r 0 4) && isLoaded x && x.addr % 65536 == 0 && decide (leField r 6 1 < 64) && decide (leField r 7 1 < 8) &&
      decide (leField r 8 1 ≤ 5) && decide (leField r 9 1 < 32) && leField r 0x0A 6 == 0 && offset % 65536 == 0 && length % 65536 == 0 &&
      length != 0 && decide (offset + length ≤ x.size)

/-- The addresses that a REGIONS record covers. -/
def regionRange (b r : List Byte) : Nat × Nat := (((regionSection b r).map (·.addr)).getD 0 + leField r 0x10 8, leField r 0x18 8)

/-- Does a FRAMES record obey R37, with the res0 bits of its template zero (R44)? -/
def frameRecordOk (b r : List Byte) : Bool :=
  nameOk (strings b) (leField r 0 4) && leField r 4 4 == 0 && decide (leField r 8 8 < 2 ^ 37)

/-- Are the res0 bytes of a gate entry zero (R30, R39)? -/
def gateEntryOk (r : List Byte) : Bool := leField r 0x0A 6 == 0

/-- Are the res0 fields of a launch record zero (R30, R40, R41, R44, R46, R48)? -/
def launchRes0Ok (r : List Byte) : Bool :=
  let l := parseRecord ((List.range 32).map fun i => BitVec.ofNat 64 (leField r (8 * i) 8))
  l.res0Zero && decide (l.prio.toNat < 8) && decide (l.flags.toNat < 4) && (l.loops.toList.all fun w => w.extractLsb' 3 5 == 0) &&
    (l.tmpl.toList.all fun w => w.extractLsb' 37 27 == 0) &&
    (l.trough.toList.all fun w => w.extractLsb' 13 3 == 0 && w.extractLsb' 24 8 == 0) &&
    l.deps.toList.all fun w => w.extractLsb' 2 4 == 0 && w.extractLsb' 57 7 == 0

/-- Does a TROUGHS record obey R38, and agree with trough word QNUM of its kernel's launch record (R46)? -/
def troughOk (b r : List Byte) : Bool :=
  let q := leField r 8 1
  let slots := leField r 9 1
  nameOk (strings b) (leField r 0 4) && decide (q < 4) && slots != 0 && leField r 0x0C 4 == 0 &&
    match kernelRecord b (leField r 4 4) with
    | none => false
    | some k =>
      let w := BitVec.ofNat 32 (leField k (0x80 + 4 * q) 4)
      troughBase w == leField r 0x0A 2 * 256 && troughSlots w == slots

/-- Does a DIGEST record have a zero res0 field (R54)? -/
def digestOk (r : List Byte) : Bool := leField r 4 4 == 0

/-! ## Acceptance -/

/-- Does one section obey R28 to R30? LINK names what the section patches, or the strings of the symbols. -/
def sectionOk (b : List Byte) (x : ZofSection) : Bool :=
  match kindInfo x.skind with
  | none => false
  | some i =>
    x.skind != 0 && x.sflags == i.2.1 && x.entsize == i.2.2 && x.res0 == 0 && decide (x.align ≤ 26) && x.addr % 2 ^ x.align == 0 &&
      x.offset % 8 == 0 && (x.skind != 4 || x.offset == 0) && decide (x.offset + fileBytes x ≤ fileSize b) && nameOk (strings b) x.name &&
      (x.entsize == 0 || x.size % x.entsize == 0) && (x.skind != 14 || x.size == rsaBytes) &&
      (if x.skind = 10 then ((sections b)[x.link]?).any (fun y => y.skind == 11) else x.link == 0)

/-- Is the header that of a linked image (R27)? That LOAD refuses a relocatable object (KIND 1), which R27 admits and R30 does not list among
the refused files, is the model's choice (DESIGN CHOICE, log 67). -/
def zofHeaderOk (b : List Byte) : Bool :=
  leField b 0 4 == 0x00464F5A && leField b 4 2 == 1 && leField b 6 2 == 2 && decide (1 ≤ secCount b) && decide (secCount b ≤ 255) &&
    leField b 0x0A 2 == 0 && decide (leField b 0x0C 4 < 2) && secTab b % 8 == 0 && fileSize b == b.length &&
    decide (secTab b + 48 * secCount b ≤ b.length) && leField b 0x20 32 == 0

/-- Is entry 0 of the section table all zero (R28)? -/
def nullSectionOk (b : List Byte) : Bool := leField b (secTab b) 48 == 0

/-- At most one section of each kind that R30 names, and one DIGEST and one SIG in a signed file (R54). -/
def kindCountsOk (b : List Byte) : Bool :=
  let n := fun (k : Nat) => ((sections b).filter fun x => x.skind == k).length
  ([9, 10, 11, 13, 14] : List Nat).all (fun k => decide (n k ≤ 1)) && n 12 == 0 && (!isSigned b || (n 13 == 1 && n 14 == 1))

/-- Do no two sections share bytes of the file, and no two loaded sections an address (R30)? -/
def rangesOk (b : List Byte) : Bool :=
  disjointRanges ((sections b).map fun x => (x.offset, fileBytes x)) && disjointRanges ((loadedSections b).map fun x => (x.addr, x.size))

/-- Is a file one that a loader accepts (R27 to R32, R36 to R38)? -/
def fileOk (b : List Byte) : Bool :=
  zofHeaderOk b && nullSectionOk b && ((sections b).drop 1).all (sectionOk b) && kindCountsOk b && rangesOk b && stringsOk b && symbolsOk b &&
    (recordsOfKind b 7).all (regionOk b) && disjointRanges ((recordsOfKind b 7).map (regionRange b)) &&
    (recordsOfKind b 5).all (frameRecordOk b) && (recordsOfKind b 8).all (troughOk b) && (recordsOfKind b 13).all digestOk &&
    (recordsOfKind b 9).all gateEntryOk && (recordsOfKind b 6).all launchRes0Ok

/-! ## Signed files -/

/-- What the digest of a section covers: its file bytes, or for BSS its SIZE (R54). -/
def digested (b : List Byte) (x : ZofSection) : List Byte := if x.skind = 4 then leBytes 8 x.size else contentOf b x

/-- The DIGEST records that a file must hold, by section index (R54). -/
def expectedDigests (b : List Byte) : List (Nat × List Byte) :=
  (List.range (secCount b)).filterMap fun i =>
    (sections b)[i]?.bind fun x => if x.skind = 0 || x.skind = 13 || x.skind = 14 then none else some (i, sha256 (digested b x))

/-- The DIGEST records that a file holds. -/
def heldDigests (b : List Byte) : List (Nat × List Byte) := (recordsOfKind b 13).map fun r => (leField r 0 4, (r.drop 8).take 32)

/-- What the signature of a file covers: the header, the section table and the DIGEST section (R55). -/
def zofSignedPart (b : List Byte) : List Byte :=
  b.take 64 ++ (b.drop (secTab b)).take (48 * secCount b) ++ ((sectionOf b 13).map (contentOf b)).getD []

/-- Is a file one that a fold with a code key accepts (R54, R55)? -/
def signedOk (key : PubKey) (b : List Byte) : Bool :=
  isSigned b && heldDigests b == expectedDigests b && ((sectionOf b 14).any fun x => pssVerify key (zofSignedPart b) (contentOf b x))

/-! ## Placing a file -/

/-- The 64 KiB pages of a section, by VA over 64 KiB. -/
def pagesOfSection (x : ZofSection) : List Nat :=
  if x.size = 0 then [] else (List.range ((x.addr + x.size - 1) / 65536 - x.addr / 65536 + 1)).map fun i => x.addr / 65536 + i

/-- The pages of the loaded sections of a file, ascending. -/
def loadPages (b : List Byte) : List Nat := ((loadedSections b).flatMap pagesOfSection).foldl (fun l p => insertSorted p l) []

/-- The rights that R29 gives the pages of a section: V, R and U, and W or X. That U is set, so that code of level 0 reaches them, is the
model's choice (log 67). -/
def sectionRights (x : ZofSection) : Word := if x.skind = 1 then 0x1B else if x.skind = 3 || x.skind = 9 then 0x13 else 0x17

/-- The leaf of a page in a frame (R29, R36, R117): the rights of the sections that share it, and the attributes of the record that covers it. -/
def pageLeaf (b : List Byte) (page frame : Nat) : Word :=
  let rights := (loadedSections b).foldl (fun (w : Word) x => if (pagesOfSection x).contains page then w ||| sectionRights x else w) 0
  let covers := fun (r : List Byte) => decide ((regionRange b r).1 ≤ page * 65536) && decide (page * 65536 < (regionRange b r).1 + (regionRange b r).2)
  let attrs := match (recordsOfKind b 7).find? covers with
    | some r => leField r 6 1 * 2 ^ 8 + leField r 7 1 * 2 ^ 14 + leField r 8 1 * 2 ^ 17 + leField r 9 1 * 2 ^ 20
    | none => 2 ^ 17
  rights ||| BitVec.ofNat 64 (attrs + frame / 65536 * 2 ^ 26)

/-- The launch records of a file, each with its PRIO and its VA, in their order (R29, R40). -/
def launchesOf (b : List Byte) : List (Nat × Nat) :=
  ((sections b).filter fun x => x.skind == 6).flatMap fun x =>
    (List.range (x.size / 256)).map fun i => (leField (contentOf b x) (256 * i + 3) 1, x.addr + 256 * i)

/-- The bytes of a section from one address up to another. -/
def sectionBytes (b : List Byte) (x : ZofSection) (lo hi : Nat) : List Byte :=
  if x.skind = 4 then List.replicate (hi - lo) 0 else ((contentOf b x).drop (lo - x.addr)).take (hi - lo)

end Sys2Proof.Machine
end

