-- ==== Sys2Proof/Machine/ModuleEvents.lean ====
section
/-!
DEFINITION. Machine/ModuleEvents.lean: boot (R22 to R24, R437), snapshots and migration (R454, R455), the loader (R29, R30, R36, R55), the
drovers' heartbeat and the watchdog (R453, R456), and the registers outside the cores (R3, R84, R443, R451, R453).
-/

namespace Sys2Proof.Machine

/-! ## The configuration record -/

/-- Bytes of the configuration record, and of what its SIG covers (R22). -/
def configBytes : Nat := 0x5580
/-- Bytes of the record that its SIG covers. -/
def configSigned : Nat := 0x5400

/-- The core of bit n of COREOFF (R22). -/
def coreOfBit (n : Nat) : CorePos :=
  let k := n % 5120 / 64
  ⟨n / 5120, k % 10, k / 10, n % 64⟩

/-- The cores whose bits are set in bytes of COREOFF from byte number i on. -/
def coresOff (i : Nat) : List Byte → List CorePos
  | [] => []
  | b :: t => (if b = 0 then [] else ((List.range 8).filter fun j => b.getLsbD j).map fun j => coreOfBit (8 * i + j)) ++ coresOff (i + 1) t

/-- Reads a configuration record (R22). -/
def parseConfig (b : List Byte) : ConfigRecord :=
  { serial := BitVec.ofNat 64 (leField b 0x0008 8)
    dieoff := BitVec.ofNat 32 (leField b 0x0010 4)
    chanoff := (List.range 16).map fun m => BitVec.ofNat 32 (leField b (0x0018 + 4 * m) 4)
    clusteroff := (List.range 32).map fun n => BitVec.ofNat 128 (leField b (0x0058 + 16 * n) 16)
    coreoff := coresOff 0 ((b.drop 0x0258).take 20480) }

/-- Does a configuration record keep the layout of R22? -/
def configLaidOut (b : List Byte) : Bool :=
  b.length == configBytes && leField b 0 4 == 0x4746434B && leField b 4 2 == 1 && leField b 6 2 == 0 && leField b 0x0014 4 == 0 &&
    leField b 0x5258 424 == 0 && (List.range 32).all fun n => leField b (0x0058 + 16 * n + 10) 6 == 0

/-- Does a record leave a compute die enabled (R23, R24)? -/
def leavesADie (s : State) (r : ConfigRecord) : Bool :=
  (List.range Config.numDies).any fun n => dieEnabled (setSvc s { s.svc with config := some r, disabledDies := [] }) n

/-- Is a configuration record applied (R24)? The module's own SERIAL is a fact of the part. -/
def recordOk (s : State) (b : List Byte) : Bool :=
  configLaidOut b && pssVerify s.svc.rootKey (b.take configSigned) (b.drop configSigned) && (parseConfig b).serial == s.svc.serial &&
    leavesADie s (parseConfig b)

/-! ## Boot -/

/-- The image of a KIND in flash, when it passes its checks. -/
def verified (m : Module) (kind : Nat) : Option (List Byte) := (imageOf m.flash kind).filter (imageOk m)

/-- Step 2: the configuration record (R22 to R24, R437). None: it is not applied. -/
def bootConfig (s : State) : Option State :=
  (verified s.svc 3).bind fun i =>
    let b := imageBody i
    if recordOk s b then some (setSvc s { runImage s.svc i with config := some (parseConfig b), disabledDies := [], bootStep := 2 }) else none

/-- The compute die that a failing port or channel takes with it: the die of the port's socket or of its home die's (R11, R23), and the die
whose home die fronts the channel (R9). -/
def faultDie (k : Nat) : Nat := if k < 64 then k % 32 else (k - 64) / 16

/-- Step 3: the ports of the enabled passengers and the enabled channels are trained; one that fails is disabled, and its die with it, is
logged, and is counted (R23, R437). -/
def bootTrain (s : State) : State :=
  let bad := s.svc.linkFaults.filter fun k => dieEnabled s (faultDie k)
  let s1 := bad.foldl (fun s k => logRas s none .trainFail (BitVec.ofNat 64 k)) s
  setSvc s1 { s1.svc with disabledDies := (bad.map faultDie).eraseDups, trainFail := Nat.min 255 bad.length, bootStep := 3 }

/-- Step 5: Benostale starts (R437). -/
def bootService (s : State) : State := setSvc s { s.svc with bootStep := 5 }

/-- An image that has been verified and does not run is measured all the same (R437 step 5). -/
def measureImage (m : Module) (i : List Byte) : Module := { m with measured := m.measured ++ [measureOf i] }

/-- Steps 2 to 5 (R437): without a record boot goes on at step 5 with no compute die, its image measured if it was verified; without a drover
image it stops at step 4. -/
def bootFrom2 (s : State) : State :=
  match bootConfig s with
  | none => bootService (setSvc s { (((verified s.svc 3).map (measureImage s.svc)).getD s.svc) with config := none, bootErr := 1 })
  | some s1 =>
    let s2 := bootTrain s1
    match verified s2.svc 2 with
    | none => setSvc s2 { s2.svc with config := none, bootErr := 2 }
    | some i => bootService (setSvc s2 { runImage s2.svc i with bootStep := 4 })

/-- What the module keeps through power-off: flash, the operator keys and counters, and the facts of the part. -/
def keptModule (m : Module) : Module :=
  { Module.reset with
    keys := m.keys
    rootKey := m.rootKey
    romHash := m.romHash
    linkFaults := m.linkFaults
    flash := m.flash
    counters := m.counters
    serial := m.serial }

/-- Does mask ROM accept the root public key: its SHA-256 is the hash in ROM (R437 step 1)? -/
def rootAccepted (m : Module) : Bool := ofBeBytes (sha256 (leBytes 384 m.rootKey.modulus ++ leBytes 4 m.rootKey.exponent.toNat)) == m.romHash

/-- POWER_ON (R437): steps 1 to 5. -/
def execPowerOn (s : State) : Result :=
  let s1 := setSvc State.reset (keptModule s.svc)
  match (verified s1.svc 1).filter fun _ => rootAccepted s1.svc with
  | none => .next (setSvc s1 { s1.svc with bootErr := 3 })
  | some i => .next (bootFrom2 (setSvc s1 { runImage s1.svc i with bootStep := 1 }))

/-- What stands before step 2 of a module warm reset: every fold, VF, launch and strand has ended, every register has its reset value
(R3, R127), and home memory keeps its bytes (log 21). -/
def warmBase (s : State) : State :=
  let homes := s.folds.foldl resetWords s
  { State.reset with
    now := s.now
    mem := homes.mem.filter (fun c => !isBankKey c.1)
    poison := homes.poison.filter (fun k => !isBankKey k)
    ras := s.ras
    hostRead := s.hostRead
    inputs := s.inputs.filter (fun i => i != .warmReset)
    pace := s.pace
    freeCtr := s.freeCtr
    svc := { keptModule s.svc with bootStep := 1 } }

/-- MODULE_WARM_RESET (R437, R446): steps 2 to 5; a staged Benostale image takes effect. -/
def execModuleWarmReset (s : State) : Result :=
  if s.svc.bootStep = 0 then notDue "MODULE_WARM_RESET"
  else
    let s1 := warmBase s
    let m := match imageOf s.svc.flash 1 with
      | some i => runImage s1.svc i
      | none => s1.svc
    .next (bootFrom2 (setSvc s1 m))

/-! ## Snapshots and migration -/

/-- The 8-byte entries of a table that are listed, by their PA. -/
def entriesIn (s : State) (fold base bytes : Nat) : List Nat :=
  let lo := homeKey fold base
  let here := fun (k : Nat) => decide (lo ≤ k) && decide (k < lo + bytes)
  let ks := (s.mem.map (·.1)).filter here ++ ((s.words.filter fun w => w.level == .home).map (·.key)).filter here
  (ks.map fun k => k / 8 * 8 - homeKey fold 0).eraseDups

/-- The leaves below a table, with their PA (R117, R296). -/
def leavesBelow (s : State) (fold : Nat) : List (Nat × Nat × Option Nat) → Nat → List (Nat × Word)
  | [], _ => []
  | (_, width, leafOk) :: rest, base =>
    (entriesIn s fold base (8 * 2 ^ width)).flatMap fun pa =>
      let e := (homeRead8 s (homeKey fold pa)).2
      if !pteV e || e.getLsbD 25 then []
      else if pteSize e = 3 then leavesBelow s fold rest (ptePfn e * 65536)
      else if leafOk = some (pteSize e) then [(pa, e)] else []

/-- The home key of the first byte of a page's frame, by the leaf that maps it (R120, R124). -/
def frameStart (s : State) (v : Vf) (leaf : Word) (frame : Nat) : Option Nat :=
  match placeOf s ⟨⟨0, 0, 0, 0⟩, v.fold, v.num, 2, 0⟩ .w leaf 0 frame false with
  | .ok (.glob k _ _) => some k
  | .ok (.peer k _ _) => some k
  | _ => none

/-- COW is set in every writable leaf of a VF (R454 step 2). -/
def setAllCow (s : State) (v : Vf) : State :=
  (leavesBelow s v.fold walkLevels v.root).foldl (fun s x =>
    if pteW x.2 then homeWriteWords s (homeKey v.fold x.1) 2 (x.2 ||| 0x80).toNat else s) s

/-- The TLB entries of a VF go (R301). -/
def dropTlbVf (s : State) (vf : Nat) : State := { s with tlb := s.tlb.filter fun e => e.vf != vf }

/-- Is a VF the running one of its fold? -/
def vfRunning (s : State) (v : Vf) : Bool := (foldAt s v.fold).any fun f => f.running == some v.num

/-- Writes the request that is under way. -/
def setJob (s : State) (j : Job) : State := setSvc s { s.svc with job := some j }

/-- The answer to the request that was under way (R454, R455). -/
def endJob (s : State) (j : Job) (status : Nat) (body : List Byte) : State :=
  answerFrame (setSvc s { s.svc with job := none }) ⟨j.viaPcie, j.code, 0, j.count, j.salt⟩ status body

/-- Is no gang switch of a fold under way? -/
def isSettled (f : Fold) : Bool := f.switchT.isNone && f.switchTo.isNone && f.restart.isNone

/-- Bytes of the pages that have been copied since the last snapshot (R454, R455). -/
def deltaBytes (s : State) (v : Vf) : Nat :=
  (v.copied.map fun p => match (walk s v.fold v.root (BitVec.ofNat 64 (p * 65536))).2 with | .leaf _ _ b => 2 ^ b | _ => 65536).sum

/-- The frames of the writable leaves of a VF, which COW freezes: each its first home key and its bytes (R454). -/
def frozenFrames (s : State) (v : Vf) : List (Nat × Nat) :=
  (leavesBelow s v.fold walkLevels v.root).filterMap fun x =>
    if pteW x.2 then (frameStart s v x.2 (ptePfn x.2 * 65536)).map fun k => (k, 2 ^ leafBits (pteSize x.2)) else none

/-- Step 2 of R454 for a VF that is switched out: COW in every writable leaf, and the TLB invalidation. The snapshot is the save area with
the frames that are frozen, in the place of the VF's last. A delta below the size that was asked for is the last of a MIGRATE (R455). -/
def freeze (s : State) (j : Job) (v : Vf) (stage : JobStage) : State :=
  let s1 := dropTlbVf (setAllCow s v) v.num
  let s2 := setVf s1 { (vfAt s1 v.num).getD v with copied := [], snapshot := some ⟨v.epoch, v.saved, frozenFrames s v⟩ }
  setJob s2 { j with stage := stage, first := false, last := !j.first && j.migrate.any fun n => decide (deltaBytes s v < n) }

/-- A snapshot has been completed: SNAPSHOT answers with its epoch; MIGRATE takes another, or the final switch (R454, R455). -/
def snapshotDone (s : State) (j : Job) (v : Vf) : State :=
  match j.migrate with
  | none => endJob s j 0 (leBytes 8 (((vfAt s v.num).map (·.epoch)).getD v.epoch))
  | some _ => setJob s { j with stage := if j.last then .ending else .asked }

/-- The gang switch out of a VF that a request needs is asked for (R411, R454, R455). -/
def askSwitch (s : State) (f : Fold) (j : Job) (stage : JobStage) : State :=
  let t := (timeOf s).toNat + 2000
  let ran := if f.sliceQuantum = 0 then 0 else t - f.sliceStart
  setJob (setFold s { f with switchT := some t, sliceQuantum := 0 }) { j with stage := stage, since := t, ran := ran }

/-- A snapshot of a running VF ends with its switch in: the time of its steps is charged as debt (R454). -/
def chargeSnapshot (s : State) (j : Job) (v : Vf) : State := setVf s { v with debt := v.debt + ((timeOf s).toNat - j.since) }

/-- MIGRATE ends: the source verifies the tags of the save area, the destination restores the VF, and the source VF is removed (R420, R455).
How many bytes were sent is not stated, nor what follows a tag that does not match: STATUS 8, and the VF stays (log 22). -/
def endMigrate (s : State) (f : Fold) (j : Job) (v : Vf) : State :=
  if v.saved.all (areaOk f v) then
    let r := nextFree s
    endJob (removeVf r.1 v) j 0 (leBytes 8 (Config.freeWord r.2).toNat)
  else endJob (logRas s (some f.num) .saveIntegrity (BitVec.ofNat 64 v.num)) j 8 []

/-- The next step of a SNAPSHOT or MIGRATE (R454, R455). What the drovers do in it waits during a swap (R446). -/
def jobDue (s : State) : Option State :=
  s.svc.job.bind fun j =>
    if j.stage = .cancelled then some (endJob (logRas s none .internalError (BitVec.ofNat 64 j.vf)) j 8 [])
    else (vfAt s j.vf).bind fun v => (foldAt s v.fold).bind fun f =>
      let on := f.running == some v.num
      match j.stage with
      | .asked =>
        if on then (if isSettled f then some (askSwitch s f j .leaving) else none)
        else if f.switchTo = some v.num || !droversTake s v.num then none
        else
          let s1 := freeze s j v .asked
          some (snapshotDone s1 (s1.svc.job.getD j) v)
      | .leaving =>
        if on || !droversTake s v.num then none
        else
          let s1 := freeze s j v .returning
          some (setFold s1 { (foldAt s1 f.num).getD f with switchTo := some v.num })
      | .returning => if on && isSettled f then some (snapshotDone (chargeSnapshot s j v) j v) else none
      | .ending =>
        if on then (if isSettled f then some (askSwitch s f j .final) else none)
        else if f.switchTo = some v.num then none
        else some (endMigrate s f j v)
      | .final => if on then none else some (endMigrate s f j v)
      | .cancelled => none

/-- A SNAPSHOT or MIGRATE is taken up, and answered when its steps are done. -/
def startJob (s : State) (fr : Frame) (vf : Nat) (migrate : Option Nat) : State :=
  let h := headerOf fr
  let s1 := setJob s ⟨h.viaPcie, h.code, h.count, h.salt, vf, migrate, .asked, 0, 0, true, false⟩
  setSvc s1 { s1.svc with busy := h.viaPcie, submitted := none }

/-- SNAPSHOT (R454). -/
def execSnapshot (fr : Frame) (vf : Nat) (s : State) : Result :=
  servePar "SNAPSHOT" 0x20 fr s (parseOnly 2) vf fun s1 => if (vfAt s1 vf).isNone then .refused 6 else .started (startJob s1 fr vf none)

/-- MIGRATE (R455): destOk says that the destination fold can take the VF (log 22). -/
def execMigrate (fr : Frame) (vf destFold delta endpoint : Nat) (destOk : Bool) (s : State) : Result :=
  servePar "MIGRATE" 0x21 fr s parseMigrate (vf, destFold, delta, endpoint) fun s1 =>
    if 31 < destFold then .refused 4
    else if (vfAt s1 vf).isNone then .refused 6
    else if !destOk then .refused 5
    else .started (startJob s1 fr vf (some delta))

/-! ## The loader -/

/-- Writes a leaf into the tables of a VF, taking new tables from a pool. -/
def installLeaf (fold va : Nat) (leaf : Word) : List (Nat × Nat × Option Nat) → State → Nat → Nat → State × Nat
  | [], s, _, pool => (s, pool)
  | (shift, width, _) :: rest, s, base, pool =>
    let pa := base + 8 * (va / 2 ^ shift % 2 ^ width)
    let r := homeRead8 s (homeKey fold pa)
    if rest.isEmpty then (homeWriteWords r.1 (homeKey fold pa) 2 leaf.toNat, pool)
    else if pteV r.2 && pteSize r.2 = 3 then installLeaf fold va leaf rest r.1 (ptePfn r.2 * 65536) pool
    else
      let p := BitVec.ofNat 64 (1 + pool / 65536 * 2 ^ 26 + 3 * 2 ^ 62)
      let s1 := { r.1 with mem := Memory.clear r.1.mem (homeKey fold pool) (homeKey fold pool + 65536) }
      installLeaf fold va leaf rest (homeWriteWords s1 (homeKey fold pa) 2 p.toNat) pool (pool + 65536)

/-- A page of a file with its frame and the frame's first home key; none where the frame is not one that the page's PLACE and DIE allow. -/
def planPage (s : State) (v : Vf) (b : List Byte) (x : Nat × Nat) : Option (Nat × Word × Nat) :=
  let leaf := pageLeaf b x.1 x.2
  if x.2 % 65536 ≠ 0 || !canonical (BitVec.ofNat 64 (x.1 * 65536)) then none else (frameStart s v leaf x.2).map fun k => (x.1, leaf, k)

/-- What a loader's plan makes of a file: each page with its leaf and home key, where the plan gives every page a frame of its own. -/
def planOf (s : State) (v : Vf) (b : List Byte) (plan : LoadPlan) : Option (List (Nat × Word × Nat)) :=
  let ps := (loadPages b).zip plan.frames
  let rows := ps.filterMap (planPage s v b)
  if plan.frames.length = (loadPages b).length && rows.length = ps.length && plan.frames.eraseDups.length = plan.frames.length &&
      plan.pool % 65536 = 0 then some rows
  else none

/-- Writes the part of a section that lies in a page whose frame begins at a key (R29). -/
def placePart (b : List Byte) (page key : Nat) (s : State) (x : ZofSection) : State :=
  let lo := Nat.max x.addr (page * 65536)
  let hi := Nat.min (x.addr + x.size) (page * 65536 + 65536)
  if lo < hi then hostWriteBytes s (key + (lo - page * 65536)) (sectionBytes b x lo hi) else s

/-- Places and maps one page (R29, R36). -/
def loadPage (b : List Byte) (v : Vf) (st : State × Nat) (x : Nat × Word × Nat) : State × Nat :=
  installLeaf v.fold (x.1 * 65536) x.2.1 walkLevels ((loadedSections b).foldl (placePart b x.1 x.2.2) st.1) v.root st.2

/-- The tables below a table, itself among them: each its first home key and its bytes (R117, R296). -/
def tablesBelow (s : State) (fold : Nat) : List (Nat × Nat × Option Nat) → Nat → List (Nat × Nat)
  | [], _ => []
  | (_, width, _) :: rest, base =>
    (homeKey fold base, 8 * 2 ^ width) ::
      if rest.isEmpty then []
      else (entriesIn s fold base (8 * 2 ^ width)).flatMap fun pa =>
        let e := (homeRead8 s (homeKey fold pa)).2
        if pteV e && !e.getLsbD 25 && pteSize e = 3 then tablesBelow s fold rest (ptePfn e * 65536) else []

/-- Does no range of a list meet one of another? -/
def rangesMiss (a b : List (Nat × Nat)) : Bool := a.all fun x => b.all fun y => !overlaps x.1 x.2 y.1 y.2

/-- Is the memory of a plan free: the frames of the pages and the new tables, which end at a PA, miss each other, the tables of the fold's
VFs (R29), and the frames that a snapshot names (R454)? -/
def planFree (s : State) (v : Vf) (plan : LoadPlan) (rows : List (Nat × Word × Nat)) (poolEnd : Nat) : Bool :=
  let frames := rows.map fun x => (x.2.2, 65536)
  let new := [(homeKey v.fold plan.pool, poolEnd - plan.pool)]
  let tables := (s.vfs.filter fun w => w.fold == v.fold).flatMap fun w => tablesBelow s v.fold walkLevels w.root
  let frozen := s.vfs.flatMap fun w => (w.snapshot.map (·.frames)).getD []
  rangesMiss new frames && rangesMiss (new ++ frames) (tables ++ frozen)

/-- Appends one launch record of a file to the queue of its PRIO, as Benostale submits it (R81), or not. One whose append must wait for the
copy of a page stands behind the VF's doorbell writes (R117; log 67). -/
def loadAppend (vf : Nat) (s : Option State) (x : Nat × Nat) : Option State :=
  s.bind fun s => (vfAt s vf).bind fun v =>
    let va := BitVec.ofNat 64 x.2
    if !mayAppend v x.1 va then none
    else if !v.bells.isEmpty then some (setVf s { v with bells := v.bells ++ [(x.1, va)] })
    else match appendWaits s vf x.1 va with
      | some s1 => some (setVf s1 { v with bells := [(x.1, va)] })
      | none => (append s vf x.1 va).map (·.1)

/-- Does a fold accept a file (R30, R55)? -/
def acceptsFile (s : State) (v : Vf) (b : List Byte) : Bool :=
  fileOk b && match (foldAt s v.fold).bind (·.codeKey) with
    | none => true
    | some key => signedOk key b

/-- LOAD (R29, R30, R36, R55, R441): a refused file loads nothing. Benostale picks the memory by the plan; without any for the pages of the
file it fails with STATUS 8. Then it submits the file's launch records (R81); where an append is refused, so is the request (log 67). -/
def execLoadFile (fr : Frame) (vf : Nat) (plan : LoadPlan) (s : State) : Result :=
  servePar "LOAD" 0x60 fr s parseLoad vf fun s1 =>
    let b := (bodyOf fr).drop 8
    match vfAt s1 vf with
    | none => .refused 6
    | some v =>
      if !acceptsFile s1 v b then .refused 7
      else
        let placed := (planOf s1 v b plan).bind fun rows =>
          let r := rows.foldl (loadPage b v) (s1, plan.pool)
          if planFree s1 v plan rows r.2 then some r.1 else none
        match placed with
        | none => .started (answerFrame (logRas s1 none .internalError (BitVec.ofNat 64 v.num)) (headerOf fr) 8 [])
        | some s2 => match (launchesOf b).foldl (loadAppend vf) (some s2) with
          | none => .refused 5
          | some s3 => .ok s3 (leBytes 4 (loadedSections b).length)

/-! ## The watchdog -/

/-- Is a requested gang switch late: not complete within 4 quanta of the outgoing VF after T (R418, R456)? -/
def switchLate (s : State) (f : Fold) : Bool :=
  match f.running, f.switchT with
  | some vf, some t => decide (t + 4 * (((vfAt s vf).map (·.quantum)).getD 0) * 100 ≤ (timeOf s).toNat)
  | _, _ => false

/-- Does a fold lack progress (R456)? -/
def lacksProgress (s : State) (f : Fold) : Bool :=
  (f.dies.any fun n => decide ((dieAt s n).beatAt + (f.wdTimes[0]?).getD 0 ≤ (timeOf s).toNat)) || switchLate s f

/-- Writes the ladder's stage. -/
def setStage (s : State) (f : Fold) (n : Nat) : State := setFold s { f with wdStage := n, wdSince := (timeOf s).toNat }

/-- The launch that stage 3 kills: the one whose cores delay the switch, else the oldest running one (R456). -/
def wdVictim (s : State) (f : Fold) : Option Word :=
  match (allCores s).find? fun c => c.fold == f.num && c.occ != .idle && switchDue s c && regionOpen c with
  | some c => some c.lid
  | none =>
    let ls := s.launches.filter fun l => l.fold == f.num && f.running == some l.vf && (l.phase == .placing || l.phase == .placed)
    (ls.foldl (fun (b : Option Launch) l =>
      match b with
      | none => some l
      | some x => if l.begun && (!x.begun || l.tstart.toNat < x.tstart.toNat) then some l else some x) none).map (·.lid)

/-- Stage 3 (R456): the VF is switched out and a launch is killed, with STATUS 3. No rule says that the time of a slice which this cuts off is
deducted from DEF (R87); that it is not is the model's choice (DESIGN CHOICE, log 76). -/
def stage3 (s : State) (f : Fold) : State :=
  let s1 := match f.running, f.switchT with
    | some _, none => setFold s { f with switchT := some ((timeOf s).toNat + 2000), sliceQuantum := 0 }
    | _, _ => s
  match wdVictim s f with
  | none => s1
  | some lid => match launchAt s1 lid with
    | some l => killLaunch (setLaunch s1 { l with byWatchdog := true }) lid
    | none => s1

/-- The drovers of a fold, each through a function. -/
def mapDrovers (s : State) (f : Fold) (g : Drover → Drover) : State :=
  { s with dies := s.dies.map fun d => if f.dies.contains d.num then { d with drover := g d.drover } else d }

/-- What the ladder does when it comes to a stage (R456): at stage 1 it interrupts the fold's drovers, and at stage 2 it restarts them; their
queues are kept (log 61). -/
def stageActs (s : State) (f : Fold) (n : Nat) : State :=
  if n = 1 then mapDrovers s f fun d => { d with irq := true }
  else if n = 2 then mapDrovers s f fun _ => Drover.reset
  else if n = 3 then stage3 s f
  else if n = 4 then resetFold s f
  else if n = 5 then { s with inputs := s.inputs ++ [.warmReset] }
  else if n = 6 then setSvc s { s.svc with powerCycle := true }
  else s

/-- The next stage of the ladder, when one is due (R456). -/
def watchdogDue (s : State) (f : Fold) : Option State :=
  if !lacksProgress s f then (if f.wdStage = 0 then none else some (setStage s f 0))
  else if 6 ≤ f.wdStage || decide (f.wdStage ≠ 0 ∧ (timeOf s).toNat < f.wdSince + (f.wdTimes[f.wdStage]?).getD 0) then none
  else
    let n := f.wdStage + 1
    let s1 := setStage s f n
    some (stageActs s1 ((foldAt s1 f.num).getD f) n)

/-- WATCHDOG_STAGE (R456). -/
def execWatchdogStage (fold : Nat) (s : State) : Result :=
  match foldAt s fold with
  | none => notDue "WATCHDOG_STAGE"
  | some f => whenDue "WATCHDOG_STAGE" (watchdogDue s f)

/-- DRVBEAT_WRITE (R453, R456): every write counts as progress, and the drover has taken the watchdog's interrupt (log 61); when nothing else is
lacking the ladder returns to stage 0. -/
def execDrvbeatWrite (die : Nat) (value : Word) (s : State) : Result :=
  if !dieEnabled s die then notDue "DRVBEAT_WRITE"
  else
    let d := dieAt s die
    let s1 := setDie s { d with drvbeat := value, beatAt := (timeOf s).toNat, drover := { d.drover with irq := false } }
    match d.fold.bind (foldAt s1) with
    | some f => .next (if f.wdStage ≠ 0 && !lacksProgress s1 f then setStage s1 f 0 else s1)
    | none => .next s1

/-! ## The registers outside the cores -/

/-- A signed number as 32 bits. -/
def int32 (x : Int) : Nat := (BitVec.ofInt 32 x).toNat

/-- A register of a doorbell page (R84). -/
def doorbellReg (s : State) (vf offset : Nat) : Word :=
  match vfAt s vf with
  | none => if offset = 0x050 then BitVec.ofNat 64 (vf * 2 ^ 39 + 1) else 0
  | some v =>
    if offset = 0x040 then v.qovf.setWidth 64
    else if offset = 0x048 then v.dbdrop.setWidth 64
    else if offset = 0x050 then lidOf v.num v.appends
    else if offset = 0x058 then v.badlid
    else if offset = 0x060 then
      let ready := (foldAt s v.fold).any fun f => readyWork s f v.num
      BitVec.ofNat 64 (1 + (if ready then 2 else 0) + (if vfRunning s v then 4 else 0) + int32 (v.deficit.tdiv 100) * 2 ^ 32)
    else 0

/-- Where the request buffer of BAR 0 begins, and where the response buffer does (R443). -/
def requestBuffer : Nat := 0x10000
/-- Where the response buffer begins. -/
def responseBuffer : Nat := 0x20000
/-- Bytes of either buffer. -/
def bufferBytes : Nat := 0x10000

/-- The word at an offset of the request buffer. -/
def requestWord (s : State) (offset : Nat) : Word := ((s.svc.request.find? fun x => x.1 == offset).map (·.2)).getD 0

/-- The word at an offset of the response buffer: of the frame that stands there, else 0 (R442, R443). -/
def responseWord (s : State) (offset : Nat) : Word :=
  match s.svc.response with
  | some r => BitVec.ofNat 64 (leField (responseBytes r) offset 8)
  | none => 0

/-- A register of BAR 0 (R443). -/
def managementReg (s : State) (offset : Nat) : Word :=
  if offset = 0x0000 then BitVec.ofNat 64 (s.svc.bootStep + s.svc.bootErr * 2 ^ 4 + s.svc.trainFail * 2 ^ 8)
  else if offset = 0x0010 then BitVec.ofNat 64 ((if s.svc.busy then 1 else 0) + (if s.svc.done then 2 else 0) + s.svc.rlen.toNat * 2 ^ 32)
  else if offset % 8 ≠ 0 then 0
  else if requestBuffer ≤ offset && offset < requestBuffer + bufferBytes then requestWord s (offset - requestBuffer)
  else if responseBuffer ≤ offset && offset < responseBuffer + bufferBytes then responseWord s (offset - responseBuffer)
  else 0

/-- Where the host-to-device ring begins in the window of a mailbox, and where it ends (R451). -/
def hostRing : Nat := 0x8000
/-- The end of the host-to-device ring. -/
def hostRingEnd : Nat := 0x10000

/-- The 8-byte word i of an entry of the device-to-host ring (R450). -/
def entryWord (fold : Nat) (e : MbEntry) (i : Nat) : Word :=
  match i with
  | 0 => BitVec.ofNat 64 (e.kind + fold * 2 ^ 16 + e.vf * 2 ^ 32)
  | 1 => e.a
  | 2 => e.b
  | _ => e.c

/-- The word at an offset of the device-to-host ring: of the latest entry that stands there, else 0 (R451). -/
def deviceRingWord (f : Fold) (offset : Nat) : Word :=
  let n := Config.mailboxEntries
  let back := (f.d2htail + n - 1 - offset / 32) % n
  if back < f.d2h.length then ((f.d2h[f.d2h.length - 1 - back]?).map fun e => entryWord f.num e (offset % 32 / 8)).getD 0 else 0

/-- The word at an offset of the host-to-device ring. -/
def hostRingWord (f : Fold) (offset : Nat) : Word := ((f.h2d.find? fun x => x.1 == offset).map (·.2)).getD 0

/-- A register of a host mailbox, or a word of its rings (R451). -/
def mailboxReg (s : State) (fold offset : Nat) : Word :=
  match foldAt s fold with
  | none => 0
  | some f =>
    if offset % 8 ≠ 0 then 0
    else if offset < hostRing then deviceRingWord f offset
    else if offset < hostRingEnd then hostRingWord f (offset - hostRing)
    else if offset = 0x10000 then BitVec.ofNat 64 f.d2htail
    else if offset = 0x10008 then BitVec.ofNat 64 f.d2hhead
    else if offset = 0x10010 then BitVec.ofNat 64 f.h2dtail
    else if offset = 0x10018 then BitVec.ofNat 64 f.h2dhead
    else if offset = 0x10020 then bitWord f.ien
    else 0

/-- A custom CSR of a drover (R453). -/
def droverReg (s : State) (die csr : Nat) : Word :=
  let d := dieAt s die
  if csr = 0x7C0 then BitVec.ofNat 64 (die + (d.fold.getD 0) * 2 ^ 5 + (if d.fold.isSome then 2 ^ 10 else 0))
  else if csr = 0x7C1 then d.drvmode.setWidth 64
  else if csr = 0x7C2 then d.drvbeat
  else if csr = 0x7C3 then d.drvmbox
  else 0

/-- What a read of a register outside the cores returns (R84, R443, R451, R453). -/
def regValue (s : State) (r : DevReg) : Word :=
  match r with
  | .doorbellPage vf o => doorbellReg s vf o
  | .management o => managementReg s o
  | .hostMailbox f o => mailboxReg s f o
  | .drover d c => droverReg s d c

/-- A write to a register of a host mailbox, or to a word of its own ring (R451). -/
def mailboxWrite (s : State) (fold offset : Nat) (value : Word) : Result :=
  if offset = 0x10008 then execD2hheadWrite fold value s
  else match foldAt s fold with
    | none => .next s
    | some f =>
      if hostRing ≤ offset && offset < hostRingEnd && offset % 8 = 0 then
        .next (setFold s { f with h2d := upsert (fun x => x.1 == offset - hostRing) (offset - hostRing, value) f.h2d })
      else if offset = 0x10010 then
        .next (if value.toNat < f.h2dtail || f.h2dhead + Config.mailboxEntries < value.toNat then s else setFold s { f with h2dtail := value.toNat })
      else if offset = 0x10020 then .next (setFold s { f with ien := value.getLsbD 0 })
      else .next s

/-- The word i of the oldest entry of the host-to-device ring that the device has not consumed (R451). -/
def msgWord (f : Fold) (i : Nat) : Word := hostRingWord f (32 * (f.h2dhead % Config.mailboxEntries) + 8 * i)

/-- The device acts on the oldest message of the host (R450, R451). A KIND that R450 does not give, and a message that names a VF outside the
fold, is ignored with MBERR; so is one with another FOLD or a non-zero res0 byte, for which the chapter states no refusal (R4; log 18). -/
def messageDue (s : State) (f : Fold) : Option State :=
  if f.h2dtail ≤ f.h2dhead then none
  else
    let w := msgWord f 0
    let kind := fieldN w 0 16
    let vf := fieldN w 32 16
    let a := msgWord f 1
    let b := msgWord f 2
    if fieldN w 16 8 ≠ f.num || fieldN w 24 8 ≠ 0 || fieldN w 48 16 ≠ 0 || !vfInFold s f.num vf then some (ignoreMsg s f kind vf a)
    else match kind with
      | 2 => nextOf (execPgdone f.num vf a b s)
      | 4 => nextOf (execCowdone f.num vf a s)
      | 6 => nextOf (execNextvf f.num vf s)
      | 8 => nextOf (execStart f.num a s)
      | 9 => nextOf (execRefuse f.num a b s)
      | 11 => nextOf (execPlacego f.num a b.toNat (msgWord f 3).toNat s)
      | 13 => nextOf (execContainact f.num a b s)
      | _ => some (ignoreMsg s f kind vf a)

/-- The first n bytes of the request buffer. -/
def requestBytes (s : State) (n : Nat) : List Byte := ((List.range ((n + 7) / 8)).flatMap fun i => leBytes 8 (requestWord s (8 * i)).toNat).take n

/-- The frame in the request buffer (R442): header, the body that it carries, and signature. -/
def bufferedFrame (s : State) : List Byte :=
  requestBytes s (Nat.min bufferBytes (64 + storedLength ⟨true, requestBytes s 64, []⟩ + rsaBytes))

/-- GO (R443): Benostale takes the frame in the request buffer and sets BUSY. It is ignored while BUSY or DONE is 1, and before Benostale has
started, which is the model's choice (log 73). -/
def goFrame (s : State) : State :=
  if s.svc.busy || s.svc.done || s.svc.bootStep ≠ 5 || s.svc.powerCycle then s
  else setSvc s { s.svc with busy := true, submitted := some (bufferedFrame s) }

/-- A write to a register of BAR 0, or to a word of the request buffer (R443). -/
def managementWrite (s : State) (offset : Nat) (value : Word) : Result :=
  if offset = 0x0008 then .next (if value.getLsbD 0 then goFrame s else s)
  else if offset = 0x0010 then (if value.getLsbD 1 then execMbstatDoneClear s else .next s)
  else if requestBuffer ≤ offset && offset < requestBuffer + bufferBytes && offset % 8 = 0 then
    .next (setSvc s { s.svc with
      request := upsert (fun x => x.1 == offset - requestBuffer) (offset - requestBuffer, value) s.svc.request })
  else .next s

/-- A request of a form with the operands that its body gives; a body that breaks its layout is malformed (R444, R445). -/
def serveParsed {α : Type} (x : Option α) (fr : Frame) (s : State) (act : α → Result) : Result :=
  match x with
  | some a => act a
  | none => serve "MALFORMED" (headerOf fr).code.toNat fr s fun _ _ => .refused 4

/-- Serves a FOLDSET frame by its WHAT (R445). -/
def serveFoldset (fr : Frame) (s : State) : Result :=
  let b := bodyOf fr
  match foldsetForm fr with
  | 1 => serveParsed (parseFoldset 1 9 policyValue b) fr s fun x => execFoldsetPolicy fr x.1 x.2 s
  | 2 => serveParsed (parseFoldset 2 396 (fun b => some (keyAt b 8)) b) fr s fun x => execFoldsetCodeKey fr x.1 x.2 s
  | 3 => serveParsed (parseFoldset 3 32 timesValue b) fr s fun x => execFoldsetWatchdogTimes fr x.1 x.2 s
  | _ => serveParsed (parseFoldset 0 9 foldmodeValue b) fr s fun x => execFoldsetFoldmode fr x.1 x.2 s

/-- Serves a HANDLE frame by its OP (R445). -/
def serveHandleFrame (fr : Frame) (s : State) : Result :=
  let b := bodyOf fr
  match handleForm fr with
  | 1 => serveParsed (parseHandle 1 b) fr s fun x => execHandleInstall fr x s
  | 2 => serveParsed (parseHandle 2 b) fr s fun x => execHandleRevoke fr x s
  | _ => serveParsed (parseHandle 0 b) fr s fun x => execHandleExport fr x s

/-- Serves a frame by its CODE (R441). What a frame does not say by itself, the body in host memory, the memory that LOAD takes and the
destination of MIGRATE, comes with an act of the outside, which serves such a frame (log 73). -/
def serveFrame (fr : Frame) (s : State) : Result :=
  let b := bodyOf fr
  match (headerOf fr).code.toNat with
  | 0x01 => serveParsed (parseFoldNew b) fr s fun x => execFoldnew fr x s
  | 0x02 => serveParsed (parseOnly 1 b) fr s fun x => execFolddel fr x s
  | 0x03 => serveParsed (parseOnly 1 b) fr s fun x => execFoldreset (some fr) x s
  | 0x04 => serveFoldset fr s
  | 0x10 => serveParsed (parseVfSet b) fr s fun x => execVfset fr x s
  | 0x11 => serveParsed (parseOnly 2 b) fr s fun x => execVfdel fr x s
  | 0x12 => serveParsed (parseRct b) fr s fun x => execRct fr x.1 x.2 s
  | 0x13 => serveHandleFrame fr s
  | 0x20 => serveParsed (parseOnly 2 b) fr s fun x => execSnapshot fr x s
  | 0x21 => serveParsed (parseMigrate b) fr s fun _ => notDue "MIGRATE"
  | 0x30 => execStage fr b s
  | 0x31 => serveParsed (parseOnly 2 b) fr s fun x => execCommit fr x s
  | 0x40 => execIdentity fr s
  | 0x41 => serveParsed (parseOnly 32 b) fr s fun x => execQuote fr x s
  | 0x50 => serveParsed (parseOnly 4 b) fr s fun x => execTelemetry fr x s
  | 0x51 => serveParsed (parseOnly 8 b) fr s fun x => execRaslog fr x s
  | 0x60 => serveParsed (parseLoad b) fr s fun _ => notDue "LOAD"
  | 0x70 => serveParsed (parseKeyAdd b) fr s fun x => execKeyadd fr x.1 x.2 s
  | 0x71 => serveParsed (parseOnly 4 b) fr s fun x => execKeydel fr x s
  | _ => execUnknownCode fr s

/-- Benostale serves the frame that GO has handed in (R443). -/
def submitDue (s : State) : Option State :=
  s.svc.submitted.bind fun bs => if isIndirect ⟨true, bs, []⟩ then none else nextOf (serveFrame ⟨true, bs, []⟩ s)

/-- REGISTER_WRITE (R3): a write by the access code of the register; a register that has an event of its own acts by it. -/
def execRegisterWrite (r : DevReg) (value : Word) (s : State) : Result :=
  match r with
  | .doorbellPage vf o =>
    if o < 0x040 && o % 8 = 0 then execDoorbell vf (o / 8) value s
    else if o = 0x040 then execQovfClear vf value s
    else .next s
  | .management o => managementWrite s o value
  | .hostMailbox f o => mailboxWrite s f o value
  | .drover d c =>
    if c = 0x7C2 then execDrvbeatWrite d value s
    else if c = 0x7C3 && dieEnabled s d then .next (setDie s { dieAt s d with drvmbox := value })
    else .next s

end Sys2Proof.Machine
end

