-- ==== Sys2Proof/Machine/TrapExec.lean ====
section
/-!
DEFINITION. Machine/TrapExec.lean: SETM (R144), TRET (R159), BKPT (R160), CONTAIN (R429) and the illegal word (R137).
-/

namespace Sys2Proof.Machine

/-- SETM (R144). -/
def execSetm (i : BitVec 18) (s : State) : Result :=
  .next (strand s [] fun s1 =>
    if modeIllegal i then raiseTrap s1 2 (wordOf (.setm i))
    else
      let s2 := pushUndo s1 (.mode s1.core.regs.mode)
      fallThrough (setRegs s2 { s2.core.regs with mode := i }))

/-- TRET (R159). -/
def execTret (s : State) : Result :=
  .next (drained s [] fun s1 =>
    if s1.core.regs.level ≠ 2 || !s1.core.trap.inh || tretIllegal s1 then raiseTrap s1 2 (wordOf .tret)
    else trapReturn s1)

/-- BKPT (R160). -/
def execBkpt (s : State) : Result := .next (strand s [] fun s1 => raiseTrap s1 3 0)

/-- The containment that CONTAIN raises, with no queued instruction outstanding (R429). -/
def containOp (s : State) (a : Reg) : State :=
  let v := xr s a
  let code := if v.toNat ≤ 23 then v.toNat else 2
  let t := s.core.trap
  if s.core.regs.level = 2 && t.inh then
    let pc := (t.epc >>> 2) <<< 2
    let s1 := if tretIllegal s then s else tretSteps s
    containAs (setPc s1 pc) code t.tval pc false
  else containAs s code 0 (pcOf s) (!t.inh)

/-- CONTAIN (R429). -/
def execContain (a : Reg) (s : State) : Result :=
  .next (settle (whenReady s [a] fun s0 => atDrain s0 fun s1 => containOp s1 a))

/-- ILLEGAL_INSTRUCTION: a word that decodes to nothing raises cause 2 when it is about to issue (R137). -/
def execIllegalInstruction (w : InstrWord) (s : State) : Result :=
  .next (settle (raiseTrap s 2 (w.setWidth 64)))

end Sys2Proof.Machine
end

