-- ==== Sys2Proof/Machine/Fetch.lean ====
section
/-!
DEFINITION. Machine/Fetch.lean: how the strand in focus gets its next instruction (R129 to R132, R137), and the interrupt that comes before
one (R157).
-/

namespace Sys2Proof.Machine

/-- Lines of an instruction cache: 8 KiB of 64-byte lines (R129). -/
def icacheLines : Nat := 128

/-- The line of a key in the instruction cache of the core in focus. -/
def icacheFind (s : State) (key : Nat) : Option ILine :=
  s.core.icache.find? fun l => l.fold == s.core.fold && l.line == key / 64 * 64

/-- Puts a line into the instruction cache; the oldest goes when it is full (log 10). -/
def icacheAdd (s : State) (l : ILine) : State :=
  setCore s { s.core with icache := (l :: s.core.icache).take icacheLines }

/-- The fill of a line through the cluster cache and the die cache, never through the L1 (R129): the state, the line's words, and whether an
uncorrectable error lies in it. -/
def fetchLine (s : State) (key : Nat) (attr : Attr) : State × ILine × Bool :=
  let r := readWords s s.core.pos (sharedPath s s.core.pos) (lineWords key) attr
  (r.1, ⟨s.core.fold, key / 64 * 64, r.2.map (·.1)⟩, r.2.any (·.2))

/-- Fetch runs ahead along the next lines of the page (R129): a line with an error is not held, and the error is logged as
unconsumed (R130), at the fill, even where the strand comes to the line later and takes cause 10 there: the model's choice (log 68). -/
def fetchAhead (s : State) (key : Nat) (attr : Attr) : Nat → State
  | 0 => s
  | n + 1 =>
    let s0 := fetchAhead s key attr n
    let k := key / 64 * 64 + 64 * (n + 1)
    if (icacheFind s0 k).isSome || k / 65536 ≠ key / 65536 then s0
    else
      let r := fetchLine s0 k attr
      if r.2.2 then logRas r.1 (some s.core.fold) .unconsumed (BitVec.ofNat 64 k) else icacheAdd r.1 r.2.1

/-- What a fetch comes to: a word, a fault with its cause, or a wait for the service of a page. -/
inductive Fetched where
  | word (s : State) (w : InstrWord)
  | fault (s : State) (code : Nat)
  | wait (s : State)
  deriving Repr

/-- A word of a line. -/
def lineWord (l : ILine) (key : Nat) : InstrWord := (l.words[key % 64 / 4]?).getD 0

/-- The word at the PC of the strand in focus (R129, R132). It sets A of the page once no queued instruction can squash the fetch (R297). -/
def fetchWord (s : State) : Fetched :=
  let r := translateAs s s.core.who (pcOf s) .x true false
  match r.2 with
  | .wait => .wait r.1
  | .fault c => .fault r.1 c
  | .ok (.glob k pte ptePa) =>
    let s0 := noteUse r.1 (.glob k pte ptePa)
    (match icacheFind s0 k with
     | some l => .word s0 (lineWord l k)
     | none =>
       let f := fetchLine s0 k (pteAttr pte)
       if f.2.2 then .fault f.1 10
       else
         let s1 := icacheAdd f.1 f.2.1
         .word (fetchAhead s1 k (pteAttr pte) (Nat.min 2 s1.pace.ahead)) (lineWord f.2.1 k))
  | .ok _ => .fault r.1 1

/-- The strand of a core is about to issue its first instruction: its launch, and TIME. -/
def startOf (s : State) : Option (Word × Word) :=
  ((launchAt s s.core.lid).filter fun l => !l.begun && s.core.occ == .strand).map fun l => (l.lid, timeOf s)

/-- The launch notes when its first instruction issued (R50, R434), if this one was it. -/
def noteStart (s : State) (x : Option (Word × Word)) : State :=
  match x.bind fun y => (launchAt s y.1).map fun l => (l, y.2) with
  | some y => setLaunch s { y.1 with tstart := y.2, begun := true }
  | none => s

/-- What the strand in focus is about to do. -/
inductive Next where
  | run (i : Instr) (s : State)
  | illegal (w : InstrWord) (s : State)
  | done (r : Result)

/-- The next instruction of the strand in focus: a fault met by fetch is raised when the word is about to issue (R132), and so is an
illegal word (R137). -/
def fetchNext (s : State) : Next :=
  let s0 := setSync s { s.core.sync with stall := false, trapWaits := false }
  match fetchWord s0 with
  | .wait s1 => .done (.next (stall s1))
  | .fault s1 c => .done (.next (settle (raiseTrap s1 c (pcOf s1))))
  | .word s1 w =>
    match decodeWord w with
    | .ok i => .run i s1
    | .error _ => .illegal w s1

/-! ## Interrupts -/

/-- Does an instruction raise a trap of its own when it is about to issue, or at its enqueue: cause 2 by the mode, the level or the CSR (R137,
R138, R147), or a limit of the queue (R252)? -/
def issueFails (s : State) (i : Instr) : Bool :=
  match i with
  | .csrr _ c => csrBad s c
  | .csrw _ a c => csrBad s c || modeWriteBad c (xr s a)
  | .csrs _ _ c => csrBad s c
  | .csrc _ _ c => csrBad s c
  | .setm m => modeIllegal m
  | .tret => s.core.regs.level ≠ 2 || !s.core.trap.inh || tretIllegal s
  | .cboInv _ => s.core.regs.level ≠ 2
  | _ => (unitOf i).isSome && (!modeOk s.core.regs.mode i || (enqueueSub s i).isSome)

/-- Does the word at the PC of the strand in focus raise a trap when it is about to issue: a fetch fault, an illegal word, or a trap of its
own (R132, R137, R157)? -/
def fetchFails (s : State) : Bool :=
  match fetchWord s with
  | .fault _ _ => true
  | .wait _ => false
  | .word _ w => match decodeWord w with
    | .ok i => issueFails s i
    | .error _ => true

/-- INTERRUPT_TAKE (R157). -/
def execInterruptTake (s : State) : Result :=
  if (killDue s).isSome || (pendingTrap s).isSome then notDue "INTERRUPT_TAKE" else whenDue "INTERRUPT_TAKE" (interruptTaken s (fetchFails s))

end Sys2Proof.Machine
end

