-- ==== Sys2Proof/Machine/Schedule.lean ====
section
/-!
DEFINITION. Machine/Schedule.lean: what the machine does in a step (log 2, log 9): an act of the outside that is due, an event that the
units bring about, a boundary event of a strand, or the issue of one instruction by the next strand in turn.
-/

namespace Sys2Proof.Machine

/-- The first of some acts that is due. -/
def firstOf (s : State) : List (State → Option State) → Option State
  | [] => none
  | f :: t =>
    match f s with
    | some s1 => some s1
    | none => firstOf s t

/-! ## The units' events -/

/-- A node of the counter tree reports (R432). -/
def reportsDue (s : State) : Option State :=
  s.launches.findSome? fun l => if l.phase = .waiting then none else l.nodes.findSome? fun e => nodeReports s l e.1

/-- A queue engine tests the parked requests of a word (R393). -/
def svTestsDue (s : State) : Option State := s.svTests.head?.bind fun e => nextOf (execSvwaitWake e.2 s)

/-- A barrier of a launch completes (R396). -/
def barriersDue (s : State) : Option State :=
  if (allCores s).any fun c => c.sync.arrived.isSome then
    s.launches.findSome? fun l => ([0, 1, 2] : List (BitVec 2)).findSome? fun f => nextOf (execBarrierComplete l.lid f s)
  else none

/-- The first core that passes a test and for which an act is due, put in focus. -/
def onCores (s : State) (p : Core → Bool) (f : State → Option State) : Option State :=
  (allCores s).findSome? fun c => if p c then f (focusOn s c.pos) else none

/-- A wait ends (R218, R399, R400). -/
def wakesDue (s : State) : Option State :=
  onCores s (fun c => c.sync.wait.isSome) fun u => firstOf u [joinWakes, inboxWakes, wfiWakes]

/-- A round of a negotiator is played (R349). -/
def roundsDue (s : State) : Option State :=
  s.clusters.findSome? fun k => ([0, 1, 2, 3] : List (BitVec 2)).findSome? fun n => nextOf (execNegotiationRound k.pos n s)

/-- A copy engine acts (R306 to R313). -/
def copiesDue (s : State) : Option State :=
  s.clusters.findSome? fun k =>
    if k.cmds.isEmpty then none
    else firstOf s [fun u => nextOf (execCopyComplete k.pos u), fun u => nextOf (execCpyqReserve k.pos 0 u),
      fun u => nextOf (execCpyqReserve k.pos 1 u), fun u => nextOf (execCpyqReserve k.pos 2 u),
      fun u => nextOf (execCpyqReserve k.pos 3 u), fun u => nextOf (execCopyCommandRun k.pos u)]

/-- A gang switch out goes on (R411 to R417). -/
def switchesDue (s : State) : Option State := s.folds.findSome? fun f => switchOutDue s f

/-- The VF that a fold switches in, or that is about to restart. -/
def comingVf (f : Fold) : Option Nat := if f.restart.isSome then f.running else f.switchTo

/-- A fold's message of the host, gang switch in, slice boundary or watchdog (R87, R415, R451, R456). A restore whose tags do not match is an act of the outside that
comes first (log 7). -/
def foldsDue (s : State) : Option State :=
  s.folds.findSome? fun f =>
    firstOf s [fun u => messageDue u f, fun u => (comingVf f).bind fun vf => switchInDue u f vf true, fun u => sliceDue u f,
      fun u => watchdogDue u f]

/-- A doorbell write or a field of a queue block that waited for the copy of a page (R84, R117). -/
def blockWritesDue (s : State) : Option State := s.vfs.findSome? fun v => firstOf s [fun u => bellsDue u v, fun u => blocksDue u v]

/-- The dispatcher reads an entry at the head of a ring (R90). -/
def headsDue (s : State) : Option State :=
  s.vfs.findSome? fun v => (List.range 8).findSome? fun p =>
    if (queueOf v p).head < (queueOf v p).tail then nextOf (execHeadCheck v.num p s) else none

/-- The dispatcher tests the waiting heads (R91). -/
def testsDue (s : State) : Option State :=
  s.folds.findSome? fun f =>
    if s.launches.any fun l => l.fold == f.num && l.phase == .waiting then nextOf (execDependenceTest f.num s) else none

/-- The dispatcher takes a launch (R92). -/
def choicesDue (s : State) : Option State :=
  if s.launches.any fun l => l.phase == .waiting then s.folds.findSome? fun f => chooseDue s f else none

/-- The clusters of a launch's counter tree. -/
def launchNodes (l : Launch) : List ClusterPos :=
  l.nodes.filterMap fun e => match e.1 with | .cluster c => some c | _ => none

/-- A cluster takes the launch that is placing (R105). -/
def takesDue (s : State) : Option State :=
  s.launches.findSome? fun l =>
    if l.phase = .placing then (launchNodes l).findSome? fun c => nextOf (execClusterTakeLaunch c l.lid s) else none

/-- A strand starts (R104). -/
def startsDue (s : State) : Option State :=
  s.launches.findSome? fun l =>
    if l.phase = .placing then
      (launchNodes l).findSome? fun c =>
        if (clusterAt s c).holds.map (·.1) = some l.lid then (clusterCores s c).findSome? fun p => strandDue s p else none
    else none

/-- An idle core steals (R214, R215). -/
def stealsDue (s : State) : Option State :=
  (((allCores s).filter fun c => !c.sync.deque.isEmpty).map fun c => c.pos.cluster).eraseDups.findSome? fun k =>
    (clusterCores s k).findSome? fun p => if (coreAt s p).occ = .idle then stealDue (focusOn s p) else none

/-- The event of the units that occurs next. -/
def unitEvent (s : State) : Option State :=
  firstOf s [reportsDue, killsDue, switchesDue, svTestsDue, barriersDue, wakesDue, roundsDue, copiesDue, mailboxDue, submitDue, jobDue, foldsDue,
    blockWritesDue, recordsDue, headsDue, testsDue, choicesDue, takesDue, startsDue, stealsDue]

/-! ## What a core has left behind -/

/-- The queue of the core in focus goes on, unless it has stopped for a gang switch (R244, R412). -/
def queueGoes (s : State) : Option State :=
  if s.core.q.queue.isEmpty then none
  else ifRunning s (match runQueue s with
    | .clear s1 => some s1
    | .trapped s1 => some s1
    | .blocked s1 => if s1 = s then none else some s1)

/-- Something that the core in focus left outstanding goes on (log 9). -/
def leftBehind (s : State) : Option State :=
  firstOf s [sbLeaves, queueGoes, fun u => remoteAnswered u false, fun u => remoteAnswered u true, fun u => ifRunning u (earlyRuns u), prefDue]

/-- Has a core something outstanding? -/
def hasLeft (c : Core) : Bool := !c.q.sb.isEmpty || !c.q.queue.isEmpty || !c.q.remote.isEmpty || !c.q.ldq.isEmpty || !c.prefs.isEmpty

/-- A packet advances or is delivered (R13, R17). -/
def packetsDue (s : State) : Option State :=
  (List.range s.packets.length).findSome? fun i => firstOf s [fun u => nextOf (execPacketDeliver i u), fun u => nextOf (execPacketHop i u)]

/-- Something outstanding goes on: of the cores that wait or stall in every step, and of every core and router in one step of
eight, so that none is left for ever (log 9). -/
def outstandingDue (s : State) : Option State :=
  let all := decide (s.now % 8 = 7)
  match onCores s (fun c => hasLeft c && (all || c.sync.wait.isSome || c.sync.stall)) leftBehind with
  | some s1 => some s1
  | none => if all then packetsDue s else none

/-! ## The strands -/

/-- Can the strand in focus issue: it holds a strand or task, waits for nothing, and has not stopped (R412, R424)? -/
def canIssue (s : State) : Bool :=
  s.core.occ != .idle && !s.core.sync.stopped && s.core.sync.wait.isNone && !switchStops s s.core

/-- What the machine does. -/
inductive Plan where
  | input (i : Instr) (s : State)
  | done (s : State)
  | issue (s : State)

/-- What the strand of the core in focus does: it unwinds, takes a trap or an interrupt, or issues (R157, R428). -/
def strandAct (s : State) : Option Plan :=
  match killDue s with
  | some s1 => if s1 = s then none else some (.done s1)
  | none =>
    match boundaryTrap s (fetchFails s) with
    | some s1 => some (.done s1)
    | none => if canIssue s then some (.issue s) else none

/-- The first strand in turn that acts, put in focus. -/
def strandTurn (s : State) : Option Plan :=
  (allCores s).findSome? fun c => if c.occ = .idle then none else strandAct (focusOn s c.pos)

/-- What the machine does but for the outside: an event, something outstanding, or a strand. -/
def inner (s : State) : Plan :=
  match unitEvent s with
  | some s1 => .done s1
  | none =>
    match outstandingDue s with
    | some s1 => .done s1
    | none => (strandTurn s).getD (.done ((firstOf s [fun u => onCores u hasLeft leftBehind, packetsDue]).getD s))

/-- Is a row an event, with no word of its own? -/
def isEvent (i : Instr) : Bool := (encode i).isNone

/-- The pending act of the outside that comes next, its effect where it is no event. An act that is not due waits. -/
def outer (s : State) : Plan :=
  match s.inputs with
  | [] => inner s
  | .saveMax f us :: t => .done (changeSaveMax { s with inputs := t } f us)
  | .saveFault vf :: t => .done (faultSaved { s with inputs := t } vf)
  | .event i :: t => if isEvent i then .input i { s with inputs := t } else .done { s with inputs := t }
  | .focus p :: t => .done (focusOn { s with inputs := t } p)
  | .foldReset f :: t =>
    match nextOf (execFoldreset none f s) with
    | some s1 => .done s1
    | none => .done { s with inputs := t }
  | .warmReset :: t =>
    match nextOf (execModuleWarmReset { s with inputs := t }) with
    | some s1 => .done s1
    | none => .done { s with inputs := t }

/-- What the machine does: a vector whose cycle has come leaves on the exchange before anything else (R404). -/
def plan (s : State) : Plan :=
  match nextOf (execExchangeSend s) with
  | some s1 => .done s1
  | none => outer s

/-- The next strand in turn comes into focus. -/
def rotate (s : State) : State :=
  match s.others.find? fun c => c.occ != .idle with
  | some c => focusOn s c.pos
  | none => s

/-- One cycle passes (R20). -/
def clock (r : Result) : Result :=
  match r with
  | .next s => .next (tick s)
  | other => other

/-- An instruction of the strand in focus that did not stall has issued: its launch notes the first (R434), and the refusals it met end with it
(R299). -/
def ended (first : Option (Word × Word)) (s : State) : State :=
  if s.core.sync.stall then s else endRefusals (noteStart s first) s.core.pos 0

/-- An instruction has had its turn: one cycle passes, and the next strand in turn comes into focus (log 2). -/
def issued (first : Option (Word × Word)) (r : Result) : Result :=
  match r with
  | .next s => .next (rotate (tick (ended first s)))
  | other => other

end Sys2Proof.Machine
end

