-- ==== Sys2Proof/Machine/VecArithExec.lean ====
section
/-!
DEFINITION. Machine/VecArithExec.lean: the strand's side of class 4: vector arithmetic (R256 to R262). Each instruction is checked and enqueued (R138, R161); its effect is that of Machine/Queue.lean at its turn.
-/

namespace Sys2Proof.Machine

/-- VADD (R257). -/
def execVadd (d : Reg) (a : Reg) (b : Reg) (x : BitVec 1) (s : State) : Result := .next (enqueue s (.vadd d a b x))
/-- VSUB (R257). -/
def execVsub (d : Reg) (a : Reg) (b : Reg) (x : BitVec 1) (s : State) : Result := .next (enqueue s (.vsub d a b x))
/-- VMUL (R257). -/
def execVmul (d : Reg) (a : Reg) (b : Reg) (x : BitVec 1) (s : State) : Result := .next (enqueue s (.vmul d a b x))
/-- VFMA (R257). -/
def execVfma (d : Reg) (a : Reg) (b : Reg) (x : BitVec 1) (s : State) : Result := .next (enqueue s (.vfma d a b x))
/-- VFMS (R257). -/
def execVfms (d : Reg) (a : Reg) (b : Reg) (x : BitVec 1) (s : State) : Result := .next (enqueue s (.vfms d a b x))
/-- VFNMA (R257). -/
def execVfnma (d : Reg) (a : Reg) (b : Reg) (x : BitVec 1) (s : State) : Result := .next (enqueue s (.vfnma d a b x))
/-- VMIN (R258). -/
def execVmin (d : Reg) (a : Reg) (b : Reg) (x : BitVec 1) (s : State) : Result := .next (enqueue s (.vmin d a b x))
/-- VMAX (R258). -/
def execVmax (d : Reg) (a : Reg) (b : Reg) (x : BitVec 1) (s : State) : Result := .next (enqueue s (.vmax d a b x))
/-- VABS (R258). -/
def execVabs (d : Reg) (a : Reg) (s : State) : Result := .next (enqueue s (.vabs d a))
/-- VNEG (R258). -/
def execVneg (d : Reg) (a : Reg) (s : State) : Result := .next (enqueue s (.vneg d a))
/-- VDIV (R257). -/
def execVdiv (d : Reg) (a : Reg) (b : Reg) (x : BitVec 1) (s : State) : Result := .next (enqueue s (.vdiv d a b x))
/-- VSQRT (R257). -/
def execVsqrt (d : Reg) (a : Reg) (s : State) : Result := .next (enqueue s (.vsqrt d a))
/-- VRCP (R259). -/
def execVrcp (d : Reg) (a : Reg) (s : State) : Result := .next (enqueue s (.vrcp d a))
/-- VRSQ (R259). -/
def execVrsq (d : Reg) (a : Reg) (s : State) : Result := .next (enqueue s (.vrsq d a))
/-- VEXP2 (R259). -/
def execVexp2 (d : Reg) (a : Reg) (s : State) : Result := .next (enqueue s (.vexp2 d a))
/-- VLOG2 (R259). -/
def execVlog2 (d : Reg) (a : Reg) (s : State) : Result := .next (enqueue s (.vlog2 d a))
/-- VAND (R260). -/
def execVand (d : Reg) (a : Reg) (b : Reg) (x : BitVec 1) (s : State) : Result := .next (enqueue s (.vand d a b x))
/-- VOR (R260). -/
def execVor (d : Reg) (a : Reg) (b : Reg) (x : BitVec 1) (s : State) : Result := .next (enqueue s (.vor d a b x))
/-- VXOR (R260). -/
def execVxor (d : Reg) (a : Reg) (b : Reg) (x : BitVec 1) (s : State) : Result := .next (enqueue s (.vxor d a b x))
/-- VSLL (R260). -/
def execVsll (d : Reg) (a : Reg) (b : Reg) (x : BitVec 1) (s : State) : Result := .next (enqueue s (.vsll d a b x))
/-- VSRL (R260). -/
def execVsrl (d : Reg) (a : Reg) (b : Reg) (x : BitVec 1) (s : State) : Result := .next (enqueue s (.vsrl d a b x))
/-- VSRA (R260). -/
def execVsra (d : Reg) (a : Reg) (b : Reg) (x : BitVec 1) (s : State) : Result := .next (enqueue s (.vsra d a b x))
/-- VCMP (R261). -/
def execVcmp (d : BitVec 3) (a : Reg) (b : Reg) (x : BitVec 1) (c : BitVec 4) (s : State) : Result := .next (enqueue s (.vcmp d a b x c))
/-- VSEL (R262). -/
def execVsel (d : Reg) (a : Reg) (b : Reg) (x : BitVec 1) (k : BitVec 3) (s : State) : Result := .next (enqueue s (.vsel d a b x k))
/-- VMOV (R262). -/
def execVmov (d : Reg) (a : Reg) (s : State) : Result := .next (enqueue s (.vmov d a))
/-- VBC (R262). -/
def execVbc (d : Reg) (a : Reg) (s : State) : Result := .next (enqueue s (.vbc d a))
/-- VIOTA (R262). -/
def execViota (d : Reg) (s : State) : Result := .next (enqueue s (.viota d))
/-- VMULH (R260). -/
def execVmulh (d : Reg) (a : Reg) (b : Reg) (x : BitVec 1) (s : State) : Result := .next (enqueue s (.vmulh d a b x))
/-- VCLAMP (R258). -/
def execVclamp (d : Reg) (a : Reg) (b : Reg) (x : BitVec 1) (s : State) : Result := .next (enqueue s (.vclamp d a b x))

end Sys2Proof.Machine
end

