-- ==== Sys2Proof/Machine/VecExec.lean ====
section
/-!
DEFINITION. Machine/VecExec.lean: the strand's side of class 5: vector memory, conversion, permutation, reductions, masks and scales (R263 to R272, R283 to R289). Each instruction is checked and enqueued (R138, R161); its effect is that of Machine/Queue.lean at its turn.
-/

namespace Sys2Proof.Machine

/-- VLD (R283). -/
def execVld (d : Reg) (a : Reg) (i : BitVec 13) (s : State) : Result := .next (enqueue s (.vld d a i))
/-- VLDS (R286). -/
def execVlds (d : Reg) (a : Reg) (b : Reg) (s : State) : Result := .next (enqueue s (.vlds d a b))
/-- VLDG (R286). -/
def execVldg (d : Reg) (a : Reg) (b : Reg) (n : BitVec 2) (s : State) : Result := .next (enqueue s (.vldg d a b n))
/-- VLDMX (R283). -/
def execVldmx (d : Reg) (a : Reg) (b : Reg) (s : State) : Result := .next (enqueue s (.vldmx d a b))
/-- VST (R283). -/
def execVst (d : Reg) (a : Reg) (i : BitVec 13) (s : State) : Result := .next (enqueue s (.vst d a i))
/-- VSTS (R286). -/
def execVsts (d : Reg) (a : Reg) (b : Reg) (s : State) : Result := .next (enqueue s (.vsts d a b))
/-- VSTG (R286). -/
def execVstg (d : Reg) (a : Reg) (b : Reg) (n : BitVec 2) (s : State) : Result := .next (enqueue s (.vstg d a b n))
/-- VCVT (R263). -/
def execVcvt (d : Reg) (a : Reg) (p : BitVec 3) (sf : BitVec 4) (s : State) : Result := .next (enqueue s (.vcvt d a p sf))
/-- VCVTN (R264). -/
def execVcvtn (d : Reg) (a : Reg) (h : BitVec 1) (f : BitVec 2) (s : State) : Result := .next (enqueue s (.vcvtn d a h f))
/-- LDCB (R265). -/
def execLdcb (a : Reg) (b : Reg) (s : State) : Result := .next (enqueue s (.ldcb a b))
/-- VPERM (R266). -/
def execVperm (d : Reg) (a : Reg) (b : Reg) (x : BitVec 1) (s : State) : Result := .next (enqueue s (.vperm d a b x))
/-- VSLIDE_UP (R266). -/
def execVslideUp (d : Reg) (a : Reg) (b : Reg) (s : State) : Result := .next (enqueue s (.vslideUp d a b))
/-- VSLIDE_DN (R266). -/
def execVslideDn (d : Reg) (a : Reg) (b : Reg) (s : State) : Result := .next (enqueue s (.vslideDn d a b))
/-- VZIP (R266). -/
def execVzip (d : Reg) (a : Reg) (b : Reg) (h : BitVec 1) (s : State) : Result := .next (enqueue s (.vzip d a b h))
/-- VUNZIP (R266). -/
def execVunzip (d : Reg) (a : Reg) (b : Reg) (h : BitVec 1) (s : State) : Result := .next (enqueue s (.vunzip d a b h))
/-- VREDADD (R267). -/
def execVredadd (d : Reg) (a : Reg) (s : State) : Result := .next (enqueue s (.vredadd d a))
/-- VREDMAX (R267). -/
def execVredmax (d : Reg) (a : Reg) (s : State) : Result := .next (enqueue s (.vredmax d a))
/-- VREDMIN (R267). -/
def execVredmin (d : Reg) (a : Reg) (s : State) : Result := .next (enqueue s (.vredmin d a))
/-- VMVX (R268). -/
def execVmvx (d : Reg) (a : Reg) (b : Reg) (s : State) : Result := .next (enqueue s (.vmvx d a b))
/-- VINS (R268). -/
def execVins (d : Reg) (a : Reg) (b : Reg) (s : State) : Result := .next (enqueue s (.vins d a b))
/-- MPUSH (R269). -/
def execMpush (a : BitVec 3) (s : State) : Result := .next (enqueue s (.mpush a))
/-- MINV (R269). -/
def execMinv (s : State) : Result := .next (enqueue s (.minv))
/-- MPOP (R269). -/
def execMpop (s : State) : Result := .next (enqueue s (.mpop))
/-- MSTG (R269). -/
def execMstg (sf : BitVec 3) (n : BitVec 3) (s : State) : Result := .next (enqueue s (.mstg sf n))
/-- KMOV_KX (R270). -/
def execKmovKx (d : BitVec 3) (a : Reg) (s : State) : Result := .next (enqueue s (.kmovKx d a))
/-- KMOV_XK (R270). -/
def execKmovXk (d : Reg) (a : BitVec 3) (s : State) : Result := .next (enqueue s (.kmovXk d a))
/-- KMOV_KT (R270). -/
def execKmovKt (d : BitVec 3) (s : State) : Result := .next (enqueue s (.kmovKt d))
/-- KOP_AND (R270). -/
def execKopAnd (d : BitVec 3) (a : BitVec 3) (b : BitVec 3) (s : State) : Result := .next (enqueue s (.kopAnd d a b))
/-- KOP_OR (R270). -/
def execKopOr (d : BitVec 3) (a : BitVec 3) (b : BitVec 3) (s : State) : Result := .next (enqueue s (.kopOr d a b))
/-- KOP_XOR (R270). -/
def execKopXor (d : BitVec 3) (a : BitVec 3) (b : BitVec 3) (s : State) : Result := .next (enqueue s (.kopXor d a b))
/-- KOP_ANDN (R270). -/
def execKopAndn (d : BitVec 3) (a : BitVec 3) (b : BitVec 3) (s : State) : Result := .next (enqueue s (.kopAndn d a b))
/-- VSCL_SET (R272). -/
def execVsclSet (d : Reg) (a : Reg) (j : BitVec 2) (s : State) : Result := .next (enqueue s (.vsclSet d a j))
/-- VSCL_SETA (R272). -/
def execVsclSeta (d : Reg) (a : Reg) (s : State) : Result := .next (enqueue s (.vsclSeta d a))
/-- VSCL_GET (R272). -/
def execVsclGet (d : Reg) (a : Reg) (j : BitVec 2) (s : State) : Result := .next (enqueue s (.vsclGet d a j))

end Sys2Proof.Machine
end

