-- ==== Sys2Proof/Machine/Dispatch.lean ====
section
/-!
DEFINITION. Machine/Dispatch.lean: one arm per row of the opcode table, each one call of its meaning.
-/

namespace Sys2Proof.Machine

/-- The meaning of every instruction and event. -/
def exec (i : Instr) (s : State) : Host.Outcome State Fault Refusal :=
  match i with
  | .add d a b => Sys2Proof.Machine.execAdd d a b s
  | .sub d a b => Sys2Proof.Machine.execSub d a b s
  | .and d a b => Sys2Proof.Machine.execAnd d a b s
  | .or d a b => Sys2Proof.Machine.execOr d a b s
  | .xor d a b => Sys2Proof.Machine.execXor d a b s
  | .sll d a b => Sys2Proof.Machine.execSll d a b s
  | .srl d a b => Sys2Proof.Machine.execSrl d a b s
  | .sra d a b => Sys2Proof.Machine.execSra d a b s
  | .slt d a b => Sys2Proof.Machine.execSlt d a b s
  | .sltu d a b => Sys2Proof.Machine.execSltu d a b s
  | .min d a b => Sys2Proof.Machine.execMin d a b s
  | .max d a b => Sys2Proof.Machine.execMax d a b s
  | .minu d a b => Sys2Proof.Machine.execMinu d a b s
  | .maxu d a b => Sys2Proof.Machine.execMaxu d a b s
  | .mul d a b => Sys2Proof.Machine.execMul d a b s
  | .mulh d a b => Sys2Proof.Machine.execMulh d a b s
  | .mulhu d a b => Sys2Proof.Machine.execMulhu d a b s
  | .div d a b => Sys2Proof.Machine.execDiv d a b s
  | .divu d a b => Sys2Proof.Machine.execDivu d a b s
  | .rem d a b => Sys2Proof.Machine.execRem d a b s
  | .remu d a b => Sys2Proof.Machine.execRemu d a b s
  | .bitClz d a => Sys2Proof.Machine.execBitClz d a s
  | .bitCtz d a => Sys2Proof.Machine.execBitCtz d a s
  | .bitPopc d a => Sys2Proof.Machine.execBitPopc d a s
  | .bitBrev d a => Sys2Proof.Machine.execBitBrev d a s
  | .addi d a im => Sys2Proof.Machine.execAddi d a im s
  | .andi d a im => Sys2Proof.Machine.execAndi d a im s
  | .ori d a im => Sys2Proof.Machine.execOri d a im s
  | .xori d a im => Sys2Proof.Machine.execXori d a im s
  | .slli d a im => Sys2Proof.Machine.execSlli d a im s
  | .srli d a im => Sys2Proof.Machine.execSrli d a im s
  | .srai d a im => Sys2Proof.Machine.execSrai d a im s
  | .slti d a im => Sys2Proof.Machine.execSlti d a im s
  | .sltiu d a im => Sys2Proof.Machine.execSltiu d a im s
  | .lui d im => Sys2Proof.Machine.execLui d im s
  | .auipc d im => Sys2Proof.Machine.execAuipc d im s
  | .shor d im => Sys2Proof.Machine.execShor d im s
  | .fadd d a b => Sys2Proof.Machine.execFadd d a b s
  | .fsub d a b => Sys2Proof.Machine.execFsub d a b s
  | .fmul d a b => Sys2Proof.Machine.execFmul d a b s
  | .fdiv d a b => Sys2Proof.Machine.execFdiv d a b s
  | .fma d a b => Sys2Proof.Machine.execFma d a b s
  | .fsqrt d a => Sys2Proof.Machine.execFsqrt d a s
  | .fmin d a b => Sys2Proof.Machine.execFmin d a b s
  | .fmax d a b => Sys2Proof.Machine.execFmax d a b s
  | .fcmpEq d a b => Sys2Proof.Machine.execFcmpEq d a b s
  | .fcmpLt d a b => Sys2Proof.Machine.execFcmpLt d a b s
  | .fcmpLe d a b => Sys2Proof.Machine.execFcmpLe d a b s
  | .fcvtI64f d a => Sys2Proof.Machine.execFcvtI64f d a s
  | .fcvtFi64 d a => Sys2Proof.Machine.execFcvtFi64 d a s
  | .fcvtF16f d a => Sys2Proof.Machine.execFcvtF16f d a s
  | .fcvtFf16 d a => Sys2Proof.Machine.execFcvtFf16 d a s
  | .fcvtB16f d a => Sys2Proof.Machine.execFcvtB16f d a s
  | .fcvtFb16 d a => Sys2Proof.Machine.execFcvtFb16 d a s
  | .fcvtS20f d a => Sys2Proof.Machine.execFcvtS20f d a s
  | .fcvtFs20 d a => Sys2Proof.Machine.execFcvtFs20 d a s
  | .lb d a im => Sys2Proof.Machine.execLb d a im s
  | .lbu d a im => Sys2Proof.Machine.execLbu d a im s
  | .lh d a im => Sys2Proof.Machine.execLh d a im s
  | .lhu d a im => Sys2Proof.Machine.execLhu d a im s
  | .lw d a im => Sys2Proof.Machine.execLw d a im s
  | .lwu d a im => Sys2Proof.Machine.execLwu d a im s
  | .ld d a im => Sys2Proof.Machine.execLd d a im s
  | .sb d a im => Sys2Proof.Machine.execSb d a im s
  | .sh d a im => Sys2Proof.Machine.execSh d a im s
  | .sw d a im => Sys2Proof.Machine.execSw d a im s
  | .sd d a im => Sys2Proof.Machine.execSd d a im s
  | .pref h a im => Sys2Proof.Machine.execPref h a im s
  | .cboWb a => Sys2Proof.Machine.execCboWb a s
  | .cboWbinv a => Sys2Proof.Machine.execCboWbinv a s
  | .cboInv a => Sys2Proof.Machine.execCboInv a s
  | .fld x n sf => Sys2Proof.Machine.execFld x n sf s
  | .fst x n sf => Sys2Proof.Machine.execFst x n sf s
  | .fadr x n sf => Sys2Proof.Machine.execFadr x n sf s
  | .facc x n sf f => Sys2Proof.Machine.execFacc x n sf f s
  | .fenter d a p sf => Sys2Proof.Machine.execFenter d a p sf s
  | .fleave => Sys2Proof.Machine.execFleave s
  | .dspr d n => Sys2Proof.Machine.execDspr d n s
  | .ffold a b f => Sys2Proof.Machine.execFfold a b f s
  | .fpol p => Sys2Proof.Machine.execFpol p s
  | .beq a b o => Sys2Proof.Machine.execBeq a b o s
  | .bne a b o => Sys2Proof.Machine.execBne a b o s
  | .blt a b o => Sys2Proof.Machine.execBlt a b o s
  | .bge a b o => Sys2Proof.Machine.execBge a b o s
  | .bltu a b o => Sys2Proof.Machine.execBltu a b o s
  | .bgeu a b o => Sys2Proof.Machine.execBgeu a b o s
  | .jal d im => Sys2Proof.Machine.execJal d im s
  | .jalr d a im => Sys2Proof.Machine.execJalr d a im s
  | .loop n a l => Sys2Proof.Machine.execLoop n a l s
  | .loopt n m l => Sys2Proof.Machine.execLoopt n m l s
  | .loops n a sf l => Sys2Proof.Machine.execLoops n a sf l s
  | .lbrk n => Sys2Proof.Machine.execLbrk n s
  | .bmz o => Sys2Proof.Machine.execBmz o s
  | .bmnz o => Sys2Proof.Machine.execBmnz o s
  | .gate g => Sys2Proof.Machine.execGate g s
  | .gret => Sys2Proof.Machine.execGret s
  | .fork a b o => Sys2Proof.Machine.execFork a b o s
  | .join => Sys2Proof.Machine.execJoin s
  | .endStrand => Sys2Proof.Machine.execEnd s
  | .bst sf n o => Sys2Proof.Machine.execBst sf n o s
  | .acq a sf => Sys2Proof.Machine.execAcq a sf s
  | .rel a sf => Sys2Proof.Machine.execRel a sf s
  | .fenceRange a b => Sys2Proof.Machine.execFenceRange a b s
  | .fenceRemote => Sys2Proof.Machine.execFenceRemote s
  | .fenceAll => Sys2Proof.Machine.execFenceAll s
  | .svld d a l c sf => Sys2Proof.Machine.execSvld d a l c sf s
  | .svst a b l c sf => Sys2Proof.Machine.execSvst a b l c sf s
  | .svadd d a b u l c sf => Sys2Proof.Machine.execSvadd d a b u l c sf s
  | .svmax d a b u l c sf => Sys2Proof.Machine.execSvmax d a b u l c sf s
  | .svmin d a b u l c sf => Sys2Proof.Machine.execSvmin d a b u l c sf s
  | .svand d a b l c sf => Sys2Proof.Machine.execSvand d a b l c sf s
  | .svor d a b l c sf => Sys2Proof.Machine.execSvor d a b l c sf s
  | .svswap d a b l c sf => Sys2Proof.Machine.execSvswap d a b l c sf s
  | .svcas d a b l c sf => Sys2Proof.Machine.execSvcas d a b l c sf s
  | .svwait d a b u l c sf => Sys2Proof.Machine.execSvwait d a b u l c sf s
  | .svlock a sf => Sys2Proof.Machine.execSvlock a sf s
  | .svunlock a sf => Sys2Proof.Machine.execSvunlock a sf s
  | .barCluster => Sys2Proof.Machine.execBarCluster s
  | .barDie => Sys2Proof.Machine.execBarDie s
  | .barLaunch => Sys2Proof.Machine.execBarLaunch s
  | .sstep => Sys2Proof.Machine.execSstep s
  | .trig => Sys2Proof.Machine.execTrig s
  | .launch d a => Sys2Proof.Machine.execLaunch d a s
  | .lidx d m => Sys2Proof.Machine.execLidx d m s
  | .inboxWait d v => Sys2Proof.Machine.execInboxWait d v s
  | .inboxPoll d v => Sys2Proof.Machine.execInboxPoll d v s
  | .csrr d c => Sys2Proof.Machine.execCsrr d c s
  | .csrw d a c => Sys2Proof.Machine.execCsrw d a c s
  | .csrs d a c => Sys2Proof.Machine.execCsrs d a c s
  | .csrc d a c => Sys2Proof.Machine.execCsrc d a c s
  | .tret => Sys2Proof.Machine.execTret s
  | .bkpt => Sys2Proof.Machine.execBkpt s
  | .nprb => Sys2Proof.Machine.execNprb s
  | .npre => Sys2Proof.Machine.execNpre s
  | .setm im => Sys2Proof.Machine.execSetm im s
  | .contain a => Sys2Proof.Machine.execContain a s
  | .wfi => Sys2Proof.Machine.execWfi s
  | .vadd d a b x => Sys2Proof.Machine.execVadd d a b x s
  | .vsub d a b x => Sys2Proof.Machine.execVsub d a b x s
  | .vmul d a b x => Sys2Proof.Machine.execVmul d a b x s
  | .vfma d a b x => Sys2Proof.Machine.execVfma d a b x s
  | .vfms d a b x => Sys2Proof.Machine.execVfms d a b x s
  | .vfnma d a b x => Sys2Proof.Machine.execVfnma d a b x s
  | .vmin d a b x => Sys2Proof.Machine.execVmin d a b x s
  | .vmax d a b x => Sys2Proof.Machine.execVmax d a b x s
  | .vabs d a => Sys2Proof.Machine.execVabs d a s
  | .vneg d a => Sys2Proof.Machine.execVneg d a s
  | .vdiv d a b x => Sys2Proof.Machine.execVdiv d a b x s
  | .vsqrt d a => Sys2Proof.Machine.execVsqrt d a s
  | .vrcp d a => Sys2Proof.Machine.execVrcp d a s
  | .vrsq d a => Sys2Proof.Machine.execVrsq d a s
  | .vexp2 d a => Sys2Proof.Machine.execVexp2 d a s
  | .vlog2 d a => Sys2Proof.Machine.execVlog2 d a s
  | .vand d a b x => Sys2Proof.Machine.execVand d a b x s
  | .vor d a b x => Sys2Proof.Machine.execVor d a b x s
  | .vxor d a b x => Sys2Proof.Machine.execVxor d a b x s
  | .vsll d a b x => Sys2Proof.Machine.execVsll d a b x s
  | .vsrl d a b x => Sys2Proof.Machine.execVsrl d a b x s
  | .vsra d a b x => Sys2Proof.Machine.execVsra d a b x s
  | .vcmp d a b x c => Sys2Proof.Machine.execVcmp d a b x c s
  | .vsel d a b x k => Sys2Proof.Machine.execVsel d a b x k s
  | .vmov d a => Sys2Proof.Machine.execVmov d a s
  | .vbc d a => Sys2Proof.Machine.execVbc d a s
  | .viota d => Sys2Proof.Machine.execViota d s
  | .vmulh d a b x => Sys2Proof.Machine.execVmulh d a b x s
  | .vclamp d a b x => Sys2Proof.Machine.execVclamp d a b x s
  | .vld d a im => Sys2Proof.Machine.execVld d a im s
  | .vlds d a b => Sys2Proof.Machine.execVlds d a b s
  | .vldg d a b n => Sys2Proof.Machine.execVldg d a b n s
  | .vldmx d a b => Sys2Proof.Machine.execVldmx d a b s
  | .vst d a im => Sys2Proof.Machine.execVst d a im s
  | .vsts d a b => Sys2Proof.Machine.execVsts d a b s
  | .vstg d a b n => Sys2Proof.Machine.execVstg d a b n s
  | .vcvt d a p sf => Sys2Proof.Machine.execVcvt d a p sf s
  | .vcvtn d a h f => Sys2Proof.Machine.execVcvtn d a h f s
  | .ldcb a b => Sys2Proof.Machine.execLdcb a b s
  | .vperm d a b x => Sys2Proof.Machine.execVperm d a b x s
  | .vslideUp d a b => Sys2Proof.Machine.execVslideUp d a b s
  | .vslideDn d a b => Sys2Proof.Machine.execVslideDn d a b s
  | .vzip d a b h => Sys2Proof.Machine.execVzip d a b h s
  | .vunzip d a b h => Sys2Proof.Machine.execVunzip d a b h s
  | .vredadd d a => Sys2Proof.Machine.execVredadd d a s
  | .vredmax d a => Sys2Proof.Machine.execVredmax d a s
  | .vredmin d a => Sys2Proof.Machine.execVredmin d a s
  | .vmvx d a b => Sys2Proof.Machine.execVmvx d a b s
  | .vins d a b => Sys2Proof.Machine.execVins d a b s
  | .mpush a => Sys2Proof.Machine.execMpush a s
  | .minv => Sys2Proof.Machine.execMinv s
  | .mpop => Sys2Proof.Machine.execMpop s
  | .mstg sf n => Sys2Proof.Machine.execMstg sf n s
  | .kmovKx d a => Sys2Proof.Machine.execKmovKx d a s
  | .kmovXk d a => Sys2Proof.Machine.execKmovXk d a s
  | .kmovKt d => Sys2Proof.Machine.execKmovKt d s
  | .kopAnd d a b => Sys2Proof.Machine.execKopAnd d a b s
  | .kopOr d a b => Sys2Proof.Machine.execKopOr d a b s
  | .kopXor d a b => Sys2Proof.Machine.execKopXor d a b s
  | .kopAndn d a b => Sys2Proof.Machine.execKopAndn d a b s
  | .vsclSet d a j => Sys2Proof.Machine.execVsclSet d a j s
  | .vsclSeta d a => Sys2Proof.Machine.execVsclSeta d a s
  | .vsclGet d a j => Sys2Proof.Machine.execVsclGet d a j s
  | .mrow t x v q k r => Sys2Proof.Machine.execMrow t x v q k r s
  | .mrowp t x v q k r => Sys2Proof.Machine.execMrowp t x v q k r s
  | .mrowz t x v q k r => Sys2Proof.Machine.execMrowz t x v q k r s
  | .mrowzp t x v q k r => Sys2Proof.Machine.execMrowzp t x v q k r s
  | .tzero t => Sys2Proof.Machine.execTzero t s
  | .tload t x v k => Sys2Proof.Machine.execTload t x v k s
  | .tstore t x v k => Sys2Proof.Machine.execTstore t x v k s
  | .tmovv t x v => Sys2Proof.Machine.execTmovv t x v s
  | .tvmov t x v => Sys2Proof.Machine.execTvmov t x v s
  | .tstat t x => Sys2Proof.Machine.execTstat t x s
  | .trcfg x v q => Sys2Proof.Machine.execTrcfg x v q s
  | .trpop q => Sys2Proof.Machine.execTrpop q s
  | .trstat x q => Sys2Proof.Machine.execTrstat x q s
  | .fbegin k => Sys2Proof.Machine.execFbegin k s
  | .fcol x => Sys2Proof.Machine.execFcol x s
  | .fcoln x g => Sys2Proof.Machine.execFcoln x g s
  | .ngjoin x g => Sys2Proof.Machine.execNgjoin x g s
  | .ngleave g => Sys2Proof.Machine.execNgleave g s
  | .fend => Sys2Proof.Machine.execFend s
  | .fmaprd t x => Sys2Proof.Machine.execFmaprd t x s
  | .rdph x => Sys2Proof.Machine.execRdph x s
  | .rdgf x => Sys2Proof.Machine.execRdgf x s
  | .tperm t => Sys2Proof.Machine.execTperm t s
  | .cpy a b sf => Sys2Proof.Machine.execCpy a b sf s
  | .cpyq a b sf => Sys2Proof.Machine.execCpyq a b sf s
  | .engstCnt d => Sys2Proof.Machine.execEngstCnt d s
  | .engstFva d => Sys2Proof.Machine.execEngstFva d s
  | .xsend a b => Sys2Proof.Machine.execXsend a b s
  | .xsel d a => Sys2Proof.Machine.execXsel d a s
  | .xend => Sys2Proof.Machine.execXend s
  | .joinWake => Sys2Proof.Machine.execJoinWake s
  | .svwaitWake key => Sys2Proof.Machine.execSvwaitWake key s
  | .barrierComplete lid form => Sys2Proof.Machine.execBarrierComplete lid form s
  | .inboxWake => Sys2Proof.Machine.execInboxWake s
  | .wfiWake => Sys2Proof.Machine.execWfiWake s
  | .earlyLoadDeferred => Sys2Proof.Machine.execEarlyLoadDeferred s
  | .matrixCommit => Sys2Proof.Machine.execMatrixCommit s
  | .negotiationRound c g => Sys2Proof.Machine.execNegotiationRound c g s
  | .storeBufferLeave => Sys2Proof.Machine.execStoreBufferLeave s
  | .remoteReply => Sys2Proof.Machine.execRemoteReply s
  | .lateRefusal => Sys2Proof.Machine.execLateRefusal s
  | .queuedTrap => Sys2Proof.Machine.execQueuedTrap s
  | .interruptTake => Sys2Proof.Machine.execInterruptTake s
  | .timeCompare => Sys2Proof.Machine.execTimeCompare s
  | .killUnwind => Sys2Proof.Machine.execKillUnwind s
  | .steal => Sys2Proof.Machine.execSteal s
  | .pageWalk va acc => Sys2Proof.Machine.execPageWalk va acc s
  | .pageService vf va answer => Sys2Proof.Machine.execPageService vf va answer s
  | .copyOnWrite vf va frame => Sys2Proof.Machine.execCopyOnWrite vf va frame s
  | .tlbInvalidation vf => Sys2Proof.Machine.execTlbInvalidation vf s
  | .copyCommandRun c => Sys2Proof.Machine.execCopyCommandRun c s
  | .cpyqReserve c q => Sys2Proof.Machine.execCpyqReserve c q s
  | .copyComplete c => Sys2Proof.Machine.execCopyComplete c s
  | .exchangeArrival => Sys2Proof.Machine.execExchangeArrival s
  | .doorbell vf p value => Sys2Proof.Machine.execDoorbell vf p value s
  | .qovfClear vf value => Sys2Proof.Machine.execQovfClear vf value s
  | .headCheck vf p => Sys2Proof.Machine.execHeadCheck vf p s
  | .dependenceTest fold => Sys2Proof.Machine.execDependenceTest fold s
  | .chooseLaunch fold => Sys2Proof.Machine.execChooseLaunch fold s
  | .clusterTakeLaunch c lid => Sys2Proof.Machine.execClusterTakeLaunch c lid s
  | .strandStart p => Sys2Proof.Machine.execStrandStart p s
  | .counterReport lid node => Sys2Proof.Machine.execCounterReport lid node s
  | .sliceEnd fold => Sys2Proof.Machine.execSliceEnd fold s
  | .gangSwitchOut fold => Sys2Proof.Machine.execGangSwitchOut fold s
  | .gangSwitchIn fold vf tagsOk => Sys2Proof.Machine.execGangSwitchIn fold vf tagsOk s
  | .nprOverrun => Sys2Proof.Machine.execNprOverrun s
  | .packetHop im => Sys2Proof.Machine.execPacketHop im s
  | .packetDeliver im => Sys2Proof.Machine.execPacketDeliver im s
  | .uncorrectableError place keys => Sys2Proof.Machine.execUncorrectableError place keys s
  | .powerOn => Sys2Proof.Machine.execPowerOn s
  | .moduleWarmReset => Sys2Proof.Machine.execModuleWarmReset s
  | .mbstatDoneClear => Sys2Proof.Machine.execMbstatDoneClear s
  | .foldnew fr body => Sys2Proof.Machine.execFoldnew fr body s
  | .folddel fr fold => Sys2Proof.Machine.execFolddel fr fold s
  | .foldreset fr fold => Sys2Proof.Machine.execFoldreset fr fold s
  | .foldsetFoldmode fr fold mode => Sys2Proof.Machine.execFoldsetFoldmode fr fold mode s
  | .foldsetPolicy fr fold policy => Sys2Proof.Machine.execFoldsetPolicy fr fold policy s
  | .foldsetCodeKey fr fold key => Sys2Proof.Machine.execFoldsetCodeKey fr fold key s
  | .foldsetWatchdogTimes fr fold times => Sys2Proof.Machine.execFoldsetWatchdogTimes fr fold times s
  | .vfset fr body => Sys2Proof.Machine.execVfset fr body s
  | .vfdel fr vf => Sys2Proof.Machine.execVfdel fr vf s
  | .rct fr fold table => Sys2Proof.Machine.execRct fr fold table s
  | .handleExport fr body => Sys2Proof.Machine.execHandleExport fr body s
  | .handleInstall fr body => Sys2Proof.Machine.execHandleInstall fr body s
  | .handleRevoke fr body => Sys2Proof.Machine.execHandleRevoke fr body s
  | .snapshot fr vf => Sys2Proof.Machine.execSnapshot fr vf s
  | .migrate fr vf destFold delta endpoint destOk => Sys2Proof.Machine.execMigrate fr vf destFold delta endpoint destOk s
  | .stage fr image => Sys2Proof.Machine.execStage fr image s
  | .droverSwap => Sys2Proof.Machine.execDroverSwap s
  | .commit fr kind => Sys2Proof.Machine.execCommit fr kind s
  | .identity fr => Sys2Proof.Machine.execIdentity fr s
  | .quote fr nonce => Sys2Proof.Machine.execQuote fr nonce s
  | .telemetry fr first => Sys2Proof.Machine.execTelemetry fr first s
  | .raslog fr first => Sys2Proof.Machine.execRaslog fr first s
  | .load fr vf plan => Sys2Proof.Machine.execLoadFile fr vf plan s
  | .keyadd fr keyid key => Sys2Proof.Machine.execKeyadd fr keyid key s
  | .keydel fr keyid => Sys2Proof.Machine.execKeydel fr keyid s
  | .pgdone fold vf va answer => Sys2Proof.Machine.execPgdone fold vf va answer s
  | .cowdone fold vf va => Sys2Proof.Machine.execCowdone fold vf va s
  | .nextvf fold vf => Sys2Proof.Machine.execNextvf fold vf s
  | .start fold lid => Sys2Proof.Machine.execStart fold lid s
  | .refuse fold lid status => Sys2Proof.Machine.execRefuse fold lid status s
  | .placego fold lid die wave => Sys2Proof.Machine.execPlacego fold lid die wave s
  | .containact fold lid policy => Sys2Proof.Machine.execContainact fold lid policy s
  | .d2hheadWrite fold value => Sys2Proof.Machine.execD2hheadWrite fold value s
  | .drvbeatWrite die value => Sys2Proof.Machine.execDrvbeatWrite die value s
  | .watchdogStage fold => Sys2Proof.Machine.execWatchdogStage fold s
  | .registerWrite r value => Sys2Proof.Machine.execRegisterWrite r value s
  | .unitIssue u => Sys2Proof.Machine.execUnitIssue u s
  | .illegalInstruction w => Sys2Proof.Machine.execIllegalInstruction w s
  | .droverMessage p value => Sys2Proof.Machine.execDroverMessage p value s
  | .exchangeSend => Sys2Proof.Machine.execExchangeSend s
  | .softError key => Sys2Proof.Machine.execSoftError key s
  | .parityError line => Sys2Proof.Machine.execParityError line s
  | .prefFill => Sys2Proof.Machine.execPrefFill s
  | .hostAccess fold pa op => Sys2Proof.Machine.execHostAccess fold pa op s
  | .unknownCode fr => Sys2Proof.Machine.execUnknownCode fr s

end Sys2Proof.Machine
end

