-- ==== Sys2Proof/Machine/Step.lean ====
section
/-!
DEFINITION. Machine/Step.lean: one step of the machine, and the placing of one word where the next step fetches.
-/

namespace Sys2Proof.Machine

/-- One step (log 2): an act of the outside that is due, else what the machine does of itself; a strand that issues runs the
instruction that its PC names. -/
def runPlan (p : Plan) : Host.Outcome State Fault Refusal :=
  match p with
  | .done s => clock (.next s)
  | .input i s => clock (exec i s)
  | .issue s =>
    match fetchNext s with
    | .run i s1 => issued (startOf s1) (exec i s1)
    | .illegal w s1 => issued (startOf s1) (execIllegalInstruction w s1)
    | .done r => issued none r

/-- One step of the machine. An act of the outside that is not due waits, and the machine goes on without it. -/
def step (s : State) : Host.Outcome State Fault Refusal :=
  match runPlan (plan s) with
  | .next t => .next t
  | _ => runPlan (inner s)

/-- The place of a placed word in a fold's memory and in a VF's address space (log 23). -/
def fetchPa : Nat := 0x10000

/-- A full part (R22, R23). -/
def fullRecord : ConfigRecord := { serial := 0, dieoff := 0, chanoff := [], clusteroff := [], coreoff := [] }

/-- A fold of die 0 with 1 GiB of interleaved memory (R119). -/
def fetchFold (now : Nat) : Fold :=
  { newFold now Config.saveMaxUs ⟨0, 0, 0, [0], ⟨0, 0x40000000, 0, 0, 0, 0, []⟩, none⟩ with running := some 0, lastServed := some 0 }

/-- The root table of the VF of a placed word. -/
def fetchRoot : Nat := 0x30000000

/-- A VF whose queues are all disabled (R79). -/
def fetchVf : Vf := newVf ⟨0, 0, 1, 1000, 0, fetchRoot⟩ 1000

/-- The leaf of the 64 MiB page of a placed word: V, R, W, X, U, A, D, PLACE 1, PFN 0, SIZE 1 (R117). -/
def fetchPte : Word := BitVec.ofNat 64 (0x7F + 2 ^ 17 + 2 ^ 62)

/-- The instruction word w, stored where step fetches next: the core in focus holds a strand of a VF that runs, its PC names the page
of the word, and nothing else is due (log 23). -/
def State.withFetchWord (s : State) (nbits w : Nat) : State :=
  let c := s.core
  let key := homeKey 0 fetchPa
  let t := (timeOf s).toNat
  { s with
    core := { c with
      occ := .strand
      fold := 0
      vf := 0
      holds := some c.lid
      regs := { c.regs with pc := BitVec.ofNat 64 fetchPa }
      trap := { c.trap with ie := false }
      q := Queues.reset
      sync := SyncRegs.reset
      icache := []
      prefs := [] }
    others := []
    clusters := []
    dies := [{ Die.reset 0 with fold := some 0, beatAt := t }]
    folds := [fetchFold t]
    vfs := [fetchVf]
    launches := []
    mem := Memory.setLe s.mem key 4 (w % 2 ^ nbits)
    poison := s.poison.filter (fun k => k / 64 != key / 64)
    words := s.words.filter (fun x => x.key / 64 != key / 64)
    lines := []
    tlb := [⟨.core c.pos, 0, 0, 26, fetchPte, fetchRoot⟩]
    pageReqs := []
    parked := []
    svTests := []
    packets := []
    svc := { s.svc with config := some fullRecord, job := none, submitted := none, drvQueue := [] }
    inputs := [] }

end Sys2Proof.Machine
end

