-- ==== Sys2Proof/Safety.lean ====
section
/-!
DEFINITION. Safety.lean: what claims say about runs and about single instructions: a run that goes on, the canonical form of memory,
a strand that nothing older holds up, and what an instruction leaves as it was.
-/

namespace Sys2Proof

open Sys2Proof.Machine

/-! ## Runs -/

/-- A step goes on: it answers a next state. -/
def GoesOn (s : State) : Prop := ∃ t, step s = .next t

/-- A run of k steps goes on. -/
def SafeRun : Nat → State → Prop
  | 0, _ => True
  | k + 1, s => ∃ t, step s = .next t ∧ SafeRun k t

/-- Memory has its canonical form. -/
def MemoryCanonical (s : State) : Prop := Memory.wf s.mem = true

/-! ## A strand that nothing holds up -/

/-- Nothing older is outstanding in the core in focus: no queued instruction, no undo entry, no store-buffer entry and no remote
request (R161 to R166, R293). -/
def Quiet (s : State) : Prop :=
  s.core.q.queue = [] ∧ s.core.q.undo = [] ∧ s.core.q.sb = [] ∧ s.core.q.remote = []

/-- No loop level ends at the PC of the core in focus (R187). -/
def NoLoopEnd (s : State) : Prop :=
  ∀ n, n < 6 → ¬((loopAt s n).act = true ∧ (loopAt s n).stop = s.core.regs.pc ∧ (loopAt s n).lvl = s.core.regs.level)

/-- The strand in focus is quiet, and its next instruction ends no loop body. -/
def Ready (s : State) : Prop := Quiet s ∧ NoLoopEnd s

/-- A handler is installed and traps are not inhibited (R156). -/
def HandlerReady (s : State) : Prop := s.core.trap.tvec >>> 2 ≠ 0 ∧ s.core.trap.inh = false

/-! ## A queued instruction -/

/-- The strand can enqueue an instruction and the queue keeps nothing back: the strand is ready, the model's pace is 0 (log 9), the
mode word allows the instruction (R138), no check of R252 fails, and no load that has issued still has A to set (R297). -/
def ReadyQ (i : Instr) (s : State) : Prop :=
  Ready s ∧ s.pace.queue = 0 ∧ modeOk s.core.regs.mode i = true ∧ enqueueSub s i = none ∧ s.core.q.uses = []

/-- The state in which an instruction that is no early load has its turn: it is the only queued one, the counts of R252 have moved,
LANEDONE is taken (R287), and the strand is at the next word. -/
def appended (s : State) (i : Instr) : State :=
  let q := s.core.q
  { s with core := { s.core with
    regs := { s.core.regs with
      pc := s.core.regs.pc + 4
      lanedone := if isLaneAddressed i then 0 else s.core.regs.lanedone }
    q := { q with queue := [capture s i], qnext := q.qnext + 1, u := uAfter q.u i, p := pAfter q.p i } } }

/-- The turn of an instruction has left the queue, and nothing that waits. -/
def KeptQueues (e : QEntry) (u : State) : Prop :=
  u.core.q.queue = [e] ∧ u.core.q.undo = [] ∧ u.core.q.sb = [] ∧ u.core.q.remote = [] ∧ u.core.q.uses = []

/-! ## What an instruction leaves -/

/-- x(d) takes v, unless d is x0, and every other x register stands (R171). -/
def WroteX (s t : State) (d : Reg) (v : Word) : Prop := (d ≠ 0 → xr t d = v) ∧ ∀ r, r ≠ d → xr t r = xr s r

/-- The PC moves to the next word, and INSTRET counts one (R132, R153). -/
def Advances (s t : State) : Prop :=
  t.core.regs.pc = s.core.regs.pc + 4 ∧ t.core.regs.instret = s.core.regs.instret + 1

/-- Nothing changes but the x registers, the PC, INSTRET and RCNT of the core in focus. -/
def OnlyX (s t : State) : Prop :=
  t = { s with core := { s.core with
    regs := { s.core.regs with x := t.core.regs.x, pc := t.core.regs.pc, instret := t.core.regs.instret }
    sync := { s.core.sync with rcnt := t.core.sync.rcnt } } }

/-- Nothing changes but the PC, INSTRET and RCNT of the core in focus. -/
def OnlyPc (s t : State) : Prop :=
  t = { s with core := { s.core with
    regs := { s.core.regs with pc := t.core.regs.pc, instret := t.core.regs.instret }
    sync := { s.core.sync with rcnt := t.core.sync.rcnt } } }

/-- Nothing changes but the x registers, FFLAGS, SRSEED, the PC, INSTRET and RCNT of the core in focus. -/
def OnlyF (s t : State) : Prop :=
  t = { s with core := { s.core with
    regs := { s.core.regs with
      x := t.core.regs.x
      fflags := t.core.regs.fflags
      srseed := t.core.regs.srseed
      pc := t.core.regs.pc
      instret := t.core.regs.instret }
    sync := { s.core.sync with rcnt := t.core.sync.rcnt } } }

/-- The instruction completes with v in x(d), and nothing else changes but the PC, INSTRET and RCNT. -/
def Computes (i : Instr) (s : State) (d : Reg) (v : Word) : Prop :=
  ∃ t, exec i s = .next t ∧ WroteX s t d v ∧ Advances s t ∧ OnlyX s t

/-- The instruction completes with the PC at a target, and nothing else changes but INSTRET and RCNT. -/
def GoesTo (i : Instr) (s : State) (pc : Word) : Prop :=
  ∃ t, exec i s = .next t ∧ t.core.regs.pc = pc ∧ t.core.regs.instret = s.core.regs.instret + 1 ∧ OnlyPc s t

/-- The instruction takes a trap of a cause and a TVAL at its own PC (R156), and nothing else of it happens. -/
def TrapsWith (i : Instr) (s : State) (code : Nat) (v : Word) : Prop :=
  exec i s = .next (settle (trapEntry s code false v s.core.regs.pc))

/-! ## Scalar FP32 -/

/-- The random bits of a scalar instruction that rounds: a draw under SR (R181). -/
def scalarBits (s : State) : Nat := if mSr s.core.regs.mode then drawBits (xorshift s.core.regs.srseed) else 0

/-- SRSEED after a scalar instruction that rounds (R181). -/
def scalarSeed (s : State) : Word := if mSr s.core.regs.mode then xorshift s.core.regs.srseed else s.core.regs.srseed

/-- The FP32 operand of a register (R177). -/
def single (s : State) (r : Reg) : Nat := (xr s r).toNat % 2 ^ 32

/-- A value and its flags rounded to a format under a mode word, NV rising for a signalling operand (R177, R228, R257). -/
def rounded (f : Fmt) (m : BitVec 18) (rnd : Nat) (v : Ex × Flags) (snan : Bool) : Nat × Flags :=
  let q := roundTo f (mRm m) (mSat m) rnd v.1
  (q.1, q.2 ||| v.2 ||| flagIf snan flagNV)

/-- The instruction completes with r in x(d), r's flags raised and a value in SRSEED; nothing else changes but the PC, INSTRET and
RCNT. -/
def ComputesF (i : Instr) (s : State) (d : Reg) (r : Nat × Flags) (seed : Word) : Prop :=
  ∃ t, exec i s = .next t ∧ WroteX s t d (BitVec.ofNat 64 r.1) ∧ Advances s t ∧ OnlyF s t ∧
    t.core.regs.fflags = s.core.regs.fflags ||| r.2 ∧ t.core.regs.srseed = seed

/-! ## What a queued instruction leaves -/

/-- The LDQ entries of a list that stay when an instruction completes that was enqueued at s: all but the one that it has read (R250). -/
def ldqAfter (s : State) (i : Instr) (l : List LdqEntry) : List LdqEntry :=
  if readsLdq i then l.filter fun e => e.kept || (nextLdq s).map (·.seq) != some e.seq else l

/-- The state at the end of a step that has enqueued an instruction and seen it complete, but for the instruction's own effect: the
strand is at the next word, INSTRET and the counts of R252 have moved, LANEDONE is taken (R287), and the LDQ entry that it read is
free (R250). -/
def passed (i : Instr) (s t : State) : State :=
  let q := s.core.q
  { s with
    pageReqs := t.pageReqs
    core := { s.core with
      regs := { s.core.regs with
        pc := s.core.regs.pc + 4
        instret := s.core.regs.instret + 1
        lanedone := if isLaneAddressed i then 0 else s.core.regs.lanedone }
      q := { q with
        qnext := q.qnext + 1
        u := uAfter q.u i
        p := pAfter q.p i
        ldq := ldqAfter s i q.ldq
        retry := none }
      sync := { s.core.sync with rcnt := t.core.sync.rcnt } } }

/-- The instruction completes, and leaves what f makes of the state that has passed it; nothing else changes. -/
def Yields (i : Instr) (s : State) (f : State → State) : Prop := ∃ t, exec i s = .next t ∧ t = f (passed i s t)

/-- The v destination before an instruction: a push starts from zero (R251). -/
def oldV (s : State) (d : Reg) : VWord := if d = 31 then 0 else s.core.vec.v.get d.toFin

/-- The v destination after an instruction: for v31 the newest SDQ entry (R251). -/
def newV (t : State) (d : Reg) : VWord :=
  if d = 31 then ((t.core.q.sdq.getLast?).map (·.data)).getD 0 else t.core.vec.v.get d.toFin

/-- A v destination takes a value: v(d) is written, or the SDQ takes an entry (R251). -/
def tookV (s : State) (seq : Nat) (d : Reg) (v : VWord) : State :=
  if d = 31 then setQ s { s.core.q with sdq := s.core.q.sdq ++ [⟨seq, v⟩] } else setV s d v

/-- Nothing changes but what every queued instruction changes, the v destination, FFLAGS and SRSEED. -/
def OnlyV (i : Instr) (s t : State) (d : Reg) : Prop :=
  let p := tookV (passed i s t) s.core.q.qnext d (newV t d)
  t = setRegs p { p.core.regs with fflags := t.core.regs.fflags, srseed := t.core.regs.srseed }

/-- Active lanes of w bits take f, reduced to w bits, and inactive ones keep their value (R248, R251). -/
def LanesAre (s t : State) (d : Reg) (w : Nat) (act : Word) (f : Nat → Nat) : Prop :=
  ∀ j, j < laneCount w → lane (newV t d) w j = if act.getLsbD j then f j % 2 ^ w else lane (oldV s d) w j

/-- The flags of the active lanes below n are raised, and no others (R235). -/
def RaisedBy (s t : State) (act : Word) (n : Nat) (f : Nat → Flags) : Prop :=
  ∀ b, t.core.regs.fflags.getLsbD b = true ↔
    s.core.regs.fflags.getLsbD b = true ∨ ∃ j, j < n ∧ act.getLsbD j = true ∧ (f j).getLsbD b = true

/-- The draws of a queued instruction at its turn: SRSEED after them, and the random bits of each (R233). -/
def drawn (i : Instr) (s : State) (n : Nat) : Word × List Nat :=
  if drawsUnder s.core.regs.mode i then draws n s.core.regs.srseed else (s.core.regs.srseed, [])

/-- The active lanes of an instruction that honours GUARD (R248). -/
def activeNow (s : State) : Word := activeMask s.core.regs.mode s.core.vec.masks

/-- The instruction completes and computes every active lane of w bits of v(d) from its index and its random bits; the flags of those
lanes are raised, and nothing else changes (R257). -/
def Lanewise (i : Instr) (s : State) (d : Reg) (w : Nat) (f : Nat → Nat → Nat × Flags) : Prop :=
  ∃ t, exec i s = .next t ∧ OnlyV i s t d ∧ t.core.regs.srseed = (drawn i s (laneCount w)).1 ∧
    LanesAre s t d w (activeNow s) (fun j => (f j (laneOf (drawn i s (laneCount w)).2 j)).1) ∧
    RaisedBy s t (activeNow s) (laneCount w) fun j => (f j (laneOf (drawn i s (laneCount w)).2 j)).2

/-- Lane j of w bits of a v source; v30 is the oldest early load that no reader has been given (R250). -/
def laneA (s : State) (a : Reg) (w j : Nat) : Nat := lane (vNow s a) w j

/-- Lane j of a b operand: of v(b), or the low bits of x(b) (R255). -/
def laneB (s : State) (b : Reg) (x : BitVec 1) (w j : Nat) : Nat := if x = 1 then (xr s b).toNat % 2 ^ w else laneA s b w j

/-- The lane width under the MODE of the strand. -/
def widthNow (s : State) : Nat := laneBits s.core.regs.mode

/-- The TYPE under the MODE of the strand. -/
def typeNow (s : State) : Nat := mType s.core.regs.mode

/-- The instruction completes with v in x(d), r's flags raised and a value in SRSEED; nothing else changes but what every queued
instruction changes. -/
def YieldsX (i : Instr) (s : State) (d : Reg) (v : Word) (fl : Flags) (seed : Word) : Prop :=
  ∃ t, exec i s = .next t ∧ WroteX s t d v ∧
    t = { passed i s t with core := { (passed i s t).core with
      regs := { (passed i s t).core.regs with x := t.core.regs.x, fflags := s.core.regs.fflags ||| fl, srseed := seed } } }

/-- What is outstanding goes on after a turn, down to the pace (log 9). -/
def paced (u : State) : State :=
  let v := drainSb u.core.q.sb.length u u.pace.sb
  drainRemote v.core.q.remote.length v v.pace.remote

/-- The turn of the instruction has made u, and the instruction completes (R161). -/
def TurnMakes (i : Instr) (s u : State) : Prop := exec i s = .next (completeHead u (capture s i))

/-- The turn of the instruction has made u and traps at VCP (R156, R169); keep says that LANEDONE is kept as it stands there. -/
def TurnTraps (i : Instr) (s u : State) (t : Trap) (keep : Bool) : Prop := exec i s = .next (paced (trapHead u (capture s i) t keep))

/-- The turn of the instruction has not started, and it stays the oldest queued one. -/
def TurnWaits (i : Instr) (s u : State) : Prop := exec i s = .next (paced u)

/-! ## Control -/

/-- A word offset of the B and U formats (R135). -/
def wordsOn (s : State) (n : Int) : Word := s.core.regs.pc + BitVec.ofInt 64 (4 * n)

/-- The instruction writes PC + 4 to x(d) and goes to a target; nothing else changes but INSTRET and RCNT (R183). -/
def Links (i : Instr) (s : State) (d : Reg) (pc : Word) : Prop :=
  ∃ t, exec i s = .next t ∧ WroteX s t d (s.core.regs.pc + 4) ∧ t.core.regs.pc = pc ∧ t.core.regs.instret = s.core.regs.instret + 1 ∧ OnlyX s t

/-- Nothing changes but the x registers, the loop levels, the PC, INSTRET and RCNT of the core in focus. -/
def OnlyLoops (s t : State) : Prop :=
  t = { s with core := { s.core with
    regs := { s.core.regs with
      x := t.core.regs.x
      loops := t.core.regs.loops
      pc := t.core.regs.pc
      instret := t.core.regs.instret }
    sync := { s.core.sync with rcnt := t.core.sync.rcnt } } }

/-- The instruction completes with loop level n set to l, and no other level, register or place changed but the PC, which falls through
to the next word, INSTRET and RCNT (R186). -/
def SetsLoop (i : Instr) (s : State) (n : Nat) (l : LoopLevel) : Prop :=
  ∃ t, exec i s = .next t ∧ loopAt t n = l ∧ (∀ m, m ≠ n → loopAt t m = loopAt s m) ∧ (∀ r, xr t r = xr s r) ∧ Advances s t ∧ OnlyLoops s t

/-- The level that a loop setting of N passes over L words in S stages makes (R186). -/
def newLoop (s : State) (n stages : Nat) (bind : Option (BitVec 3)) (words : Nat) : LoopLevel :=
  { act := true, start := s.core.regs.pc + 4, stop := s.core.regs.pc + BitVec.ofNat 64 (4 * words),
    lc := BitVec.ofNat 64 (n + stages - 1), count := BitVec.ofNat 64 n, stages := stages, bind := bind,
    lvl := s.core.regs.level, stg := 1 }

/-- Does level n end at the PC of the strand (R187)? -/
def EndsAt (s : State) (n : Nat) : Prop :=
  (loopAt s n).act = true ∧ (loopAt s n).stop = s.core.regs.pc ∧ (loopAt s n).lvl = s.core.regs.level

/-- A level that has ended (R187, R188). -/
def endedLoop (l : LoopLevel) : LoopLevel := { l with act := false, lc := 0, stg := 0 }

/-- The strand has an entry m of the loop table with a KIND and a STEP (R41). -/
def HasEntry (s : State) (m : BitVec 3) (kind : Nat) (step : Int) : Prop :=
  ∃ l, myLaunch s = some l ∧ loopKind (recLoop l.record m.toNat) = kind ∧ loopStep (recLoop l.record m.toNat) = step

/-- Level n is active and bound to entry m (R186). -/
def BoundTo (s : State) (n : Nat) (m : BitVec 3) : Prop := (loopAt s n).act = true ∧ (loopAt s n).bind = some m

/-! ## Scalar accesses -/

/-- The instruction's own effect makes u, from which it falls through; then what is outstanding goes on, down to the pace (log 9). -/
def Goes (i : Instr) (s u : State) : Prop := exec i s = .next (settle (fallThrough u))

/-- A local-window address names n bytes from key k of the core's own TCM or of its cluster's scratchpad (R114 to R116). -/
def OwnBank (s : State) (va : Word) (k : Nat) : Prop :=
  isWindow va = true ∧ windowKey s s.core.pos s.core.fold va = some k ∧ isRemote s.core.pos k = false

/-- The instruction is a load of n bytes from va into x(d) (R277, R280, R293). Misaligned, it raises cause 4; from its own banks it
completes and changes nothing else, or raises cause 11 with the address of the first poisoned word that it reads; where translation faults it raises the fault's
cause with the address; elsewhere it completes with the value read there; and from another core's bank it becomes a request that
leaves x(d) pending. -/
def LoadsAs (i : Instr) (s : State) (d : Reg) (va : Word) (n : Nat) (signed : Bool) : Prop :=
  (va.toNat % n ≠ 0 → TrapsWith i s 4 va) ∧
  (∀ k, va.toNat % n = 0 → OwnBank s va k →
    ((∀ j, j < n → poisoned s (k + j) = false) → Computes i s d (extendLoad n signed (Memory.le s.mem k n))) ∧
    (poisoned s k = true → TrapsWith i s 11 va) ∧
    (n = 8 → poisoned s k = false → poisoned s (k + 4) = true → TrapsWith i s 11 (va + 4))) ∧
  (∀ s1 c, va.toNat % n = 0 → translate s s.core.who va .r = (s1, .fault c) → Quiet s1 →
    exec i s = .next (settle (trapEntry s1 c false va s1.core.regs.pc))) ∧
  (∀ s1 l s2 v, va.toNat % n = 0 → translate s s.core.who va .r = (s1, .ok l) → isWindow va = false → (∀ k, l ≠ .bank k) → Quiet s1 →
    readAt s1 l n = (s2, v, none) → Ready s2 →
    ∃ t, exec i s = .next t ∧ WroteX s2 t d (extendLoad n signed v) ∧ Advances s2 t ∧ OnlyX s2 t) ∧
  (∀ k, va.toNat % n = 0 → isWindow va = true → windowKey s s.core.pos s.core.fold va = some k → isRemote s.core.pos k = true →
    bankPoison s k n = none → 1 ≤ s.pace.remote →
    ∃ t, exec i s = .next t ∧ Advances s t ∧
      t = { s with core := { s.core with
        regs := { s.core.regs with pc := t.core.regs.pc, instret := t.core.regs.instret }
        q := { s.core.q with remote := [⟨s.core.q.rseq, s.core.q.qnext, k, .load d n signed⟩], rseq := s.core.q.rseq + 1 }
        sync := { s.core.sync with rcnt := t.core.sync.rcnt } } })

/-- The instruction takes a store-buffer entry (R165): with room left by the pace, that entry is all that it leaves beside the PC,
INSTRET and RCNT. -/
def TakesEntry (i : Instr) (s s1 : State) (va : Word) (l : Loc) (op : SbOp) : Prop :=
  1 ≤ s.pace.sb → s1.pace = s.pace →
    ∃ t, exec i s = .next t ∧ Advances s1 t ∧
      t = { s1 with core := { s1.core with
        regs := { s1.core.regs with pc := t.core.regs.pc, instret := t.core.regs.instret }
        q := { s1.core.q with sb := [⟨s1.core.q.qnext, va, l, op⟩] }
        sync := { s1.core.sync with rcnt := t.core.sync.rcnt } } }

/-- The instruction is a store of n bytes of data to va (R165, R278). Misaligned, it raises cause 7; where translation faults it raises
the fault's cause with the address; else it takes a store-buffer entry. To its own banks, where the pace keeps no entry back, the
bytes are written, and every other byte of memory stands. -/
def StoresAs (i : Instr) (s : State) (va : Word) (n : Nat) (data : Word) : Prop :=
  (va.toNat % n ≠ 0 → TrapsWith i s 7 va) ∧
  (∀ s1 c, va.toNat % n = 0 → translateAs s s.core.who va .w true false = (s1, .fault c) → Quiet s1 →
    exec i s = .next (settle (trapEntry s1 c false va s1.core.regs.pc))) ∧
  (∀ s1 l, va.toNat % n = 0 → translateAs s s.core.who va .w true false = (s1, .ok l) → Ready s1 →
    TakesEntry i s s1 va l (.store n data)) ∧
  (∀ k, va.toNat % n = 0 → OwnBank s va k → s.pace.sb = 0 → Memory.wf s.mem = true →
    ∃ t, exec i s = .next t ∧ Advances s t ∧ (∀ r, xr t r = xr s r) ∧ Memory.le t.mem k n = data.toNat % 2 ^ (8 * n) ∧
      (∀ a, a < k ∨ k + n ≤ a → Memory.byte t.mem a = Memory.byte s.mem a) ∧ Memory.wf t.mem = true ∧
      t = { s with
        mem := t.mem
        poison := t.poison
        core := { s.core with
          regs := { s.core.regs with pc := t.core.regs.pc, instret := t.core.regs.instret }
          sync := { s.core.sync with rcnt := t.core.sync.rcnt } } })

/-- The requester of a queued instruction of the strand: its unit is the queue. -/
def queueWho (s : State) : Who := { s.core.who with unit := queueUnit }

/-! ## Accesses of a queued instruction to its own banks -/

/-- n bytes, at least one, at an address lie in the core's own banks at key k, no word of them is poisoned, and the address is a multiple
of their number. -/
def CleanBank (s : State) (va : Word) (n k : Nat) : Prop :=
  1 ≤ n ∧ va.toNat % n = 0 ∧ OwnBank s va k ∧ ∀ j, j < n → poisoned s (k + j) = false

/-- No copy command of the core is outstanding (R290, R308). -/
def NoCopies (s : State) : Prop := commandsOf s s.core.pos = []

/-- The instruction is an early load (R250, R288): it completes with a new LDQ entry that holds the lanes read, and nothing else changes
but what every queued instruction changes and the count of free values, which the inactive lanes take (log 15). -/
def FillsLdq (i : Instr) (s : State) (w : Nat) (act : Word) (f : Nat → Nat) : Prop :=
  ∃ (t : State) (data : VWord), exec i s = .next t ∧
    (∀ j, j < laneCount w → act.getLsbD j = true → lane data w j = f j % 2 ^ w) ∧
    t = { passed i s t with
      freeCtr := s.freeCtr + 1
      core := { (passed i s t).core with
        q := { (passed i s t).core.q with
          ldq := ldqAfter s i (s.core.q.ldq ++ [(⟨s.core.q.qnext, data, 0, none, false, false⟩ : LdqEntry)]) } } }

/-- There is an LDQ entry for an early load (R250), no interrupted lane-addressed access stands, and an instruction that reads the LDQ
finds an entry. -/
def LdqRoom (i : Instr) (s : State) : Prop :=
  s.core.q.ldq.length < Config.ldqDepth ∧ s.core.regs.lanedone = 0 ∧ (∀ l ∈ s.core.q.ldq, l.seq < s.core.q.qnext) ∧
    (readsLdq i = true → nextLdq s ≠ none)

/-- The lanes of a store in the core's own banks: lane j of an active lane is n bytes at key k(j). They take their data, a later lane
over an earlier one; every other byte of memory stands, a word that they write whole loses its mark and no other word does, and nothing else
changes but what every queued instruction changes and the SDQ entry that the data came from (R251, R280, R283, R286). -/
def StoresLanes (i : Instr) (s : State) (d : Reg) (n lanes : Nat) (act : Word) (k data : Nat → Nat) : Prop :=
  ∃ t, exec i s = .next t ∧ Memory.wf t.mem = true ∧
    (∀ j, j < lanes → act.getLsbD j = true →
      (∀ h, j < h → h < lanes → act.getLsbD h = true → k h + n ≤ k j ∨ k j + n ≤ k h) → Memory.le t.mem (k j) n = data j % 2 ^ (8 * n)) ∧
    (∀ a, (∀ j, j < lanes → act.getLsbD j = true → a < k j ∨ k j + n ≤ a) → Memory.byte t.mem a = Memory.byte s.mem a) ∧
    (∀ a, poisoned t a = true ↔ poisoned s a = true ∧ ∃ y, wordKey a ≤ y ∧ y < wordKey a + 4 ∧
      ∀ j, j < lanes → act.getLsbD j = true → y < k j ∨ k j + n ≤ y) ∧
    t = { passed i s t with
      mem := t.mem
      poison := t.poison
      core := { (passed i s t).core with
        q := { (passed i s t).core.q with
          sdq := if d = 31 then s.core.q.sdq.filter fun e => nextSdq s != some e.seq else s.core.q.sdq } } }

/-- The data of a vector store that is enqueued now: v(d), the LDQ entry that v30 reads, or the oldest push that no store has been given
(R251, R283). -/
def storedNow (s : State) (d : Reg) : VWord :=
  if d = 31 then (((nextSdq s).bind fun n => s.core.q.sdq.find? fun e => e.seq == n).map (·.data)).getD 0 else vNow s d

/-! ## Frames and slots -/

/-- A TVAL with a subcode in bits 63:56 (R154, R202). -/
def subcode (n : Nat) (v : Nat) : Word := BitVec.ofNat 64 (n * 2 ^ 56 + v % 2 ^ 56)

/-- The slot operand (n, k) is in range: depth n is on the chain and slot k lies in its frame (R203). -/
def SlotOk (s : State) (n : BitVec 3) (k : BitVec 10) : Prop :=
  n.toNat ≤ s.core.regs.depth ∧ k.toNat < tSlots (shadowAt s n.toNat)

/-- The frames of the core once the template shadow of the current frame is tm: one in the core's own TCM keeps it there too (R201). -/
def framesWith (s : State) (tm : Word) : List FrameRec :=
  let h := curFrame s
  if isWindow h = true ∧ (bankOwner h.toNat).1 = s.core.pos ∧ (bankOwner h.toNat).2 = false then
    s.core.regs.frames.map fun f => if f.off = h.toNat % 2 ^ 37 then { f with live := tm } else f
  else s.core.regs.frames

/-- The instruction completes with tm in the template shadow of the current frame, and nothing else changes but the PC, INSTRET and
RCNT (R209). -/
def SetsShadow (i : Instr) (s : State) (tm : Word) : Prop :=
  ∃ t, exec i s = .next t ∧ Advances s t ∧
    t = { s with core := { s.core with
      regs := { s.core.regs with
        pc := t.core.regs.pc
        instret := t.core.regs.instret
        shadow := vset s.core.regs.shadow s.core.regs.depth tm
        frames := framesWith s tm }
      sync := { s.core.sync with rcnt := t.core.sync.rcnt } } }

/-- Children of the current frame of a strand that have not retired (R198). -/
def childrenLeft (s : State) : Nat := stChild (frameState s s.core.vf (curFrame s)).2

/-- The state after the JOIN steps of a frame whose children have all retired: the acquire that they ask for, and WV cleared (R218). -/
def joined (s : State) : State :=
  let h := curFrame s
  let st := frameState s s.core.vf h
  let u := if stWv st.2 then acquire st.1 allRegions (stWscope st.2) else st.1
  let r := frameState u s.core.vf h
  frameWrite r.1 s.core.vf (hState h) (putField r.2 39 1 0)

/-- The strand waits for its children, or runs the newest of them that has not started (R218). -/
def AwaitsChildren (i : Instr) (s : State) : Prop :=
  (s.core.sync.deque = [] → exec i s = .next (settle (setSync s { s.core.sync with wait := some .join }))) ∧
  (∀ e rest, s.core.sync.deque = e :: rest →
    exec i s = .next (settle (runNested s e s.core.regs.pc true fun u => setSync u { u.core.sync with deque := rest })))

/-- The address of slot k of the frame at depth n (R198, R203). -/
def slotAt (s : State) (n : BitVec 3) (k : BitVec 10) : Word := dreg s n.toNat + 40 + BitVec.ofNat 64 (8 * k.toNat)

/-- The template of the current frame of a strand, as its shadow holds it. -/
def curTmpl (s : State) : Word := shadowAt s s.core.regs.depth

/-! ## Synchronisation and CSRs -/

/-- The word of an instruction, as TVAL of cause 2 (R137). -/
def ownWord (i : Instr) : Word := ((encode i).getD 0).setWidth 64

/-- The sync variable at x(a) passes the checks of R392 for an access: its place is loc, and s1 is the state after its translation. The
engine that serves it has room, and where L asks for a release the SDQ is empty. -/
def SvReaches (s : State) (a : Reg) (l : BitVec 1) (sc : Scope) (acc : Access) (s1 : State) (loc : Loc) : Prop :=
  svCheck s (xr s a) sc acc = .ok s1 loc ∧ (l = 1 → s.core.q.sdq = []) ∧ engineFull s (engineOf s s.core.pos sc loc) = false

/-- An address reaches a place through an entry of the core's own TLB that allows the access and needs no bit set, so that its translation
changes nothing (R295 to R298). -/
def InTlb (s : State) (va : Word) (acc : Access) (loc : Loc) : Prop :=
  ∃ e, isWindow va = false ∧ canonical va = true ∧ tlbFind s (.core s.core.pos) s.core.vf va = some e ∧
    pteAllows e.pte acc s.core.regs.level = true ∧ ¬(acc = .w ∧ pteCow e.pte = true) ∧ usedBits e.pte (decide (acc = .w)) = 0 ∧
    placeOf s s.core.who acc e.pte e.ptePa (ptePfn e.pte * 65536 + va.toNat % 2 ^ e.bits) false = .ok loc

/-- The state in which a sync-variable operation is made: after its release when L is set (R392). -/
def svBase (s : State) (l : BitVec 1) (sc : Scope) : State := if l = 1 then release s s.core.pos sc allRegions else s

/-- What a sync-variable operation leaves: the variable is read at level(scope), written when f gives a value, the acquire is made when C
is set, and x(d) takes the old value (R391, R392). -/
def svLeaves (s : State) (loc : Loc) (d : Reg) (c : BitVec 1) (sc : Scope) (f : Word → Option Word) : State :=
  let r := svRead (svCount s loc sc) loc sc
  let u := match f r.2 with
    | some v => svWrite r.1 loc sc v
    | none => r.1
  writeX (if c = 1 then acquire u allRegions sc else u) d r.2

/-- Nothing changes but the cached words and the PREF fills that an acquire drops, of every core that shares its levels (R362), the PC,
INSTRET and RCNT. -/
def OnlyCaches (s t : State) : Prop :=
  ∃ fills : Core → List PrefFill, t = { s with
    words := t.words
    others := s.others.map fun c => { c with prefs := fills c }
    core := { s.core with
      prefs := t.core.prefs
      regs := { s.core.regs with pc := t.core.regs.pc, instret := t.core.regs.instret }
      sync := { s.core.sync with rcnt := t.core.sync.rcnt } } }

/-- The CSR bits that a write can change, by address: none for a read-only CSR (R127, R142 to R153, R185, R194, R234, R287, R293, R338,
R418). STGV is not among them: its bits follow the active levels. -/
def csrMask (c : Nat) : Word :=
  if c = 0x000 || c = 0x209 then 0x3FFFF
  else if c = 0x001 then 0x3F
  else if c = 0x007 || c = 0x008 then 0xFFFFFFFFFFFFFF
  else if c = 0x100 then 0xFF0F
  else if c = 0x200 then 0xF0F
  else if c = 0x101 || c = 0x201 || c = 0x202 then ~~~(3 : Word)
  else if c = 0x206 then ~~~(15 : Word)
  else if c = 0x207 then 0x1FF
  else if c = 0x208 then 0xFFFFFFFF
  else if c = 0x20A then 0x1F
  else if c = 0x002 || c = 0x006 || (0x010 ≤ c && c ≤ 0x015) || c = 0x020 || c = 0x021 || c = 0x203 || c = 0x204 || c = 0x205 || c = 0x20B then
    BitVec.allOnes 64
  else 0

/-- The CSR bits that keep their value at a write: all of a read-only CSR, and INH and IPEND of STATUS; a reserved bit reads 0 (R3, R151). -/
def csrKept (c : Nat) : Word := if csrMask c = 0 then BitVec.allOnes 64 else if c = 0x200 then 0xF010 else 0

/-- A CSR access is legal at the strand's level (R147). -/
def CsrLegal (s : State) (c : BitVec 13) (old : Word) : Prop :=
  c.toNat < 2 ^ 10 ∧ csrRead s c.toNat = some old ∧ c.toNat / 2 ^ 8 ≤ s.core.regs.level.toNat

/-- A value that a CSR write may give to MODE (R142, R147): any value elsewhere. -/
def modeAllows (c : BitVec 13) (v : Word) : Prop := c = 0 → modeIllegal (v.extractLsb' 0 18) = false

/-! ## Events -/

/-- The strand of the core in focus is there, and no switch, kill or containment has stopped it (R412, R424). -/
def Running (s : State) : Prop := s.core.occ ≠ .idle ∧ s.core.sync.stopped = false ∧ switchStops s s.core = false

/-- The step is the turn of the strand in focus: no vector is due on the exchange, nothing of the outside is pending, no unit has an event,
nothing outstanding goes on, and no killed frame lies on the strand's chain (log 9). -/
def ItsTurn (s : State) : Prop :=
  s.core.occ ≠ .idle ∧ nextOf (execExchangeSend s) = none ∧ s.inputs = [] ∧ unitEvent s = none ∧ outstandingDue s = none ∧ killDue s = none

/-- Benostale takes a frame (R437, R441, R443): boot is over, no request is under way, and the frame is the one that GO has handed in, or else
none has been and the frame is no GO under BUSY or DONE. -/
def TakesFrame (s : State) (fr : Frame) : Prop :=
  s.svc.bootStep = 5 ∧ s.svc.powerCycle = false ∧ s.svc.job = none ∧
    (isSubmitted s fr = true ∨ (s.svc.submitted = none ∧ (fr.viaPcie = true → s.svc.busy = false ∧ s.svc.done = false)))

/-- A frame of a request that Benostale acts on (R437, R442 to R444): it is taken, its CODE is this, its layout is that of R442, its key is
registered, its signature is good, and its COUNT is above the highest accepted for the key. -/
def FrameOk (s : State) (fr : Frame) (code : Nat) (k : OperatorKey) : Prop :=
  TakesFrame s fr ∧ (headerOf fr).code.toNat = code ∧ frameOk fr = true ∧ registered s (headerOf fr).keyid = some k ∧
    (∃ key, k.key = some key ∧ frameSigned key fr = true) ∧ (∀ c, k.count = some c → c.toNat < (headerOf fr).count.toNat)

/-- The state in which a request is acted on: its COUNT is recorded (R442). -/
def counted (s : State) (fr : Frame) (k : OperatorKey) : State := setKey s { k with count := some (headerOf fr).count }

/-- The request is answered with a STATUS and a body (R442 to R444), and what it did is u: over PCIe the frame is in the response buffer
with DONE and RLEN, and vector 0 is raised; else it goes to the management endpoint. Its signature is a free value (log 7). -/
def Answers (i : Instr) (s : State) (fr : Frame) (st : Nat) (body : List Byte) (u : State) : Prop :=
  let h := headerOf fr
  ∃ t, exec i s = .next t ∧ t = { u with svc := t.svc } ∧
    (h.viaPcie = true → t.svc = { u.svc with
      response := some (responseTo h st body)
      busy := false
      submitted := none
      done := true
      rlen := BitVec.ofNat 32 (64 + body.length + 384)
      msix := u.svc.msix ++ [0] }) ∧
    (h.viaPcie = false → t.svc = { u.svc with netResponse := some (responseTo h st body) })

/-- A message of the host that the device acts on: H2DHEAD goes past it (R451), and what it did is g of the fold. -/
def took (s : State) (f : Fold) (g : Fold → Fold) : State :=
  setFold s (g { f with h2dhead := f.h2dhead + 1, h2dtail := Nat.max f.h2dtail (f.h2dhead + 1) })

/-- A message of the host is ignored, and MBERR posted with its KIND and its A (R450). -/
def Ignored (i : Instr) (s : State) (f : Fold) (kind vf : Nat) (a : Word) : Prop :=
  exec i s = .next (postMb (took s f fun g => g) f.num ⟨15, vf, BitVec.ofNat 64 kind, a, 0⟩)

end Sys2Proof
end

