-- ==== Sys2Proof/Certificates/Slice0/Obligations.lean ====
section
/-!
DEFINITION. Certificates/Slice0/Obligations.lean: what the rules say that the machine does, as statements for proof. A docstring
names the rules, or the log entry where a clause is the model's choice.
-/

section

open Sys2Proof Sys2Proof.Machine

/-! ## Integer instructions -/

/-- R171, R172, R173: the R-format integer instructions write x(d) as their table says, with the fixed results of the division corner
cases, and change nothing else but the PC; a write to x0 is discarded. -/
def Obligations.IntegerRegisterForms : Prop :=
  ∀ (s : State) (d a b : Reg), Ready s →
    let x := xr s a
    let y := xr s b
    let sh := y.toNat % 64
    Computes (.add d a b) s d (x + y) ∧
    Computes (.sub d a b) s d (x - y) ∧
    Computes (.and d a b) s d (x &&& y) ∧
    Computes (.or d a b) s d (x ||| y) ∧
    Computes (.xor d a b) s d (x ^^^ y) ∧
    Computes (.sll d a b) s d (BitVec.ofNat 64 (x.toNat * 2 ^ sh)) ∧
    Computes (.srl d a b) s d (BitVec.ofNat 64 (x.toNat / 2 ^ sh)) ∧
    Computes (.sra d a b) s d (BitVec.ofInt 64 (x.toInt / 2 ^ sh)) ∧
    Computes (.slt d a b) s d (if x.toInt < y.toInt then 1 else 0) ∧
    Computes (.sltu d a b) s d (if x.toNat < y.toNat then 1 else 0) ∧
    Computes (.min d a b) s d (if x.toInt ≤ y.toInt then x else y) ∧
    Computes (.max d a b) s d (if x.toInt ≤ y.toInt then y else x) ∧
    Computes (.minu d a b) s d (if x.toNat ≤ y.toNat then x else y) ∧
    Computes (.maxu d a b) s d (if x.toNat ≤ y.toNat then y else x) ∧
    Computes (.mul d a b) s d (BitVec.ofNat 64 (x.toNat * y.toNat)) ∧
    Computes (.mulh d a b) s d (BitVec.ofInt 64 (x.toInt * y.toInt / 2 ^ 64)) ∧
    Computes (.mulhu d a b) s d (BitVec.ofNat 64 (x.toNat * y.toNat / 2 ^ 64)) ∧
    Computes (.div d a b) s d (if y = 0 then BitVec.allOnes 64 else BitVec.ofInt 64 (x.toInt.tdiv y.toInt)) ∧
    Computes (.divu d a b) s d (if y = 0 then BitVec.allOnes 64 else BitVec.ofNat 64 (x.toNat / y.toNat)) ∧
    Computes (.rem d a b) s d (if y = 0 then x else BitVec.ofInt 64 (x.toInt.tmod y.toInt)) ∧
    Computes (.remu d a b) s d (if y = 0 then x else BitVec.ofNat 64 (x.toNat % y.toNat))

/-- R174: BIT.CLZ, BIT.CTZ, BIT.POPC and BIT.BREV. R175, R176: the I-format and U-format instructions of class 0. -/
def Obligations.BitAndImmediateForms : Prop :=
  (∀ (s : State) (d a : Reg), Ready s →
     (∃ n, n ≤ 64 ∧ Computes (.bitClz d a) s d (BitVec.ofNat 64 n) ∧ (∀ j, j < n → (xr s a).getLsbD (63 - j) = false) ∧
       (n < 64 → (xr s a).getLsbD (63 - n) = true)) ∧
     (∃ n, n ≤ 64 ∧ Computes (.bitCtz d a) s d (BitVec.ofNat 64 n) ∧ (∀ j, j < n → (xr s a).getLsbD j = false) ∧
       (n < 64 → (xr s a).getLsbD n = true)) ∧
     Computes (.bitPopc d a) s d (BitVec.ofNat 64 ((List.range 64).map fun j => ((xr s a).getLsbD j).toNat).sum) ∧
     (∃ v, Computes (.bitBrev d a) s d v ∧ ∀ j, j < 64 → v.getLsbD (63 - j) = (xr s a).getLsbD j)) ∧
  (∀ (s : State) (d a : Reg) (i : BitVec 13) (n : BitVec 6) (u : BitVec 18), Ready s →
     let x := xr s a
     Computes (.addi d a i) s d (x + BitVec.ofInt 64 i.toInt) ∧
     Computes (.andi d a i) s d (x &&& BitVec.ofNat 64 i.toNat) ∧
     Computes (.ori d a i) s d (x ||| BitVec.ofNat 64 i.toNat) ∧
     Computes (.xori d a i) s d (x ^^^ BitVec.ofNat 64 i.toNat) ∧
     Computes (.slli d a n) s d (BitVec.ofNat 64 (x.toNat * 2 ^ n.toNat)) ∧
     Computes (.srli d a n) s d (BitVec.ofNat 64 (x.toNat / 2 ^ n.toNat)) ∧
     Computes (.srai d a n) s d (BitVec.ofInt 64 (x.toInt / 2 ^ n.toNat)) ∧
     Computes (.slti d a i) s d (if x.toInt < i.toInt then 1 else 0) ∧
     Computes (.sltiu d a i) s d (if x.toNat < (BitVec.ofInt 64 i.toInt).toNat then 1 else 0) ∧
     Computes (.lui d u) s d (BitVec.ofInt 64 (BitVec.ofNat 32 (u.toNat * 2 ^ 14)).toInt) ∧
     Computes (.auipc d u) s d (s.core.regs.pc + BitVec.ofInt 64 (BitVec.ofNat 32 (u.toNat * 2 ^ 14)).toInt) ∧
     Computes (.shor d u) s d (BitVec.ofNat 64 ((xr s d).toNat * 2 ^ 18 + u.toNat)))

/-! ## Scalar FP32 -/

/-- R177, R178, R181: FADD, FSUB, FMUL, FDIV, FMA and FSQRT round their exact value once; under SR they take one draw. -/
def Obligations.FloatArithmetic : Prop :=
  ∀ (s : State) (d a b : Reg), Ready s →
    let rm := mRm s.core.regs.mode
    let p := single s a
    let q := single s b
    let r := single s d
    let m := exMul (fp32.decode p) (fp32.decode q)
    let two := fun (v : Ex × Flags) => rounded fp32 s.core.regs.mode (scalarBits s) v (fp32.snan p || fp32.snan q)
    ComputesF (.fadd d a b) s d (two (exAdd rm (fp32.decode p) (fp32.decode q))) (scalarSeed s) ∧
    ComputesF (.fsub d a b) s d (two (exAdd rm (fp32.decode p) (fp32.decode q).negate)) (scalarSeed s) ∧
    ComputesF (.fmul d a b) s d (two m) (scalarSeed s) ∧
    ComputesF (.fdiv d a b) s d (two (exDiv (fp32.decode p) (fp32.decode q))) (scalarSeed s) ∧
    ComputesF (.fma d a b) s d (rounded fp32 s.core.regs.mode (scalarBits s)
      ((exAdd rm m.1 (fp32.decode r)).1, m.2 ||| (exAdd rm m.1 (fp32.decode r)).2) (fp32.snan p || fp32.snan q || fp32.snan r)) (scalarSeed s) ∧
    ComputesF (.fsqrt d a) s d (rounded fp32 s.core.regs.mode (scalarBits s) (exSqrt (fp32.decode p)) (fp32.snan p)) (scalarSeed s)

/-- R179: FMIN and FMAX take the smaller or larger operand without rounding, and FCMP writes 1 when its relation holds; LT and LE set NV
for any NaN, the others for a signalling one. None takes a draw. R180, R181: the conversions of FCVT; those that round take a draw under
SR, those that are exact take none. -/
def Obligations.FloatCompareAndConvert : Prop :=
  (∀ (s : State) (d a b : Reg), Ready s →
     let x := fp32.decode (single s a)
     let y := fp32.decode (single s b)
     let sn := fp32.snan (single s a) || fp32.snan (single s b)
     let anyNan := sn || (x.isNan || y.isNan)
     ComputesF (.fmin d a b) s d ((roundTo fp32 1 false 0 (exMin x y)).1, flagIf sn flagNV) s.core.regs.srseed ∧
     ComputesF (.fmax d a b) s d ((roundTo fp32 1 false 0 (exMax x y)).1, flagIf sn flagNV) s.core.regs.srseed ∧
     ComputesF (.fcmpEq d a b) s d (if x.eq y then 1 else 0, flagIf sn flagNV) s.core.regs.srseed ∧
     ComputesF (.fcmpLt d a b) s d (if x.lt y then 1 else 0, flagIf anyNan flagNV) s.core.regs.srseed ∧
     ComputesF (.fcmpLe d a b) s d (if x.lt y || x.eq y then 1 else 0, flagIf anyNan flagNV) s.core.regs.srseed) ∧
  (∀ (s : State) (d a : Reg), Ready s →
     let m := s.core.regs.mode
     let p := single s a
     let h := (xr s a).toNat % 2 ^ 16
     let rnd := scalarBits s
     let down := fun (f : Fmt) => rounded f m rnd (fp32.decode p, 0) (fp32.snan p)
     let up := fun (f : Fmt) => ((roundTo fp32 1 false 0 (f.decode h)).1, flagIf (f.snan h) flagNV)
     ComputesF (.fcvtI64f d a) s d (rounded fp32 m rnd (Ex.ofInt (xr s a).toInt, 0) false) (scalarSeed s) ∧
     ComputesF (.fcvtFi64 d a) s d (intFromFloatIn (-(2 ^ 63)) (2 ^ 63 - 1) 64 (mRm m) rnd (fp32.decode p)) (scalarSeed s) ∧
     ComputesF (.fcvtFf16 d a) s d (down fp16) (scalarSeed s) ∧
     ComputesF (.fcvtFb16 d a) s d (down bf16) (scalarSeed s) ∧
     ComputesF (.fcvtF16f d a) s d (up fp16) s.core.regs.srseed ∧
     ComputesF (.fcvtB16f d a) s d (up bf16) s.core.regs.srseed ∧
     ComputesF (.fcvtS20f d a) s d ((roundTo fp32 1 false 0 (scaleValue ((xr s a).extractLsb' 0 20))).1, 0) s.core.regs.srseed ∧
     ComputesF (.fcvtFs20 d a) s d (scaleFromEx (mRm m) (mSat m) rnd (fp32.decode p)) (scalarSeed s))

/-- R228: rounding a magnitude n / d to an integer: exact values stand; RTZ takes the floor; RDN and RUP go away from zero on their own
side; RNE and RNA take a nearest integer, a tie going to the even one or away from zero; SR adds its 16 random bits below the unit. -/
def Obligations.RoundingModes : Prop :=
  ∀ (n d rnd : Nat) (neg : Bool), 0 < d → rnd < 65536 →
    let fl := n / d
    roundInt 1 rnd neg n d false = fl ∧
    roundInt 2 rnd neg n d false = (if neg && decide (n % d ≠ 0) then fl + 1 else fl) ∧
    roundInt 3 rnd neg n d false = (if !neg && decide (n % d ≠ 0) then fl + 1 else fl) ∧
    (∀ rm, rm < 6 → n % d = 0 → roundInt rm rnd neg n d false = fl) ∧
    (∀ rm, rm = 0 ∨ rm = 4 → ∀ k : Nat,
      ((roundInt rm rnd neg n d false * d : Nat) - (n : Int)).natAbs ≤ ((k * d : Nat) - (n : Int)).natAbs) ∧
    (2 * (n % d) = d → roundInt 0 rnd neg n d false % 2 = 0 ∧ roundInt 4 rnd neg n d false = fl + 1) ∧
    roundInt 5 rnd neg n d false = (n * 65536 / d + rnd) / 65536

/-! ## Branches, jumps and loops -/

/-- R182, R184, R190: the branches are taken on their conditions, BMZ and BMNZ on the whole mask-stack top, all ones when the stack is
empty, and BST when bit 8n + s of STGV is 0; the target is PC + 4 × the offset, and one that is not taken continues at PC + 4. Nothing
else changes. -/
def Obligations.Branches : Prop :=
  ∀ (s : State) (a b : Reg) (o : BitVec 13) (st n : BitVec 3), Ready s →
    let x := xr s a
    let y := xr s b
    let off := wordsOn s o.toInt
    let on := wordsOn s 1
    let top := s.core.vec.masks.headD (BitVec.allOnes 64)
    GoesTo (.beq a b o) s (if x = y then off else on) ∧
    GoesTo (.bne a b o) s (if x = y then on else off) ∧
    GoesTo (.blt a b o) s (if x.toInt < y.toInt then off else on) ∧
    GoesTo (.bge a b o) s (if x.toInt < y.toInt then on else off) ∧
    GoesTo (.bltu a b o) s (if x.toNat < y.toNat then off else on) ∧
    GoesTo (.bgeu a b o) s (if x.toNat < y.toNat then on else off) ∧
    GoesTo (.bmz o) s (if top = 0 then off else on) ∧
    GoesTo (.bmnz o) s (if top = 0 then on else off) ∧
    (n.toNat ≤ 5 → GoesTo (.bst st n o) s (if (stgv s).getLsbD (8 * n.toNat + st.toNat) then on else off))

/-- R183, R132: JAL and JALR write PC + 4 and jump; the target of JALR is read before x(d) is written, and one that is not a multiple of
4 raises cause 0 with the target as TVAL. -/
def Obligations.Jumps : Prop :=
  ∀ (s : State) (d a : Reg) (u : BitVec 18) (i : BitVec 13), Quiet s →
    let t := xr s a + BitVec.ofInt 64 i.toInt
    Links (.jal d u) s d (wordsOn s u.toInt) ∧
    (t.toNat % 4 = 0 → Links (.jalr d a i) s d t) ∧
    (t.toNat % 4 ≠ 0 → TrapsWith (.jalr d a i) s 0 t)

/-- R186, R189: LOOP, LOOPT and LOOPS set a level for N passes, N being bits 47:0 of x(a) or the trip count of an entry, with LC = N + S
− 1 and STG = 1; with N = 0 the body is skipped and the level unchanged. -/
def Obligations.LoopSettings : Prop :=
  ∀ (s : State) (n m : BitVec 3) (a : Reg) (l : BitVec 12) (st : BitVec 3) (k : BitVec 10), Ready s → n.toNat ≤ 5 →
    let c := (xr s a).toNat % 2 ^ 48
    (l ≠ 0 → if c = 0 then GoesTo (.loop n a l) s (wordsOn s (1 + l.toNat)) else SetsLoop (.loop n a l) s n.toNat (newLoop s c 1 none l.toNat)) ∧
    (l ≠ 0 → m.toNat ≤ 5 →
      if tripOf s m.toNat = 0 then GoesTo (.loopt n m l) s (wordsOn s (1 + l.toNat))
      else SetsLoop (.loopt n m l) s n.toNat (newLoop s (tripOf s m.toNat) 1 (some m) l.toNat)) ∧
    (k ≠ 0 → if c = 0 then GoesTo (.loops n a st k) s (wordsOn s (1 + k.toNat))
      else SetsLoop (.loops n a st k) s n.toNat (newLoop s c (st.toNat + 1) none k.toNat))

/-- R187: the END test of an instruction that falls through, here ADD: the highest level that ends at its address goes on from START
with LC one less and its stage bits shifted, or ends; where no lower level ends there the strand goes to the next word. No other level
changes. R188: LBRK of an active level ends it and every active level above it and goes past its END; of an inactive one it has no
effect. R193: LIDX gives the D or C index of the strand times STEP, or for a T entry the passes made by the highest active level that is
bound to it times STEP, and 0 where no level is bound or the entry is unused. -/
def Obligations.LoopEndBreakIndex : Prop :=
  (∀ (s : State) (d a b : Reg) (n : Nat), Quiet s → n ≤ 5 → EndsAt s n → (∀ m, n < m → m ≤ 5 → ¬EndsAt s m) →
     let l := loopAt s n
     let lc := l.lc - 1
     let p : Int := (l.count.toNat : Int) + l.stages - 1 - lc.toNat
     (1 < l.lc.toNat → ∃ t, exec (.add d a b) s = .next t ∧ t.core.regs.pc = l.start ∧ WroteX s t d (xr s a + xr s b) ∧ OnlyLoops s t ∧
       (∀ m, m ≠ n → loopAt t m = loopAt s m) ∧ loopAt t n = { l with lc := lc, stg := (loopAt t n).stg } ∧
       ∀ j, j < 8 → (loopAt t n).stg.getLsbD j = (decide (j < l.stages) &&
         (if j = 0 then decide (p < l.count.toNat) else l.stg.getLsbD (j - 1)))) ∧
     (l.lc.toNat ≤ 1 → (∀ m, m < n → ¬EndsAt s m) → ∃ t, exec (.add d a b) s = .next t ∧ t.core.regs.pc = s.core.regs.pc + 4 ∧
       WroteX s t d (xr s a + xr s b) ∧ OnlyLoops s t ∧ (∀ m, m ≠ n → loopAt t m = loopAt s m) ∧ loopAt t n = endedLoop l)) ∧
  (∀ (s : State) (n : BitVec 3), n.toNat ≤ 5 →
     ((loopAt s n.toNat).act = true → Quiet s → ∃ t, exec (.lbrk n) s = .next t ∧ t.core.regs.pc = (loopAt s n.toNat).stop + 4 ∧ OnlyLoops s t ∧
       (∀ r, xr t r = xr s r) ∧ ∀ m, m ≤ 5 → loopAt t m = if n.toNat ≤ m ∧ (loopAt s m).act = true then endedLoop (loopAt s m) else loopAt s m) ∧
     ((loopAt s n.toNat).act = false → Ready s → GoesTo (.lbrk n) s (wordsOn s 1))) ∧
  (∀ (s : State) (d : Reg) (m : BitVec 3) (kind : Nat) (step : Int), Ready s → m.toNat ≤ 5 → HasEntry s m kind step →
     (kind = 1 ∨ kind = 2 → Computes (.lidx d m) s d (BitVec.ofInt 64 (((s.core.idx[m.toNat]?).getD 0 : Nat) * step))) ∧
     (∀ n, kind = 3 → n ≤ 5 → BoundTo s n m → (∀ k, n < k → k ≤ 5 → ¬BoundTo s k m) →
       Computes (.lidx d m) s d (BitVec.ofInt 64 (((loopAt s n).count.toNat - (loopAt s n).lc.toNat : Int) * step))) ∧
     (kind = 3 → (∀ k, k ≤ 5 → ¬BoundTo s k m) → Computes (.lidx d m) s d 0) ∧
     (kind = 0 → Computes (.lidx d m) s d 0))

/-! ## Scalar memory -/

/-- R277, R280, R293: the scalar loads, with their sizes and extensions, and FLD, which loads its slot as LD does (R203). -/
def Obligations.ScalarLoads : Prop :=
  ∀ (s : State) (d a : Reg) (i : BitVec 13) (n : BitVec 3) (k : BitVec 10), Ready s →
    let va := xr s a + BitVec.ofInt 64 i.toInt
    LoadsAs (.lb d a i) s d va 1 true ∧
    LoadsAs (.lbu d a i) s d va 1 false ∧
    LoadsAs (.lh d a i) s d va 2 true ∧
    LoadsAs (.lhu d a i) s d va 2 false ∧
    LoadsAs (.lw d a i) s d va 4 true ∧
    LoadsAs (.lwu d a i) s d va 4 false ∧
    LoadsAs (.ld d a i) s d va 8 true ∧
    (SlotOk s n k → LoadsAs (.fld d n k) s d (slotAt s n k) 8 true)

/-- R165, R278: the scalar stores, and FST, which stores to its slot as SD does (R203). -/
def Obligations.ScalarStores : Prop :=
  ∀ (s : State) (d a : Reg) (i : BitVec 13) (n : BitVec 3) (k : BitVec 10), Ready s →
    let va := xr s a + BitVec.ofInt 64 i.toInt
    StoresAs (.sb d a i) s va 1 (xr s d) ∧
    StoresAs (.sh d a i) s va 2 (xr s d) ∧
    StoresAs (.sw d a i) s va 4 (xr s d) ∧
    StoresAs (.sd d a i) s va 8 (xr s d) ∧
    (SlotOk s n k → StoresAs (.fst d n k) s (slotAt s n k) 8 (xr s d))

/-- R281, R282: PREF changes no register but the PC and at most starts one fill; CBO.WB and CBO.WBINV take a store-buffer entry with
read rights; CBO.INV takes one with write rights at level 2, and elsewhere raises cause 2 with its own word. -/
def Obligations.CacheOperations : Prop :=
  ∀ (s : State) (a : Reg) (h : BitVec 2) (i : BitVec 13), Ready s →
    (∃ t, exec (.pref h a i) s = .next t ∧ Advances s t ∧
      (t.core.prefs = s.core.prefs ∨ ∃ f, t.core.prefs = s.core.prefs ++ [f] ∧ f.levels = prefLevels s h) ∧
      t = { s with core := { s.core with
        prefs := t.core.prefs
        regs := { s.core.regs with pc := t.core.regs.pc, instret := t.core.regs.instret }
        sync := { s.core.sync with rcnt := t.core.sync.rcnt } } }) ∧
    (∀ s1 l, translateAs s s.core.who (xr s a) .r true false = (s1, .ok l) → Ready s1 → TakesEntry (.cboWb a) s s1 (xr s a) l (.cbo 0)) ∧
    (∀ s1 l, translateAs s s.core.who (xr s a) .r true false = (s1, .ok l) → Ready s1 → TakesEntry (.cboWbinv a) s s1 (xr s a) l (.cbo 1)) ∧
    (∀ s1 l, s.core.regs.level = 2 → translateAs s s.core.who (xr s a) .w true false = (s1, .ok l) → Ready s1 →
      TakesEntry (.cboInv a) s s1 (xr s a) l (.cbo 2)) ∧
    (∀ w, s.core.regs.level ≠ 2 → encode (.cboInv a) = some w → TrapsWith (.cboInv a) s 2 (w.setWidth 64))

/-! ## Frames -/

/-- R201, R203, R204, R210: FADR gives the slot's address, FACC takes a store-buffer entry with its operator and operand, and DSPR reads
a display register, 0 above the depth. -/
def Obligations.SlotOperations : Prop :=
  ∀ (s : State) (x : Reg) (n : BitVec 3) (k : BitVec 10) (f : BitVec 5), Ready s →
    (SlotOk s n k → Computes (.fadr x n k) s x (slotAt s n k)) ∧
    (∀ s1 l, SlotOk s n k → translateAs s s.core.who (slotAt s n k) .w true false = (s1, .ok l) →
      lacksAtomics s1 s1.core.who (slotAt s n k) = false → Ready s1 →
      TakesEntry (.facc x n k f) s s1 (slotAt s n k) l (.facc (f.setWidth 3) (xr s1 x))) ∧
    (n.toNat ≤ s.core.regs.depth → Computes (.dspr x n) s x ((s.core.regs.d[n.toNat]?).getD 0)) ∧
    (s.core.regs.depth < n.toNat → Computes (.dspr x n) s x 0)

/-- R202, R203: the frame faults of the slot instructions, FENTER, FLEAVE and END: cause 9, with the subcode and the operand that the
rule gives. -/
def Obligations.FrameFaults : Prop :=
  ∀ (s : State) (x a : Reg) (n : BitVec 3) (k : BitVec 10) (f : BitVec 5) (p sc : BitVec 2), Ready s →
    let nk := n.toNat * 2 ^ 10 + k.toNat
    let deep := s.core.regs.depth < n.toNat
    let wide := n.toNat ≤ s.core.regs.depth ∧ tSlots (shadowAt s n.toNat) ≤ k.toNat
    let size := (xr s a).toNat
    let fin := ftopOf s.core.regs + 40 + 8 * size
    (deep → TrapsWith (.fld x n k) s 9 (subcode 1 nk) ∧ TrapsWith (.fst x n k) s 9 (subcode 1 nk) ∧
      TrapsWith (.fadr x n k) s 9 (subcode 1 nk) ∧ TrapsWith (.facc x n k f) s 9 (subcode 1 nk)) ∧
    (wide → TrapsWith (.fld x n k) s 9 (subcode 2 nk) ∧ TrapsWith (.fst x n k) s 9 (subcode 2 nk) ∧
      TrapsWith (.fadr x n k) s 9 (subcode 2 nk) ∧ TrapsWith (.facc x n k f) s 9 (subcode 2 nk)) ∧
    (s.core.regs.depth = 7 → TrapsWith (.fenter x a p sc) s 9 (subcode 3 7)) ∧
    (s.core.regs.depth ≠ 7 → 1023 < size → TrapsWith (.fenter x a p sc) s 9 (subcode 5 size)) ∧
    (s.core.regs.depth ≠ 7 → size ≤ 1023 → 16384 < fin → TrapsWith (.fenter x a p sc) s 9 (subcode 4 fin)) ∧
    (curEnt s = false → TrapsWith .fleave s 9 (subcode 6 s.core.regs.depth)) ∧
    (curEnt s = true → TrapsWith .endStrand s 9 (subcode 7 s.core.regs.depth))

/-- R206, R207: FENTER makes a frame of N slots at FTOP one level deeper and writes its depth to x(d), and FLEAVE returns to the frame
above; the header's writes and the Leave wait in the store buffer. -/
def Obligations.EnterAndLeave : Prop :=
  ∀ (s : State) (d a : Reg) (p sc : BitVec 2), Ready s → 1 ≤ s.pace.sb →
    let n := (xr s a).toNat
    let off := ftopOf s.core.regs
    let g := s.core.regs
    let tmpl : Word := BitVec.ofNat 64 (n + sc.toNat * 2 ^ 10 + p.toNat * 2 ^ 12)
    let h := tcmVa s.core.pos off
    (g.depth < 7 → n ≤ 1023 → off + 40 + 8 * n ≤ 16384 → ∃ t, exec (.fenter d a p sc) s = .next t ∧ WroteX s t d (BitVec.ofNat 64 (g.depth + 1)) ∧ Advances s t ∧
      t = { s with core := { s.core with
        regs := { g with
          x := t.core.regs.x
          pc := t.core.regs.pc
          instret := t.core.regs.instret
          depth := g.depth + 1
          d := vset g.d (g.depth + 1) h
          shadow := vset g.shadow (g.depth + 1) tmpl
          frames := g.frames ++ [⟨off, off + 40 + 8 * n, tmpl⟩] }
        q := { s.core.q with sb := [⟨s.core.q.qnext, h, .bank (tcmKey s.core.pos + off), .enter h tmpl (curFrame s) (g.depth + 1)⟩] }
        sync := { s.core.sync with rcnt := t.core.sync.rcnt } } }) ∧
    (curEnt s = true → ∃ t, exec .fleave s = .next t ∧ Advances s t ∧
      t = { s with core := { s.core with
        regs := { g with
          pc := t.core.regs.pc
          instret := t.core.regs.instret
          depth := g.depth - 1
          d := vset g.d g.depth 0
          shadow := vset g.shadow g.depth 0 }
        q := { s.core.q with sb := [⟨s.core.q.qnext, curFrame s, .bank (absKey (curFrame s)), .leave (curFrame s) (curTmpl s)⟩] }
        sync := { s.core.sync with rcnt := t.core.sync.rcnt } } })

/-- R209: FFOLD and FPOL change FOP, FOWN, FPAR and POLICY in the shadow of the current frame alone. R212, R217: FORK releases, pushes an
entry with the target, the current frame, the argument, the template and the indices, and counts a child; with 32 entries in the deque
it runs the task nested. R218, R219: JOIN with no child left makes the acquire that the children ask for, clears WV and falls through,
and END then leaves the frame of its strand or task, a strand's once no copy command of it is outstanding; with children left both run
the newest that has not started, or wait. END also waits for the copy of a page that the retirement writes (R117). FORK and JOIN in an
exchange phase raise cause 18. -/
def Obligations.FoldForkAndJoin : Prop :=
  (∀ (s : State) (a b : Reg) (f : BitVec 8) (p : BitVec 2), Ready s → s.core.regs.depth ≤ 7 → f.toNat ≤ 6 →
     let own := (xr s a).toNat
     let par := (xr s b).toNat
     let t0 := curTmpl s
     let above := tSlots (shadowAt s (s.core.regs.depth - 1))
     let high := t0.extractLsb' 37 27
     (f ≠ 0 → own < tSlots t0 → par < above → ∃ tm, SetsShadow (.ffold a b f) s tm ∧
       (tFop tm).toNat = f.toNat ∧ tFown tm = own ∧ tFpar tm = par ∧ tm.extractLsb' 0 14 = t0.extractLsb' 0 14 ∧ tm.extractLsb' 37 27 = high) ∧
     (f = 0 → ∃ tm, SetsShadow (.ffold a b f) s tm ∧
       tFop tm = 0 ∧ tFown tm = 0 ∧ tFpar tm = 0 ∧ tm.extractLsb' 0 14 = t0.extractLsb' 0 14 ∧ tm.extractLsb' 37 27 = high) ∧
     (f ≠ 0 → (tSlots t0 ≤ own ∨ above ≤ par) → TrapsWith (.ffold a b f) s 9 (subcode 8 (par % 2 ^ 10 * 2 ^ 10 + own % 2 ^ 10))) ∧
     (∃ tm, SetsShadow (.fpol p) s tm ∧ tPolicy tm = p.toNat ∧
       tm.extractLsb' 0 12 = t0.extractLsb' 0 12 ∧ tm.extractLsb' 14 50 = t0.extractLsb' 14 50)) ∧
  (∀ (s : State) (a b : Reg) (o : BitVec 13), Quiet s →
     let e : DequeEntry :=
       { target := wordsOn s o.toInt, parent := curFrame s, arg := xr s a, tmpl := (xr s b).setWidth 14, idx := s.core.idx }
     let r := release s s.core.pos 0 allRegions
     let u := joined s
     let v := endFrame (closeRegion (retired u))
     let fits := s.core.regs.depth ≠ 7 ∧ (xr s b).toNat < 2 ^ 14 ∧ s.core.sync.phase = none
     (fits → s.core.sync.deque.length < 32 → s.core.q.sdq = [] →
       Goes (.fork a b o) s (addChild (setSync r { s.core.sync with deque := e :: s.core.sync.deque }) s.core.vf e.parent 1)) ∧
     (fits → 32 ≤ s.core.sync.deque.length → exec (.fork a b o) s = .next (settle (runNested s e (s.core.regs.pc + 4) false retired))) ∧
     (s.core.regs.depth = 7 → TrapsWith (.fork a b o) s 9 (subcode 3 7)) ∧
     (s.core.regs.depth ≠ 7 → 2 ^ 14 ≤ (xr s b).toNat → TrapsWith (.fork a b o) s 9 (subcode 5 (xr s b).toNat)) ∧
     (s.core.regs.depth ≠ 7 → (xr s b).toNat < 2 ^ 14 → s.core.sync.phase.isSome = true → TrapsWith (.fork a b o) s 18 1) ∧
     (s.core.sync.phase.isSome = true → TrapsWith .join s 18 1) ∧
     (s.core.sync.phase = none → childrenLeft s = 0 → Goes .join s u) ∧
     (s.core.sync.phase = none → childrenLeft s ≠ 0 → AwaitsChildren .join s) ∧
     (curEnt s = false → childrenLeft s ≠ 0 → AwaitsChildren .endStrand s) ∧
     (curEnt s = false → childrenLeft s = 0 → s.core.q.sdq = [] → (s.core.regs.depth = 2 → s.core.sync.outstanding = 0) →
       rootCopies u v = none → exec .endStrand s = .next (settle v)) ∧
     (∀ w, curEnt s = false → childrenLeft s = 0 → s.core.q.sdq = [] → (s.core.regs.depth = 2 → s.core.sync.outstanding = 0) →
       rootCopies u v = some w → exec .endStrand s = .next (settle (stall w))))

/-! ## Gates, modes, traps and CSRs -/

/-- R195, R196: GATE with a good entry, which the core has cached or reads from memory, saves the return PC, the level and the index,
pushes an all-ones mask when the entry asks for it, and enters at the entry's level and PC; GRET returns. A gate that is active, an index
past the table, an entry that cannot be read, is malformed, lowers the level or would push onto a full mask stack, and a GRET that finds
no gate raise cause 8. -/
def Obligations.Gates : Prop :=
  ∀ (s : State) (g : BitVec 8), Quiet s →
    let t0 := s.core.trap
    let va := t0.gtbase + BitVec.ofNat 64 (16 * g.toNat)
    let masks := s.core.vec.masks
    let good := fun (lo hi : Word) => gateMalformed lo hi = false ∧ s.core.regs.level.toNat ≤ (hi.extractLsb' 0 2).toNat ∧
      (hi.getLsbD 8 = true → masks.length < 16)
    let passes := fun (u : State) (lo hi : Word) => ∃ t, exec (.gate g) s = .next t ∧
      t = { u with core := { s.core with
        gates := u.core.gates
        trap := { t0 with
          gepc := s.core.regs.pc + 4, gPlv := s.core.regs.level, gAct := true, gMpush := hi.getLsbD 8, gIndex := g }
        vec := { s.core.vec with masks := if hi.getLsbD 8 then BitVec.allOnes 64 :: masks else masks }
        regs := { s.core.regs with level := hi.extractLsb' 0 2, pc := lo, instret := s.core.regs.instret + 1 }
        sync := { s.core.sync with rcnt := t.core.sync.rcnt } } }
    (∀ lo hi, t0.gAct = false → g.toNat < gateCount s → (s.core.gates.find? fun e => e.va == va) = some ⟨va, lo, hi⟩ → good lo hi →
      passes s lo hi) ∧
    (∀ s1 lo hi, t0.gAct = false → g.toNat < gateCount s → readGate s va = .ok s1 lo hi → good lo hi → passes s1 lo hi) ∧
    (∀ s1 lo hi, t0.gAct = false → g.toNat < gateCount s → readGate s va = .ok s1 lo hi → ¬good lo hi →
      exec (.gate g) s = .next (settle (trapEntry s1 8 false (g.setWidth 64) s.core.regs.pc))) ∧
    (t0.gAct = true ∨ gateCount s ≤ g.toNat → TrapsWith (.gate g) s 8 (g.setWidth 64)) ∧
    (∀ s1, t0.gAct = false → g.toNat < gateCount s → readGate s va = .bad s1 →
      exec (.gate g) s = .next (settle (trapEntry s1 8 false (g.setWidth 64) s.core.regs.pc))) ∧
    (t0.gAct = true → t0.gPlv.toNat ≤ s.core.regs.level.toNat → (t0.gMpush = true → s.core.vec.masks ≠ []) →
      ∃ t, exec .gret s = .next t ∧
        t = { s with core := { s.core with
          trap := { t0 with gPlv := 0, gAct := false, gMpush := false, gIndex := 0 }
          vec := { s.core.vec with masks := if t0.gMpush then s.core.vec.masks.drop 1 else s.core.vec.masks }
          regs := { s.core.regs with
            level := t0.gPlv, pc := BitVec.ofNat 64 (t0.gepc.toNat / 4 * 4), instret := s.core.regs.instret + 1 }
          sync := { s.core.sync with rcnt := t.core.sync.rcnt } } }) ∧
    (t0.gAct = false ∨ s.core.regs.level.toNat < t0.gPlv.toNat ∨ (t0.gMpush = true ∧ s.core.vec.masks = []) → TrapsWith .gret s 8 256)

/-- R156, R160: BKPT raises cause 3; with a handler installed and INH = 0, trap entry saves the PC, the cause, TVAL, the level, IE, MODE
and the mask depth, sets INH, clears IE and MODE, and enters the handler at level 2. Nothing else changes. R137, R423: a word that
decodes to nothing raises cause 2 with the word as TVAL; a trap with no handler installed or with INH set is contained. -/
def Obligations.TrapEntry : Prop :=
  (∀ (s : State), Quiet s → HandlerReady s →
     exec .bkpt s = .next { s with core := { s.core with
       trap := { s.core.trap with
         epc := s.core.regs.pc
         cause := 3
         tval := 0
         plv := s.core.regs.level
         pie := s.core.trap.ie
         ie := false
         inh := true
         emode := s.core.regs.mode
         emaskd := BitVec.ofNat 5 s.core.vec.masks.length }
       regs := { s.core.regs with mode := 0, level := 2, pc := BitVec.ofNat 64 (s.core.trap.tvec.toNat / 4 * 4) } } }) ∧
  (∀ (s : State) (w : InstrWord), Quiet s →
     TrapsWith (.illegalInstruction w) s 2 (w.setWidth 64) ∧
     (¬HandlerReady s → exec (.illegalInstruction w) s =
       .next (settle (containAs s 2 (w.setWidth 64) s.core.regs.pc false))))

/-- R159: TRET at level 2 in a handler restores the PC, the level, MODE, IE and the mask depth and clears INH; below level 2, or with
INH = 0, or with saved values that break its checks, it raises cause 2 with its own word. R142, R144, R429: SETM writes MODE, or raises
cause 2 with its own word for an illegal mode word; CONTAIN outside a handler contains the code in x(a), 2 for one above 23, at its own
PC, and in a handler the saved trap's PC and TVAL. -/
def Obligations.TrapReturnAndModes : Prop :=
  (∀ (s : State), Quiet s →
     let t0 := s.core.trap
     let n := s.core.vec.masks.length
     let bad := t0.plv = 3 ∨ modeIllegal t0.emode = true ∨ 16 < t0.emaskd.toNat ∨ n < t0.emaskd.toNat
     (s.core.regs.level = 2 → t0.inh = true → ¬bad →
       ∃ t, exec .tret s = .next t ∧
         t = { s with core := { s.core with
           trap := { t0 with ie := t0.pie, inh := false }
           vec := { s.core.vec with masks := s.core.vec.masks.drop (n - t0.emaskd.toNat) }
           regs := { s.core.regs with
             mode := t0.emode, level := t0.plv, pc := BitVec.ofNat 64 (t0.epc.toNat / 4 * 4), instret := s.core.regs.instret + 1 }
           sync := { s.core.sync with rcnt := t.core.sync.rcnt } } }) ∧
     (s.core.regs.level ≠ 2 ∨ t0.inh = false ∨ bad → TrapsWith .tret s 2 (ownWord .tret))) ∧
  (∀ (s : State) (a : Reg) (m : BitVec 18), Ready s →
     let code := if (xr s a).toNat ≤ 23 then (xr s a).toNat else 2
     let pc : Word := BitVec.ofNat 64 (s.core.trap.epc.toNat / 4 * 4)
     (modeIllegal m = false → ∃ t, exec (.setm m) s = .next t ∧ Advances s t ∧
       t = { s with core := { s.core with
         regs := { s.core.regs with mode := m, pc := t.core.regs.pc, instret := t.core.regs.instret }
         sync := { s.core.sync with rcnt := t.core.sync.rcnt } } }) ∧
     (modeIllegal m = true → TrapsWith (.setm m) s 2 (ownWord (.setm m))) ∧
     (s.core.regs.level ≠ 2 ∨ s.core.trap.inh = false → exec (.contain a) s = .next (settle (containAs s code 0 s.core.regs.pc true))) ∧
     (s.core.regs.level = 2 → s.core.trap.inh = true → exec (.contain a) s =
       .next (settle (containAs (setPc (if tretIllegal s then s else tretSteps s) pc) code s.core.trap.tval pc false))))

/-- R147, R148, R149: CSRR, CSRW, CSRS and CSRC read the CSR into x(d) and write it; CSRS and CSRC with a = 0 only read. An access with
reserved address bits, to no CSR or below the CSR's level, and a write of an illegal MODE, raise cause 2 with the instruction's own word
and write nothing. INSTRET, once written, holds the value written (log 29). -/
def Obligations.CsrAccess : Prop :=
  ∀ (s : State) (d a : Reg) (c : BitVec 13) (old : Word), Ready s →
    let x := xr s a
    let writes := fun (i : Instr) (v : Word) =>
      (c ≠ 0x021 → Goes i s (writeX (csrWrite s c.toNat v) d old)) ∧
      (c = 0x021 → ∃ t, exec i s = .next t ∧ WroteX s t d old ∧ t.core.regs.pc = s.core.regs.pc + 4 ∧ t.core.regs.instret = v ∧ OnlyX s t)
    (CsrLegal s c old →
      Computes (.csrr d c) s d old ∧
      (modeAllows c x → writes (.csrw d a c) x) ∧
      (a ≠ 0 → modeAllows c (old ||| x) → writes (.csrs d a c) (old ||| x)) ∧
      (a ≠ 0 → modeAllows c (old &&& ~~~x) → writes (.csrc d a c) (old &&& ~~~x)) ∧
      (a = 0 → Computes (.csrs d a c) s d old ∧ Computes (.csrc d a c) s d old) ∧
      (c = 0 → modeIllegal (x.extractLsb' 0 18) = true → TrapsWith (.csrw d a c) s 2 (ownWord (.csrw d a c)))) ∧
    ((2 ^ 10 ≤ c.toNat ∨ csrRead s c.toNat = none ∨ s.core.regs.level.toNat < c.toNat / 2 ^ 8 % 4) →
      TrapsWith (.csrr d c) s 2 (ownWord (.csrr d c)) ∧ TrapsWith (.csrw d a c) s 2 (ownWord (.csrw d a c)) ∧
      TrapsWith (.csrs d a c) s 2 (ownWord (.csrs d a c)) ∧ TrapsWith (.csrc d a c) s 2 (ownWord (.csrc d a c)))

/-- R3, R142 to R153, R185, R194: a CSR that was written reads back the bits that software may write, with INH and IPEND of STATUS as
they were and reserved bits 0; a read-only CSR reads as it did. STGV reads back the stage bits of the levels that are active; the others
keep theirs. -/
def Obligations.CsrReadBack : Prop :=
  (∀ (s : State) (c : Nat) (old v : Word), csrRead s c = some old → c ≠ 0x016 →
     csrRead (csrWrite s c v) c = some ((v &&& csrMask c) ||| (old &&& csrKept c))) ∧
  (∀ (s : State) (v : Word) (n j : Nat), n < 6 → j < 8 →
     (stgv (csrWrite s 0x016 v)).getLsbD (8 * n + j) =
       if (loopAt s n).act then v.getLsbD (8 * n + j) && decide (j < (loopAt s n).stages) else (stgv s).getLsbD (8 * n + j))

/-! ## Synchronisation -/

/-- R362, R388: ACQ drops every Valid word of a region in its mask, region 0 always, from the core's L1 and from the levels below that
of its scope, and no other word, and of the fills that earlier PREFs of any core have started the levels that it invalidates (R281); REL makes the
release of its mask and scope. R131, R368, R389: with nothing outstanding FENCE.REMOTE only falls through, FENCE.ALL empties the
instruction cache and the cached gate entries, and FENCE.RANGE drops the Valid words of the core's L1 whose bytes its range names, once no
copy command of the core writes into the range; until then it waits. -/
def Obligations.AcquireReleaseFences : Prop :=
  (∀ (s : State) (a : Reg) (sc : BitVec 2), Ready s →
     (∃ t, exec (.acq a sc) s = .next t ∧ Advances s t ∧ OnlyCaches s t ∧
       t.others = s.others.map (fun c => { c with prefs := c.prefs.filterMap (prefAfter s.core.pos (below (levelOf s s.core.pos sc) (sharedPath s s.core.pos))) }) ∧
       t.core.prefs = s.core.prefs.filterMap (prefAfter s.core.pos (below (levelOf s s.core.pos sc) (sharedPath s s.core.pos))) ∧
       ∀ w, w ∈ t.words ↔ w ∈ s.words ∧ ¬(w.state = .valid ∧ (w.attr.region = 0 ∨ (xr s a).getLsbD w.attr.region.toNat = true) ∧
         (w.level = .l1 s.core.pos ∨ w.level ∈ below (levelOf s s.core.pos sc) (sharedPath s s.core.pos)))) ∧
     (s.core.q.sdq = [] → Goes (.rel a sc) s (release s s.core.pos sc (xr s a ||| 1)))) ∧
  (∀ (s : State) (a b : Reg), Ready s →
     let drops := fun (i : Instr) (base len : Nat) => ∃ t, exec i s = .next t ∧ Advances s t ∧ OnlyCaches s t ∧ t.core.prefs = s.core.prefs ∧
       t.others = s.others ∧
       ∀ w, w ∈ t.words ↔ w ∈ s.words ∧ ¬(w.level = .l1 s.core.pos ∧ w.state = .valid ∧
         ∃ r ∈ rangeKeys s s.core.vf base len, overlaps w.key 4 r.1 r.2 = true)
     GoesTo .fenceRemote s (wordsOn s 1) ∧
     (∃ t, exec .fenceAll s = .next t ∧ Advances s t ∧
       t = { s with core := { s.core with
         icache := []
         gates := []
         regs := { s.core.regs with pc := t.core.regs.pc, instret := t.core.regs.instret }
         sync := { s.core.sync with rcnt := t.core.sync.rcnt } } }) ∧
     (NoCopies s → drops (.fenceRange a b) (xr s a).toNat (xr s b).toNat) ∧
     (fenceHeld s (xr s a).toNat (xr s b).toNat = false → drops (.fenceRange a b) (xr s a).toNat (xr s b).toNat) ∧
     (fenceHeld s (xr s a).toNat (xr s b).toNat = true → exec (.fenceRange a b) s = .next (settle (stall s))))

/-- R391, R392: the sync-variable operations write x(d) with the old value and the variable with their own function of it, under the
release and the acquire that their bits ask for. While every entry of the engine that serves the variable is taken they wait. A variable
that fails a check raises the fault of that check; one that is aligned and reached through the core's own TLB by PLACE 0 to 3 passes. -/
def Obligations.SyncVariables : Prop :=
  ∀ (s s1 : State) (d a b : Reg) (u : BitVec 2) (v l c : BitVec 1) (sc : BitVec 2) (loc : Loc), Quiet s →
    let x := xr s b
    let does := fun (i : Instr) (e : Reg) (f : Word → Option Word) => Goes i s (svLeaves (svBase s1 l sc) loc e c sc f)
    let reads : List Instr := [.svld d a l c sc, .svwait d a b u l c sc]
    let writes : List Instr := [.svst a b l c sc, .svadd d a b v l c sc, .svmax d a b u l c sc, .svmin d a b u l c sc, .svand d a b l c sc,
      .svor d a b l c sc, .svswap d a b l c sc, .svcas d a b l c sc]
    (SvReaches s a l sc .r s1 loc → does (.svld d a l c sc) d fun _ => none) ∧
    (SvReaches s a l sc .w s1 loc →
      does (.svst a b l c sc) 0 (fun _ => some x) ∧
      does (.svadd d a b 0 l c sc) d (fun old => some (old + x)) ∧
      does (.svadd d a b 1 l c sc) d (fun old => some (foldF32 2 old x)) ∧
      does (.svmax d a b 0 l c sc) d (fun old => some (if old.toInt < x.toInt then x else old)) ∧
      does (.svmax d a b 1 l c sc) d (fun old => some (if old.toNat < x.toNat then x else old)) ∧
      does (.svmax d a b 2 l c sc) d (fun old => some (foldF32 4 old x)) ∧
      does (.svmin d a b 0 l c sc) d (fun old => some (if x.toInt < old.toInt then x else old)) ∧
      does (.svmin d a b 1 l c sc) d (fun old => some (if x.toNat < old.toNat then x else old)) ∧
      does (.svmin d a b 2 l c sc) d (fun old => some (foldF32 6 old x)) ∧
      does (.svand d a b l c sc) d (fun old => some (old &&& x)) ∧
      does (.svor d a b l c sc) d (fun old => some (old ||| x)) ∧
      does (.svswap d a b l c sc) d (fun _ => some x) ∧
      does (.svcas d a b l c sc) d (fun old => if old = xr s d then some x else none)) ∧
    (∀ acc i, (acc = .r ∧ i ∈ reads) ∨ (acc = .w ∧ i ∈ writes) →
      ((xr s a).toNat % 8 ≠ 0 → TrapsWith i s (if acc = .r then 4 else 7) (xr s a)) ∧
      ((xr s a).toNat % 8 = 0 → isWindow (xr s a) = true → TrapsWith i s 21 (subcode 1 (xr s a).toNat)) ∧
      (∀ t, svCheck s (xr s a) sc acc = .trap s1 t → exec i s = .next (settle (trapEntry s1 t.code false t.tval s.core.regs.pc))) ∧
      (svCheck s (xr s a) sc acc = .ok s1 loc → (l = 1 → s.core.q.sdq = []) → engineFull s (engineOf s s.core.pos sc loc) = true →
        exec i s = .next (settle (stall (svBase s1 l sc))))) ∧
    (∀ k pte ptePa acc, acc = .r ∨ acc = .w → (xr s a).toNat % 8 = 0 → InTlb s (xr s a) acc (.glob k pte ptePa) → ptePlace pte ≤ 3 →
      svCheck s (xr s a) sc acc = .ok s (.glob k pte ptePa))

/-- R391, R393, R395: SVWAIT completes when its condition holds and parks otherwise; SVLOCK takes a free lock, parks at one that is
held, and raises cause 21 when the strand holds it itself; SVUNLOCK hands the lock to the oldest waiter or frees it, and raises cause 21
when the strand does not hold it. All wait while every entry of the engine that serves the variable is taken (R392). -/
def Obligations.WaitsAndLocks : Prop :=
  ∀ (s s1 : State) (d a b : Reg) (u : BitVec 2) (l c : BitVec 1) (sc : BitVec 2) (loc : Loc), Quiet s →
    let r := svRead (svCount (svBase s1 l sc) loc sc) loc sc
    let q := svRead (svCount s1 loc sc) loc sc
    let free := release q.1 s.core.pos sc allRegions
    let x := xr s b
    let holds := if u = 0 then r.2 = x else if u = 1 then r.2 ≠ x else if u = 2 then x.toInt ≤ r.2.toInt else r.2.toInt < x.toInt
    (SvReaches s a l sc .r s1 loc → holds →
      Goes (.svwait d a b u l c sc) s (writeX (if c = 1 then acquire r.1 allRegions sc else r.1) d r.2)) ∧
    (SvReaches s a l sc .r s1 loc → ¬holds → exec (.svwait d a b u l c sc) s =
      .next (settle (park r.1 loc sc false (.svwait (svPlace loc).1 (svPlace loc).2 sc u x d (c == 1))))) ∧
    (SvReaches s a 0 sc .w s1 loc → q.2 = 0 → exec (.svlock a sc) s = .next (settle (takeLock (svWrite q.1 loc sc 1) loc sc))) ∧
    (SvReaches s a 0 sc .w s1 loc → q.2 ≠ 0 → holdsLock s loc sc = false → exec (.svlock a sc) s =
      .next (settle (park q.1 loc sc true (.svlock (svPlace loc).1 (svPlace loc).2 sc)))) ∧
    (SvReaches s a 0 sc .w s1 loc → holdsLock s loc sc = true → s.core.q.sdq = [] → nextLocker s loc sc = none →
      Goes (.svunlock a sc) s (svWrite (dropHolder free loc sc) loc sc 0)) ∧
    (∀ p, SvReaches s a 0 sc .w s1 loc → holdsLock s loc sc = true → s.core.q.sdq = [] → nextLocker s loc sc = some p →
      Goes (.svunlock a sc) s (asCore free p.core fun k => takeLock k loc (lockScope k))) ∧
    (SvReaches s a 0 sc .w s1 loc → q.2 ≠ 0 → holdsLock s loc sc = true →
      exec (.svlock a sc) s = .next (settle (trapEntry q.1 21 false (subcode 3 (xr s a).toNat) s.core.regs.pc))) ∧
    (SvReaches s a 0 sc .w s1 loc → holdsLock s loc sc = false →
      exec (.svunlock a sc) s = .next (settle (trapEntry q.1 21 false (subcode 2 (xr s a).toNat) s.core.regs.pc))) ∧
    (∀ t, svCheck s (xr s a) sc .w = .trap s1 t →
      exec (.svlock a sc) s = .next (settle (trapEntry s1 t.code false t.tval s.core.regs.pc)) ∧
      exec (.svunlock a sc) s = .next (settle (trapEntry s1 t.code false t.tval s.core.regs.pc))) ∧
    (svCheck s (xr s a) sc .w = .ok s1 loc → engineFull s (engineOf s s.core.pos sc loc) = true →
      exec (.svlock a sc) s = .next (settle (stall s1)) ∧ exec (.svunlock a sc) s = .next (settle (stall s1)))

/-- R396, R403: BAR outside a phase releases at its scope, arrives and waits, and so does SSTEP, which closes an open phase first; BAR
in an exchange phase raises cause 21 subcode 10, a barrier by a task subcode 11, over more than one wave subcode 4, and SSTEP without
the launch's SSTEP flag subcode 5. R397, R398: TRIG releases the launch's TREG at DEVICE scope and counts the strand's trigger once, and
raises cause 21 subcode 6 when the launch expects none; LAUNCH releases, appends the record to the queue of its priority and returns the
LID, or returns 0; it waits while a page that the append writes is being copied (R117). R416: where the open phase alone has kept the
core from a gang switch, SSTEP closes the phase and does no more. That a task gets subcode 11 whatever the number of waves, and that 10 is
tested before 11, is deduced (DEDUCED, log 37). -/
def Obligations.BarriersTriggersLaunches : Prop :=
  (∀ (s : State) (l : Launch), Quiet s → s.core.q.sdq = [] → myLaunch s = some l →
     let arrives := fun (u : State) (form : BitVec 2) (sstep : Bool) =>
       let r := release u u.core.pos form allRegions
       setSync r { u.core.sync with arrived := some form, arrivedStep := sstep, passed := none, wait := some (.barrier form sstep) }
     let ready := s.core.sync.phase = none ∧ s.core.occ ≠ .task ∧ s.core.sync.arrived = none
     (ready → manyWaves s l 0 s.core.pos = false → exec .barCluster s = .next (settle (arrives s 0 false))) ∧
     (ready → manyWaves s l 1 s.core.pos = false → exec .barDie s = .next (settle (arrives s 1 false))) ∧
     (ready → manyWaves s l 2 s.core.pos = false → exec .barLaunch s = .next (settle (arrives s 2 false))) ∧
     let closed := setSync s { s.core.sync with phase := none }
     let goes := s.core.sync.phase = none ∨ switchDue s s.core = false ∨ s.core.sync.npr = true
     (goes → s.core.occ ≠ .task → s.core.sync.arrived = none → recSstep l.record = true → manyWaves s l 2 s.core.pos = false →
       exec .sstep s = .next (settle (arrives closed 2 true))) ∧
     (¬goes → s.core.occ ≠ .task → recSstep l.record = true → exec .sstep s = .next (settle closed)) ∧
     (s.core.occ = .task → recSstep l.record = true → TrapsWith .sstep s 21 (subcode 11 0)) ∧
     (s.core.sync.phase.isSome = true → TrapsWith .barCluster s 21 (subcode 10 0) ∧ TrapsWith .barDie s 21 (subcode 10 0) ∧
       TrapsWith .barLaunch s 21 (subcode 10 0)) ∧
     (ready → manyWaves s l 0 s.core.pos = true → TrapsWith .barCluster s 21 (subcode 4 0)) ∧
     (ready → manyWaves s l 1 s.core.pos = true → TrapsWith .barDie s 21 (subcode 4 0)) ∧
     (ready → recSstep l.record = true → manyWaves s l 2 s.core.pos = true → TrapsWith .sstep s 21 (subcode 4 0)) ∧
     (s.core.sync.phase = none → s.core.occ = .task → TrapsWith .barCluster s 21 (subcode 11 0) ∧ TrapsWith .barDie s 21 (subcode 11 0) ∧
       TrapsWith .barLaunch s 21 (subcode 11 0)) ∧
     (ready → manyWaves s l 2 s.core.pos = true → TrapsWith .barLaunch s 21 (subcode 4 0)) ∧
     (recSstep l.record = false → TrapsWith .sstep s 21 (subcode 5 0))) ∧
  (∀ (s : State) (l : Launch) (d a : Reg), Quiet s → s.core.q.sdq = [] → myLaunch s = some l →
     let r := release s s.core.pos 2 l.record.treg
     let q := release s s.core.pos 2 allRegions
     let p := readPrio q (xr s a)
     (recTrigexp l.record = true → s.core.occ ≠ .task → s.core.sync.triggered = false →
       Goes .trig s (triggerDec (setSync r { s.core.sync with triggered := true }) l.lid 1 false)) ∧
     (recTrigexp l.record = true → s.core.occ ≠ .task → s.core.sync.triggered = true → Goes .trig s r) ∧
     (recTrigexp l.record = false → TrapsWith .trig s 21 (subcode 6 0)) ∧
     (recTrigexp l.record = true → s.core.occ = .task → TrapsWith .trig s 21 (subcode 11 0)) ∧
     (p.2 = none → Goes (.launch d a) s (writeX p.1 d 0)) ∧
     (∀ n, p.2 = some n →
       (∀ w, appendWaits p.1 s.core.vf n (xr s a) = some w → exec (.launch d a) s = .next (settle (stall w))) ∧
       (∀ e, appendWaits p.1 s.core.vf n (xr s a) = none → append p.1 s.core.vf n (xr s a) = some e → Goes (.launch d a) s (writeX e.1 d e.2)) ∧
       (appendWaits p.1 s.core.vf n (xr s a) = none → append p.1 s.core.vf n (xr s a) = none → Goes (.launch d a) s (writeX p.1 d 0))))

/-- R399, R400, R401: INBOX takes the oldest message of its source; with none, WAIT waits or raises cause 21 subcode 7 when no command
is outstanding, and POLL returns all ones. WFI falls through while a code is pending or none is enabled, and else waits. NPRB opens a
region and NPRE closes it; a second NPRB and an NPRE without a region raise cause 21. -/
def Obligations.InboxAndRegions : Prop :=
  ∀ (s : State) (d : Reg), Ready s →
    let y := s.core.sync
    let hasNone := y.inbox = []
    (∀ m rest, y.inbox = m :: rest →
      Goes (.inboxWait d 0) s (writeX (dequeue s m rest) d m.value) ∧ Goes (.inboxPoll d 0) s (writeX (dequeue s m rest) d m.value)) ∧
    (∀ v, y.drvmsg = some v →
      Goes (.inboxWait d 1) s (writeX (setSync s { y with drvmsg := none }) d v) ∧
      Goes (.inboxPoll d 1) s (writeX (setSync s { y with drvmsg := none }) d v)) ∧
    (hasNone → Computes (.inboxPoll d 0) s d (BitVec.allOnes 64)) ∧
    (y.drvmsg = none → Computes (.inboxPoll d 1) s d (BitVec.allOnes 64)) ∧
    (hasNone → y.outstanding ≠ 0 → exec (.inboxWait d 0) s = .next (setSync s { y with wait := some (.inbox d false) })) ∧
    (hasNone → y.outstanding = 0 → TrapsWith (.inboxWait d 0) s 21 (subcode 7 0)) ∧
    (y.drvmsg = none → exec (.inboxWait d 1) s = .next (setSync s { y with wait := some (.inbox d true) })) ∧
    (s.core.trap.ien = 0 ∨ ipend s &&& s.core.trap.ien ≠ 0 → GoesTo .wfi s (wordsOn s 1)) ∧
    (s.core.trap.ien ≠ 0 → ipend s &&& s.core.trap.ien = 0 → exec .wfi s = .next (setSync s { y with wait := some .wfi })) ∧
    (y.npr = false → y.phase = none → Goes .nprb s (setSync s { y with npr := true })) ∧
    (y.npr = true ∨ y.phase.isSome = true → TrapsWith .nprb s 21 (subcode 8 0)) ∧
    (y.npr = true → Goes .npre s (setSync s { y with npr := false })) ∧
    (y.npr = false → TrapsWith .npre s 21 (subcode 9 0))

/-! ## The vector queue -/

/-- R138, R161, R252: a queued instruction whose mode word is illegal for it raises cause 2 with its own word; one that breaks a count
of R252 raises cause 14 with the subcode; any other that is no early load is appended, captures its operands and moves the counts. The
model's pace keeps at least one entry back here (log 9). R161, R169, R243: the turn of a queued instruction, whatever it is but an early
load: when it completes, the instruction has completed; when it traps, the trap is taken at VCP; when it has not started, it stays
outstanding. The pace keeps nothing back here (log 9). -/
def Obligations.QueuedInstructions : Prop :=
  (∀ (s : State) (i : Instr), Ready s → (unitOf i).isSome = true →
     (modeOk s.core.regs.mode i = false → TrapsWith i s 2 (ownWord i)) ∧
     (∀ n, modeOk s.core.regs.mode i = true → enqueueSub s i = some n → TrapsWith i s 14 (subcode n 0)) ∧
     (modeOk s.core.regs.mode i = true → enqueueSub s i = none → isEarlyLoad i = false → 1 ≤ s.pace.queue →
       exec i s = .next (appended s i))) ∧
  (∀ (s : State) (i : Instr), (unitOf i).isSome = true → ReadyQ i s → isEarlyLoad i = false →
     (∀ u, runEntry (capture s i) (appended s i) = .done u → KeptQueues (capture s i) u → TurnMakes i s u) ∧
     (∀ u t keep, runEntry (capture s i) (appended s i) = .trap u t keep → TurnTraps i s u t keep) ∧
     (∀ u, runEntry (capture s i) (appended s i) = .blocked u → u.core.q.queue = [capture s i] → TurnWaits i s u))

/-! ## Vector arithmetic -/

/-- R257: the vector arithmetic instructions compute every active lane from its exact value, rounded once, or as an integer of the TYPE
with saturation when SAT is set, VDIV with the corner cases of R173; inactive lanes keep their value, and the flags are those of the
active lanes. -/
def Obligations.VectorArithmetic : Prop :=
  ∀ (s : State) (d a b : Reg) (x : BitVec 1),
    let m := s.core.regs.mode
    let ty := typeNow s
    let w := widthNow s
    let p := laneA s a w
    let q := laneB s b x w
    let r := laneA s d w
    let binary := fun (i : Instr) (ff : Ex → Ex → Ex × Flags) (fi : Int → Int → Nat × Flags) =>
      ReadyQ i s →
        (∀ f, typeFmt ty = some f → Lanewise i s d w fun j rnd =>
          rounded f m rnd (ff (f.decode (p j)) (f.decode (q j))) (f.snan (p j) || f.snan (q j))) ∧
        (typeFmt ty = none → Lanewise i s d w fun j _ => fi (intElem ty (p j)) (intElem ty (q j)))
    let fused := fun (i : Instr) (np na : Bool) =>
      ReadyQ i s →
        (∀ f, typeFmt ty = some f → Lanewise i s d w fun j rnd =>
          let v := exMul (f.decode (p j)) (f.decode (q j))
          let t := exAdd (mRm m) (if np then v.1.negate else v.1) (if na then (f.decode (r j)).negate else f.decode (r j))
          rounded f m rnd (t.1, v.2 ||| t.2) (f.snan (p j) || f.snan (q j) || f.snan (r j))) ∧
        (typeFmt ty = none → Lanewise i s d w fun j _ =>
          let v := intElem ty (p j) * intElem ty (q j)
          intResult ty (mSat m) ((if np then -v else v) + (if na then -intElem ty (r j) else intElem ty (r j))))
    binary (.vadd d a b x) (exAdd (mRm m)) (fun u v => intResult ty (mSat m) (u + v)) ∧
    binary (.vsub d a b x) (fun u v => exAdd (mRm m) u v.negate) (fun u v => intResult ty (mSat m) (u - v)) ∧
    binary (.vmul d a b x) exMul (fun u v => intResult ty (mSat m) (u * v)) ∧
    binary (.vdiv d a b x) exDiv (fun u v => (if v = 0 then 2 ^ typeBits ty - 1 else wrapBits (typeBits ty) (Int.tdiv u v), 0)) ∧
    fused (.vfma d a b x) false false ∧
    fused (.vfms d a b x) false true ∧
    fused (.vfnma d a b x) true false ∧
    (ReadyQ (.vsqrt d a) s → ∀ f, typeFmt ty = some f → Lanewise (.vsqrt d a) s d w fun j rnd =>
      rounded f m rnd (exSqrt (f.decode (p j))) (f.snan (p j)))

/-- R258, R259: VMIN, VMAX, VABS, VNEG and VCLAMP on floats without rounding, on integers of the TYPE; VRCP, VRSQ, VEXP2 and VLOG2 round
their value to 12 significant bits and then to the TYPE. -/
def Obligations.VectorOrderAndFunctions : Prop :=
  ∀ (s : State) (d a b : Reg) (x : BitVec 1),
    let m := s.core.regs.mode
    let ty := typeNow s
    let w := widthNow s
    let p := laneA s a w
    let q := laneB s b x w
    let r := laneA s d w
    let exact := fun (f : Fmt) (v : Ex) (sn : Bool) => ((roundTo f 1 false 0 v).1, flagIf sn flagNV)
    let order := fun (i : Instr) (ff : Ex → Ex → Ex) (fi : Int → Int → Int) =>
      ReadyQ i s →
        (∀ f, typeFmt ty = some f → Lanewise i s d w fun j _ =>
          exact f (ff (f.decode (p j)) (f.decode (q j))) (f.snan (p j) || f.snan (q j))) ∧
        (typeFmt ty = none → Lanewise i s d w fun j _ => (wrapBits w (fi (intElem ty (p j)) (intElem ty (q j))), 0))
    let sign := fun (i : Instr) (ff : Ex → Ex) (fi : Int → Int) =>
      ReadyQ i s →
        (∀ f, typeFmt ty = some f → Lanewise i s d w fun j _ => exact f (ff (f.decode (p j))) (f.snan (p j))) ∧
        (typeFmt ty = none → Lanewise i s d w fun j _ => intResult ty (mSat m) (fi (intElem ty (p j))))
    let approx := fun (i : Instr) (op : Nat) =>
      ReadyQ i s → ∀ f, typeFmt ty = some f → Lanewise i s d w fun j rnd =>
        let y := approxValue op (f.decode (p j))
        let z := approxRound f (mRm m) (mSat m) rnd y.1
        (z.1, z.2 ||| y.2 ||| flagIf (f.snan (p j)) flagNV)
    order (.vmin d a b x) exMin (fun u v => if u < v then u else v) ∧
    order (.vmax d a b x) exMax (fun u v => if u < v then v else u) ∧
    sign (.vabs d a) Ex.abs (fun u => (u.natAbs : Int)) ∧
    sign (.vneg d a) Ex.negate (fun u => -u) ∧
    (ReadyQ (.vclamp d a b x) s →
      (∀ f, typeFmt ty = some f → Lanewise (.vclamp d a b x) s d w fun j _ =>
        let v := f.decode (r j)
        exact f (if v.isNan then .nan else exMin (exMax v (f.decode (p j))) (f.decode (q j)))
          (f.snan (p j) || f.snan (q j) || f.snan (r j))) ∧
      (typeFmt ty = none → Lanewise (.vclamp d a b x) s d w fun j _ =>
        let t := if intElem ty (r j) < intElem ty (p j) then intElem ty (p j) else intElem ty (r j)
        (wrapBits w (if intElem ty (q j) < t then intElem ty (q j) else t), 0))) ∧
    approx (.vrcp d a) 0 ∧
    approx (.vrsq d a) 1 ∧
    approx (.vexp2 d a) 2 ∧
    approx (.vlog2 d a) 3

/-- R260, R262: the instructions on the bits of lanes, VSEL, VMOV, VBC and VIOTA, which raise no flag; VMOV under MXFP4 copies the whole
register, and its scale fields too unless it is a push. R261: VCMP sets bit i of k(d) when lane i is active and its condition holds, and
clears every other bit; a write of k0 is discarded. The ordered conditions raise NV for any NaN, the others for a signalling one. -/
def Obligations.VectorBits : Prop :=
  (∀ (s : State) (d a b : Reg) (x : BitVec 1) (k : BitVec 3),
     let ty := typeNow s
     let w := widthNow s
     let p := laneA s a w
     let q := laneB s b x w
     let bits := fun (i : Instr) (f : Nat → Nat) => ReadyQ i s → Lanewise i s d w fun j _ => (f j, 0)
     bits (.vand d a b x) (fun j => p j &&& q j) ∧
     bits (.vor d a b x) (fun j => p j ||| q j) ∧
     bits (.vxor d a b x) (fun j => p j ^^^ q j) ∧
     bits (.vsll d a b x) (fun j => p j * 2 ^ (q j % w)) ∧
     bits (.vsrl d a b x) (fun j => p j / 2 ^ (q j % w)) ∧
     bits (.vsra d a b x) (fun j => wrapBits w (signedOf w (p j) / (2 ^ (q j % w) : Nat))) ∧
     bits (.vmulh d a b x) (fun j => wrapBits w (intElem ty (p j) * intElem ty (q j) / (2 ^ w : Nat))) ∧
     bits (.vsel d a b x k) (fun j => if k = 0 ∨ ((s.core.vec.k[k.toNat]?).getD 0).getLsbD j = true then p j else q j) ∧
     (ty ≠ 10 → bits (.vmov d a) p) ∧
     (ty = 10 → ReadyQ (.vmov d a) s → d ≠ 31 → Yields (.vmov d a) s fun u => setScales (setV u d (vNow s a)) d (scalesOf s a)) ∧
     (ty = 10 → ReadyQ (.vmov 31 a) s → Yields (.vmov 31 a) s fun u => tookV u s.core.q.qnext 31 (vNow s a)) ∧
     bits (.vbc d a) (fun _ => (xr s a).toNat) ∧
     (∀ f, typeFmt ty = some f → bits (.viota d) fun j => (roundTo f 1 false 0 (Ex.ofInt j)).1) ∧
     (typeFmt ty = none → bits (.viota d) fun j => j)) ∧
  (∀ (s : State) (d : BitVec 3) (a b : Reg) (x : BitVec 1) (c : BitVec 4), ReadyQ (.vcmp d a b x c) s →
     let ty := typeNow s
     let w := widthNow s
     let p := laneA s a w
     let q := laneB s b x w
     let rel := fun (eq lt gt un : Prop) =>
       (c = 0 ∧ eq) ∨ (c = 1 ∧ ¬eq) ∨ (c = 2 ∧ lt) ∨ (c = 3 ∧ (lt ∨ eq)) ∨ (c = 4 ∧ gt) ∨ (c = 5 ∧ (gt ∨ eq)) ∨ (c = 6 ∧ un)
     ∃ t v, exec (.vcmp d a b x c) s = .next t ∧
       t = setRegs (setK (passed (.vcmp d a b x c) s t) d v) { (passed (.vcmp d a b x c) s t).core.regs with fflags := t.core.regs.fflags } ∧
       (∀ j, v.getLsbD j = true → j < laneCount w) ∧
       (∀ f, typeFmt ty = some f → c.toNat ≤ 6 →
         (∀ j, j < laneCount w → (v.getLsbD j = true ↔ (activeNow s).getLsbD j = true ∧
           rel ((f.decode (p j)).eq (f.decode (q j)) = true) ((f.decode (p j)).lt (f.decode (q j)) = true)
             ((f.decode (q j)).lt (f.decode (p j)) = true) ((f.decode (p j)).isNan = true ∨ (f.decode (q j)).isNan = true))) ∧
         RaisedBy s t (activeNow s) (laneCount w) fun j =>
           flagIf (f.snan (p j) || f.snan (q j) ||
             (decide (2 ≤ c.toNat ∧ c.toNat ≤ 5) && ((f.decode (p j)).isNan || (f.decode (q j)).isNan))) flagNV) ∧
       (typeFmt ty = none → c.toNat ≤ 5 → t.core.regs.fflags = s.core.regs.fflags ∧
         ∀ j, j < laneCount w → (v.getLsbD j = true ↔ (activeNow s).getLsbD j = true ∧
           rel (intElem ty (p j) = intElem ty (q j)) (intElem ty (p j) < intElem ty (q j)) (intElem ty (q j) < intElem ty (p j)) False)))

/-! ## Conversion, permutation, reductions, masks and scales -/

/-- R263: VCVT converts n = 512 / max(ws, wd) elements between TYPEs: position j, active under GUARD, takes source element sbase + j to
destination element dbase + j, a block scale multiplying an MXFP4 source and dividing an MXFP4 result; every other element keeps its
value, and the draws are taken for positions 0 to n − 1 in order. R264, R265: VCVTN expands codes of v(a) to 64 E4M3 lanes, INT4 and FP6
codes to their own value and CB4 codes through the codebook, with no flag and no draw; LDCB sets the codebook from the bytes of x(a) and
x(b). -/
def Obligations.Conversions : Prop :=
  (∀ (s : State) (d a : Reg) (p : BitVec 3) (src : BitVec 4),
     let i : Instr := .vcvt d a p src
     let m := s.core.regs.mode
     let ty := typeNow s
     let wd := typeBits ty
     let ws := typeBits src.toNat
     let n := 512 / Nat.max ws wd
     let sbase := if ws < wd then p.toNat * n else 0
     let dbase := if wd < ws then p.toNat * n else 0
     let scale := fun (r : Reg) (k : Nat) => scaleValue ((scalesOf s r)[k / 32]?.getD 0)
     let elem := fun (k : Nat) => lane (vNow s a) ws k
     let value := fun (k : Nat) => match typeFmt src.toNat with
       | some f => if src = 10 then (exMul (f.decode (elem k)) (scale a k)).1 else f.decode (elem k)
       | none => Ex.ofInt (intElem src.toNat (elem k))
     let sn := fun (k : Nat) => match typeFmt src.toNat with
       | some f => src != 10 && f.snan (elem k)
       | none => false
     let result := fun (j rnd : Nat) => match typeFmt ty with
       | some f =>
         let v := value (sbase + j)
         rounded f m rnd (if ty = 10 then (exDiv v (scale d (dbase + j))).1 else v, 0) (sn (sbase + j))
       | none => if isFloat src.toNat then intFromFloat ty (mRm m) rnd (value (sbase + j))
         else intResult ty (mSat m) (intElem src.toNat (elem (sbase + j)))
     ReadyQ i s → i.wellFormed = true →
       ∃ t, exec i s = .next t ∧ OnlyV i s t d ∧ t.core.regs.srseed = (drawn i s n).1 ∧
         (∀ j, j < n → (activeNow s).getLsbD j = true →
           lane (newV t d) wd (dbase + j) = (result j (laneOf (drawn i s n).2 j)).1 % 2 ^ wd) ∧
         (∀ k, k < 512 / wd → (∀ j, j < n → (activeNow s).getLsbD j = true → k ≠ dbase + j) → lane (newV t d) wd k = lane (oldV s d) wd k) ∧
         RaisedBy s t (activeNow s) n fun j => (result j (laneOf (drawn i s n).2 j)).2) ∧
  (∀ (s : State) (d a b : Reg) (h : BitVec 1) (f : BitVec 2),
     let code4 := lane (vNow s a) 4
     let code6 := lane (vNow s a) 6
     let to8 := fun (v : Ex) => (roundTo e4m3 1 false 0 v).1
     let value := fun (j : Nat) =>
       if f = 0 then to8 (Ex.ofInt (signedOf 4 (code4 (64 * h.toNat + j))))
       else if f = 1 then to8 (e3m2.decode (code6 j))
       else if f = 2 then to8 (e2m3.decode (code6 j))
       else (s.core.vec.codebook[code4 (64 * h.toNat + j)]?.getD 0).toNat
     (ReadyQ (.vcvtn d a h f) s → ∃ t, exec (.vcvtn d a h f) s = .next t ∧ OnlyV (.vcvtn d a h f) s t d ∧
       t.core.regs.fflags = s.core.regs.fflags ∧ t.core.regs.srseed = s.core.regs.srseed ∧ LanesAre s t d 8 (activeNow s) value) ∧
     (ReadyQ (.ldcb a b) s → ∃ cb : Vector Byte 16,
       Yields (.ldcb a b) s (fun u => setVec u { u.core.vec with codebook := cb }) ∧
         ∀ c, c < 8 → cb[c]? = some ((xr s a).extractLsb' (8 * c) 8) ∧ cb[c + 8]? = some ((xr s b).extractLsb' (8 * c) 8)))

/-- R266, R268: the permutations write the active lanes of d with lanes of their sources, with no flag and no draw; VINS writes one lane
whatever GUARD says. R267, R268: the reductions over the active lanes of a, and VMVX, write x(d): VREDADD the exact sum rounded once, or
the integer sum as I64; VREDMAX and VREDMIN the extreme lane, or the end of the TYPE when no lane is active; VMVX one lane, extended. -/
def Obligations.PermuteAndReduce : Prop :=
  (∀ (s : State) (d a b : Reg) (x h : BitVec 1),
     let w := widthNow s
     let n := laneCount w
     let p := laneA s a w
     let q := laneA s b w
     let c := (xr s b).toNat
     let moves := fun (i : Instr) (f : Nat → Nat) => ReadyQ i s → Lanewise i s d w fun j _ => (f j, 0)
     moves (.vperm d a b x) (fun j => p (laneB s b x w j % n)) ∧
     moves (.vslideUp d a b) (fun j => if c ≤ j then p (j - c) else 0) ∧
     moves (.vslideDn d a b) (fun j => if j + c < n then p (j + c) else 0) ∧
     moves (.vzip d a b h) (fun j => if j % 2 = 0 then p (j / 2 + h.toNat * (n / 2)) else q (j / 2 + h.toNat * (n / 2))) ∧
     moves (.vunzip d a b h) (fun j => if j < n / 2 then p (2 * j + h.toNat) else q (2 * (j - n / 2) + h.toNat)) ∧
     (ReadyQ (.vins d a b) s → (Instr.vins d a b).wellFormed = true → ∃ v,
       Yields (.vins d a b) s (fun u => setV u d v) ∧
         ∀ j, j < n → lane v w j = if j = c % n then (xr s a).toNat % 2 ^ w else lane (s.core.vec.v.get d.toFin) w j)) ∧
  (∀ (s : State) (d a b : Reg),
     let m := s.core.regs.mode
     let ty := typeNow s
     let w := widthNow s
     let ls := ((List.range (laneCount w)).filter fun j => (activeNow s).getLsbD j).map (laneA s a w)
     let seed := s.core.regs.srseed
     let lanes := ls.map (intElem ty)
     let p := laneA s a w ((xr s b).toNat % laneCount w)
     (ReadyQ (.vredadd d a) s →
       (∀ f, typeFmt ty = some f →
         let dr := drawn (.vredadd d a) s 1
         let r := rounded f m (laneOf dr.2 0) (sumFloats (mRm m) (ls.map f.decode)) (ls.any f.snan)
         YieldsX (.vredadd d a) s d (BitVec.ofNat 64 r.1) r.2 dr.1) ∧
       (typeFmt ty = none →
         let r := intResult 4 (mSat m) lanes.sum
         YieldsX (.vredadd d a) s d (BitVec.ofNat 64 r.1) r.2 seed)) ∧
     (ReadyQ (.vredmax d a) s →
       (∀ f, typeFmt ty = some f → YieldsX (.vredmax d a) s d
         (BitVec.ofNat 64 (roundTo f 1 false 0 ((extreme exMax (ls.map f.decode)).getD (.inf true))).1) (flagIf (ls.any f.snan) flagNV) seed) ∧
       (typeFmt ty = none → ∃ v, YieldsX (.vredmax d a) s d (BitVec.ofInt 64 v) 0 seed ∧
         (∀ u ∈ lanes, u ≤ v) ∧ (v ∈ lanes ∨ lanes = [] ∧ v = (intRange ty).1))) ∧
     (ReadyQ (.vredmin d a) s →
       (∀ f, typeFmt ty = some f → YieldsX (.vredmin d a) s d
         (BitVec.ofNat 64 (roundTo f 1 false 0 ((extreme exMin (ls.map f.decode)).getD (.inf false))).1) (flagIf (ls.any f.snan) flagNV) seed) ∧
       (typeFmt ty = none → ∃ v, YieldsX (.vredmin d a) s d (BitVec.ofInt 64 v) 0 seed ∧
         (∀ u ∈ lanes, v ≤ u) ∧ (v ∈ lanes ∨ lanes = [] ∧ v = (intRange ty).2))) ∧
     (ReadyQ (.vmvx d a b) s → YieldsX (.vmvx d a b) s d (if intType ty then BitVec.ofInt 64 (intElem ty p) else BitVec.ofNat 64 p) 0 seed))

/-- R249, R269, R270, R272: the mask stack, the mask registers, a write to k0 being discarded and k0 reading as all ones, and the scale
fields. -/
def Obligations.MasksAndScales : Prop :=
  ∀ (s : State) (d a : Reg) (k e g n st : BitVec 3) (j : BitVec 2),
    let ms := s.core.vec.masks
    let seed := s.core.regs.srseed
    let sets := fun (i : Instr) (v : Word) => ReadyQ i s → Yields i s fun u => setK u k v
    let p := kReg s e
    let q := kReg s g
    (ReadyQ (.mpush e) s → Yields (.mpush e) s fun u => setMasks u ((maskTop ms &&& p) :: ms)) ∧
    (ReadyQ .minv s → ∃ top below, ms = top :: below ∧
      Yields .minv s fun u => setMasks u ((below.headD (BitVec.allOnes 64) &&& ~~~top) :: below)) ∧
    (ReadyQ .mpop s → ms ≠ [] ∧ Yields .mpop s fun u => setMasks u ms.tail) ∧
    (ReadyQ (.mstg st n) s → Yields (.mstg st n) s fun u =>
      setMasks u ((if (stgv s).getLsbD (8 * n.toNat + st.toNat) then BitVec.allOnes 64 else 0) :: ms)) ∧
    sets (.kmovKx k a) (xr s a) ∧
    sets (.kmovKt k) (ms.headD (BitVec.allOnes 64)) ∧
    sets (.kopAnd k e g) (p &&& q) ∧
    sets (.kopOr k e g) (p ||| q) ∧
    sets (.kopXor k e g) (p ^^^ q) ∧
    sets (.kopAndn k e g) (p &&& ~~~q) ∧
    (ReadyQ (.kmovXk d e) s → YieldsX (.kmovXk d e) s d p 0 seed) ∧
    (ReadyQ (.vsclSet d a j) s → Yields (.vsclSet d a j) s fun u =>
      setScales u d (vset (scalesOf s d) j.toNat ((xr s a).extractLsb' 0 20))) ∧
    (ReadyQ (.vsclSeta d a) s → Yields (.vsclSeta d a) s fun u => setScales u d (Vector.replicate 4 ((xr s a).extractLsb' 0 20))) ∧
    (ReadyQ (.vsclGet d a j) s → YieldsX (.vsclGet d a j) s d (((scalesOf s a)[j.toNat]).setWidth 64) 0 seed)

/-! ## Vector memory -/

/-- R250, R251, R280, R283 to R288: the vector loads from the core's own banks. VLD, VLDS and VLDG write the active lanes of v(d), of a
push, or of an LDQ entry; VLDMX writes the active blocks and their scale fields. A misaligned contiguous access raises cause 4. -/
def Obligations.VectorLoads : Prop :=
  ∀ (s : State) (d a b : Reg) (o : BitVec 13) (n : BitVec 2) (k : Nat → Nat),
    let w := widthNow s
    let act := activeNow s
    let x := xr s a
    let base := x + BitVec.ofInt 64 o.toInt
    let reads := fun (i : Instr) (va : Nat → Word) =>
      ReadyQ i s → NoCopies s → (∀ j, j < laneCount w → act.getLsbD j = true → CleanBank s (va j) (w / 8) (k j)) →
        (d ≠ 30 → Lanewise i s d w fun j _ => (Memory.le s.mem (k j) (w / 8), 0)) ∧
        (d = 30 → LdqRoom i s → FillsLdq i s w act fun j => Memory.le s.mem (k j) (w / 8))
    let lanewise := fun (i : Instr) (va : Nat → Word) => s.core.regs.lanedone = 0 →
      (∀ j, j < laneCount w → act.getLsbD j = true → sameKind s.core.pos x (va j) = true) → reads i va
    (base.toNat % (w / 8) = 0 → reads (.vld d a o) fun j => base + BitVec.ofNat 64 (j * (w / 8))) ∧
    lanewise (.vlds d a b) (fun j => x + BitVec.ofNat 64 j * xr s b) ∧
    lanewise (.vldg d a b n) (fun j => x + (BitVec.ofInt 64 (signedOf w (laneA s b w j)) <<< n.toNat)) ∧
    (ReadyQ (.vld d a o) s → d ≠ 30 → base.toNat % (w / 8) ≠ 0 → TurnTraps (.vld d a o) s (appended s (.vld d a o)) ⟨4, base⟩ false) ∧
    (ReadyQ (.vldmx d a b) s → d ≠ 30 → NoCopies s → ∀ h : Nat → Nat,
      let sn := if mSfmt s.core.regs.mode then 4 else 1
      (xr s b).toNat % sn = 0 → x.toNat % 16 = 0 →
      (∀ j, j < 4 → act.getLsbD j = true → CleanBank s (x + BitVec.ofNat 64 (16 * j)) 16 (k j) ∧
        CleanBank s (xr s b + BitVec.ofNat 64 (sn * j)) sn (h j)) →
      ∃ (t : State) (v : VWord) (sc : Vector Scale 4), exec (.vldmx d a b) s = .next t ∧
        t = (if d = 31 then tookV (passed (.vldmx d a b) s t) s.core.q.qnext 31 v
          else setScales (setV (passed (.vldmx d a b) s t) d v) d sc) ∧
        ∀ j, j < 4 → lane v 128 j = (if act.getLsbD j then Memory.le s.mem (k j) 16 else lane (oldV s d) 128 j) ∧
          sc[j]? = (if act.getLsbD j then some (if sn = 4 then BitVec.ofNat 20 (Memory.le s.mem (h j) 4)
            else scaleOfByte (BitVec.ofNat 8 (Memory.le s.mem (h j) 1))) else (scalesOf s d)[j]?)) ∧
    (ReadyQ (.vldmx d a b) s → d ≠ 30 → x.toNat % 16 ≠ 0 → TurnTraps (.vldmx d a b) s (appended s (.vldmx d a b)) ⟨4, x⟩ false)

/-- R251, R280, R283, R285, R286: the vector stores to the core's own banks write the active lanes of v(d), of the LDQ entry that v30 reads,
or of the oldest push, in ascending order of lanes. A misaligned contiguous store raises cause 7. -/
def Obligations.VectorStores : Prop :=
  ∀ (s : State) (d a b : Reg) (o : BitVec 13) (n : BitVec 2) (k : Nat → Nat),
    let w := widthNow s
    let act := activeNow s
    let x := xr s a
    let base := x + BitVec.ofInt 64 o.toInt
    let data := fun (j : Nat) => lane (storedNow s d) w j
    let writes := fun (i : Instr) (va : Nat → Word) =>
      ReadyQ i s → NoCopies s → Memory.wf s.mem = true →
      (∀ j, j < laneCount w → act.getLsbD j = true → (va j).toNat % (w / 8) = 0 ∧ OwnBank s (va j) (k j)) →
        StoresLanes i s d (w / 8) (laneCount w) act k data
    let lanewise := fun (i : Instr) (va : Nat → Word) => s.core.regs.lanedone = 0 →
      (∀ j, j < laneCount w → act.getLsbD j = true → sameKind s.core.pos x (va j) = true) → writes i va
    (base.toNat % (w / 8) = 0 → writes (.vst d a o) fun j => base + BitVec.ofNat 64 (j * (w / 8))) ∧
    lanewise (.vsts d a b) (fun j => x + BitVec.ofNat 64 j * xr s b) ∧
    lanewise (.vstg d a b n) (fun j => x + (BitVec.ofInt 64 (signedOf w (laneA s b w j)) <<< n.toNat)) ∧
    (ReadyQ (.vst d a o) s → base.toNat % (w / 8) ≠ 0 → TurnTraps (.vst d a o) s (appended s (.vst d a o)) ⟨7, base⟩ false)

/-- R280, R286, R287: a lane-addressed access with faulting lanes, each misaligned, of another kind than x(a), or one whose translation faults,
raises cause 13 with the address of the lowest of them, and LANEDONE holds the lanes that were done before or are performed here. A load keeps
the values of those lanes, in v(d), in its LDQ entry, or for a push for its re-execution: that it keeps them in Queues.pushed is the model's
reading (DEDUCED, log 69). A store writes those lanes and no other byte; a word that it writes whole loses its mark, and no other word does.
Here the other lanes lie in the core's own banks. -/
def Obligations.FaultingLanes : Prop :=
  ∀ (s : State) (d a b : Reg) (n : BitVec 2) (k : Nat → Nat) (f : Nat),
    let w := widthNow s
    let size := w / 8
    let done := s.core.regs.lanedone
    let act := activeNow s &&& ~~~done
    let bad := fun (i : Instr) (acc : Access) (va : Nat → Word) (j : Nat) =>
      (va j).toNat % size ≠ 0 ∨ sameKind s.core.pos (xr s a) (va j) = false ∨
        ∃ c, translateAs (appended s i) ((capture s i).who (appended s i)) (va j) acc true false = (appended s i, .fault c)
    let lowest := fun (p : Nat → Prop) => f < laneCount w ∧ act.getLsbD f = true ∧ p f ∧ ∀ j, j < f → act.getLsbD j = true → ¬p j
    let lanes := fun (m : Word) (p : Nat → Prop) =>
      ∀ j, m.getLsbD j = true ↔ done.getLsbD j = true ∨ (j < laneCount w ∧ act.getLsbD j = true ∧ ¬p j)
    let loads := fun (i : Instr) (va : Nat → Word) =>
      let bad := bad i .r va
      ReadyQ i s → NoCopies s → lowest bad →
      (∀ j, j < laneCount w → act.getLsbD j = true → ¬bad j → CleanBank s (va j) size (k j)) →
        (d ≠ 30 → ∃ m v, lanes m bad ∧
          TurnTraps i s (setLanedone (let u := appended s i
            if d = 31 then setQ u { u.core.q with pushed := v } else setV u d v) m) ⟨13, va f⟩ true ∧
          ∀ j, j < laneCount w →
            (act.getLsbD j = true → ¬bad j → lane v w j = Memory.le s.mem (k j) size) ∧
            (act.getLsbD j = false ∨ bad j → lane v w j =
              if d = 31 then (if (activeNow s &&& done).getLsbD j = true then lane s.core.q.pushed w j else 0) else lane (oldV s d) w j)) ∧
        (d = 30 → LdqRoom i s → ∃ (m : Word) (e : LdqEntry), lanes m bad ∧ e.seq = s.core.q.qnext ∧ e.kept = false ∧
          TurnTraps i s (setLanedone (let u := appended s i
            { u with freeCtr := u.freeCtr + 1, core := { u.core with q := { u.core.q with ldq := u.core.q.ldq ++ [e] } } }) m) ⟨13, va f⟩ true ∧
          ∀ j, j < laneCount w → act.getLsbD j = true → ¬bad j → lane e.data w j = Memory.le s.mem (k j) size)
    let stores := fun (i : Instr) (va : Nat → Word) =>
      let bad := bad i .w va
      let writes := fun (j x : Nat) => j < laneCount w ∧ act.getLsbD j = true ∧ ¬bad j ∧ k j ≤ x ∧ x < k j + size
      ReadyQ i s → NoCopies s → Memory.wf s.mem = true → lowest bad →
      (∀ j, j < laneCount w → act.getLsbD j = true → ¬bad j → OwnBank s (va j) (k j)) →
        ∃ m mem poison, lanes m bad ∧
          TurnTraps i s (setLanedone { appended s i with mem := mem, poison := poison } m) ⟨13, va f⟩ true ∧
          (∀ j, j < laneCount w → act.getLsbD j = true → ¬bad j → (∀ h x, j < h → writes h x → ¬writes j x) →
            Memory.le mem (k j) size = lane (storedNow s d) w j) ∧
          (∀ x, (∀ j, ¬writes j x) → Memory.byte mem x = Memory.byte s.mem x) ∧
          (∀ x, poisoned { s with poison := poison } x = true ↔
            poisoned s x = true ∧ ∃ y, wordKey x ≤ y ∧ y < wordKey x + 4 ∧ ∀ j, ¬writes j y)
    loads (.vlds d a b) (fun j => xr s a + BitVec.ofNat 64 j * xr s b) ∧
    loads (.vldg d a b n) (fun j => xr s a + (BitVec.ofInt 64 (signedOf w (laneA s b w j)) <<< n.toNat)) ∧
    stores (.vsts d a b) (fun j => xr s a + BitVec.ofNat 64 j * xr s b) ∧
    stores (.vstg d a b n) (fun j => xr s a + (BitVec.ofInt 64 (signedOf w (laneA s b w j)) <<< n.toNat))

/-! ## The matrix engine -/

/-- R318, R323 to R326: an MROW, MROWP, MROWZ or MROWZP adds to or replaces the 16 accumulators of its row by the products with the
stationary copy of the slot at HEAD, sets the row's ROWV bit and raises the flags, and the P forms pop the trough. A tile of an open
factor set raises cause 14 subcode 7, one of the other KIND subcode 8, an unconfigured trough cause 22, and an empty one makes the
instruction wait. TZERO zeroes a tile. -/
def Obligations.MatrixRows : Prop :=
  ∀ (s : State) (t : BitVec 3) (x v : Reg) (q : BitVec 2) (k : BitVec 3) (r : BitVec 1),
    let m := s.core.regs.mode
    let ty := typeNow s
    let tr := myTrough s q
    let st := stationary s q tr r
    let tile := tileAt s t
    let row := (xr s x).toNat % 16
    let copies := newCopy s q tr r = true → slotPoison s (slotKey s.core.pos.cluster tr (headSlot tr)) = none
    let fits := tile.fact = false ∧ (tile.valid = true → tile.kind = kindOf ty)
    let product := fun (i : Instr) (replace pop : Bool) =>
      ReadyQ i s → i.wellFormed = true →
        (fits → tr.nslot ≠ 0 → tr.head < tr.tail →
          rangeHeld s (padKey s.core.pos.cluster + tr.base, tr.nslot * Config.slotBytes, false) = false → copies →
          let base := opened tile (kindOf ty)
          let asc := if v = 30 then Vector.replicate 4 0 else scalesOf s v
          let cols := (List.range 16).map fun c => columnProduct replace m ty (vNow s v) asc st.2 (kReg s k) (elemAt base row c) c
          Yields i s fun u =>
            let w := setMat u { u.core.mat with stat := st.1.core.mat.stat }
            let y := raiseFlags (setTile w t (writeRow base row (cols.map (·.1)))) (flagUnion (cols.map (·.2)))
            if pop then popTrough y q else y) ∧
        (tile.fact = true → TurnTraps i s (appended s i) (subTrap 14 7 t.toNat) false) ∧
        (tile.fact = false → tile.valid = true → tile.kind ≠ kindOf ty → TurnTraps i s (appended s i) (subTrap 14 8 t.toNat) false) ∧
        (fits → tr.nslot = 0 → TurnTraps i s (appended s i) ⟨22, q.setWidth 64⟩ false) ∧
        (fits → tr.nslot ≠ 0 → tr.tail ≤ tr.head → TurnWaits i s (appended s i))
    product (.mrow t x v q k r) false false ∧
    product (.mrowp t x v q k r) false true ∧
    product (.mrowz t x v q k r) true false ∧
    product (.mrowzp t x v q k r) true true ∧
    (ReadyQ (.tzero t) s → tile.fact = false → Yields (.tzero t) s fun u => setTile u t { tile with
      acc := Vector.replicate 256 0, valid := true, kind := kindOf ty, dirty := true, rowv := 0 }) ∧
    (ReadyQ (.tzero t) s → tile.fact = true → TurnTraps (.tzero t) s (appended s (.tzero t)) (subTrap 14 7 t.toNat) false)

/-- R327, R328: TLOAD reads its selected rows, widened, zeroes the others and takes ROWV from the mask and KIND from the TYPE; TSTORE
writes the selected columns of its rows, converted with 16 draws for a row under SR, and leaves the tile. A misaligned selected row
raises cause 4 or 7 with the row's start. R329, R330, R331, R343, R345: TMOVV and TVMOV move one row between a tile and v(v), TSTAT
reports a tile, TPERM puts a tile's rows in the order of its rename map, and FMAPRD, RDPH and RDGF read the map, the pivot history and
the growth ratio. -/
def Obligations.TileMemoryAndMoves : Prop :=
  (∀ (s : State) (t : BitVec 3) (x v : Reg) (k : BitVec 3),
     let m := s.core.regs.mode
     let ty := typeNow s
     let n := typeBits ty / 8
     let stride : Word := BitVec.ofInt 64 (((xr s v).extractLsb' 0 32).toInt)
     let start := fun (r : Nat) => xr s x + BitVec.ofNat 64 r * stride
     let bits := (List.range 16).filter fun j => (kReg s k).getLsbD j
     let count := Nat.min 16 ((xr s v).extractLsb' 32 8).toNat
     let pieces := fun (rows cols : List Nat) =>
       rows.flatMap fun r => cols.map fun c => (⟨16 * r + c, start r + BitVec.ofNat 64 (c * n), n, 0⟩ : Piece)
     let tile := tileAt s t
     (ReadyQ (.tload t x v k) s →
       (∀ u vs, tile.fact = false → (∀ r ∈ bits, (start r).toNat % n = 0) →
         loadAll (appended s (.tload t x v k)) (capture s (.tload t x v k)) true (pieces bits (List.range 16)) = .ok u vs →
         KeptQueues (capture s (.tload t x v k)) u →
         ∃ acc : Vector Acc 256,
           (∀ r c, r < 16 → c < 16 → acc[16 * r + c]? = some
             (if (kReg s k).getLsbD r then (widen ty (mSat m) (readOf vs (16 * r + c) 0)).1 else 0)) ∧
           TurnMakes (.tload t x v k) s (raiseFlags (setTile u t { tileAt u t with
             acc := acc, valid := true, kind := kindOf ty, dirty := true, rowv := (kReg s k).extractLsb' 0 16 })
             (flagUnion (vs.map fun p => (widen ty (mSat m) p.2).2)))) ∧
       (tile.fact = true → TurnTraps (.tload t x v k) s (appended s (.tload t x v k)) (subTrap 14 7 t.toNat) false) ∧
       (∀ r, tile.fact = false → r ∈ bits → (start r).toNat % n ≠ 0 → (∀ h ∈ bits, h < r → (start h).toNat % n = 0) →
         TurnTraps (.tload t x v k) s (appended s (.tload t x v k)) ⟨4, start r⟩ false)) ∧
     (ReadyQ (.tstore t x v k) s →
       (∀ u pl, (bits ≠ [] → ∀ r, r < count → (start r).toNat % n = 0) →
         translateAll (appended s (.tstore t x v k)) (queueWho s) .w (pieces (List.range count) bits) = (u, some pl) →
         (∀ p ∈ pl, p.loc.isSome = true) → accessHeld u (capture s (.tstore t x v k)) true pl = false →
         let d := drawn (.tstore t x v k) s (16 * count)
         let u1 := setRegs u { u.core.regs with srseed := d.1 }
         let src := readTile tile
         let res := fun (j : Nat) => narrow m ty src.kind (laneOf d.2 j) (elemAt src (physRow m src (j / 16)) (j % 16))
         let m1 := remoteLines u1 (capture s (.tstore t x v k)) pl
         let w := writePieces m1.1 m1.2 (pl.map fun p => { p with piece := { p.piece with data := (res p.piece.idx).1 } })
         KeptQueues (capture s (.tstore t x v k)) w →
         ∃ fl, (∀ b, fl.getLsbD b = true ↔ ∃ j, j < 16 * count ∧ j % 16 ∈ bits ∧ (res j).2.getLsbD b = true) ∧
           TurnMakes (.tstore t x v k) s (raiseFlags w fl)) ∧
       (∀ r, bits ≠ [] → r < count → (start r).toNat % n ≠ 0 → (∀ h, h < r → (start h).toNat % n = 0) →
         TurnTraps (.tstore t x v k) s (appended s (.tstore t x v k)) ⟨7, start r⟩ false))) ∧
  (∀ (s : State) (t : BitVec 3) (x v : Reg),
     let m := s.core.regs.mode
     let ty := typeNow s
     let row := (xr s x).toNat % 16
     let tile := tileAt s t
     let src := readTile tile
     let dr := drawn (.tmovv t x v) s 16
     let out := fun (c : Nat) => narrow m ty src.kind (laneOf dr.2 c) (elemAt src row c)
     let mx := mxRow m ((List.range 16).map fun c =>
       if src.kind then Ex.ofInt (acc56 (elemAt src row c)) else accValue (elemAt src row c)) dr.2
     let cols := (List.range 16).map fun c =>
       if ty = 10 then roundFA56 (exMul (e2m1.decode (laneA s v 4 c)) (scaleValue ((scalesOf s v)[0]))).1
       else widen ty (mSat m) (laneA s v (typeBits ty) c)
     let seed := s.core.regs.srseed
     (ReadyQ (.tmovv t x v) s → ty ≠ 10 → ∃ u, exec (.tmovv t x v) s = .next u ∧ OnlyV (.tmovv t x v) s u v ∧ u.core.regs.srseed = dr.1 ∧
       (∀ c, c < 512 / typeBits ty → lane (newV u v) (typeBits ty) c = if c < 16 then (out c).1 % 2 ^ typeBits ty else 0) ∧
       (∀ b, u.core.regs.fflags.getLsbD b = true ↔ s.core.regs.fflags.getLsbD b = true ∨ ∃ c, c < 16 ∧ (out c).2.getLsbD b = true)) ∧
     (ReadyQ (.tmovv t x v) s → ty = 10 → Yields (.tmovv t x v) s fun u =>
       let w := setScales (setV u v (ofLanes 4 mx.1)) v (Vector.ofFn fun j => if j.val = 0 then mx.2.1 else scaleOfByte 127)
       setRegs w { w.core.regs with fflags := w.core.regs.fflags ||| mx.2.2, srseed := dr.1 }) ∧
     (ReadyQ (.tvmov t x v) s → tile.fact = false → (tile.valid = true → tile.kind = kindOf ty) → Yields (.tvmov t x v) s fun u =>
       raiseFlags (setTile u t (writeRow (opened tile (kindOf ty)) row (cols.map (·.1)))) (flagUnion (cols.map (·.2)))) ∧
     (ReadyQ (.tvmov t x v) s → tile.fact = true → TurnTraps (.tvmov t x v) s (appended s (.tvmov t x v)) (subTrap 14 7 t.toNat) false) ∧
     (ReadyQ (.tstat t x) s → YieldsX (.tstat t x) s x (BitVec.ofNat 64 ((if tile.valid then tile.rowv.toNat else 0) +
       (if tile.valid then 2 ^ 16 else 0) + (if tile.dirty then 2 ^ 17 else 0) + (if tile.kind then 2 ^ 18 else 0) +
       (if tile.fact then 2 ^ 19 else 0))) 0 seed) ∧
     (ReadyQ (.tperm t) s → tile.fact = false → ∃ acc : Vector Acc 256, ∃ rowv : BitVec 16,
       (∀ r c, r < 16 → c < 16 → acc[16 * r + c]? = some (elemAt src ((src.map[r]?).getD 0).toNat c)) ∧
       (∀ r, r < 16 → rowv.getLsbD r = src.rowv.getLsbD ((src.map[r]?).getD 0).toNat) ∧
       Yields (.tperm t) s fun u => setTile u t { src with acc := acc, rowv := rowv, map := identityMap, valid := true, dirty := true }) ∧
     (ReadyQ (.tperm t) s → tile.fact = true → TurnTraps (.tperm t) s (appended s (.tperm t)) (subTrap 14 7 t.toNat) false) ∧
     (ReadyQ (.fmaprd t x) s → ∃ w : Word, (∀ r, r < 16 → w.extractLsb' (4 * r) 4 = (tile.map[r]?).getD 0) ∧
       YieldsX (.fmaprd t x) s x w 0 seed) ∧
     (ReadyQ (.rdph x) s → YieldsX (.rdph x) s x ((s.core.mat.fset.ph[row]?).getD 0) 0 seed) ∧
     (ReadyQ (.rdgf x) s → YieldsX (.rdgf x) s x (s.core.mat.fset.g.setWidth 64) 0 seed))

/-! ## Factorising -/

/-- R341: the pivot of a column is a logical row from NP up that takes part, none of them has a larger magnitude, a NaN being the
largest, and of equal ones the lowest tile and then the lowest physical row is taken; there is none when no row takes part. R339, R340:
FBEGIN opens a set over the tiles of bits 7:0 of k(k), with the largest magnitude of their rows as A0 and MX; it raises cause 14 with
subcode 9 while a set is open, and 11 for an empty mask or a tile that is invalid or of KIND 1. FEND closes the set, or raises subcode
10. R337, R338, R341: FCOL records a column without candidates as NONE; a singular pivot traps, is skipped or is replaced as SPOL says;
else the pivot row is swapped to NP, the rows below it are eliminated, and PH, DONE, NP, MX and G follow, unless the growth watch traps. -/
def Obligations.Factorising : Prop :=
  (∀ (f : FactorSet) (ts : Vector Tile 8) (col : Nat),
     let mag := fun (c : Cand) => magOf (setElem f.set ts c.l col)
     let before := fun (a b : Cand) => a.tile < b.tile ∨ (a.tile = b.tile ∧ a.prow < b.prow)
     (∀ c ∈ candidates f ts, f.np ≤ c.l ∧ takesPart f.set ts c.l = true ∧ placeOfRow f.set ts c.l = (c.tile, c.prow)) ∧
     (∀ p, searchPivot f ts col = some p → p ∈ candidates f ts ∧
       ∀ c ∈ candidates f ts, beats (mag p) (mag c) = false ∧ (before c p → beats (mag c) (mag p) = true)) ∧
     (searchPivot f ts col = none ↔ candidates f ts = [])) ∧
  (∀ (s : State) (k : BitVec 3),
     let i : Instr := .fbegin k
     let f := s.core.mat.fset
     let m : BitVec 8 := (kReg s k).extractLsb' 0 8
     let ts := s.core.mat.tiles
     let good := fun (t : Nat) => (tileOf ts t).valid = true ∧ (tileOf ts t).kind = false
     let mags := (setTiles m).flatMap fun t => (List.range 16).flatMap fun r =>
       if (tileOf ts t).rowv.getLsbD r then (rowAccs (tileOf ts t) r).map magOf else []
     let a0 := (roundFA56 (mags.foldl maxNan (.zero false))).1
     (ReadyQ i s → f.isOpen = false → m ≠ 0 → (∀ t, t < 8 → m.getLsbD t = true → good t) →
       ∃ ts1 : Vector Tile 8,
         (∀ t, t < 8 → ts1[t]? = some (if m.getLsbD t then { tileOf ts t with map := identityMap, fact := true } else tileOf ts t)) ∧
         Yields i s fun u => setFactor u ts1 { isOpen := true, set := m, np := 0, done := 0, ph := Vector.replicate 16 0, a0 := a0, mx := a0,
                                               g := if (accValue a0).isNan then (roundFA56 .nan).1 else acc1 }) ∧
     (ReadyQ i s → f.isOpen = true → TurnTraps i s (appended s i) (subTrap 14 9 0) false) ∧
     (ReadyQ i s → f.isOpen = false → m = 0 → TurnTraps i s (appended s i) (subTrap 14 11 8) false) ∧
     (∀ t, ReadyQ i s → f.isOpen = false → t < 8 → m.getLsbD t = true → ¬good t → (∀ h, h < t → m.getLsbD h = true → good h) →
       TurnTraps i s (appended s i) (subTrap 14 11 t) false) ∧
     (ReadyQ .fend s → f.isOpen = true → ∃ ts1 : Vector Tile 8,
       (∀ t, t < 8 → ts1[t]? = some (if f.set.getLsbD t then { tileOf ts t with fact := false } else tileOf ts t)) ∧
       Yields .fend s fun u => setFactor u ts1 { f with isOpen := false }) ∧
     (ReadyQ .fend s → f.isOpen = false → TurnTraps .fend s (appended s .fend) (subTrap 14 10 0) false)) ∧
  (∀ (s : State) (x : Reg), ReadyQ (.fcol x) s →
     let i : Instr := .fcol x
     let m := s.core.regs.mode
     let tau := s.core.regs.tau
     let col := (xr s x).toNat % 16
     let f := s.core.mat.fset
     let ts := s.core.mat.tiles
     let me := s.core.pos.core
     (f.isOpen = false → TurnTraps i s (appended s i) (subTrap 14 10 0) false) ∧
     (f.isOpen = true → f.done.getLsbD col = true → TurnTraps i s (appended s i) (subTrap 14 12 col) false) ∧
     (f.isOpen = true → f.done.getLsbD col = false → searchPivot f ts col = none →
       Yields i s fun u => setFactor u ts (recordColumn f col (BitVec.ofNat 64 (2 ^ 32 + 2 ^ 35)))) ∧
     (∀ c, f.isOpen = true → f.done.getLsbD col = false → searchPivot f ts col = some c →
       let p := setElem f.set ts c.l col
       let sing := singular p tau
       let ts1 := if sing then putElem f.set ts c.l col (replaced p tau) else ts
       let ts2 := swapRows f.set ts1 c.l f.np
       let r := eliminate f ts2 col (logicalRow f.set ts2 f.np) (f.np + 1)
       let g := growth f.a0 r.2.1
       (sing = true → mSpol m = 0 → TurnTraps i s (appended s i) ⟨15, BitVec.ofNat 64 col⟩ false) ∧
       (sing = true → mSpol m = 2 →
         Yields i s fun u => raiseFlags (setFactor u ts (recordColumn f col (phWord c me 0 false true false))) flagSPF) ∧
       ((sing = false ∨ mSpol m = 1 ∨ mSpol m = 3) → growthTrap m g s.core.regs.gflim = true →
         TurnTraps i s (appended s i) ⟨16, BitVec.ofNat 64 col⟩ false) ∧
       ((sing = false ∨ mSpol m = 1 ∨ mSpol m = 3) → growthTrap m g s.core.regs.gflim = false →
         Yields i s fun u => raiseFlags
           (setFactor u r.1 { recordColumn f col (phWord c me f.np sing false false) with np := f.np + 1, mx := r.2.1, g := g })
           (r.2.2 ||| flagIf sing flagSPF))))

/-- R347 to R352: NGJOIN joins or founds a group, or raises cause 17 subcode 1; NGLEAVE leaves, or raises subcode 4; FCOLN of a member
posts for the round and waits, raises subcode 4 for a core that is no member, and subcode 2 when the group is broken or has been left. -/
def Obligations.NegotiationGroups : Prop :=
  ∀ (s : State) (x : Reg) (n : BitVec 2),
    let p := s.core.pos
    let c := (xr s x).toNat
    let g := groupAt s p.cluster n
    let joins : Instr := .ngjoin x n
    let leaves : Instr := .ngleave n
    let col := c % 16
    let f := s.core.mat.fset
    let post : Instr := .fcoln x n
    let free := 2 ≤ c ∧ c ≤ 64 ∧ inSomeGroup s p = false
    let refused := ¬free ∨ (g.count ≠ 0 ∧ (c ≠ g.count ∨ g.count ≤ g.members.length ∨ 0 < g.round ∨ g.left ≠ []))
    let ok := f.isOpen = true ∧ f.done.getLsbD col = false
    (ReadyQ joins s → free → g.count = 0 → Yields joins s fun u => setGroup u p.cluster n { NegGroup.reset with count := c, members := [p] }) ∧
    (ReadyQ joins s → ¬refused → g.count ≠ 0 → Yields joins s fun u => setGroup u p.cluster n { g with members := g.members ++ [p] }) ∧
    (ReadyQ joins s → refused → TurnTraps joins s (appended s joins) (subTrap 17 1 n.toNat) false) ∧
    (ReadyQ leaves s → p ∈ g.members → Yields leaves s fun u => setGroup u p.cluster n (withoutMember g p false)) ∧
    (ReadyQ leaves s → p ∉ g.members → TurnTraps leaves s (appended s leaves) (subTrap 17 4 n.toNat) false) ∧
    (ReadyQ post s → ok → p ∈ g.members → g.broken = false → g.left = [] → (∀ q ∈ g.posts, q.core ≠ p) →
      TurnWaits post s (setGroup (appended s post) p.cluster n { g with posts := g.posts ++ [roundPost s (capture s post) col] })) ∧
    (ReadyQ post s → ok → p ∉ g.members → TurnTraps post s (appended s post) (subTrap 17 4 (col * 2 ^ 8 + n.toNat)) false) ∧
    (ReadyQ post s → ok → p ∈ g.members → (g.broken = true ∨ g.left ≠ []) →
      TurnTraps post s (dropPosts (appended s post) p) (subTrap 17 2 (col * 2 ^ 8 + n.toNat)) false)

/-! ## Troughs and engines -/

/-- R314, R315: TRCFG sets a trough up with its counts and generations at 0 and drops the copies taken from it, or raises cause 22 with
the trough; TRPOP raises HEAD by 1, waits while the trough is empty, and raises cause 22 on an unconfigured one; TRSTAT reports it. -/
def Obligations.Troughs : Prop :=
  ∀ (s : State) (x v : Reg) (q : BitVec 2),
    let c := s.core.pos.cluster
    let base := (xr s x).toNat
    let n := (xr s v).toNat
    let cfg : Instr := .trcfg x v q
    let pop : Instr := .trpop q
    let t := myTrough s q
    let idle := ∀ k ∈ (clusterAt s c).cmds, k.trough ≠ some q
    let fits := n = 0 ∨ (base % 256 = 0 ∧ base + 1280 * n ≤ padBytes (clusterAt s c).split ∧ ringClash s q base (1280 * n) = false)
    (ReadyQ cfg s → idle → n ≤ 255 → fits → Yields cfg s fun u => dropCopies (setTrough u c q
      { base := base, nslot := n, head := 0, tail := 0, res := 0, gens := List.replicate n 0, written := [] }) c q) ∧
    (ReadyQ cfg s → idle → (255 < n ∨ ¬fits) → TurnTraps cfg s (appended s cfg) ⟨22, q.setWidth 64⟩ false) ∧
    (ReadyQ cfg s → ¬idle → TurnWaits cfg s (appended s cfg)) ∧
    (ReadyQ pop s → t.nslot ≠ 0 → t.head < t.tail → Yields pop s fun u => setTrough u c q { t with head := t.head + 1 }) ∧
    (ReadyQ pop s → t.nslot ≠ 0 → t.tail ≤ t.head → TurnWaits pop s (appended s pop)) ∧
    (ReadyQ pop s → t.nslot = 0 → TurnTraps pop s (appended s pop) ⟨22, q.setWidth 64⟩ false) ∧
    (ReadyQ (.trstat x q) s → YieldsX (.trstat x q) s x (if t.nslot = 0 then 0 else
      BitVec.ofNat 64 (t.nslot + (t.base / 256) * 2 ^ 8 + (t.tail - t.head) * 2 ^ 24 + (t.res - t.head) * 2 ^ 32 +
        t.head % t.nslot * 2 ^ 40)) 0 s.core.regs.srseed)

/-- R305, R306, R309, R312: CPY and CPYQ accept a command with its descriptor, or with the early status that R306 and R313 give, once
there is room and no range of the core is in its way; ENGST reports the counts and the failed address. R403 to R406: XSEND waits in the
engine port for its phase cycle, and raises cause 19 with subcode 2 when that has passed and 4 outside a phase; XSEL takes the vector
that the fabric holds for its launch within its window, waits before it, and raises subcode 3 when none arrived, 5 after it and 4
outside a phase; XEND closes the phase. A vector of an earlier phase is none of this one's. -/
def Obligations.CopyAndExchange : Prop :=
  (∀ (s : State) (a b d : Reg) (sc : BitVec 2),
     let c := s.core.pos.cluster
     let accepts := fun (i : Instr) (q : Option (BitVec 2)) (tag : BitVec 32) =>
       let k : CopyCmd :=
         { core := s.core.pos, lid := s.core.lid, vf := s.core.vf, fold := s.core.fold, level := s.core.regs.level, scope := sc, trough := q,
           tag := tag, early := none, desc := .empty, slot := none, index := 0, flags := 0, region := [], failedVa := 0, status := none,
           orphan := false }
       let unset := ∃ t, q = some t ∧ (myTrough s t).nslot = 0
       let room := s.core.sync.outstanding + s.core.sync.inbox.length < 16 ∧ (clusterAt s c).cmds.length < 64
       ReadyQ i s →
         (∀ u early desc k1, room → fetchDescriptor (appended s i) k (xr s a) = (u, some (early, desc)) →
           k1 = { k with early := k1.early, desc := desc } → (unset → k1.early = some 7) → (¬unset → k1.early = early) →
           (∀ r ∈ cmdRanges k1, rangeHeld u r = false) → KeptQueues (capture s i) u →
           let v := setCluster u { clusterAt u c with cmds := (clusterAt u c).cmds ++ [k1] }
           TurnMakes i s (setSync v { v.core.sync with outstanding := v.core.sync.outstanding + 1 })) ∧
         (¬room → TurnWaits i s (appended s i))
     accepts (.cpy a b sc) none ((xr s b).extractLsb' 0 32) ∧
     accepts (.cpyq a b sc) (some ((xr s b).extractLsb' 0 2)) ((xr s b).extractLsb' 2 32) ∧
     (ReadyQ (.engstCnt d) s → YieldsX (.engstCnt d) s d
       (BitVec.ofNat 64 (s.core.sync.outstanding % 32 + s.core.sync.inbox.length % 32 * 2 ^ 8)) 0 s.core.regs.srseed) ∧
     (ReadyQ (.engstFva d) s → YieldsX (.engstFva d) s d s.core.sync.fva 0 s.core.regs.srseed)) ∧
  (∀ (s : State) (a b d : Reg) (c0 : Nat) (w : XSend),
     let send : Instr := .xsend a b
     let sel : Instr := .xsel d a
     let at_ := (xr s b).toNat % 2 ^ 32
     let n := (xr s a).toNat
     let cycle : Nat := n / 2 ^ 16 % 2 ^ 32
     let p := s.core.pos
     let arrive : Int := cycle + 3 + (dist p.cx (n % 16) : Nat) + (dist p.cy (n / 16 % 8) : Nat)
     let now : Int := s.now - c0 - 1
     let on := clusterEnabled s ⟨p.die, n % 16, n / 16 % 8⟩
     let mine := fun (v : XSend) => v.die = p.die ∧ v.cx = n % 16 ∧ v.cy = n / 16 % 8 ∧ v.cycle = cycle ∧ v.lid = s.core.lid ∧ v.phase = c0
     (ReadyQ send s → s.core.sync.phase = none → TurnTraps send s (appended s send) (subTrap 19 4 at_) false) ∧
     (ReadyQ send s → s.core.sync.phase = some c0 → now ≤ at_ → TurnWaits send s (appended s send)) ∧
     (ReadyQ send s → s.core.sync.phase = some c0 → at_ < now → TurnTraps send s (appended s send) (subTrap 19 2 at_) false) ∧
     (ReadyQ sel s → s.core.sync.phase = none → TurnTraps sel s (appended s sel) (subTrap 19 4 cycle) false) ∧
     (ReadyQ sel s → s.core.sync.phase = some c0 → now < arrive → TurnWaits sel s (appended s sel)) ∧
     (ReadyQ sel s → s.core.sync.phase = some c0 → arrive + 63 < now → TurnTraps sel s (appended s sel) (subTrap 19 5 cycle) false) ∧
     (ReadyQ sel s → s.core.sync.phase = some c0 → arrive ≤ now → now ≤ arrive + 63 → on = true → w ∈ s.fabric → mine w →
       (∀ v ∈ s.fabric, mine v → v = w) → Yields sel s fun u => tookV u s.core.q.qnext d w.data) ∧
     (ReadyQ sel s → s.core.sync.phase = some c0 → arrive ≤ now → now ≤ arrive + 63 → (on = false ∨ ∀ v ∈ s.fabric, ¬mine v) →
       TurnTraps sel s (appended s sel) (subTrap 19 3 cycle) false) ∧
     (ReadyQ .xend s → Yields .xend s fun u => setSync u { u.core.sync with phase := none }))

/-! ## The machine -/

/-- R3, R150 to R153, R185, R192, R234, R235, R287, R293, R338, R418, R443: the Reset column. NPRLIM is 1,250,000, every other CSR with
a Reset value is 0 (MODE, GTBASE and GTSIZE, which strand start sets, read 0 by log 1), and the management registers are 0. SRSEED reads
1, which is log 1's choice. That no fold, VF, launch or strand exists and no byte of memory is listed is R437; what an unlisted byte reads as is log 3. -/
def Obligations.ResetState : Prop :=
  csrRead State.reset 0x208 = some 1250000 ∧ csrRead State.reset 0x002 = some 1 ∧
  (∀ c ∈ ([0x000, 0x001, 0x003, 0x004, 0x005, 0x006, 0x007, 0x008, 0x010, 0x011, 0x012, 0x013, 0x014, 0x015, 0x016, 0x020, 0x021, 0x030,
      0x031, 0x100, 0x101, 0x200, 0x201, 0x202, 0x203, 0x204, 0x205, 0x206, 0x207, 0x209, 0x20A, 0x20B] : List Nat),
    csrRead State.reset c = some 0) ∧
  regValue State.reset (.management 0x0000) = 0 ∧ regValue State.reset (.management 0x0010) = 0 ∧
  State.reset.folds = [] ∧ State.reset.vfs = [] ∧ State.reset.launches = [] ∧
  (∀ c ∈ allCores State.reset, c.occ = .idle) ∧ State.reset.mem = [] ∧ MemoryCanonical State.reset

/-- R134 to R137 and R142 give these encodings, among others; they are worked out in the sections Fetched and A ragged product. The
words 0x00000000 and 0xFFFFFFFF are ADD x0, x0, x0 and an unassigned word. -/
def Obligations.DecodedWords : Prop :=
  decodeWord 0x0A9D2002#32 = .ok (.bitPopc 7 9) ∧
  decodeWord 0x2214C010#32 = .ok (.lw 5 6 0x010) ∧
  decodeWord 0x80044380#32 = .ok (.vadd 1 2 3 1) ∧
  decodeWord 0xC0019021#32 = .ok (.mrow 0 3 4 0 1 1) ∧
  decodeWord 0x6B940020#32 = .ok (.csrr 5 0x020) ∧
  decodeWord 0x6D800000#32 = .ok .tret ∧
  decodeWord 0x6F8000D6#32 = .ok (.setm 0xD6) ∧
  decodeWord 0x4400E002#32 = .ok (.loop 0 7 2) ∧
  decodeWord 0xE0826002#32 = .ok (.cpyq 19 0 2) ∧
  decodeWord 0xAC04A000#32 = .ok (.kmovKx 1 5) ∧
  decodeWord 0x00000000#32 = .ok (.add 0 0 0) ∧
  (∃ e, decodeWord 0xFFFFFFFF#32 = .error e)

/-- R129, R132, R137 and log 9: where nothing of the outside and no event comes first, the strand in focus has its turn, and its PC
names a word that can be read, the step is the decoded instruction's own effect, or cause 2 for a word that decodes to none; then a
cycle passes and the next strand in turn comes into focus. A fetch that faults raises the fault's cause with the PC, and one whose page
is being serviced waits. -/
def Obligations.StepRunsDecoded : Prop :=
  ∀ s : State, ItsTurn s → Running s → s.core.sync.wait = none → boundaryTrap s (fetchFails s) = none →
    let fetched := fetchWord (setSync s { s.core.sync with stall := false, trapWaits := false })
    (∀ s1 w i, fetched = .word s1 w → decodeWord w = .ok i → step s = issued (startOf s1) (exec i s1)) ∧
    (∀ s1 w e, fetched = .word s1 w → decodeWord w = .error e → step s = issued (startOf s1) (execIllegalInstruction w s1)) ∧
    (∀ s1 c, fetched = .fault s1 c → step s = issued none (.next (settle (raiseTrap s1 c s1.core.regs.pc)))) ∧
    (∀ s1, fetched = .wait s1 → step s = issued none (.next (stall s1)))

/-- R133 to R137 and the opcode tables: a word decodes to an instruction exactly when the instruction is well-formed and the word is its
own, whatever its operands. So no operand bit is dropped, no two words give one instruction, and no reserved bit is passed over. -/
def Obligations.DecodeEncode : Prop :=
  ∀ (w : InstrWord) (i : Instr), decodeWord w = .ok i ↔ encode i = some w ∧ i.wellFormed = true

/-- R132, R156, R424: no program and no data stops the machine. Every step of every state answers a next state: a strand's instruction
completes, traps, waits or is contained, and an act of the outside that is not due waits (log 9). -/
def Obligations.MachineGoesOn : Prop := ∀ s : State, GoesOn s

/-- The model's own invariant (log 3): in whatever state, a step keeps the canonical form of memory, addresses strictly rising and no
entry that equals what an unlisted byte reads as. Equal memories are then equal data. Reset has the form (ResetState). -/
def Obligations.MemoryStaysCanonical : Prop :=
  ∀ s t : State, MemoryCanonical s → step s = .next t → MemoryCanonical t

/-! ## Events -/

/-- R218, R393, R396, R399, R400: a wait ends. JOIN looks again once CHILD is 0 or the deque holds an entry; a queue engine tests the
parked SVWAITs of a word in arrival order after a write to it; a barrier lets every strand of its domain leave in one cycle; an INBOX
takes the message that has come; a WFI falls through once an enabled code is pending; and a message of the drover fills the mailbox of a
strand that is empty. An event that is not due is refused by name (log 9). -/
def Obligations.WaitsEnd : Prop :=
  ∀ (s : State),
    let y := s.core.sync
    let child := stChild (frameState s s.core.vf (curFrame s)).2
    (Running s → y.wait = some .join → child = 0 ∨ y.deque ≠ [] → exec .joinWake s = .next (setSync s { y with wait := none })) ∧
    (∀ g k, (s.svTests.find? fun e => e.2 == k) = some (g, k) → exec (.svwaitWake k) s =
      .next ((s.parked.filter fun p => !p.isLock && p.engine == g && homeKey p.fold p.pa == k).foldl (fun u p => asCore u p.core testParked)
        { s with svTests := s.svTests.filter (· != (g, k)) })) ∧
    (∀ lid form, barrierCores s lid form ≠ [] → exec (.barrierComplete lid form) s =
      .next ((barrierCores s lid form).foldl (fun u p => asCore u p (releaseFrom s.now form)) s)) ∧
    (∀ d m rest, Running s → y.wait = some (.inbox d false) → y.inbox = m :: rest →
      exec .inboxWake s = .next (fallThrough (writeX (dequeue (endWait s) m rest) d m.value))) ∧
    (∀ d v, Running s → y.wait = some (.inbox d true) → y.drvmsg = some v →
      exec .inboxWake s = .next (fallThrough (writeX (setSync (endWait s) { (endWait s).core.sync with drvmsg := none }) d v))) ∧
    (Running s → y.wait = some .wfi → s.core.trap.ien = 0 ∨ ipend s &&& s.core.trap.ien ≠ 0 →
      exec .wfiWake s = .next (fallThrough (endWait s))) ∧
    (∀ p v, (coreAt s p).occ ≠ .idle → (coreAt s p).sync.drvmsg = none →
      exec (.droverMessage p v) s = .next (setCoreAt s { coreAt s p with sync := { (coreAt s p).sync with drvmsg := some v } })) ∧
    (∀ p v, (coreAt s p).sync.drvmsg.isSome = true → exec (.droverMessage p v) s = .refused (.notDue "DROVER_MESSAGE"))

/-- R155, R157, R418, R428: at a boundary, cause 20 comes first, then the oldest late refusal that INH lets through (cause 12 with its
sequence number), then the interrupt of the highest code that is pending and enabled, unless a synchronous trap is due there; an
interrupt withdraws the wait and drains the queue, and code 4 clears its notice. TIME_COMPARE makes code 3 pending by TIME alone. A strand
below a killed frame unwinds, once a page that its retirement writes has been copied (R117); it ends once its own frame has retired (R431). -/
def Obligations.BoundaryEvents : Prop :=
  ∀ (s : State),
    let t := s.core.trap
    (∀ f T, foldAt s s.core.fold = some f → s.core.occ ≠ .idle → f.running = some s.core.vf → regionOpen s.core = true →
      f.switchT = some T → cycleOfTime T + t.nprlim.toNat ≤ s.now → exec .nprOverrun s = .next (takeNpr s)) ∧
    (∀ r, ItsTurn s → Running s → nprDue s s.core = false → s.core.sync.wait = none ∨ s.core.sync.wait = some .join →
      (if t.inh then s.core.q.late.find? (·.inh) else s.core.q.late.head?) = some r → step s = .next (tick (takeLate s r))) ∧
    (∀ c, Running s → hasEnded s.core = false → killDue s = none → nprDue s s.core = false → s.core.q.late = [] → t.tvec >>> 2 ≠ 0 → t.inh = false → t.ie = true →
      inPhase s = false → s.core.sync.arrived = none ∨ s.core.sync.passed.isSome = true → 1 ≤ c → c ≤ 4 → pendingCode s c = true →
      t.ien.getLsbD (c - 1) = true → (∀ h, c < h → h ≤ 4 → pendingCode s h = false ∨ t.ien.getLsbD (h - 1) = false) →
      (s.core.sync.trapWaits = false → s.core.sync.wait ≠ none ∨ fetchFails s = false →
        exec .interruptTake s = .next (atDrain (withdrawWait s) fun u =>
          trapEntry (if c = 4 then setSync u { u.core.sync with notice := false } else u) c true 0 u.core.regs.pc)) ∧
      (s.core.sync.trapWaits = true ∨ (s.core.sync.wait = none ∧ fetchFails s = true) →
        exec .interruptTake s = .refused (.notDue "INTERRUPT_TAKE"))) ∧
    (t.tcmp ≠ 0 → t.tcmp.toNat ≤ (timeOf s).toNat → exec .timeCompare s = .next s ∧ (ipend s).getLsbD 2 = true) ∧
    (∀ n, s.core.occ ≠ .idle → switchStops s s.core = false → hasEnded s.core = false → n ≤ s.core.regs.depth →
      stKill (seenState s s.core.vf (dreg s n)).2 = true → (∀ m, m < n → stKill (seenState s s.core.vf (dreg s m)).2 = false) →
      let u := endRefusals (endRefusals (dropContReqs s s.core.pos) s.core.pos 0) s.core.pos queueUnit
      let v := unwindKilled (setSync u { u.core.sync with stopped := false }) n
      (rootCopies s v = none → exec .killUnwind s = .next v) ∧ (∀ w, rootCopies s v = some w → exec .killUnwind s = .next w)) ∧
    (s.core.occ ≠ .idle → switchStops s s.core = false → s.core.sync.wait = some .unwound → strandRetired s = true →
      exec .killUnwind s = .next (endStrandSteps s))

/-- R165, R169, R215, R244, R281, R288, R293, R294, R319, R349, R404, R405: a unit takes the oldest queued instruction, which completes
or traps at VCP, or runs a younger one of its own ahead of one that waits in another unit, which then completes in its place; a core
stopped for a gang switch issues none (R412). The oldest store leaves the store buffer once its older instructions have completed; the oldest remote request is
answered or refused as its target says; a deferred early load is performed; the fill of a PREF arrives; every due XSEND sends or loses
its slot; a negotiator in which all members have posted plays its round; and an idle core steals the tail entry of the first deque in
ring order, once a page that this writes has been copied (R117). That a unit runs an instruction to its end is log 9. -/
def Obligations.QueueEvents : Prop :=
  ∀ (s : State),
    (∀ e rest q, s.core.q.queue = e :: rest → unitOf e.instr = some q → switchStops s s.core = false →
      (∀ u, e.ahead = none → runEntry e s = .done u →
        exec (.unitIssue q) s = .next (completeHead u e) ∧ (q = .matrix → exec .matrixCommit s = .next (completeHead u e)) ∧
        (isXsel e.instr = true → exec .exchangeArrival s = .next (completeHead u e))) ∧
      (∀ a, e.ahead = some a → a.fault = none → exec (.unitIssue q) s = .next (completeHead (takeHeld s a) e)) ∧
      (∀ u t keep, e.ahead = none → runEntry e s = .trap u t keep → exec .queuedTrap s = .next (trapHead u e t keep)) ∧
      (∀ a t, e.ahead = some a → a.fault = some t → exec .queuedTrap s = .next (trapHead s e t false))) ∧
    (∀ e y rest q u, s.core.q.queue = e :: y :: rest → e.ahead = none → earlyDone s e = false → y.ahead = none → unitOf y.instr = some q → unitOf e.instr ≠ some q →
      switchStops s s.core = false → mayRunAhead s [e] y = true → runEntry y s = .done u → exec (.unitIssue q) s = .next (holdAhead s u y)) ∧
    (∀ q, switchStops s s.core = true → exec (.unitIssue q) s = .refused (.notDue "UNIT_ISSUE")) ∧
    (∀ e rest, s.core.q.sb = e :: rest →
      (mayLeave s e = true → exec .storeBufferLeave s = .next (performSb (setQ s { s.core.q with sb := rest }) e)) ∧
      (∀ w, leaveTurn s e = true → leaveCopies s e = some w → w ≠ s → exec .storeBufferLeave s = .next w)) ∧
    (∀ r rest, s.core.q.remote = r :: rest →
      (targetRefuses s s.core.lid r.key = false → exec .remoteReply s = .next (performRemote (setQ s { s.core.q with remote := rest }) r)) ∧
      (targetRefuses s s.core.lid r.key = true → exec .lateRefusal s = .next (performRemote (setQ s { s.core.q with remote := rest }) r))) ∧
    (∀ e, deferredEarly s = some e → switchStops s s.core = false → performEarly s e ≠ s →
      exec .earlyLoadDeferred s = .next (performEarly s e)) ∧
    (∀ f rest, s.core.prefs = f :: rest → exec .prefFill s = .next (prefArrives s f rest)) ∧
    (sendersNow s ≠ [] → exec .exchangeSend s = .next ((sendersNow s).foldl (sendOne (sendersNow s)) s)) ∧
    (∀ c n, let g := groupAt s c n
      g.count ≠ 0 → g.members.length = g.count → g.left = [] → g.broken = false → g.posts.length = g.count →
      (∀ q ∈ g.posts, switchStops s (coreAt s q.core) = false) → exec (.negotiationRound c n) s = .next (playRound s c n g)) ∧
    (∀ l f v e, heldLaunch s s.core.pos = some (l, f) → coreEnabled s s.core.pos = true → s.core.occ = .idle → s.core.regs.frames = [] →
      vfRuns s l = true → canStart s f l s.core.pos = false → robbed s s.core.pos = some v → (coreAt s v).sync.deque.getLast? = some e →
      let t := theft s l s.core.pos v e
      (launchCopies s t l = none → exec .steal s = .next t) ∧ (∀ w, launchCopies s t l = some w → w ≠ s → exec .steal s = .next w))

/-- R296 to R301, R306, R310, R313, R446, R450, R454: a miss walks the tables and fills the TLBs, and a page that is not present is asked for; the
drover installs it at the entry where the walk met V = 0 or refuses it, and so does the host by PGDONE; a COW page is copied and its
leaf written, by the drover into a frame that no snapshot names or before COWDONE by the host, and its old TLB entries go; a drover whose
image is being swapped serves nothing, and then what came first; an invalidation drops every TLB entry of the VF; a copy engine moves elements, a CPYQ reserves its slot, and a command that has ended posts its message, but none once the switch time of
the fold has come (R413). -/
def Obligations.PagesAndCopies : Prop :=
  ∀ (s : State) (vf : Nat) (va : Word),
    let page := pageOf va 16
    (∀ acc, s.core.occ ≠ .idle → isWindow va = false → canonical va = true → tlbFind s (.core s.core.pos) s.core.vf va = none →
      (vfAt s s.core.vf).isSome = true →
      exec (.pageWalk va acc) s = .next (if (leafFor s s.core.who va).2 matches .absent
        then askPage (leafFor s s.core.who va).1 s.core.who va acc false else (leafFor s s.core.who va).1)) ∧
    (∀ v f pte pa, vfAt s vf = some v → foldAt s v.fold = some f → f.mode.getLsbD 0 = false → drvServes s v.fold vf page false = true →
      asked s vf page false = true → absentAt s v.fold va.toNat walkLevels v.root = some pa →
      let u := cmdServed s (.page vf page false)
      exec (.pageService vf va (.install pte)) s = .next (homeWriteWords (dropReq u vf page false) (homeKey v.fold pa) 2 pte.toNat) ∧
      exec (.pageService vf va .refuse) s = .next (refuseReq u vf page)) ∧
    (∀ v answer frame, vfAt s vf = some v → s.svc.swapping = true ∨ (∃ c, oldestCmd s v.fold = some c ∧ ∀ cow, c ≠ .page vf page cow) →
      exec (.pageService vf va answer) s = .refused (.notDue "PAGE_SERVICE") ∧
      exec (.copyOnWrite vf va frame) s = .refused (.notDue "COPY_ON_WRITE")) ∧
    (∀ v f pte pa bits frame, vfAt s vf = some v → foldAt s v.fold = some f → (walk s v.fold v.root va).2 = .leaf pte pa bits →
      drvServes s f.num vf page true = true → f.mode.getLsbD 1 = false → asked s vf page true = true → pteCow pte = true →
      frame % 2 ^ bits = 0 → frameAllowed f pte frame (2 ^ bits) = true → frameFree s f.num frame (2 ^ bits) = true →
      frame ≠ ptePfn pte * 65536 →
      exec (.copyOnWrite vf va frame) s = .next (setVf
        (dropCow (dropTlbVa (cmdServed (homeWriteWords (copyFrame s (homeKey f.num (ptePfn pte * 65536)) (homeKey f.num frame) (2 ^ bits))
          (homeKey f.num pa) 2 (cowLeaf pte frame).toNat) (.page vf page true)) vf va) vf va bits)
        { v with copied := v.copied ++ [page] })) ∧
    (∀ v, vfAt s vf = some v → s.svc.swapping = false → oldestCmd s v.fold = none →
      (∀ c ∈ allCores s, c.vf = vf → c.occ = .idle ∨ ∀ b ∈ c.q.sb, staleEntry s v b = false) →
      exec (.tlbInvalidation vf) s = .next { s with tlb := s.tlb.filter fun e => e.vf != vf }) ∧
    (∀ fold f v, foldAt s fold = some f → vfAt s vf = some v → v.fold = fold →
      exec (.pgdone fold vf va 0) s = .next (dropReq (took s f fun g => g) vf page false) ∧
      exec (.pgdone fold vf va 1) s = .next (refuseReq (took s f fun g => g) vf page) ∧
      (∀ pte pa bits, (walk s fold v.root va).2 = .leaf pte pa bits → exec (.cowdone fold vf va) s =
        .next (setVf (dropCow (dropTlbVa (took s f fun g => g) vf va) vf va bits) { v with copied := v.copied ++ [page] }))) ∧
    (∀ fold f v, foldAt s fold = some f → vfAt s vf = some v → v.fold ≠ fold →
      Ignored (.pgdone fold vf va 0) s f 2 vf va ∧ Ignored (.cowdone fold vf va) s f 4 vf va) ∧
    (∀ c, enginesRun s c = true →
      (∀ u, runFirst s c (runnable s c) = some u → exec (.copyCommandRun c) s = .next u) ∧
      (∀ q n k, reserveDue s c q = some (n, k) → exec (.cpyqReserve c q) s =
        .next (setCmd (setTrough s c q { troughAt s c q with res := (troughAt s c q).res + 1 }) c n { k with slot := some (troughAt s c q).res })) ∧
      (∀ k st, endedCmd s c = some (k, st) → exec (.copyComplete c) s = .next (finishCommand s c k st))) ∧
    (∀ c q, enginesRun s c = false → exec (.copyCommandRun c) s = .refused (.notDue "COPY_COMMAND_RUN") ∧
      exec (.cpyqReserve c q) s = .refused (.notDue "CPYQ_RESERVE") ∧ exec (.copyComplete c) s = .refused (.notDue "COPY_COMPLETE"))

/-- R81, R84, R90 to R96, R103 to R111, R432: a doorbell write appends its record or is refused and counted; QOVF clears where ones are
written; the head of a ring is read once and checked; the waiting heads are tested when STATE was written or 4 µs have passed; the
dispatcher takes the ready head of the highest-priority queue, which ends at once with the status of a test that it fails, or starts
placing; a cluster takes the launch that places; a strand starts on a free core, in the assisted mode once its wave may go; and a node of
the counter tree at zero reports once, while its VF runs (R433), which frees the cores whose reports have come to the root or to a node that
still counts. Trip counts that the record gives are tested before IMAGE is read (DESIGN CHOICE, log 45), and that every wave 0 of an
assisted launch has its PLACEGO before a strand starts is deduced (DEDUCED, log 20). A write to a page that is shared waits for its copy (R117). -/
def Obligations.Dispatching : Prop :=
  ∀ (s : State) (vf p : Nat) (value : Word),
    (∀ v, p < 8 → vf < 512 → vfAt s vf = some v → value.extractLsb' 0 8 = 0 → value.extractLsb' 57 7 = 0 →
      let recVa := doorbellVa value
      (∀ r, v.bells = [] → appendWaits s vf p recVa = none → append s vf p recVa = some r → exec (.doorbell vf p value) s = .next r.1) ∧
      (v.bells = [] → appendWaits s vf p recVa = none → append s vf p recVa = none →
        ∃ t w, exec (.doorbell vf p value) s = .next t ∧ t = setVf s w ∧
          w = { v with dbdrop := w.dbdrop, qovf := w.qovf } ∧ w.dbdrop.toNat = Nat.min (v.dbdrop.toNat + 1) (2 ^ 32 - 1) ∧
          (∀ b, w.qovf.getLsbD b = (v.qovf.getLsbD b || decide (b = p) && (queueOf v p).enabled && queueFull (queueOf v p)))) ∧
      (∀ w, v.bells = [] → appendWaits s vf p recVa = some w → exec (.doorbell vf p value) s = .next (setVf w { v with bells := [(p, recVa)] })) ∧
      (v.bells ≠ [] → exec (.doorbell vf p value) s = .next (setVf s { v with bells := v.bells ++ [(p, recVa)] }))) ∧
    (∀ v, p < 8 → vf < 512 → vfAt s vf = some v → value.extractLsb' 0 8 ≠ 0 ∨ value.extractLsb' 57 7 ≠ 0 →
      ∃ w, exec (.doorbell vf p value) s = .next (setVf s w) ∧ w = { v with dbdrop := w.dbdrop } ∧
        w.dbdrop.toNat = Nat.min (v.dbdrop.toNat + 1) (2 ^ 32 - 1)) ∧
    (p < 8 → vf < 512 → vfAt s vf = none → exec (.doorbell vf p value) s = .next s) ∧
    (∀ v, vf < 512 → vfAt s vf = some v →
      exec (.qovfClear vf value) s = .next (setVf s { v with qovf := v.qovf &&& ~~~(value.extractLsb' 0 8) })) ∧
    (∀ v, vfAt s vf = some v → p < 8 → (queueOf v p).head < (queueOf v p).tail → waitingHead s vf p = none →
      headAnswering s vf p = false →
      (∀ u lid, readHead s v p = .unusable u lid → exec (.headCheck vf p) s = .next (reportBad (advanceHead u vf p) vf lid .badLaunch)) ∧
      (∀ u l, readHead s v p = .usable u l → launchAt s l.lid = none →
        (malformed l.record = true ∨ l.record.prio.toNat ≠ p → exec (.headCheck vf p) s = .next (answer u { l with atHead := true } 5 0 0)) ∧
        (malformed l.record = false → l.record.prio.toNat = p →
          exec (.headCheck vf p) s = .next (postHead (testHead (setLaunch u l) l) v.fold l)))) ∧
    (∀ fold f, foldAt s fold = some f → f.testDue = true ∨ f.lastTest + 400 ≤ (timeOf s).toNat →
      exec (.dependenceTest fold) s = .next (testHeads s f)) ∧
    (∀ fold f n l, foldAt s fold = some f → f.running = some n → placingOf s n = none → f.switchT = none → nextLaunch s f n = some l →
      let take := fun (u : State) => match foldAt u fold with
        | some g => setFold u { g with starts := g.starts.filter (· != l.lid) }
        | none => u
      (∀ u st, placingTests s f l = .ends u st →
        exec (.chooseLaunch fold) s = .next (advanceHead (answer (take u) { l with taken := true } st 0 0) l.vf l.prio)) ∧
      (∀ u l1 image ks, placingTests s f l = .frame u l1 image ks →
        let copies := askCopies u l.vf (pagesOf l.record.lframe (frameBytes l))
        (copies = none → exec (.chooseLaunch fold) s = .next (startPlacing (take u) f l1 image ks)) ∧
        (∀ w, copies = some w → w ≠ s → exec (.chooseLaunch fold) s = .next w)) ∧
      (∀ st, slotCounts l.record = false → tripsEnd l.record (tripsFrom l.record []) = some st → placingTests s f l = .ends s st)) ∧
    (∀ c lid l, launchAt s lid = some l → l.phase = .placing → l.killed = false → TreeNode.cluster c ∉ l.killWaits → vfRuns s l = true →
      clusterEnabled s c = true →
      clusterAssigned s l c ≠ 0 → ((clusterAt s c).holds.map (·.1)) ≠ some lid → clusterFree s c l = true →
      mayEnter s l (.die c.die) Config.dieNodeEntries = true → mayEnter s l .root Config.rootEntries = true →
      exec (.clusterTakeLaunch c lid) s = .next (takeLaunch s c l)) ∧
    (∀ k h l f, (clusterAt s k.cluster).holds = some h → launchAt s h.1 = some l → foldAt s l.fold = some f → vfRuns s l = true →
      strandWaits s l k = true → coreAdmits s l k = true →
      (waveHeld f l k = false → recSstep l.record = false → exec (.strandStart k) s = .next (startStrand s f l k)) ∧
      (waveHeld f l k = false → recSstep l.record = true → (∀ q ∈ launchCores s f l, coreAdmits s l q = true) →
        exec (.strandStart k) s = .next ((launchCores s f l).foldl (fun u q => startStrand u f ((launchAt u l.lid).getD l) q) s)) ∧
      (let wave := startedOn l k
       waveHeld f l k = true → wave ≠ 0 → (l.lid, k.die, wave) ∉ f.placewaves → (k.die, wave) ∉ l.go →
         exec (.strandStart k) s = .next (postWave s f l k.die wave))) ∧
    (∀ lid l n, launchAt s lid = some l → l.phase ≠ .waiting → reportDue l n = true →
      (vfGoes s l = true → exec (.counterReport lid n) s = .next (freeRetired (nodeReport s l n) l.lid)) ∧
      (vfGoes s l = false → exec (.counterReport lid n) s = .refused (.notDue "COUNTER_REPORT")))

/-- R98, R99, R113, R424, R450, R451: the host's messages. NEXTVF begins the slice of a VF with ready work, START lets a waiting head
go, REFUSE completes it with STATUS 5 or 6, or with STATUS 6 a launch in assisted placement none of whose strands has started, PLACEGO lets a posted wave go, and CONTAINACT applies its policy to the oldest waiting
request; a message that fits nothing is answered with MBERR. A write to D2HHEAD frees the ring's oldest entries, and one out of range is
ignored. That a message counts as announced where H2DTAIL was not ahead, and that a START which is ignored is answered with MBERR, is the
model's choice (DESIGN CHOICE, log 18), and so is that NEXTVF is the VF's turn for a new WEIGHT or QUANTUM (DESIGN CHOICE, log 60). That START
and NEXTVF count only in their mode, the mode in force, is deduced (DEDUCED, logs 41, 42). -/
def Obligations.HostMessages : Prop :=
  ∀ (s : State) (fold : Nat) (f : Fold) (lid : Word), foldAt s fold = some f →
    (∀ vf v, f.mode.getLsbD 2 = true → sliceRuns f = false → f.switchT = none → f.switchTo = none → f.restart = none →
      vfAt s vf = some v → v.fold = fold → readyWork s f vf = true →
      exec (.nextvf fold vf) s = .next (beginSlice (setVf (took s f fun g => g) (atTurn v))
        { f with h2dhead := f.h2dhead + 1, h2dtail := Nat.max f.h2dtail (f.h2dhead + 1) } vf)) ∧
    (∀ vf, f.mode.getLsbD 2 = false → Ignored (.nextvf fold vf) s f 6 vf 0) ∧
    (∀ l ∈ s.launches, l.lid = lid → l.fold = fold → l.phase = .waiting → f.mode.getLsbD 3 = true → lid ∉ f.starts →
      exec (.start fold lid) s = .next (setFold (took s f fun g => g)
        { f with h2dhead := f.h2dhead + 1, h2dtail := Nat.max f.h2dtail (f.h2dhead + 1), starts := f.starts ++ [lid] })) ∧
    (f.mode.getLsbD 3 = false → Ignored (.start fold lid) s f 8 (lidVf lid) lid) ∧
    (∀ l status, launchAt s lid = some l → l.fold = fold → f.mode.getLsbD 3 = true → l.phase = .waiting → status = 5 ∨ status = 6 →
      ∃ t, exec (.refuse fold lid status) s = .next t ∧
        t = setFold (answer (took s f fun g => g) { l with atHead := true } status.toNat 0 0)
          { (foldAt (answer (took s f fun g => g) { l with atHead := true } status.toNat 0 0) fold).getD f with
            starts := f.starts.filter (· != lid) }) ∧
    (∀ l, launchAt s lid = some l → l.fold = fold → l.phase = .placing → l.assisted = true → wavesGo f l = false →
      exec (.refuse fold lid 6) s = .next (setFold (answer (took s f fun g => g) l 6 0 0)
        { (foldAt (answer (took s f fun g => g) l 6 0 0) fold).getD f with placewaves := f.placewaves.filter fun w => w.1 != lid })) ∧
    (launchAt s lid = none → ∀ status, Ignored (.refuse fold lid status) s f 9 (lidVf lid) lid) ∧
    (∀ l die wave, launchAt s lid = some l → f.placewaves.contains (lid, die, wave) = true →
      ∃ u, exec (.placego fold lid die wave) s = .next (setLaunch u { l with go := (die, wave) :: l.go }) ∧
        u = setFold (took s f fun g => g) { f with
          h2dhead := f.h2dhead + 1
          h2dtail := Nat.max f.h2dtail (f.h2dhead + 1)
          placewaves := f.placewaves.erase (lid, die, wave) }) ∧
    (∀ die wave, f.placewaves.contains (lid, die, wave) = false → Ignored (.placego fold lid die wave) s f 11 (lidVf lid) lid) ∧
    (∀ r policy, policy.toNat ≤ 2 → f.contReqs.find? (fun r => r.lid == lid) = some r → ∃ t u, exec (.containact fold lid policy) s = .next t ∧
      t = applyPolicy u fold lid (lidVf lid) policy.toNat ∧ foldAt u fold = some { f with
        h2dhead := f.h2dhead + 1
        h2dtail := Nat.max f.h2dtail (f.h2dhead + 1)
        contReqs := f.contReqs.erase r } ∧
      ((coreAt s r.core).lid = lid → coreAt u r.core = goOn (coreAt s r.core)) ∧
      u = { s with folds := u.folds, core := u.core, others := u.others, vfs := u.vfs }) ∧
    (∀ policy, f.contReqs.find? (fun r => r.lid == lid) = none → Ignored (.containact fold lid policy) s f 13 (lidVf lid) lid) ∧
    (∀ v : Word, f.d2hhead ≤ v.toNat → v.toNat ≤ f.d2htail →
      let u := setFold s { f with d2hhead := v.toNat }
      exec (.d2hheadWrite fold v) s = .next (postWaiting f.mbWait.length u fold) ∧ (f.mbWait = [] → exec (.d2hheadWrite fold v) s = .next u)) ∧
    (∀ v : Word, v.toNat < f.d2hhead ∨ f.d2htail < v.toNat → exec (.d2hheadWrite fold v) s = .next s)

/-- R87, R98, R99, R411 to R417, R422, R453, R456: a slice that has used its quantum, or whose VF has no ready work, ends: FOLDMODE takes
effect, and in the hardware mode the next VF is picked, while in the assisted mode the host is told of the time used and of the debt, and
the device deducts nothing; a switch out stops the cores that no open region delays, and saves the context with the last of them; a switch
in puts the packets back first, then the rest, and ends what was started where a tag fails; the cores go on at the restart time; a fold that
lacks progress starts the ladder with an interrupt of its drovers, and the ladder goes on stage by stage and falls back to 0; and a write to
DRVBEAT counts as progress, and takes the interrupt (log 61). That the new FOLDMODE governs the boundary at which it takes effect is deduced
(DEDUCED, log 41); that it takes effect at once where no slice runs is log 76, what a mode change does to the waiting heads and STARTs and that
SLICEEND rounds down are log 60, and the switch time T and the restart 2,000 later are log 59 (DESIGN CHOICE each). -/
def Obligations.SlicesAndSwitches : Prop :=
  ∀ (s : State) (fold : Nat) (f : Fold), foldAt s fold = some f →
    let now := (timeOf s).toNat
    let bound := f.switchT = none ∧ f.switchTo = none ∧ f.restart = none ∧ f.sliceWaiting = false ∧ jobHolds s f = false
    let a := applyMode s f
    let g := (foldAt a fold).getD f
    (∀ vf, bound → f.sliceQuantum ≠ 0 → f.running = some vf → f.sliceStart + 100 * f.sliceQuantum ≤ now ∨ readyWork s f vf = false →
      (f.nextMode.getLsbD 2 = false →
        let r := pickVf (chargeSlice a f vf) g (some vf)
        exec (.sliceEnd fold) s = .next (match r.2 with
          | some v => beginSlice r.1 g v
          | none => setFold r.1 { g with sliceQuantum := 0 })) ∧
      (f.nextMode.getLsbD 2 = true →
        let used := BitVec.ofNat 64 ((now - f.sliceStart) / 100)
        let debt := BitVec.ofNat 64 ((((vfAt a vf).map (·.debt)).getD 0) / 100)
        let u := postMb (setFold a { g with sliceWaiting := true, sliceQuantum := 0 }) fold ⟨5, vf, used, debt, 0⟩
        exec (.sliceEnd fold) s = .next (match vfAt u vf with
          | some v => setVf u { v with debt := 0 }
          | none => u))) ∧
    (∀ vf, bound → f.sliceQuantum ≠ 0 → f.running = some vf → now < f.sliceStart + 100 * f.sliceQuantum → readyWork s f vf = true →
      exec (.sliceEnd fold) s = .refused (.notDue "SLICE_END")) ∧
    (bound → f.sliceQuantum = 0 → f.nextMode ≠ f.mode → exec (.sliceEnd fold) s = .next a) ∧
    (∀ vf, bound → f.sliceQuantum = 0 → f.nextMode = f.mode → f.mode.getLsbD 2 = false →
      ((foldVfs s fold).any fun v => readyWork s f v.num) = true → (pickVf s f none).2 = some vf →
      exec (.sliceEnd fold) s = .next (beginSlice (pickVf s f none).1 f vf)) ∧
    (∀ vf t, f.running = some vf → f.switchT = some t →
      let u := stopCores (atSwitchTime s f vf) f vf
      let h := (foldAt u fold).getD f
      (now < t → exec (.gangSwitchOut fold) s = .refused (.notDue "GANG_SWITCH_OUT")) ∧
      (t ≤ now → (∀ c ∈ coresOf u h vf, c.sync.halted = true) → exec (.gangSwitchOut fold) s = .next (switchOut u h vf t)) ∧
      (t ≤ now → (∃ c ∈ coresOf u h vf, c.sync.halted = false) → u ≠ s → exec (.gangSwitchOut fold) s = .next u)) ∧
    (∀ vf v ok, f.running = none → f.switchTo = some vf → vfAt s vf = some v →
      (v.saved = none → exec (.gangSwitchIn fold vf ok) s = .next (beginRunning s f vf)) ∧
      (∀ x, v.saved = some x → ok = false ∨ areaOk f v x = false → x.restoring = false →
        exec (.gangSwitchIn fold vf ok) s = .next (beginRunning (dropSaved (failRestore s f vf) vf) f vf)) ∧
      (∀ x, v.saved = some x → ok = true → areaOk f v x = true → reinjected s f = false → x.packets = [] →
        exec (.gangSwitchIn fold vf ok) s = .next (putBack s f vf x)) ∧
      (∀ x p ps, v.saved = some x → ok = true → areaOk f v x = true → reinjected s f = false → x.packets = p :: ps →
        let r := injectRound ((ps.map (·.hops)).foldl Nat.min p.hops) s [] x.packets
        r.2.length ≠ x.packets.length →
          exec (.gangSwitchIn fold vf ok) s = .next (setVf r.1 { v with saved := some { x with packets := r.2, restoring := true } }))) ∧
    (∀ vf t ok, f.running = some vf → f.restart = some t →
      (t ≤ now → exec (.gangSwitchIn fold vf ok) s = .next (restartVf s f vf)) ∧
      (now < t → exec (.gangSwitchIn fold vf ok) s = .refused (.notDue "GANG_SWITCH_IN"))) ∧
    (lacksProgress s f = true → f.wdStage = 0 → exec (.watchdogStage fold) s = .next
      (mapDrovers (setFold s { f with wdStage := 1, wdSince := now }) ((foldAt (setFold s { f with wdStage := 1, wdSince := now }) f.num).getD f)
        fun d => { d with irq := true })) ∧
    (lacksProgress s f = false → f.wdStage ≠ 0 → exec (.watchdogStage fold) s = .next (setFold s { f with wdStage := 0, wdSince := now })) ∧
    (∀ n, n = f.wdStage + 1 → lacksProgress s f = true → f.wdStage ≠ 0 → n ≤ 6 → f.wdSince + (f.wdTimes[f.wdStage]?).getD 0 ≤ now →
      exec (.watchdogStage fold) s = .next (stageActs (setFold s { f with wdStage := n, wdSince := now })
        ((foldAt (setFold s { f with wdStage := n, wdSince := now }) f.num).getD f) n)) ∧
    (∀ die v, let u := setDie s { dieAt s die with drvbeat := v, beatAt := now, drover := { (dieAt s die).drover with irq := false } }
      dieEnabled s die = true →
      ((dieAt s die).fold = none → exec (.drvbeatWrite die v) s = .next u) ∧
      ((dieAt s die).fold = some fold → f.wdStage = 0 → exec (.drvbeatWrite die v) s = .next u) ∧
      ((dieAt s die).fold = some fold → f.wdStage ≠ 0 → lacksProgress u f = false →
        exec (.drvbeatWrite die v) s = .next (setFold u { f with wdStage := 0, wdSince := now })))

/-- R12 to R14, R16, R17, R126, R130, R280, R354: the first packet of a buffer advances as a whole when the next buffer has credit for its
flits and, at a router, the round-robin of its output has come to it; at its destination it is delivered, or discarded with an isolation
record; a host's request is performed at its delivery and answered; the host's access leaves as one packet for each line, or is made where
UALink serves the pooled range; an uncorrectable error marks its words, a soft error is corrected, and a parity error drops the line, and
each is logged. The flits of a buffer and the ports of the host are the model's (log 19). -/
def Obligations.PacketsAndErrors : Prop :=
  ∀ (s : State),
    (∀ i p, s.packets[i]? = some p → isFirst s i p = false → exec (.packetHop i) s = .refused (.notDue "PACKET_HOP")) ∧
    (∀ i p, s.packets[i]? = some p → isFirst s i p = true →
      (p.at_ = .passenger → hasCredit s { p with at_ := .leaving } = true → exec (.packetHop i) s = .next (movePacket s i p .leaving)) ∧
      (let r := routerOf p.srcSocket p.srcPort
       let n := PacketAt.input r.1 r.2 (portInput p.srcSocket)
       p.at_ = .leaving → hasCredit s { p with at_ := n } = true → exec (.packetHop i) s = .next (movePacket s i p n)) ∧
      (∀ c r k, let n := nextPlace p c r
        p.at_ = .input c r k → turnOf s c r n.1 p.response = some k → hasCredit s { p with at_ := n.2 } = true →
          ∃ t, exec (.packetHop i) s = .next t ∧ t = { movePacket s i p n.2 with grants := t.grants } ∧
            t.grants.find? (isGrant c r n.1 p.response) = some ⟨c, r, n.1, p.response, k⟩) ∧
      (∀ c r k, p.at_ = .input c r k → turnOf s c r (nextPlace p c r).1 p.response ≠ some k →
        exec (.packetHop i) s = .refused (.notDue "PACKET_HOP"))) ∧
    (∀ i p, s.packets[i]? = some p → p.at_ = .arriving → isFirst s i p = true →
      let u := { s with packets := s.packets.take i ++ s.packets.drop (i + 1) }
      let key := homeKey p.fold
      let here := passengerFold s p.dstSocket
      let takes := (here = some p.fold ∧ p.kind ≠ .service) ∨ (p.kind = .service ∧ p.dstSocket < 64) ∨ (p.kind = .ioDie ∧ 64 ≤ p.dstSocket) ∨
        ∃ id n g h, p.kind = .peer id ∧ here = some n ∧ foldAt s n = some g ∧ h ∈ g.handles ∧ h.id = id ∧ h.importer = p.fold ∧ h.revoked = false
      (¬takes → exec (.packetDeliver i) s = .next (logRas u (some p.fold) .isolation (BitVec.ofNat 64 p.dstSocket))) ∧
      (takes → p.cargo = .traffic → p.response = true → exec (.packetDeliver i) s = .next u) ∧
      (takes → p.cargo = .traffic → p.response = false → exec (.packetDeliver i) s = .next (respond u p 2 .traffic)) ∧
      (∀ pa n, takes → p.cargo = .host pa (.read n) → n ≠ 0 →
        let r := hostReadBytes u (key pa) n
        exec (.packetDeliver i) s = .next (respond r.1 p 2 (.answer pa r.2))) ∧
      (∀ pa d, takes → p.cargo = .host pa (.write d) →
        exec (.packetDeliver i) s = .next (respond (hostWriteBytes u (key pa) d) p 1 (.answer pa []))) ∧
      (∀ pa bs, takes → p.cargo = .answer pa bs → exec (.packetDeliver i) s = .next { u with hostRead := hostTakes u.hostRead (key pa) bs })) ∧
    (∀ fold pa (op : HostOp) f, let n := match op with | .read n => n | .write d => d.length
      let key := homeKey fold pa
      let u := { s with hostRead := s.hostRead.filter fun c => decide (c.1 < key) || decide (key + n ≤ c.1) }
      foldAt s fold = some f → 0 < n →
      (∀ h, pa % 64 + n ≤ 64 → homeOf f pa = some h →
        exec (.hostAccess fold pa op) s = .next { u with packets := s.packets ++ [hostPacket f h pa op] }) ∧
      (pa % 64 + n ≤ 64 → homeOf f pa = none → f.map.pbase ≤ pa → pa + n ≤ f.map.pbase + f.map.psize →
        let r := performHost u fold pa op
        exec (.hostAccess fold pa op) s = .next { r.1 with hostRead := hostTakes r.1.hostRead key r.2 }) ∧
      ((∀ x ∈ lineParts n pa n, (homeOf f x.1).isSome = true ∨ (f.map.pbase ≤ x.1 ∧ x.1 + x.2 ≤ f.map.pbase + f.map.psize)) →
        exec (.hostAccess fold pa op) s = .next ((lineParts n pa n).foldl (hostPart f op pa) u))) ∧
    (∀ place k ks, let u := (k :: ks).foldl (fun s k => poisonAt s place k) s
      exec (.uncorrectableError place (k :: ks)) s =
        .next (logRas (if place = .stored then mapCores u (refuseStores ((k :: ks).map wordKey)) else u) (foldOfKey s k) .uncorrectable
          (BitVec.ofNat 64 k)) ∧
      (place = .stored → ∀ j ∈ k :: ks, poisoned u j = true)) ∧
    (∀ k, exec (.softError k) s = .next (logRas s (foldOfKey s k) .softError (BitVec.ofNat 64 k))) ∧
    (∀ n, (∃ l ∈ s.core.icache, l.line = n) → exec (.parityError n) s =
      .next (logRas (setCore s { s.core with icache := s.core.icache.filter fun l => l.line != n }) (some s.core.fold) .parity (BitVec.ofNat 64 n)))

/-- R3, R22 to R24, R84, R437 to R439, R443, R446, R449, R451, R453: power-on verifies the root key, the boot image, the record, the links and the
drover image in turn, BOOTSTAT says how far it came, and no fold, VF or launch stands; a module warm reset runs the same steps from the
second; the drovers go on in their new image; a write of GO hands the request buffer's frame to Benostale, which under BUSY or DONE it does
not; a write to a register, to a word of the request buffer, or to a word of the host's ring, acts by its access code; and a fold
reset by policy or by the watchdog resets the fold. That a module warm reset ends folds, VFs, launches and strands is deduced (DEDUCED,
log 21); that GO does nothing before Benostale has started is the model's choice (DESIGN CHOICE, log 73). -/
def Obligations.BootAndRegisters : Prop :=
  ∀ (s : State),
    let b := setSvc State.reset (keptModule s.svc)
    (verified s.svc 1 = none ∨ rootAccepted s.svc = false → exec .powerOn s = .next (setSvc b { b.svc with bootErr := 3 })) ∧
    (∀ i, verified s.svc 1 = some i → rootAccepted s.svc = true →
      let u := setSvc b { runImage b.svc i with bootStep := 1 }
      exec .powerOn s = .next (bootFrom2 u) ∧
      (verified s.svc 3 = none → exec .powerOn s = .next (setSvc u { u.svc with config := none, bootErr := 1, bootStep := 5 })) ∧
      (∀ c, verified s.svc 3 = some c → recordOk u (imageBody c) = false → exec .powerOn s = .next (setSvc u { u.svc with
        measured := u.svc.measured ++ [measureOf c]
        config := none
        bootErr := 1
        bootStep := 5 })) ∧
      (∀ c, verified s.svc 3 = some c → recordOk u (imageBody c) = true → s.svc.linkFaults = [] →
        (∀ d, verified s.svc 2 = some d → ∃ t, exec .powerOn s = .next t ∧ t.svc.bootStep = 5 ∧ t.svc.bootErr = 0 ∧ t.svc.trainFail = 0 ∧
          t.svc.config = some (parseConfig (imageBody c)) ∧ t.svc.disabledDies = [] ∧ t.svc.measured = [measureOf i, measureOf c, measureOf d] ∧
          t.folds = [] ∧ t.vfs = [] ∧ t.launches = [] ∧ t.mem = []) ∧
        (verified s.svc 2 = none → ∃ t, exec .powerOn s = .next t ∧ t.svc.bootStep = 3 ∧ t.svc.bootErr = 2 ∧ t.svc.config = none))) ∧
    (s.svc.bootStep ≠ 0 → exec .moduleWarmReset s = .next (bootFrom2 (setSvc (warmBase s)
      (match imageOf s.svc.flash 1 with | some i => runImage (warmBase s).svc i | none => (warmBase s).svc))) ∧
      (warmBase s).folds = [] ∧ (warmBase s).vfs = [] ∧ (warmBase s).launches = [] ∧ (∀ c ∈ allCores (warmBase s), c.occ = .idle)) ∧
    (∀ i, imageOf s.svc.flash 2 = some i → s.svc.swapping = true → exec .droverSwap s = .next (setSvc s { s.svc with
      swapping := false
      running := upsert (fun h => h.kind == imageKind i) (measureOf i) s.svc.running
      measured := s.svc.measured ++ [measureOf i] })) ∧
    exec .mbstatDoneClear s = .next (setSvc s { s.svc with done := false }) ∧
    (∀ v : Word, exec (.registerWrite (.management 0x10) v) s = .next (if v.getLsbD 1 then setSvc s { s.svc with done := false } else s)) ∧
    (∀ v : Word, exec (.registerWrite (.management 0x8) v) s = .next (
      if v.getLsbD 0 = true ∧ s.svc.busy = false ∧ s.svc.done = false ∧ s.svc.bootStep = 5 ∧ s.svc.powerCycle = false then
        setSvc s { s.svc with busy := true, submitted := some (bufferedFrame s) }
      else s)) ∧
    (∀ o (v : Word), o < 0x10000 → o % 8 = 0 → ∃ m, exec (.registerWrite (.management (0x10000 + o)) v) s = .next (setSvc s m) ∧
      m = { s.svc with request := m.request } ∧ requestWord (setSvc s m) o = v ∧ ∀ q, q ≠ o → requestWord (setSvc s m) q = requestWord s q) ∧
    (∀ o (v : Word), o ≠ 0x8 → o ≠ 0x10 → o < 0x10000 ∨ 0x20000 ≤ o ∨ o % 8 ≠ 0 → exec (.registerWrite (.management o) v) s = .next s) ∧
    (∀ fold f (v : Word), foldAt s fold = some f →
      exec (.registerWrite (.hostMailbox fold 0x10020) v) s = .next (setFold s { f with ien := v.getLsbD 0 }) ∧
      (f.h2dtail ≤ v.toNat → v.toNat ≤ f.h2dhead + 1024 →
        exec (.registerWrite (.hostMailbox fold 0x10010) v) s = .next (setFold s { f with h2dtail := v.toNat })) ∧
      (v.toNat < f.h2dtail ∨ f.h2dhead + 1024 < v.toNat → exec (.registerWrite (.hostMailbox fold 0x10010) v) s = .next s) ∧
      exec (.registerWrite (.hostMailbox fold 0x10000) v) s = .next s ∧
      (∀ o, o < 0x8000 → exec (.registerWrite (.hostMailbox fold o) v) s = .next s) ∧
      (∀ o, o < 0x8000 → o % 8 = 0 → ∃ g, exec (.registerWrite (.hostMailbox fold (0x8000 + o)) v) s = .next (setFold s g) ∧
        g = { f with h2d := g.h2d } ∧ hostRingWord g o = v ∧ ∀ q, q ≠ o → hostRingWord g q = hostRingWord f q)) ∧
    (∀ vf p (v : Word), p < 8 → exec (.registerWrite (.doorbellPage vf (8 * p)) v) s = exec (.doorbell vf p v) s) ∧
    (∀ vf (v : Word), exec (.registerWrite (.doorbellPage vf 0x40) v) s = exec (.qovfClear vf v) s) ∧
    (∀ d (v : Word), dieEnabled s d = true → exec (.registerWrite (.drover d 0x7C3) v) s = .next (setDie s { dieAt s d with drvmbox := v })) ∧
    (∀ fold f, foldAt s fold = some f → Input.foldReset fold ∈ s.inputs → exec (.foldreset none fold) s = .next (resetFold s f))

/-- R441 to R444: the checks of a frame. A frame that breaks the layout of R442 is answered with STATUS 4, one whose key is not registered or
whose signature is bad with 1, and one whose COUNT is not above the highest accepted with 2, and nothing else changes; an unknown CODE in a
frame that passes is answered with 3 once its COUNT is recorded, a malformed body with 4, and a request of FOLDDEL that names no fold with 6;
and GO under BUSY or DONE is ignored. The order of the checks is the model's (PRESUMED, log 7), and so is that a FOLDDEL body longer than its
one byte is malformed (DESIGN CHOICE, log 63). -/
def Obligations.RequestChecks : Prop :=
  ∀ (s : State) (fr : Frame),
    let h := headerOf fr
    let i : Instr := .unknownCode fr
    let up := TakesFrame s fr ∧ h.code.toNat ∉ knownCodes
    (up → frameOk fr = false → Answers i s fr 4 [] s) ∧
    (up → frameOk fr = true → registered s h.keyid = none → Answers i s fr 1 [] s) ∧
    (∀ k key, up → frameOk fr = true → registered s h.keyid = some k → k.key = some key → frameSigned key fr = false → Answers i s fr 1 [] s) ∧
    (∀ k key c, up → frameOk fr = true → registered s h.keyid = some k → k.key = some key → frameSigned key fr = true → k.count = some c →
      h.count.toNat ≤ c.toNat → Answers i s fr 2 [] s) ∧
    (∀ k, FrameOk s fr h.code.toNat k → h.code.toNat ∉ knownCodes → Answers i s fr 3 [] (counted s fr k)) ∧
    (∀ k n, FrameOk s fr 0x02 k → (bodyOf fr).length ≠ 1 → Answers (.folddel fr n) s fr 4 [] (counted s fr k)) ∧
    (∀ k, FrameOk s fr 0x02 k → (bodyOf fr).length = 1 → foldAt s (leField (bodyOf fr) 0 1) = none →
      Answers (.folddel fr (leField (bodyOf fr) 0 1)) s fr 6 [] (counted s fr k)) ∧
    (s.svc.bootStep = 5 → s.svc.powerCycle = false → h.code.toNat ∉ knownCodes → fr.viaPcie = true → isSubmitted s fr = false →
      s.svc.busy = true ∨ s.svc.done = true → exec i s = .next s)

/-- R85, R89, R119, R122, R421, R424, R441, R445, R447 to R449, R452, R456: the requests about folds, VFs and replacement classes, as their
bodies give them, have their effect and their answer, and are refused with STATUS 5 where their rule forbids them. -/
def Obligations.FoldAndVfRequests : Prop :=
  ∀ (s : State) (fr : Frame) (k : OperatorKey),
    let body := bodyOf fr
    let u := counted s fr k
    let now := (timeOf s).toNat
    (∀ b, FrameOk s fr 0x01 k → parseFoldNew body = some b →
      (foldAt s b.fold = none → b.dies ≠ [] → (∀ n ∈ b.dies, dieEnabled s n = true ∧ (dieAt s n).fold = none) → mapOk b.map b.dies = true →
        Answers (.foldnew fr b) s fr 0 (leBytes 8 (saveMaxFor s b.dies))
          (b.dies.foldl (fun v n => setDieFold v (some b.fold) b.foldmode n) (setFold u (newFold now (saveMaxFor s b.dies) b)))) ∧
      ((foldAt s b.fold).isSome = true ∨ b.dies = [] ∨ (∃ n ∈ b.dies, dieEnabled s n = false ∨ (dieAt s n).fold ≠ none) ∨
          mapOk b.map b.dies = false → Answers (.foldnew fr b) s fr 5 [] u)) ∧
    (∀ b, FrameOk s fr 0x01 k → parseFoldNew body = none → Answers (.foldnew fr b) s fr 4 [] u) ∧
    (∀ f, let n := leField body 0 1
      body.length = 1 → foldAt s n = some f →
      (FrameOk s fr 0x02 k → Answers (.folddel fr n) s fr 0 [] (removeFold u f)) ∧
      (FrameOk s fr 0x03 k → Answers (.foldreset (some fr) n) s fr 0 [] (resetFold u f))) ∧
    (∀ f, let n := leField body 0 1
      let what := leField body 1 1
      FrameOk s fr 0x04 k → foldAt s n = some f →
      (what = 0 → body.length = 9 → leField body 8 1 ≤ 127 →
        Answers (.foldsetFoldmode fr n (BitVec.ofNat 7 (leField body 8 1))) s fr 0 [] (setFold u { f with nextMode := BitVec.ofNat 7 (leField body 8 1) })) ∧
      (what = 1 → body.length = 9 → leField body 8 1 ≤ 2 →
        Answers (.foldsetPolicy fr n (leField body 8 1)) s fr 0 [] (setFold u { f with policy := leField body 8 1 })) ∧
      (what = 2 → body.length = 396 → let key : PubKey := ⟨leField body 8 384, BitVec.ofNat 32 (leField body 392 4)⟩
        Answers (.foldsetCodeKey fr n key) s fr 0 [] (setFold u { f with codeKey := some key })) ∧
      (∀ ms : Vector Nat 6, what = 3 → body.length = 32 → (∀ i, i < 6 → ms[i]? = some (leField body (8 + 4 * i) 4)) →
        ∃ w : Vector Nat 6, (∀ i, i < 6 → w[i]? = some (100000 * leField body (8 + 4 * i) 4)) ∧
        Answers (.foldsetWatchdogTimes fr n ms) s fr 0 [] (setFold u { f with wdTimes := w })) ∧
      (∀ m, 3 < what → Answers (.foldsetFoldmode fr n m) s fr 4 [] u)) ∧
    (∀ n f t, FrameOk s fr 0x12 k → parseRct body = some (n, t) → foldAt s n = some f →
      ((∀ w ∈ t, w.extractLsb' 4 16 ≠ 0) → ∃ c : Vector (BitVec 32) 8, c.toList = t ∧
        Answers (.rct fr n t) s fr 0 [] (setFold u { f with rct := c })) ∧
      ((∃ w ∈ t, w.extractLsb' 4 16 = 0) → Answers (.rct fr n t) s fr 5 [] u)) ∧
    (∀ b f, FrameOk s fr 0x10 k → parseVfSet body = some b → foldAt s b.fold = some f →
      let q := Nat.max b.quantum (2 * f.saveMax)
      let legal := b.quantum ≠ 0 ∧ b.queueBlock.toNat % 256 = 0
      (vfAt s b.vf = none → legal → (s.vfs.filter fun v => v.fold == b.fold).length < 64 →
        Answers (.vfset fr b) s fr 0 (leBytes 4 q) (configureVf u b q)) ∧
      (∀ v, vfAt s b.vf = some v → legal → v.fold = b.fold → v.queueBlock = b.queueBlock → v.root = b.root →
        Answers (.vfset fr b) s fr 0 (leBytes 4 q) (setVf u { v with nextWeight := b.weight, nextQuantum := q })) ∧
      (∀ v, vfAt s b.vf = some v → v.queueBlock ≠ b.queueBlock ∨ v.root ≠ b.root → Answers (.vfset fr b) s fr 5 [] u) ∧
      (vfAt s b.vf = none → 64 ≤ (s.vfs.filter fun v => v.fold == b.fold).length → Answers (.vfset fr b) s fr 5 [] u) ∧
      (¬legal → Answers (.vfset fr b) s fr 5 [] u)) ∧
    (∀ v, let n := leField body 0 2
      FrameOk s fr 0x11 k → body.length = 2 → vfAt s n = some v →
      ((∀ l ∈ s.launches, l.vf = n → l.phase = .waiting) → Answers (.vfdel fr n) s fr 0 [] (removeVf u v)) ∧
      ((∃ l ∈ s.launches, l.vf = n ∧ l.phase ≠ .waiting) → Answers (.vfdel fr n) s fr 5 [] u))

/-- R29, R30, R36, R54, R55, R81, R124, R437 to R446, R454, R455: the requests about handles, snapshots, images, identity, reports, files and keys,
as their bodies give them, have their effect and their answer; SNAPSHOT and MIGRATE are taken up, and are answered when their gang switches
are done. What the identity, a signature and a counter record hold is free (log 6, log 7). A LOAD submits the
launch records of its file (R81). The STATUS 8 of a LOAD without a plan and its STATUS 5 where an append is refused are log 67, the STATUS 8 of a
body that is too large is log 73, RASLOG's 24-byte records and the 2,711 of them in a body are log 16, the id of a handle is log 51, what
MIGRATE tests of its destination is log 22, and the exact lengths of the bodies are log 63: the model's choices (DESIGN CHOICE each). -/
def Obligations.ServiceRequests : Prop :=
  ∀ (s : State) (fr : Frame) (k : OperatorKey),
    let body := bodyOf fr
    let u := counted s fr k
    (∀ b v f, FrameOk s fr 0x13 k → vfAt s b.vf = some v → foldAt s v.fold = some f →
      (parseHandle 0 body = some b → Answers (.handleExport fr b) s fr 0 (leBytes 8 (nextHandle s).toNat)
        (setFold u { f with handles := f.handles ++
          [⟨nextHandle s, v.num, f.num, b.base, b.length, b.rights, b.importer, b.endpoint, [], false⟩] })) ∧
      (parseHandle 1 body = some b → droversTake s b.vf = true → b.endpoint ≠ 0 → windowFree s f b.base b.length = true → Answers (.handleInstall fr b) s fr 0 []
        (setFold u { f with handles := f.handles ++
          [⟨b.handle, b.vf, f.num, 0, b.length, b.rights, f.num, b.endpoint, [(f.num, b.base, b.length)], false⟩] })) ∧
      (∀ e, parseHandle 1 body = some b → droversTake s b.vf = true → b.endpoint = 0 → windowFree s f b.base b.length = true →
        (allHandles s).find? (fun e => e.id == b.handle && e.endpoint == 0) = some e →
        (e.revoked = false → e.importer = f.num → b.length ≤ e.length → Answers (.handleInstall fr b) s fr 0 [] (mapHandles u fun x =>
          if x.id = e.id && x.endpoint = 0 then { x with installed := x.installed ++ [(f.num, b.base, b.length)] } else x)) ∧
        (e.revoked = true ∨ e.importer ≠ f.num ∨ e.length < b.length → Answers (.handleInstall fr b) s fr 5 [] u)) ∧
      (parseHandle 1 body = some b → droversTake s b.vf = true → windowFree s f b.base b.length = false →
        Answers (.handleInstall fr b) s fr 5 [] u) ∧
      (droversTake s b.vf = false → exec (.handleInstall fr b) s = .refused (.notDue "HANDLE_INSTALL"))) ∧
    (∀ b e, FrameOk s fr 0x13 k → parseHandle 2 body = some b → (allHandles s).find? (fun e => e.id == b.handle) = some e →
      (e.vf = b.vf → Answers (.handleRevoke fr b) s fr 0 [] (mapHandles u fun x => if x.id = e.id && x.vf = e.vf then { x with revoked := true } else x)) ∧
      (e.vf ≠ b.vf → Answers (.handleRevoke fr b) s fr 5 [] u)) ∧
    (let up := fun (vf : Nat) (m : Option Nat) => setSvc u { u.svc with
        busy := fr.viaPcie
        submitted := none
        job := some ⟨fr.viaPcie, (headerOf fr).code, (headerOf fr).count, (headerOf fr).salt, vf, m, .asked, 0, 0, true, false⟩ }
     (FrameOk s fr 0x20 k → body.length = 2 → (vfAt s (leField body 0 2)).isSome = true →
        exec (.snapshot fr (leField body 0 2)) s = .next (up (leField body 0 2) none)) ∧
     (∀ vf dest delta ep, FrameOk s fr 0x21 k → parseMigrate body = some (vf, dest, delta, ep) → dest ≤ 31 → (vfAt s vf).isSome = true →
        exec (.migrate fr vf dest delta ep true) s = .next (up vf (some delta)) ∧ Answers (.migrate fr vf dest delta ep false) s fr 5 [] u)) ∧
    (FrameOk s fr 0x30 k →
      (imageOk s.svc body = true → Answers (.stage fr body) s fr 0 [] (setSvc u { u.svc with
        flash := putImage s.svc.flash body
        swapping := s.svc.swapping || imageKind body == 2 })) ∧
      (imageOk s.svc body = false → Answers (.stage fr body) s fr 7 [] u)) ∧
    (∀ g, let n := leField body 0 2
      FrameOk s fr 0x31 k → body.length = 2 → 1 ≤ n → n ≤ 3 → s.svc.running.find? (fun i => i.kind == n) = some g →
      let c := Nat.max (svnCounter s.svc n).toNat g.svn
      Answers (.commit fr n) s fr 0 (leBytes 4 c)
        (setSvc u { u.svc with counters := upsert (fun x => x.1 == n) (n, BitVec.ofNat 32 c) s.svc.counters })) ∧
    (FrameOk s fr 0x40 k → body = [] → ∃ bs, bs.length = 388 ∧ Answers (.identity fr) s fr 0 bs u) ∧
    (FrameOk s fr 0x41 k → body.length = 32 → let log := s.svc.measured.flatMap logEntry
      (log.length + 416 ≤ 65088 → ∃ bs, bs.length = 384 ∧ Answers (.quote fr (leField body 0 32)) s fr 0 (log ++ leBytes 32 (leField body 0 32) ++ bs) u) ∧
      (65088 < log.length + 416 →
        Answers (.quote fr (leField body 0 32)) s fr 8 [] (logRas u none .internalError (BitVec.ofNat 64 (headerOf fr).code.toNat)))) ∧
    (FrameOk s fr 0x50 k → body.length = 4 → ∃ bs, bs.length = 8 ∧ Answers (.telemetry fr (leField body 0 4)) s fr 0 (leBytes 4 0 ++ bs) u) ∧
    (let n := leField body 0 8
     (FrameOk s fr 0x51 k → body.length = 8 → s.ras.length ≤ n + 2711 →
        Answers (.raslog fr n) s fr 0 (leBytes 8 0 ++ (s.ras.drop n).flatMap rasBytes) u) ∧
     (FrameOk s fr 0x51 k → body.length = 8 → n + 2711 < s.ras.length →
        Answers (.raslog fr n) s fr 0 (leBytes 8 (n + 2711) ++ ((s.ras.drop n).take 2711).flatMap rasBytes) u)) ∧
    (∀ v plan, let file := body.drop 8
      let taken := fileOk file = true ∧ ∀ f key, foldAt s v.fold = some f → f.codeKey = some key → signedOk key file = true
      FrameOk s fr 0x60 k → 8 ≤ body.length → vfAt s (leField body 0 2) = some v →
      let fits := fun (rows : List (Nat × Word × Nat)) => planFree u v plan rows (rows.foldl (loadPage file v) (u, plan.pool)).2
      (∀ rows, taken → planOf u v file plan = some rows → fits rows = true →
        let r := (launchesOf file).foldl (loadAppend (leField body 0 2)) (some (rows.foldl (loadPage file v) (u, plan.pool)).1)
        (∀ t, r = some t → Answers (.load fr (leField body 0 2) plan) s fr 0 (leBytes 4 (loadedSections file).length) t) ∧
        (r = none → Answers (.load fr (leField body 0 2) plan) s fr 5 [] u)) ∧
      (taken → (∀ rows, planOf u v file plan = some rows → fits rows = false) →
        Answers (.load fr (leField body 0 2) plan) s fr 8 [] (logRas u none .internalError (BitVec.ofNat 64 v.num))) ∧
      (¬taken → Answers (.load fr (leField body 0 2) plan) s fr 7 [] u)) ∧
    (∀ n key, FrameOk s fr 0x70 k → parseKeyAdd body = some (n, key) →
      (registered u n = none → Answers (.keyadd fr n key) s fr 0 [] (setKey u ⟨n, some key, (keyOf u n).bind (·.count)⟩)) ∧
      ((registered u n).isSome = true → Answers (.keyadd fr n key) s fr 5 [] u)) ∧
    (∀ e, let n := leField body 0 4
      FrameOk s fr 0x71 k → body.length = 4 → registered u n = some e →
      (n ≠ (headerOf fr).keyid → Answers (.keydel fr n) s fr 0 [] (setKey u { e with key := none })) ∧
      (n = (headerOf fr).keyid → Answers (.keydel fr n) s fr 5 [] u))

end
end

