-- ==== Sys2Proof/Laws/Crypto.lean ====
section
/-!
SUPPORT. Laws/Crypto.lean: bytes and numbers, and that verification accepts what the encoding of RSASSA-PSS makes (R437).
-/

namespace Sys2Proof.Machine

/-! ## Bytes and numbers -/

theorem leBytes_length (n v : Nat) : (leBytes n v).length = n := by
  induction n generalizing v with
  | zero => rfl
  | succ n ih => simp [leBytes, ih]

theorem ofLeBytes_leBytes (n v : Nat) : ofLeBytes (leBytes n v) = v % 256 ^ n := by
  induction n generalizing v with
  | zero => simp [leBytes, ofLeBytes, Nat.mod_one]
  | succ n ih =>
    rw [leBytes, ofLeBytes, ih, BitVec.toNat_ofNat, Nat.pow_succ' (m := 256)]
    exact Nat.mod_mul.symm

theorem leBytes_ofLeBytes (l : List Byte) : leBytes l.length (ofLeBytes l) = l := by
  induction l with
  | nil => rfl
  | cons b t ih =>
    have hb := b.isLt
    have h1 : BitVec.ofNat 8 (b.toNat + 256 * ofLeBytes t) = b := by
      apply BitVec.eq_of_toNat_eq
      rw [BitVec.toNat_ofNat]
      omega
    have h2 : (b.toNat + 256 * ofLeBytes t) / 256 = ofLeBytes t := by omega
    simp only [List.length_cons, ofLeBytes, leBytes, h1, h2, ih]

theorem ofBeBytes_eq (l : List Byte) : ofBeBytes l = ofLeBytes l.reverse := by
  have h : ∀ (l : List Byte) (v : Nat), l.foldl (fun v b => v * 256 + b.toNat) v = ofLeBytes (l.reverse) + 256 ^ l.length * v := by
    intro l
    induction l using List.reverseRecOn with
    | nil => simp [ofLeBytes]
    | append_singleton l b ih =>
      intro v
      simp only [List.foldl_append, List.foldl_cons, List.foldl_nil, ih, List.reverse_append, List.reverse_singleton, List.singleton_append,
        ofLeBytes, List.length_append, List.length_singleton, Nat.pow_succ']
      ring
  show l.foldl (fun v b => v * 256 + b.toNat) 0 = _
  simpa using h l 0

theorem beBytes_length (n v : Nat) : (beBytes n v).length = n := by simp [beBytes, leBytes_length]

theorem ofBeBytes_beBytes (n v : Nat) : ofBeBytes (beBytes n v) = v % 256 ^ n := by
  rw [ofBeBytes_eq, beBytes, List.reverse_reverse, ofLeBytes_leBytes]

theorem beBytes_ofBeBytes (l : List Byte) : beBytes l.length (ofBeBytes l) = l := by
  rw [ofBeBytes_eq, beBytes, ← List.length_reverse, leBytes_ofLeBytes, List.reverse_reverse]

theorem ofLeBytes_lt (l : List Byte) : ofLeBytes l < 256 ^ l.length := by
  induction l with
  | nil => simp [ofLeBytes]
  | cons b t ih =>
    have hb := b.isLt
    simp only [ofLeBytes, List.length_cons, Nat.pow_succ']
    omega

theorem sha256_length (m : List Byte) : (sha256 m).length = 32 := by simp [sha256, beBytes_length]

/-! ## Signatures -/

/-- The encoded message of a message, with a salt of zeros. -/
def pssEncode (m : List Byte) : Nat :=
  let h := pssHash m (beBytes 32 0)
  Nat.xor (2 ^ 256) (mgfMask h) % 2 ^ 2807 * 2 ^ 264 + ofBeBytes h * 256 + 0xBC

/-- The key with exponent 1, under which an encoded message is its own signature. -/
def plainKey : PubKey := ⟨2 ^ 3071, 1⟩

/-- The signature of a message under that key. -/
def plainSign (m : List Byte) : List Byte := beBytes rsaBytes (pssEncode m)

theorem plainSign_length (m : List Byte) : (plainSign m).length = 384 := beBytes_length _ _

theorem powMod_zero (n : Nat) (h : 1 < n) : ∀ k b, powMod n k b 0 = 1
  | 0, _ => Nat.mod_eq_of_lt h
  | k + 1, b => by simp [powMod, powMod_zero n h k]

theorem powMod_one {n x : Nat} (h : 1 < n) (hx : x < n) (k : Nat) : powMod n (k + 1) x 1 = x := by
  simp [powMod, powMod_zero n h k, Nat.mod_eq_of_lt hx]

theorem pssHash_lt (m salt : List Byte) : ofBeBytes (pssHash m salt) < 2 ^ 256 := by
  have h := ofLeBytes_lt (pssHash m salt).reverse
  rw [ofBeBytes_eq]
  simpa [pssHash, sha256_length] using h

theorem pssEncode_fits (m : List Byte) : pssFits m (pssEncode m) = true := by
  have hh := pssHash_lt m (beBytes 32 0)
  have hm : Nat.xor (2 ^ 256) (mgfMask (pssHash m (beBytes 32 0))) % 2 ^ 2807 < 2 ^ 2807 := Nat.mod_lt _ (Nat.two_pow_pos _)
  have hb : beBytes 32 (ofBeBytes (pssHash m (beBytes 32 0))) = pssHash m (beBytes 32 0) := by
    have := beBytes_ofBeBytes (pssHash m (beBytes 32 0))
    rwa [show (pssHash m (beBytes 32 0)).length = 32 from sha256_length _] at this
  have hz : beBytes 32 (2 ^ 256) = beBytes 32 0 := by decide +kernel
  have hx : ∀ a b : Nat, Nat.xor (Nat.xor a b % 2 ^ 2807) b % 2 ^ 2807 = a % 2 ^ 2807 := by
    intro a b
    apply Nat.eq_of_testBit_eq
    intro i
    have e1 : ∀ x y : Nat, (Nat.xor x y).testBit i = (x.testBit i ^^ y.testBit i) := fun x y => Nat.testBit_xor x y i
    simp only [Nat.testBit_mod_two_pow, e1]
    cases decide (i < 2807) <;> cases a.testBit i <;> cases b.testBit i <;> rfl
  generalize hH : ofBeBytes (pssHash m (beBytes 32 0)) = H at *
  generalize hX : Nat.xor (2 ^ 256) (mgfMask (pssHash m (beBytes 32 0))) % 2 ^ 2807 = X at *
  have he : pssEncode m = X * 2 ^ 264 + H * 256 + 0xBC := by simp only [pssEncode, hH, hX]
  have h1 : (X * 2 ^ 264 + H * 256 + 0xBC) / 2 ^ 264 = X := by omega
  have h2 : (X * 2 ^ 264 + H * 256 + 0xBC) / 256 % 2 ^ 256 = H := by omega
  have h3 : (X * 2 ^ 264 + H * 256 + 0xBC) % 256 = 0xBC := by omega
  have h5 : beBytes 32 ((X * 2 ^ 264 + H * 256 + 0xBC) / 256) = pssHash m (beBytes 32 0) := by
    have h6 : ∀ n v : Nat, leBytes n v = leBytes n (v % 256 ^ n) := by
      intro n
      induction n with
      | zero => intro v; rfl
      | succ n ih =>
        intro v
        have h7 : BitVec.ofNat 8 v = BitVec.ofNat 8 (v % 256 ^ (n + 1)) := by
          apply BitVec.eq_of_toNat_eq
          simp only [BitVec.toNat_ofNat, Nat.pow_succ']
          exact (Nat.mod_mul_right_mod v 256 (256 ^ n)).symm
        rw [leBytes, leBytes, ← h7, ih (v / 256), ih (v % 256 ^ (n + 1) / 256), Nat.pow_succ', Nat.mod_mul_right_div_self, Nat.mod_mod]
    rw [beBytes, h6, show (256 : Nat) ^ 32 = 2 ^ 256 by norm_num, h2, ← beBytes, hb]
  have h8 : Nat.xor X (mgfMask (pssHash m (beBytes 32 0))) % 2 ^ 2807 = 2 ^ 256 := by
    rw [← hX, hx]
    exact Nat.mod_eq_of_lt (Nat.pow_lt_pow_right (by decide) (by decide))
  have h9 : X * 2 ^ 264 + H * 256 + 0xBC < 2 ^ 3071 := by
    have : (2 : Nat) ^ 3071 = 2 ^ 2807 * 2 ^ 264 := by rw [← Nat.pow_add]
    omega
  simp only [pssFits, he, h1, h3, h5, h8, hz, h9, decide_true, beq_self_eq_true, Bool.and_true, Nat.div_self (Nat.two_pow_pos 256)]

theorem plainSign_verifies (m : List Byte) : pssVerify plainKey m (plainSign m) = true := by
  have hf := pssEncode_fits m
  have hl : pssEncode m < 2 ^ 3071 := by
    simp only [pssFits, Bool.and_eq_true, decide_eq_true_eq] at hf
    exact hf.1.1.1
  have hx : ofBeBytes (plainSign m) = pssEncode m := by
    rw [plainSign, ofBeBytes_beBytes]
    exact Nat.mod_eq_of_lt (Nat.lt_trans hl (by rw [show (256 : Nat) = 2 ^ 8 from rfl, ← Nat.pow_mul]; exact Nat.pow_lt_pow_right (by decide) (by decide)))
  have hp : powMod plainKey.modulus 32 (pssEncode m) plainKey.exponent.toNat = pssEncode m :=
    powMod_one (Nat.one_lt_two_pow (by decide)) hl 31
  simp only [pssVerify, hx, hp, hf, plainSign_length, rsaBytes, beq_self_eq_true, Bool.true_and, Bool.and_true, decide_eq_true_eq]
  exact hl

/-! ## Fields of bytes -/

theorem leField_left {a r : List Byte} {off n : Nat} (h : off + n ≤ a.length) : leField (a ++ r) off n = leField a off n := by
  rw [leField, leField, List.drop_append_of_le_length (by omega), List.take_append_of_le_length (by rw [List.length_drop]; omega)]

theorem leField_skip {a r : List Byte} {off n : Nat} (h : a.length ≤ off) : leField (a ++ r) off n = leField r (off - a.length) n := by
  rw [leField, leField, List.drop_append, List.drop_of_length_le h, List.nil_append]

theorem leField_leBytes (n v : Nat) (r : List Byte) : leField (leBytes n v ++ r) 0 n = v % 256 ^ n := by
  rw [leField, List.drop_zero, List.take_append_of_le_length (by rw [leBytes_length]), List.take_of_length_le (by rw [leBytes_length]),
    ofLeBytes_leBytes]

theorem leField_zeros (m off n : Nat) : leField (List.replicate m 0) off n = 0 := by
  have h : ∀ k, ofLeBytes (List.replicate k (0 : Byte)) = 0 := by
    intro k
    induction k with
    | zero => rfl
    | succ k ih =>
      rw [List.replicate_succ, ofLeBytes, ih]
      rfl
  rw [leField, List.drop_replicate, List.take_replicate, h]

theorem coresOff_zeros (i n : Nat) : coresOff i (List.replicate n 0) = [] := by
  induction n generalizing i with
  | zero => rfl
  | succ n ih =>
    rw [List.replicate_succ, coresOff, ih]
    rfl

/-! ## What is signed under the plain key -/

/-- An image of a KIND with a body, of SVN 0 (R438). -/
def plainImageHead (kind : Nat) (body : List Byte) : List Byte :=
  leBytes 4 0x4D494B53 ++ (leBytes 2 kind ++ (leBytes 2 0 ++ (leBytes 4 0 ++ (leBytes 4 0 ++ (leBytes 8 body.length ++ (sha256 body ++ leBytes 8 0))))))

/-- That image, with its body and its signature. -/
def plainImage (kind : Nat) (body : List Byte) : List Byte := plainImageHead kind body ++ (body ++ plainSign (plainImageHead kind body))

theorem plainImageHead_length (kind : Nat) (body) : (plainImageHead kind body).length = 64 := by
  simp [plainImageHead, leBytes_length, sha256_length]

theorem plainImage_kind (kind : Nat) (body) (hk : kind < 65536) : imageKind (plainImage kind body) = kind := by
  rw [imageKind, plainImage, leField_left (by rw [plainImageHead_length]; decide), plainImageHead, leField_skip (by simp [leBytes_length])]
  simpa [leBytes_length, leField_leBytes] using hk

theorem plainImage_length (kind : Nat) (body : List Byte) (h : body.length < 2 ^ 64) : imageLength (plainImage kind body) = body.length := by
  rw [imageLength, plainImage, leField_left (by rw [plainImageHead_length]; decide), plainImageHead]
  simp only [leField_skip, leBytes_length, leField_leBytes, Nat.reduceLeDiff, Nat.reduceSub]
  exact Nat.mod_eq_of_lt (by omega)

theorem plainImage_body (kind : Nat) (body : List Byte) (h : body.length < 2 ^ 64) : imageBody (plainImage kind body) = body := by
  rw [imageBody, plainImage_length kind body h, plainImage, List.drop_left' (plainImageHead_length kind body)]
  exact List.take_left

theorem plainImage_hash (kind : Nat) (body : List Byte) : imageHash (plainImage kind body) = sha256 body := by
  have : plainImage kind body = (leBytes 4 0x4D494B53 ++ leBytes 2 kind ++ leBytes 2 0 ++ leBytes 4 0 ++ leBytes 4 0 ++ leBytes 8 body.length) ++
      (sha256 body ++ (leBytes 8 0 ++ (body ++ plainSign (plainImageHead kind body)))) := by simp [plainImage, plainImageHead]
  rw [imageHash, this, List.drop_left' (by simp [leBytes_length]), List.take_left' (sha256_length body)]

theorem plainImage_ok {m : Module} {kind : Nat} {body : List Byte} (hm : m.rootKey = plainKey) (hc : m.counters = []) (h1 : 1 ≤ kind)
    (h3 : kind ≤ 3) (hb : body.length < 2 ^ 64) : imageOk m (plainImage kind body) = true := by
  have hk := plainImage_kind kind body (by omega)
  have hl := plainImage_length kind body hb
  have hf : ∀ off n, off + n ≤ 64 → leField (plainImage kind body) off n = leField (plainImageHead kind body) off n := by
    intro off n h
    rw [plainImage, leField_left (by rw [plainImageHead_length]; exact h)]
  have ht : (plainImage kind body).take 64 = plainImageHead kind body := List.take_left' (plainImageHead_length kind body)
  have hd : (plainImage kind body).drop (64 + body.length) = plainSign (plainImageHead kind body) := by
    rw [plainImage, ← List.append_assoc]
    exact List.drop_left' (by rw [List.length_append, plainImageHead_length])
  have hn : (plainImage kind body).length = 64 + body.length + rsaBytes := by
    simp only [plainImage, List.length_append, plainImageHead_length, plainSign_length, rsaBytes]
    omega
  have hs : imageSigned m.rootKey (plainImage kind body) = true := by rw [imageSigned, hm, hl, ht, hd, plainSign_verifies]
  have hq : imageLaidOut (plainImage kind body) = true := by
    simp only [imageLaidOut, hk, hl, hn, plainImage_hash, plainImage_body kind body hb, hf, Nat.reduceLeDiff, Nat.reduceAdd, plainImageHead,
      leField_skip, leField_leBytes, leBytes_length, sha256_length, Nat.reduceSub, h1, h3]
    simp [leField, ofLeBytes, leBytes]
  simp [imageOk, hq, hs, svnCounter, hc]

/-- The configuration record of a full part with a serial number (R22), before its signature. -/
def plainConfigPart (serial : Word) : List Byte :=
  leBytes 4 0x4746434B ++ (leBytes 2 1 ++ (leBytes 2 0 ++ (leBytes 8 serial.toNat ++ List.replicate 21488 0)))

/-- That record. -/
def plainConfig (serial : Word) : List Byte := plainConfigPart serial ++ plainSign (plainConfigPart serial)

theorem plainConfigPart_length (serial) : (plainConfigPart serial).length = configSigned := by
  simp only [plainConfigPart, List.length_append, leBytes_length, List.length_replicate, configSigned]

theorem plainConfig_length (serial) : (plainConfig serial).length = configBytes := by
  simp only [plainConfig, List.length_append, plainConfigPart_length, plainSign_length, configSigned, configBytes]

theorem plainConfig_field {serial : Word} {off n : Nat} (h : off + n ≤ 21504) : leField (plainConfig serial) off n = leField (plainConfigPart serial) off n := by
  rw [plainConfig, leField_left (by rw [plainConfigPart_length]; exact h)]

theorem plainConfig_zeros {serial : Word} {off n : Nat} (h0 : 16 ≤ off) (h : off + n ≤ 21504) : leField (plainConfig serial) off n = 0 := by
  rw [plainConfig_field h, plainConfigPart, leField_skip (by rw [leBytes_length]; omega), leField_skip (by rw [leBytes_length, leBytes_length]; omega),
    leField_skip (by simp only [leBytes_length]; omega), leField_skip (by simp only [leBytes_length]; omega), leField_zeros]

theorem plainConfig_parsed (serial : Word) :
    parseConfig (plainConfig serial) = ⟨serial, 0, List.replicate 16 0, List.replicate 32 0, []⟩ := by
  have hs : leField (plainConfig serial) 0x0008 8 = serial.toNat := by
    rw [plainConfig_field (by decide), plainConfigPart]
    simp only [leField_skip, leBytes_length, leField_leBytes, Nat.reduceLeDiff, Nat.reduceSub]
    exact Nat.mod_eq_of_lt serial.isLt
  have hc : ∀ m ∈ List.range 16, BitVec.ofNat 32 (leField (plainConfig serial) (0x0018 + 4 * m) 4) = 0 := by
    intro m hm
    rw [List.mem_range] at hm
    rw [plainConfig_zeros (by omega) (by omega)]
    rfl
  have hl : ∀ m ∈ List.range 32, BitVec.ofNat 128 (leField (plainConfig serial) (0x0058 + 16 * m) 16) = 0 := by
    intro m hm
    rw [List.mem_range] at hm
    rw [plainConfig_zeros (by omega) (by omega)]
    rfl
  have ho : ((plainConfig serial).drop 0x0258).take 20480 = List.replicate 20480 0 := by
    have he : plainConfig serial = (leBytes 4 0x4746434B ++ leBytes 2 1 ++ leBytes 2 0 ++ leBytes 8 serial.toNat) ++
        (List.replicate 21488 0 ++ plainSign (plainConfigPart serial)) := by simp only [plainConfig, plainConfigPart, List.append_assoc]
    have hn : (leBytes 4 0x4746434B ++ leBytes 2 1 ++ leBytes 2 0 ++ leBytes 8 serial.toNat).length = 16 := by
      simp only [List.length_append, leBytes_length]
    rw [he, List.drop_append, List.drop_of_length_le (by rw [hn]; decide), List.nil_append, hn,
      List.drop_append_of_le_length (by rw [List.length_replicate]; decide),
      List.take_append_of_le_length (by rw [List.length_drop, List.length_replicate]; decide), List.drop_replicate, List.take_replicate]
    rfl
  rw [parseConfig, hs, List.map_congr_left hc, List.map_congr_left hl, ho, coresOff_zeros, plainConfig_zeros (by decide) (by decide)]
  simp only [List.map_const', List.length_range, BitVec.ofNat_toNat, BitVec.setWidth_eq]
  rfl

theorem plainConfig_laidOut (serial : Word) : configLaidOut (plainConfig serial) = true := by
  have h : ∀ n ∈ List.range 32, leField (plainConfig serial) (0x0058 + 16 * n + 10) 6 = 0 := by
    intro n hn
    rw [List.mem_range] at hn
    exact plainConfig_zeros (by omega) (by omega)
  have hm : leField (plainConfig serial) 0 4 = 0x4746434B := by
    rw [plainConfig_field (by decide), plainConfigPart, leField_leBytes]
    rfl
  have hv : leField (plainConfig serial) 4 2 = 1 := by
    rw [plainConfig_field (by decide), plainConfigPart]
    simp only [leField_skip, leBytes_length, leField_leBytes, Nat.reduceLeDiff, Nat.reduceSub]
    decide
  have hr : leField (plainConfig serial) 6 2 = 0 := by
    rw [plainConfig_field (by decide), plainConfigPart]
    simp only [leField_skip, leBytes_length, leField_leBytes, Nat.reduceLeDiff, Nat.reduceSub]
    decide
  simp only [configLaidOut, plainConfig_length, hm, hv, hr, plainConfig_zeros (show 16 ≤ 0x0014 by decide) (show 0x0014 + 4 ≤ 21504 by decide),
    plainConfig_zeros (show 16 ≤ 0x5258 by decide) (show 0x5258 + 424 ≤ 21504 by decide), beq_self_eq_true, Bool.true_and, List.all_eq_true, beq_iff_eq]
  exact h

theorem plainConfig_ok {s : State} (hm : s.svc.rootKey = plainKey)
    (hd : leavesADie s ⟨s.svc.serial, 0, List.replicate 16 0, List.replicate 32 0, []⟩ = true) : recordOk s (plainConfig s.svc.serial) = true := by
  have ht : (plainConfig s.svc.serial).take configSigned = plainConfigPart s.svc.serial := List.take_left' (plainConfigPart_length _)
  have hq : (plainConfig s.svc.serial).drop configSigned = plainSign (plainConfigPart s.svc.serial) := List.drop_left' (plainConfigPart_length _)
  simp only [recordOk, plainConfig_laidOut, hm, ht, hq, plainSign_verifies, plainConfig_parsed, hd, beq_self_eq_true, Bool.and_self]

/-- The header of a frame of a CODE over the network, of operator key 5, with COUNT 4 and a body of n bytes (R442). -/
def plainHead (code n : Nat) : List Byte :=
  leBytes 4 0x51524E42 ++ (leBytes 2 code ++ (leBytes 2 0 ++ (leBytes 4 n ++ (leBytes 4 5 ++ (leBytes 8 4 ++ (leBytes 8 0 ++ List.replicate 32 0))))))

/-- That frame, with its body and its signature. -/
def plainFrame (code : Nat) (body : List Byte) : Frame :=
  { viaPcie := false
    bytes := plainHead code body.length ++ (body ++ plainSign (plainHead code body.length ++ body))
    hostBody := [] }

theorem plainHead_length (code n) : (plainHead code n).length = 64 := by simp [plainHead, leBytes_length]

theorem plainFrame_field {code : Nat} {body : List Byte} {off n : Nat} (h : off + n ≤ 64) :
    leField (plainFrame code body).bytes off n = leField (plainHead code body.length) off n := by
  rw [plainFrame, leField_left (by rw [plainHead_length]; exact h)]

theorem plainFrame_header (code : Nat) (body) (hc : code < 65536) : headerOf (plainFrame code body) = ⟨false, BitVec.ofNat 16 code, 5, 4, 0⟩ := by
  rw [headerOf, plainFrame_field (by decide), plainFrame_field (by decide), plainFrame_field (by decide), plainFrame_field (by decide), plainHead]
  simp only [leField_skip, leBytes_length, leField_leBytes, Nat.reduceLeDiff, Nat.reduceSub]
  rw [Nat.mod_eq_of_lt (by omega)]
  rfl

theorem plainFrame_facts (code : Nat) (body : List Byte) (hb : body.length < 2 ^ 23) :
    isIndirect (plainFrame code body) = false ∧ bodyLength (plainFrame code body) = body.length ∧ bodyOf (plainFrame code body) = body ∧
      sigOf (plainFrame code body) = plainSign (plainHead code body.length ++ body) ∧ frameOk (plainFrame code body) = true := by
  have hi : isIndirect (plainFrame code body) = false := by
    rw [isIndirect, plainFrame_field (by decide), plainHead]
    simp only [leField_skip, leBytes_length, leField_leBytes, Nat.reduceLeDiff, Nat.reduceSub]
    decide
  have hl : bodyLength (plainFrame code body) = body.length := by
    rw [bodyLength, plainFrame_field (by decide), plainHead]
    simp only [leField_skip, leBytes_length, leField_leBytes, Nat.reduceLeDiff, Nat.reduceSub]
    exact Nat.mod_eq_of_lt (by omega)
  have hs : storedLength (plainFrame code body) = body.length := by rw [storedLength, hi, hl, if_neg (by decide)]
  have hf : frameFits (plainFrame code body) = true := by
    have : (plainFrame code body).bytes.length = 64 + body.length + rsaBytes := by
      simp only [plainFrame, List.length_append, plainHead_length, plainSign_length, rsaBytes]
      omega
    have hv : (plainFrame code body).viaPcie = false := rfl
    have hr : rsaBytes = 384 := rfl
    rw [frameFits, this, hs, hv]
    simp only [Bool.false_eq_true, if_false, beq_self_eq_true, Bool.true_and, decide_eq_true_eq]
    omega
  refine ⟨hi, hl, ?_, ?_, ?_⟩
  · rw [bodyOf, hi, if_neg (by decide), hl, plainFrame]
    simp only []
    rw [List.drop_left' (plainHead_length _ _)]
    exact List.take_left
  · rw [sigOf, hs, plainFrame]
    simp only []
    rw [← List.append_assoc, List.drop_left' (by rw [List.length_append, plainHead_length]), List.take_of_length_le (by rw [plainSign_length]; decide)]
  · rw [frameOk, hi, hf, plainFrame_field (by decide), plainFrame_field (by decide), plainFrame_field (by decide), plainHead]
    simp only [leField_skip, leBytes_length, leField_leBytes, leField_zeros, Nat.reduceLeDiff, Nat.reduceSub]
    rfl

theorem plainFrame_signed (code : Nat) (body : List Byte) (hb : body.length < 2 ^ 23) : frameSigned plainKey (plainFrame code body) = true := by
  obtain ⟨-, -, hq, hs, -⟩ := plainFrame_facts code body hb
  have ht : (plainFrame code body).bytes.take 64 = plainHead code body.length := List.take_left' (plainHead_length _ _)
  rw [frameSigned, signedPart, hq, hs, ht, plainSign_verifies]

end Sys2Proof.Machine
end

