-- ==== Sys2Proof/Laws/State.lean ====
section
/-!
SUPPORT. Laws/State.lean: what each update of the state leaves in each field, one lemma per field and update, true by unfolding.
-/

namespace Sys2Proof.Machine

/-! ## setRegs -/

@[simp] theorem setRegs_now (s : State) (v : Regs) : (setRegs s v).now = s.now := rfl
@[simp] theorem setRegs_others (s : State) (v : Regs) : (setRegs s v).others = s.others := rfl
@[simp] theorem setRegs_clusters (s : State) (v : Regs) : (setRegs s v).clusters = s.clusters := rfl
@[simp] theorem setRegs_dies (s : State) (v : Regs) : (setRegs s v).dies = s.dies := rfl
@[simp] theorem setRegs_folds (s : State) (v : Regs) : (setRegs s v).folds = s.folds := rfl
@[simp] theorem setRegs_vfs (s : State) (v : Regs) : (setRegs s v).vfs = s.vfs := rfl
@[simp] theorem setRegs_launches (s : State) (v : Regs) : (setRegs s v).launches = s.launches := rfl
@[simp] theorem setRegs_mem (s : State) (v : Regs) : (setRegs s v).mem = s.mem := rfl
@[simp] theorem setRegs_poison (s : State) (v : Regs) : (setRegs s v).poison = s.poison := rfl
@[simp] theorem setRegs_words (s : State) (v : Regs) : (setRegs s v).words = s.words := rfl
@[simp] theorem setRegs_lines (s : State) (v : Regs) : (setRegs s v).lines = s.lines := rfl
@[simp] theorem setRegs_writeBacks (s : State) (v : Regs) : (setRegs s v).writeBacks = s.writeBacks := rfl
@[simp] theorem setRegs_tlb (s : State) (v : Regs) : (setRegs s v).tlb = s.tlb := rfl
@[simp] theorem setRegs_pageReqs (s : State) (v : Regs) : (setRegs s v).pageReqs = s.pageReqs := rfl
@[simp] theorem setRegs_parked (s : State) (v : Regs) : (setRegs s v).parked = s.parked := rfl
@[simp] theorem setRegs_locks (s : State) (v : Regs) : (setRegs s v).locks = s.locks := rfl
@[simp] theorem setRegs_svScopes (s : State) (v : Regs) : (setRegs s v).svScopes = s.svScopes := rfl
@[simp] theorem setRegs_svTests (s : State) (v : Regs) : (setRegs s v).svTests = s.svTests := rfl
@[simp] theorem setRegs_fabric (s : State) (v : Regs) : (setRegs s v).fabric = s.fabric := rfl
@[simp] theorem setRegs_packets (s : State) (v : Regs) : (setRegs s v).packets = s.packets := rfl
@[simp] theorem setRegs_grants (s : State) (v : Regs) : (setRegs s v).grants = s.grants := rfl
@[simp] theorem setRegs_svc (s : State) (v : Regs) : (setRegs s v).svc = s.svc := rfl
@[simp] theorem setRegs_ras (s : State) (v : Regs) : (setRegs s v).ras = s.ras := rfl
@[simp] theorem setRegs_hostRead (s : State) (v : Regs) : (setRegs s v).hostRead = s.hostRead := rfl
@[simp] theorem setRegs_inputs (s : State) (v : Regs) : (setRegs s v).inputs = s.inputs := rfl
@[simp] theorem setRegs_pace (s : State) (v : Regs) : (setRegs s v).pace = s.pace := rfl
@[simp] theorem setRegs_freeCtr (s : State) (v : Regs) : (setRegs s v).freeCtr = s.freeCtr := rfl
@[simp] theorem setRegs_core_pos (s : State) (v : Regs) : (setRegs s v).core.pos = s.core.pos := rfl
@[simp] theorem setRegs_core_occ (s : State) (v : Regs) : (setRegs s v).core.occ = s.core.occ := rfl
@[simp] theorem setRegs_core_fold (s : State) (v : Regs) : (setRegs s v).core.fold = s.core.fold := rfl
@[simp] theorem setRegs_core_vf (s : State) (v : Regs) : (setRegs s v).core.vf = s.core.vf := rfl
@[simp] theorem setRegs_core_lid (s : State) (v : Regs) : (setRegs s v).core.lid = s.core.lid := rfl
@[simp] theorem setRegs_core_holds (s : State) (v : Regs) : (setRegs s v).core.holds = s.core.holds := rfl
@[simp] theorem setRegs_core_idx (s : State) (v : Regs) : (setRegs s v).core.idx = s.core.idx := rfl
@[simp] theorem setRegs_core_regs (s : State) (v : Regs) : (setRegs s v).core.regs = v := rfl
@[simp] theorem setRegs_core_trap (s : State) (v : Regs) : (setRegs s v).core.trap = s.core.trap := rfl
@[simp] theorem setRegs_core_q (s : State) (v : Regs) : (setRegs s v).core.q = s.core.q := rfl
@[simp] theorem setRegs_core_vec (s : State) (v : Regs) : (setRegs s v).core.vec = s.core.vec := rfl
@[simp] theorem setRegs_core_mat (s : State) (v : Regs) : (setRegs s v).core.mat = s.core.mat := rfl
@[simp] theorem setRegs_core_sync (s : State) (v : Regs) : (setRegs s v).core.sync = s.core.sync := rfl
@[simp] theorem setRegs_core_icache (s : State) (v : Regs) : (setRegs s v).core.icache = s.core.icache := rfl
@[simp] theorem setRegs_core_prefs (s : State) (v : Regs) : (setRegs s v).core.prefs = s.core.prefs := rfl
@[simp] theorem setRegs_core_gates (s : State) (v : Regs) : (setRegs s v).core.gates = s.core.gates := rfl

/-! ## setTrap -/

@[simp] theorem setTrap_now (s : State) (v : TrapRegs) : (setTrap s v).now = s.now := rfl
@[simp] theorem setTrap_others (s : State) (v : TrapRegs) : (setTrap s v).others = s.others := rfl
@[simp] theorem setTrap_clusters (s : State) (v : TrapRegs) : (setTrap s v).clusters = s.clusters := rfl
@[simp] theorem setTrap_dies (s : State) (v : TrapRegs) : (setTrap s v).dies = s.dies := rfl
@[simp] theorem setTrap_folds (s : State) (v : TrapRegs) : (setTrap s v).folds = s.folds := rfl
@[simp] theorem setTrap_vfs (s : State) (v : TrapRegs) : (setTrap s v).vfs = s.vfs := rfl
@[simp] theorem setTrap_launches (s : State) (v : TrapRegs) : (setTrap s v).launches = s.launches := rfl
@[simp] theorem setTrap_mem (s : State) (v : TrapRegs) : (setTrap s v).mem = s.mem := rfl
@[simp] theorem setTrap_poison (s : State) (v : TrapRegs) : (setTrap s v).poison = s.poison := rfl
@[simp] theorem setTrap_words (s : State) (v : TrapRegs) : (setTrap s v).words = s.words := rfl
@[simp] theorem setTrap_lines (s : State) (v : TrapRegs) : (setTrap s v).lines = s.lines := rfl
@[simp] theorem setTrap_writeBacks (s : State) (v : TrapRegs) : (setTrap s v).writeBacks = s.writeBacks := rfl
@[simp] theorem setTrap_tlb (s : State) (v : TrapRegs) : (setTrap s v).tlb = s.tlb := rfl
@[simp] theorem setTrap_pageReqs (s : State) (v : TrapRegs) : (setTrap s v).pageReqs = s.pageReqs := rfl
@[simp] theorem setTrap_parked (s : State) (v : TrapRegs) : (setTrap s v).parked = s.parked := rfl
@[simp] theorem setTrap_locks (s : State) (v : TrapRegs) : (setTrap s v).locks = s.locks := rfl
@[simp] theorem setTrap_svScopes (s : State) (v : TrapRegs) : (setTrap s v).svScopes = s.svScopes := rfl
@[simp] theorem setTrap_svTests (s : State) (v : TrapRegs) : (setTrap s v).svTests = s.svTests := rfl
@[simp] theorem setTrap_fabric (s : State) (v : TrapRegs) : (setTrap s v).fabric = s.fabric := rfl
@[simp] theorem setTrap_packets (s : State) (v : TrapRegs) : (setTrap s v).packets = s.packets := rfl
@[simp] theorem setTrap_grants (s : State) (v : TrapRegs) : (setTrap s v).grants = s.grants := rfl
@[simp] theorem setTrap_svc (s : State) (v : TrapRegs) : (setTrap s v).svc = s.svc := rfl
@[simp] theorem setTrap_ras (s : State) (v : TrapRegs) : (setTrap s v).ras = s.ras := rfl
@[simp] theorem setTrap_hostRead (s : State) (v : TrapRegs) : (setTrap s v).hostRead = s.hostRead := rfl
@[simp] theorem setTrap_inputs (s : State) (v : TrapRegs) : (setTrap s v).inputs = s.inputs := rfl
@[simp] theorem setTrap_pace (s : State) (v : TrapRegs) : (setTrap s v).pace = s.pace := rfl
@[simp] theorem setTrap_freeCtr (s : State) (v : TrapRegs) : (setTrap s v).freeCtr = s.freeCtr := rfl
@[simp] theorem setTrap_core_pos (s : State) (v : TrapRegs) : (setTrap s v).core.pos = s.core.pos := rfl
@[simp] theorem setTrap_core_occ (s : State) (v : TrapRegs) : (setTrap s v).core.occ = s.core.occ := rfl
@[simp] theorem setTrap_core_fold (s : State) (v : TrapRegs) : (setTrap s v).core.fold = s.core.fold := rfl
@[simp] theorem setTrap_core_vf (s : State) (v : TrapRegs) : (setTrap s v).core.vf = s.core.vf := rfl
@[simp] theorem setTrap_core_lid (s : State) (v : TrapRegs) : (setTrap s v).core.lid = s.core.lid := rfl
@[simp] theorem setTrap_core_holds (s : State) (v : TrapRegs) : (setTrap s v).core.holds = s.core.holds := rfl
@[simp] theorem setTrap_core_idx (s : State) (v : TrapRegs) : (setTrap s v).core.idx = s.core.idx := rfl
@[simp] theorem setTrap_core_regs (s : State) (v : TrapRegs) : (setTrap s v).core.regs = s.core.regs := rfl
@[simp] theorem setTrap_core_trap (s : State) (v : TrapRegs) : (setTrap s v).core.trap = v := rfl
@[simp] theorem setTrap_core_q (s : State) (v : TrapRegs) : (setTrap s v).core.q = s.core.q := rfl
@[simp] theorem setTrap_core_vec (s : State) (v : TrapRegs) : (setTrap s v).core.vec = s.core.vec := rfl
@[simp] theorem setTrap_core_mat (s : State) (v : TrapRegs) : (setTrap s v).core.mat = s.core.mat := rfl
@[simp] theorem setTrap_core_sync (s : State) (v : TrapRegs) : (setTrap s v).core.sync = s.core.sync := rfl
@[simp] theorem setTrap_core_icache (s : State) (v : TrapRegs) : (setTrap s v).core.icache = s.core.icache := rfl
@[simp] theorem setTrap_core_prefs (s : State) (v : TrapRegs) : (setTrap s v).core.prefs = s.core.prefs := rfl
@[simp] theorem setTrap_core_gates (s : State) (v : TrapRegs) : (setTrap s v).core.gates = s.core.gates := rfl

/-! ## setQ -/

@[simp] theorem setQ_now (s : State) (v : Queues) : (setQ s v).now = s.now := rfl
@[simp] theorem setQ_others (s : State) (v : Queues) : (setQ s v).others = s.others := rfl
@[simp] theorem setQ_clusters (s : State) (v : Queues) : (setQ s v).clusters = s.clusters := rfl
@[simp] theorem setQ_dies (s : State) (v : Queues) : (setQ s v).dies = s.dies := rfl
@[simp] theorem setQ_folds (s : State) (v : Queues) : (setQ s v).folds = s.folds := rfl
@[simp] theorem setQ_vfs (s : State) (v : Queues) : (setQ s v).vfs = s.vfs := rfl
@[simp] theorem setQ_launches (s : State) (v : Queues) : (setQ s v).launches = s.launches := rfl
@[simp] theorem setQ_mem (s : State) (v : Queues) : (setQ s v).mem = s.mem := rfl
@[simp] theorem setQ_poison (s : State) (v : Queues) : (setQ s v).poison = s.poison := rfl
@[simp] theorem setQ_words (s : State) (v : Queues) : (setQ s v).words = s.words := rfl
@[simp] theorem setQ_lines (s : State) (v : Queues) : (setQ s v).lines = s.lines := rfl
@[simp] theorem setQ_writeBacks (s : State) (v : Queues) : (setQ s v).writeBacks = s.writeBacks := rfl
@[simp] theorem setQ_tlb (s : State) (v : Queues) : (setQ s v).tlb = s.tlb := rfl
@[simp] theorem setQ_pageReqs (s : State) (v : Queues) : (setQ s v).pageReqs = s.pageReqs := rfl
@[simp] theorem setQ_parked (s : State) (v : Queues) : (setQ s v).parked = s.parked := rfl
@[simp] theorem setQ_locks (s : State) (v : Queues) : (setQ s v).locks = s.locks := rfl
@[simp] theorem setQ_svScopes (s : State) (v : Queues) : (setQ s v).svScopes = s.svScopes := rfl
@[simp] theorem setQ_svTests (s : State) (v : Queues) : (setQ s v).svTests = s.svTests := rfl
@[simp] theorem setQ_fabric (s : State) (v : Queues) : (setQ s v).fabric = s.fabric := rfl
@[simp] theorem setQ_packets (s : State) (v : Queues) : (setQ s v).packets = s.packets := rfl
@[simp] theorem setQ_grants (s : State) (v : Queues) : (setQ s v).grants = s.grants := rfl
@[simp] theorem setQ_svc (s : State) (v : Queues) : (setQ s v).svc = s.svc := rfl
@[simp] theorem setQ_ras (s : State) (v : Queues) : (setQ s v).ras = s.ras := rfl
@[simp] theorem setQ_hostRead (s : State) (v : Queues) : (setQ s v).hostRead = s.hostRead := rfl
@[simp] theorem setQ_inputs (s : State) (v : Queues) : (setQ s v).inputs = s.inputs := rfl
@[simp] theorem setQ_pace (s : State) (v : Queues) : (setQ s v).pace = s.pace := rfl
@[simp] theorem setQ_freeCtr (s : State) (v : Queues) : (setQ s v).freeCtr = s.freeCtr := rfl
@[simp] theorem setQ_core_pos (s : State) (v : Queues) : (setQ s v).core.pos = s.core.pos := rfl
@[simp] theorem setQ_core_occ (s : State) (v : Queues) : (setQ s v).core.occ = s.core.occ := rfl
@[simp] theorem setQ_core_fold (s : State) (v : Queues) : (setQ s v).core.fold = s.core.fold := rfl
@[simp] theorem setQ_core_vf (s : State) (v : Queues) : (setQ s v).core.vf = s.core.vf := rfl
@[simp] theorem setQ_core_lid (s : State) (v : Queues) : (setQ s v).core.lid = s.core.lid := rfl
@[simp] theorem setQ_core_holds (s : State) (v : Queues) : (setQ s v).core.holds = s.core.holds := rfl
@[simp] theorem setQ_core_idx (s : State) (v : Queues) : (setQ s v).core.idx = s.core.idx := rfl
@[simp] theorem setQ_core_regs (s : State) (v : Queues) : (setQ s v).core.regs = s.core.regs := rfl
@[simp] theorem setQ_core_trap (s : State) (v : Queues) : (setQ s v).core.trap = s.core.trap := rfl
@[simp] theorem setQ_core_q (s : State) (v : Queues) : (setQ s v).core.q = v := rfl
@[simp] theorem setQ_core_vec (s : State) (v : Queues) : (setQ s v).core.vec = s.core.vec := rfl
@[simp] theorem setQ_core_mat (s : State) (v : Queues) : (setQ s v).core.mat = s.core.mat := rfl
@[simp] theorem setQ_core_sync (s : State) (v : Queues) : (setQ s v).core.sync = s.core.sync := rfl
@[simp] theorem setQ_core_icache (s : State) (v : Queues) : (setQ s v).core.icache = s.core.icache := rfl
@[simp] theorem setQ_core_prefs (s : State) (v : Queues) : (setQ s v).core.prefs = s.core.prefs := rfl
@[simp] theorem setQ_core_gates (s : State) (v : Queues) : (setQ s v).core.gates = s.core.gates := rfl

/-! ## setVec -/

@[simp] theorem setVec_now (s : State) (v : VecRegs) : (setVec s v).now = s.now := rfl
@[simp] theorem setVec_others (s : State) (v : VecRegs) : (setVec s v).others = s.others := rfl
@[simp] theorem setVec_clusters (s : State) (v : VecRegs) : (setVec s v).clusters = s.clusters := rfl
@[simp] theorem setVec_dies (s : State) (v : VecRegs) : (setVec s v).dies = s.dies := rfl
@[simp] theorem setVec_folds (s : State) (v : VecRegs) : (setVec s v).folds = s.folds := rfl
@[simp] theorem setVec_vfs (s : State) (v : VecRegs) : (setVec s v).vfs = s.vfs := rfl
@[simp] theorem setVec_launches (s : State) (v : VecRegs) : (setVec s v).launches = s.launches := rfl
@[simp] theorem setVec_mem (s : State) (v : VecRegs) : (setVec s v).mem = s.mem := rfl
@[simp] theorem setVec_poison (s : State) (v : VecRegs) : (setVec s v).poison = s.poison := rfl
@[simp] theorem setVec_words (s : State) (v : VecRegs) : (setVec s v).words = s.words := rfl
@[simp] theorem setVec_lines (s : State) (v : VecRegs) : (setVec s v).lines = s.lines := rfl
@[simp] theorem setVec_writeBacks (s : State) (v : VecRegs) : (setVec s v).writeBacks = s.writeBacks := rfl
@[simp] theorem setVec_tlb (s : State) (v : VecRegs) : (setVec s v).tlb = s.tlb := rfl
@[simp] theorem setVec_pageReqs (s : State) (v : VecRegs) : (setVec s v).pageReqs = s.pageReqs := rfl
@[simp] theorem setVec_parked (s : State) (v : VecRegs) : (setVec s v).parked = s.parked := rfl
@[simp] theorem setVec_locks (s : State) (v : VecRegs) : (setVec s v).locks = s.locks := rfl
@[simp] theorem setVec_svScopes (s : State) (v : VecRegs) : (setVec s v).svScopes = s.svScopes := rfl
@[simp] theorem setVec_svTests (s : State) (v : VecRegs) : (setVec s v).svTests = s.svTests := rfl
@[simp] theorem setVec_fabric (s : State) (v : VecRegs) : (setVec s v).fabric = s.fabric := rfl
@[simp] theorem setVec_packets (s : State) (v : VecRegs) : (setVec s v).packets = s.packets := rfl
@[simp] theorem setVec_grants (s : State) (v : VecRegs) : (setVec s v).grants = s.grants := rfl
@[simp] theorem setVec_svc (s : State) (v : VecRegs) : (setVec s v).svc = s.svc := rfl
@[simp] theorem setVec_ras (s : State) (v : VecRegs) : (setVec s v).ras = s.ras := rfl
@[simp] theorem setVec_hostRead (s : State) (v : VecRegs) : (setVec s v).hostRead = s.hostRead := rfl
@[simp] theorem setVec_inputs (s : State) (v : VecRegs) : (setVec s v).inputs = s.inputs := rfl
@[simp] theorem setVec_pace (s : State) (v : VecRegs) : (setVec s v).pace = s.pace := rfl
@[simp] theorem setVec_freeCtr (s : State) (v : VecRegs) : (setVec s v).freeCtr = s.freeCtr := rfl
@[simp] theorem setVec_core_pos (s : State) (v : VecRegs) : (setVec s v).core.pos = s.core.pos := rfl
@[simp] theorem setVec_core_occ (s : State) (v : VecRegs) : (setVec s v).core.occ = s.core.occ := rfl
@[simp] theorem setVec_core_fold (s : State) (v : VecRegs) : (setVec s v).core.fold = s.core.fold := rfl
@[simp] theorem setVec_core_vf (s : State) (v : VecRegs) : (setVec s v).core.vf = s.core.vf := rfl
@[simp] theorem setVec_core_lid (s : State) (v : VecRegs) : (setVec s v).core.lid = s.core.lid := rfl
@[simp] theorem setVec_core_holds (s : State) (v : VecRegs) : (setVec s v).core.holds = s.core.holds := rfl
@[simp] theorem setVec_core_idx (s : State) (v : VecRegs) : (setVec s v).core.idx = s.core.idx := rfl
@[simp] theorem setVec_core_regs (s : State) (v : VecRegs) : (setVec s v).core.regs = s.core.regs := rfl
@[simp] theorem setVec_core_trap (s : State) (v : VecRegs) : (setVec s v).core.trap = s.core.trap := rfl
@[simp] theorem setVec_core_q (s : State) (v : VecRegs) : (setVec s v).core.q = s.core.q := rfl
@[simp] theorem setVec_core_vec (s : State) (v : VecRegs) : (setVec s v).core.vec = v := rfl
@[simp] theorem setVec_core_mat (s : State) (v : VecRegs) : (setVec s v).core.mat = s.core.mat := rfl
@[simp] theorem setVec_core_sync (s : State) (v : VecRegs) : (setVec s v).core.sync = s.core.sync := rfl
@[simp] theorem setVec_core_icache (s : State) (v : VecRegs) : (setVec s v).core.icache = s.core.icache := rfl
@[simp] theorem setVec_core_prefs (s : State) (v : VecRegs) : (setVec s v).core.prefs = s.core.prefs := rfl
@[simp] theorem setVec_core_gates (s : State) (v : VecRegs) : (setVec s v).core.gates = s.core.gates := rfl

/-! ## setMat -/

@[simp] theorem setMat_now (s : State) (v : MatRegs) : (setMat s v).now = s.now := rfl
@[simp] theorem setMat_others (s : State) (v : MatRegs) : (setMat s v).others = s.others := rfl
@[simp] theorem setMat_clusters (s : State) (v : MatRegs) : (setMat s v).clusters = s.clusters := rfl
@[simp] theorem setMat_dies (s : State) (v : MatRegs) : (setMat s v).dies = s.dies := rfl
@[simp] theorem setMat_folds (s : State) (v : MatRegs) : (setMat s v).folds = s.folds := rfl
@[simp] theorem setMat_vfs (s : State) (v : MatRegs) : (setMat s v).vfs = s.vfs := rfl
@[simp] theorem setMat_launches (s : State) (v : MatRegs) : (setMat s v).launches = s.launches := rfl
@[simp] theorem setMat_mem (s : State) (v : MatRegs) : (setMat s v).mem = s.mem := rfl
@[simp] theorem setMat_poison (s : State) (v : MatRegs) : (setMat s v).poison = s.poison := rfl
@[simp] theorem setMat_words (s : State) (v : MatRegs) : (setMat s v).words = s.words := rfl
@[simp] theorem setMat_lines (s : State) (v : MatRegs) : (setMat s v).lines = s.lines := rfl
@[simp] theorem setMat_writeBacks (s : State) (v : MatRegs) : (setMat s v).writeBacks = s.writeBacks := rfl
@[simp] theorem setMat_tlb (s : State) (v : MatRegs) : (setMat s v).tlb = s.tlb := rfl
@[simp] theorem setMat_pageReqs (s : State) (v : MatRegs) : (setMat s v).pageReqs = s.pageReqs := rfl
@[simp] theorem setMat_parked (s : State) (v : MatRegs) : (setMat s v).parked = s.parked := rfl
@[simp] theorem setMat_locks (s : State) (v : MatRegs) : (setMat s v).locks = s.locks := rfl
@[simp] theorem setMat_svScopes (s : State) (v : MatRegs) : (setMat s v).svScopes = s.svScopes := rfl
@[simp] theorem setMat_svTests (s : State) (v : MatRegs) : (setMat s v).svTests = s.svTests := rfl
@[simp] theorem setMat_fabric (s : State) (v : MatRegs) : (setMat s v).fabric = s.fabric := rfl
@[simp] theorem setMat_packets (s : State) (v : MatRegs) : (setMat s v).packets = s.packets := rfl
@[simp] theorem setMat_grants (s : State) (v : MatRegs) : (setMat s v).grants = s.grants := rfl
@[simp] theorem setMat_svc (s : State) (v : MatRegs) : (setMat s v).svc = s.svc := rfl
@[simp] theorem setMat_ras (s : State) (v : MatRegs) : (setMat s v).ras = s.ras := rfl
@[simp] theorem setMat_hostRead (s : State) (v : MatRegs) : (setMat s v).hostRead = s.hostRead := rfl
@[simp] theorem setMat_inputs (s : State) (v : MatRegs) : (setMat s v).inputs = s.inputs := rfl
@[simp] theorem setMat_pace (s : State) (v : MatRegs) : (setMat s v).pace = s.pace := rfl
@[simp] theorem setMat_freeCtr (s : State) (v : MatRegs) : (setMat s v).freeCtr = s.freeCtr := rfl
@[simp] theorem setMat_core_pos (s : State) (v : MatRegs) : (setMat s v).core.pos = s.core.pos := rfl
@[simp] theorem setMat_core_occ (s : State) (v : MatRegs) : (setMat s v).core.occ = s.core.occ := rfl
@[simp] theorem setMat_core_fold (s : State) (v : MatRegs) : (setMat s v).core.fold = s.core.fold := rfl
@[simp] theorem setMat_core_vf (s : State) (v : MatRegs) : (setMat s v).core.vf = s.core.vf := rfl
@[simp] theorem setMat_core_lid (s : State) (v : MatRegs) : (setMat s v).core.lid = s.core.lid := rfl
@[simp] theorem setMat_core_holds (s : State) (v : MatRegs) : (setMat s v).core.holds = s.core.holds := rfl
@[simp] theorem setMat_core_idx (s : State) (v : MatRegs) : (setMat s v).core.idx = s.core.idx := rfl
@[simp] theorem setMat_core_regs (s : State) (v : MatRegs) : (setMat s v).core.regs = s.core.regs := rfl
@[simp] theorem setMat_core_trap (s : State) (v : MatRegs) : (setMat s v).core.trap = s.core.trap := rfl
@[simp] theorem setMat_core_q (s : State) (v : MatRegs) : (setMat s v).core.q = s.core.q := rfl
@[simp] theorem setMat_core_vec (s : State) (v : MatRegs) : (setMat s v).core.vec = s.core.vec := rfl
@[simp] theorem setMat_core_mat (s : State) (v : MatRegs) : (setMat s v).core.mat = v := rfl
@[simp] theorem setMat_core_sync (s : State) (v : MatRegs) : (setMat s v).core.sync = s.core.sync := rfl
@[simp] theorem setMat_core_icache (s : State) (v : MatRegs) : (setMat s v).core.icache = s.core.icache := rfl
@[simp] theorem setMat_core_prefs (s : State) (v : MatRegs) : (setMat s v).core.prefs = s.core.prefs := rfl
@[simp] theorem setMat_core_gates (s : State) (v : MatRegs) : (setMat s v).core.gates = s.core.gates := rfl

/-! ## setSync -/

@[simp] theorem setSync_now (s : State) (v : SyncRegs) : (setSync s v).now = s.now := rfl
@[simp] theorem setSync_others (s : State) (v : SyncRegs) : (setSync s v).others = s.others := rfl
@[simp] theorem setSync_clusters (s : State) (v : SyncRegs) : (setSync s v).clusters = s.clusters := rfl
@[simp] theorem setSync_dies (s : State) (v : SyncRegs) : (setSync s v).dies = s.dies := rfl
@[simp] theorem setSync_folds (s : State) (v : SyncRegs) : (setSync s v).folds = s.folds := rfl
@[simp] theorem setSync_vfs (s : State) (v : SyncRegs) : (setSync s v).vfs = s.vfs := rfl
@[simp] theorem setSync_launches (s : State) (v : SyncRegs) : (setSync s v).launches = s.launches := rfl
@[simp] theorem setSync_mem (s : State) (v : SyncRegs) : (setSync s v).mem = s.mem := rfl
@[simp] theorem setSync_poison (s : State) (v : SyncRegs) : (setSync s v).poison = s.poison := rfl
@[simp] theorem setSync_words (s : State) (v : SyncRegs) : (setSync s v).words = s.words := rfl
@[simp] theorem setSync_lines (s : State) (v : SyncRegs) : (setSync s v).lines = s.lines := rfl
@[simp] theorem setSync_writeBacks (s : State) (v : SyncRegs) : (setSync s v).writeBacks = s.writeBacks := rfl
@[simp] theorem setSync_tlb (s : State) (v : SyncRegs) : (setSync s v).tlb = s.tlb := rfl
@[simp] theorem setSync_pageReqs (s : State) (v : SyncRegs) : (setSync s v).pageReqs = s.pageReqs := rfl
@[simp] theorem setSync_parked (s : State) (v : SyncRegs) : (setSync s v).parked = s.parked := rfl
@[simp] theorem setSync_locks (s : State) (v : SyncRegs) : (setSync s v).locks = s.locks := rfl
@[simp] theorem setSync_svScopes (s : State) (v : SyncRegs) : (setSync s v).svScopes = s.svScopes := rfl
@[simp] theorem setSync_svTests (s : State) (v : SyncRegs) : (setSync s v).svTests = s.svTests := rfl
@[simp] theorem setSync_fabric (s : State) (v : SyncRegs) : (setSync s v).fabric = s.fabric := rfl
@[simp] theorem setSync_packets (s : State) (v : SyncRegs) : (setSync s v).packets = s.packets := rfl
@[simp] theorem setSync_grants (s : State) (v : SyncRegs) : (setSync s v).grants = s.grants := rfl
@[simp] theorem setSync_svc (s : State) (v : SyncRegs) : (setSync s v).svc = s.svc := rfl
@[simp] theorem setSync_ras (s : State) (v : SyncRegs) : (setSync s v).ras = s.ras := rfl
@[simp] theorem setSync_hostRead (s : State) (v : SyncRegs) : (setSync s v).hostRead = s.hostRead := rfl
@[simp] theorem setSync_inputs (s : State) (v : SyncRegs) : (setSync s v).inputs = s.inputs := rfl
@[simp] theorem setSync_pace (s : State) (v : SyncRegs) : (setSync s v).pace = s.pace := rfl
@[simp] theorem setSync_freeCtr (s : State) (v : SyncRegs) : (setSync s v).freeCtr = s.freeCtr := rfl
@[simp] theorem setSync_core_pos (s : State) (v : SyncRegs) : (setSync s v).core.pos = s.core.pos := rfl
@[simp] theorem setSync_core_occ (s : State) (v : SyncRegs) : (setSync s v).core.occ = s.core.occ := rfl
@[simp] theorem setSync_core_fold (s : State) (v : SyncRegs) : (setSync s v).core.fold = s.core.fold := rfl
@[simp] theorem setSync_core_vf (s : State) (v : SyncRegs) : (setSync s v).core.vf = s.core.vf := rfl
@[simp] theorem setSync_core_lid (s : State) (v : SyncRegs) : (setSync s v).core.lid = s.core.lid := rfl
@[simp] theorem setSync_core_holds (s : State) (v : SyncRegs) : (setSync s v).core.holds = s.core.holds := rfl
@[simp] theorem setSync_core_idx (s : State) (v : SyncRegs) : (setSync s v).core.idx = s.core.idx := rfl
@[simp] theorem setSync_core_regs (s : State) (v : SyncRegs) : (setSync s v).core.regs = s.core.regs := rfl
@[simp] theorem setSync_core_trap (s : State) (v : SyncRegs) : (setSync s v).core.trap = s.core.trap := rfl
@[simp] theorem setSync_core_q (s : State) (v : SyncRegs) : (setSync s v).core.q = s.core.q := rfl
@[simp] theorem setSync_core_vec (s : State) (v : SyncRegs) : (setSync s v).core.vec = s.core.vec := rfl
@[simp] theorem setSync_core_mat (s : State) (v : SyncRegs) : (setSync s v).core.mat = s.core.mat := rfl
@[simp] theorem setSync_core_sync (s : State) (v : SyncRegs) : (setSync s v).core.sync = v := rfl
@[simp] theorem setSync_core_icache (s : State) (v : SyncRegs) : (setSync s v).core.icache = s.core.icache := rfl
@[simp] theorem setSync_core_prefs (s : State) (v : SyncRegs) : (setSync s v).core.prefs = s.core.prefs := rfl
@[simp] theorem setSync_core_gates (s : State) (v : SyncRegs) : (setSync s v).core.gates = s.core.gates := rfl

/-! ## setCore -/

@[simp] theorem setCore_now (s : State) (c : Core) : (setCore s c).now = s.now := rfl
@[simp] theorem setCore_others (s : State) (c : Core) : (setCore s c).others = s.others := rfl
@[simp] theorem setCore_clusters (s : State) (c : Core) : (setCore s c).clusters = s.clusters := rfl
@[simp] theorem setCore_dies (s : State) (c : Core) : (setCore s c).dies = s.dies := rfl
@[simp] theorem setCore_folds (s : State) (c : Core) : (setCore s c).folds = s.folds := rfl
@[simp] theorem setCore_vfs (s : State) (c : Core) : (setCore s c).vfs = s.vfs := rfl
@[simp] theorem setCore_launches (s : State) (c : Core) : (setCore s c).launches = s.launches := rfl
@[simp] theorem setCore_mem (s : State) (c : Core) : (setCore s c).mem = s.mem := rfl
@[simp] theorem setCore_poison (s : State) (c : Core) : (setCore s c).poison = s.poison := rfl
@[simp] theorem setCore_words (s : State) (c : Core) : (setCore s c).words = s.words := rfl
@[simp] theorem setCore_lines (s : State) (c : Core) : (setCore s c).lines = s.lines := rfl
@[simp] theorem setCore_writeBacks (s : State) (c : Core) : (setCore s c).writeBacks = s.writeBacks := rfl
@[simp] theorem setCore_tlb (s : State) (c : Core) : (setCore s c).tlb = s.tlb := rfl
@[simp] theorem setCore_pageReqs (s : State) (c : Core) : (setCore s c).pageReqs = s.pageReqs := rfl
@[simp] theorem setCore_parked (s : State) (c : Core) : (setCore s c).parked = s.parked := rfl
@[simp] theorem setCore_locks (s : State) (c : Core) : (setCore s c).locks = s.locks := rfl
@[simp] theorem setCore_svScopes (s : State) (c : Core) : (setCore s c).svScopes = s.svScopes := rfl
@[simp] theorem setCore_svTests (s : State) (c : Core) : (setCore s c).svTests = s.svTests := rfl
@[simp] theorem setCore_fabric (s : State) (c : Core) : (setCore s c).fabric = s.fabric := rfl
@[simp] theorem setCore_packets (s : State) (c : Core) : (setCore s c).packets = s.packets := rfl
@[simp] theorem setCore_grants (s : State) (c : Core) : (setCore s c).grants = s.grants := rfl
@[simp] theorem setCore_svc (s : State) (c : Core) : (setCore s c).svc = s.svc := rfl
@[simp] theorem setCore_ras (s : State) (c : Core) : (setCore s c).ras = s.ras := rfl
@[simp] theorem setCore_hostRead (s : State) (c : Core) : (setCore s c).hostRead = s.hostRead := rfl
@[simp] theorem setCore_inputs (s : State) (c : Core) : (setCore s c).inputs = s.inputs := rfl
@[simp] theorem setCore_pace (s : State) (c : Core) : (setCore s c).pace = s.pace := rfl
@[simp] theorem setCore_freeCtr (s : State) (c : Core) : (setCore s c).freeCtr = s.freeCtr := rfl
@[simp] theorem setCore_core (s : State) (c : Core) : (setCore s c).core = c := rfl

/-! ## setPc -/

@[simp] theorem setPc_now (s : State) (v : Word) : (setPc s v).now = s.now := rfl
@[simp] theorem setPc_others (s : State) (v : Word) : (setPc s v).others = s.others := rfl
@[simp] theorem setPc_clusters (s : State) (v : Word) : (setPc s v).clusters = s.clusters := rfl
@[simp] theorem setPc_dies (s : State) (v : Word) : (setPc s v).dies = s.dies := rfl
@[simp] theorem setPc_folds (s : State) (v : Word) : (setPc s v).folds = s.folds := rfl
@[simp] theorem setPc_vfs (s : State) (v : Word) : (setPc s v).vfs = s.vfs := rfl
@[simp] theorem setPc_launches (s : State) (v : Word) : (setPc s v).launches = s.launches := rfl
@[simp] theorem setPc_mem (s : State) (v : Word) : (setPc s v).mem = s.mem := rfl
@[simp] theorem setPc_poison (s : State) (v : Word) : (setPc s v).poison = s.poison := rfl
@[simp] theorem setPc_words (s : State) (v : Word) : (setPc s v).words = s.words := rfl
@[simp] theorem setPc_lines (s : State) (v : Word) : (setPc s v).lines = s.lines := rfl
@[simp] theorem setPc_writeBacks (s : State) (v : Word) : (setPc s v).writeBacks = s.writeBacks := rfl
@[simp] theorem setPc_tlb (s : State) (v : Word) : (setPc s v).tlb = s.tlb := rfl
@[simp] theorem setPc_pageReqs (s : State) (v : Word) : (setPc s v).pageReqs = s.pageReqs := rfl
@[simp] theorem setPc_parked (s : State) (v : Word) : (setPc s v).parked = s.parked := rfl
@[simp] theorem setPc_locks (s : State) (v : Word) : (setPc s v).locks = s.locks := rfl
@[simp] theorem setPc_svScopes (s : State) (v : Word) : (setPc s v).svScopes = s.svScopes := rfl
@[simp] theorem setPc_svTests (s : State) (v : Word) : (setPc s v).svTests = s.svTests := rfl
@[simp] theorem setPc_fabric (s : State) (v : Word) : (setPc s v).fabric = s.fabric := rfl
@[simp] theorem setPc_packets (s : State) (v : Word) : (setPc s v).packets = s.packets := rfl
@[simp] theorem setPc_grants (s : State) (v : Word) : (setPc s v).grants = s.grants := rfl
@[simp] theorem setPc_svc (s : State) (v : Word) : (setPc s v).svc = s.svc := rfl
@[simp] theorem setPc_ras (s : State) (v : Word) : (setPc s v).ras = s.ras := rfl
@[simp] theorem setPc_hostRead (s : State) (v : Word) : (setPc s v).hostRead = s.hostRead := rfl
@[simp] theorem setPc_inputs (s : State) (v : Word) : (setPc s v).inputs = s.inputs := rfl
@[simp] theorem setPc_pace (s : State) (v : Word) : (setPc s v).pace = s.pace := rfl
@[simp] theorem setPc_freeCtr (s : State) (v : Word) : (setPc s v).freeCtr = s.freeCtr := rfl
@[simp] theorem setPc_core_pos (s : State) (v : Word) : (setPc s v).core.pos = s.core.pos := rfl
@[simp] theorem setPc_core_occ (s : State) (v : Word) : (setPc s v).core.occ = s.core.occ := rfl
@[simp] theorem setPc_core_fold (s : State) (v : Word) : (setPc s v).core.fold = s.core.fold := rfl
@[simp] theorem setPc_core_vf (s : State) (v : Word) : (setPc s v).core.vf = s.core.vf := rfl
@[simp] theorem setPc_core_lid (s : State) (v : Word) : (setPc s v).core.lid = s.core.lid := rfl
@[simp] theorem setPc_core_holds (s : State) (v : Word) : (setPc s v).core.holds = s.core.holds := rfl
@[simp] theorem setPc_core_idx (s : State) (v : Word) : (setPc s v).core.idx = s.core.idx := rfl
@[simp] theorem setPc_core_trap (s : State) (v : Word) : (setPc s v).core.trap = s.core.trap := rfl
@[simp] theorem setPc_core_q (s : State) (v : Word) : (setPc s v).core.q = s.core.q := rfl
@[simp] theorem setPc_core_vec (s : State) (v : Word) : (setPc s v).core.vec = s.core.vec := rfl
@[simp] theorem setPc_core_mat (s : State) (v : Word) : (setPc s v).core.mat = s.core.mat := rfl
@[simp] theorem setPc_core_sync (s : State) (v : Word) : (setPc s v).core.sync = s.core.sync := rfl
@[simp] theorem setPc_core_icache (s : State) (v : Word) : (setPc s v).core.icache = s.core.icache := rfl
@[simp] theorem setPc_core_prefs (s : State) (v : Word) : (setPc s v).core.prefs = s.core.prefs := rfl
@[simp] theorem setPc_core_gates (s : State) (v : Word) : (setPc s v).core.gates = s.core.gates := rfl
@[simp] theorem setPc_regs_pc (s : State) (v : Word) : (setPc s v).core.regs.pc = v := rfl
@[simp] theorem setPc_regs_x (s : State) (v : Word) : (setPc s v).core.regs.x = s.core.regs.x := rfl
@[simp] theorem setPc_regs_d (s : State) (v : Word) : (setPc s v).core.regs.d = s.core.regs.d := rfl
@[simp] theorem setPc_regs_shadow (s : State) (v : Word) : (setPc s v).core.regs.shadow = s.core.regs.shadow := rfl
@[simp] theorem setPc_regs_depth (s : State) (v : Word) : (setPc s v).core.regs.depth = s.core.regs.depth := rfl
@[simp] theorem setPc_regs_frames (s : State) (v : Word) : (setPc s v).core.regs.frames = s.core.regs.frames := rfl
@[simp] theorem setPc_regs_level (s : State) (v : Word) : (setPc s v).core.regs.level = s.core.regs.level := rfl
@[simp] theorem setPc_regs_mode (s : State) (v : Word) : (setPc s v).core.regs.mode = s.core.regs.mode := rfl
@[simp] theorem setPc_regs_fflags (s : State) (v : Word) : (setPc s v).core.regs.fflags = s.core.regs.fflags := rfl
@[simp] theorem setPc_regs_srseed (s : State) (v : Word) : (setPc s v).core.regs.srseed = s.core.regs.srseed := rfl
@[simp] theorem setPc_regs_lanedone (s : State) (v : Word) : (setPc s v).core.regs.lanedone = s.core.regs.lanedone := rfl
@[simp] theorem setPc_regs_tau (s : State) (v : Word) : (setPc s v).core.regs.tau = s.core.regs.tau := rfl
@[simp] theorem setPc_regs_gflim (s : State) (v : Word) : (setPc s v).core.regs.gflim = s.core.regs.gflim := rfl
@[simp] theorem setPc_regs_loops (s : State) (v : Word) : (setPc s v).core.regs.loops = s.core.regs.loops := rfl
@[simp] theorem setPc_regs_cycleBase (s : State) (v : Word) : (setPc s v).core.regs.cycleBase = s.core.regs.cycleBase := rfl
@[simp] theorem setPc_regs_instret (s : State) (v : Word) : (setPc s v).core.regs.instret = s.core.regs.instret := rfl

/-! ## tick -/

@[simp] theorem tick_now (s : State) : (tick s).now = s.now + 1 := rfl
@[simp] theorem tick_others (s : State) : (tick s).others = s.others := rfl
@[simp] theorem tick_clusters (s : State) : (tick s).clusters = s.clusters := rfl
@[simp] theorem tick_dies (s : State) : (tick s).dies = s.dies := rfl
@[simp] theorem tick_folds (s : State) : (tick s).folds = s.folds := rfl
@[simp] theorem tick_vfs (s : State) : (tick s).vfs = s.vfs := rfl
@[simp] theorem tick_launches (s : State) : (tick s).launches = s.launches := rfl
@[simp] theorem tick_mem (s : State) : (tick s).mem = s.mem := rfl
@[simp] theorem tick_poison (s : State) : (tick s).poison = s.poison := rfl
@[simp] theorem tick_words (s : State) : (tick s).words = s.words := rfl
@[simp] theorem tick_lines (s : State) : (tick s).lines = s.lines := rfl
@[simp] theorem tick_writeBacks (s : State) : (tick s).writeBacks = s.writeBacks := rfl
@[simp] theorem tick_tlb (s : State) : (tick s).tlb = s.tlb := rfl
@[simp] theorem tick_pageReqs (s : State) : (tick s).pageReqs = s.pageReqs := rfl
@[simp] theorem tick_parked (s : State) : (tick s).parked = s.parked := rfl
@[simp] theorem tick_locks (s : State) : (tick s).locks = s.locks := rfl
@[simp] theorem tick_svScopes (s : State) : (tick s).svScopes = s.svScopes := rfl
@[simp] theorem tick_svTests (s : State) : (tick s).svTests = s.svTests := rfl
@[simp] theorem tick_fabric (s : State) : (tick s).fabric = s.fabric := rfl
@[simp] theorem tick_packets (s : State) : (tick s).packets = s.packets := rfl
@[simp] theorem tick_grants (s : State) : (tick s).grants = s.grants := rfl
@[simp] theorem tick_svc (s : State) : (tick s).svc = s.svc := rfl
@[simp] theorem tick_ras (s : State) : (tick s).ras = s.ras := rfl
@[simp] theorem tick_hostRead (s : State) : (tick s).hostRead = s.hostRead := rfl
@[simp] theorem tick_inputs (s : State) : (tick s).inputs = s.inputs := rfl
@[simp] theorem tick_pace (s : State) : (tick s).pace = s.pace := rfl
@[simp] theorem tick_freeCtr (s : State) : (tick s).freeCtr = s.freeCtr := rfl
@[simp] theorem tick_core (s : State) : (tick s).core = s.core := rfl

/-! ## x registers -/

/-- x0 reads as zero (R171). -/
@[simp] theorem xr_zero (s : State) : xr s 0 = 0 := rfl

/-- A write to x0 is discarded (R171). -/
@[simp] theorem setX_zero (s : State) (v : Word) : setX s 0 v = s := rfl

/-- setX changes the x registers and nothing else. -/
theorem setX_eq (s : State) (r : Reg) (v : Word) : setX s r v = setRegs s { s.core.regs with x := (setX s r v).core.regs.x } := by
  unfold setX; split <;> rfl

/-- A file of registers is indexed by the register's number. -/
theorem get_reg {α : Type} (v : Vector α 32) (r : Reg) : v.get r.toFin = v[r.toNat]'r.isLt := rfl

/-- A register reads what was written to it, x0 apart (R171). -/
theorem xr_setX_same (s : State) (r : Reg) (v : Word) (h : r ≠ 0) : xr (setX s r v) r = v := by
  unfold xr setX
  rw [if_neg h, if_neg h]
  rw [get_reg]
  exact Vector.getElem_set_self r.isLt

/-- A write to one register leaves every other (R171). -/
theorem xr_setX_other (s : State) (r q : Reg) (v : Word) (h : q ≠ r) : xr (setX s r v) q = xr s q := by
  have hn : r.toNat ≠ q.toNat := fun e => h (BitVec.eq_of_toNat_eq e.symm)
  by_cases hr : r = 0
  · rw [hr, setX_zero]
  · by_cases hq : q = 0
    · rw [hq, xr_zero, xr_zero]
    · unfold xr setX
      rw [if_neg hq, if_neg hr, if_neg hq]
      rw [get_reg, get_reg]
      exact Vector.getElem_set_ne r.isLt q.isLt hn

/-- The registers are what the state holds of them: setPc moves none. -/
@[simp] theorem xr_setPc (s : State) (r : Reg) (v : Word) : xr (setPc s v) r = xr s r := rfl

end Sys2Proof.Machine
end

