-- ==== Sys2Proof/Laws/Mem.lean ====
section
/-!
SUPPORT. Laws/Mem.lean: every memory operation keeps the canonical form, and what a byte reads after each.
-/

namespace Sys2Proof.Machine

/-! ## The canonical form -/

/-- The canonical form of a cell and a rest. -/
theorem Memory.wfFrom_cons (lo : Nat) (c : Host.Cell) (t : Memory) :
    Memory.wfFrom lo (c :: t) = true ↔ (lo ≤ c.1 ∧ c.2 ≠ 0) ∧ Memory.wfFrom (c.1 + 1) t = true := by
  simp only [Memory.wfFrom, Bool.and_eq_true, decide_eq_true_eq]

/-- A canonical memory above lo is canonical above any lower key. -/
theorem Memory.wfFrom_mono {m : Memory} {lo lo' : Nat} (h : Memory.wfFrom lo m = true) (hl : lo' ≤ lo) :
    Memory.wfFrom lo' m = true := by
  cases m with
  | nil => rfl
  | cons c t =>
    simp only [Memory.wfFrom, Bool.and_eq_true, decide_eq_true_eq] at h ⊢
    exact ⟨⟨Nat.le_trans hl h.1.1, h.1.2⟩, h.2⟩

/-- A key below a canonical memory reads 0. -/
theorem Memory.byte_below {m : Memory} {lo a : Nat} (h : Memory.wfFrom lo m = true) (ha : a < lo) : Memory.byte m a = 0 := by
  induction m generalizing lo with
  | nil => rfl
  | cons c t ih =>
    simp only [Memory.wfFrom, Bool.and_eq_true, decide_eq_true_eq] at h
    have hne : a ≠ c.1 := by omega
    simp only [Memory.byte, hne, if_false]
    exact ih h.2 (by omega)

/-- set keeps the canonical form above lo. -/
theorem Memory.set_wfFrom {m : Memory} {lo a : Nat} (v : Byte) (h : Memory.wfFrom lo m = true) (ha : lo ≤ a) :
    Memory.wfFrom lo (Memory.set m a v) = true := by
  induction m generalizing lo with
  | nil =>
    unfold Memory.set
    split <;> simp_all [Memory.wfFrom]
  | cons c t ih =>
    simp only [Memory.wfFrom, Bool.and_eq_true, decide_eq_true_eq] at h
    obtain ⟨⟨h1, h2⟩, h3⟩ := h
    unfold Memory.set
    split
    · rename_i hlt
      split
      · simp only [Memory.wfFrom, Bool.and_eq_true, decide_eq_true_eq]
        exact ⟨⟨h1, h2⟩, h3⟩
      · rename_i hv
        simp only [Memory.wfFrom, Bool.and_eq_true, decide_eq_true_eq]
        exact ⟨⟨ha, hv⟩, ⟨⟨by omega, h2⟩, h3⟩⟩
    · split
      · rename_i heq
        split
        · exact Memory.wfFrom_mono h3 (by omega)
        · rename_i hv
          simp only [Memory.wfFrom, Bool.and_eq_true, decide_eq_true_eq]
          exact ⟨⟨ha, hv⟩, heq ▸ h3⟩
      · simp only [Memory.wfFrom, Bool.and_eq_true, decide_eq_true_eq]
        exact ⟨⟨h1, h2⟩, ih h3 (by omega)⟩

/-- set keeps the canonical form. -/
theorem Memory.set_wf {m : Memory} (a : Nat) (v : Byte) (h : Memory.wf m = true) : Memory.wf (Memory.set m a v) = true :=
  Memory.set_wfFrom v h (Nat.zero_le a)

/-- Dropping cells keeps the canonical form. -/
theorem Memory.filter_wfFrom {m : Memory} {lo : Nat} (p : Host.Cell → Bool) (h : Memory.wfFrom lo m = true) :
    Memory.wfFrom lo (m.filter p) = true := by
  induction m generalizing lo with
  | nil => rfl
  | cons c t ih =>
    simp only [Memory.wfFrom, Bool.and_eq_true, decide_eq_true_eq] at h
    have ht := ih h.2
    by_cases hp : p c = true
    · rw [List.filter_cons_of_pos hp]
      simp only [Memory.wfFrom, Bool.and_eq_true, decide_eq_true_eq]
      exact ⟨h.1, ht⟩
    · rw [List.filter_cons_of_neg hp]
      exact Memory.wfFrom_mono ht (by omega)

/-- Dropping cells keeps the canonical form. -/
theorem Memory.filter_wf {m : Memory} (p : Host.Cell → Bool) (h : Memory.wf m = true) : Memory.wf (m.filter p) = true :=
  Memory.filter_wfFrom p h

/-- clear keeps the canonical form. -/
theorem Memory.clear_wf {m : Memory} (lo hi : Nat) (h : Memory.wf m = true) : Memory.wf (Memory.clear m lo hi) = true :=
  Memory.filter_wf _ h

/-- setList keeps the canonical form. -/
theorem Memory.setList_wf {m : Memory} (a : Nat) (l : List Byte) (h : Memory.wf m = true) :
    Memory.wf (Memory.setList m a l) = true := by
  induction l generalizing m a with
  | nil => exact h
  | cons b t ih => exact ih (a + 1) (Memory.set_wf a b h)

/-- setLe keeps the canonical form. -/
theorem Memory.setLe_wf {m : Memory} (a n v : Nat) (h : Memory.wf m = true) : Memory.wf (Memory.setLe m a n v) = true := by
  induction n generalizing m a v with
  | zero => exact h
  | succ n ih => exact ih (a + 1) (v / 256) (Memory.set_wf a _ h)

/-- putCells keeps the canonical form. -/
theorem putCells_wf {m : Memory} (l : List Host.Cell) (h : Memory.wf m = true) : Memory.wf (putCells m l) = true := by
  induction l generalizing m with
  | nil => exact h
  | cons c t ih => exact ih (Memory.set_wf c.1 c.2 h)

/-- putMoved keeps the canonical form. -/
theorem putMoved_wf {m : Memory} (lo hi : Nat) (l : List Host.Cell) (h : Memory.wf m = true) :
    Memory.wf (putMoved m lo hi l) = true := by
  induction l generalizing m with
  | nil => exact h
  | cons c t ih => exact ih (Memory.set_wf _ c.2 h)

/-- pokeLe keeps the canonical form. -/
theorem pokeLe_wf {s : State} (k n v : Nat) (h : Memory.wf s.mem = true) : Memory.wf (pokeLe s k n v).mem = true := by
  unfold pokeLe
  split
  · split <;> exact Memory.setLe_wf k n v h
  · split
    · split <;> exact Memory.setLe_wf k n v h
    · exact Memory.setLe_wf k n v h

/-- zeroRange keeps the canonical form. -/
theorem zeroRange_wf {s : State} (lo n : Nat) (h : Memory.wf s.mem = true) : Memory.wf (zeroRange s lo n).mem = true :=
  Memory.clear_wf lo (lo + n) h

/-! ## What a byte reads -/

/-- The byte written reads back. -/
theorem Memory.byte_set_same {m : Memory} {lo : Nat} (a : Nat) (v : Byte) (h : Memory.wfFrom lo m = true) :
    Memory.byte (Memory.set m a v) a = v := by
  induction m generalizing lo with
  | nil =>
    unfold Memory.set
    split
    · rename_i hv
      simp [Memory.byte, hv]
    · simp [Memory.byte]
  | cons c t ih =>
    simp only [Memory.wfFrom, Bool.and_eq_true, decide_eq_true_eq] at h
    unfold Memory.set
    split
    · rename_i hlt
      split
      · rename_i hv
        rw [hv]
        exact Memory.byte_below (lo := c.1) ((Memory.wfFrom_cons _ _ _).2 ⟨⟨Nat.le_refl _, h.1.2⟩, h.2⟩) hlt
      · simp [Memory.byte]
    · split
      · rename_i heq
        split
        · rename_i hv
          rw [hv]
          exact Memory.byte_below h.2 (by omega)
        · simp [Memory.byte]
      · rename_i hne
        simp only [Memory.byte, hne, if_false]
        exact ih h.2

/-- Every other byte stands. -/
theorem Memory.byte_set_other {m : Memory} {lo : Nat} (a b : Nat) (v : Byte) (h : Memory.wfFrom lo m = true) (hb : b ≠ a) :
    Memory.byte (Memory.set m a v) b = Memory.byte m b := by
  induction m generalizing lo with
  | nil =>
    unfold Memory.set
    split <;> simp [Memory.byte, hb]
  | cons c t ih =>
    simp only [Memory.wfFrom, Bool.and_eq_true, decide_eq_true_eq] at h
    unfold Memory.set
    split
    · split <;> simp [Memory.byte, hb]
    · split
      · rename_i heq
        have hbc : b ≠ c.1 := heq ▸ hb
        split <;> simp [Memory.byte, hbc, hb]
      · simp only [Memory.byte]
        split
        · rfl
        · exact ih h.2

/-- A byte in a cleared range reads 0. -/
theorem Memory.byte_clear_in {m : Memory} (lo hi a : Nat) (h1 : lo ≤ a) (h2 : a < hi) :
    Memory.byte (Memory.clear m lo hi) a = 0 := by
  unfold Memory.clear
  induction m with
  | nil => rfl
  | cons c t ih =>
    by_cases hp : (decide (c.1 < lo) || decide (hi ≤ c.1)) = true
    · rw [List.filter_cons_of_pos (by simpa using hp)]
      simp only [Bool.or_eq_true, decide_eq_true_eq] at hp
      have hne : a ≠ c.1 := by omega
      simp only [Memory.byte, hne, if_false]
      exact ih
    · rw [List.filter_cons_of_neg (by simpa using hp)]
      exact ih

/-- A byte outside a cleared range stands. -/
theorem Memory.byte_clear_out {m : Memory} (lo hi a : Nat) (h : a < lo ∨ hi ≤ a) :
    Memory.byte (Memory.clear m lo hi) a = Memory.byte m a := by
  unfold Memory.clear
  induction m with
  | nil => rfl
  | cons c t ih =>
    by_cases hp : (decide (c.1 < lo) || decide (hi ≤ c.1)) = true
    · rw [List.filter_cons_of_pos (by simpa using hp)]
      simp only [Memory.byte]
      split
      · rfl
      · exact ih
    · rw [List.filter_cons_of_neg (by simpa using hp)]
      simp only [Bool.or_eq_true, decide_eq_true_eq] at hp
      have hne : a ≠ c.1 := by omega
      simp only [Memory.byte, hne, if_false]
      exact ih

/-- setLe leaves every byte outside the n written. -/
theorem Memory.byte_setLe_out {m : Memory} (a n v b : Nat) (h : Memory.wf m = true) (hb : b < a ∨ a + n ≤ b) :
    Memory.byte (Memory.setLe m a n v) b = Memory.byte m b := by
  induction n generalizing m a v with
  | zero => rfl
  | succ n ih =>
    unfold Memory.setLe
    rw [ih (a + 1) (v / 256) (Memory.set_wf a _ h) (by omega)]
    exact Memory.byte_set_other a b _ h (by omega)

/-- What setLe writes reads back. -/
theorem Memory.le_setLe {m : Memory} (a n v : Nat) (h : Memory.wf m = true) :
    Memory.le (Memory.setLe m a n v) a n = v % 256 ^ n := by
  induction n generalizing m a v with
  | zero => simp [Memory.le, Nat.mod_one]
  | succ n ih =>
    unfold Memory.setLe Memory.le
    rw [ih (a + 1) (v / 256) (Memory.set_wf a _ h), Memory.byte_setLe_out _ _ _ _ (Memory.set_wf a _ h) (Or.inl (by omega)),
      Memory.byte_set_same a _ h, BitVec.toNat_ofNat]
    have e : (256 : Nat) ^ (n + 1) = 256 * 256 ^ n := Nat.pow_succ'
    rw [e, Nat.mod_mul]

/-- Reading n bytes apart from those written answers what stood there. -/
theorem Memory.le_setLe_out {m : Memory} (a n v b k : Nat) (h : Memory.wf m = true) (hb : b + k ≤ a ∨ a + n ≤ b) :
    Memory.le (Memory.setLe m a n v) b k = Memory.le m b k := by
  induction k generalizing b with
  | zero => rfl
  | succ k ih =>
    unfold Memory.le
    rw [ih (b + 1) (by omega), Memory.byte_setLe_out a n v b h (by omega)]

/-- Two canonical memories that read alike at every key are equal. -/
theorem Memory.ext_byte {m m' : Memory} {lo : Nat} (h : Memory.wfFrom lo m = true) (h' : Memory.wfFrom lo m' = true)
    (e : ∀ a, Memory.byte m a = Memory.byte m' a) : m = m' := by
  induction m generalizing m' lo with
  | nil =>
    cases m' with
    | nil => rfl
    | cons c t =>
      simp only [Memory.wfFrom, Bool.and_eq_true, decide_eq_true_eq] at h'
      have := e c.1
      simp [Memory.byte] at this
      exact absurd this.symm h'.1.2
  | cons c t ih =>
    simp only [Memory.wfFrom, Bool.and_eq_true, decide_eq_true_eq] at h
    cases m' with
    | nil =>
      have := e c.1
      simp [Memory.byte] at this
      exact absurd this h.1.2
    | cons c' t' =>
      simp only [Memory.wfFrom, Bool.and_eq_true, decide_eq_true_eq] at h'
      have hk : c.1 = c'.1 := by
        rcases Nat.lt_trichotomy c.1 c'.1 with hlt | heq | hgt
        · have := e c.1
          rw [Memory.byte_below (m := c' :: t') (lo := c'.1) ((Memory.wfFrom_cons _ _ _).2 ⟨⟨Nat.le_refl _, h'.1.2⟩, h'.2⟩) hlt] at this
          simp [Memory.byte] at this
          exact absurd this h.1.2
        · exact heq
        · have := e c'.1
          rw [Memory.byte_below (m := c :: t) (lo := c.1) ((Memory.wfFrom_cons _ _ _).2 ⟨⟨Nat.le_refl _, h.1.2⟩, h.2⟩) hgt] at this
          simp [Memory.byte] at this
          exact absurd this.symm h'.1.2
      have hv : c.2 = c'.2 := by
        have := e c.1
        simpa [Memory.byte, hk] using this
      have ht : t = t' := by
        refine ih (lo := c.1 + 1) h.2 (hk ▸ h'.2) fun a => ?_
        by_cases ha : a = c.1
        · rw [Memory.byte_below h.2 (by omega), Memory.byte_below h'.2 (by omega)]
        · have := e a
          simpa [Memory.byte, ha, hk ▸ ha] using this
      rw [ht, Prod.ext hk hv]

end Sys2Proof.Machine
end

