-- ==== Sys2Proof/Laws/Quiet.lean ====
section
/-!
SUPPORT. Laws/Quiet.lean: on a quiet core the waits of the strand vanish (R156, R161 to R167), and what falling through leaves.
-/

namespace Sys2Proof.Machine

/-! ## Waits -/

/-- With no queued instruction outstanding a test that holds is met at once. -/
theorem drainUntil_met (p : State → Bool) {s : State} (hp : p s = true) (f : Nat) : drainUntil p f s = .clear s := by
  cases f <;> simp [drainUntil, hp]

/-- A test of the queue that holds is met at once. -/
theorem waitQueue_met (p : State → Bool) {s : State} (hp : p s = true) : waitQueue p s = .clear s := drainUntil_met p hp _

/-- A test of the store buffer that holds is met at once. -/
theorem waitSb_met (p : State → Bool) {s : State} (hp : p s = true) : waitSb p s = .clear s := by
  unfold waitSb
  cases s.core.q.sb.length + queueFuel s <;> simp [drainSbUntil, hp]

/-- With no queued instruction outstanding the queue is as short as may be. -/
theorem drainTo_idle {s : State} (hq : s.core.q.queue = []) (n : Nat) : drainTo n s = .clear s := waitQueue_met _ (by simp [hq])

/-- Nothing outstanding: the pace has nothing to complete (log 9). -/
theorem settle_idle {s : State} (hq : s.core.q.queue = []) (hs : s.core.q.sb = []) (hr : s.core.q.remote = []) : settle s = s := by
  have h1 : (drainTo s.pace.queue s).state = s := by rw [drainTo_idle hq]; rfl
  unfold settle
  simp only [h1, hs, List.length_nil, drainSb, hr, drainRemote]

/-- A quiet core has nothing to complete. -/
theorem settle_quiet {s : State} (h : Quiet s) : settle s = s := settle_idle h.1 h.2.2.1 h.2.2.2

/-- With no queued instruction outstanding the queue is drained. -/
theorem drainAll_idle {s : State} (hq : s.core.q.queue = []) : drainAll s = .clear s := drainTo_idle hq 0

/-- A drain point issues at once. -/
theorem atDrain_idle {s : State} (hq : s.core.q.queue = []) (k : State → State) : atDrain s k = k s := by
  unfold atDrain
  rw [drainAll_idle hq]

/-- No register is pending. -/
theorem pending_idle {s : State} (hq : s.core.q.queue = []) (hr : s.core.q.remote = []) (r : Reg) : pending s r = false := by
  simp [pending, remotePending, hq, hr]

/-- No register is waited for. -/
theorem whenReady_idle {s : State} (hq : s.core.q.queue = []) (hr : s.core.q.remote = []) (rs : List Reg) (k : State → State) :
    whenReady s rs k = k s := by
  unfold whenReady
  have h0 : drainRemoteFor rs s.core.q.remote.length s = s := by rw [hr]; rfl
  simp only [h0]
  rw [waitQueue_met (fun t => !rs.any (pending t)) (by simp [pending_idle hq hr])]

/-- The queue and the undo log have room. -/
theorem whenLogged_idle {s : State} (hq : s.core.q.queue = []) (k : State → State) : whenLogged s k = k s := by
  unfold whenLogged
  rw [waitQueue_met (hasRoom k) (by simp [hasRoom, hq])]

/-- A strand instruction on a quiet core acts at once. -/
theorem strand_quiet {s : State} (h : Quiet s) (rs : List Reg) (k : State → State) : strand s rs k = settle (k s) := by
  unfold strand
  rw [whenLogged_idle h.1, whenReady_idle h.1 h.2.2.2]

/-- A drain point on a quiet core acts at once. -/
theorem drained_quiet {s : State} (h : Quiet s) (rs : List Reg) (k : State → State) : drained s rs k = settle (k s) := by
  unfold drained
  rw [atDrain_idle h.1, whenReady_idle h.1 h.2.2.2]

/-- A trap of the strand on a quiet core is taken at once, at its own PC (R156). -/
theorem raiseTrap_idle {s : State} (hq : s.core.q.queue = []) (code : Nat) (v : Word) :
    raiseTrap s code v = trapEntry s code false v s.core.regs.pc := by
  unfold raiseTrap
  simp only [drainAll_idle hq]
  rfl

/-- With nothing queued no undo entry is made. -/
theorem pushUndo_idle {s : State} (hq : s.core.q.queue = []) (i : UndoItem) : pushUndo s i = s := by
  simp [pushUndo, hq]

/-- With nothing queued a strand write of an x register is the write alone. -/
theorem writeX_idle {s : State} (hq : s.core.q.queue = []) (d : Reg) (v : Word) : writeX s d v = setX s d v := by
  unfold writeX
  split
  · rename_i h0
    rw [h0]; rfl
  · rw [pushUndo_idle hq]

/-- With no undo entry there is nothing to free. -/
theorem flushRemote_idle {s : State} (hr : s.core.q.remote = []) : flushRemote s = s := by
  unfold flushRemote
  rw [hr]; rfl

/-- With no store and no remote request outstanding, a flush is met at once. -/
theorem whenFlushed_idle {s : State} (hs : s.core.q.sb = []) (hr : s.core.q.remote = []) (k : State → State) :
    whenFlushed s k = k s := by
  have h1 : flushStores s = s := by
    unfold flushStores
    simp only [hs, List.length_nil, drainSb]
    exact flushRemote_idle hr
  unfold whenFlushed
  simp [h1, hs]

/-- A release may run at once when the SDQ is empty too (R361). -/
theorem whenReleasable_idle {s : State} (hs : s.core.q.sb = []) (hr : s.core.q.remote = []) (hd : s.core.q.sdq = []) (k : State → State) :
    whenReleasable s k = k s := by
  unfold whenReleasable
  rw [whenFlushed_idle hs hr]
  simp [hd]

/-- The store buffer has room. -/
theorem whenSbRoom_idle {s : State} (hs : s.core.q.sb = []) (k : State → State) : whenSbRoom s k = k s := by
  unfold whenSbRoom
  rw [waitSb_met _ (by simp [hs, Config.storeBufferDepth])]
  rfl

/-! ## Falling through -/

/-- NoLoopEnd looks at the loop levels, the PC and the level alone. -/
theorem noLoopEnd_congr {s t : State} (h : NoLoopEnd s) (hl : t.core.regs.loops = s.core.regs.loops)
    (hp : t.core.regs.pc = s.core.regs.pc) (hv : t.core.regs.level = s.core.regs.level) : NoLoopEnd t := by
  intro n hn
  have := h n hn
  simp only [loopAt] at this ⊢
  rw [hl, hp, hv]
  exact this

/-- Where no loop ends, the END test moves to the next word. -/
theorem endTest_none {s : State} {a : Word} (n : Nat)
    (h : ∀ k, k < n → ¬((loopAt s k).act = true ∧ (loopAt s k).stop = a ∧ (loopAt s k).lvl = s.core.regs.level)) :
    endTest s a n = setPc s (a + 4) := by
  induction n with
  | zero => rfl
  | succ n ih =>
    have hn := h n (Nat.lt_succ_self n)
    have hc : ((loopAt s n).act && decide ((loopAt s n).stop = a) && decide ((loopAt s n).lvl = s.core.regs.level)) = false := by
      cases hb : ((loopAt s n).act && decide ((loopAt s n).stop = a) && decide ((loopAt s n).lvl = s.core.regs.level))
      · rfl
      · simp only [Bool.and_eq_true, decide_eq_true_eq] at hb
        exact absurd ⟨hb.1.1, hb.1.2, hb.2⟩ hn
    have he : endTest s a (n + 1) = endTest s a n := by
      show (if ((loopAt s n).act && decide ((loopAt s n).stop = a) && decide ((loopAt s n).lvl = s.core.regs.level)) = true
        then _ else endTest s a n) = endTest s a n
      rw [hc]
      rfl
    rw [he]
    exact ih fun k hk => h k (Nat.lt_succ_of_lt hk)

/-- RCNT is all that ends at the instruction of a retry, with no queued instruction outstanding (R427). -/
theorem retryDone_eq {s : State} (hq : s.core.q.queue = []) : retryDone s = setSync s { s.core.sync with rcnt := (retryDone s).core.sync.rcnt } := by
  unfold retryDone
  simp only [hq, List.isEmpty_nil, if_true]
  split <;> rfl

/-- What retiring leaves: INSTRET counts, and RCNT may end (R153, R427). -/
theorem retired_eq {s : State} (hq : s.core.q.queue = []) : retired s = { s with core := { s.core with
    regs := { s.core.regs with instret := s.core.regs.instret + 1 }
    sync := { s.core.sync with rcnt := (retired s).core.sync.rcnt } } } := by
  unfold retired
  rw [retryDone_eq hq]
  rfl

/-- Falling through where no loop ends: the next word, and nothing but INSTRET and RCNT besides (R153, R187). -/
theorem fallThrough_eq {s : State} (hq : s.core.q.queue = []) (h : NoLoopEnd s) : fallThrough s = setPc (retired s) (s.core.regs.pc + 4) := by
  unfold fallThrough
  have hr := retired_eq hq
  have hp : (retired s).core.regs.pc = s.core.regs.pc := by rw [hr]
  have hn : NoLoopEnd (retired s) := noLoopEnd_congr h (by rw [hr]) hp (by rw [hr])
  simp only
  rw [endTest_none 6 hn, hp]

/-- Falling through leaves everything but the PC, INSTRET and RCNT. -/
theorem fallThrough_onlyPc {s : State} (hq : s.core.q.queue = []) (h : NoLoopEnd s) : OnlyPc s (fallThrough s) := by
  rw [fallThrough_eq hq h, retired_eq hq]
  rfl

/-- Falling through moves to the next word and counts one instruction. -/
theorem fallThrough_advances {s : State} (hq : s.core.q.queue = []) (h : NoLoopEnd s) : Advances s (fallThrough s) := by
  rw [fallThrough_eq hq h, retired_eq hq]
  exact ⟨rfl, rfl⟩

/-- A jump leaves everything but the PC, INSTRET and RCNT. -/
theorem jumpTo_onlyPc {s : State} (hq : s.core.q.queue = []) (pc : Word) : OnlyPc s (jumpTo s pc) := by
  unfold jumpTo
  rw [retired_eq hq]
  rfl

/-- A jump goes where it says and counts one instruction. -/
theorem jumpTo_goes {s : State} (hq : s.core.q.queue = []) (pc : Word) :
    (jumpTo s pc).core.regs.pc = pc ∧ (jumpTo s pc).core.regs.instret = s.core.regs.instret + 1 := by
  unfold jumpTo
  rw [retired_eq hq]
  exact ⟨rfl, rfl⟩

/-- What OnlyPc leaves of the x registers. -/
theorem onlyPc_xr {s t : State} (h : OnlyPc s t) (r : Reg) : xr t r = xr s r := by
  unfold OnlyPc at h
  unfold Machine.xr
  rw [h]

/-- What OnlyPc leaves of the queues. -/
theorem onlyPc_q {s t : State} (h : OnlyPc s t) : t.core.q = s.core.q := by
  unfold OnlyPc at h
  rw [h]

/-- A quiet core stays quiet where only the PC moves. -/
theorem onlyPc_quiet {s t : State} (h : OnlyPc s t) (hq : Quiet s) : Quiet t := by
  unfold Quiet
  rw [onlyPc_q h]
  exact hq

/-- A write of an x register leaves the queues. -/
theorem setX_q (s : State) (d : Reg) (v : Word) : (setX s d v).core.q = s.core.q := by
  rw [setX_eq]; rfl

/-- A write of an x register leaves a quiet core quiet. -/
theorem quiet_setX {s : State} (h : Quiet s) (d : Reg) (v : Word) : Quiet (setX s d v) := by
  unfold Quiet
  rw [setX_q]
  exact h

/-- A write of an x register leaves the loops, the PC and the level. -/
theorem noLoopEnd_setX {s : State} (h : NoLoopEnd s) (d : Reg) (v : Word) : NoLoopEnd (setX s d v) :=
  noLoopEnd_congr h (by rw [setX_eq]; rfl) (by rw [setX_eq]; rfl) (by rw [setX_eq]; rfl)

/-- What a write of x(d) leaves of the x registers. -/
theorem wroteX_setX (s : State) (d : Reg) (v : Word) : WroteX s (setX s d v) d v :=
  ⟨fun h => xr_setX_same s d v h, fun r h => xr_setX_other s d r v h⟩

/-- The x registers, the PC, INSTRET and RCNT after a write of x(d) that falls through. -/
theorem fallThrough_setX {s : State} (h : Ready s) (d : Reg) (v : Word) :
    WroteX s (fallThrough (setX s d v)) d v ∧ Advances s (fallThrough (setX s d v)) ∧ OnlyX s (fallThrough (setX s d v)) := by
  have hn := noLoopEnd_setX h.2 d v
  have hq := (quiet_setX h.1 d v).1
  have ho := fallThrough_onlyPc hq hn
  have ha := fallThrough_advances hq hn
  refine ⟨⟨fun hd => ?_, fun r hr => ?_⟩, ?_, ?_⟩
  · rw [onlyPc_xr ho, xr_setX_same s d v hd]
  · rw [onlyPc_xr ho, xr_setX_other s d r v hr]
  · refine ⟨ha.1.trans ?_, ha.2.trans ?_⟩
    · rw [setX_eq]; rfl
    · rw [setX_eq]; rfl
  · rw [fallThrough_eq hq hn, retired_eq hq, setX_eq]
    rfl

/-- An instruction whose meaning writes x(d) and falls through computes (R171). -/
theorem computes_of {i : Instr} {s : State} {rs : List Reg} {k : State → State} {d : Reg} {v : Word} (h : Ready s)
    (he : exec i s = .next (strand s rs k)) (hk : k s = fallThrough (writeX s d v)) : Computes i s d v := by
  have hw := fallThrough_setX h d v
  refine ⟨fallThrough (setX s d v), ?_, hw⟩
  rw [he, strand_quiet h.1, hk, writeX_idle h.1.1, settle_quiet]
  exact onlyPc_quiet (fallThrough_onlyPc (quiet_setX h.1 d v).1 (noLoopEnd_setX h.2 d v)) (quiet_setX h.1 d v)

/-- An instruction whose meaning only falls through. -/
theorem goesNext_of {i : Instr} {s : State} {rs : List Reg} {k : State → State} (h : Ready s)
    (he : exec i s = .next (strand s rs k)) (hk : k s = fallThrough s) : GoesTo i s (s.core.regs.pc + 4) := by
  have ho := fallThrough_onlyPc h.1.1 h.2
  have ha := fallThrough_advances h.1.1 h.2
  refine ⟨fallThrough s, ?_, ha.1, ha.2, ho⟩
  rw [he, strand_quiet h.1, hk, settle_quiet (onlyPc_quiet ho h.1)]

/-- An instruction whose meaning only jumps. -/
theorem goesTo_of {i : Instr} {s : State} {rs : List Reg} {k : State → State} {pc : Word} (h : Quiet s)
    (he : exec i s = .next (strand s rs k)) (hk : k s = jumpTo s pc) : GoesTo i s pc := by
  have ho := jumpTo_onlyPc h.1 pc
  have ha := jumpTo_goes h.1 pc
  refine ⟨jumpTo s pc, ?_, ha.1, ha.2, ho⟩
  rw [he, strand_quiet h, hk, settle_quiet (onlyPc_quiet ho h)]

/-- An instruction whose meaning traps. -/
theorem traps_of {i : Instr} {s : State} {rs : List Reg} {k : State → State} {code : Nat} {v : Word} (h : Quiet s)
    (he : exec i s = .next (strand s rs k)) (hk : k s = raiseTrap s code v) : TrapsWith i s code v := by
  unfold TrapsWith
  rw [he, strand_quiet h, hk, raiseTrap_idle h.1]

/-- A drain point whose meaning traps. -/
theorem traps_of_drained {i : Instr} {s : State} {rs : List Reg} {k : State → State} {code : Nat} {v : Word} (h : Quiet s)
    (he : exec i s = .next (drained s rs k)) (hk : k s = raiseTrap s code v) : TrapsWith i s code v := by
  unfold TrapsWith
  rw [he, drained_quiet h, hk, raiseTrap_idle h.1]

/-- A trap with a handler leaves a quiet core quiet (R156). -/
theorem trapEntry_handler {s : State} (h : HandlerReady s) (code : Nat) (int : Bool) (v pc : Word) :
    (trapEntry s code int v pc).core.q = s.core.q := by
  unfold trapEntry
  have h1 : ¬((s.core.trap.tvec >>> 2 = 0) ∨ s.core.trap.inh = true) := by
    rintro (h2 | h2)
    · exact h.1 h2
    · rw [h.2] at h2; exact absurd h2 (by decide)
  simp only [Bool.or_eq_true, decide_eq_true_eq]
  rw [if_neg h1]
  rfl

end Sys2Proof.Machine
end

