-- ==== Sys2Proof/Laws/Queued.lean ====
section
/-!
SUPPORT. Laws/Queued.lean: a queued instruction on a ready strand whose pace keeps nothing back: it is appended, has its turn and
completes in the same step (R161, R243, R252), and what its completion leaves.
-/

namespace Sys2Proof.Machine

/-! ## The append -/

/-- An instruction that is no early load does nothing early (R288). -/
theorem earlyAtEnqueue_none (s : State) (e : QEntry) (h : isEarlyLoad e.instr = false) : earlyAtEnqueue s e = s := by
  simp [earlyAtEnqueue, h]

/-- The END test at the PC of a strand that no level ends, seen from a state that differs in other things. -/
theorem endTest_ready {s t : State} (h : NoLoopEnd s) (hl : t.core.regs.loops = s.core.regs.loops)
    (hv : t.core.regs.level = s.core.regs.level) : endTest t s.core.regs.pc 6 = setPc t (s.core.regs.pc + 4) := by
  apply endTest_none
  intro k hk
  have hn := h k hk
  simp only [loopAt] at hn ⊢
  rw [hl, hv]
  exact hn

/-- The append of an instruction that is no early load. -/
theorem append_appended {s : State} {i : Instr} (h : Ready s) (he : isEarlyLoad i = false) : append_ s (capture s i) = appended s i := by
  have hq : s.core.q.queue = [] := h.1.1
  have h1 : allotLdq s (capture s i) = s := by
    unfold allotLdq
    rw [if_neg]
    show ¬isEarlyLoad i = true
    rw [he]
    decide
  have h2 : ∀ t : State, earlyAtEnqueue t (capture s i) = t := fun t => earlyAtEnqueue_none t _ he
  unfold append_
  simp only [h1, h2]
  rw [show (capture s i).pc = s.core.regs.pc from rfl, show (capture s i).instr = i from rfl, hq]
  unfold appended
  cases hl : isLaneAddressed i
  · rw [endTest_ready h.2] <;> simp [setQ, setPc, setRegs]
  · rw [endTest_ready h.2] <;> simp [setQ, setPc, setRegs, setLanedone]

/-! ## The completion -/

/-- Nothing is freed where no undo entry stands. -/
theorem freeUndo_idle {s : State} (hu : s.core.q.undo = []) : freeUndo s = s := by
  unfold freeUndo
  rw [hu]
  rfl

/-- What the end of a unit's refusals leaves: everything but the page requests (R299). -/
theorem endRefusals_eq (s : State) (p : CorePos) (n : Nat) : endRefusals s p n = { s with pageReqs := (endRefusals s p n).pageReqs } := by
  unfold endRefusals
  split <;> rfl

/-- RCNT after an instruction that may have been retried (R427). -/
theorem rcnt_ite (c : Prop) [Decidable c] (s : State) :
    (if c then setSync s { s.core.sync with rcnt := 0 } else s) =
      setSync s { s.core.sync with rcnt := if c then 0 else s.core.sync.rcnt } := by
  split <;> rfl

/-- Where nothing is queued, an instruction that was retried stands (R427). -/
theorem settleRetry_eq {s : State} (hq : s.core.q.queue = []) : settleRetry s =
    setSync (setQ s { s.core.q with retry := none }) { s.core.sync with rcnt := (settleRetry s).core.sync.rcnt } := by
  unfold settleRetry
  cases h : s.core.q.retry with
  | none =>
    rw [if_neg (by simp)]
    unfold setQ setSync
    rw [← h]
  | some n =>
    rw [if_pos (by simp [queuePast, hq])]
    rfl

/-- Where no leaf waits for its A, none is set (R297). -/
theorem settleUses_none {s : State} (h : s.core.q.uses = []) : settleUses s = s := by
  unfold settleUses
  rw [h]
  rfl

/-- What the completion of the only queued instruction leaves (R153, R161, R250, R251, R427). -/
theorem completeHead_eq {u : State} {e : QEntry} (k : KeptQueues e u) :
    ∃ reqs rcnt, completeHead u e = { u with
      pageReqs := reqs
      core := { u.core with
        regs := { u.core.regs with instret := u.core.regs.instret + 1 }
        q := { u.core.q with
          queue := []
          ldq := if readsLdq e.instr then u.core.q.ldq.filter fun l => l.kept || e.ldqSeq != some l.seq else u.core.q.ldq
          sdq := if takesSdq e.instr then u.core.q.sdq.filter fun d => e.sdqSeq != some d.seq else u.core.q.sdq
          retry := none }
        sync := { u.core.sync with rcnt := rcnt } } } := by
  obtain ⟨v, hv, hc⟩ : ∃ v : State, v = { u with
      pageReqs := (endRefusals u u.core.pos queueUnit).pageReqs
      core := { u.core with
        regs := { u.core.regs with instret := u.core.regs.instret + 1 }
        q := { u.core.q with
          queue := []
          ldq := if readsLdq e.instr then u.core.q.ldq.filter fun l => l.kept || e.ldqSeq != some l.seq else u.core.q.ldq
          sdq := if takesSdq e.instr then u.core.q.sdq.filter fun d => e.sdqSeq != some d.seq else u.core.q.sdq }
        sync := { u.core.sync with
          rcnt := if (decide (u.core.sync.rcnt ≠ 0) && decide (u.core.sync.rpc = e.pc)) = true then 0 else u.core.sync.rcnt } } } ∧
      completeHead u e = settleUses (settleRetry v) := by
    refine ⟨_, rfl, ?_⟩
    unfold completeHead
    simp only [rcnt_ite, k.1, List.drop_one, List.tail_cons]
    rw [endRefusals_eq u u.core.pos queueUnit]
    exact congrArg (fun s => settleUses (settleRetry s)) (freeUndo_idle k.2.1)
  have hu : (settleRetry v).core.q.uses = [] := by
    rw [settleRetry_eq (by rw [hv]), hv]
    exact k.2.2.2.2
  rw [hc, settleUses_none hu, settleRetry_eq (by rw [hv])]
  generalize (settleRetry v).core.sync.rcnt = r
  rw [hv]
  exact ⟨_, r, rfl⟩

/-- The turn of the only queued instruction, down to the pace. -/
theorem settle_turn {t u : State} {e : QEntry} (hq : t.core.q.queue = [e]) (ha : e.ahead = none) (hp : t.pace.queue = 0)
    (hr : runEntry e t = .done u) (k : KeptQueues e u) : settle t = completeHead u e := by
  obtain ⟨reqs, rcnt, hc⟩ := completeHead_eq k
  have hq1 : (completeHead u e).core.q.queue = [] := by rw [hc]
  have hs1 : (completeHead u e).core.q.sb = [] := by rw [hc]; exact k.2.2.1
  have hr1 : (completeHead u e).core.q.remote = [] := by rw [hc]; exact k.2.2.2.1
  have hh : runQueue t = .clear (completeHead u e) := by
    unfold runQueue runHead
    simp only [hq, ha, hr]
  have hd : drainTo t.pace.queue t = .clear (completeHead u e) := by
    unfold drainTo waitQueue queueFuel
    rw [hp, hq]
    show drainUntil _ (2 + 1) t = _
    unfold drainUntil
    rw [if_neg (by simp [hq]), hh]
    exact drainUntil_met _ (by simp [hq1]) 2
  unfold settle
  rw [hd]
  simp only [DrainRes.state, hs1, List.length_nil, drainSb, hr1, drainRemote]

/-- A queued instruction whose turn completes has completed when its step ends (R161, R243). -/
theorem enqueue_done {i : Instr} {s u : State} (h : ReadyQ i s) (he : isEarlyLoad i = false)
    (hr : runEntry (capture s i) (appended s i) = .done u) (k : KeptQueues (capture s i) u) :
    enqueue s i = completeHead u (capture s i) := by
  have hq : s.core.q.queue = [] := h.1.1.1
  unfold enqueue
  rw [whenLogged_idle hq]
  simp only [h.2.2.1, Bool.not_true, Bool.false_eq_true, if_false]
  rw [whenReady_idle hq h.1.1.2.2.2]
  simp only [h.2.2.2.1]
  rw [waitQueue_met (fun t => roomFor t i) (by simp [roomFor, hq, he, Config.queueDepth])]
  simp only
  rw [append_appended h.1 he]
  exact settle_turn (e := capture s i) rfl rfl h.2.1 hr k

/-! ## Captured operands -/

/-- Finding a register among captured ones. -/
theorem find_captured (s : State) {r : Reg} : ∀ rs : List Reg, r ∈ rs →
    (rs.map fun q => (q, xr s q)).find? (fun p => p.1 == r) = some (r, xr s r)
  | [], h => by cases h
  | a :: t, h => by
    by_cases ha : a = r
    · simp [ha]
    · have hb : (a == r) = false := by simp [ha]
      simp only [List.map_cons, List.find?_cons, hb]
      rcases List.mem_cons.1 h with hr | hr
      · exact absurd hr.symm ha
      · exact find_captured s t hr

/-- A captured x operand is the register at the enqueue (R161). -/
theorem capture_x (s : State) {i : Instr} {r : Reg} (h : r ∈ xReadsOf i) : (capture s i).x r = xr s r := by
  unfold QEntry.x
  by_cases h0 : r = 0
  · rw [if_pos h0, h0]
    rfl
  · rw [if_neg h0]
    have hf := find_captured s (xReadsOf i) h
    show ((List.find? _ (capture s i).xs).map _).getD 0 = _
    rw [show (capture s i).xs = (xReadsOf i).map fun q => (q, xr s q) from rfl, hf]
    rfl

/-- An entry that a test picks first among some is the first of those that have its number. -/
theorem find_first {α : Type} (p : α → Bool) (key : α → Nat) : ∀ l : List α,
    (l.find? fun x => p x && (l.find? p).map key == some (key x)) = l.find? p
  | [] => rfl
  | a :: t => by
    by_cases ha : p a = true
    · simp [ha]
    · have hb : p a = false := by simpa using ha
      simp only [List.find?_cons, hb, Bool.false_and]
      exact find_first p key t

/-- A v source of a queued instruction that reads it is that of the strand at the enqueue (R250). -/
theorem vSrc_appended {s : State} (hq : s.core.q.queue = []) {i : Instr} {r : Reg} (h : r = 30 → readsLdq i = true) :
    vSrc (appended s i) (capture s i) r = vNow s r := by
  unfold vSrc vNow
  split
  · rename_i hr
    have h1 : ldqFor (appended s i) (capture s i) = nextLdq s := by
      unfold ldqFor capture
      simp only [h hr, if_true]
      have h2 : nextLdq s = s.core.q.ldq.find? fun l => !l.kept := by
        unfold nextLdq
        rw [hq]
        simp
      rw [h2]
      exact find_first (fun l => !l.kept) (·.seq) s.core.q.ldq
    rw [h1]
  · rfl

end Sys2Proof.Machine
end

