-- ==== Sys2Proof/Laws/Lanes.lean ====
section
/-!
SUPPORT. Laws/Lanes.lean: a register made of lanes reads back lane by lane (R247), and what an instruction that writes lanes leaves
(R248, R250, R251, R257).
-/

namespace Sys2Proof.Machine

/-! ## Lanes -/

/-- Packed lanes take as many bits as they have. -/
theorem packLanes_lt (w : Nat) : ∀ ls : List Nat, packLanes w ls < 2 ^ (w * ls.length)
  | [] => by simp [packLanes]
  | h :: t => by
    have ih := packLanes_lt w t
    have hp : 0 < 2 ^ w := Nat.two_pow_pos w
    have hm : h % 2 ^ w < 2 ^ w := Nat.mod_lt _ hp
    have he : 2 ^ (w * (h :: t).length) = 2 ^ w * 2 ^ (w * t.length) := by
      rw [← Nat.pow_add, List.length_cons]
      congr 1
      ring
    rw [he]
    have : 2 ^ w * (packLanes w t + 1) ≤ 2 ^ w * 2 ^ (w * t.length) := Nat.mul_le_mul_left _ ih
    unfold packLanes
    have hx : 2 ^ w * (packLanes w t + 1) = 2 ^ w * packLanes w t + 2 ^ w := by ring
    omega

/-- A packed lane reads back. -/
theorem packLanes_lane (w : Nat) : ∀ (ls : List Nat) (i : Nat), i < ls.length →
    packLanes w ls / 2 ^ (w * i) % 2 ^ w = laneOf ls i % 2 ^ w
  | [], i, h => absurd h (Nat.not_lt_zero i)
  | a :: t, 0, _ => by
    simp [packLanes, laneOf, Nat.add_mod, Nat.mul_mod_right]
  | a :: t, i + 1, h => by
    have hp : 0 < 2 ^ w := Nat.two_pow_pos w
    have ih := packLanes_lane w t i (by simpa using h)
    have h1 : packLanes w (a :: t) / 2 ^ w = packLanes w t := by
      show (a % 2 ^ w + 2 ^ w * packLanes w t) / 2 ^ w = packLanes w t
      rw [Nat.add_mul_div_left _ _ hp, Nat.div_eq_of_lt (Nat.mod_lt _ hp), Nat.zero_add]
    have h2 : 2 ^ (w * (i + 1)) = 2 ^ w * 2 ^ (w * i) := by
      rw [← Nat.pow_add]
      congr 1
      ring
    rw [h2, ← Nat.div_div_eq_div_mul, h1, ih]
    simp [laneOf]

/-- A register made of lanes reads back lane by lane (R247). -/
theorem lane_ofLanes {w : Nat} {ls : List Nat} (hw : w * ls.length ≤ 512) {i : Nat} (hi : i < ls.length) :
    lane (ofLanes w ls) w i = laneOf ls i % 2 ^ w := by
  have hlt : packLanes w ls < 2 ^ 512 := Nat.lt_of_lt_of_le (packLanes_lt w ls) (Nat.pow_le_pow_right (by decide) hw)
  unfold lane ofLanes
  rw [BitVec.toNat_ofNat, Nat.mod_eq_of_lt hlt]
  exact packLanes_lane w ls i hi

/-- The lanes of a width fit a register. -/
theorem lanes_fit (w : Nat) : w * laneCount w ≤ 512 := Nat.mul_div_le 512 w

/-- Lane j of lanes computed from their index. -/
theorem laneOf_map {n : Nat} (f : Nat → Nat) {j : Nat} (h : j < n) : laneOf ((List.range n).map f) j = f j := by
  simp [laneOf, h]

/-- A register computed lane by lane (R247). -/
theorem lane_computed (w : Nat) (f : Nat → Nat) {j : Nat} (h : j < laneCount w) :
    lane (ofLanes w ((List.range (laneCount w)).map f)) w j = f j % 2 ^ w := by
  rw [lane_ofLanes (by simpa using lanes_fit w) (by simpa using h), laneOf_map f h]

/-- A lane is as wide as its width. -/
theorem lane_lt (v : VWord) (w i : Nat) : lane v w i < 2 ^ w := Nat.mod_lt _ (Nat.two_pow_pos w)

/-- A lane reduced to its width stands. -/
theorem lane_mod (v : VWord) (w i : Nat) : lane v w i % 2 ^ w = lane v w i := Nat.mod_eq_of_lt (lane_lt v w i)

/-! ## The turn of a queued instruction, as claims put it -/

/-- An instruction whose turn completes with u: what its step answers, and how much of u its completion changes. -/
theorem turn_done {i : Instr} {s u : State} (h : ReadyQ i s) (he : isEarlyLoad i = false) (hx : exec i s = .next (enqueue s i))
    (hr : runEntry (capture s i) (appended s i) = .done u) (k : KeptQueues (capture s i) u) :
    ∃ reqs rcnt, exec i s = .next { u with
      pageReqs := reqs
      core := { u.core with
        regs := { u.core.regs with instret := u.core.regs.instret + 1 }
        q := { u.core.q with
          queue := []
          ldq := ldqAfter s i u.core.q.ldq
          sdq := if takesSdq i then u.core.q.sdq.filter fun d => nextSdq s != some d.seq else u.core.q.sdq
          retry := none }
        sync := { u.core.sync with rcnt := rcnt } } } := by
  obtain ⟨reqs, rcnt, hc⟩ := completeHead_eq k
  refine ⟨reqs, rcnt, ?_⟩
  rw [hx, enqueue_done h he hr k, hc]
  have hl : (if readsLdq i = true then u.core.q.ldq.filter fun l => l.kept || (capture s i).ldqSeq != some l.seq else u.core.q.ldq) =
      ldqAfter s i u.core.q.ldq := by
    unfold ldqAfter capture
    split <;> simp_all
  have hd : (if takesSdq i = true then u.core.q.sdq.filter fun d => (capture s i).sdqSeq != some d.seq else u.core.q.sdq) =
      if takesSdq i = true then u.core.q.sdq.filter fun d => nextSdq s != some d.seq else u.core.q.sdq := by
    unfold capture
    split <;> simp_all
  rw [← hl, ← hd]
  rfl

/-- The queues of a strand whose instruction has its turn. -/
theorem appended_kept {i : Instr} {s : State} (h : ReadyQ i s) : KeptQueues (capture s i) (appended s i) :=
  ⟨rfl, h.1.1.2.1, h.1.1.2.2.1, h.1.1.2.2.2, h.2.2.2.2⟩

/-- An instruction whose turn writes x(d), raises flags and sets SRSEED. -/
theorem yieldsX_of {i : Instr} {s : State} {d : Reg} {v : Word} {fl : Flags} {seed : Word} (h : ReadyQ i s)
    (he : isEarlyLoad i = false) (hs : takesSdq i = false) (hx : exec i s = .next (enqueue s i))
    (hr : runEntry (capture s i) (appended s i) =
      .done (setRegs (setX (appended s i) d v) { (setX (appended s i) d v).core.regs with fflags := s.core.regs.fflags ||| fl, srseed := seed })) :
    YieldsX i s d v fl seed := by
  have hk : KeptQueues (capture s i) (setRegs (setX (appended s i) d v)
      { (setX (appended s i) d v).core.regs with fflags := s.core.regs.fflags ||| fl, srseed := seed }) := by
    have hq : (setX (appended s i) d v).core.q = (appended s i).core.q := setX_q _ _ _
    have ha := appended_kept h
    exact ⟨by rw [← ha.1]; exact congrArg Queues.queue hq, (congrArg Queues.undo hq).trans ha.2.1, (congrArg Queues.sb hq).trans ha.2.2.1,
      (congrArg Queues.remote hq).trans ha.2.2.2.1, (congrArg Queues.uses hq).trans ha.2.2.2.2⟩
  obtain ⟨reqs, rcnt, hn⟩ := turn_done h he hx hr hk
  refine ⟨_, hn, ⟨fun hd => ?_, fun r hd => ?_⟩, ?_⟩
  · exact xr_setX_same (appended s i) d v hd
  · exact xr_setX_other (appended s i) d r v hd
  · have hq : s.core.q.queue = [] := h.1.1.1
    rw [setX_eq]
    unfold appended passed setRegs
    simp only [hq, hs, Bool.false_eq_true, if_false]

/-- A v register that was written whole reads back. -/
theorem setV_get (s : State) (d : Reg) (v : VWord) : (setV s d v).core.vec.v.get d.toFin = v := by
  unfold setV setVec
  show (s.core.vec.v.set d.toNat v d.isLt)[d.toNat] = v
  simp

/-- A v destination of a write is what was written. -/
theorem newV_tookV (s : State) (seq : Nat) (d : Reg) (v : VWord) : newV (tookV s seq d v) d = v := by
  unfold newV tookV
  by_cases hd : d = 31
  · simp only [if_pos hd]
    simp [setQ]
  · simp only [if_neg hd]
    exact setV_get s d v

/-- A v destination of a write is what was written, whatever is put beside it. -/
theorem newV_took (s : State) (seq : Nat) (d : Reg) (v : VWord) (reqs : List PageReq) (g : Regs) (y : SyncRegs)
    (l : Queues → Queues) (hl : ∀ q, (l q).sdq = q.sdq) :
    newV { tookV s seq d v with
      pageReqs := reqs
      core := { (tookV s seq d v).core with regs := g, q := l (tookV s seq d v).core.q, sync := y } } d = v := by
  have h := newV_tookV s seq d v
  unfold newV at h ⊢
  simp only [hl]
  exact h

/-- An instruction whose turn writes a v destination, raises flags and sets SRSEED. -/
theorem onlyV_of {i : Instr} {s : State} {d : Reg} {v : VWord} {fl : Flags} {seed : Word} (h : ReadyQ i s)
    (he : isEarlyLoad i = false) (hs : takesSdq i = false) (hx : exec i s = .next (enqueue s i))
    (hr : runEntry (capture s i) (appended s i) = .done (setRegs (tookV (appended s i) s.core.q.qnext d v)
      { (tookV (appended s i) s.core.q.qnext d v).core.regs with fflags := fl, srseed := seed })) :
    ∃ t, exec i s = .next t ∧ OnlyV i s t d ∧ newV t d = v ∧ t.core.regs.fflags = fl ∧ t.core.regs.srseed = seed := by
  have ha := appended_kept h
  have hk : KeptQueues (capture s i) (setRegs (tookV (appended s i) s.core.q.qnext d v)
      { (tookV (appended s i) s.core.q.qnext d v).core.regs with fflags := fl, srseed := seed }) := by
    unfold tookV
    split
    · exact ha
    · exact ha
  obtain ⟨reqs, rcnt, hn⟩ := turn_done h he hx hr hk
  have hq : s.core.q.queue = [] := h.1.1.1
  simp only [hs, Bool.false_eq_true, if_false] at hn
  refine ⟨_, hn, ?_, ?_, rfl, rfl⟩
  · unfold OnlyV
    simp only
    rw [show ∀ t : State, newV t d = v → tookV (passed i s t) s.core.q.qnext d (newV t d) = tookV (passed i s t) s.core.q.qnext d v from
      fun t ht => by rw [ht]]
    · unfold tookV
      by_cases hd : d = 31
      · simp only [if_pos hd]
        unfold setQ setRegs passed appended
        simp only [hq]
      · simp only [if_neg hd]
        unfold setV setVec setRegs passed appended
        simp only [hq]
    · exact newV_took (appended s i) _ d v reqs _ _ (fun q => { q with queue := [], ldq := ldqAfter s i q.ldq, retry := none }) fun _ => rfl
  · exact newV_took (appended s i) _ d v reqs _ _ (fun q => { q with queue := [], ldq := ldqAfter s i q.ldq, retry := none }) fun _ => rfl

/-! ## Flags -/

/-- Folding flags over a list raises the bits of those that count. -/
theorem foldFlags_bit (p : Nat → Bool) (l : List (Nat × (Nat × Flags))) (f0 : Flags) (b : Nat) :
    (l.foldl (fun (f : Flags) x => if p x.1 then f ||| x.2.2 else f) f0).getLsbD b = true ↔
      f0.getLsbD b = true ∨ ∃ x ∈ l, p x.1 = true ∧ x.2.2.getLsbD b = true := by
  induction l generalizing f0 with
  | nil => simp
  | cons a t ih =>
    rw [List.foldl_cons, ih]
    by_cases hp : p a.1 = true
    · simp only [hp, if_true, BitVec.getLsbD_or, Bool.or_eq_true, List.mem_cons, exists_eq_or_imp, true_and]
      tauto
    · simp only [hp, Bool.false_eq_true, if_false, List.mem_cons, exists_eq_or_imp, false_and, false_or]

/-- The union of flags of lanes computed from their index (R235). -/
theorem unionFlags_bit (act : Word) (n : Nat) (g : Nat → Nat × Flags) (b : Nat) :
    (unionFlags act ((List.range n).map g)).getLsbD b = true ↔ ∃ j, j < n ∧ act.getLsbD j = true ∧ (g j).2.getLsbD b = true := by
  unfold unionFlags
  rw [foldFlags_bit (fun j => act.getLsbD j)]
  have hz : (List.range ((List.range n).map g).length).zip ((List.range n).map g) = (List.range n).map fun j => (j, g j) := by
    apply List.ext_getElem
    · simp
    · intro i h1 h2
      simp
  rw [hz]
  simp

/-! ## Lane-wise instructions -/

/-- A turn that computes every lane is one write of a v destination with flags and draws. -/
theorem laneEffect_eq (s : State) (i : Instr) (d : Reg) (w : Nat) (f : Nat → Nat → Nat × Flags) :
    laneEffect (appended s i) (capture s i) d w f =
      .done (setRegs (tookV (appended s i) s.core.q.qnext d (ofLanes w ((List.range (laneCount w)).map fun j =>
          if (activeNow s).getLsbD j then (f j (laneOf (drawn i s (laneCount w)).2 j)).1 else lane (oldV s d) w j)))
        { (tookV (appended s i) s.core.q.qnext d (ofLanes w ((List.range (laneCount w)).map fun j =>
          if (activeNow s).getLsbD j then (f j (laneOf (drawn i s (laneCount w)).2 j)).1 else lane (oldV s d) w j))).core.regs with
          fflags := s.core.regs.fflags ||| unionFlags (activeNow s)
            ((List.range (laneCount w)).map fun j => f j (laneOf (drawn i s (laneCount w)).2 j))
          srseed := (drawn i s (laneCount w)).1 }) := by
  have hd : takeDraws (appended s i) (capture s i) (laneCount w) =
      (setRegs (appended s i) { (appended s i).core.regs with srseed := (drawn i s (laneCount w)).1 }, (drawn i s (laneCount w)).2) := by
    unfold takeDraws drawn
    show (if drawsUnder s.core.regs.mode i = true then _ else _) = _
    split <;> rfl
  unfold laneEffect
  simp only [hd]
  have hl : ((List.range (laneCount w)).map fun j =>
      if (activeNow s).getLsbD j then laneOf (List.map (fun x => x.1) ((List.range (laneCount w)).map fun j =>
        f j (laneOf (drawn i s (laneCount w)).2 j))) j else lane (oldV s d) w j) =
      (List.range (laneCount w)).map fun j =>
        if (activeNow s).getLsbD j then (f j (laneOf (drawn i s (laneCount w)).2 j)).1 else lane (oldV s d) w j := by
    apply List.map_congr_left
    intro j hj
    rw [List.map_map, laneOf_map _ (List.mem_range.1 hj)]
    rfl
  rw [← hl]
  unfold writeLanes tookV oldV
  by_cases h31 : d = 31
  · simp only [if_pos h31]
    rfl
  · simp only [if_neg h31]
    rfl

/-- An instruction whose turn computes every lane. -/
theorem lanewise_of {i : Instr} {s : State} {d : Reg} {w : Nat} {f : Nat → Nat → Nat × Flags} (h : ReadyQ i s)
    (he : isEarlyLoad i = false) (hs : takesSdq i = false) (hx : exec i s = .next (enqueue s i))
    (hr : runEntry (capture s i) (appended s i) = laneEffect (appended s i) (capture s i) d w f) : Lanewise i s d w f := by
  obtain ⟨t, h1, h2, h3, h4, h5⟩ := onlyV_of h he hs hx (hr.trans (laneEffect_eq s i d w f))
  refine ⟨t, h1, h2, h5, fun j hj => ?_, fun b => ?_⟩
  · rw [h3, lane_computed w _ hj]
    split
    · rfl
    · exact lane_mod _ _ _
  · rw [h4, BitVec.getLsbD_or, Bool.or_eq_true, unionFlags_bit]

/-- The b operand of a queued instruction, at its turn (R255). -/
theorem bLane_appended {s : State} (hq : s.core.q.queue = []) {i : Instr} {b : Reg} {x : BitVec 1} (h : x = 1 → b ∈ xReadsOf i)
    (hv : x ≠ 1 → b = 30 → readsLdq i = true) (w j : Nat) : bLane (appended s i) (capture s i) w b x j = laneB s b x w j := by
  unfold bLane laneB
  split
  · rename_i hx
    rw [capture_x s (h hx)]
  · rename_i hx
    unfold laneA
    rw [vSrc_appended hq (hv hx)]

end Sys2Proof.Machine
end

