-- ==== Sys2Proof/Laws/PerInstr.lean ====
section
/-!
SUPPORT. Laws/PerInstr.lean: the family Encoding: the fields of every instruction's word spell that instruction again (R133 to R137).
-/

namespace Sys2Proof.Laws

/-! ## Fields of a word -/

/-- A field of a disjunction. -/
theorem field_or (a b : InstrWord) (lo n : Nat) : wordField (a ||| b) lo n = wordField a lo n ||| wordField b lo n := by
  apply BitVec.eq_of_getLsbD_eq
  intro i hi
  simp [wordField, hi]

/-- A field of a conjunction. -/
theorem field_and (a b : InstrWord) (lo n : Nat) : wordField (a &&& b) lo n = wordField a lo n &&& wordField b lo n := by
  apply BitVec.eq_of_getLsbD_eq
  intro i hi
  simp [wordField, hi]

/-- A mask of a disjunction. -/
theorem mask_or (a b m : InstrWord) : (a ||| b) &&& m = (a &&& m) ||| (b &&& m) := by
  apply BitVec.eq_of_getLsbD_eq
  intro i hi
  simp only [BitVec.getLsbD_and, BitVec.getLsbD_or]
  cases a.getLsbD i <;> cases b.getLsbD i <;> simp

/-- A placed field reads back. -/
theorem field_same {n : Nat} (v : BitVec n) (lo : Nat) (h : lo + n ≤ 32) : wordField (placeField v lo) lo n = v := by
  apply BitVec.eq_of_getLsbD_eq
  intro i hi
  have h1 : lo + i < 32 := by omega
  simp [wordField, placeField, hi, h1]

/-- A placed field leaves every other field 0. -/
theorem field_other {n : Nat} (v : BitVec n) (lo lo' m : Nat) (h : lo + n ≤ lo' ∨ lo' + m ≤ lo) :
    wordField (placeField v lo) lo' m = 0#m := by
  apply BitVec.eq_of_getLsbD_eq
  intro i hi
  simp only [wordField, placeField, BitVec.getLsbD_extractLsb', BitVec.getLsbD_shiftLeft, BitVec.getLsbD_setWidth, BitVec.getLsbD_zero]
  rcases h with h | h
  · have : v.getLsbD (lo' + i - lo) = false := BitVec.getLsbD_of_ge _ _ (by omega)
    simp [this]
  · have : lo' + i < lo := by omega
    simp [this]

/-- A placed field lies outside a mask that is 0 there. -/
theorem place_mask {n : Nat} (v : BitVec n) (lo : Nat) (m : InstrWord) (h : m.extractLsb' lo n = 0#n) :
    placeField v lo &&& m = 0#32 := by
  apply BitVec.eq_of_getLsbD_eq
  intro i hi
  simp only [placeField, BitVec.getLsbD_and, BitVec.getLsbD_shiftLeft, BitVec.getLsbD_setWidth, BitVec.getLsbD_zero]
  by_cases h1 : i < lo
  · simp [h1]
  · by_cases h2 : i - lo < n
    · have hb := congrArg (fun x => BitVec.getLsbD x (i - lo)) h
      simp only [BitVec.getLsbD_extractLsb', h2, decide_true, Bool.true_and, BitVec.getLsbD_zero] at hb
      rw [show lo + (i - lo) = i by omega] at hb
      simp [hb]
    · have : v.getLsbD (i - lo) = false := BitVec.getLsbD_of_ge _ _ (by omega)
      simp [this]

/-- A constant that is 0 in a field leaves the field. -/
theorem field_const {n : Nat} {c : InstrWord} {lo : Nat} (h : wordField c lo n = 0#n) (v : BitVec n) : wordField c lo n ||| v = v := by
  rw [h]
  exact BitVec.zero_or

/-- A pattern that differs from a word in some bit does not match it. -/
theorem pattern_ne {w m p : InstrWord} (k : Nat) (h : wordField w k 1 &&& wordField m k 1 ≠ wordField p k 1) : w &&& m ≠ p := by
  intro hp
  apply h
  rw [← field_and, hp]

/-- The pattern that a word has. -/
theorem onPattern_pos {w m p : InstrWord} {i : Instr} {o : Except DecodeError Instr} (h : w &&& m = p) : onPattern w m p i o = .ok i :=
  if_pos h

/-- A pattern that a word does not have. -/
theorem onPattern_neg {w m p : InstrWord} {i : Instr} {o : Except DecodeError Instr} (h : w &&& m ≠ p) : onPattern w m p i o = o :=
  if_neg h

/-- The class of a word is its field 31:29. -/
theorem class_field (w : InstrWord) : wordClass w = wordField w 29 3 := rfl

/-- The op of a word is its field 28:23. -/
theorem op_field (w : InstrWord) : wordOp w = wordField w 23 6 := rfl

/-- A word of class 0. -/
theorem class0 {w : InstrWord} (h : wordClass w = 0#3) : decodeFields w = decodeClass0 w := by
  unfold decodeFields
  rw [h]
  rfl

/-- A word of class 1. -/
theorem class1 {w : InstrWord} (h : wordClass w = 1#3) : decodeFields w = decodeClass1 w := by
  unfold decodeFields
  rw [h]
  rfl

/-- A word of class 2. -/
theorem class2 {w : InstrWord} (h : wordClass w = 2#3) : decodeFields w = decodeClass2 w := by
  unfold decodeFields
  rw [h]
  rfl

/-- A word of class 3. -/
theorem class3 {w : InstrWord} (h : wordClass w = 3#3) : decodeFields w = decodeClass3 w := by
  unfold decodeFields
  rw [h]
  rfl

/-- A word of class 4. -/
theorem class4 {w : InstrWord} (h : wordClass w = 4#3) : decodeFields w = decodeClass4 w := by
  unfold decodeFields
  rw [h]
  rfl

/-- A word of class 5. -/
theorem class5 {w : InstrWord} (h : wordClass w = 5#3) : decodeFields w = decodeClass5 w := by
  unfold decodeFields
  rw [h]
  rfl

/-- A word of class 6. -/
theorem class6 {w : InstrWord} (h : wordClass w = 6#3) : decodeFields w = decodeClass6 w := by
  unfold decodeFields
  rw [h]
  rfl

/-- A word of class 7. -/
theorem class7 {w : InstrWord} (h : wordClass w = 7#3) : decodeFields w = decodeClass7 w := by
  unfold decodeFields
  rw [h]
  rfl

namespace Encoding

/-- The word of an instruction spells it: no field is dropped, moved or shared with another instruction. -/
def Statement (i : Instr) : Prop := ∀ w, encode i = some w → decodeFields w = .ok i

theorem add (d : Reg) (a : Reg) (b : Reg) : Statement (.add d a b) := by
  intro w h
  cases h
  rw [class0 (by simp (disch := decide) only [class_field, field_or, field_other]; decide)]
  unfold decodeClass0
  rw [show wordOp _ = 0#6 from by simp (disch := decide) only [op_field, field_or, field_other]; decide]
  exact (onPattern_pos (by simp (disch := decide) only [mask_or, place_mask]; decide)).trans (by simp (disch := decide) only [field_or, field_other, field_same, BitVec.or_zero, BitVec.zero_or])

theorem sub (d : Reg) (a : Reg) (b : Reg) : Statement (.sub d a b) := by
  intro w h
  cases h
  rw [class0 (by simp (disch := decide) only [class_field, field_or, field_other]; decide)]
  unfold decodeClass0
  rw [show wordOp _ = 1#6 from by simp (disch := decide) only [op_field, field_or, field_other]; decide]
  exact (onPattern_pos (by simp (disch := decide) only [mask_or, place_mask]; decide)).trans (by simp (disch := decide) only [field_or, field_other, field_same, field_const, BitVec.or_zero])

theorem and (d : Reg) (a : Reg) (b : Reg) : Statement (.and d a b) := by
  intro w h
  cases h
  rw [class0 (by simp (disch := decide) only [class_field, field_or, field_other]; decide)]
  unfold decodeClass0
  rw [show wordOp _ = 2#6 from by simp (disch := decide) only [op_field, field_or, field_other]; decide]
  exact (onPattern_pos (by simp (disch := decide) only [mask_or, place_mask]; decide)).trans (by simp (disch := decide) only [field_or, field_other, field_same, field_const, BitVec.or_zero])

theorem or (d : Reg) (a : Reg) (b : Reg) : Statement (.or d a b) := by
  intro w h
  cases h
  rw [class0 (by simp (disch := decide) only [class_field, field_or, field_other]; decide)]
  unfold decodeClass0
  rw [show wordOp _ = 3#6 from by simp (disch := decide) only [op_field, field_or, field_other]; decide]
  exact (onPattern_pos (by simp (disch := decide) only [mask_or, place_mask]; decide)).trans (by simp (disch := decide) only [field_or, field_other, field_same, field_const, BitVec.or_zero])

theorem xor (d : Reg) (a : Reg) (b : Reg) : Statement (.xor d a b) := by
  intro w h
  cases h
  rw [class0 (by simp (disch := decide) only [class_field, field_or, field_other]; decide)]
  unfold decodeClass0
  rw [show wordOp _ = 4#6 from by simp (disch := decide) only [op_field, field_or, field_other]; decide]
  exact (onPattern_pos (by simp (disch := decide) only [mask_or, place_mask]; decide)).trans (by simp (disch := decide) only [field_or, field_other, field_same, field_const, BitVec.or_zero])

theorem sll (d : Reg) (a : Reg) (b : Reg) : Statement (.sll d a b) := by
  intro w h
  cases h
  rw [class0 (by simp (disch := decide) only [class_field, field_or, field_other]; decide)]
  unfold decodeClass0
  rw [show wordOp _ = 5#6 from by simp (disch := decide) only [op_field, field_or, field_other]; decide]
  exact (onPattern_pos (by simp (disch := decide) only [mask_or, place_mask]; decide)).trans (by simp (disch := decide) only [field_or, field_other, field_same, field_const, BitVec.or_zero])

theorem srl (d : Reg) (a : Reg) (b : Reg) : Statement (.srl d a b) := by
  intro w h
  cases h
  rw [class0 (by simp (disch := decide) only [class_field, field_or, field_other]; decide)]
  unfold decodeClass0
  rw [show wordOp _ = 6#6 from by simp (disch := decide) only [op_field, field_or, field_other]; decide]
  exact (onPattern_pos (by simp (disch := decide) only [mask_or, place_mask]; decide)).trans (by simp (disch := decide) only [field_or, field_other, field_same, field_const, BitVec.or_zero])

theorem sra (d : Reg) (a : Reg) (b : Reg) : Statement (.sra d a b) := by
  intro w h
  cases h
  rw [class0 (by simp (disch := decide) only [class_field, field_or, field_other]; decide)]
  unfold decodeClass0
  rw [show wordOp _ = 7#6 from by simp (disch := decide) only [op_field, field_or, field_other]; decide]
  exact (onPattern_pos (by simp (disch := decide) only [mask_or, place_mask]; decide)).trans (by simp (disch := decide) only [field_or, field_other, field_same, field_const, BitVec.or_zero])

theorem slt (d : Reg) (a : Reg) (b : Reg) : Statement (.slt d a b) := by
  intro w h
  cases h
  rw [class0 (by simp (disch := decide) only [class_field, field_or, field_other]; decide)]
  unfold decodeClass0
  rw [show wordOp _ = 8#6 from by simp (disch := decide) only [op_field, field_or, field_other]; decide]
  exact (onPattern_pos (by simp (disch := decide) only [mask_or, place_mask]; decide)).trans (by simp (disch := decide) only [field_or, field_other, field_same, field_const, BitVec.or_zero])

theorem sltu (d : Reg) (a : Reg) (b : Reg) : Statement (.sltu d a b) := by
  intro w h
  cases h
  rw [class0 (by simp (disch := decide) only [class_field, field_or, field_other]; decide)]
  unfold decodeClass0
  rw [show wordOp _ = 9#6 from by simp (disch := decide) only [op_field, field_or, field_other]; decide]
  exact (onPattern_pos (by simp (disch := decide) only [mask_or, place_mask]; decide)).trans (by simp (disch := decide) only [field_or, field_other, field_same, field_const, BitVec.or_zero])

theorem min (d : Reg) (a : Reg) (b : Reg) : Statement (.min d a b) := by
  intro w h
  cases h
  rw [class0 (by simp (disch := decide) only [class_field, field_or, field_other]; decide)]
  unfold decodeClass0
  rw [show wordOp _ = 10#6 from by simp (disch := decide) only [op_field, field_or, field_other]; decide]
  exact (onPattern_pos (by simp (disch := decide) only [mask_or, place_mask]; decide)).trans (by simp (disch := decide) only [field_or, field_other, field_same, field_const, BitVec.or_zero])

theorem max (d : Reg) (a : Reg) (b : Reg) : Statement (.max d a b) := by
  intro w h
  cases h
  rw [class0 (by simp (disch := decide) only [class_field, field_or, field_other]; decide)]
  unfold decodeClass0
  rw [show wordOp _ = 11#6 from by simp (disch := decide) only [op_field, field_or, field_other]; decide]
  exact (onPattern_pos (by simp (disch := decide) only [mask_or, place_mask]; decide)).trans (by simp (disch := decide) only [field_or, field_other, field_same, field_const, BitVec.or_zero])

theorem minu (d : Reg) (a : Reg) (b : Reg) : Statement (.minu d a b) := by
  intro w h
  cases h
  rw [class0 (by simp (disch := decide) only [class_field, field_or, field_other]; decide)]
  unfold decodeClass0
  rw [show wordOp _ = 12#6 from by simp (disch := decide) only [op_field, field_or, field_other]; decide]
  exact (onPattern_pos (by simp (disch := decide) only [mask_or, place_mask]; decide)).trans (by simp (disch := decide) only [field_or, field_other, field_same, field_const, BitVec.or_zero])

theorem maxu (d : Reg) (a : Reg) (b : Reg) : Statement (.maxu d a b) := by
  intro w h
  cases h
  rw [class0 (by simp (disch := decide) only [class_field, field_or, field_other]; decide)]
  unfold decodeClass0
  rw [show wordOp _ = 13#6 from by simp (disch := decide) only [op_field, field_or, field_other]; decide]
  exact (onPattern_pos (by simp (disch := decide) only [mask_or, place_mask]; decide)).trans (by simp (disch := decide) only [field_or, field_other, field_same, field_const, BitVec.or_zero])

theorem mul (d : Reg) (a : Reg) (b : Reg) : Statement (.mul d a b) := by
  intro w h
  cases h
  rw [class0 (by simp (disch := decide) only [class_field, field_or, field_other]; decide)]
  unfold decodeClass0
  rw [show wordOp _ = 14#6 from by simp (disch := decide) only [op_field, field_or, field_other]; decide]
  exact (onPattern_pos (by simp (disch := decide) only [mask_or, place_mask]; decide)).trans (by simp (disch := decide) only [field_or, field_other, field_same, field_const, BitVec.or_zero])

theorem mulh (d : Reg) (a : Reg) (b : Reg) : Statement (.mulh d a b) := by
  intro w h
  cases h
  rw [class0 (by simp (disch := decide) only [class_field, field_or, field_other]; decide)]
  unfold decodeClass0
  rw [show wordOp _ = 15#6 from by simp (disch := decide) only [op_field, field_or, field_other]; decide]
  exact (onPattern_pos (by simp (disch := decide) only [mask_or, place_mask]; decide)).trans (by simp (disch := decide) only [field_or, field_other, field_same, field_const, BitVec.or_zero])

theorem mulhu (d : Reg) (a : Reg) (b : Reg) : Statement (.mulhu d a b) := by
  intro w h
  cases h
  rw [class0 (by simp (disch := decide) only [class_field, field_or, field_other]; decide)]
  unfold decodeClass0
  rw [show wordOp _ = 16#6 from by simp (disch := decide) only [op_field, field_or, field_other]; decide]
  exact (onPattern_pos (by simp (disch := decide) only [mask_or, place_mask]; decide)).trans (by simp (disch := decide) only [field_or, field_other, field_same, field_const, BitVec.or_zero])

theorem div (d : Reg) (a : Reg) (b : Reg) : Statement (.div d a b) := by
  intro w h
  cases h
  rw [class0 (by simp (disch := decide) only [class_field, field_or, field_other]; decide)]
  unfold decodeClass0
  rw [show wordOp _ = 17#6 from by simp (disch := decide) only [op_field, field_or, field_other]; decide]
  exact (onPattern_pos (by simp (disch := decide) only [mask_or, place_mask]; decide)).trans (by simp (disch := decide) only [field_or, field_other, field_same, field_const, BitVec.or_zero])

theorem divu (d : Reg) (a : Reg) (b : Reg) : Statement (.divu d a b) := by
  intro w h
  cases h
  rw [class0 (by simp (disch := decide) only [class_field, field_or, field_other]; decide)]
  unfold decodeClass0
  rw [show wordOp _ = 18#6 from by simp (disch := decide) only [op_field, field_or, field_other]; decide]
  exact (onPattern_pos (by simp (disch := decide) only [mask_or, place_mask]; decide)).trans (by simp (disch := decide) only [field_or, field_other, field_same, field_const, BitVec.or_zero])

theorem rem (d : Reg) (a : Reg) (b : Reg) : Statement (.rem d a b) := by
  intro w h
  cases h
  rw [class0 (by simp (disch := decide) only [class_field, field_or, field_other]; decide)]
  unfold decodeClass0
  rw [show wordOp _ = 19#6 from by simp (disch := decide) only [op_field, field_or, field_other]; decide]
  exact (onPattern_pos (by simp (disch := decide) only [mask_or, place_mask]; decide)).trans (by simp (disch := decide) only [field_or, field_other, field_same, field_const, BitVec.or_zero])

theorem remu (d : Reg) (a : Reg) (b : Reg) : Statement (.remu d a b) := by
  intro w h
  cases h
  rw [class0 (by simp (disch := decide) only [class_field, field_or, field_other]; decide)]
  unfold decodeClass0
  rw [show wordOp _ = 20#6 from by simp (disch := decide) only [op_field, field_or, field_other]; decide]
  exact (onPattern_pos (by simp (disch := decide) only [mask_or, place_mask]; decide)).trans (by simp (disch := decide) only [field_or, field_other, field_same, field_const, BitVec.or_zero])

theorem bitClz (d : Reg) (a : Reg) : Statement (.bitClz d a) := by
  intro w h
  cases h
  rw [class0 (by simp (disch := decide) only [class_field, field_or, field_other]; decide)]
  unfold decodeClass0
  rw [show wordOp _ = 21#6 from by simp (disch := decide) only [op_field, field_or, field_other]; decide]
  exact (onPattern_pos (by simp (disch := decide) only [mask_or, place_mask]; decide)).trans (by simp (disch := decide) only [field_or, field_other, field_same, field_const, BitVec.or_zero])

theorem bitCtz (d : Reg) (a : Reg) : Statement (.bitCtz d a) := by
  intro w h
  cases h
  rw [class0 (by simp (disch := decide) only [class_field, field_or, field_other]; decide)]
  unfold decodeClass0
  rw [show wordOp _ = 21#6 from by simp (disch := decide) only [op_field, field_or, field_other]; decide]
  exact (onPattern_neg (pattern_ne 0 (by simp (disch := decide) only [field_or, field_other]; decide))).trans ((onPattern_pos (by simp (disch := decide) only [mask_or, place_mask]; decide)).trans (by simp (disch := decide) only [field_or, field_other, field_same, field_const, BitVec.or_zero]))

theorem bitPopc (d : Reg) (a : Reg) : Statement (.bitPopc d a) := by
  intro w h
  cases h
  rw [class0 (by simp (disch := decide) only [class_field, field_or, field_other]; decide)]
  unfold decodeClass0
  rw [show wordOp _ = 21#6 from by simp (disch := decide) only [op_field, field_or, field_other]; decide]
  exact (onPattern_neg (pattern_ne 1 (by simp (disch := decide) only [field_or, field_other]; decide))).trans ((onPattern_neg (pattern_ne 0 (by simp (disch := decide) only [field_or, field_other]; decide))).trans ((onPattern_pos (by simp (disch := decide) only [mask_or, place_mask]; decide)).trans (by simp (disch := decide) only [field_or, field_other, field_same, field_const, BitVec.or_zero])))

theorem bitBrev (d : Reg) (a : Reg) : Statement (.bitBrev d a) := by
  intro w h
  cases h
  rw [class0 (by simp (disch := decide) only [class_field, field_or, field_other]; decide)]
  unfold decodeClass0
  rw [show wordOp _ = 21#6 from by simp (disch := decide) only [op_field, field_or, field_other]; decide]
  exact (onPattern_neg (pattern_ne 0 (by simp (disch := decide) only [field_or, field_other]; decide))).trans ((onPattern_neg (pattern_ne 1 (by simp (disch := decide) only [field_or, field_other]; decide))).trans ((onPattern_neg (pattern_ne 0 (by simp (disch := decide) only [field_or, field_other]; decide))).trans ((onPattern_pos (by simp (disch := decide) only [mask_or, place_mask]; decide)).trans (by simp (disch := decide) only [field_or, field_other, field_same, field_const, BitVec.or_zero]))))

theorem addi (d : Reg) (a : Reg) (i : BitVec 13) : Statement (.addi d a i) := by
  intro w h
  cases h
  rw [class0 (by simp (disch := decide) only [class_field, field_or, field_other]; decide)]
  unfold decodeClass0
  rw [show wordOp _ = 24#6 from by simp (disch := decide) only [op_field, field_or, field_other]; decide]
  exact (onPattern_pos (by simp (disch := decide) only [mask_or, place_mask]; decide)).trans (by simp (disch := decide) only [field_or, field_other, field_same, field_const, BitVec.or_zero])

theorem andi (d : Reg) (a : Reg) (i : BitVec 13) : Statement (.andi d a i) := by
  intro w h
  cases h
  rw [class0 (by simp (disch := decide) only [class_field, field_or, field_other]; decide)]
  unfold decodeClass0
  rw [show wordOp _ = 25#6 from by simp (disch := decide) only [op_field, field_or, field_other]; decide]
  exact (onPattern_pos (by simp (disch := decide) only [mask_or, place_mask]; decide)).trans (by simp (disch := decide) only [field_or, field_other, field_same, field_const, BitVec.or_zero])

theorem ori (d : Reg) (a : Reg) (i : BitVec 13) : Statement (.ori d a i) := by
  intro w h
  cases h
  rw [class0 (by simp (disch := decide) only [class_field, field_or, field_other]; decide)]
  unfold decodeClass0
  rw [show wordOp _ = 26#6 from by simp (disch := decide) only [op_field, field_or, field_other]; decide]
  exact (onPattern_pos (by simp (disch := decide) only [mask_or, place_mask]; decide)).trans (by simp (disch := decide) only [field_or, field_other, field_same, field_const, BitVec.or_zero])

theorem xori (d : Reg) (a : Reg) (i : BitVec 13) : Statement (.xori d a i) := by
  intro w h
  cases h
  rw [class0 (by simp (disch := decide) only [class_field, field_or, field_other]; decide)]
  unfold decodeClass0
  rw [show wordOp _ = 27#6 from by simp (disch := decide) only [op_field, field_or, field_other]; decide]
  exact (onPattern_pos (by simp (disch := decide) only [mask_or, place_mask]; decide)).trans (by simp (disch := decide) only [field_or, field_other, field_same, field_const, BitVec.or_zero])

theorem slli (d : Reg) (a : Reg) (i : BitVec 6) : Statement (.slli d a i) := by
  intro w h
  cases h
  rw [class0 (by simp (disch := decide) only [class_field, field_or, field_other]; decide)]
  unfold decodeClass0
  rw [show wordOp _ = 28#6 from by simp (disch := decide) only [op_field, field_or, field_other]; decide]
  exact (onPattern_pos (by simp (disch := decide) only [mask_or, place_mask]; decide)).trans (by simp (disch := decide) only [field_or, field_other, field_same, field_const, BitVec.or_zero])

theorem srli (d : Reg) (a : Reg) (i : BitVec 6) : Statement (.srli d a i) := by
  intro w h
  cases h
  rw [class0 (by simp (disch := decide) only [class_field, field_or, field_other]; decide)]
  unfold decodeClass0
  rw [show wordOp _ = 29#6 from by simp (disch := decide) only [op_field, field_or, field_other]; decide]
  exact (onPattern_pos (by simp (disch := decide) only [mask_or, place_mask]; decide)).trans (by simp (disch := decide) only [field_or, field_other, field_same, field_const, BitVec.or_zero])

theorem srai (d : Reg) (a : Reg) (i : BitVec 6) : Statement (.srai d a i) := by
  intro w h
  cases h
  rw [class0 (by simp (disch := decide) only [class_field, field_or, field_other]; decide)]
  unfold decodeClass0
  rw [show wordOp _ = 30#6 from by simp (disch := decide) only [op_field, field_or, field_other]; decide]
  exact (onPattern_pos (by simp (disch := decide) only [mask_or, place_mask]; decide)).trans (by simp (disch := decide) only [field_or, field_other, field_same, field_const, BitVec.or_zero])

theorem slti (d : Reg) (a : Reg) (i : BitVec 13) : Statement (.slti d a i) := by
  intro w h
  cases h
  rw [class0 (by simp (disch := decide) only [class_field, field_or, field_other]; decide)]
  unfold decodeClass0
  rw [show wordOp _ = 31#6 from by simp (disch := decide) only [op_field, field_or, field_other]; decide]
  exact (onPattern_pos (by simp (disch := decide) only [mask_or, place_mask]; decide)).trans (by simp (disch := decide) only [field_or, field_other, field_same, field_const, BitVec.or_zero])

theorem sltiu (d : Reg) (a : Reg) (i : BitVec 13) : Statement (.sltiu d a i) := by
  intro w h
  cases h
  rw [class0 (by simp (disch := decide) only [class_field, field_or, field_other]; decide)]
  unfold decodeClass0
  rw [show wordOp _ = 32#6 from by simp (disch := decide) only [op_field, field_or, field_other]; decide]
  exact (onPattern_pos (by simp (disch := decide) only [mask_or, place_mask]; decide)).trans (by simp (disch := decide) only [field_or, field_other, field_same, field_const, BitVec.or_zero])

theorem lui (d : Reg) (i : BitVec 18) : Statement (.lui d i) := by
  intro w h
  cases h
  rw [class0 (by simp (disch := decide) only [class_field, field_or, field_other]; decide)]
  unfold decodeClass0
  rw [show wordOp _ = 33#6 from by simp (disch := decide) only [op_field, field_or, field_other]; decide]
  exact (onPattern_pos (by simp (disch := decide) only [mask_or, place_mask]; decide)).trans (by simp (disch := decide) only [field_or, field_other, field_same, field_const, BitVec.or_zero])

theorem auipc (d : Reg) (i : BitVec 18) : Statement (.auipc d i) := by
  intro w h
  cases h
  rw [class0 (by simp (disch := decide) only [class_field, field_or, field_other]; decide)]
  unfold decodeClass0
  rw [show wordOp _ = 34#6 from by simp (disch := decide) only [op_field, field_or, field_other]; decide]
  exact (onPattern_pos (by simp (disch := decide) only [mask_or, place_mask]; decide)).trans (by simp (disch := decide) only [field_or, field_other, field_same, field_const, BitVec.or_zero])

theorem shor (d : Reg) (i : BitVec 18) : Statement (.shor d i) := by
  intro w h
  cases h
  rw [class0 (by simp (disch := decide) only [class_field, field_or, field_other]; decide)]
  unfold decodeClass0
  rw [show wordOp _ = 35#6 from by simp (disch := decide) only [op_field, field_or, field_other]; decide]
  exact (onPattern_pos (by simp (disch := decide) only [mask_or, place_mask]; decide)).trans (by simp (disch := decide) only [field_or, field_other, field_same, field_const, BitVec.or_zero])

theorem fadd (d : Reg) (a : Reg) (b : Reg) : Statement (.fadd d a b) := by
  intro w h
  cases h
  rw [class0 (by simp (disch := decide) only [class_field, field_or, field_other]; decide)]
  unfold decodeClass0
  rw [show wordOp _ = 40#6 from by simp (disch := decide) only [op_field, field_or, field_other]; decide]
  exact (onPattern_pos (by simp (disch := decide) only [mask_or, place_mask]; decide)).trans (by simp (disch := decide) only [field_or, field_other, field_same, field_const, BitVec.or_zero])

theorem fsub (d : Reg) (a : Reg) (b : Reg) : Statement (.fsub d a b) := by
  intro w h
  cases h
  rw [class0 (by simp (disch := decide) only [class_field, field_or, field_other]; decide)]
  unfold decodeClass0
  rw [show wordOp _ = 41#6 from by simp (disch := decide) only [op_field, field_or, field_other]; decide]
  exact (onPattern_pos (by simp (disch := decide) only [mask_or, place_mask]; decide)).trans (by simp (disch := decide) only [field_or, field_other, field_same, field_const, BitVec.or_zero])

theorem fmul (d : Reg) (a : Reg) (b : Reg) : Statement (.fmul d a b) := by
  intro w h
  cases h
  rw [class0 (by simp (disch := decide) only [class_field, field_or, field_other]; decide)]
  unfold decodeClass0
  rw [show wordOp _ = 42#6 from by simp (disch := decide) only [op_field, field_or, field_other]; decide]
  exact (onPattern_pos (by simp (disch := decide) only [mask_or, place_mask]; decide)).trans (by simp (disch := decide) only [field_or, field_other, field_same, field_const, BitVec.or_zero])

theorem fdiv (d : Reg) (a : Reg) (b : Reg) : Statement (.fdiv d a b) := by
  intro w h
  cases h
  rw [class0 (by simp (disch := decide) only [class_field, field_or, field_other]; decide)]
  unfold decodeClass0
  rw [show wordOp _ = 43#6 from by simp (disch := decide) only [op_field, field_or, field_other]; decide]
  exact (onPattern_pos (by simp (disch := decide) only [mask_or, place_mask]; decide)).trans (by simp (disch := decide) only [field_or, field_other, field_same, field_const, BitVec.or_zero])

theorem fma (d : Reg) (a : Reg) (b : Reg) : Statement (.fma d a b) := by
  intro w h
  cases h
  rw [class0 (by simp (disch := decide) only [class_field, field_or, field_other]; decide)]
  unfold decodeClass0
  rw [show wordOp _ = 44#6 from by simp (disch := decide) only [op_field, field_or, field_other]; decide]
  exact (onPattern_pos (by simp (disch := decide) only [mask_or, place_mask]; decide)).trans (by simp (disch := decide) only [field_or, field_other, field_same, field_const, BitVec.or_zero])

theorem fsqrt (d : Reg) (a : Reg) : Statement (.fsqrt d a) := by
  intro w h
  cases h
  rw [class0 (by simp (disch := decide) only [class_field, field_or, field_other]; decide)]
  unfold decodeClass0
  rw [show wordOp _ = 45#6 from by simp (disch := decide) only [op_field, field_or, field_other]; decide]
  exact (onPattern_pos (by simp (disch := decide) only [mask_or, place_mask]; decide)).trans (by simp (disch := decide) only [field_or, field_other, field_same, field_const, BitVec.or_zero])

theorem fmin (d : Reg) (a : Reg) (b : Reg) : Statement (.fmin d a b) := by
  intro w h
  cases h
  rw [class0 (by simp (disch := decide) only [class_field, field_or, field_other]; decide)]
  unfold decodeClass0
  rw [show wordOp _ = 46#6 from by simp (disch := decide) only [op_field, field_or, field_other]; decide]
  exact (onPattern_pos (by simp (disch := decide) only [mask_or, place_mask]; decide)).trans (by simp (disch := decide) only [field_or, field_other, field_same, field_const, BitVec.or_zero])

theorem fmax (d : Reg) (a : Reg) (b : Reg) : Statement (.fmax d a b) := by
  intro w h
  cases h
  rw [class0 (by simp (disch := decide) only [class_field, field_or, field_other]; decide)]
  unfold decodeClass0
  rw [show wordOp _ = 47#6 from by simp (disch := decide) only [op_field, field_or, field_other]; decide]
  exact (onPattern_pos (by simp (disch := decide) only [mask_or, place_mask]; decide)).trans (by simp (disch := decide) only [field_or, field_other, field_same, field_const, BitVec.or_zero])

theorem fcmpEq (d : Reg) (a : Reg) (b : Reg) : Statement (.fcmpEq d a b) := by
  intro w h
  cases h
  rw [class0 (by simp (disch := decide) only [class_field, field_or, field_other]; decide)]
  unfold decodeClass0
  rw [show wordOp _ = 48#6 from by simp (disch := decide) only [op_field, field_or, field_other]; decide]
  exact (onPattern_pos (by simp (disch := decide) only [mask_or, place_mask]; decide)).trans (by simp (disch := decide) only [field_or, field_other, field_same, field_const, BitVec.or_zero])

theorem fcmpLt (d : Reg) (a : Reg) (b : Reg) : Statement (.fcmpLt d a b) := by
  intro w h
  cases h
  rw [class0 (by simp (disch := decide) only [class_field, field_or, field_other]; decide)]
  unfold decodeClass0
  rw [show wordOp _ = 48#6 from by simp (disch := decide) only [op_field, field_or, field_other]; decide]
  exact (onPattern_neg (pattern_ne 0 (by simp (disch := decide) only [field_or, field_other]; decide))).trans ((onPattern_pos (by simp (disch := decide) only [mask_or, place_mask]; decide)).trans (by simp (disch := decide) only [field_or, field_other, field_same, field_const, BitVec.or_zero]))

theorem fcmpLe (d : Reg) (a : Reg) (b : Reg) : Statement (.fcmpLe d a b) := by
  intro w h
  cases h
  rw [class0 (by simp (disch := decide) only [class_field, field_or, field_other]; decide)]
  unfold decodeClass0
  rw [show wordOp _ = 48#6 from by simp (disch := decide) only [op_field, field_or, field_other]; decide]
  exact (onPattern_neg (pattern_ne 1 (by simp (disch := decide) only [field_or, field_other]; decide))).trans ((onPattern_neg (pattern_ne 0 (by simp (disch := decide) only [field_or, field_other]; decide))).trans ((onPattern_pos (by simp (disch := decide) only [mask_or, place_mask]; decide)).trans (by simp (disch := decide) only [field_or, field_other, field_same, field_const, BitVec.or_zero])))

theorem fcvtI64f (d : Reg) (a : Reg) : Statement (.fcvtI64f d a) := by
  intro w h
  cases h
  rw [class0 (by simp (disch := decide) only [class_field, field_or, field_other]; decide)]
  unfold decodeClass0
  rw [show wordOp _ = 49#6 from by simp (disch := decide) only [op_field, field_or, field_other]; decide]
  exact (onPattern_pos (by simp (disch := decide) only [mask_or, place_mask]; decide)).trans (by simp (disch := decide) only [field_or, field_other, field_same, field_const, BitVec.or_zero])

theorem fcvtFi64 (d : Reg) (a : Reg) : Statement (.fcvtFi64 d a) := by
  intro w h
  cases h
  rw [class0 (by simp (disch := decide) only [class_field, field_or, field_other]; decide)]
  unfold decodeClass0
  rw [show wordOp _ = 49#6 from by simp (disch := decide) only [op_field, field_or, field_other]; decide]
  exact (onPattern_neg (pattern_ne 0 (by simp (disch := decide) only [field_or, field_other]; decide))).trans ((onPattern_pos (by simp (disch := decide) only [mask_or, place_mask]; decide)).trans (by simp (disch := decide) only [field_or, field_other, field_same, field_const, BitVec.or_zero]))

theorem fcvtF16f (d : Reg) (a : Reg) : Statement (.fcvtF16f d a) := by
  intro w h
  cases h
  rw [class0 (by simp (disch := decide) only [class_field, field_or, field_other]; decide)]
  unfold decodeClass0
  rw [show wordOp _ = 49#6 from by simp (disch := decide) only [op_field, field_or, field_other]; decide]
  exact (onPattern_neg (pattern_ne 1 (by simp (disch := decide) only [field_or, field_other]; decide))).trans ((onPattern_neg (pattern_ne 0 (by simp (disch := decide) only [field_or, field_other]; decide))).trans ((onPattern_pos (by simp (disch := decide) only [mask_or, place_mask]; decide)).trans (by simp (disch := decide) only [field_or, field_other, field_same, field_const, BitVec.or_zero])))

theorem fcvtFf16 (d : Reg) (a : Reg) : Statement (.fcvtFf16 d a) := by
  intro w h
  cases h
  rw [class0 (by simp (disch := decide) only [class_field, field_or, field_other]; decide)]
  unfold decodeClass0
  rw [show wordOp _ = 49#6 from by simp (disch := decide) only [op_field, field_or, field_other]; decide]
  exact (onPattern_neg (pattern_ne 0 (by simp (disch := decide) only [field_or, field_other]; decide))).trans ((onPattern_neg (pattern_ne 1 (by simp (disch := decide) only [field_or, field_other]; decide))).trans ((onPattern_neg (pattern_ne 0 (by simp (disch := decide) only [field_or, field_other]; decide))).trans ((onPattern_pos (by simp (disch := decide) only [mask_or, place_mask]; decide)).trans (by simp (disch := decide) only [field_or, field_other, field_same, field_const, BitVec.or_zero]))))

theorem fcvtB16f (d : Reg) (a : Reg) : Statement (.fcvtB16f d a) := by
  intro w h
  cases h
  rw [class0 (by simp (disch := decide) only [class_field, field_or, field_other]; decide)]
  unfold decodeClass0
  rw [show wordOp _ = 49#6 from by simp (disch := decide) only [op_field, field_or, field_other]; decide]
  exact (onPattern_neg (pattern_ne 2 (by simp (disch := decide) only [field_or, field_other]; decide))).trans ((onPattern_neg (pattern_ne 0 (by simp (disch := decide) only [field_or, field_other]; decide))).trans ((onPattern_neg (pattern_ne 1 (by simp (disch := decide) only [field_or, field_other]; decide))).trans ((onPattern_neg (pattern_ne 0 (by simp (disch := decide) only [field_or, field_other]; decide))).trans ((onPattern_pos (by simp (disch := decide) only [mask_or, place_mask]; decide)).trans (by simp (disch := decide) only [field_or, field_other, field_same, field_const, BitVec.or_zero])))))

theorem fcvtFb16 (d : Reg) (a : Reg) : Statement (.fcvtFb16 d a) := by
  intro w h
  cases h
  rw [class0 (by simp (disch := decide) only [class_field, field_or, field_other]; decide)]
  unfold decodeClass0
  rw [show wordOp _ = 49#6 from by simp (disch := decide) only [op_field, field_or, field_other]; decide]
  exact (onPattern_neg (pattern_ne 0 (by simp (disch := decide) only [field_or, field_other]; decide))).trans ((onPattern_neg (pattern_ne 2 (by simp (disch := decide) only [field_or, field_other]; decide))).trans ((onPattern_neg (pattern_ne 0 (by simp (disch := decide) only [field_or, field_other]; decide))).trans ((onPattern_neg (pattern_ne 1 (by simp (disch := decide) only [field_or, field_other]; decide))).trans ((onPattern_neg (pattern_ne 0 (by simp (disch := decide) only [field_or, field_other]; decide))).trans ((onPattern_pos (by simp (disch := decide) only [mask_or, place_mask]; decide)).trans (by simp (disch := decide) only [field_or, field_other, field_same, field_const, BitVec.or_zero]))))))

theorem fcvtS20f (d : Reg) (a : Reg) : Statement (.fcvtS20f d a) := by
  intro w h
  cases h
  rw [class0 (by simp (disch := decide) only [class_field, field_or, field_other]; decide)]
  unfold decodeClass0
  rw [show wordOp _ = 49#6 from by simp (disch := decide) only [op_field, field_or, field_other]; decide]
  exact (onPattern_neg (pattern_ne 1 (by simp (disch := decide) only [field_or, field_other]; decide))).trans ((onPattern_neg (pattern_ne 0 (by simp (disch := decide) only [field_or, field_other]; decide))).trans ((onPattern_neg (pattern_ne 2 (by simp (disch := decide) only [field_or, field_other]; decide))).trans ((onPattern_neg (pattern_ne 0 (by simp (disch := decide) only [field_or, field_other]; decide))).trans ((onPattern_neg (pattern_ne 1 (by simp (disch := decide) only [field_or, field_other]; decide))).trans ((onPattern_neg (pattern_ne 0 (by simp (disch := decide) only [field_or, field_other]; decide))).trans ((onPattern_pos (by simp (disch := decide) only [mask_or, place_mask]; decide)).trans (by simp (disch := decide) only [field_or, field_other, field_same, field_const, BitVec.or_zero])))))))

theorem fcvtFs20 (d : Reg) (a : Reg) : Statement (.fcvtFs20 d a) := by
  intro w h
  cases h
  rw [class0 (by simp (disch := decide) only [class_field, field_or, field_other]; decide)]
  unfold decodeClass0
  rw [show wordOp _ = 49#6 from by simp (disch := decide) only [op_field, field_or, field_other]; decide]
  exact (onPattern_neg (pattern_ne 0 (by simp (disch := decide) only [field_or, field_other]; decide))).trans ((onPattern_neg (pattern_ne 1 (by simp (disch := decide) only [field_or, field_other]; decide))).trans ((onPattern_neg (pattern_ne 0 (by simp (disch := decide) only [field_or, field_other]; decide))).trans ((onPattern_neg (pattern_ne 2 (by simp (disch := decide) only [field_or, field_other]; decide))).trans ((onPattern_neg (pattern_ne 0 (by simp (disch := decide) only [field_or, field_other]; decide))).trans ((onPattern_neg (pattern_ne 1 (by simp (disch := decide) only [field_or, field_other]; decide))).trans ((onPattern_neg (pattern_ne 0 (by simp (disch := decide) only [field_or, field_other]; decide))).trans ((onPattern_pos (by simp (disch := decide) only [mask_or, place_mask]; decide)).trans (by simp (disch := decide) only [field_or, field_other, field_same, field_const, BitVec.or_zero]))))))))

theorem lb (d : Reg) (a : Reg) (i : BitVec 13) : Statement (.lb d a i) := by
  intro w h
  cases h
  rw [class1 (by simp (disch := decide) only [class_field, field_or, field_other]; decide)]
  unfold decodeClass1
  rw [show wordOp _ = 0#6 from by simp (disch := decide) only [op_field, field_or, field_other]; decide]
  exact (onPattern_pos (by simp (disch := decide) only [mask_or, place_mask]; decide)).trans (by simp (disch := decide) only [field_or, field_other, field_same, field_const, BitVec.or_zero])

theorem lbu (d : Reg) (a : Reg) (i : BitVec 13) : Statement (.lbu d a i) := by
  intro w h
  cases h
  rw [class1 (by simp (disch := decide) only [class_field, field_or, field_other]; decide)]
  unfold decodeClass1
  rw [show wordOp _ = 1#6 from by simp (disch := decide) only [op_field, field_or, field_other]; decide]
  exact (onPattern_pos (by simp (disch := decide) only [mask_or, place_mask]; decide)).trans (by simp (disch := decide) only [field_or, field_other, field_same, field_const, BitVec.or_zero])

theorem lh (d : Reg) (a : Reg) (i : BitVec 13) : Statement (.lh d a i) := by
  intro w h
  cases h
  rw [class1 (by simp (disch := decide) only [class_field, field_or, field_other]; decide)]
  unfold decodeClass1
  rw [show wordOp _ = 2#6 from by simp (disch := decide) only [op_field, field_or, field_other]; decide]
  exact (onPattern_pos (by simp (disch := decide) only [mask_or, place_mask]; decide)).trans (by simp (disch := decide) only [field_or, field_other, field_same, field_const, BitVec.or_zero])

theorem lhu (d : Reg) (a : Reg) (i : BitVec 13) : Statement (.lhu d a i) := by
  intro w h
  cases h
  rw [class1 (by simp (disch := decide) only [class_field, field_or, field_other]; decide)]
  unfold decodeClass1
  rw [show wordOp _ = 3#6 from by simp (disch := decide) only [op_field, field_or, field_other]; decide]
  exact (onPattern_pos (by simp (disch := decide) only [mask_or, place_mask]; decide)).trans (by simp (disch := decide) only [field_or, field_other, field_same, field_const, BitVec.or_zero])

theorem lw (d : Reg) (a : Reg) (i : BitVec 13) : Statement (.lw d a i) := by
  intro w h
  cases h
  rw [class1 (by simp (disch := decide) only [class_field, field_or, field_other]; decide)]
  unfold decodeClass1
  rw [show wordOp _ = 4#6 from by simp (disch := decide) only [op_field, field_or, field_other]; decide]
  exact (onPattern_pos (by simp (disch := decide) only [mask_or, place_mask]; decide)).trans (by simp (disch := decide) only [field_or, field_other, field_same, field_const, BitVec.or_zero])

theorem lwu (d : Reg) (a : Reg) (i : BitVec 13) : Statement (.lwu d a i) := by
  intro w h
  cases h
  rw [class1 (by simp (disch := decide) only [class_field, field_or, field_other]; decide)]
  unfold decodeClass1
  rw [show wordOp _ = 5#6 from by simp (disch := decide) only [op_field, field_or, field_other]; decide]
  exact (onPattern_pos (by simp (disch := decide) only [mask_or, place_mask]; decide)).trans (by simp (disch := decide) only [field_or, field_other, field_same, field_const, BitVec.or_zero])

theorem ld (d : Reg) (a : Reg) (i : BitVec 13) : Statement (.ld d a i) := by
  intro w h
  cases h
  rw [class1 (by simp (disch := decide) only [class_field, field_or, field_other]; decide)]
  unfold decodeClass1
  rw [show wordOp _ = 6#6 from by simp (disch := decide) only [op_field, field_or, field_other]; decide]
  exact (onPattern_pos (by simp (disch := decide) only [mask_or, place_mask]; decide)).trans (by simp (disch := decide) only [field_or, field_other, field_same, field_const, BitVec.or_zero])

theorem sb (d : Reg) (a : Reg) (i : BitVec 13) : Statement (.sb d a i) := by
  intro w h
  cases h
  rw [class1 (by simp (disch := decide) only [class_field, field_or, field_other]; decide)]
  unfold decodeClass1
  rw [show wordOp _ = 8#6 from by simp (disch := decide) only [op_field, field_or, field_other]; decide]
  exact (onPattern_pos (by simp (disch := decide) only [mask_or, place_mask]; decide)).trans (by simp (disch := decide) only [field_or, field_other, field_same, field_const, BitVec.or_zero])

theorem sh (d : Reg) (a : Reg) (i : BitVec 13) : Statement (.sh d a i) := by
  intro w h
  cases h
  rw [class1 (by simp (disch := decide) only [class_field, field_or, field_other]; decide)]
  unfold decodeClass1
  rw [show wordOp _ = 9#6 from by simp (disch := decide) only [op_field, field_or, field_other]; decide]
  exact (onPattern_pos (by simp (disch := decide) only [mask_or, place_mask]; decide)).trans (by simp (disch := decide) only [field_or, field_other, field_same, field_const, BitVec.or_zero])

theorem sw (d : Reg) (a : Reg) (i : BitVec 13) : Statement (.sw d a i) := by
  intro w h
  cases h
  rw [class1 (by simp (disch := decide) only [class_field, field_or, field_other]; decide)]
  unfold decodeClass1
  rw [show wordOp _ = 10#6 from by simp (disch := decide) only [op_field, field_or, field_other]; decide]
  exact (onPattern_pos (by simp (disch := decide) only [mask_or, place_mask]; decide)).trans (by simp (disch := decide) only [field_or, field_other, field_same, field_const, BitVec.or_zero])

theorem sd (d : Reg) (a : Reg) (i : BitVec 13) : Statement (.sd d a i) := by
  intro w h
  cases h
  rw [class1 (by simp (disch := decide) only [class_field, field_or, field_other]; decide)]
  unfold decodeClass1
  rw [show wordOp _ = 11#6 from by simp (disch := decide) only [op_field, field_or, field_other]; decide]
  exact (onPattern_pos (by simp (disch := decide) only [mask_or, place_mask]; decide)).trans (by simp (disch := decide) only [field_or, field_other, field_same, field_const, BitVec.or_zero])

theorem pref (h : BitVec 2) (a : Reg) (i : BitVec 13) : Statement (.pref h a i) := by
  intro w h
  cases h
  rw [class1 (by simp (disch := decide) only [class_field, field_or, field_other]; decide)]
  unfold decodeClass1
  rw [show wordOp _ = 12#6 from by simp (disch := decide) only [op_field, field_or, field_other]; decide]
  exact (onPattern_pos (by simp (disch := decide) only [mask_or, place_mask]; decide)).trans (by simp (disch := decide) only [field_or, field_other, field_same, field_const, BitVec.or_zero])

theorem cboWb (a : Reg) : Statement (.cboWb a) := by
  intro w h
  cases h
  rw [class1 (by simp (disch := decide) only [class_field, field_or, field_other]; decide)]
  unfold decodeClass1
  rw [show wordOp _ = 13#6 from by simp (disch := decide) only [op_field, field_or, field_other]; decide]
  exact (onPattern_pos (by simp (disch := decide) only [mask_or, place_mask]; decide)).trans (by simp (disch := decide) only [field_or, field_same, field_const])

theorem cboWbinv (a : Reg) : Statement (.cboWbinv a) := by
  intro w h
  cases h
  rw [class1 (by simp (disch := decide) only [class_field, field_or, field_other]; decide)]
  unfold decodeClass1
  rw [show wordOp _ = 13#6 from by simp (disch := decide) only [op_field, field_or, field_other]; decide]
  exact (onPattern_neg (pattern_ne 0 (by simp (disch := decide) only [field_or, field_other]; decide))).trans ((onPattern_pos (by simp (disch := decide) only [mask_or, place_mask]; decide)).trans (by simp (disch := decide) only [field_or, field_same, field_const]))

theorem cboInv (a : Reg) : Statement (.cboInv a) := by
  intro w h
  cases h
  rw [class1 (by simp (disch := decide) only [class_field, field_or, field_other]; decide)]
  unfold decodeClass1
  rw [show wordOp _ = 13#6 from by simp (disch := decide) only [op_field, field_or, field_other]; decide]
  exact (onPattern_neg (pattern_ne 1 (by simp (disch := decide) only [field_or, field_other]; decide))).trans ((onPattern_neg (pattern_ne 0 (by simp (disch := decide) only [field_or, field_other]; decide))).trans ((onPattern_pos (by simp (disch := decide) only [mask_or, place_mask]; decide)).trans (by simp (disch := decide) only [field_or, field_same, field_const])))

theorem fld (x : Reg) (n : BitVec 3) (s : BitVec 10) : Statement (.fld x n s) := by
  intro w h
  cases h
  rw [class1 (by simp (disch := decide) only [class_field, field_or, field_other]; decide)]
  unfold decodeClass1
  rw [show wordOp _ = 16#6 from by simp (disch := decide) only [op_field, field_or, field_other]; decide]
  exact (onPattern_pos (by simp (disch := decide) only [mask_or, place_mask]; decide)).trans (by simp (disch := decide) only [field_or, field_other, field_same, field_const, BitVec.or_zero])

theorem fst (x : Reg) (n : BitVec 3) (s : BitVec 10) : Statement (.fst x n s) := by
  intro w h
  cases h
  rw [class1 (by simp (disch := decide) only [class_field, field_or, field_other]; decide)]
  unfold decodeClass1
  rw [show wordOp _ = 17#6 from by simp (disch := decide) only [op_field, field_or, field_other]; decide]
  exact (onPattern_pos (by simp (disch := decide) only [mask_or, place_mask]; decide)).trans (by simp (disch := decide) only [field_or, field_other, field_same, field_const, BitVec.or_zero])

theorem fadr (x : Reg) (n : BitVec 3) (s : BitVec 10) : Statement (.fadr x n s) := by
  intro w h
  cases h
  rw [class1 (by simp (disch := decide) only [class_field, field_or, field_other]; decide)]
  unfold decodeClass1
  rw [show wordOp _ = 18#6 from by simp (disch := decide) only [op_field, field_or, field_other]; decide]
  exact (onPattern_pos (by simp (disch := decide) only [mask_or, place_mask]; decide)).trans (by simp (disch := decide) only [field_or, field_other, field_same, field_const, BitVec.or_zero])

theorem facc (x : Reg) (n : BitVec 3) (s : BitVec 10) (f : BitVec 5) : Statement (.facc x n s f) := by
  intro w h
  cases h
  rw [class1 (by simp (disch := decide) only [class_field, field_or, field_other]; decide)]
  unfold decodeClass1
  rw [show wordOp _ = 19#6 from by simp (disch := decide) only [op_field, field_or, field_other]; decide]
  exact (onPattern_pos (by simp (disch := decide) only [mask_or, place_mask]; decide)).trans (by simp (disch := decide) only [field_or, field_other, field_same, field_const, BitVec.or_zero])

theorem fenter (d : Reg) (a : Reg) (p : BitVec 2) (s : BitVec 2) : Statement (.fenter d a p s) := by
  intro w h
  cases h
  rw [class1 (by simp (disch := decide) only [class_field, field_or, field_other]; decide)]
  unfold decodeClass1
  rw [show wordOp _ = 20#6 from by simp (disch := decide) only [op_field, field_or, field_other]; decide]
  exact (onPattern_pos (by simp (disch := decide) only [mask_or, place_mask]; decide)).trans (by simp (disch := decide) only [field_or, field_other, field_same, field_const, BitVec.or_zero])

theorem fleave : Statement .fleave := by
  intro w h
  cases h
  rw [class1 (by decide)]
  unfold decodeClass1
  rw [show wordOp _ = 21#6 from by decide]
  exact (onPattern_pos (by decide))

theorem dspr (d : Reg) (n : BitVec 3) : Statement (.dspr d n) := by
  intro w h
  cases h
  rw [class1 (by simp (disch := decide) only [class_field, field_or, field_other]; decide)]
  unfold decodeClass1
  rw [show wordOp _ = 22#6 from by simp (disch := decide) only [op_field, field_or, field_other]; decide]
  exact (onPattern_pos (by simp (disch := decide) only [mask_or, place_mask]; decide)).trans (by simp (disch := decide) only [field_or, field_other, field_same, field_const, BitVec.or_zero])

theorem ffold (a : Reg) (b : Reg) (f : BitVec 8) : Statement (.ffold a b f) := by
  intro w h
  cases h
  rw [class1 (by simp (disch := decide) only [class_field, field_or, field_other]; decide)]
  unfold decodeClass1
  rw [show wordOp _ = 23#6 from by simp (disch := decide) only [op_field, field_or, field_other]; decide]
  exact (onPattern_pos (by simp (disch := decide) only [mask_or, place_mask]; decide)).trans (by simp (disch := decide) only [field_or, field_other, field_same, field_const, BitVec.or_zero])

theorem fpol (p : BitVec 2) : Statement (.fpol p) := by
  intro w h
  cases h
  rw [class1 (by simp (disch := decide) only [class_field, field_or, field_other]; decide)]
  unfold decodeClass1
  rw [show wordOp _ = 24#6 from by simp (disch := decide) only [op_field, field_or, field_other]; decide]
  exact (onPattern_pos (by simp (disch := decide) only [mask_or, place_mask]; decide)).trans (by simp (disch := decide) only [field_or, field_same, field_const])

theorem beq (a : Reg) (b : Reg) (o : BitVec 13) : Statement (.beq a b o) := by
  intro w h
  cases h
  rw [class2 (by simp (disch := decide) only [class_field, field_or, field_other]; decide)]
  unfold decodeClass2
  rw [show wordOp _ = 0#6 from by simp (disch := decide) only [op_field, field_or, field_other]; decide]
  exact (onPattern_pos (by simp (disch := decide) only [mask_or, place_mask]; decide)).trans (by simp (disch := decide) only [field_or, field_other, field_same, field_const, BitVec.or_zero])

theorem bne (a : Reg) (b : Reg) (o : BitVec 13) : Statement (.bne a b o) := by
  intro w h
  cases h
  rw [class2 (by simp (disch := decide) only [class_field, field_or, field_other]; decide)]
  unfold decodeClass2
  rw [show wordOp _ = 1#6 from by simp (disch := decide) only [op_field, field_or, field_other]; decide]
  exact (onPattern_pos (by simp (disch := decide) only [mask_or, place_mask]; decide)).trans (by simp (disch := decide) only [field_or, field_other, field_same, field_const, BitVec.or_zero])

theorem blt (a : Reg) (b : Reg) (o : BitVec 13) : Statement (.blt a b o) := by
  intro w h
  cases h
  rw [class2 (by simp (disch := decide) only [class_field, field_or, field_other]; decide)]
  unfold decodeClass2
  rw [show wordOp _ = 2#6 from by simp (disch := decide) only [op_field, field_or, field_other]; decide]
  exact (onPattern_pos (by simp (disch := decide) only [mask_or, place_mask]; decide)).trans (by simp (disch := decide) only [field_or, field_other, field_same, field_const, BitVec.or_zero])

theorem bge (a : Reg) (b : Reg) (o : BitVec 13) : Statement (.bge a b o) := by
  intro w h
  cases h
  rw [class2 (by simp (disch := decide) only [class_field, field_or, field_other]; decide)]
  unfold decodeClass2
  rw [show wordOp _ = 3#6 from by simp (disch := decide) only [op_field, field_or, field_other]; decide]
  exact (onPattern_pos (by simp (disch := decide) only [mask_or, place_mask]; decide)).trans (by simp (disch := decide) only [field_or, field_other, field_same, field_const, BitVec.or_zero])

theorem bltu (a : Reg) (b : Reg) (o : BitVec 13) : Statement (.bltu a b o) := by
  intro w h
  cases h
  rw [class2 (by simp (disch := decide) only [class_field, field_or, field_other]; decide)]
  unfold decodeClass2
  rw [show wordOp _ = 4#6 from by simp (disch := decide) only [op_field, field_or, field_other]; decide]
  exact (onPattern_pos (by simp (disch := decide) only [mask_or, place_mask]; decide)).trans (by simp (disch := decide) only [field_or, field_other, field_same, field_const, BitVec.or_zero])

theorem bgeu (a : Reg) (b : Reg) (o : BitVec 13) : Statement (.bgeu a b o) := by
  intro w h
  cases h
  rw [class2 (by simp (disch := decide) only [class_field, field_or, field_other]; decide)]
  unfold decodeClass2
  rw [show wordOp _ = 5#6 from by simp (disch := decide) only [op_field, field_or, field_other]; decide]
  exact (onPattern_pos (by simp (disch := decide) only [mask_or, place_mask]; decide)).trans (by simp (disch := decide) only [field_or, field_other, field_same, field_const, BitVec.or_zero])

theorem jal (d : Reg) (i : BitVec 18) : Statement (.jal d i) := by
  intro w h
  cases h
  rw [class2 (by simp (disch := decide) only [class_field, field_or, field_other]; decide)]
  unfold decodeClass2
  rw [show wordOp _ = 6#6 from by simp (disch := decide) only [op_field, field_or, field_other]; decide]
  exact (onPattern_pos (by simp (disch := decide) only [mask_or, place_mask]; decide)).trans (by simp (disch := decide) only [field_or, field_other, field_same, field_const, BitVec.or_zero])

theorem jalr (d : Reg) (a : Reg) (i : BitVec 13) : Statement (.jalr d a i) := by
  intro w h
  cases h
  rw [class2 (by simp (disch := decide) only [class_field, field_or, field_other]; decide)]
  unfold decodeClass2
  rw [show wordOp _ = 7#6 from by simp (disch := decide) only [op_field, field_or, field_other]; decide]
  exact (onPattern_pos (by simp (disch := decide) only [mask_or, place_mask]; decide)).trans (by simp (disch := decide) only [field_or, field_other, field_same, field_const, BitVec.or_zero])

theorem loop (n : BitVec 3) (a : Reg) (l : BitVec 12) : Statement (.loop n a l) := by
  intro w h
  cases h
  rw [class2 (by simp (disch := decide) only [class_field, field_or, field_other]; decide)]
  unfold decodeClass2
  rw [show wordOp _ = 8#6 from by simp (disch := decide) only [op_field, field_or, field_other]; decide]
  exact (onPattern_pos (by simp (disch := decide) only [mask_or, place_mask]; decide)).trans (by simp (disch := decide) only [field_or, field_other, field_same, field_const, BitVec.or_zero])

theorem loopt (n : BitVec 3) (m : BitVec 3) (l : BitVec 12) : Statement (.loopt n m l) := by
  intro w h
  cases h
  rw [class2 (by simp (disch := decide) only [class_field, field_or, field_other]; decide)]
  unfold decodeClass2
  rw [show wordOp _ = 9#6 from by simp (disch := decide) only [op_field, field_or, field_other]; decide]
  exact (onPattern_pos (by simp (disch := decide) only [mask_or, place_mask]; decide)).trans (by simp (disch := decide) only [field_or, field_other, field_same, field_const, BitVec.or_zero])

theorem loops (n : BitVec 3) (a : Reg) (s : BitVec 3) (l : BitVec 10) : Statement (.loops n a s l) := by
  intro w h
  cases h
  rw [class2 (by simp (disch := decide) only [class_field, field_or, field_other]; decide)]
  unfold decodeClass2
  rw [show wordOp _ = 10#6 from by simp (disch := decide) only [op_field, field_or, field_other]; decide]
  exact (onPattern_pos (by simp (disch := decide) only [mask_or, place_mask]; decide)).trans (by simp (disch := decide) only [field_or, field_other, field_same, field_const, BitVec.or_zero])

theorem lbrk (n : BitVec 3) : Statement (.lbrk n) := by
  intro w h
  cases h
  rw [class2 (by simp (disch := decide) only [class_field, field_or, field_other]; decide)]
  unfold decodeClass2
  rw [show wordOp _ = 11#6 from by simp (disch := decide) only [op_field, field_or, field_other]; decide]
  exact (onPattern_pos (by simp (disch := decide) only [mask_or, place_mask]; decide)).trans (by simp (disch := decide) only [field_or, field_same, field_const])

theorem bmz (o : BitVec 13) : Statement (.bmz o) := by
  intro w h
  cases h
  rw [class2 (by simp (disch := decide) only [class_field, field_or, field_other]; decide)]
  unfold decodeClass2
  rw [show wordOp _ = 12#6 from by simp (disch := decide) only [op_field, field_or, field_other]; decide]
  exact (onPattern_pos (by simp (disch := decide) only [mask_or, place_mask]; decide)).trans (by simp (disch := decide) only [field_or, field_same, field_const])

theorem bmnz (o : BitVec 13) : Statement (.bmnz o) := by
  intro w h
  cases h
  rw [class2 (by simp (disch := decide) only [class_field, field_or, field_other]; decide)]
  unfold decodeClass2
  rw [show wordOp _ = 13#6 from by simp (disch := decide) only [op_field, field_or, field_other]; decide]
  exact (onPattern_pos (by simp (disch := decide) only [mask_or, place_mask]; decide)).trans (by simp (disch := decide) only [field_or, field_same, field_const])

theorem gate (g : BitVec 8) : Statement (.gate g) := by
  intro w h
  cases h
  rw [class2 (by simp (disch := decide) only [class_field, field_or, field_other]; decide)]
  unfold decodeClass2
  rw [show wordOp _ = 14#6 from by simp (disch := decide) only [op_field, field_or, field_other]; decide]
  exact (onPattern_pos (by simp (disch := decide) only [mask_or, place_mask]; decide)).trans (by simp (disch := decide) only [field_or, field_same, field_const])

theorem gret : Statement .gret := by
  intro w h
  cases h
  rw [class2 (by decide)]
  unfold decodeClass2
  rw [show wordOp _ = 15#6 from by decide]
  exact (onPattern_pos (by decide))

theorem fork (a : Reg) (b : Reg) (o : BitVec 13) : Statement (.fork a b o) := by
  intro w h
  cases h
  rw [class2 (by simp (disch := decide) only [class_field, field_or, field_other]; decide)]
  unfold decodeClass2
  rw [show wordOp _ = 16#6 from by simp (disch := decide) only [op_field, field_or, field_other]; decide]
  exact (onPattern_pos (by simp (disch := decide) only [mask_or, place_mask]; decide)).trans (by simp (disch := decide) only [field_or, field_other, field_same, field_const, BitVec.or_zero])

theorem join : Statement .join := by
  intro w h
  cases h
  rw [class2 (by decide)]
  unfold decodeClass2
  rw [show wordOp _ = 17#6 from by decide]
  exact (onPattern_pos (by decide))

theorem endStrand : Statement .endStrand := by
  intro w h
  cases h
  rw [class2 (by decide)]
  unfold decodeClass2
  rw [show wordOp _ = 18#6 from by decide]
  exact (onPattern_pos (by decide))

theorem bst (s : BitVec 3) (n : BitVec 3) (o : BitVec 13) : Statement (.bst s n o) := by
  intro w h
  cases h
  rw [class2 (by simp (disch := decide) only [class_field, field_or, field_other]; decide)]
  unfold decodeClass2
  rw [show wordOp _ = 19#6 from by simp (disch := decide) only [op_field, field_or, field_other]; decide]
  exact (onPattern_pos (by simp (disch := decide) only [mask_or, place_mask]; decide)).trans (by simp (disch := decide) only [field_or, field_other, field_same, field_const, BitVec.or_zero])

theorem acq (a : Reg) (s : BitVec 2) : Statement (.acq a s) := by
  intro w h
  cases h
  rw [class3 (by simp (disch := decide) only [class_field, field_or, field_other]; decide)]
  unfold decodeClass3
  rw [show wordOp _ = 0#6 from by simp (disch := decide) only [op_field, field_or, field_other]; decide]
  exact (onPattern_pos (by simp (disch := decide) only [mask_or, place_mask]; decide)).trans (by simp (disch := decide) only [field_or, field_other, field_same, field_const, BitVec.or_zero])

theorem rel (a : Reg) (s : BitVec 2) : Statement (.rel a s) := by
  intro w h
  cases h
  rw [class3 (by simp (disch := decide) only [class_field, field_or, field_other]; decide)]
  unfold decodeClass3
  rw [show wordOp _ = 1#6 from by simp (disch := decide) only [op_field, field_or, field_other]; decide]
  exact (onPattern_pos (by simp (disch := decide) only [mask_or, place_mask]; decide)).trans (by simp (disch := decide) only [field_or, field_other, field_same, field_const, BitVec.or_zero])

theorem fenceRange (a : Reg) (b : Reg) : Statement (.fenceRange a b) := by
  intro w h
  cases h
  rw [class3 (by simp (disch := decide) only [class_field, field_or, field_other]; decide)]
  unfold decodeClass3
  rw [show wordOp _ = 3#6 from by simp (disch := decide) only [op_field, field_or, field_other]; decide]
  exact (onPattern_pos (by simp (disch := decide) only [mask_or, place_mask]; decide)).trans (by simp (disch := decide) only [field_or, field_other, field_same, field_const, BitVec.or_zero])

theorem fenceRemote : Statement .fenceRemote := by
  intro w h
  cases h
  rw [class3 (by decide)]
  unfold decodeClass3
  rw [show wordOp _ = 3#6 from by decide]
  exact (onPattern_neg (pattern_ne 0 (by decide))).trans ((onPattern_pos (by decide)))

theorem fenceAll : Statement .fenceAll := by
  intro w h
  cases h
  rw [class3 (by decide)]
  unfold decodeClass3
  rw [show wordOp _ = 3#6 from by decide]
  exact (onPattern_neg (pattern_ne 1 (by decide))).trans ((onPattern_neg (pattern_ne 0 (by decide))).trans ((onPattern_pos (by decide))))

theorem svld (d : Reg) (a : Reg) (l : BitVec 1) (c : BitVec 1) (s : BitVec 2) : Statement (.svld d a l c s) := by
  intro w h
  cases h
  rw [class3 (by simp (disch := decide) only [class_field, field_or, field_other]; decide)]
  unfold decodeClass3
  rw [show wordOp _ = 4#6 from by simp (disch := decide) only [op_field, field_or, field_other]; decide]
  exact (onPattern_pos (by simp (disch := decide) only [mask_or, place_mask]; decide)).trans (by simp (disch := decide) only [field_or, field_other, field_same, field_const, BitVec.or_zero])

theorem svst (a : Reg) (b : Reg) (l : BitVec 1) (c : BitVec 1) (s : BitVec 2) : Statement (.svst a b l c s) := by
  intro w h
  cases h
  rw [class3 (by simp (disch := decide) only [class_field, field_or, field_other]; decide)]
  unfold decodeClass3
  rw [show wordOp _ = 5#6 from by simp (disch := decide) only [op_field, field_or, field_other]; decide]
  exact (onPattern_pos (by simp (disch := decide) only [mask_or, place_mask]; decide)).trans (by simp (disch := decide) only [field_or, field_other, field_same, field_const, BitVec.or_zero])

theorem svadd (d : Reg) (a : Reg) (b : Reg) (u : BitVec 1) (l : BitVec 1) (c : BitVec 1) (s : BitVec 2) : Statement (.svadd d a b u l c s) := by
  intro w h
  cases h
  rw [class3 (by simp (disch := decide) only [class_field, field_or, field_other]; decide)]
  unfold decodeClass3
  rw [show wordOp _ = 6#6 from by simp (disch := decide) only [op_field, field_or, field_other]; decide]
  exact (onPattern_pos (by simp (disch := decide) only [mask_or, place_mask]; decide)).trans (by simp (disch := decide) only [field_or, field_other, field_same, field_const, BitVec.or_zero])

theorem svmax (d : Reg) (a : Reg) (b : Reg) (u : BitVec 2) (l : BitVec 1) (c : BitVec 1) (s : BitVec 2) : Statement (.svmax d a b u l c s) := by
  intro w h
  cases h
  rw [class3 (by simp (disch := decide) only [class_field, field_or, field_other]; decide)]
  unfold decodeClass3
  rw [show wordOp _ = 7#6 from by simp (disch := decide) only [op_field, field_or, field_other]; decide]
  exact (onPattern_pos (by simp (disch := decide) only [mask_or, place_mask]; decide)).trans (by simp (disch := decide) only [field_or, field_other, field_same, field_const, BitVec.or_zero])

theorem svmin (d : Reg) (a : Reg) (b : Reg) (u : BitVec 2) (l : BitVec 1) (c : BitVec 1) (s : BitVec 2) : Statement (.svmin d a b u l c s) := by
  intro w h
  cases h
  rw [class3 (by simp (disch := decide) only [class_field, field_or, field_other]; decide)]
  unfold decodeClass3
  rw [show wordOp _ = 8#6 from by simp (disch := decide) only [op_field, field_or, field_other]; decide]
  exact (onPattern_pos (by simp (disch := decide) only [mask_or, place_mask]; decide)).trans (by simp (disch := decide) only [field_or, field_other, field_same, field_const, BitVec.or_zero])

theorem svand (d : Reg) (a : Reg) (b : Reg) (l : BitVec 1) (c : BitVec 1) (s : BitVec 2) : Statement (.svand d a b l c s) := by
  intro w h
  cases h
  rw [class3 (by simp (disch := decide) only [class_field, field_or, field_other]; decide)]
  unfold decodeClass3
  rw [show wordOp _ = 9#6 from by simp (disch := decide) only [op_field, field_or, field_other]; decide]
  exact (onPattern_pos (by simp (disch := decide) only [mask_or, place_mask]; decide)).trans (by simp (disch := decide) only [field_or, field_other, field_same, field_const, BitVec.or_zero])

theorem svor (d : Reg) (a : Reg) (b : Reg) (l : BitVec 1) (c : BitVec 1) (s : BitVec 2) : Statement (.svor d a b l c s) := by
  intro w h
  cases h
  rw [class3 (by simp (disch := decide) only [class_field, field_or, field_other]; decide)]
  unfold decodeClass3
  rw [show wordOp _ = 10#6 from by simp (disch := decide) only [op_field, field_or, field_other]; decide]
  exact (onPattern_pos (by simp (disch := decide) only [mask_or, place_mask]; decide)).trans (by simp (disch := decide) only [field_or, field_other, field_same, field_const, BitVec.or_zero])

theorem svswap (d : Reg) (a : Reg) (b : Reg) (l : BitVec 1) (c : BitVec 1) (s : BitVec 2) : Statement (.svswap d a b l c s) := by
  intro w h
  cases h
  rw [class3 (by simp (disch := decide) only [class_field, field_or, field_other]; decide)]
  unfold decodeClass3
  rw [show wordOp _ = 11#6 from by simp (disch := decide) only [op_field, field_or, field_other]; decide]
  exact (onPattern_pos (by simp (disch := decide) only [mask_or, place_mask]; decide)).trans (by simp (disch := decide) only [field_or, field_other, field_same, field_const, BitVec.or_zero])

theorem svcas (d : Reg) (a : Reg) (b : Reg) (l : BitVec 1) (c : BitVec 1) (s : BitVec 2) : Statement (.svcas d a b l c s) := by
  intro w h
  cases h
  rw [class3 (by simp (disch := decide) only [class_field, field_or, field_other]; decide)]
  unfold decodeClass3
  rw [show wordOp _ = 12#6 from by simp (disch := decide) only [op_field, field_or, field_other]; decide]
  exact (onPattern_pos (by simp (disch := decide) only [mask_or, place_mask]; decide)).trans (by simp (disch := decide) only [field_or, field_other, field_same, field_const, BitVec.or_zero])

theorem svwait (d : Reg) (a : Reg) (b : Reg) (u : BitVec 2) (l : BitVec 1) (c : BitVec 1) (s : BitVec 2) : Statement (.svwait d a b u l c s) := by
  intro w h
  cases h
  rw [class3 (by simp (disch := decide) only [class_field, field_or, field_other]; decide)]
  unfold decodeClass3
  rw [show wordOp _ = 13#6 from by simp (disch := decide) only [op_field, field_or, field_other]; decide]
  exact (onPattern_pos (by simp (disch := decide) only [mask_or, place_mask]; decide)).trans (by simp (disch := decide) only [field_or, field_other, field_same, field_const, BitVec.or_zero])

theorem svlock (a : Reg) (s : BitVec 2) : Statement (.svlock a s) := by
  intro w h
  cases h
  rw [class3 (by simp (disch := decide) only [class_field, field_or, field_other]; decide)]
  unfold decodeClass3
  rw [show wordOp _ = 14#6 from by simp (disch := decide) only [op_field, field_or, field_other]; decide]
  exact (onPattern_pos (by simp (disch := decide) only [mask_or, place_mask]; decide)).trans (by simp (disch := decide) only [field_or, field_other, field_same, field_const, BitVec.or_zero])

theorem svunlock (a : Reg) (s : BitVec 2) : Statement (.svunlock a s) := by
  intro w h
  cases h
  rw [class3 (by simp (disch := decide) only [class_field, field_or, field_other]; decide)]
  unfold decodeClass3
  rw [show wordOp _ = 15#6 from by simp (disch := decide) only [op_field, field_or, field_other]; decide]
  exact (onPattern_pos (by simp (disch := decide) only [mask_or, place_mask]; decide)).trans (by simp (disch := decide) only [field_or, field_other, field_same, field_const, BitVec.or_zero])

theorem barCluster : Statement .barCluster := by
  intro w h
  cases h
  rw [class3 (by decide)]
  unfold decodeClass3
  rw [show wordOp _ = 16#6 from by decide]
  exact (onPattern_pos (by decide))

theorem barDie : Statement .barDie := by
  intro w h
  cases h
  rw [class3 (by decide)]
  unfold decodeClass3
  rw [show wordOp _ = 16#6 from by decide]
  exact (onPattern_neg (pattern_ne 0 (by decide))).trans ((onPattern_pos (by decide)))

theorem barLaunch : Statement .barLaunch := by
  intro w h
  cases h
  rw [class3 (by decide)]
  unfold decodeClass3
  rw [show wordOp _ = 16#6 from by decide]
  exact (onPattern_neg (pattern_ne 1 (by decide))).trans ((onPattern_neg (pattern_ne 0 (by decide))).trans ((onPattern_pos (by decide))))

theorem sstep : Statement .sstep := by
  intro w h
  cases h
  rw [class3 (by decide)]
  unfold decodeClass3
  rw [show wordOp _ = 17#6 from by decide]
  exact (onPattern_pos (by decide))

theorem trig : Statement .trig := by
  intro w h
  cases h
  rw [class3 (by decide)]
  unfold decodeClass3
  rw [show wordOp _ = 19#6 from by decide]
  exact (onPattern_pos (by decide))

theorem launch (d : Reg) (a : Reg) : Statement (.launch d a) := by
  intro w h
  cases h
  rw [class3 (by simp (disch := decide) only [class_field, field_or, field_other]; decide)]
  unfold decodeClass3
  rw [show wordOp _ = 20#6 from by simp (disch := decide) only [op_field, field_or, field_other]; decide]
  exact (onPattern_pos (by simp (disch := decide) only [mask_or, place_mask]; decide)).trans (by simp (disch := decide) only [field_or, field_other, field_same, field_const, BitVec.or_zero])

theorem lidx (d : Reg) (m : BitVec 3) : Statement (.lidx d m) := by
  intro w h
  cases h
  rw [class3 (by simp (disch := decide) only [class_field, field_or, field_other]; decide)]
  unfold decodeClass3
  rw [show wordOp _ = 21#6 from by simp (disch := decide) only [op_field, field_or, field_other]; decide]
  exact (onPattern_pos (by simp (disch := decide) only [mask_or, place_mask]; decide)).trans (by simp (disch := decide) only [field_or, field_other, field_same, field_const, BitVec.or_zero])

theorem inboxWait (d : Reg) (v : BitVec 1) : Statement (.inboxWait d v) := by
  intro w h
  cases h
  rw [class3 (by simp (disch := decide) only [class_field, field_or, field_other]; decide)]
  unfold decodeClass3
  rw [show wordOp _ = 22#6 from by simp (disch := decide) only [op_field, field_or, field_other]; decide]
  exact (onPattern_pos (by simp (disch := decide) only [mask_or, place_mask]; decide)).trans (by simp (disch := decide) only [field_or, field_other, field_same, field_const, BitVec.or_zero])

theorem inboxPoll (d : Reg) (v : BitVec 1) : Statement (.inboxPoll d v) := by
  intro w h
  cases h
  rw [class3 (by simp (disch := decide) only [class_field, field_or, field_other]; decide)]
  unfold decodeClass3
  rw [show wordOp _ = 22#6 from by simp (disch := decide) only [op_field, field_or, field_other]; decide]
  exact (onPattern_neg (pattern_ne 0 (by simp (disch := decide) only [field_or, field_other]; decide))).trans ((onPattern_pos (by simp (disch := decide) only [mask_or, place_mask]; decide)).trans (by simp (disch := decide) only [field_or, field_other, field_same, field_const, BitVec.or_zero]))

theorem csrr (d : Reg) (c : BitVec 13) : Statement (.csrr d c) := by
  intro w h
  cases h
  rw [class3 (by simp (disch := decide) only [class_field, field_or, field_other]; decide)]
  unfold decodeClass3
  rw [show wordOp _ = 23#6 from by simp (disch := decide) only [op_field, field_or, field_other]; decide]
  exact (onPattern_pos (by simp (disch := decide) only [mask_or, place_mask]; decide)).trans (by simp (disch := decide) only [field_or, field_other, field_same, field_const, BitVec.or_zero])

theorem csrw (d : Reg) (a : Reg) (c : BitVec 13) : Statement (.csrw d a c) := by
  intro w h
  cases h
  rw [class3 (by simp (disch := decide) only [class_field, field_or, field_other]; decide)]
  unfold decodeClass3
  rw [show wordOp _ = 24#6 from by simp (disch := decide) only [op_field, field_or, field_other]; decide]
  exact (onPattern_pos (by simp (disch := decide) only [mask_or, place_mask]; decide)).trans (by simp (disch := decide) only [field_or, field_other, field_same, field_const, BitVec.or_zero])

theorem csrs (d : Reg) (a : Reg) (c : BitVec 13) : Statement (.csrs d a c) := by
  intro w h
  cases h
  rw [class3 (by simp (disch := decide) only [class_field, field_or, field_other]; decide)]
  unfold decodeClass3
  rw [show wordOp _ = 25#6 from by simp (disch := decide) only [op_field, field_or, field_other]; decide]
  exact (onPattern_pos (by simp (disch := decide) only [mask_or, place_mask]; decide)).trans (by simp (disch := decide) only [field_or, field_other, field_same, field_const, BitVec.or_zero])

theorem csrc (d : Reg) (a : Reg) (c : BitVec 13) : Statement (.csrc d a c) := by
  intro w h
  cases h
  rw [class3 (by simp (disch := decide) only [class_field, field_or, field_other]; decide)]
  unfold decodeClass3
  rw [show wordOp _ = 26#6 from by simp (disch := decide) only [op_field, field_or, field_other]; decide]
  exact (onPattern_pos (by simp (disch := decide) only [mask_or, place_mask]; decide)).trans (by simp (disch := decide) only [field_or, field_other, field_same, field_const, BitVec.or_zero])

theorem tret : Statement .tret := by
  intro w h
  cases h
  rw [class3 (by decide)]
  unfold decodeClass3
  rw [show wordOp _ = 27#6 from by decide]
  exact (onPattern_pos (by decide))

theorem bkpt : Statement .bkpt := by
  intro w h
  cases h
  rw [class3 (by decide)]
  unfold decodeClass3
  rw [show wordOp _ = 28#6 from by decide]
  exact (onPattern_pos (by decide))

theorem nprb : Statement .nprb := by
  intro w h
  cases h
  rw [class3 (by decide)]
  unfold decodeClass3
  rw [show wordOp _ = 29#6 from by decide]
  exact (onPattern_pos (by decide))

theorem npre : Statement .npre := by
  intro w h
  cases h
  rw [class3 (by decide)]
  unfold decodeClass3
  rw [show wordOp _ = 30#6 from by decide]
  exact (onPattern_pos (by decide))

theorem setm (i : BitVec 18) : Statement (.setm i) := by
  intro w h
  cases h
  rw [class3 (by simp (disch := decide) only [class_field, field_or, field_other]; decide)]
  unfold decodeClass3
  rw [show wordOp _ = 31#6 from by simp (disch := decide) only [op_field, field_or, field_other]; decide]
  exact (onPattern_pos (by simp (disch := decide) only [mask_or, place_mask]; decide)).trans (by simp (disch := decide) only [field_or, field_same, field_const])

theorem contain (a : Reg) : Statement (.contain a) := by
  intro w h
  cases h
  rw [class3 (by simp (disch := decide) only [class_field, field_or, field_other]; decide)]
  unfold decodeClass3
  rw [show wordOp _ = 32#6 from by simp (disch := decide) only [op_field, field_or, field_other]; decide]
  exact (onPattern_pos (by simp (disch := decide) only [mask_or, place_mask]; decide)).trans (by simp (disch := decide) only [field_or, field_same, field_const])

theorem wfi : Statement .wfi := by
  intro w h
  cases h
  rw [class3 (by decide)]
  unfold decodeClass3
  rw [show wordOp _ = 33#6 from by decide]
  exact (onPattern_pos (by decide))

theorem vadd (d : Reg) (a : Reg) (b : Reg) (x : BitVec 1) : Statement (.vadd d a b x) := by
  intro w h
  cases h
  rw [class4 (by simp (disch := decide) only [class_field, field_or, field_other]; decide)]
  unfold decodeClass4
  rw [show wordOp _ = 0#6 from by simp (disch := decide) only [op_field, field_or, field_other]; decide]
  exact (onPattern_pos (by simp (disch := decide) only [mask_or, place_mask]; decide)).trans (by simp (disch := decide) only [field_or, field_other, field_same, field_const, BitVec.or_zero])

theorem vsub (d : Reg) (a : Reg) (b : Reg) (x : BitVec 1) : Statement (.vsub d a b x) := by
  intro w h
  cases h
  rw [class4 (by simp (disch := decide) only [class_field, field_or, field_other]; decide)]
  unfold decodeClass4
  rw [show wordOp _ = 1#6 from by simp (disch := decide) only [op_field, field_or, field_other]; decide]
  exact (onPattern_pos (by simp (disch := decide) only [mask_or, place_mask]; decide)).trans (by simp (disch := decide) only [field_or, field_other, field_same, field_const, BitVec.or_zero])

theorem vmul (d : Reg) (a : Reg) (b : Reg) (x : BitVec 1) : Statement (.vmul d a b x) := by
  intro w h
  cases h
  rw [class4 (by simp (disch := decide) only [class_field, field_or, field_other]; decide)]
  unfold decodeClass4
  rw [show wordOp _ = 2#6 from by simp (disch := decide) only [op_field, field_or, field_other]; decide]
  exact (onPattern_pos (by simp (disch := decide) only [mask_or, place_mask]; decide)).trans (by simp (disch := decide) only [field_or, field_other, field_same, field_const, BitVec.or_zero])

theorem vfma (d : Reg) (a : Reg) (b : Reg) (x : BitVec 1) : Statement (.vfma d a b x) := by
  intro w h
  cases h
  rw [class4 (by simp (disch := decide) only [class_field, field_or, field_other]; decide)]
  unfold decodeClass4
  rw [show wordOp _ = 3#6 from by simp (disch := decide) only [op_field, field_or, field_other]; decide]
  exact (onPattern_pos (by simp (disch := decide) only [mask_or, place_mask]; decide)).trans (by simp (disch := decide) only [field_or, field_other, field_same, field_const, BitVec.or_zero])

theorem vfms (d : Reg) (a : Reg) (b : Reg) (x : BitVec 1) : Statement (.vfms d a b x) := by
  intro w h
  cases h
  rw [class4 (by simp (disch := decide) only [class_field, field_or, field_other]; decide)]
  unfold decodeClass4
  rw [show wordOp _ = 4#6 from by simp (disch := decide) only [op_field, field_or, field_other]; decide]
  exact (onPattern_pos (by simp (disch := decide) only [mask_or, place_mask]; decide)).trans (by simp (disch := decide) only [field_or, field_other, field_same, field_const, BitVec.or_zero])

theorem vfnma (d : Reg) (a : Reg) (b : Reg) (x : BitVec 1) : Statement (.vfnma d a b x) := by
  intro w h
  cases h
  rw [class4 (by simp (disch := decide) only [class_field, field_or, field_other]; decide)]
  unfold decodeClass4
  rw [show wordOp _ = 5#6 from by simp (disch := decide) only [op_field, field_or, field_other]; decide]
  exact (onPattern_pos (by simp (disch := decide) only [mask_or, place_mask]; decide)).trans (by simp (disch := decide) only [field_or, field_other, field_same, field_const, BitVec.or_zero])

theorem vmin (d : Reg) (a : Reg) (b : Reg) (x : BitVec 1) : Statement (.vmin d a b x) := by
  intro w h
  cases h
  rw [class4 (by simp (disch := decide) only [class_field, field_or, field_other]; decide)]
  unfold decodeClass4
  rw [show wordOp _ = 6#6 from by simp (disch := decide) only [op_field, field_or, field_other]; decide]
  exact (onPattern_pos (by simp (disch := decide) only [mask_or, place_mask]; decide)).trans (by simp (disch := decide) only [field_or, field_other, field_same, field_const, BitVec.or_zero])

theorem vmax (d : Reg) (a : Reg) (b : Reg) (x : BitVec 1) : Statement (.vmax d a b x) := by
  intro w h
  cases h
  rw [class4 (by simp (disch := decide) only [class_field, field_or, field_other]; decide)]
  unfold decodeClass4
  rw [show wordOp _ = 7#6 from by simp (disch := decide) only [op_field, field_or, field_other]; decide]
  exact (onPattern_pos (by simp (disch := decide) only [mask_or, place_mask]; decide)).trans (by simp (disch := decide) only [field_or, field_other, field_same, field_const, BitVec.or_zero])

theorem vabs (d : Reg) (a : Reg) : Statement (.vabs d a) := by
  intro w h
  cases h
  rw [class4 (by simp (disch := decide) only [class_field, field_or, field_other]; decide)]
  unfold decodeClass4
  rw [show wordOp _ = 8#6 from by simp (disch := decide) only [op_field, field_or, field_other]; decide]
  exact (onPattern_pos (by simp (disch := decide) only [mask_or, place_mask]; decide)).trans (by simp (disch := decide) only [field_or, field_other, field_same, field_const, BitVec.or_zero])

theorem vneg (d : Reg) (a : Reg) : Statement (.vneg d a) := by
  intro w h
  cases h
  rw [class4 (by simp (disch := decide) only [class_field, field_or, field_other]; decide)]
  unfold decodeClass4
  rw [show wordOp _ = 9#6 from by simp (disch := decide) only [op_field, field_or, field_other]; decide]
  exact (onPattern_pos (by simp (disch := decide) only [mask_or, place_mask]; decide)).trans (by simp (disch := decide) only [field_or, field_other, field_same, field_const, BitVec.or_zero])

theorem vdiv (d : Reg) (a : Reg) (b : Reg) (x : BitVec 1) : Statement (.vdiv d a b x) := by
  intro w h
  cases h
  rw [class4 (by simp (disch := decide) only [class_field, field_or, field_other]; decide)]
  unfold decodeClass4
  rw [show wordOp _ = 10#6 from by simp (disch := decide) only [op_field, field_or, field_other]; decide]
  exact (onPattern_pos (by simp (disch := decide) only [mask_or, place_mask]; decide)).trans (by simp (disch := decide) only [field_or, field_other, field_same, field_const, BitVec.or_zero])

theorem vsqrt (d : Reg) (a : Reg) : Statement (.vsqrt d a) := by
  intro w h
  cases h
  rw [class4 (by simp (disch := decide) only [class_field, field_or, field_other]; decide)]
  unfold decodeClass4
  rw [show wordOp _ = 11#6 from by simp (disch := decide) only [op_field, field_or, field_other]; decide]
  exact (onPattern_pos (by simp (disch := decide) only [mask_or, place_mask]; decide)).trans (by simp (disch := decide) only [field_or, field_other, field_same, field_const, BitVec.or_zero])

theorem vrcp (d : Reg) (a : Reg) : Statement (.vrcp d a) := by
  intro w h
  cases h
  rw [class4 (by simp (disch := decide) only [class_field, field_or, field_other]; decide)]
  unfold decodeClass4
  rw [show wordOp _ = 12#6 from by simp (disch := decide) only [op_field, field_or, field_other]; decide]
  exact (onPattern_pos (by simp (disch := decide) only [mask_or, place_mask]; decide)).trans (by simp (disch := decide) only [field_or, field_other, field_same, field_const, BitVec.or_zero])

theorem vrsq (d : Reg) (a : Reg) : Statement (.vrsq d a) := by
  intro w h
  cases h
  rw [class4 (by simp (disch := decide) only [class_field, field_or, field_other]; decide)]
  unfold decodeClass4
  rw [show wordOp _ = 13#6 from by simp (disch := decide) only [op_field, field_or, field_other]; decide]
  exact (onPattern_pos (by simp (disch := decide) only [mask_or, place_mask]; decide)).trans (by simp (disch := decide) only [field_or, field_other, field_same, field_const, BitVec.or_zero])

theorem vexp2 (d : Reg) (a : Reg) : Statement (.vexp2 d a) := by
  intro w h
  cases h
  rw [class4 (by simp (disch := decide) only [class_field, field_or, field_other]; decide)]
  unfold decodeClass4
  rw [show wordOp _ = 14#6 from by simp (disch := decide) only [op_field, field_or, field_other]; decide]
  exact (onPattern_pos (by simp (disch := decide) only [mask_or, place_mask]; decide)).trans (by simp (disch := decide) only [field_or, field_other, field_same, field_const, BitVec.or_zero])

theorem vlog2 (d : Reg) (a : Reg) : Statement (.vlog2 d a) := by
  intro w h
  cases h
  rw [class4 (by simp (disch := decide) only [class_field, field_or, field_other]; decide)]
  unfold decodeClass4
  rw [show wordOp _ = 15#6 from by simp (disch := decide) only [op_field, field_or, field_other]; decide]
  exact (onPattern_pos (by simp (disch := decide) only [mask_or, place_mask]; decide)).trans (by simp (disch := decide) only [field_or, field_other, field_same, field_const, BitVec.or_zero])

theorem vand (d : Reg) (a : Reg) (b : Reg) (x : BitVec 1) : Statement (.vand d a b x) := by
  intro w h
  cases h
  rw [class4 (by simp (disch := decide) only [class_field, field_or, field_other]; decide)]
  unfold decodeClass4
  rw [show wordOp _ = 16#6 from by simp (disch := decide) only [op_field, field_or, field_other]; decide]
  exact (onPattern_pos (by simp (disch := decide) only [mask_or, place_mask]; decide)).trans (by simp (disch := decide) only [field_or, field_other, field_same, field_const, BitVec.or_zero])

theorem vor (d : Reg) (a : Reg) (b : Reg) (x : BitVec 1) : Statement (.vor d a b x) := by
  intro w h
  cases h
  rw [class4 (by simp (disch := decide) only [class_field, field_or, field_other]; decide)]
  unfold decodeClass4
  rw [show wordOp _ = 17#6 from by simp (disch := decide) only [op_field, field_or, field_other]; decide]
  exact (onPattern_pos (by simp (disch := decide) only [mask_or, place_mask]; decide)).trans (by simp (disch := decide) only [field_or, field_other, field_same, field_const, BitVec.or_zero])

theorem vxor (d : Reg) (a : Reg) (b : Reg) (x : BitVec 1) : Statement (.vxor d a b x) := by
  intro w h
  cases h
  rw [class4 (by simp (disch := decide) only [class_field, field_or, field_other]; decide)]
  unfold decodeClass4
  rw [show wordOp _ = 18#6 from by simp (disch := decide) only [op_field, field_or, field_other]; decide]
  exact (onPattern_pos (by simp (disch := decide) only [mask_or, place_mask]; decide)).trans (by simp (disch := decide) only [field_or, field_other, field_same, field_const, BitVec.or_zero])

theorem vsll (d : Reg) (a : Reg) (b : Reg) (x : BitVec 1) : Statement (.vsll d a b x) := by
  intro w h
  cases h
  rw [class4 (by simp (disch := decide) only [class_field, field_or, field_other]; decide)]
  unfold decodeClass4
  rw [show wordOp _ = 19#6 from by simp (disch := decide) only [op_field, field_or, field_other]; decide]
  exact (onPattern_pos (by simp (disch := decide) only [mask_or, place_mask]; decide)).trans (by simp (disch := decide) only [field_or, field_other, field_same, field_const, BitVec.or_zero])

theorem vsrl (d : Reg) (a : Reg) (b : Reg) (x : BitVec 1) : Statement (.vsrl d a b x) := by
  intro w h
  cases h
  rw [class4 (by simp (disch := decide) only [class_field, field_or, field_other]; decide)]
  unfold decodeClass4
  rw [show wordOp _ = 20#6 from by simp (disch := decide) only [op_field, field_or, field_other]; decide]
  exact (onPattern_pos (by simp (disch := decide) only [mask_or, place_mask]; decide)).trans (by simp (disch := decide) only [field_or, field_other, field_same, field_const, BitVec.or_zero])

theorem vsra (d : Reg) (a : Reg) (b : Reg) (x : BitVec 1) : Statement (.vsra d a b x) := by
  intro w h
  cases h
  rw [class4 (by simp (disch := decide) only [class_field, field_or, field_other]; decide)]
  unfold decodeClass4
  rw [show wordOp _ = 21#6 from by simp (disch := decide) only [op_field, field_or, field_other]; decide]
  exact (onPattern_pos (by simp (disch := decide) only [mask_or, place_mask]; decide)).trans (by simp (disch := decide) only [field_or, field_other, field_same, field_const, BitVec.or_zero])

theorem vcmp (d : BitVec 3) (a : Reg) (b : Reg) (x : BitVec 1) (c : BitVec 4) : Statement (.vcmp d a b x c) := by
  intro w h
  cases h
  rw [class4 (by simp (disch := decide) only [class_field, field_or, field_other]; decide)]
  unfold decodeClass4
  rw [show wordOp _ = 22#6 from by simp (disch := decide) only [op_field, field_or, field_other]; decide]
  exact (onPattern_pos (by simp (disch := decide) only [mask_or, place_mask]; decide)).trans (by simp (disch := decide) only [field_or, field_other, field_same, field_const, BitVec.or_zero])

theorem vsel (d : Reg) (a : Reg) (b : Reg) (x : BitVec 1) (k : BitVec 3) : Statement (.vsel d a b x k) := by
  intro w h
  cases h
  rw [class4 (by simp (disch := decide) only [class_field, field_or, field_other]; decide)]
  unfold decodeClass4
  rw [show wordOp _ = 23#6 from by simp (disch := decide) only [op_field, field_or, field_other]; decide]
  exact (onPattern_pos (by simp (disch := decide) only [mask_or, place_mask]; decide)).trans (by simp (disch := decide) only [field_or, field_other, field_same, field_const, BitVec.or_zero])

theorem vmov (d : Reg) (a : Reg) : Statement (.vmov d a) := by
  intro w h
  cases h
  rw [class4 (by simp (disch := decide) only [class_field, field_or, field_other]; decide)]
  unfold decodeClass4
  rw [show wordOp _ = 24#6 from by simp (disch := decide) only [op_field, field_or, field_other]; decide]
  exact (onPattern_pos (by simp (disch := decide) only [mask_or, place_mask]; decide)).trans (by simp (disch := decide) only [field_or, field_other, field_same, field_const, BitVec.or_zero])

theorem vbc (d : Reg) (a : Reg) : Statement (.vbc d a) := by
  intro w h
  cases h
  rw [class4 (by simp (disch := decide) only [class_field, field_or, field_other]; decide)]
  unfold decodeClass4
  rw [show wordOp _ = 25#6 from by simp (disch := decide) only [op_field, field_or, field_other]; decide]
  exact (onPattern_pos (by simp (disch := decide) only [mask_or, place_mask]; decide)).trans (by simp (disch := decide) only [field_or, field_other, field_same, field_const, BitVec.or_zero])

theorem viota (d : Reg) : Statement (.viota d) := by
  intro w h
  cases h
  rw [class4 (by simp (disch := decide) only [class_field, field_or, field_other]; decide)]
  unfold decodeClass4
  rw [show wordOp _ = 26#6 from by simp (disch := decide) only [op_field, field_or, field_other]; decide]
  exact (onPattern_pos (by simp (disch := decide) only [mask_or, place_mask]; decide)).trans (by simp (disch := decide) only [field_or, field_same, field_const])

theorem vmulh (d : Reg) (a : Reg) (b : Reg) (x : BitVec 1) : Statement (.vmulh d a b x) := by
  intro w h
  cases h
  rw [class4 (by simp (disch := decide) only [class_field, field_or, field_other]; decide)]
  unfold decodeClass4
  rw [show wordOp _ = 27#6 from by simp (disch := decide) only [op_field, field_or, field_other]; decide]
  exact (onPattern_pos (by simp (disch := decide) only [mask_or, place_mask]; decide)).trans (by simp (disch := decide) only [field_or, field_other, field_same, field_const, BitVec.or_zero])

theorem vclamp (d : Reg) (a : Reg) (b : Reg) (x : BitVec 1) : Statement (.vclamp d a b x) := by
  intro w h
  cases h
  rw [class4 (by simp (disch := decide) only [class_field, field_or, field_other]; decide)]
  unfold decodeClass4
  rw [show wordOp _ = 28#6 from by simp (disch := decide) only [op_field, field_or, field_other]; decide]
  exact (onPattern_pos (by simp (disch := decide) only [mask_or, place_mask]; decide)).trans (by simp (disch := decide) only [field_or, field_other, field_same, field_const, BitVec.or_zero])

theorem vld (d : Reg) (a : Reg) (i : BitVec 13) : Statement (.vld d a i) := by
  intro w h
  cases h
  rw [class5 (by simp (disch := decide) only [class_field, field_or, field_other]; decide)]
  unfold decodeClass5
  rw [show wordOp _ = 0#6 from by simp (disch := decide) only [op_field, field_or, field_other]; decide]
  exact (onPattern_pos (by simp (disch := decide) only [mask_or, place_mask]; decide)).trans (by simp (disch := decide) only [field_or, field_other, field_same, field_const, BitVec.or_zero])

theorem vlds (d : Reg) (a : Reg) (b : Reg) : Statement (.vlds d a b) := by
  intro w h
  cases h
  rw [class5 (by simp (disch := decide) only [class_field, field_or, field_other]; decide)]
  unfold decodeClass5
  rw [show wordOp _ = 1#6 from by simp (disch := decide) only [op_field, field_or, field_other]; decide]
  exact (onPattern_pos (by simp (disch := decide) only [mask_or, place_mask]; decide)).trans (by simp (disch := decide) only [field_or, field_other, field_same, field_const, BitVec.or_zero])

theorem vldg (d : Reg) (a : Reg) (b : Reg) (n : BitVec 2) : Statement (.vldg d a b n) := by
  intro w h
  cases h
  rw [class5 (by simp (disch := decide) only [class_field, field_or, field_other]; decide)]
  unfold decodeClass5
  rw [show wordOp _ = 2#6 from by simp (disch := decide) only [op_field, field_or, field_other]; decide]
  exact (onPattern_pos (by simp (disch := decide) only [mask_or, place_mask]; decide)).trans (by simp (disch := decide) only [field_or, field_other, field_same, field_const, BitVec.or_zero])

theorem vldmx (d : Reg) (a : Reg) (b : Reg) : Statement (.vldmx d a b) := by
  intro w h
  cases h
  rw [class5 (by simp (disch := decide) only [class_field, field_or, field_other]; decide)]
  unfold decodeClass5
  rw [show wordOp _ = 3#6 from by simp (disch := decide) only [op_field, field_or, field_other]; decide]
  exact (onPattern_pos (by simp (disch := decide) only [mask_or, place_mask]; decide)).trans (by simp (disch := decide) only [field_or, field_other, field_same, field_const, BitVec.or_zero])

theorem vst (d : Reg) (a : Reg) (i : BitVec 13) : Statement (.vst d a i) := by
  intro w h
  cases h
  rw [class5 (by simp (disch := decide) only [class_field, field_or, field_other]; decide)]
  unfold decodeClass5
  rw [show wordOp _ = 4#6 from by simp (disch := decide) only [op_field, field_or, field_other]; decide]
  exact (onPattern_pos (by simp (disch := decide) only [mask_or, place_mask]; decide)).trans (by simp (disch := decide) only [field_or, field_other, field_same, field_const, BitVec.or_zero])

theorem vsts (d : Reg) (a : Reg) (b : Reg) : Statement (.vsts d a b) := by
  intro w h
  cases h
  rw [class5 (by simp (disch := decide) only [class_field, field_or, field_other]; decide)]
  unfold decodeClass5
  rw [show wordOp _ = 5#6 from by simp (disch := decide) only [op_field, field_or, field_other]; decide]
  exact (onPattern_pos (by simp (disch := decide) only [mask_or, place_mask]; decide)).trans (by simp (disch := decide) only [field_or, field_other, field_same, field_const, BitVec.or_zero])

theorem vstg (d : Reg) (a : Reg) (b : Reg) (n : BitVec 2) : Statement (.vstg d a b n) := by
  intro w h
  cases h
  rw [class5 (by simp (disch := decide) only [class_field, field_or, field_other]; decide)]
  unfold decodeClass5
  rw [show wordOp _ = 6#6 from by simp (disch := decide) only [op_field, field_or, field_other]; decide]
  exact (onPattern_pos (by simp (disch := decide) only [mask_or, place_mask]; decide)).trans (by simp (disch := decide) only [field_or, field_other, field_same, field_const, BitVec.or_zero])

theorem vcvt (d : Reg) (a : Reg) (p : BitVec 3) (s : BitVec 4) : Statement (.vcvt d a p s) := by
  intro w h
  cases h
  rw [class5 (by simp (disch := decide) only [class_field, field_or, field_other]; decide)]
  unfold decodeClass5
  rw [show wordOp _ = 8#6 from by simp (disch := decide) only [op_field, field_or, field_other]; decide]
  exact (onPattern_pos (by simp (disch := decide) only [mask_or, place_mask]; decide)).trans (by simp (disch := decide) only [field_or, field_other, field_same, field_const, BitVec.or_zero])

theorem vcvtn (d : Reg) (a : Reg) (h : BitVec 1) (f : BitVec 2) : Statement (.vcvtn d a h f) := by
  intro w h
  cases h
  rw [class5 (by simp (disch := decide) only [class_field, field_or, field_other]; decide)]
  unfold decodeClass5
  rw [show wordOp _ = 9#6 from by simp (disch := decide) only [op_field, field_or, field_other]; decide]
  exact (onPattern_pos (by simp (disch := decide) only [mask_or, place_mask]; decide)).trans (by simp (disch := decide) only [field_or, field_other, field_same, field_const, BitVec.or_zero])

theorem ldcb (a : Reg) (b : Reg) : Statement (.ldcb a b) := by
  intro w h
  cases h
  rw [class5 (by simp (disch := decide) only [class_field, field_or, field_other]; decide)]
  unfold decodeClass5
  rw [show wordOp _ = 10#6 from by simp (disch := decide) only [op_field, field_or, field_other]; decide]
  exact (onPattern_pos (by simp (disch := decide) only [mask_or, place_mask]; decide)).trans (by simp (disch := decide) only [field_or, field_other, field_same, field_const, BitVec.or_zero])

theorem vperm (d : Reg) (a : Reg) (b : Reg) (x : BitVec 1) : Statement (.vperm d a b x) := by
  intro w h
  cases h
  rw [class5 (by simp (disch := decide) only [class_field, field_or, field_other]; decide)]
  unfold decodeClass5
  rw [show wordOp _ = 11#6 from by simp (disch := decide) only [op_field, field_or, field_other]; decide]
  exact (onPattern_pos (by simp (disch := decide) only [mask_or, place_mask]; decide)).trans (by simp (disch := decide) only [field_or, field_other, field_same, field_const, BitVec.or_zero])

theorem vslideUp (d : Reg) (a : Reg) (b : Reg) : Statement (.vslideUp d a b) := by
  intro w h
  cases h
  rw [class5 (by simp (disch := decide) only [class_field, field_or, field_other]; decide)]
  unfold decodeClass5
  rw [show wordOp _ = 12#6 from by simp (disch := decide) only [op_field, field_or, field_other]; decide]
  exact (onPattern_pos (by simp (disch := decide) only [mask_or, place_mask]; decide)).trans (by simp (disch := decide) only [field_or, field_other, field_same, field_const, BitVec.or_zero])

theorem vslideDn (d : Reg) (a : Reg) (b : Reg) : Statement (.vslideDn d a b) := by
  intro w h
  cases h
  rw [class5 (by simp (disch := decide) only [class_field, field_or, field_other]; decide)]
  unfold decodeClass5
  rw [show wordOp _ = 12#6 from by simp (disch := decide) only [op_field, field_or, field_other]; decide]
  exact (onPattern_neg (pattern_ne 0 (by simp (disch := decide) only [field_or, field_other]; decide))).trans ((onPattern_pos (by simp (disch := decide) only [mask_or, place_mask]; decide)).trans (by simp (disch := decide) only [field_or, field_other, field_same, field_const, BitVec.or_zero]))

theorem vzip (d : Reg) (a : Reg) (b : Reg) (h : BitVec 1) : Statement (.vzip d a b h) := by
  intro w h
  cases h
  rw [class5 (by simp (disch := decide) only [class_field, field_or, field_other]; decide)]
  unfold decodeClass5
  rw [show wordOp _ = 13#6 from by simp (disch := decide) only [op_field, field_or, field_other]; decide]
  exact (onPattern_pos (by simp (disch := decide) only [mask_or, place_mask]; decide)).trans (by simp (disch := decide) only [field_or, field_other, field_same, field_const, BitVec.or_zero])

theorem vunzip (d : Reg) (a : Reg) (b : Reg) (h : BitVec 1) : Statement (.vunzip d a b h) := by
  intro w h
  cases h
  rw [class5 (by simp (disch := decide) only [class_field, field_or, field_other]; decide)]
  unfold decodeClass5
  rw [show wordOp _ = 14#6 from by simp (disch := decide) only [op_field, field_or, field_other]; decide]
  exact (onPattern_pos (by simp (disch := decide) only [mask_or, place_mask]; decide)).trans (by simp (disch := decide) only [field_or, field_other, field_same, field_const, BitVec.or_zero])

theorem vredadd (d : Reg) (a : Reg) : Statement (.vredadd d a) := by
  intro w h
  cases h
  rw [class5 (by simp (disch := decide) only [class_field, field_or, field_other]; decide)]
  unfold decodeClass5
  rw [show wordOp _ = 15#6 from by simp (disch := decide) only [op_field, field_or, field_other]; decide]
  exact (onPattern_pos (by simp (disch := decide) only [mask_or, place_mask]; decide)).trans (by simp (disch := decide) only [field_or, field_other, field_same, field_const, BitVec.or_zero])

theorem vredmax (d : Reg) (a : Reg) : Statement (.vredmax d a) := by
  intro w h
  cases h
  rw [class5 (by simp (disch := decide) only [class_field, field_or, field_other]; decide)]
  unfold decodeClass5
  rw [show wordOp _ = 16#6 from by simp (disch := decide) only [op_field, field_or, field_other]; decide]
  exact (onPattern_pos (by simp (disch := decide) only [mask_or, place_mask]; decide)).trans (by simp (disch := decide) only [field_or, field_other, field_same, field_const, BitVec.or_zero])

theorem vredmin (d : Reg) (a : Reg) : Statement (.vredmin d a) := by
  intro w h
  cases h
  rw [class5 (by simp (disch := decide) only [class_field, field_or, field_other]; decide)]
  unfold decodeClass5
  rw [show wordOp _ = 17#6 from by simp (disch := decide) only [op_field, field_or, field_other]; decide]
  exact (onPattern_pos (by simp (disch := decide) only [mask_or, place_mask]; decide)).trans (by simp (disch := decide) only [field_or, field_other, field_same, field_const, BitVec.or_zero])

theorem vmvx (d : Reg) (a : Reg) (b : Reg) : Statement (.vmvx d a b) := by
  intro w h
  cases h
  rw [class5 (by simp (disch := decide) only [class_field, field_or, field_other]; decide)]
  unfold decodeClass5
  rw [show wordOp _ = 18#6 from by simp (disch := decide) only [op_field, field_or, field_other]; decide]
  exact (onPattern_pos (by simp (disch := decide) only [mask_or, place_mask]; decide)).trans (by simp (disch := decide) only [field_or, field_other, field_same, field_const, BitVec.or_zero])

theorem vins (d : Reg) (a : Reg) (b : Reg) : Statement (.vins d a b) := by
  intro w h
  cases h
  rw [class5 (by simp (disch := decide) only [class_field, field_or, field_other]; decide)]
  unfold decodeClass5
  rw [show wordOp _ = 19#6 from by simp (disch := decide) only [op_field, field_or, field_other]; decide]
  exact (onPattern_pos (by simp (disch := decide) only [mask_or, place_mask]; decide)).trans (by simp (disch := decide) only [field_or, field_other, field_same, field_const, BitVec.or_zero])

theorem mpush (a : BitVec 3) : Statement (.mpush a) := by
  intro w h
  cases h
  rw [class5 (by simp (disch := decide) only [class_field, field_or, field_other]; decide)]
  unfold decodeClass5
  rw [show wordOp _ = 20#6 from by simp (disch := decide) only [op_field, field_or, field_other]; decide]
  exact (onPattern_pos (by simp (disch := decide) only [mask_or, place_mask]; decide)).trans (by simp (disch := decide) only [field_or, field_same, field_const])

theorem minv : Statement .minv := by
  intro w h
  cases h
  rw [class5 (by decide)]
  unfold decodeClass5
  rw [show wordOp _ = 21#6 from by decide]
  exact (onPattern_pos (by decide))

theorem mpop : Statement .mpop := by
  intro w h
  cases h
  rw [class5 (by decide)]
  unfold decodeClass5
  rw [show wordOp _ = 22#6 from by decide]
  exact (onPattern_pos (by decide))

theorem mstg (s : BitVec 3) (n : BitVec 3) : Statement (.mstg s n) := by
  intro w h
  cases h
  rw [class5 (by simp (disch := decide) only [class_field, field_or, field_other]; decide)]
  unfold decodeClass5
  rw [show wordOp _ = 23#6 from by simp (disch := decide) only [op_field, field_or, field_other]; decide]
  exact (onPattern_pos (by simp (disch := decide) only [mask_or, place_mask]; decide)).trans (by simp (disch := decide) only [field_or, field_other, field_same, field_const, BitVec.or_zero])

theorem kmovKx (d : BitVec 3) (a : Reg) : Statement (.kmovKx d a) := by
  intro w h
  cases h
  rw [class5 (by simp (disch := decide) only [class_field, field_or, field_other]; decide)]
  unfold decodeClass5
  rw [show wordOp _ = 24#6 from by simp (disch := decide) only [op_field, field_or, field_other]; decide]
  exact (onPattern_pos (by simp (disch := decide) only [mask_or, place_mask]; decide)).trans (by simp (disch := decide) only [field_or, field_other, field_same, field_const, BitVec.or_zero])

theorem kmovXk (d : Reg) (a : BitVec 3) : Statement (.kmovXk d a) := by
  intro w h
  cases h
  rw [class5 (by simp (disch := decide) only [class_field, field_or, field_other]; decide)]
  unfold decodeClass5
  rw [show wordOp _ = 24#6 from by simp (disch := decide) only [op_field, field_or, field_other]; decide]
  exact (onPattern_neg (pattern_ne 0 (by simp (disch := decide) only [field_or, field_other]; decide))).trans ((onPattern_pos (by simp (disch := decide) only [mask_or, place_mask]; decide)).trans (by simp (disch := decide) only [field_or, field_other, field_same, field_const, BitVec.or_zero]))

theorem kmovKt (d : BitVec 3) : Statement (.kmovKt d) := by
  intro w h
  cases h
  rw [class5 (by simp (disch := decide) only [class_field, field_or, field_other]; decide)]
  unfold decodeClass5
  rw [show wordOp _ = 24#6 from by simp (disch := decide) only [op_field, field_or, field_other]; decide]
  exact (onPattern_neg (pattern_ne 1 (by simp (disch := decide) only [field_or, field_other]; decide))).trans ((onPattern_neg (pattern_ne 0 (by simp (disch := decide) only [field_or, field_other]; decide))).trans ((onPattern_pos (by simp (disch := decide) only [mask_or, place_mask]; decide)).trans (by simp (disch := decide) only [field_or, field_same, field_const])))

theorem kopAnd (d : BitVec 3) (a : BitVec 3) (b : BitVec 3) : Statement (.kopAnd d a b) := by
  intro w h
  cases h
  rw [class5 (by simp (disch := decide) only [class_field, field_or, field_other]; decide)]
  unfold decodeClass5
  rw [show wordOp _ = 25#6 from by simp (disch := decide) only [op_field, field_or, field_other]; decide]
  exact (onPattern_pos (by simp (disch := decide) only [mask_or, place_mask]; decide)).trans (by simp (disch := decide) only [field_or, field_other, field_same, field_const, BitVec.or_zero])

theorem kopOr (d : BitVec 3) (a : BitVec 3) (b : BitVec 3) : Statement (.kopOr d a b) := by
  intro w h
  cases h
  rw [class5 (by simp (disch := decide) only [class_field, field_or, field_other]; decide)]
  unfold decodeClass5
  rw [show wordOp _ = 25#6 from by simp (disch := decide) only [op_field, field_or, field_other]; decide]
  exact (onPattern_neg (pattern_ne 0 (by simp (disch := decide) only [field_or, field_other]; decide))).trans ((onPattern_pos (by simp (disch := decide) only [mask_or, place_mask]; decide)).trans (by simp (disch := decide) only [field_or, field_other, field_same, field_const, BitVec.or_zero]))

theorem kopXor (d : BitVec 3) (a : BitVec 3) (b : BitVec 3) : Statement (.kopXor d a b) := by
  intro w h
  cases h
  rw [class5 (by simp (disch := decide) only [class_field, field_or, field_other]; decide)]
  unfold decodeClass5
  rw [show wordOp _ = 25#6 from by simp (disch := decide) only [op_field, field_or, field_other]; decide]
  exact (onPattern_neg (pattern_ne 1 (by simp (disch := decide) only [field_or, field_other]; decide))).trans ((onPattern_neg (pattern_ne 0 (by simp (disch := decide) only [field_or, field_other]; decide))).trans ((onPattern_pos (by simp (disch := decide) only [mask_or, place_mask]; decide)).trans (by simp (disch := decide) only [field_or, field_other, field_same, field_const, BitVec.or_zero])))

theorem kopAndn (d : BitVec 3) (a : BitVec 3) (b : BitVec 3) : Statement (.kopAndn d a b) := by
  intro w h
  cases h
  rw [class5 (by simp (disch := decide) only [class_field, field_or, field_other]; decide)]
  unfold decodeClass5
  rw [show wordOp _ = 25#6 from by simp (disch := decide) only [op_field, field_or, field_other]; decide]
  exact (onPattern_neg (pattern_ne 0 (by simp (disch := decide) only [field_or, field_other]; decide))).trans ((onPattern_neg (pattern_ne 1 (by simp (disch := decide) only [field_or, field_other]; decide))).trans ((onPattern_neg (pattern_ne 0 (by simp (disch := decide) only [field_or, field_other]; decide))).trans ((onPattern_pos (by simp (disch := decide) only [mask_or, place_mask]; decide)).trans (by simp (disch := decide) only [field_or, field_other, field_same, field_const, BitVec.or_zero]))))

theorem vsclSet (d : Reg) (a : Reg) (j : BitVec 2) : Statement (.vsclSet d a j) := by
  intro w h
  cases h
  rw [class5 (by simp (disch := decide) only [class_field, field_or, field_other]; decide)]
  unfold decodeClass5
  rw [show wordOp _ = 26#6 from by simp (disch := decide) only [op_field, field_or, field_other]; decide]
  exact (onPattern_pos (by simp (disch := decide) only [mask_or, place_mask]; decide)).trans (by simp (disch := decide) only [field_or, field_other, field_same, field_const, BitVec.or_zero])

theorem vsclSeta (d : Reg) (a : Reg) : Statement (.vsclSeta d a) := by
  intro w h
  cases h
  rw [class5 (by simp (disch := decide) only [class_field, field_or, field_other]; decide)]
  unfold decodeClass5
  rw [show wordOp _ = 26#6 from by simp (disch := decide) only [op_field, field_or, field_other]; decide]
  exact (onPattern_neg (pattern_ne 3 (by simp (disch := decide) only [field_or, field_other]; decide))).trans ((onPattern_pos (by simp (disch := decide) only [mask_or, place_mask]; decide)).trans (by simp (disch := decide) only [field_or, field_other, field_same, field_const, BitVec.or_zero]))

theorem vsclGet (d : Reg) (a : Reg) (j : BitVec 2) : Statement (.vsclGet d a j) := by
  intro w h
  cases h
  rw [class5 (by simp (disch := decide) only [class_field, field_or, field_other]; decide)]
  unfold decodeClass5
  rw [show wordOp _ = 26#6 from by simp (disch := decide) only [op_field, field_or, field_other]; decide]
  exact (onPattern_neg (pattern_ne 0 (by simp (disch := decide) only [field_or, field_other]; decide))).trans ((onPattern_neg (pattern_ne 0 (by simp (disch := decide) only [field_or, field_other]; decide))).trans ((onPattern_pos (by simp (disch := decide) only [mask_or, place_mask]; decide)).trans (by simp (disch := decide) only [field_or, field_other, field_same, field_const, BitVec.or_zero])))

theorem mrow (t : BitVec 3) (x : Reg) (v : Reg) (q : BitVec 2) (k : BitVec 3) (r : BitVec 1) : Statement (.mrow t x v q k r) := by
  intro w h
  cases h
  rw [class6 (by simp (disch := decide) only [class_field, field_or, field_other]; decide)]
  unfold decodeClass6
  rw [show wordOp _ = 0#6 from by simp (disch := decide) only [op_field, field_or, field_other]; decide]
  exact (onPattern_pos (by simp (disch := decide) only [mask_or, place_mask]; decide)).trans (by simp (disch := decide) only [field_or, field_other, field_same, field_const, BitVec.or_zero])

theorem mrowp (t : BitVec 3) (x : Reg) (v : Reg) (q : BitVec 2) (k : BitVec 3) (r : BitVec 1) : Statement (.mrowp t x v q k r) := by
  intro w h
  cases h
  rw [class6 (by simp (disch := decide) only [class_field, field_or, field_other]; decide)]
  unfold decodeClass6
  rw [show wordOp _ = 1#6 from by simp (disch := decide) only [op_field, field_or, field_other]; decide]
  exact (onPattern_pos (by simp (disch := decide) only [mask_or, place_mask]; decide)).trans (by simp (disch := decide) only [field_or, field_other, field_same, field_const, BitVec.or_zero])

theorem mrowz (t : BitVec 3) (x : Reg) (v : Reg) (q : BitVec 2) (k : BitVec 3) (r : BitVec 1) : Statement (.mrowz t x v q k r) := by
  intro w h
  cases h
  rw [class6 (by simp (disch := decide) only [class_field, field_or, field_other]; decide)]
  unfold decodeClass6
  rw [show wordOp _ = 2#6 from by simp (disch := decide) only [op_field, field_or, field_other]; decide]
  exact (onPattern_pos (by simp (disch := decide) only [mask_or, place_mask]; decide)).trans (by simp (disch := decide) only [field_or, field_other, field_same, field_const, BitVec.or_zero])

theorem mrowzp (t : BitVec 3) (x : Reg) (v : Reg) (q : BitVec 2) (k : BitVec 3) (r : BitVec 1) : Statement (.mrowzp t x v q k r) := by
  intro w h
  cases h
  rw [class6 (by simp (disch := decide) only [class_field, field_or, field_other]; decide)]
  unfold decodeClass6
  rw [show wordOp _ = 3#6 from by simp (disch := decide) only [op_field, field_or, field_other]; decide]
  exact (onPattern_pos (by simp (disch := decide) only [mask_or, place_mask]; decide)).trans (by simp (disch := decide) only [field_or, field_other, field_same, field_const, BitVec.or_zero])

theorem tzero (t : BitVec 3) : Statement (.tzero t) := by
  intro w h
  cases h
  rw [class6 (by simp (disch := decide) only [class_field, field_or, field_other]; decide)]
  unfold decodeClass6
  rw [show wordOp _ = 4#6 from by simp (disch := decide) only [op_field, field_or, field_other]; decide]
  exact (onPattern_pos (by simp (disch := decide) only [mask_or, place_mask]; decide)).trans (by simp (disch := decide) only [field_or, field_same, field_const])

theorem tload (t : BitVec 3) (x : Reg) (v : Reg) (k : BitVec 3) : Statement (.tload t x v k) := by
  intro w h
  cases h
  rw [class6 (by simp (disch := decide) only [class_field, field_or, field_other]; decide)]
  unfold decodeClass6
  rw [show wordOp _ = 5#6 from by simp (disch := decide) only [op_field, field_or, field_other]; decide]
  exact (onPattern_pos (by simp (disch := decide) only [mask_or, place_mask]; decide)).trans (by simp (disch := decide) only [field_or, field_other, field_same, field_const, BitVec.or_zero])

theorem tstore (t : BitVec 3) (x : Reg) (v : Reg) (k : BitVec 3) : Statement (.tstore t x v k) := by
  intro w h
  cases h
  rw [class6 (by simp (disch := decide) only [class_field, field_or, field_other]; decide)]
  unfold decodeClass6
  rw [show wordOp _ = 6#6 from by simp (disch := decide) only [op_field, field_or, field_other]; decide]
  exact (onPattern_pos (by simp (disch := decide) only [mask_or, place_mask]; decide)).trans (by simp (disch := decide) only [field_or, field_other, field_same, field_const, BitVec.or_zero])

theorem tmovv (t : BitVec 3) (x : Reg) (v : Reg) : Statement (.tmovv t x v) := by
  intro w h
  cases h
  rw [class6 (by simp (disch := decide) only [class_field, field_or, field_other]; decide)]
  unfold decodeClass6
  rw [show wordOp _ = 7#6 from by simp (disch := decide) only [op_field, field_or, field_other]; decide]
  exact (onPattern_pos (by simp (disch := decide) only [mask_or, place_mask]; decide)).trans (by simp (disch := decide) only [field_or, field_other, field_same, field_const, BitVec.or_zero])

theorem tvmov (t : BitVec 3) (x : Reg) (v : Reg) : Statement (.tvmov t x v) := by
  intro w h
  cases h
  rw [class6 (by simp (disch := decide) only [class_field, field_or, field_other]; decide)]
  unfold decodeClass6
  rw [show wordOp _ = 8#6 from by simp (disch := decide) only [op_field, field_or, field_other]; decide]
  exact (onPattern_pos (by simp (disch := decide) only [mask_or, place_mask]; decide)).trans (by simp (disch := decide) only [field_or, field_other, field_same, field_const, BitVec.or_zero])

theorem tstat (t : BitVec 3) (x : Reg) : Statement (.tstat t x) := by
  intro w h
  cases h
  rw [class6 (by simp (disch := decide) only [class_field, field_or, field_other]; decide)]
  unfold decodeClass6
  rw [show wordOp _ = 9#6 from by simp (disch := decide) only [op_field, field_or, field_other]; decide]
  exact (onPattern_pos (by simp (disch := decide) only [mask_or, place_mask]; decide)).trans (by simp (disch := decide) only [field_or, field_other, field_same, field_const, BitVec.or_zero])

theorem trcfg (x : Reg) (v : Reg) (q : BitVec 2) : Statement (.trcfg x v q) := by
  intro w h
  cases h
  rw [class6 (by simp (disch := decide) only [class_field, field_or, field_other]; decide)]
  unfold decodeClass6
  rw [show wordOp _ = 10#6 from by simp (disch := decide) only [op_field, field_or, field_other]; decide]
  exact (onPattern_pos (by simp (disch := decide) only [mask_or, place_mask]; decide)).trans (by simp (disch := decide) only [field_or, field_other, field_same, field_const, BitVec.or_zero])

theorem trpop (q : BitVec 2) : Statement (.trpop q) := by
  intro w h
  cases h
  rw [class6 (by simp (disch := decide) only [class_field, field_or, field_other]; decide)]
  unfold decodeClass6
  rw [show wordOp _ = 11#6 from by simp (disch := decide) only [op_field, field_or, field_other]; decide]
  exact (onPattern_pos (by simp (disch := decide) only [mask_or, place_mask]; decide)).trans (by simp (disch := decide) only [field_or, field_same, field_const])

theorem trstat (x : Reg) (q : BitVec 2) : Statement (.trstat x q) := by
  intro w h
  cases h
  rw [class6 (by simp (disch := decide) only [class_field, field_or, field_other]; decide)]
  unfold decodeClass6
  rw [show wordOp _ = 12#6 from by simp (disch := decide) only [op_field, field_or, field_other]; decide]
  exact (onPattern_pos (by simp (disch := decide) only [mask_or, place_mask]; decide)).trans (by simp (disch := decide) only [field_or, field_other, field_same, field_const, BitVec.or_zero])

theorem fbegin (k : BitVec 3) : Statement (.fbegin k) := by
  intro w h
  cases h
  rw [class6 (by simp (disch := decide) only [class_field, field_or, field_other]; decide)]
  unfold decodeClass6
  rw [show wordOp _ = 16#6 from by simp (disch := decide) only [op_field, field_or, field_other]; decide]
  exact (onPattern_pos (by simp (disch := decide) only [mask_or, place_mask]; decide)).trans (by simp (disch := decide) only [field_or, field_same, field_const])

theorem fcol (x : Reg) : Statement (.fcol x) := by
  intro w h
  cases h
  rw [class6 (by simp (disch := decide) only [class_field, field_or, field_other]; decide)]
  unfold decodeClass6
  rw [show wordOp _ = 17#6 from by simp (disch := decide) only [op_field, field_or, field_other]; decide]
  exact (onPattern_pos (by simp (disch := decide) only [mask_or, place_mask]; decide)).trans (by simp (disch := decide) only [field_or, field_same, field_const])

theorem fcoln (x : Reg) (g : BitVec 2) : Statement (.fcoln x g) := by
  intro w h
  cases h
  rw [class6 (by simp (disch := decide) only [class_field, field_or, field_other]; decide)]
  unfold decodeClass6
  rw [show wordOp _ = 18#6 from by simp (disch := decide) only [op_field, field_or, field_other]; decide]
  exact (onPattern_pos (by simp (disch := decide) only [mask_or, place_mask]; decide)).trans (by simp (disch := decide) only [field_or, field_other, field_same, field_const, BitVec.or_zero])

theorem ngjoin (x : Reg) (g : BitVec 2) : Statement (.ngjoin x g) := by
  intro w h
  cases h
  rw [class6 (by simp (disch := decide) only [class_field, field_or, field_other]; decide)]
  unfold decodeClass6
  rw [show wordOp _ = 19#6 from by simp (disch := decide) only [op_field, field_or, field_other]; decide]
  exact (onPattern_pos (by simp (disch := decide) only [mask_or, place_mask]; decide)).trans (by simp (disch := decide) only [field_or, field_other, field_same, field_const, BitVec.or_zero])

theorem ngleave (g : BitVec 2) : Statement (.ngleave g) := by
  intro w h
  cases h
  rw [class6 (by simp (disch := decide) only [class_field, field_or, field_other]; decide)]
  unfold decodeClass6
  rw [show wordOp _ = 20#6 from by simp (disch := decide) only [op_field, field_or, field_other]; decide]
  exact (onPattern_pos (by simp (disch := decide) only [mask_or, place_mask]; decide)).trans (by simp (disch := decide) only [field_or, field_same, field_const])

theorem fend : Statement .fend := by
  intro w h
  cases h
  rw [class6 (by decide)]
  unfold decodeClass6
  rw [show wordOp _ = 21#6 from by decide]
  exact (onPattern_pos (by decide))

theorem fmaprd (t : BitVec 3) (x : Reg) : Statement (.fmaprd t x) := by
  intro w h
  cases h
  rw [class6 (by simp (disch := decide) only [class_field, field_or, field_other]; decide)]
  unfold decodeClass6
  rw [show wordOp _ = 22#6 from by simp (disch := decide) only [op_field, field_or, field_other]; decide]
  exact (onPattern_pos (by simp (disch := decide) only [mask_or, place_mask]; decide)).trans (by simp (disch := decide) only [field_or, field_other, field_same, field_const, BitVec.or_zero])

theorem rdph (x : Reg) : Statement (.rdph x) := by
  intro w h
  cases h
  rw [class6 (by simp (disch := decide) only [class_field, field_or, field_other]; decide)]
  unfold decodeClass6
  rw [show wordOp _ = 23#6 from by simp (disch := decide) only [op_field, field_or, field_other]; decide]
  exact (onPattern_pos (by simp (disch := decide) only [mask_or, place_mask]; decide)).trans (by simp (disch := decide) only [field_or, field_same, field_const])

theorem rdgf (x : Reg) : Statement (.rdgf x) := by
  intro w h
  cases h
  rw [class6 (by simp (disch := decide) only [class_field, field_or, field_other]; decide)]
  unfold decodeClass6
  rw [show wordOp _ = 24#6 from by simp (disch := decide) only [op_field, field_or, field_other]; decide]
  exact (onPattern_pos (by simp (disch := decide) only [mask_or, place_mask]; decide)).trans (by simp (disch := decide) only [field_or, field_same, field_const])

theorem tperm (t : BitVec 3) : Statement (.tperm t) := by
  intro w h
  cases h
  rw [class6 (by simp (disch := decide) only [class_field, field_or, field_other]; decide)]
  unfold decodeClass6
  rw [show wordOp _ = 25#6 from by simp (disch := decide) only [op_field, field_or, field_other]; decide]
  exact (onPattern_pos (by simp (disch := decide) only [mask_or, place_mask]; decide)).trans (by simp (disch := decide) only [field_or, field_same, field_const])

theorem cpy (a : Reg) (b : Reg) (s : BitVec 2) : Statement (.cpy a b s) := by
  intro w h
  cases h
  rw [class7 (by simp (disch := decide) only [class_field, field_or, field_other]; decide)]
  unfold decodeClass7
  rw [show wordOp _ = 0#6 from by simp (disch := decide) only [op_field, field_or, field_other]; decide]
  exact (onPattern_pos (by simp (disch := decide) only [mask_or, place_mask]; decide)).trans (by simp (disch := decide) only [field_or, field_other, field_same, field_const, BitVec.or_zero])

theorem cpyq (a : Reg) (b : Reg) (s : BitVec 2) : Statement (.cpyq a b s) := by
  intro w h
  cases h
  rw [class7 (by simp (disch := decide) only [class_field, field_or, field_other]; decide)]
  unfold decodeClass7
  rw [show wordOp _ = 1#6 from by simp (disch := decide) only [op_field, field_or, field_other]; decide]
  exact (onPattern_pos (by simp (disch := decide) only [mask_or, place_mask]; decide)).trans (by simp (disch := decide) only [field_or, field_other, field_same, field_const, BitVec.or_zero])

theorem engstCnt (d : Reg) : Statement (.engstCnt d) := by
  intro w h
  cases h
  rw [class7 (by simp (disch := decide) only [class_field, field_or, field_other]; decide)]
  unfold decodeClass7
  rw [show wordOp _ = 2#6 from by simp (disch := decide) only [op_field, field_or, field_other]; decide]
  exact (onPattern_pos (by simp (disch := decide) only [mask_or, place_mask]; decide)).trans (by simp (disch := decide) only [field_or, field_same, field_const])

theorem engstFva (d : Reg) : Statement (.engstFva d) := by
  intro w h
  cases h
  rw [class7 (by simp (disch := decide) only [class_field, field_or, field_other]; decide)]
  unfold decodeClass7
  rw [show wordOp _ = 2#6 from by simp (disch := decide) only [op_field, field_or, field_other]; decide]
  exact (onPattern_neg (pattern_ne 0 (by simp (disch := decide) only [field_or, field_other]; decide))).trans ((onPattern_pos (by simp (disch := decide) only [mask_or, place_mask]; decide)).trans (by simp (disch := decide) only [field_or, field_same, field_const]))

theorem xsend (a : Reg) (b : Reg) : Statement (.xsend a b) := by
  intro w h
  cases h
  rw [class7 (by simp (disch := decide) only [class_field, field_or, field_other]; decide)]
  unfold decodeClass7
  rw [show wordOp _ = 3#6 from by simp (disch := decide) only [op_field, field_or, field_other]; decide]
  exact (onPattern_pos (by simp (disch := decide) only [mask_or, place_mask]; decide)).trans (by simp (disch := decide) only [field_or, field_other, field_same, field_const, BitVec.or_zero])

theorem xsel (d : Reg) (a : Reg) : Statement (.xsel d a) := by
  intro w h
  cases h
  rw [class7 (by simp (disch := decide) only [class_field, field_or, field_other]; decide)]
  unfold decodeClass7
  rw [show wordOp _ = 4#6 from by simp (disch := decide) only [op_field, field_or, field_other]; decide]
  exact (onPattern_pos (by simp (disch := decide) only [mask_or, place_mask]; decide)).trans (by simp (disch := decide) only [field_or, field_other, field_same, field_const, BitVec.or_zero])

theorem xend : Statement .xend := by
  intro w h
  cases h
  rw [class7 (by decide)]
  unfold decodeClass7
  rw [show wordOp _ = 5#6 from by decide]
  exact (onPattern_pos (by decide))

theorem joinWake : Statement .joinWake := by
  intro w h
  cases h

theorem svwaitWake (key : Nat) : Statement (.svwaitWake key) := by
  intro w h
  cases h

theorem barrierComplete (lid : Word) (form : BitVec 2) : Statement (.barrierComplete lid form) := by
  intro w h
  cases h

theorem inboxWake : Statement .inboxWake := by
  intro w h
  cases h

theorem wfiWake : Statement .wfiWake := by
  intro w h
  cases h

theorem earlyLoadDeferred : Statement .earlyLoadDeferred := by
  intro w h
  cases h

theorem matrixCommit : Statement .matrixCommit := by
  intro w h
  cases h

theorem negotiationRound (c : ClusterPos) (g : BitVec 2) : Statement (.negotiationRound c g) := by
  intro w h
  cases h

theorem storeBufferLeave : Statement .storeBufferLeave := by
  intro w h
  cases h

theorem remoteReply : Statement .remoteReply := by
  intro w h
  cases h

theorem lateRefusal : Statement .lateRefusal := by
  intro w h
  cases h

theorem queuedTrap : Statement .queuedTrap := by
  intro w h
  cases h

theorem interruptTake : Statement .interruptTake := by
  intro w h
  cases h

theorem timeCompare : Statement .timeCompare := by
  intro w h
  cases h

theorem killUnwind : Statement .killUnwind := by
  intro w h
  cases h

theorem steal : Statement .steal := by
  intro w h
  cases h

theorem pageWalk (va : Word) (acc : Access) : Statement (.pageWalk va acc) := by
  intro w h
  cases h

theorem pageService (vf : Nat) (va : Word) (answer : PageAnswer) : Statement (.pageService vf va answer) := by
  intro w h
  cases h

theorem copyOnWrite (vf : Nat) (va : Word) (frame : Nat) : Statement (.copyOnWrite vf va frame) := by
  intro w h
  cases h

theorem tlbInvalidation (vf : Nat) : Statement (.tlbInvalidation vf) := by
  intro w h
  cases h

theorem copyCommandRun (c : ClusterPos) : Statement (.copyCommandRun c) := by
  intro w h
  cases h

theorem cpyqReserve (c : ClusterPos) (q : BitVec 2) : Statement (.cpyqReserve c q) := by
  intro w h
  cases h

theorem copyComplete (c : ClusterPos) : Statement (.copyComplete c) := by
  intro w h
  cases h

theorem exchangeArrival : Statement .exchangeArrival := by
  intro w h
  cases h

theorem doorbell (vf : Nat) (p : Nat) (value : Word) : Statement (.doorbell vf p value) := by
  intro w h
  cases h

theorem qovfClear (vf : Nat) (value : Word) : Statement (.qovfClear vf value) := by
  intro w h
  cases h

theorem headCheck (vf : Nat) (p : Nat) : Statement (.headCheck vf p) := by
  intro w h
  cases h

theorem dependenceTest (fold : Nat) : Statement (.dependenceTest fold) := by
  intro w h
  cases h

theorem chooseLaunch (fold : Nat) : Statement (.chooseLaunch fold) := by
  intro w h
  cases h

theorem clusterTakeLaunch (c : ClusterPos) (lid : Word) : Statement (.clusterTakeLaunch c lid) := by
  intro w h
  cases h

theorem strandStart (p : CorePos) : Statement (.strandStart p) := by
  intro w h
  cases h

theorem counterReport (lid : Word) (node : TreeNode) : Statement (.counterReport lid node) := by
  intro w h
  cases h

theorem sliceEnd (fold : Nat) : Statement (.sliceEnd fold) := by
  intro w h
  cases h

theorem gangSwitchOut (fold : Nat) : Statement (.gangSwitchOut fold) := by
  intro w h
  cases h

theorem gangSwitchIn (fold : Nat) (vf : Nat) (tagsOk : Bool) : Statement (.gangSwitchIn fold vf tagsOk) := by
  intro w h
  cases h

theorem nprOverrun : Statement .nprOverrun := by
  intro w h
  cases h

theorem packetHop (i : Nat) : Statement (.packetHop i) := by
  intro w h
  cases h

theorem packetDeliver (i : Nat) : Statement (.packetDeliver i) := by
  intro w h
  cases h

theorem uncorrectableError (place : ErrPlace) (keys : List Nat) : Statement (.uncorrectableError place keys) := by
  intro w h
  cases h

theorem powerOn : Statement .powerOn := by
  intro w h
  cases h

theorem moduleWarmReset : Statement .moduleWarmReset := by
  intro w h
  cases h

theorem mbstatDoneClear : Statement .mbstatDoneClear := by
  intro w h
  cases h

theorem foldnew (fr : Frame) (body : FoldNewBody) : Statement (.foldnew fr body) := by
  intro w h
  cases h

theorem folddel (fr : Frame) (fold : Nat) : Statement (.folddel fr fold) := by
  intro w h
  cases h

theorem foldreset (fr : Option Frame) (fold : Nat) : Statement (.foldreset fr fold) := by
  intro w h
  cases h

theorem foldsetFoldmode (fr : Frame) (fold : Nat) (mode : BitVec 7) : Statement (.foldsetFoldmode fr fold mode) := by
  intro w h
  cases h

theorem foldsetPolicy (fr : Frame) (fold : Nat) (policy : Nat) : Statement (.foldsetPolicy fr fold policy) := by
  intro w h
  cases h

theorem foldsetCodeKey (fr : Frame) (fold : Nat) (key : PubKey) : Statement (.foldsetCodeKey fr fold key) := by
  intro w h
  cases h

theorem foldsetWatchdogTimes (fr : Frame) (fold : Nat) (times : Vector Nat 6) : Statement (.foldsetWatchdogTimes fr fold times) := by
  intro w h
  cases h

theorem vfset (fr : Frame) (body : VfSetBody) : Statement (.vfset fr body) := by
  intro w h
  cases h

theorem vfdel (fr : Frame) (vf : Nat) : Statement (.vfdel fr vf) := by
  intro w h
  cases h

theorem rct (fr : Frame) (fold : Nat) (table : List (BitVec 32)) : Statement (.rct fr fold table) := by
  intro w h
  cases h

theorem handleExport (fr : Frame) (body : HandleBody) : Statement (.handleExport fr body) := by
  intro w h
  cases h

theorem handleInstall (fr : Frame) (body : HandleBody) : Statement (.handleInstall fr body) := by
  intro w h
  cases h

theorem handleRevoke (fr : Frame) (body : HandleBody) : Statement (.handleRevoke fr body) := by
  intro w h
  cases h

theorem snapshot (fr : Frame) (vf : Nat) : Statement (.snapshot fr vf) := by
  intro w h
  cases h

theorem migrate (fr : Frame) (vf : Nat) (destFold : Nat) (delta : Nat) (endpoint : Nat) (destOk : Bool) : Statement (.migrate fr vf destFold delta endpoint destOk) := by
  intro w h
  cases h

theorem stage (fr : Frame) (image : List Byte) : Statement (.stage fr image) := by
  intro w h
  cases h

theorem droverSwap : Statement .droverSwap := by
  intro w h
  cases h

theorem commit (fr : Frame) (kind : Nat) : Statement (.commit fr kind) := by
  intro w h
  cases h

theorem identity (fr : Frame) : Statement (.identity fr) := by
  intro w h
  cases h

theorem quote (fr : Frame) (nonce : Nat) : Statement (.quote fr nonce) := by
  intro w h
  cases h

theorem telemetry (fr : Frame) (first : Nat) : Statement (.telemetry fr first) := by
  intro w h
  cases h

theorem raslog (fr : Frame) (first : Nat) : Statement (.raslog fr first) := by
  intro w h
  cases h

theorem load (fr : Frame) (vf : Nat) (plan : LoadPlan) : Statement (.load fr vf plan) := by
  intro w h
  cases h

theorem keyadd (fr : Frame) (keyid : Nat) (key : PubKey) : Statement (.keyadd fr keyid key) := by
  intro w h
  cases h

theorem keydel (fr : Frame) (keyid : Nat) : Statement (.keydel fr keyid) := by
  intro w h
  cases h

theorem pgdone (fold : Nat) (vf : Nat) (va : Word) (answer : Word) : Statement (.pgdone fold vf va answer) := by
  intro w h
  cases h

theorem cowdone (fold : Nat) (vf : Nat) (va : Word) : Statement (.cowdone fold vf va) := by
  intro w h
  cases h

theorem nextvf (fold : Nat) (vf : Nat) : Statement (.nextvf fold vf) := by
  intro w h
  cases h

theorem start (fold : Nat) (lid : Word) : Statement (.start fold lid) := by
  intro w h
  cases h

theorem refuse (fold : Nat) (lid : Word) (status : Word) : Statement (.refuse fold lid status) := by
  intro w h
  cases h

theorem placego (fold : Nat) (lid : Word) (die : Nat) (wave : Nat) : Statement (.placego fold lid die wave) := by
  intro w h
  cases h

theorem containact (fold : Nat) (lid : Word) (policy : Word) : Statement (.containact fold lid policy) := by
  intro w h
  cases h

theorem d2hheadWrite (fold : Nat) (value : Word) : Statement (.d2hheadWrite fold value) := by
  intro w h
  cases h

theorem drvbeatWrite (die : Nat) (value : Word) : Statement (.drvbeatWrite die value) := by
  intro w h
  cases h

theorem watchdogStage (fold : Nat) : Statement (.watchdogStage fold) := by
  intro w h
  cases h

theorem registerWrite (r : DevReg) (value : Word) : Statement (.registerWrite r value) := by
  intro w h
  cases h

theorem unitIssue (u : QUnit) : Statement (.unitIssue u) := by
  intro w h
  cases h

theorem illegalInstruction (w : InstrWord) : Statement (.illegalInstruction w) := by
  intro w h
  cases h

theorem droverMessage (p : CorePos) (value : Word) : Statement (.droverMessage p value) := by
  intro w h
  cases h

theorem exchangeSend : Statement .exchangeSend := by
  intro w h
  cases h

theorem softError (key : Nat) : Statement (.softError key) := by
  intro w h
  cases h

theorem parityError (line : Nat) : Statement (.parityError line) := by
  intro w h
  cases h

theorem prefFill : Statement .prefFill := by
  intro w h
  cases h

theorem hostAccess (fold : Nat) (pa : Nat) (op : HostOp) : Statement (.hostAccess fold pa op) := by
  intro w h
  cases h

theorem unknownCode (fr : Frame) : Statement (.unknownCode fr) := by
  intro w h
  cases h

end Encoding

end Sys2Proof.Laws
end

