-- ==== Sys2Proof/Laws/Requests.lean ====
section
/-!
SUPPORT. Laws/Requests.lean: what serving a request frame comes to (R441 to R445), once for every request.
-/

namespace Sys2Proof

open Machine

/-- A registered key is the entry of its KEYID. -/
theorem keyOf_registered {s : State} {id : Nat} {k : OperatorKey} (h : registered s id = some k) : keyOf s id = some k := by
  simp only [registered, Option.filter_eq_some_iff] at h
  exact h.1

/-- A frame that passes every check of R442 is acted on with its COUNT recorded. -/
theorem serve_ok {fr : Frame} {s : State} {code : Nat} {k : OperatorKey} (h : FrameOk s fr code k) (n : String)
    (act : State → List Byte → Served) :
    serve n code fr s act = match act (counted s fr k) (bodyOf fr) with
      | .refused st => .next (answerFrame (counted s fr k) (headerOf fr) st [])
      | .ok u b => .next (answerServed (counted s fr k) u (headerOf fr) b)
      | .started u => .next u := by
  obtain ⟨⟨h5, hp, hj, hb⟩, hc, hf, hr, ⟨key, hk, hs⟩, hn⟩ := h
  have stale : isStale k (headerOf fr) = false := by
    cases hq : k.count with
    | none => simp [isStale, hq]
    | some c => simpa [isStale, hq] using hn c hq
  have status : frameStatus s fr = none := by simp [frameStatus, hf, hr, hk, hs, stale]
  have idle : (fr.viaPcie && !isSubmitted s fr && (s.svc.busy || s.svc.done)) = false := by
    rcases hb with h1 | ⟨_, h1⟩
    · simp [h1]
    · cases hv : fr.viaPcie with
      | false => rfl
      | true => simp [h1 hv]
  have turn : (s.svc.submitted.isSome && !isSubmitted s fr) = false := by
    rcases hb with h1 | ⟨h1, _⟩ <;> simp [h1]
  have counts : recordCount s (headerOf fr) = counted s fr k := by simp [recordCount, counted, keyOf_registered hr]
  have via : (headerOf fr).viaPcie = fr.viaPcie := rfl
  unfold serve
  simp only [hc, h5, hp, hj, via, idle, turn, status, counts, ne_eq, not_true_eq_false, decide_false, Bool.or_false,
    Bool.false_eq_true, if_false, Option.isSome_none] <;> (cases act (counted s fr k) (bodyOf fr) <;> rfl)

/-- The answer of a request is the frame of R442 with its STATUS and body. -/
theorem answers_of {i : Instr} {s u : State} {fr : Frame} {st : Nat} {b : List Byte}
    (h : exec i s = .next (answerFrame u (headerOf fr) st b)) : Answers i s fr st b u := by
  refine ⟨_, h, ?_, fun hv => ?_, fun hv => ?_⟩
  · unfold answerFrame; split <;> rfl
  · simp only [answerFrame, hv, if_true, setSvc, rsaBytes]
  · simp only [answerFrame, hv, if_false, setSvc, Bool.false_eq_true]

section
variable {i : Instr} {s : State} {fr : Frame} {code : Nat} {k : OperatorKey} {n : String} {α : Type} [DecidableEq α]
  {parse : List Byte → Option α} {x : α} {act : State → Served}

/-- A request whose body gives its operands is refused where its rule refuses it, with nothing changed but COUNT (R444). -/
theorem servePar_refused {st : Nat} (hx : exec i s = servePar n code fr s parse x act) (h : FrameOk s fr code k)
    (hp : parse (bodyOf fr) = some x) (ha : act (counted s fr k) = .refused st) : Answers i s fr st [] (counted s fr k) :=
  answers_of (by rw [hx, servePar, if_neg (by simp [hp]), serve_ok h]; simp [hp, ha])

/-- A body that the response buffer holds is answered with STATUS 0 (R443, R444). -/
theorem answerServed_fits {s u : State} {h : ReqHdr} {b : List Byte} (hb : b.length ≤ bodyLimit) : answerServed s u h b = answerFrame u h 0 b :=
  if_neg (Nat.not_lt.2 hb)

/-- A request whose body gives its operands has its effect, and is answered with STATUS 0 (R444). -/
theorem servePar_done {u : State} {b : List Byte} (hx : exec i s = servePar n code fr s parse x act) (h : FrameOk s fr code k)
    (hp : parse (bodyOf fr) = some x) (ha : act (counted s fr k) = .ok u b) (hb : b.length ≤ bodyLimit) : Answers i s fr 0 b u :=
  answers_of (by rw [hx, servePar, if_neg (by simp [hp]), serve_ok h]; simp [hp, ha, answerServed_fits hb])

/-- A request whose body breaks its layout is answered with STATUS 4 (R444, R445). -/
theorem servePar_malformed (hx : exec i s = servePar n code fr s parse x act) (h : FrameOk s fr code k)
    (hp : parse (bodyOf fr) = none) : Answers i s fr 4 [] (counted s fr k) :=
  answers_of (by rw [hx, servePar, if_neg (by simp [hp]), serve_ok h]; simp [hp])

/-- A request that is taken up is answered later (R454, R455). -/
theorem servePar_started {u : State} (hx : exec i s = servePar n code fr s parse x act) (h : FrameOk s fr code k)
    (hp : parse (bodyOf fr) = some x) (ha : act (counted s fr k) = .started u) : exec i s = .next u := by
  rw [hx, servePar, if_neg (by simp [hp]), serve_ok h]; simp [hp, ha]

end

/-- A form of FOLDSET serves the frames whose WHAT is its own (R445). -/
theorem foldset_serves {α : Type} [DecidableEq α] {fr : Frame} {what : Nat} (h : leField (bodyOf fr) 1 1 = what) (hw : what ≤ 3) (name : String)
    (n : Nat) (value : List Byte → Option α) (fold : Nat) (x : α) (change : Fold → Fold) (s : State) :
    foldset name what n fr value fold x change s = servePar name 0x04 fr s (parseFoldset what n value) (fold, x) fun s1 =>
      match foldAt s1 fold with
      | none => .refused 6
      | some f => .ok (setFold s1 (change f)) [] :=
  if_neg (by simp [foldsetForm, h, hw])

/-- A form of HANDLE serves the frames whose OP is its own (R445). -/
theorem serveHandle_serves {fr : Frame} {op : Nat} (h : handleOp (bodyOf fr) = op) (hw : op ≤ 2) (name : String) (b : HandleBody) (s : State)
    (act : State → Served) : serveHandle name op fr b s act = servePar name 0x13 fr s (parseHandle op) b act :=
  if_neg (by simp [handleForm, h, hw])

end Sys2Proof
end

