-- ==== Sys2Proof/Tests/Slice0.lean ====
section
/-!
SUPPORT. Tests/Slice0.lean: ill-formed terms that the checks refuse, words written out from the encoding tables, a witness for the
hypotheses of every statement, and worked examples of the spec, one step each.
-/

namespace Sys2Proof

open Sys2Proof.Machine

namespace Tests

set_option Elab.async false

/-- The state of a placed word ADD x0, x0, x0: a strand of a VF that runs, whose PC names the word. -/
def base : State := State.reset.withFetchWord 32 0

/-- The base state with the core in focus changed. -/
def core (f : Core → Core) : State := { base with core := f base.core }

/-- The base state with some x registers. -/
def withX (l : List (Nat × Word)) : State :=
  core fun c => { c with regs := { c.regs with x := l.foldl (fun v p => vset v p.1 p.2) c.regs.x } }

/-- The next state of an outcome. -/
def next (r : Host.Outcome State Fault Refusal) : State :=
  match r with
  | .next s => s
  | _ => State.reset

/-- A launch of one strand that has one loop level of each kind, takes triggers and supersteps. -/
def rec0 : LaunchRec :=
  { format := 1, nlevels := 3, prio := 0, flags := 3, split := 0, entry := 0x10000, lframe := 0x20000, image := 0, compl := 0x20800,
    creg := 0, treg := 0, tmpl := #v[0x3800, 0x3400, 0x3001], loops := #v[0x0000010000000201, 0x0000010000008002, 0x0000100000000307, 0, 0, 0],
    trough := Vector.replicate 4 0, deps := Vector.replicate 4 0, gtab := 0, gtcnt := 0, res0Zero := true }

/-- The launch of the record, with one strand that is started on the core in focus. -/
def launch0 : Launch :=
  { newLaunch 0 fetchVf 0 rec0 0x20800 with
    phase := .placed, trips := #v[2, 1, 3, 1, 1, 1], nd := 2, nc := 1, waves := [(base.core.pos, 1)], nodes := [(.root, 0)], trigger := 2 }

/-- The base state with the launch. -/
def launched : State := { base with launches := [launch0] }

/-- A frame of 8 slots at depth 2 in the core's TCM. -/
def framed : State := core fun c => { c with regs := { c.regs with
  depth := 2, d := vset c.regs.d 2 (tcmVa c.pos 0), shadow := vset c.regs.shadow 2 0x3008, frames := [⟨0, 104, 0x3008⟩] } }

/-! ## Ill-formed instructions -/

theorem test_ill_formed_scalar :
    ([.facc 1 0 0 0, .facc 1 0 0 7, .ffold 1 2 7, .loop 6 1 1, .loop 0 1 0, .loopt 0 6 1, .loopt 6 0 1, .loops 6 1 0 1, .loops 0 1 0 0,
      .lbrk 6, .bst 0 6 1] : List Instr).all (fun i => !i.wellFormed) = true := by decide

theorem test_ill_formed_sync : ([.lidx 1 6, .svmax 1 2 3 3 0 0 0, .svmin 1 2 3 3 0 0 0] : List Instr).all (fun i => !i.wellFormed) = true := by
  decide

theorem test_ill_formed_vector :
    ([.vadd 30 1 2 0, .vadd 1 31 2 0, .vadd 1 2 31 0, .vfma 30 1 2 0, .vfma 31 1 2 0, .vabs 30 1, .vneg 1 31, .vcmp 1 31 2 0 0,
      .vcmp 1 2 31 0 0, .vcmp 1 2 3 0 7, .vsel 30 1 2 0 1, .vbc 30 1, .viota 30] : List Instr).all (fun i => !i.wellFormed) = true := by decide

theorem test_ill_formed_vector_memory :
    ([.vldg 1 2 31 0, .vldmx 30 1 2, .vstg 1 2 31 0, .vcvt 1 2 0 11, .vcvt 30 2 0 1, .vcvtn 1 2 1 1, .vcvtn 1 31 0 0] : List Instr).all
      (fun i => !i.wellFormed) = true := by decide

theorem test_ill_formed_permute :
    ([.vslideUp 30 1 2, .vslideDn 1 31 2, .vzip 1 2 31 0, .vunzip 30 1 2 0, .vredadd 1 31, .vredmax 1 31, .vredmin 1 31, .vmvx 1 31 2,
      .vins 31 1 2, .mstg 0 6, .vsclSet 30 1 0, .vsclSeta 31 1, .vsclGet 1 30 0] : List Instr).all (fun i => !i.wellFormed) = true := by decide

theorem test_ill_formed_matrix :
    ([.mrow 0 1 31 0 0 0, .mrowp 0 1 31 0 0 0, .mrowz 0 1 31 0 0 0, .mrowzp 0 1 31 0 0 0, .tmovv 0 1 30, .tvmov 0 1 31, .xsend 31 1,
      .xsel 30 1] : List Instr).all (fun i => !i.wellFormed) = true := by decide

theorem test_ill_formed_events :
    ([.negotiationRound ⟨32, 0, 0⟩ 0, .copyCommandRun ⟨0, 16, 0⟩, .cpyqReserve ⟨0, 0, 8⟩ 0, .copyComplete ⟨32, 0, 0⟩,
      .clusterTakeLaunch ⟨0, 16, 0⟩ 1, .strandStart ⟨0, 0, 0, 64⟩, .droverMessage ⟨32, 0, 0, 0⟩ 1, .counterReport 1 (.cluster ⟨0, 0, 8⟩),
      .counterReport 1 (.die 32), .drvbeatWrite 32 0] : List Instr).all (fun i => !i.wellFormed) = true := by decide

/-- Words that the encodings do not allow are refused: an unassigned opcode, a reserved bit, a level of 6, a FACC without an operator,
v31 as a source, and d = 30 of an instruction that is no vector load. -/
theorem test_decode_refuses :
    ([0xFFFFFFFF, 0x00000001, 0x44180001, 0x29800000, 0x8007E000, 0x80780000] : List Nat).all
      (fun w => (decodeTableWord 32 w).isNone) = true := by decide

theorem test_table_word : decodeTableWord 32 0x2214C010 = some (.lw 5 6 0x010) := by decide

/-! ## Words of every instruction, put together from the fields that the encoding tables give -/

theorem test_decode_1 :
    [decodeWord 0x00152C00#32, decodeWord 0x00A59300#32, decodeWord 0x01327500#32, decodeWord 0x01CEBB00#32, decodeWord 0x02576500#32,
      decodeWord 0x02ECA900#32, decodeWord 0x03152C00#32, decodeWord 0x03A59300#32, decodeWord 0x04327500#32, decodeWord 0x04CEBB00#32] =
      [.ok (.add 5 9 12), .ok (.sub 9 12 19), .ok (.and 12 19 21), .ok (.or 19 21 27), .ok (.xor 21 27 5),
        .ok (.sll 27 5 9), .ok (.srl 5 9 12), .ok (.sra 9 12 19), .ok (.slt 12 19 21), .ok (.sltu 19 21 27)] := by rfl

theorem test_decode_2 :
    [decodeWord 0x05576500#32, decodeWord 0x05ECA900#32, decodeWord 0x06152C00#32, decodeWord 0x06A59300#32, decodeWord 0x07327500#32,
      decodeWord 0x07CEBB00#32, decodeWord 0x08576500#32, decodeWord 0x08ECA900#32, decodeWord 0x09152C00#32, decodeWord 0x09A59300#32] =
      [.ok (.min 21 27 5), .ok (.max 27 5 9), .ok (.minu 5 9 12), .ok (.maxu 9 12 19), .ok (.mul 12 19 21),
        .ok (.mulh 19 21 27), .ok (.mulhu 21 27 5), .ok (.div 27 5 9), .ok (.divu 5 9 12), .ok (.rem 9 12 19)] := by rfl

theorem test_decode_3 :
    [decodeWord 0x0A327500#32, decodeWord 0x0ACEA000#32, decodeWord 0x0AD76001#32, decodeWord 0x0AECA002#32, decodeWord 0x0A952003#32,
      decodeWord 0x0C2580C3#32, decodeWord 0x0CB260CA#32, decodeWord 0x0D4EA0D1#32, decodeWord 0x0DD760D8#32, decodeWord 0x0E6CA01F#32] =
      [.ok (.remu 12 19 21), .ok (.bitClz 19 21), .ok (.bitCtz 21 27), .ok (.bitPopc 27 5), .ok (.bitBrev 5 9),
        .ok (.addi 9 12 195), .ok (.andi 12 19 202), .ok (.ori 19 21 209), .ok (.xori 21 27 216), .ok (.slli 27 5 31)] := by rfl

theorem test_decode_4 :
    [decodeWord 0x0E952026#32, decodeWord 0x0F25802D#32, decodeWord 0x0FB260F4#32, decodeWord 0x104EA0FB#32, decodeWord 0x10D420F7#32,
      decodeWord 0x116C20FE#32, decodeWord 0x11942105#32, decodeWord 0x14259300#32, decodeWord 0x14B27500#32, decodeWord 0x154EBB00#32] =
      [.ok (.srli 5 9 38), .ok (.srai 9 12 45), .ok (.slti 12 19 244), .ok (.sltiu 19 21 251), .ok (.lui 21 8439),
        .ok (.auipc 27 8446), .ok (.shor 5 8453), .ok (.fadd 9 12 19), .ok (.fsub 12 19 21), .ok (.fmul 19 21 27)] := by rfl

theorem test_decode_5 :
    [decodeWord 0x15D76500#32, decodeWord 0x166CA900#32, decodeWord 0x16952000#32, decodeWord 0x17259300#32, decodeWord 0x17B27500#32,
      decodeWord 0x184EBB00#32, decodeWord 0x18576501#32, decodeWord 0x186CA902#32, decodeWord 0x18952000#32, decodeWord 0x18A58001#32] =
      [.ok (.fdiv 21 27 5), .ok (.fma 27 5 9), .ok (.fsqrt 5 9), .ok (.fmin 9 12 19), .ok (.fmax 12 19 21),
        .ok (.fcmpEq 19 21 27), .ok (.fcmpLt 21 27 5), .ok (.fcmpLe 27 5 9), .ok (.fcvtI64f 5 9), .ok (.fcvtFi64 9 12)] := by rfl

theorem test_decode_6 :
    [decodeWord 0x18B26002#32, decodeWord 0x18CEA003#32, decodeWord 0x18D76004#32, decodeWord 0x18ECA005#32, decodeWord 0x18952006#32,
      decodeWord 0x18A58007#32, decodeWord 0x2032619C#32, decodeWord 0x20CEA1A3#32, decodeWord 0x215761AA#32, decodeWord 0x21ECA1B1#32] =
      [.ok (.fcvtF16f 12 19), .ok (.fcvtFf16 19 21), .ok (.fcvtB16f 21 27), .ok (.fcvtFb16 27 5), .ok (.fcvtS20f 5 9),
        .ok (.fcvtFs20 9 12), .ok (.lb 12 19 412), .ok (.lbu 19 21 419), .ok (.lh 21 27 426), .ok (.lhu 27 5 433)] := by rfl

theorem test_decode_7 :
    [decodeWord 0x221521B8#32, decodeWord 0x22A581BF#32, decodeWord 0x233261C6#32, decodeWord 0x244EA1CD#32, decodeWord 0x24D761D4#32,
      decodeWord 0x256CA1DB#32, decodeWord 0x259521E2#32, decodeWord 0x260981E9#32, decodeWord 0x26818000#32, decodeWord 0x26826001#32] =
      [.ok (.lw 5 9 440), .ok (.lwu 9 12 447), .ok (.ld 12 19 454), .ok (.sb 19 21 461), .ok (.sh 21 27 468),
        .ok (.sw 27 5 475), .ok (.sd 5 9 482), .ok (.pref 2 12 489), .ok (.cboWb 12), .ok (.cboWbinv 19)] := by rfl

theorem test_decode_8 :
    [decodeWord 0x2682A002#32, decodeWord 0x286E40A0#32, decodeWord 0x2896C180#32, decodeWord 0x2924C260#32, decodeWord 0x29B14345#32,
      decodeWord 0x2A4EA009#32, decodeWord 0x2A800000#32, decodeWord 0x2B6C0005#32, decodeWord 0x2B80A906#32, decodeWord 0x2C000002#32] =
      [.ok (.cboInv 21), .ok (.fld 27 4 517), .ok (.fst 5 5 524), .ok (.fadr 9 1 531), .ok (.facc 12 2 538 5),
        .ok (.fenter 19 21 2 1), .ok .fleave, .ok (.dspr 27 5), .ok (.ffold 5 9 6), .ok (.fpol 2)] := by rfl

theorem test_decode_9 :
    [decodeWord 0x40326244#32, decodeWord 0x40CEA24B#32, decodeWord 0x41576252#32, decodeWord 0x41ECA259#32, decodeWord 0x42152260#32,
      decodeWord 0x42A58267#32, decodeWord 0x43302263#32, decodeWord 0x43CEA275#32, decodeWord 0x4413627C#32, decodeWord 0x44944283#32] =
      [.ok (.beq 12 19 580), .ok (.bne 19 21 587), .ok (.blt 21 27 594), .ok (.bge 27 5 601), .ok (.bltu 5 9 608),
        .ok (.bgeu 9 12 615), .ok (.jal 12 8803), .ok (.jalr 19 21 629), .ok (.loop 4 27 636), .ok (.loopt 5 2 643)] := by rfl

theorem test_decode_10 :
    [decodeWord 0x45053695#32, decodeWord 0x45880000#32, decodeWord 0x46000282#32, decodeWord 0x46800289#32, decodeWord 0x47000006#32,
      decodeWord 0x47800000#32, decodeWord 0x481522B4#32, decodeWord 0x48800000#32, decodeWord 0x49000000#32, decodeWord 0x499442C9#32] =
      [.ok (.loops 1 9 5 661), .ok (.lbrk 2), .ok (.bmz 642), .ok (.bmnz 649), .ok (.gate 6),
        .ok .gret, .ok (.fork 5 9 692), .ok .join, .ok .endStrand, .ok (.bst 5 2 713)] := by rfl

theorem test_decode_11 :
    [decodeWord 0x6002A002#32, decodeWord 0x60836001#32, decodeWord 0x6180A900#32, decodeWord 0x61800001#32, decodeWord 0x61800002#32,
      decodeWord 0x624EA00A#32, decodeWord 0x6282BB05#32, decodeWord 0x636CA90A#32, decodeWord 0x63952C25#32, decodeWord 0x6425931A#32] =
      [.ok (.acq 21 2), .ok (.rel 27 1), .ok (.fenceRange 5 9), .ok .fenceRemote, .ok .fenceAll,
        .ok (.svld 19 21 1 0 2), .ok (.svst 21 27 0 1 1), .ok (.svadd 27 5 9 0 1 0 2), .ok (.svmax 5 9 12 2 0 1 1), .ok (.svmin 9 12 19 1 1 0 2)] := by rfl

theorem test_decode_12 :
    [decodeWord 0x64B2750A#32, decodeWord 0x654EBB05#32, decodeWord 0x65D7650A#32, decodeWord 0x666CA905#32, decodeWord 0x66952C25#32,
      decodeWord 0x67012001#32, decodeWord 0x67818002#32, decodeWord 0x68000000#32, decodeWord 0x68000001#32, decodeWord 0x68000002#32] =
      [.ok (.svand 12 19 21 1 0 2), .ok (.svor 19 21 27 0 1 1), .ok (.svswap 21 27 5 1 0 2), .ok (.svcas 27 5 9 0 1 1), .ok (.svwait 5 9 12 2 0 1 1),
        .ok (.svlock 9 1), .ok (.svunlock 12 2), .ok .barCluster, .ok .barDie, .ok .barLaunch] := by rfl

theorem test_decode_13 :
    [decodeWord 0x68800000#32, decodeWord 0x69800000#32, decodeWord 0x6A326000#32, decodeWord 0x6ACC0001#32, decodeWord 0x6B540002#32,
      decodeWord 0x6B6C0001#32, decodeWord 0x6B94037B#32, decodeWord 0x6C25838D#32, decodeWord 0x6CB26394#32, decodeWord 0x6D4EA39B#32] =
      [.ok .sstep, .ok .trig, .ok (.launch 12 19), .ok (.lidx 19 1), .ok (.inboxWait 21 1),
        .ok (.inboxPoll 27 0), .ok (.csrr 5 891), .ok (.csrw 9 12 909), .ok (.csrs 12 19 916), .ok (.csrc 19 21 923)] := by rfl

theorem test_decode_14 :
    [decodeWord 0x6D800000#32, decodeWord 0x6E000000#32, decodeWord 0x6E800000#32, decodeWord 0x6F000000#32, decodeWord 0x6F8000D6#32,
      decodeWord 0x70026000#32, decodeWord 0x70800000#32, decodeWord 0x806CA900#32, decodeWord 0x80952C80#32, decodeWord 0x81259300#32] =
      [.ok .tret, .ok .bkpt, .ok .nprb, .ok .npre, .ok (.setm 214),
        .ok (.contain 19), .ok .wfi, .ok (.vadd 27 5 9 0), .ok (.vsub 5 9 12 1), .ok (.vmul 9 12 19 0)] := by rfl

theorem test_decode_15 :
    [decodeWord 0x81B27580#32, decodeWord 0x824EBB00#32, decodeWord 0x82D76580#32, decodeWord 0x836CA900#32, decodeWord 0x83952C80#32,
      decodeWord 0x84258000#32, decodeWord 0x84B26000#32, decodeWord 0x854EBB00#32, decodeWord 0x85D76000#32, decodeWord 0x866CA000#32] =
      [.ok (.vfma 12 19 21 1), .ok (.vfms 19 21 27 0), .ok (.vfnma 21 27 5 1), .ok (.vmin 27 5 9 0), .ok (.vmax 5 9 12 1),
        .ok (.vabs 9 12), .ok (.vneg 12 19), .ok (.vdiv 19 21 27 0), .ok (.vsqrt 21 27), .ok (.vrcp 27 5)] := by rfl

theorem test_decode_16 :
    [decodeWord 0x86952000#32, decodeWord 0x87258000#32, decodeWord 0x87B26000#32, decodeWord 0x884EBB00#32, decodeWord 0x88D76580#32,
      decodeWord 0x896CA900#32, decodeWord 0x89952C80#32, decodeWord 0x8A259300#32, decodeWord 0x8AB27580#32, decodeWord 0x8B16BB05#32] =
      [.ok (.vrsq 5 9), .ok (.vexp2 9 12), .ok (.vlog2 12 19), .ok (.vand 19 21 27 0), .ok (.vor 21 27 5 1),
        .ok (.vxor 27 5 9 0), .ok (.vsll 5 9 12 1), .ok (.vsrl 9 12 19 0), .ok (.vsra 12 19 21 1), .ok (.vcmp 5 21 27 0 5)] := by rfl

theorem test_decode_17 :
    [decodeWord 0x8BD76584#32, decodeWord 0x8C6CA000#32, decodeWord 0x8C952000#32, decodeWord 0x8D240000#32, decodeWord 0x8DB27580#32,
      decodeWord 0x8E4EBB00#32, decodeWord 0xA057649E#32, decodeWord 0xA0ECA900#32, decodeWord 0xA1152C02#32, decodeWord 0xA1A59300#32] =
      [.ok (.vsel 21 27 5 1 4), .ok (.vmov 27 5), .ok (.vbc 5 9), .ok (.viota 9), .ok (.vmulh 12 19 21 1),
        .ok (.vclamp 19 21 27 0), .ok (.vld 21 27 1182), .ok (.vlds 27 5 9), .ok (.vldg 5 9 12 2), .ok (.vldmx 9 12 19)] := by rfl

theorem test_decode_18 :
    [decodeWord 0xA23264BA#32, decodeWord 0xA2CEBB00#32, decodeWord 0xA3576502#32, decodeWord 0xA46CA035#32, decodeWord 0xA4952002#32,
      decodeWord 0xA5012C00#32, decodeWord 0xA5B27580#32, decodeWord 0xA64EBB80#32, decodeWord 0xA6576581#32, decodeWord 0xA6ECA900#32] =
      [.ok (.vst 12 19 1210), .ok (.vsts 19 21 27), .ok (.vstg 21 27 5 2), .ok (.vcvt 27 5 3 5), .ok (.vcvtn 5 9 0 2),
        .ok (.ldcb 9 12), .ok (.vperm 12 19 21 1), .ok (.vslideUp 19 21 27), .ok (.vslideDn 21 27 5), .ok (.vzip 27 5 9 0)] := by rfl

theorem test_decode_19 :
    [decodeWord 0xA7152C01#32, decodeWord 0xA7A58000#32, decodeWord 0xA8326000#32, decodeWord 0xA8CEA000#32, decodeWord 0xA9576500#32,
      decodeWord 0xA9ECA900#32, decodeWord 0xAA004000#32, decodeWord 0xAA800000#32, decodeWord 0xAB000000#32, decodeWord 0xAB80A200#32] =
      [.ok (.vunzip 5 9 12 1), .ok (.vredadd 9 12), .ok (.vredmax 12 19), .ok (.vredmin 19 21), .ok (.vmvx 21 27 5),
        .ok (.vins 27 5 9), .ok (.mpush 2), .ok .minv, .ok .mpop, .ok (.mstg 5 2)] := by rfl

theorem test_decode_20 :
    [decodeWord 0xAC076000#32, decodeWord 0xAC6C8001#32, decodeWord 0xAC0C0002#32, decodeWord 0xAC902300#32, decodeWord 0xAC944401#32,
      decodeWord 0xAC846502#32, decodeWord 0xAC888103#32, decodeWord 0xAD6CA004#32, decodeWord 0xAD152008#32, decodeWord 0xAD258005#32] =
      [.ok (.kmovKx 1 27), .ok (.kmovXk 27 4), .ok (.kmovKt 3), .ok (.kopAnd 4 1 3), .ok (.kopOr 5 2 4),
        .ok (.kopXor 1 3 5), .ok (.kopAndn 2 4 1), .ok (.vsclSet 27 5 2), .ok (.vsclSeta 5 9), .ok (.vsclGet 9 12 2)] := by rfl

theorem test_decode_21 :
    [decodeWord 0xC019D681#32, decodeWord 0xC0AAEDA0#32, decodeWord 0xC13D9621#32, decodeWord 0xC1C2A540#32, decodeWord 0xC2500000#32,
      decodeWord 0xC2964C40#32, decodeWord 0xC329D460#32, decodeWord 0xC3BAEC00#32, decodeWord 0xC44D9400#32, decodeWord 0xC4D28000#32] =
      [.ok (.mrow 1 19 21 2 4 1), .ok (.mrowp 2 21 27 1 5 0), .ok (.mrowz 3 27 5 2 1 1), .ok (.mrowzp 4 5 9 1 2 0), .ok (.tzero 5),
        .ok (.tload 1 12 19 2), .ok (.tstore 2 19 21 3), .ok (.tmovv 3 21 27), .ok (.tvmov 4 27 5), .ok (.tstat 5 5)] := by rfl

theorem test_decode_22 :
    [decodeWord 0xC502A500#32, decodeWord 0xC5800200#32, decodeWord 0xC6060200#32, decodeWord 0xC8000080#32, decodeWord 0xC88A8000#32,
      decodeWord 0xC90D8001#32, decodeWord 0xC9828002#32, decodeWord 0xCA000002#32, decodeWord 0xCA800000#32, decodeWord 0xCB5A8000#32] =
      [.ok (.trcfg 5 9 1), .ok (.trpop 2), .ok (.trstat 12 2), .ok (.fbegin 4), .ok (.fcol 21),
        .ok (.fcoln 27 1), .ok (.ngjoin 5 2), .ok (.ngleave 2), .ok .fend, .ok (.fmaprd 5 21)] := by rfl

theorem test_decode_23 :
    [decodeWord 0xCB8A8000#32, decodeWord 0xCC0D8000#32, decodeWord 0xCCB00000#32, decodeWord 0xE0012C02#32, decodeWord 0xE0819301#32,
      decodeWord 0xE14C0000#32, decodeWord 0xE1540001#32, decodeWord 0xE1836500#32, decodeWord 0xE2152000#32, decodeWord 0xE2800000#32] =
      [.ok (.rdph 21), .ok (.rdgf 27), .ok (.tperm 3), .ok (.cpy 9 12 2), .ok (.cpyq 12 19 1),
        .ok (.engstCnt 19), .ok (.engstFva 21), .ok (.xsend 27 5), .ok (.xsel 5 9), .ok .xend] := by rfl

/-! ## Witnesses: the hypotheses of the statements are met -/

theorem base_ready : Ready base := ⟨⟨rfl, rfl, rfl, rfl⟩, by unfold NoLoopEnd; decide⟩
theorem launched_ready : Ready launched := ⟨⟨rfl, rfl, rfl, rfl⟩, by unfold NoLoopEnd; decide⟩
theorem framed_ready : Ready framed := ⟨⟨rfl, rfl, rfl, rfl⟩, by unfold NoLoopEnd; decide⟩

theorem wit_IntegerRegisterForms : Ready base := base_ready
theorem wit_BitAndImmediateForms : Ready base := base_ready
theorem wit_FloatArithmetic : Ready base := base_ready
theorem wit_FloatCompareAndConvert : Ready base := base_ready
theorem wit_RoundingModes : 0 < 2 ∧ 65535 < 65536 ∧ 2 * (5 % 2) ≠ 2 * 2 ∧ 2 * (5 % 2) = 2 ∧ 4 % 2 = 0 := by decide
theorem wit_Branches : Ready base ∧ (5 : BitVec 3).toNat ≤ 5 := ⟨base_ready, by decide⟩

theorem wit_Jumps : Quiet (withX [(1, 0x1002)]) ∧
    (xr (withX [(1, 0x1002)]) 1 + BitVec.ofInt 64 (2 : BitVec 13).toInt).toNat % 4 = 0 ∧
    (xr (withX [(1, 0x1002)]) 1 + BitVec.ofInt 64 (1 : BitVec 13).toInt).toNat % 4 ≠ 0 := ⟨⟨rfl, rfl, rfl, rfl⟩, by decide, by decide⟩

theorem wit_LoopSettings : Ready launched ∧ (5 : BitVec 3).toNat ≤ 5 ∧ (xr launched 1).toNat % 2 ^ 48 = 0 ∧
    tripOf launched 2 = 3 ∧ tripOf launched 5 = 0 ∧ (xr (withX [(1, 1)]) 1).toNat % 2 ^ 48 = 1 := ⟨launched_ready, by decide⟩

/-- The base state with level 1 active, ending at the PC, with lc passes left. -/
def looping (lc : Word) : State := { launched with core := { launched.core with regs := { launched.core.regs with
  loops := vset launched.core.regs.loops 1
    { act := true, start := 0xFFF0, stop := 0x10000, lc := lc, count := 3, stages := 1, bind := some 2, lvl := 0, stg := 1 } } } }

theorem wit_LoopEndBreakIndex_end : (∀ lc, Quiet (looping lc)) ∧ EndsAt (looping 2) 1 ∧ (∀ m, 1 < m → m ≤ 5 → ¬EndsAt (looping 2) m) ∧
    1 < (loopAt (looping 2) 1).lc.toNat ∧ EndsAt (looping 1) 1 ∧ (loopAt (looping 1) 1).lc.toNat ≤ 1 ∧
    (∀ m, m < 1 → ¬EndsAt (looping 1) m) := by
  refine ⟨fun _ => ⟨rfl, rfl, rfl, rfl⟩, by unfold EndsAt; decide, ?_, by decide, by unfold EndsAt; decide, by decide, by unfold EndsAt; decide⟩
  intro m h1 h2
  have : m = 2 ∨ m = 3 ∨ m = 4 ∨ m = 5 := by omega
  rcases this with rfl | rfl | rfl | rfl <;> (unfold EndsAt; decide)

theorem wit_LoopEndBreakIndex_break : (loopAt (looping 2) 1).act = true ∧ (loopAt base 5).act = false ∧ Ready base := ⟨by decide, by decide, base_ready⟩

theorem wit_LoopEndBreakIndex_index : Ready launched ∧ HasEntry launched 0 1 1 ∧ HasEntry launched 1 2 1 ∧ HasEntry launched 2 3 16 ∧
    HasEntry launched 5 0 0 ∧ BoundTo (looping 2) 1 2 ∧ (∀ k, k ≤ 5 → ¬BoundTo launched k 2) := by
  refine ⟨launched_ready, ⟨launch0, by decide, by decide, by decide⟩, ⟨launch0, by decide, by decide, by decide⟩,
    ⟨launch0, by decide, by decide, by decide⟩, ⟨launch0, by decide, by decide, by decide⟩, by unfold BoundTo; decide, ?_⟩
  intro k h
  have : k = 0 ∨ k = 1 ∨ k = 2 ∨ k = 3 ∨ k = 4 ∨ k = 5 := by omega
  rcases this with rfl | rfl | rfl | rfl | rfl | rfl <;> (unfold BoundTo; decide)

/-- x1 names byte 64 of the core's own TCM, x2 of another core's, x3 the page of the base state, x4 an unmapped page. -/
def memory : State := withX [(1, tcmVa ⟨0, 0, 0, 0⟩ 64), (2, tcmVa ⟨0, 0, 0, 1⟩ 64), (3, 0x10040), (4, 0x8000000000), (5, 0x10001)]

theorem memory_ready : Ready memory := ⟨⟨rfl, rfl, rfl, rfl⟩, by unfold NoLoopEnd; decide⟩

/-- The memory state with the word at byte 64 of the core's TCM poisoned. -/
def poisonedTcm : State := { memory with poison := [tcmKey memory.core.pos + 64] }

theorem wit_ScalarLoads : Ready memory ∧ OwnBank memory (xr memory 1) (tcmKey memory.core.pos + 64) ∧
    (∀ j, j < 8 → poisoned memory (tcmKey memory.core.pos + 64 + j) = false) ∧ poisoned poisonedTcm (tcmKey memory.core.pos + 64) = true ∧
    (xr memory 5).toNat % 2 ≠ 0 ∧ (translate memory memory.core.who 0xFD7FFFFFFFFFFFF8 .r).2 = .fault 5 := by
  refine ⟨memory_ready, by unfold OwnBank; decide, by decide, by decide, by decide, by decide⟩

theorem wit_ScalarLoads_global : isWindow (xr memory 3) = false ∧ (xr memory 3).toNat % 8 = 0 ∧
    ∃ k pte pa, (translate memory memory.core.who (xr memory 3) .r).2 = .ok (.glob k pte pa) := ⟨by decide, by decide, _, _, _, rfl⟩

theorem wit_ScalarLoads_remote : isWindow (xr memory 2) = true ∧ ∃ k, windowKey memory memory.core.pos memory.core.fold (xr memory 2) = some k ∧
    isRemote memory.core.pos k = true ∧ bankPoison memory k 8 = none := ⟨by decide, _, rfl, by decide, by decide⟩

/-- Does an access come to a place, with nothing outstanding after it? -/
def reaches (r : State × TransRes) : Bool :=
  (match r.2 with | .ok _ => true | _ => false) && r.1.core.q == base.core.q && r.1.core.regs.loops == base.core.regs.loops

/-- Does an access fault, with nothing outstanding after it? -/
def faultsWith (r : State × TransRes) (c : Nat) : Bool := (match r.2 with | .fault k => k == c | _ => false) && r.1.core.q == base.core.q

theorem wit_ScalarStores : Memory.wf memory.mem = true ∧ memory.pace.sb = 0 ∧ Ready memory ∧
    reaches (translateAs memory memory.core.who (xr memory 1) .w true false) = true ∧
    reaches (translateAs memory memory.core.who (xr memory 3) .w true false) = true ∧
    faultsWith (translateAs memory memory.core.who 0xFD7FFFFFFFFFFFF8 .w true false) 6 = true :=
  ⟨by decide, rfl, memory_ready, by decide +kernel, by decide +kernel, by decide +kernel⟩

theorem wit_CacheOperations : Ready memory ∧ reaches (translateAs memory memory.core.who (xr memory 3) .r true false) = true ∧
    memory.core.regs.level ≠ 2 ∧ (encode (.cboInv 3)).isSome = true := ⟨memory_ready, by decide +kernel, by decide, by decide⟩

theorem wit_SlotOperations : Ready framed ∧ SlotOk framed 2 7 ∧ ¬SlotOk framed 2 8 ∧
    reaches (translateAs framed framed.core.who (slotAt framed 2 7) .w true false) = true ∧
    lacksAtomics framed framed.core.who (slotAt framed 2 7) = false ∧ framed.core.regs.depth < (3 : BitVec 3).toNat :=
  ⟨framed_ready, by unfold SlotOk; decide, by unfold SlotOk; decide, by decide +kernel, by decide +kernel, by decide⟩

/-- The framed state at another depth, with two x registers. -/
def atDepth (n : Nat) (a b : Word) : State := { framed with core := { framed.core with regs := { framed.core.regs with
  depth := n, d := vset framed.core.regs.d n (tcmVa ⟨0, 0, 0, 0⟩ 0), x := vset (vset framed.core.regs.x 1 a) 2 b } } }

theorem wit_FrameFaults : (∀ n a b, Quiet (atDepth n a b)) ∧ framed.core.regs.depth < (3 : BitVec 3).toNat ∧
    tSlots (shadowAt framed 2) ≤ (8 : BitVec 10).toNat ∧ (atDepth 7 0 0).core.regs.depth = 7 ∧
    1023 < (xr (atDepth 2 1024 0) 1).toNat ∧ (xr (atDepth 2 1023 0) 1).toNat ≤ 1023 ∧
    16384 < ftopOf { framed.core.regs with frames := [⟨0, 16344, 0x3000⟩] } + 40 + 8 * 1 ∧ curEnt framed = false :=
  ⟨fun _ _ _ => ⟨rfl, rfl, rfl, rfl⟩, by decide, by decide, by decide, by decide, by decide, by decide, by decide⟩

/-- The framed state with ENT set in the header of the current frame (R198), and one entry kept in the store buffer by the pace. -/
def entered : State := { (frameWrite framed 0 (hState (tcmVa ⟨0, 0, 0, 0⟩ 0)) (newState 0 2 false true)) with pace := { base.pace with sb := 1 } }

theorem entered_ready : Ready entered := ⟨⟨rfl, rfl, rfl, rfl⟩, by unfold NoLoopEnd; decide⟩

theorem wit_EnterAndLeave : Ready entered ∧ 1 ≤ entered.pace.sb ∧ curEnt entered = true ∧ entered.core.regs.depth < 7 ∧
    (xr entered 1).toNat ≤ 1023 ∧ ftopOf entered.core.regs + 40 + 8 * (xr entered 1).toNat ≤ 16384 :=
  ⟨entered_ready, by decide, by decide, by decide, by decide, by decide⟩

/-- The framed state with an 8-slot frame at depth 1 too. -/
def nested : State := { framed with core := { framed.core with regs := { framed.core.regs with shadow := vset framed.core.regs.shadow 1 0x3408 } } }

theorem wit_FoldForkAndJoin_fold : Ready nested ∧ nested.core.regs.depth ≤ 7 ∧ (6 : BitVec 8).toNat ≤ 6 ∧ (xr nested 1).toNat < tSlots (curTmpl nested) ∧
    (xr nested 2).toNat < tSlots (shadowAt nested (nested.core.regs.depth - 1)) ∧ tSlots (curTmpl (atDepth 2 8 0)) ≤ (xr (atDepth 2 8 0) 1).toNat ∧
    tSlots (shadowAt framed 1) ≤ (xr framed 2).toNat :=
  ⟨⟨⟨rfl, rfl, rfl, rfl⟩, by unfold NoLoopEnd; decide⟩, by decide, by decide, by decide, by decide, by decide, by decide⟩

/-- Which case a JOIN comes to. -/
def joinCase (r : JoinRes) : Nat := match r with | .done _ => 0 | .ran _ => 1 | .wait _ => 2

/-- The framed state with a child counted, and a deque. -/
def withChild (d : List DequeEntry) : State :=
  let s := addChild framed 0 (tcmVa ⟨0, 0, 0, 0⟩ 0) 1
  setSync s { s.core.sync with deque := d }

theorem wit_FoldForkAndJoin_fork : Quiet framed ∧ framed.core.regs.depth ≠ 7 ∧ (xr (atDepth 2 0 0x3FFF) 2).toNat < 2 ^ 14 ∧
    2 ^ 14 ≤ (xr (atDepth 2 0 0x4000) 2).toNat ∧ framed.core.sync.phase = none ∧ framed.core.sync.deque.length < 32 ∧
    joinCase (joinSteps framed) = 0 ∧ joinCase (joinSteps (withChild [])) = 2 ∧
    joinCase (joinSteps (withChild [⟨0x10000, tcmVa ⟨0, 0, 0, 0⟩ 0, 0, 0x3000, Vector.replicate 6 0⟩])) = 1 ∧ curEnt (withChild []) = false ∧
    framed.core.q.sdq = [] ∧ framed.core.sync.outstanding = 0 :=
  ⟨⟨rfl, rfl, rfl, rfl⟩, by and_intros <;> decide⟩

/-- The base state at level 2 in a handler, with a good saved MODE. -/
def handling : State := core fun c => { c with
  regs := { c.regs with level := 2 }
  trap := { c.trap with tvec := 0x4000, inh := true, epc := 0x10040, emode := 0x6, plv := 1 } }

/-- The base state with a handler installed. -/
def handled : State := core fun c => { c with trap := { c.trap with tvec := 0x4000, ie := true, ien := 15 } }

/-- The base state with a gate table of 2 entries in its page, one of them cached: level 1, with a mask. -/
def gated : State := core fun c => { c with
  trap := { c.trap with gtbase := 0x11000, gtsize := 2 }
  gates := [⟨0x11010, 0x10080, 0x101⟩, ⟨0x11000, 0x10082, 0x101⟩] }

/-- The base state with an active gate. -/
def inGate : State := core fun c => { c with
  trap := { c.trap with gAct := true, gMpush := true, gPlv := 0, gepc := 0x10044 }
  vec := { c.vec with masks := [1] } }

theorem wit_Gates : Quiet gated ∧ gated.core.trap.gAct = false ∧ (1 : BitVec 8).toNat < gateCount gated ∧ gateCount gated ≤ (2 : BitVec 8).toNat ∧
    readGate gated 0x11010 = .ok gated 0x10080 0x101 ∧ gateMalformed 0x10080 0x101 = false ∧ gated.core.vec.masks.length < 16 ∧
    (∃ s1, readGate { gated with poison := [homeKey 0 0x11000] } 0x11000 = .bad s1 ∨ readGate gated 0x11000 = .ok s1 0x10082 0x101) :=
  ⟨⟨rfl, rfl, rfl, rfl⟩, by decide, by decide, by decide, rfl, by decide, by decide, _, .inr rfl⟩

theorem wit_Gates_return : Quiet inGate ∧ inGate.core.trap.gAct = true ∧ inGate.core.trap.gPlv.toNat ≤ inGate.core.regs.level.toNat ∧
    inGate.core.vec.masks ≠ [] ∧ base.core.trap.gAct = false := ⟨⟨rfl, rfl, rfl, rfl⟩, by decide, by decide, by decide, by decide⟩

theorem wit_TrapEntry : Quiet handled ∧ HandlerReady handled ∧ Quiet base ∧ ¬HandlerReady base ∧ ¬HandlerReady handling :=
  ⟨⟨rfl, rfl, rfl, rfl⟩, by unfold HandlerReady; decide, ⟨rfl, rfl, rfl, rfl⟩, by unfold HandlerReady; decide, by unfold HandlerReady; decide⟩

theorem wit_TrapReturnAndModes : Ready handling ∧ handling.core.regs.level = 2 ∧ handling.core.trap.inh = true ∧ handling.core.trap.plv ≠ 3 ∧
    modeIllegal handling.core.trap.emode = false ∧ handling.core.trap.emaskd.toNat ≤ 16 ∧
    ¬handling.core.vec.masks.length < handling.core.trap.emaskd.toNat ∧ base.core.regs.level ≠ 2 ∧ modeIllegal 0xA = false ∧ modeIllegal 0xB = true ∧
    modeIllegal 0x60 = true ∧ modeIllegal 0x600 = true ∧ modeIllegal 0x4000 = true :=
  ⟨⟨⟨rfl, rfl, rfl, rfl⟩, by unfold NoLoopEnd; decide⟩, by decide⟩

theorem wit_CsrAccess : Ready handling ∧ CsrLegal handling 0x208 1250000 ∧ CsrLegal base 0x000 0 ∧ modeAllows 0x208 7 ∧ modeAllows 0 0xA ∧
    modeIllegal ((xr (withX [(1, 11)]) 1).extractLsb' 0 18) = true ∧ (2 ^ 10 ≤ (0x400 : BitVec 13).toNat) ∧ csrRead base 0x300 = none ∧
    base.core.regs.level.toNat < (0x100 : BitVec 13).toNat / 2 ^ 8 % 4 :=
  ⟨⟨⟨rfl, rfl, rfl, rfl⟩, by unfold NoLoopEnd; decide⟩, by unfold CsrLegal; decide, by unfold CsrLegal; decide, by unfold modeAllows; decide,
    by unfold modeAllows; decide, by decide, by decide, by decide, by decide⟩

theorem wit_CsrReadBack : csrRead base 0x20B = some 0 ∧ (0x20B : Nat) ≠ 0x016 := by decide

/-- The base state with a copy command of the core to its page outstanding. -/
def copying : State := { base with clusters := [{ Cluster.reset base.core.pos.cluster with cmds := [
  { core := base.core.pos, lid := base.core.lid, vf := 0, fold := 0, level := 0, scope := 2, trough := none, tag := 0, early := none,
    desc := { Descriptor.empty with dst := 0x10000, counts := [1] }, slot := none, index := 0, flags := 0, region := [], failedVa := 0,
    status := none, orphan := false }] }] }

theorem wit_AcquireReleaseFences : Ready base ∧ base.core.q.sdq = [] ∧ NoCopies base ∧ Ready copying ∧ fenceHeld copying 0 0 = false ∧
    fenceHeld copying 0 (2 ^ 64 - 1) = true := ⟨base_ready, rfl, rfl, ⟨⟨rfl, rfl, rfl, rfl⟩, base_ready.2⟩, by decide, by decide +kernel⟩

/-- x1 names a sync variable in the page of the base state, x2 a misaligned word, x3 the core's TCM, x4 is 1. -/
def vars : State := withX [(1, 0x10100), (2, 0x10104), (3, tcmVa ⟨0, 0, 0, 0⟩ 64), (4, 1)]

/-- The place of the variable. -/
def varLoc : Loc := .glob (homeKey 0 0x10100) fetchPte fetchRoot

/-- The variable passes every check, by its entry in the core's own TLB. -/
theorem var_inTlb : ∀ acc : Access, acc ≠ .x → InTlb vars (xr vars 1) acc varLoc := by
  intro acc h
  cases acc with
  | x => exact absurd rfl h
  | r => exact ⟨_, by decide, by decide, rfl, by decide, by decide, by decide, by decide⟩
  | w => exact ⟨_, by decide, by decide, rfl, by decide, by decide, by decide, by decide⟩

/-- The state with every entry of the variable's engine taken. -/
def crowded : State := { vars with
  parked := List.replicate 4096 ⟨engineOf vars vars.core.pos 2 varLoc, ⟨1, 0, 0, 0⟩, 0, 0, 0x10100, false, Attr.plain⟩ }

set_option maxRecDepth 100000 in
theorem wit_SyncVariables : Quiet vars ∧ SvReaches vars 1 1 2 .r vars varLoc ∧ SvReaches vars 1 0 2 .w vars varLoc ∧
    (∀ sc : Fin 4, engineFull vars (engineOf vars vars.core.pos (BitVec.ofFin sc) varLoc) = false) ∧ (xr vars 2).toNat % 8 ≠ 0 ∧
    (xr vars 3).toNat % 8 = 0 ∧ isWindow (xr vars 3) = true ∧ svCheck vars (xr vars 3) 2 .w = .trap vars ⟨21, subcode 1 (xr vars 3).toNat⟩ ∧
    svCheck crowded (xr vars 1) 2 .w = .ok crowded varLoc ∧ engineFull crowded (engineOf crowded crowded.core.pos 2 varLoc) = true ∧
    ptePlace fetchPte ≤ 3 :=
  ⟨⟨rfl, rfl, rfl, rfl⟩, ⟨rfl, fun _ => rfl, by decide⟩, ⟨rfl, fun _ => rfl, by decide⟩, by decide, by decide, by decide, by decide, rfl, rfl,
    by decide +kernel, by decide⟩

/-- The state of the variable with its lock held by a core, and requests parked. -/
def lockedBy (p : CorePos) (ps : List Parked) : State :=
  let s := svWrite vars varLoc 2 1
  { s with locks := [⟨lockEngine s varLoc 2, (svPlace varLoc).1, (svPlace varLoc).2, p, s.core.lid⟩], parked := ps }

/-- An SVLOCK of another core that waits for the lock. -/
def locker : Parked := ⟨lockEngine vars varLoc 2, ⟨0, 0, 0, 1⟩, 0, (svPlace varLoc).1, (svPlace varLoc).2, true, Attr.plain⟩

/-- The value that an operation reads. -/
def varValue (s : State) : Word := (svRead (svCount s varLoc 2) varLoc 2).2

theorem wit_WaitsAndLocks : Quiet vars ∧ SvReaches vars 1 0 2 .r vars varLoc ∧ varValue vars = xr vars 0 ∧ varValue vars ≠ xr vars 4 ∧
    SvReaches (lockedBy ⟨0, 0, 0, 1⟩ []) 1 0 2 .w (lockedBy ⟨0, 0, 0, 1⟩ []) varLoc ∧ varValue (lockedBy ⟨0, 0, 0, 1⟩ []) ≠ 0 ∧
    holdsLock (lockedBy ⟨0, 0, 0, 1⟩ []) varLoc 2 = false ∧
    SvReaches (lockedBy ⟨0, 0, 0, 0⟩ [locker]) 1 0 2 .w (lockedBy ⟨0, 0, 0, 0⟩ [locker]) varLoc ∧
    holdsLock (lockedBy ⟨0, 0, 0, 0⟩ []) varLoc 2 = true ∧ nextLocker (lockedBy ⟨0, 0, 0, 0⟩ []) varLoc 2 = none ∧
    nextLocker (lockedBy ⟨0, 0, 0, 0⟩ [locker]) varLoc 2 = some locker ∧ (lockedBy ⟨0, 0, 0, 0⟩ []).core.q.sdq = [] :=
  ⟨⟨rfl, rfl, rfl, rfl⟩, ⟨rfl, nofun, by decide⟩, by decide, by decide, ⟨rfl, nofun, by decide⟩, by decide, by decide,
    ⟨rfl, nofun, by decide⟩, by decide, by decide, by decide, rfl⟩

/-- The launched state whose core runs a task. -/
def tasked : State := { launched with core := { launched.core with occ := .task } }

/-- The launched state with a launch whose flags are clear, and of many strands. -/
def plain (n : Nat) : State := { launched with launches := [{ launch0 with record := { rec0 with flags := 0 }, nd := n }] }

/-- The launched state in an exchange phase since cycle c0. -/
def phased (c0 : Nat) : State := { launched with core := { launched.core with sync := { launched.core.sync with phase := some c0 } } }

theorem wit_BarriersTriggersLaunches_barriers : Quiet launched ∧ launched.core.q.sdq = [] ∧ myLaunch launched = some launch0 ∧
    launched.core.sync.phase = none ∧ launched.core.occ ≠ .task ∧ launched.core.sync.arrived = none ∧ recSstep rec0 = true ∧
    (phased 0).core.sync.phase.isSome = true ∧ tasked.core.occ = .task ∧ tasked.core.sync.phase = none ∧
    recSstep { rec0 with flags := 0 } = false ∧ switchDue launched launched.core = false :=
  ⟨⟨rfl, rfl, rfl, rfl⟩, by and_intros <;> decide⟩

set_option maxRecDepth 100000 in
theorem wit_BarriersTriggersLaunches_waves : manyWaves launched launch0 0 launched.core.pos = false := by decide

theorem wit_BarriersTriggersLaunches_triggers : recTrigexp rec0 = true ∧ recTrigexp { rec0 with flags := 0 } = false ∧
    (release launched launched.core.pos 2 rec0.treg).core.sync.triggered = false ∧
    (readPrio (release launched launched.core.pos 2 allRegions) 0x1).2 = none ∧
    (readPrio (release launched launched.core.pos 2 allRegions) 0x10100).2 = some 0 ∧
    append (readPrio launched 0x10100).1 0 0 0x10100 = none := by decide

/-- A VF whose tables map the pages 0 and 1, and whose queue 0 is enabled. -/
def queued : State :=
  let s := { launched with vfs := [{ fetchVf with queues := vset fetchVf.queues 0 ⟨0x10400, 4, 0, 0, true⟩ }] }
  let r := installLeaf 0 0x10000 0x400007F walkLevels s fetchRoot 0x31000000
  (installLeaf 0 0 0x7F walkLevels r.1 fetchRoot r.2).1

theorem wit_BarriersTriggersLaunches_append : (append queued 0 0 0x10100).isSome = true := by decide

/-- The base state with other sync registers. -/
def syncing (f : SyncRegs → SyncRegs) : State := core fun c => { c with sync := f c.sync }

theorem wit_InboxAndRegions : Ready base ∧ base.core.sync.inbox = [] ∧ base.core.sync.drvmsg = none ∧ base.core.sync.outstanding = 0 ∧
    base.core.trap.ien = 0 ∧ base.core.sync.npr = false ∧ base.core.sync.phase = none ∧ (syncing fun y => { y with npr := true }).core.sync.npr = true ∧
    (syncing fun y => { y with outstanding := 1 }).core.sync.outstanding ≠ 0 ∧ handled.core.trap.ien ≠ 0 ∧ ipend handled &&& handled.core.trap.ien = 0 :=
  ⟨base_ready, by decide⟩

set_option maxRecDepth 100000 in
theorem wit_BarriersTriggersLaunches_many : ∀ form ∈ ([0, 1, 2] : List (BitVec 2)),
    manyWaves launched { launch0 with nd := 8193 } form launched.core.pos = true := by decide

/-- The base state under a mode word, with v registers, masks and k registers. -/
def vec (m : BitVec 18) (vs : List (Nat × VWord)) (ms : List Word) : State := core fun c => { c with
  regs := { c.regs with mode := m }
  vec := { c.vec with v := vs.foldl (fun v p => vset v p.1 p.2) c.vec.v, masks := ms } }

theorem vec_ready (m : BitVec 18) (vs ms) : Ready (vec m vs ms) := ⟨⟨rfl, rfl, rfl, rfl⟩, base_ready.2⟩

theorem vec_readyQ (i : Instr) (m : BitVec 18) (h1 : modeOk m i = true) (h2 : enqueueSub (vec m [] []) i = none) : ReadyQ i (vec m [] []) :=
  ⟨vec_ready m [] [], rfl, h1, h2, rfl⟩

theorem wit_QueuedInstructions : Ready base ∧ (unitOf (.vadd 1 2 3 0)).isSome = true ∧ modeOk 0xA (.vadd 1 2 3 0) = false ∧
    enqueueSub base (.vadd 1 30 3 0) = some 1 ∧ isEarlyLoad (.vadd 1 2 3 0) = false ∧ 1 ≤ { base.pace with queue := 1 }.queue ∧
    ReadyQ (.vadd 1 2 3 0) base := ⟨base_ready, by decide, by decide, by decide, by decide, by decide, base_ready, rfl, by decide, by decide, rfl⟩

/-- How the turn of an instruction in a state ends. -/
def turnOf (s : State) (i : Instr) : Nat :=
  match runEntry (capture s i) (appended s i) with | .done _ => 0 | .trap _ _ _ => 1 | .blocked _ => 2

theorem wit_QueuedInstructions_turns : turnOf base (.vadd 1 2 3 0) = 0 ∧ turnOf base .fend = 1 ∧
    turnOf { base with clusters := [{ Cluster.reset base.core.pos.cluster with cmds := [
      { core := base.core.pos, lid := 0, vf := 0, fold := 0, level := 0, scope := 0, trough := some 1, tag := 0, early := none, desc := .empty,
        slot := none, index := 0, flags := 0, region := [], failedVa := 0, status := none, orphan := false }] }] } (.trcfg 1 2 1) = 2 := by decide

theorem wit_VectorArithmetic : ReadyQ (.vadd 1 2 3 0) (vec 5 [] []) ∧ typeFmt 5 = some fp32 ∧ ReadyQ (.vdiv 1 2 3 0) (vec 2 [] []) ∧
    typeFmt 2 = none ∧ ReadyQ (.vfma 1 2 3 1) (vec 0x155 [] []) ∧ ReadyQ (.vsqrt 1 2) (vec 6 [] []) :=
  ⟨vec_readyQ _ _ (by decide) (by decide), by decide, vec_readyQ _ _ (by decide) (by decide), by decide, vec_readyQ _ _ (by decide) (by decide),
    vec_readyQ _ _ (by decide) (by decide)⟩

theorem wit_VectorOrderAndFunctions : ReadyQ (.vmin 1 2 3 0) (vec 5 [] []) ∧ ReadyQ (.vabs 1 2) (vec 3 [] []) ∧ ReadyQ (.vclamp 1 2 3 0) (vec 2 [] []) ∧
    ReadyQ (.vlog2 1 2) (vec 7 [] []) :=
  ⟨vec_readyQ _ _ (by decide) (by decide), vec_readyQ _ _ (by decide) (by decide), vec_readyQ _ _ (by decide) (by decide),
    vec_readyQ _ _ (by decide) (by decide)⟩

theorem wit_VectorBits : ReadyQ (.vxor 1 2 3 0) (vec 2 [] []) ∧ ReadyQ (.vmulh 1 2 3 0) (vec 2 [] []) ∧ ReadyQ (.vmov 1 2) (vec 10 [] []) ∧
    typeNow (vec 10 [] []) = 10 ∧ ReadyQ (.vmov 31 2) (vec 10 [] []) ∧ ReadyQ (.viota 1) (vec 5 [] []) ∧ ReadyQ (.vcmp 1 2 3 0 6) (vec 5 [] []) ∧
    ReadyQ (.vcmp 0 2 3 0 5) (vec 2 [] []) :=
  ⟨vec_readyQ _ _ (by decide) (by decide), vec_readyQ _ _ (by decide) (by decide), vec_readyQ _ _ (by decide) (by decide), by decide,
    vec_readyQ _ _ (by decide) (by decide), vec_readyQ _ _ (by decide) (by decide), vec_readyQ _ _ (by decide) (by decide),
    vec_readyQ _ _ (by decide) (by decide)⟩

theorem wit_Conversions : ReadyQ (.vcvt 1 2 1 6) (vec 5 [] []) ∧ (Instr.vcvt 1 2 1 6).wellFormed = true ∧ ReadyQ (.vcvt 1 2 0 10) (vec 5 [] []) ∧
    ReadyQ (.vcvtn 1 2 1 0) (vec 8 [] []) ∧ ReadyQ (.ldcb 1 2) base :=
  ⟨vec_readyQ _ _ (by decide) (by decide), by decide, vec_readyQ _ _ (by decide) (by decide), vec_readyQ _ _ (by decide) (by decide),
    base_ready, rfl, by decide, by decide⟩

theorem wit_PermuteAndReduce : ReadyQ (.vperm 1 2 3 1) (vec 2 [] []) ∧ ReadyQ (.vins 1 2 3) (vec 2 [] []) ∧ (Instr.vins 1 2 3).wellFormed = true ∧
    ReadyQ (.vredadd 1 2) (vec 5 [] []) ∧ ReadyQ (.vredmax 1 2) (vec 2 [] []) ∧ ReadyQ (.vredmin 1 2) (vec 2 [] []) ∧ ReadyQ (.vmvx 1 2 3) (vec 2 [] []) :=
  ⟨vec_readyQ _ _ (by decide) (by decide), vec_readyQ _ _ (by decide) (by decide), by decide, vec_readyQ _ _ (by decide) (by decide),
    vec_readyQ _ _ (by decide) (by decide), vec_readyQ _ _ (by decide) (by decide), vec_readyQ _ _ (by decide) (by decide)⟩

theorem wit_MasksAndScales : ReadyQ (.mpush 1) base ∧ ReadyQ .minv (vec 0 [] [1]) ∧ ReadyQ .mpop (vec 0 [] [1, 2]) ∧ ReadyQ (.mstg 0 5) base ∧
    ReadyQ (.kopAnd 0 1 2) base ∧ ReadyQ (.kmovXk 1 0) base ∧ ReadyQ (.vsclSet 1 2 3) base ∧ ReadyQ (.vsclGet 1 2 0) base :=
  ⟨⟨base_ready, rfl, by decide, by decide⟩, ⟨vec_ready 0 [] [1], rfl, by decide, by decide⟩, ⟨vec_ready 0 [] [1, 2], rfl, by decide, by decide⟩,
    ⟨base_ready, rfl, by decide, by decide⟩, ⟨base_ready, rfl, by decide, by decide⟩, ⟨base_ready, rfl, by decide, by decide⟩,
    ⟨base_ready, rfl, by decide, by decide⟩, base_ready, rfl, by decide, by decide⟩

/-- x1 names byte 64 of the core's own TCM, x2 a stride of 4, x3 an odd byte of it, under TYPE 3. -/
def rows : State := core fun c => { c with regs := { c.regs with
  mode := 3, x := vset (vset (vset c.regs.x 1 (tcmVa c.pos 64)) 2 4) 3 (tcmVa c.pos 65) } }

theorem rows_ready : Ready rows := ⟨⟨rfl, rfl, rfl, rfl⟩, by unfold NoLoopEnd; decide⟩

/-- The place of a lane. -/
def laneKey (j : Nat) : Nat := tcmKey rows.core.pos + 64 + 4 * j

theorem wit_VectorLoads : ReadyQ (.vld 1 1 0) rows ∧ NoCopies rows ∧ widthNow rows = 32 ∧
    (∀ j, j < 16 → CleanBank rows (xr rows 1 + BitVec.ofNat 64 (4 * j)) 4 (laneKey j) ∧ sameKind rows.core.pos (xr rows 1) (xr rows 1 + BitVec.ofNat 64 (4 * j)) = true) ∧
    LdqRoom (.vld 30 1 0) rows ∧ ReadyQ (.vld 30 1 0) rows ∧ rows.core.regs.lanedone = 0 ∧ (xr rows 3).toNat % 4 ≠ 0 ∧ ReadyQ (.vldmx 1 1 2) (vec 10 [] []) := by
  refine ⟨⟨rows_ready, rfl, by decide, by decide⟩, by unfold NoCopies; decide, by decide, by unfold CleanBank OwnBank; decide,
    ⟨by decide, by decide, by decide, by decide⟩, ⟨rows_ready, rfl, by decide, by decide⟩, by decide, by decide, vec_readyQ _ _ (by decide) (by decide)⟩

theorem wit_VectorStores : ReadyQ (.vst 1 1 0) rows ∧ NoCopies rows ∧ Memory.wf rows.mem = true ∧
    (∀ j, j < 16 → (xr rows 1 + BitVec.ofNat 64 (4 * j)).toNat % 4 = 0 ∧ OwnBank rows (xr rows 1 + BitVec.ofNat 64 (4 * j)) (laneKey j)) ∧
    ReadyQ (.vsts 1 1 2) rows ∧ ReadyQ (.vstg 1 1 2 2) rows :=
  ⟨⟨rows_ready, rfl, by decide, by decide⟩, by unfold NoCopies; decide, by decide, by unfold OwnBank; decide, ⟨rows_ready, rfl, by decide, by decide⟩,
    rows_ready, rfl, by decide, by decide⟩

/-- The rows with a stride that makes lane 1 the first misaligned one. -/
def slanted : State := writeX rows 2 2

/-- The rows, with offsets in v2: lane 1 is misaligned, lane 2 names the pad of another cluster, and lane 3 a byte past the TCM. -/
def scattered : State := setV rows 2 (ofLanes 32 [0, 2, 2 ^ 32 - 128, 2 ^ 28])

/-- Does a lane's address break a rule of R286? -/
def badLane (s : State) (i : Instr) (acc : Access) (base va : Word) : Bool :=
  decide (va.toNat % 4 ≠ 0) || !sameKind s.core.pos base va ||
    (match translateAs (appended s i) ((capture s i).who (appended s i)) va acc true false with
     | (u, .fault _) => decide (u = appended s i)
     | _ => false)

theorem badLane_iff (s : State) (i : Instr) (acc : Access) (base va : Word) : badLane s i acc base va = true ↔
    va.toNat % 4 ≠ 0 ∨ sameKind s.core.pos base va = false ∨
      ∃ c, translateAs (appended s i) ((capture s i).who (appended s i)) va acc true false = (appended s i, .fault c) := by
  unfold badLane
  rw [Bool.or_eq_true, Bool.or_eq_true, decide_eq_true_iff, Bool.not_eq_true', or_assoc]
  refine or_congr_right (or_congr_right ?_)
  split
  · rename_i u c h
    rw [h, decide_eq_true_iff]
    exact ⟨fun e => ⟨c, by rw [e]⟩, fun ⟨d, e⟩ => congrArg Prod.fst e⟩
  · rename_i h
    exact ⟨Bool.noConfusion, fun ⟨c, e⟩ => (h _ c e).elim⟩

theorem wit_FaultingLanes_strides : NoCopies slanted ∧ ReadyQ (.vlds 1 1 2) slanted ∧ LdqRoom (.vlds 30 1 2) slanted ∧ ReadyQ (.vsts 1 1 2) slanted ∧
    Memory.wf slanted.mem = true ∧ widthNow slanted = 32 ∧ 1 < laneCount 32 ∧ (activeNow slanted &&& ~~~slanted.core.regs.lanedone).getLsbD 1 = true ∧
    (let va := fun j => xr slanted 1 + BitVec.ofNat 64 j * xr slanted 2
     (∀ i ∈ [Instr.vlds 1 1 2, Instr.vsts 1 1 2], ∀ acc ∈ [Access.r, Access.w], badLane slanted i acc (xr slanted 1) (va 1) = true ∧
       badLane slanted i acc (xr slanted 1) (va 0) = false) ∧
     ∀ j, j < 16 → badLane slanted (.vlds 1 1 2) .r (xr slanted 1) (va j) = true ∨ CleanBank slanted (va j) 4 (tcmKey slanted.core.pos + 64 + 2 * j)) := by
  refine ⟨by unfold NoCopies; decide, ⟨⟨⟨rfl, rfl, rfl, rfl⟩, by unfold NoLoopEnd; decide⟩, rfl, by decide, by decide⟩,
    ⟨by decide, by decide, by decide, by decide⟩, ⟨⟨⟨rfl, rfl, rfl, rfl⟩, by unfold NoLoopEnd; decide⟩, rfl, by decide, by decide⟩, by decide, by decide,
    by decide, by decide, by decide +kernel, by unfold CleanBank OwnBank; decide +kernel⟩

theorem wit_FaultingLanes_indices : NoCopies scattered ∧ ReadyQ (.vldg 1 1 2 0) scattered ∧ ReadyQ (.vstg 1 1 2 0) scattered ∧
    (let va := fun j => xr scattered 1 + BitVec.ofInt 64 (signedOf 32 (laneA scattered 2 32 j))
     sameKind scattered.core.pos (xr scattered 1) (va 2) = false ∧ sameKind scattered.core.pos (xr scattered 1) (va 3) = true ∧ (va 3).toNat % 4 = 0 ∧
     ([0, 1, 2, 3, 4].map fun j => (badLane scattered (.vldg 1 1 2 0) .r (xr scattered 1) (va j), badLane scattered (.vstg 1 1 2 0) .w (xr scattered 1) (va j))) =
       [(false, false), (true, true), (true, true), (true, true), (false, false)] ∧
     ∀ j, j < 16 → j = 1 ∨ j = 2 ∨ j = 3 ∨ CleanBank scattered (va j) 4 (tcmKey scattered.core.pos + 64)) := by
  refine ⟨by unfold NoCopies; decide, ⟨⟨⟨rfl, rfl, rfl, rfl⟩, by unfold NoLoopEnd; decide⟩, rfl, by decide, by decide⟩,
    ⟨⟨⟨rfl, rfl, rfl, rfl⟩, by unfold NoLoopEnd; decide⟩, rfl, by decide, by decide⟩, by unfold CleanBank OwnBank; decide +kernel⟩

/-- The base state under a mode word, with tiles, a factor set and the cluster's groups and troughs. -/
def mat (m : BitVec 18) (ts : List (Nat × Tile)) (f : FactorSet) (g : NegGroup) (t : Trough) : State :=
  let s := core fun c => { c with
    regs := { c.regs with mode := m }
    mat := { c.mat with tiles := ts.foldl (fun v p => vset v p.1 p.2) c.mat.tiles, fset := f } }
  { s with clusters := [{ Cluster.reset s.core.pos.cluster with groups := vset (Vector.replicate 4 NegGroup.reset) 0 g, troughs := vset (Vector.replicate 4 Trough.reset) 0 t }] }

/-- A trough of 2 slots with one slot filled. -/
def trough1 : Trough := { base := 2048, nslot := 2, head := 0, tail := 1, res := 1, gens := [0, 0], written := [] }

/-- A valid tile with row 0 present. -/
def tile1 : Tile := { Tile.reset with valid := true, rowv := 1 }

/-- A set over tile 0 that is open. -/
def set1 : FactorSet := { FactorSet.reset with isOpen := true, set := 1 }

/-- The usual states of the matrix engine. -/
def mat0 (m : BitVec 18) (t : Tile) (f : FactorSet) (q : Trough) : State := mat m [(0, t)] f NegGroup.reset q

theorem mat_ready (m ts f g t) : Ready (mat m ts f g t) := ⟨⟨rfl, rfl, rfl, rfl⟩, base_ready.2⟩

theorem wit_MatrixRows : ReadyQ (.mrow 0 1 2 0 0 0) (mat0 6 tile1 FactorSet.reset trough1) ∧ (Instr.mrow 0 1 2 0 0 0).wellFormed = true ∧
    tile1.fact = false ∧ tile1.kind = kindOf 6 ∧ tile1.kind ≠ kindOf 0 ∧ (myTrough (mat0 6 tile1 FactorSet.reset trough1) 0).nslot ≠ 0 ∧
    (myTrough (mat0 6 tile1 FactorSet.reset trough1) 0).head < (myTrough (mat0 6 tile1 FactorSet.reset trough1) 0).tail ∧
    rangeHeld (mat0 6 tile1 FactorSet.reset trough1) (padKey base.core.pos.cluster + 2048, 2 * Config.slotBytes, false) = false ∧
    ReadyQ (.mrowzp 0 1 2 0 0 1) (mat0 0 tile1 FactorSet.reset { trough1 with tail := 0 }) ∧
    (myTrough (mat0 6 tile1 FactorSet.reset Trough.reset) 0).nslot = 0 ∧ ReadyQ (.tzero 0) (mat0 6 { tile1 with fact := true } set1 trough1) := by
  refine ⟨⟨mat_ready _ _ _ _ _, rfl, by decide, by decide⟩, by decide, by decide, by decide, by decide, by decide, by decide, by decide,
    ⟨mat_ready _ _ _ _ _, rfl, by decide, by decide⟩, by decide, mat_ready _ _ _ _ _, rfl, by decide, by decide⟩

theorem wit_MatrixRows_poison : slotPoison (mat0 5 tile1 FactorSet.reset trough1) (slotKey base.core.pos.cluster trough1 (headSlot trough1)) = none := by
  decide

/-- Rows of tile 0 in the core's own TCM: x1 their start, x2 the stride of 64 and a count of one row, k1 row or column 0 alone. -/
def tiles : State :=
  let s := mat0 5 tile1 FactorSet.reset trough1
  { s with core := { s.core with
    regs := { s.core.regs with x := vset (vset (vset s.core.regs.x 1 (tcmVa s.core.pos 64)) 2 0x0000000100000040) 3 (tcmVa s.core.pos 65) }
    vec := { s.core.vec with k := vset s.core.vec.k 1 1 } } }

theorem tiles_ready : Ready tiles := ⟨⟨rfl, rfl, rfl, rfl⟩, base_ready.2⟩

/-- Did a load succeed? -/
def loadsOk (r : LoadRes) : Bool := match r with | .ok u _ => u.core.q.sb == base.core.q.sb | _ => false

theorem wit_TileMemoryAndMoves : ReadyQ (.tload 0 1 2 1) tiles ∧ ReadyQ (.tstore 0 1 2 1) tiles ∧ (tileAt tiles 0).fact = false ∧
    (xr tiles 1).toNat % 4 = 0 ∧ (xr tiles 3).toNat % 4 ≠ 0 ∧
    loadsOk (loadAll (appended tiles (.tload 0 1 2 1)) (capture tiles (.tload 0 1 2 1)) true [⟨0, xr tiles 1, 4, 0⟩, ⟨1, xr tiles 1 + 4, 4, 0⟩]) = true ∧
    ((translateAll (appended tiles (.tstore 0 1 2 1)) (queueWho tiles) .w [⟨0, xr tiles 1, 4, 0⟩]).2.any fun pl =>
      pl.all (·.loc.isSome) && !accessHeld (appended tiles (.tstore 0 1 2 1)) (capture tiles (.tstore 0 1 2 1)) true pl) = true :=
  ⟨⟨tiles_ready, rfl, by decide, by decide⟩, ⟨tiles_ready, rfl, by decide, by decide⟩, by decide, by decide, by decide, by decide +kernel, by decide +kernel⟩

theorem wit_TileMemoryAndMoves_moves : ReadyQ (.tmovv 0 1 2) tiles ∧ typeNow tiles ≠ 10 ∧ ReadyQ (.tmovv 0 1 2) (mat0 10 tile1 FactorSet.reset trough1) ∧
    ReadyQ (.tvmov 0 1 2) tiles ∧ (tileAt tiles 0).kind = kindOf (typeNow tiles) ∧ (tileAt (mat0 5 { tile1 with fact := true } set1 trough1) 0).fact = true ∧
    ReadyQ (.tperm 0) tiles ∧ ReadyQ (.tstat 0 1) tiles ∧ ReadyQ (.fmaprd 0 1) tiles ∧ ReadyQ (.rdph 1) tiles ∧ ReadyQ (.rdgf 1) tiles :=
  ⟨⟨tiles_ready, rfl, by decide, by decide⟩, by decide, ⟨mat_ready _ _ _ _ _, rfl, by decide, by decide⟩, ⟨tiles_ready, rfl, by decide, by decide⟩,
    by decide, by decide, ⟨tiles_ready, rfl, by decide, by decide⟩, ⟨tiles_ready, rfl, by decide, by decide⟩, ⟨tiles_ready, rfl, by decide, by decide⟩,
    ⟨tiles_ready, rfl, by decide, by decide⟩, tiles_ready, rfl, by decide, by decide⟩

/-- The matrix state with bits 7:0 of k1 set to a mask. -/
def beginning (m : Word) (t : Tile) (f : FactorSet) : State :=
  let s := mat0 5 t f trough1
  { s with core := { s.core with vec := { s.core.vec with k := vset s.core.vec.k 1 m } } }

theorem beginning_ready (m t f) : Ready (beginning m t f) := ⟨⟨rfl, rfl, rfl, rfl⟩, base_ready.2⟩

/-- One present row with an element of a magnitude. -/
def tile2 (v : Acc) : Tile := { tile1 with acc := vset tile1.acc 0 v, fact := true }

theorem wit_Factorising : ReadyQ (.fbegin 1) (beginning 1 tile1 FactorSet.reset) ∧ (kReg (beginning 1 tile1 FactorSet.reset) 1).extractLsb' 0 8 = (1 : BitVec 8) ∧
    (kReg (beginning 0 tile1 FactorSet.reset) 1).extractLsb' 0 8 = (0 : BitVec 8) ∧ (tileOf (beginning 1 tile1 FactorSet.reset).core.mat.tiles 0).valid = true ∧
    (tileOf (beginning 2 tile1 FactorSet.reset).core.mat.tiles 1).valid = false ∧ ReadyQ .fend (beginning 1 (tile2 0) set1) ∧ set1.isOpen = true ∧
    FactorSet.reset.isOpen = false :=
  ⟨⟨beginning_ready _ _ _, rfl, by decide, by decide⟩, by decide, by decide, by decide, by decide, ⟨beginning_ready _ _ _, rfl, by decide, by decide⟩,
    by decide, by decide⟩

theorem wit_Factorising_columns : ReadyQ (.fcol 1) (beginning 1 (tile2 0x3FF00000000000) set1) ∧
    (searchPivot set1 (beginning 1 (tile2 0x3FF00000000000) set1).core.mat.tiles 0).isSome = true ∧
    searchPivot set1 (beginning 1 { tile1 with rowv := 0 } set1).core.mat.tiles 0 = none ∧
    singular (setElem 1 (beginning 1 (tile2 0x3FF00000000000) set1).core.mat.tiles 0 0) 0 = false ∧
    singular (setElem 1 (beginning 1 (tile2 0) set1).core.mat.tiles 0 0) 0 = true ∧ mSpol 5 = 0 ∧ mSpol 0x205 = 1 ∧ mSpol 0x405 = 2 ∧
    set1.done.getLsbD 0 = false ∧ growthTrap 5 0 0 = false :=
  ⟨⟨beginning_ready _ _ _, rfl, by decide, by decide⟩, by decide +kernel, by decide +kernel, by decide +kernel, by decide +kernel, by decide, by decide, by decide, by decide, by decide⟩

/-- A state of a group, with x1 the count of two members. -/
def grouped (g : NegGroup) : State := writeX (mat 5 [] set1 g trough1) 1 2

theorem grouped_ready (g) : Ready (grouped g) := ⟨⟨rfl, rfl, rfl, rfl⟩, base_ready.2⟩

theorem wit_NegotiationGroups : ReadyQ (.ngjoin 1 0) (grouped NegGroup.reset) ∧ (xr (grouped NegGroup.reset) 1).toNat = 2 ∧
    inSomeGroup (grouped NegGroup.reset) base.core.pos = false ∧ ReadyQ (.ngjoin 1 0) (grouped { NegGroup.reset with count := 2, members := [⟨0, 0, 0, 1⟩] }) ∧
    inSomeGroup (grouped { NegGroup.reset with count := 2, members := [⟨0, 0, 0, 1⟩] }) base.core.pos = false ∧
    ReadyQ (.ngleave 0) (grouped { NegGroup.reset with count := 2, members := [⟨0, 0, 0, 0⟩] }) ∧
    ReadyQ (.fcoln 1 0) (grouped { NegGroup.reset with count := 2, members := [⟨0, 0, 0, 0⟩] }) ∧
    set1.done.getLsbD ((xr (grouped NegGroup.reset) 1).toNat % 16) = false ∧ base.core.pos ∉ NegGroup.reset.members ∧
    ReadyQ (.fcoln 1 0) (grouped { NegGroup.reset with count := 2, members := [⟨0, 0, 0, 0⟩], broken := true }) :=
  ⟨⟨grouped_ready _, rfl, by decide, by decide⟩, by decide, by decide, ⟨grouped_ready _, rfl, by decide, by decide⟩, by decide,
    ⟨grouped_ready _, rfl, by decide, by decide⟩, ⟨grouped_ready _, rfl, by decide, by decide⟩, by decide, by decide,
    grouped_ready _, rfl, by decide, by decide⟩

/-- x1 a trough base, x2 a count of slots. -/
def configuring (b n : Word) (t : Trough) : State := writeX (writeX (mat 0 [] FactorSet.reset NegGroup.reset t) 1 b) 2 n

theorem configuring_ready (b n t) : Ready (configuring b n t) := ⟨⟨rfl, rfl, rfl, rfl⟩, base_ready.2⟩

theorem wit_Troughs : ReadyQ (.trcfg 1 2 1) (configuring 512 255 Trough.reset) ∧ (xr (configuring 512 255 Trough.reset) 2).toNat ≤ 255 ∧
    512 + 1280 * 255 ≤ padBytes (clusterAt (configuring 512 255 Trough.reset) base.core.pos.cluster).split ∧
    ringClash (configuring 512 255 Trough.reset) 1 512 (1280 * 255) = false ∧ 255 < (xr (configuring 512 256 Trough.reset) 2).toNat ∧
    (∀ k ∈ (clusterAt (configuring 512 255 Trough.reset) base.core.pos.cluster).cmds, k.trough ≠ some 1) ∧
    ReadyQ (.trpop 0) (configuring 0 0 trough1) ∧ (myTrough (configuring 0 0 trough1) 0).head < (myTrough (configuring 0 0 trough1) 0).tail ∧
    ({ trough1 with tail := 0 } : Trough).tail ≤ trough1.head ∧ (myTrough (configuring 0 0 Trough.reset) 0).nslot = 0 ∧
    ReadyQ (.trstat 1 0) (configuring 0 0 trough1) :=
  ⟨⟨configuring_ready _ _ _, rfl, by decide, by decide⟩, by decide, by decide, by decide, by decide, by decide,
    ⟨configuring_ready _ _ _, rfl, by decide, by decide⟩, by decide, by decide, by decide, configuring_ready _ _ _, rfl, by decide, by decide⟩

/-- What fetching a descriptor gives, if it gives one. -/
def fetched (s : State) (i : Instr) (q : Option (BitVec 2)) : Bool :=
  let r := fetchDescriptor (appended s i)
    { core := s.core.pos, lid := s.core.lid, vf := s.core.vf, fold := s.core.fold, level := s.core.regs.level, scope := 2, trough := q, tag := 0,
      early := none, desc := .empty, slot := none, index := 0, flags := 0, region := [], failedVa := 0, status := none, orphan := false } (xr s 1)
  r.2.isSome && r.1.core.q.sb == base.core.q.sb

theorem wit_CopyAndExchange_copies : ReadyQ (.cpy 1 2 2) (withX [(1, 0x10100)]) ∧ ReadyQ (.cpyq 1 2 2) (withX [(1, 0x10100)]) ∧
    fetched (withX [(1, 0x10100)]) (.cpy 1 2 2) none = true ∧ fetched (withX [(1, 0x10101)]) (.cpyq 1 2 2) (some 0) = true ∧
    base.core.sync.outstanding + base.core.sync.inbox.length < 16 ∧ (clusterAt base base.core.pos.cluster).cmds.length < 64 ∧
    ¬(syncing fun y => { y with outstanding := 16 }).core.sync.outstanding + base.core.sync.inbox.length < 16 ∧ (myTrough base 0).nslot = 0 ∧
    ReadyQ (.engstCnt 1) base ∧ ReadyQ (.engstFva 1) base :=
  ⟨⟨⟨⟨rfl, rfl, rfl, rfl⟩, base_ready.2⟩, rfl, by decide, by decide⟩, ⟨⟨⟨rfl, rfl, rfl, rfl⟩, base_ready.2⟩, rfl, by decide, by decide⟩, by decide, by decide,
    by decide, by decide, by decide, by decide, ⟨base_ready, rfl, by decide, by decide⟩, base_ready, rfl, by decide, by decide⟩

/-- A state at a cycle of a phase that began at cycle 0, whose fabric holds one vector of core 0 of its cluster. -/
def exchanging (now : Nat) : State := { phased 0 with now := now, fabric := [⟨0, 0, 0, 0, 0, base.core.lid, 0, 7⟩] }

theorem exchanging_ready (n) : Ready (exchanging n) := ⟨⟨rfl, rfl, rfl, rfl⟩, base_ready.2⟩

theorem wit_CopyAndExchange_exchange : ReadyQ (.xsend 1 2) launched ∧ launched.core.sync.phase = none ∧ ReadyQ (.xsend 1 2) (exchanging 1) ∧
    ReadyQ (.xsel 3 1) (exchanging 3) ∧ ReadyQ (.xsel 3 1) (exchanging 67) ∧ ReadyQ (.xsel 3 1) (exchanging 68) ∧
    ((exchanging 3).now : Int) - 0 - 1 < 3 ∧ ((exchanging 4).now : Int) - 0 - 1 = 3 ∧ ((exchanging 67).now : Int) - 0 - 1 = 3 + 63 ∧
    (3 : Int) + 63 < (exchanging 68).now - 0 - 1 ∧ clusterEnabled (exchanging 4) ⟨0, 0, 0⟩ = true ∧ clusterEnabled (exchanging 4) ⟨0, 1, 0⟩ = true ∧
    ReadyQ .xend (exchanging 1) :=
  ⟨⟨launched_ready, rfl, by decide, by decide⟩, by decide, ⟨exchanging_ready _, rfl, by decide, by decide⟩, ⟨exchanging_ready _, rfl, by decide, by decide⟩,
    ⟨exchanging_ready _, rfl, by decide, by decide⟩, ⟨exchanging_ready _, rfl, by decide, by decide⟩, by decide, by decide, by decide, by decide, by decide,
    by decide, exchanging_ready _, rfl, by decide, by decide⟩

/-! ## Witnesses: the machine's step, events and requests -/

/-- What the fetch of the next instruction gives: a word that decodes, one that does not, a fault, or a wait. -/
def fetchKind (s : State) : Nat :=
  match fetchWord (setSync s { s.core.sync with stall := false, trapWaits := false }) with
  | .word _ w => (match decodeWord w with | .ok _ => 0 | .error _ => 1)
  | .fault _ _ => 2
  | .wait _ => 3

/-- It is the turn of the strand in focus, which runs, waits for nothing and takes no trap. -/
def OwnTurn (s : State) : Prop := ItsTurn s ∧ Running s ∧ s.core.sync.wait = none ∧ boundaryTrap s (fetchFails s) = none

/-- The base state with its PC in an unmapped page. -/
def astray : State := core fun c => { c with regs := { c.regs with pc := 0x1000000000000000 } }

theorem wit_StepRunsDecoded : OwnTurn base ∧ fetchKind base = 0 := by unfold OwnTurn ItsTurn Running; decide +kernel

theorem wit_StepRunsDecoded_bad : OwnTurn (State.reset.withFetchWord 32 0xFFFFFFFF) ∧ fetchKind (State.reset.withFetchWord 32 0xFFFFFFFF) = 1 := by
  unfold OwnTurn ItsTurn Running; decide +kernel

theorem wit_StepRunsDecoded_fault : OwnTurn astray ∧ fetchKind astray = 2 := by unfold OwnTurn ItsTurn Running; decide +kernel

theorem wit_DecodeEncode : (Instr.lw 5 6 0x010).wellFormed = true ∧ encode (.lw 5 6 0x010) = some 0x2214C010 := by decide

/-- Is an outcome a next state? -/
def goesOn (r : Host.Outcome State Fault Refusal) : Bool :=
  match r with
  | .next _ => true
  | _ => false

theorem goesOn_next {r : Host.Outcome State Fault Refusal} (h : goesOn r = true) : ∃ t, r = .next t := by
  cases r <;> simp_all [goesOn]

theorem wit_MemoryStaysCanonical : MemoryCanonical base ∧ ∃ t, step base = .next t :=
  ⟨by unfold MemoryCanonical; decide, goesOn_next (by decide +kernel)⟩

/-- The core in focus waits. -/
def waiting (w : Wait) (f : SyncRegs → SyncRegs) : State := syncing fun y => f { y with wait := some w }

/-- A message of a copy command. -/
def message0 : Message := { value := 5, isCpy := true, region := [], failedVa := 0 }

/-- The core in focus has arrived at a barrier of its launch, of which it is the only strand. -/
def arrivedAt : State := { launched with
  launches := [{ launch0 with nd := 1 }]
  core := { launched.core with sync := { launched.core.sync with wait := some (.barrier 0 false), arrived := some 0 } } }

theorem wit_WaitsEnd : Running (waiting .join id) ∧ stChild (frameState (waiting .join id) 0 (curFrame (waiting .join id))).2 = 0 ∧
    Running (waiting (.inbox 5 false) fun y => { y with inbox := [message0] }) ∧ Running (waiting (.inbox 5 true) fun y => { y with drvmsg := some 9 }) ∧
    Running (waiting .wfi id) ∧ (waiting .wfi id).core.trap.ien = 0 ∧ (([(.pool, homeKey 0 0x100)] : List (Engine × Nat)).find? fun e => e.2 == homeKey 0 0x100) = some (.pool, homeKey 0 0x100) ∧
    (coreAt base base.core.pos).occ ≠ .idle ∧ (coreAt base base.core.pos).sync.drvmsg = none ∧
    (coreAt (syncing fun y => { y with drvmsg := some 9 }) base.core.pos).sync.drvmsg.isSome = true := by
  unfold Running; decide

theorem wit_WaitsEnd_barrier : barrierCores arrivedAt 0 0 ≠ [] := by decide +kernel

/-- Fold 0, whose VF 0 runs. -/
def fold0 : Fold := fetchFold (timeOf State.reset).toNat

/-- The fold switches VF 0 in. -/
def switchingIn : Fold := { fold0 with running := none, switchTo := some 0 }

/-- The base state with its fold changed. -/
def inFold (f : Fold) : State := { base with folds := [f] }

/-- A handler is installed, and codes 2 and 4 are enabled and pending. -/
def noticed : State := { handled with core := { handled.core with sync := { handled.core.sync with notice := true } } }

/-- A frame at depth 2 whose task has been killed. -/
def killedFrame : State := frameWrite framed 0 (hState (dreg framed 2)) (newState 0 2 false false ||| 2 ^ 38)

theorem wit_BoundaryEvents_kill : killedFrame.core.occ ≠ .idle ∧ switchStops killedFrame killedFrame.core = false ∧ 2 ≤ killedFrame.core.regs.depth ∧
    hasEnded killedFrame.core = false ∧ stKill (seenState killedFrame 0 (dreg killedFrame 2)).2 = true ∧
    ∀ m : Fin 2, stKill (seenState killedFrame 0 (dreg killedFrame m)).2 = false := by decide

/-- A strand that Kill has unwound, and whose frame has retired. -/
def unwound : State := waiting .unwound id

theorem wit_BoundaryEvents_unwound : unwound.core.occ ≠ .idle ∧ switchStops unwound unwound.core = false ∧ unwound.core.sync.wait = some .unwound ∧
    strandRetired unwound = true := by decide

theorem wit_BoundaryEvents : Running handled ∧ hasEnded handled.core = false ∧ nprDue handled handled.core = false ∧ handled.core.sync.wait = none ∧
    handled.core.trap.inh = false ∧ handled.core.q.late = [] ∧ handled.core.sync.trapWaits = false ∧ fetchFails handled = false ∧ killDue handled = none ∧
    handled.core.trap.tvec >>> 2 ≠ 0 ∧ handled.core.trap.ie = true ∧ inPhase handled = false ∧ handled.core.sync.arrived = none ∧
    pendingCode noticed 4 = true ∧ noticed.core.trap.ien.getLsbD 3 = true ∧ nprDue noticed noticed.core = false ∧
    (core fun c => { c with trap := { c.trap with tcmp := 1 } }).core.trap.tcmp ≠ 0 ∧
    (1 : Word).toNat ≤ (timeOf { base with now := 100 }).toNat := by
  unfold Running; decide +kernel

/-- A switch of VF 0 was requested long ago, and the core in focus has a non-preemptible region open. -/
def overrun : State := { inFold { fold0 with switchT := some 0 } with
  now := 10000000, core := { base.core with sync := { base.core.sync with npr := true } } }

theorem wit_BoundaryEvents_npr : foldAt overrun overrun.core.fold = some { fold0 with switchT := some 0 } ∧ regionOpen overrun.core = true ∧
    fold0.running = some overrun.core.vf ∧ cycleOfTime 0 + overrun.core.trap.nprlim.toNat ≤ overrun.now := by decide

/-- The core in focus has an ADD of vectors in its queue, whose turn it is. -/
def enqueued (i : Instr) : State := appended base i

/-- Two instructions in the queue. -/
def behind (i j : Instr) : State :=
  let s := enqueued i
  { s with core := { s.core with q := { s.core.q with queue := [capture s i, { capture s j with seq := s.core.q.qnext }], qnext := s.core.q.qnext + 1 } } }

/-- What an ADD of vectors that has run holds, with or without a fault. -/
def heldResult (fault : Option Trap) : Ahead := ⟨0, none, fault, []⟩

/-- May the second of two queued instructions run ahead of the first, and does it then complete? -/
def runsAhead (s : State) : Bool :=
  match s.core.q.queue with
  | [e, y] => mayRunAhead s [e] y && (match runEntry y s with | .done _ => true | _ => false)
  | _ => false

/-- The page 1 of VF 0 is shared (R117), and holds the launch frame and queue 0. -/
def sharing : State :=
  let s := (installLeaf 0 0x10000 0x40000FF walkLevels queued fetchRoot 0x31000000).1
  { s with launches := [{ launch0 with record := { rec0 with lframe := 0x10200 } }] }

/-- Whose turn a queue's head is. -/
def headTurn (s : State) : Nat :=
  match s.core.q.queue with
  | e :: _ => (match runEntry e s with | .done _ => 0 | .trap _ _ _ => 1 | .blocked _ => 2)
  | [] => 3

theorem wit_QueueEvents : headTurn (enqueued (.vadd 1 2 3 0)) = 0 ∧ headTurn (enqueued .fend) = 1 ∧ unitOf (.vadd 1 2 3 0) = some .fma ∧
    unitOf (.mrowz 0 1 2 0 0 0) = some .matrix ∧ isXsel (.xsel 3 1) = true ∧ switchStops base base.core = false ∧
    (heldResult none).fault = none ∧ (heldResult (some ⟨17, 0⟩)).fault = some ⟨17, 0⟩ := by decide

theorem wit_QueueEvents_ahead : earlyDone (behind (.xsel 3 1) (.vadd 1 2 4 0)) (capture base (.xsel 3 1)) = false ∧
    runsAhead (behind (.xsel 3 1) (.vadd 1 2 4 0)) = true ∧ unitOf (.xsel 3 1) ≠ unitOf (.vadd 1 2 4 0) ∧
    switchStops (behind (.xsel 3 1) (.vadd 1 2 4 0)) (behind (.xsel 3 1) (.vadd 1 2 4 0)).core = false ∧
    switchStops { overrun with core := base.core } base.core = true := by decide +kernel

/-- The base state with queues changed. -/
def queues (f : Queues → Queues) : State := core fun c => { c with q := f c.q }

/-- A byte store to the core's own TCM. -/
def sb0 : SbEntry := { after := 0, va := tcmVa base.core.pos 64, loc := .bank (tcmKey base.core.pos + 64), op := .store 1 7 }

/-- A load of the pad of the core's cluster. -/
def remote0 : RemoteReq := { seq := 0, after := 0, key := padKey base.core.pos.cluster, op := .load 5 8 false }

/-- The base state whose cluster and core have last held launch 0. -/
def holding : State := { launched with
  core := { launched.core with holds := some 0 }, clusters := [{ Cluster.reset base.core.pos.cluster with holds := some (0, 0) }] }

/-- A Leave of the frame at depth 2. -/
def leave0 : SbEntry := { after := 0, va := 0, loc := .bank 0, op := .leave (dreg framed 2) 0x3008 }

/-- The frame at depth 2 is a child of the launch frame. -/
def parented : State :=
  let s := frameWrite { sharing with core := framed.core } 0 (hState 0x10200) (newState 1 0 false false)
  frameWrite (frameWrite s 0 (hParent (dreg framed 2)) 0x10200) 0 (hState (dreg framed 2)) (newState 0 2 false false)

/-- A Leave of that frame is in the store buffer. -/
def leaving : State := setQ parented { parented.core.q with sb := [leave0] }

/-- That frame has been killed. -/
def killedChild : State := frameWrite parented 0 (hState (dreg framed 2)) (newState 0 2 false false ||| 2 ^ 38)

theorem wit_QueueEvents_copies : leaveTurn leaving leave0 = true ∧ ((leaveCopies leaving leave0).any fun w => decide (w ≠ leaving)) = true := by
  decide +kernel

theorem wit_QueueEvents_memory : mayLeave (queues fun q => { q with sb := [sb0] }) sb0 = true ∧ targetRefuses holding 0 remote0.key = false ∧
    targetRefuses base 0 remote0.key = true := by decide

/-- The core in focus has an early load in its queue, which the load pipe still has to perform. -/
def earlyOne : State :=
  let s := withX [(1, tcmVa base.core.pos 128)]
  let e := capture s (.vld 30 1 0)
  { s with core := { s.core with q := { s.core.q with queue := [e], qnext := 1, ldq := [⟨e.seq, 0, 0, none, true, false⟩] } } }

theorem wit_QueueEvents_early : (deferredEarly earlyOne).isSome = true := by decide

/-- An XSEND in the port of the core in focus at its cycle of a phase. -/
def sending : State := { enqueued (.xsend 1 0) with core := { (enqueued (.xsend 1 0)).core with sync := (exchanging 0).core.sync }, now := 1 }

theorem wit_QueueEvents_units : sendersNow sending ≠ [] ∧ switchStops base (coreAt base ⟨0, 0, 0, 0⟩) = false ∧
    ({ count := 1, members := [⟨0, 0, 0, 0⟩], round := 0, left := [], broken := false,
       posts := [⟨⟨0, 0, 0, 0⟩, 0, true, 1, 0, 0, 0, 0, 0⟩] } : NegGroup).members.length = 1 := by decide

/-- Core 1 has an entry in its deque, and core 0, in focus, is idle. -/
def stealing : State :=
  let s := { holding with launches := [{ launch0 with waves := [(⟨0, 0, 0, 0⟩, 2)] }] }
  { s with
    core := Core.reset s.core.pos
    others := [{ Core.reset ⟨0, 0, 0, 1⟩ with occ := .strand, sync := { SyncRegs.reset with deque := [⟨0x10000, 0, 0, 0, Vector.replicate 6 0⟩] } }] }

theorem wit_QueueEvents_steal : coreEnabled stealing stealing.core.pos = true ∧ stealing.core.occ = .idle ∧ stealing.core.regs.frames = [] ∧
    (heldLaunch stealing stealing.core.pos).any (fun h => vfRuns stealing h.1 && !canStart stealing h.2 h.1 stealing.core.pos) = true ∧
    robbed stealing stealing.core.pos = some ⟨0, 0, 0, 1⟩ ∧
    (match (coreAt stealing ⟨0, 0, 0, 1⟩).sync.deque.getLast?, heldLaunch stealing stealing.core.pos with
     | some e, some h => (launchCopies stealing (theft stealing h.1 stealing.core.pos ⟨0, 0, 0, 1⟩ e) h.1).isNone
     | _, _ => false) = true := by decide +kernel

/-- A request for service of page 7 and one for a copy of page 1 of VF 0, in a state that has its tables and a fold of 1 GiB. -/
def serviced : State := { queued with
  pageReqs := [⟨0, 7, .r, false, false, []⟩, ⟨0, 1, .w, true, false, []⟩] }

theorem wit_PagesAndCopies : queued.core.occ ≠ .idle ∧ isWindow 0x10000 = false ∧ canonical 0x10000 = true ∧
    tlbFind { queued with tlb := [] } (.core queued.core.pos) 0 0x10000 = none ∧ (vfAt queued 0).isSome = true ∧
    pageOf 0x70000 16 = 7 ∧ asked serviced 0 (pageOf 0x70000 16) false = true ∧
    (absentAt serviced 0 0x70000 walkLevels fetchRoot).isSome = true ∧ drvServes serviced 0 0 7 false = true ∧ serviced.svc.swapping = false ∧
    oldestCmd serviced 0 = none ∧ oldestCmd (setSvc serviced { serviced.svc with drvQueue := [.policy 0 0 0] }) 0 = some (.policy 0 0 0) ∧
    ((foldAt serviced 0).any fun f => !f.mode.getLsbD 0 && !f.mode.getLsbD 1) = true := by decide

/-- A copy command of the core in focus that has ended with STATUS 0, and one that waits for a slot of trough 0. -/
def cmd0 (st : Option Nat) (q : Option (BitVec 2)) : CopyCmd :=
  { core := base.core.pos, lid := base.core.lid, vf := 0, fold := 0, level := 0, scope := 2, trough := q, tag := 5, early := st, desc := .empty,
    slot := none, index := 0, flags := 0, region := [], failedVa := 0, status := st, orphan := false }

/-- The base state with commands in the cluster's queue, and a trough of two slots. -/
def commanded (ks : List CopyCmd) : State := { base with clusters := [{ Cluster.reset base.core.pos.cluster with
  cmds := ks, troughs := vset (Vector.replicate 4 Trough.reset) 0 { trough1 with tail := 0, res := 0 } }] }

theorem wit_PagesAndCopies_copies : (endedCmd (commanded [cmd0 (some 0) none]) base.core.pos.cluster).isSome = true ∧
    (reserveDue (commanded [cmd0 none (some 0)]) base.core.pos.cluster 0).isSome = true ∧
    (runFirst (commanded [cmd0 none none]) base.core.pos.cluster (runnable (commanded [cmd0 none none]) base.core.pos.cluster)).isSome = true := by decide

theorem wit_PagesAndCopies_cow : asked serviced 0 (pageOf 0x10000 16) true = true ∧
    (∃ pte pa bits, (walk serviced 0 fetchRoot 0x10000).2 = .leaf pte pa bits ∧ bits = 16 ∧ pteV pte = true) ∧
    frameAllowed fold0 0x400007F 0x20000 65536 = true ∧ drvServes serviced 0 0 (pageOf 0x10000 16) true = true ∧ frameFree serviced 0 0x20000 65536 = true :=
  ⟨by decide, ⟨_, _, _, rfl, rfl, by decide⟩, by decide, by decide, by decide⟩

/-- A doorbell value that names a record at 0x10100. -/
def bell : Word := 0x10100

/-- The queue of VF 0 holds one entry, with the LID and the place of a record that reads as zeros. -/
def ringed : State := ((append queued 0 0 bell).map (·.1)).getD queued

/-- A fold in the assisted modes. -/
def assistedFold : Fold := { fold0 with mode := 0xC, nextMode := 0xC }

/-- A launch of one strand in a phase. -/
def launchIn (ph : LaunchPhase) : Launch := { launch0 with phase := ph, ready := true, nd := 1, waves := [] }

/-- The launched state with the launch in a phase, its cluster having taken it or not, and no core in use. -/
def placingAt (ph : LaunchPhase) (taken : Option (Word × Nat)) : State := { launched with
  core := Core.reset base.core.pos
  launches := [launchIn ph]
  clusters := [{ Cluster.reset base.core.pos.cluster with holds := taken }] }

theorem wit_Dispatching : (vfAt queued 0).isSome = true ∧ (append queued 0 0 (doorbellVa bell)).isSome = true ∧
    append base 0 0 (doorbellVa bell) = none ∧ (vfAt base 0).isSome = true ∧ vfAt base 7 = none ∧
    ((vfAt ringed 0).any fun v => decide ((queueOf v 0).head < (queueOf v 0).tail)) = true ∧ waitingHead ringed 0 0 = none ∧ headAnswering ringed 0 0 = false ∧
    (vfKeys ringed 0 .r 0x10400 2).isSome = true ∧ fold0.testDue = true ∧ fold0.running = some 0 ∧ fold0.switchT = none ∧
    placingOf (placingAt .waiting none) 0 = none ∧ (nextLaunch (placingAt .waiting none) fold0 0).isSome = true := by decide

/-- The queue of VF 0 holds one entry, whose record has some words. -/
def recorded (ws : List (Nat × Word)) : State :=
  ws.foldl (fun s w => homeWriteWords s (homeKey 0 (0x10100 + 8 * w.1)) 2 w.2.toNat) ringed

/-- The words of a record of two levels, with a completion record. -/
def words0 : List (Nat × Word) :=
  [(0, 0x20001), (1, 0x10000), (2, 0x10200), (4, 0x10300), (7, 0x3800), (8, 0x3400), (9, 0x3001), (10, 0x0000010000000201), (11, 0x0000010000000102)]

/-- What the head of queue 0 is: unreadable, unusable, malformed, of another priority, or good and new. -/
def headKind (s : State) : Nat :=
  match vfAt s 0 with
  | none => 5
  | some v =>
    match readHead s v 0 with
    | .unreadable => 0
    | .unusable _ _ => 1
    | .usable _ l => if (launchAt s l.lid).isSome then 6 else if malformed l.record then 2 else if l.record.prio.toNat ≠ 0 then 3 else 4

theorem wit_Dispatching_heads : headKind ringed = 1 ∧ headKind (recorded [(4, 0x10300)]) = 2 := by decide +kernel

theorem wit_Dispatching_heads_record : headKind (recorded ((0, 0x1020001) :: words0.drop 1)) = 3 ∧ headKind (recorded words0) = 4 := by decide +kernel

/-- What the start of placing comes to: a status, or words for its frame, after a copy of their page or at once. -/
def placingKind (s : State) (l : Launch) : Nat :=
  match foldAt s 0 with
  | none => 20
  | some f =>
    match placingTests { s with launches := [l] } f l with
    | .ends _ n => n
    | .frame u l1 _ _ => if (askCopies u l1.vf (pagesOf l1.record.lframe (frameBytes l1))).isSome then 11 else 10

/-- The waiting launch with another record. -/
def recordedAs (r : LaunchRec) : Launch := { launchIn .waiting with record := r }

/-- A record of one level that has no iteration. -/
def record0 : LaunchRec := { rec0 with nlevels := 1, loops := #v[0x10000000001, 0, 0, 0, 0, 0] }

theorem wit_Dispatching_frames : placingKind queued (recordedAs rec0) = 6 ∧ placingKind queued (recordedAs { rec0 with lframe := 0x10040 }) = 10 ∧
    placingKind sharing (recordedAs { rec0 with lframe := 0x10200 }) = 11 ∧ slotCounts record0 = false ∧ tripsEnd record0 (tripsFrom record0 []) = some 0 ∧
    (appendWaits sharing 0 0 (doorbellVa bell)).isSome = true ∧ (appendWaits queued 0 0 (doorbellVa bell)).isNone = true ∧
    (0x10101 : Word).extractLsb' 0 8 ≠ 0 ∧ ((vfAt queued 0).any fun v => v.bells.isEmpty) = true := by decide +kernel

theorem wit_Dispatching_starts : vfRuns (placingAt .placing none) (launchIn .placing) = true ∧
    clusterEnabled (placingAt .placing none) base.core.pos.cluster = true ∧
    clusterFree (placingAt .placing none) base.core.pos.cluster (launchIn .placing) = true ∧
    mayEnter (placingAt .placing none) (launchIn .placing) (.die 0) Config.dieNodeEntries = true ∧
    mayEnter (placingAt .placing none) (launchIn .placing) .root Config.rootEntries = true ∧ (launchIn .placing).killed = false ∧
    TreeNode.cluster base.core.pos.cluster ∉ (launchIn .placing).killWaits ∧ reportDue (launchIn .placed) .root = true ∧
    vfGoes base (launchIn .placed) = true ∧ vfGoes (inFold switchingIn) (launchIn .placed) = false := by decide

theorem wit_Dispatching_strand : clusterAssigned (placingAt .placing none) (launchIn .placing) base.core.pos.cluster ≠ 0 ∧
    strandWaits (placingAt .placing (some (0, 0))) (launchIn .placing) base.core.pos = true ∧
    coreAdmits (placingAt .placing (some (0, 0))) (launchIn .placing) base.core.pos = true ∧ waveHeld fold0 (launchIn .placing) base.core.pos = false ∧
    recSstep rec0 = true ∧ recSstep { rec0 with flags := 0 } = false ∧
    waveHeld fold0 { launchIn .placing with assisted := true, waves := [(base.core.pos, 1)] } base.core.pos = true ∧
    startedOn { launchIn .placing with assisted := true, waves := [(base.core.pos, 1)] } base.core.pos ≠ 0 := by decide +kernel

/-- The same, in a part whose die 0 has one enabled cluster, of one core. -/
def onePlacing : State :=
  let s := placingAt .placing (some (0, 0))
  let off := (List.range 63).map fun k => ({ base.core.pos with core := k + 1 } : CorePos)
  { s with svc := { s.svc with config := some { fullRecord with clusteroff := [BitVec.ofNat 128 (2 ^ 80 - 2)], coreoff := off } } }

theorem wit_Dispatching_superstep : launchCores onePlacing fold0 (launchIn .placing) = [base.core.pos] ∧
    coreAdmits onePlacing (launchIn .placing) base.core.pos = true ∧ strandWaits onePlacing (launchIn .placing) base.core.pos = true := by decide +kernel

/-- A launch in assisted placement whose waves still wait for the host. -/
def waveLaunch : Launch := { launchIn .placing with assisted := true, nodes := [(.die 0, 1)] }

theorem wit_HostMessages : foldAt (inFold assistedFold) 0 = some assistedFold ∧ assistedFold.mode.getLsbD 2 = true ∧ sliceRuns assistedFold = false ∧
    assistedFold.switchT = none ∧ assistedFold.switchTo = none ∧ vfInFold (inFold assistedFold) 0 0 = true ∧
    readyWork { inFold assistedFold with launches := [launchIn .waiting] } { assistedFold with starts := [0] } 0 = true ∧
    (0 : Word) ∉ assistedFold.starts ∧ assistedFold.restart = none ∧ wavesGo assistedFold waveLaunch = false ∧
    launchAt { inFold assistedFold with launches := [waveLaunch] } 0 = some waveLaunch ∧ waveLaunch.phase = .placing ∧ waveLaunch.assisted = true ∧ fold0.mode.getLsbD 2 = false ∧
    assistedFold.mode.getLsbD 3 = true ∧ fold0.mode.getLsbD 3 = false ∧ (launchIn .waiting).phase = .waiting ∧
    launchAt base 0 = none ∧ ({ fold0 with placewaves := [(0, 0, 1)] } : Fold).placewaves.contains (0, 0, 1) = true ∧
    fold0.placewaves.contains (0, 0, 1) = false ∧ (([⟨0, base.core.pos, 2, 0, 0⟩] : List ContReq).find? fun r => r.lid == 0).isSome = true ∧
    (fold0.contReqs.find? fun r => r.lid == 0) = none ∧ fold0.d2hhead ≤ (0 : Word).toNat ∧ (0 : Word).toNat ≤ fold0.d2htail ∧
    fold0.d2htail < (1 : Word).toNat := by decide

/-- A fold whose slice runs, and VF 0's launch. -/
def sliced (f : Fold) (n : Nat) (ls : List Launch) : State := { inFold f with now := n, launches := ls }

/-- The fold whose slice has a quantum of 1000. -/
def slicedFold : Fold := { fold0 with sliceQuantum := 1000 }

theorem wit_SlicesAndSwitches : fold0.switchT = none ∧ fold0.switchTo = none ∧ fold0.restart = none ∧ fold0.sliceWaiting = false ∧
    jobHolds (sliced slicedFold 0 []) slicedFold = false ∧ slicedFold.sliceQuantum ≠ 0 ∧
    slicedFold.running = some 0 ∧ readyWork (sliced slicedFold 0 []) slicedFold 0 = false ∧
    (timeOf (sliced slicedFold 0 [launchIn .placed])).toNat < slicedFold.sliceStart + 100 * 1000 ∧
    readyWork (sliced slicedFold 0 [launchIn .placed]) slicedFold 0 = true ∧ slicedFold.nextMode.getLsbD 2 = false ∧
    ({ slicedFold with nextMode := 4 } : Fold).nextMode.getLsbD 2 = true ∧ fold0.sliceQuantum = 0 ∧
    ({ fold0 with nextMode := 4 } : Fold).nextMode ≠ fold0.mode ∧ fold0.nextMode = fold0.mode ∧ fold0.mode.getLsbD 2 = false ∧
    ((foldVfs (sliced fold0 0 [launchIn .placed]) 0).any fun v => readyWork (sliced fold0 0 [launchIn .placed]) fold0 v.num) = true ∧
    (pickVf (sliced fold0 0 [launchIn .placed]) fold0 none).2 = some 0 := by decide

/-- A switch out of VF 0 at a time, and two of its cores: one in a non-preemptible region, or not, and both stopped already, or not. -/
def switching (t : Nat) (npr halted : Bool) : State := { inFold { fold0 with switchT := some t } with
  now := 10000000
  core := { base.core with sync := { base.core.sync with npr := npr, halted := halted } }
  others := [{ base.core with pos := ⟨0, 0, 0, 1⟩, sync := { base.core.sync with halted := halted } }] }

/-- Have all cores stopped once those stop that no region delays, and has the state changed with that? -/
def halting (s : State) : Option (Bool × Bool) :=
  (foldAt s 0).map fun f =>
    let u := stopCores (atSwitchTime s f 0) f 0
    ((coresOf u ((foldAt u 0).getD f) 0).all fun c => c.sync.halted, decide (u ≠ s))

theorem wit_SlicesAndSwitches_out : halting (switching 5 false true) = some (true, false) ∧ halting (switching 5 false false) = some (true, true) ∧
    halting (switching 5 true false) = some (false, true) ∧ 5 ≤ (timeOf (switching 5 false true)).toNat ∧
    (timeOf (switching (10 ^ 9) false true)).toNat < 10 ^ 9 := by decide +kernel

/-- A packet of fold 0 from compute die 0. -/
def packet0 (kind : PacketKind) (response : Bool) (at_ : PacketAt) (dst : Nat) (cargo : Cargo) : Packet :=
  { newPacket 0 kind response (0, 0) (dst, 0) 1 cargo with at_ := at_ }

/-- A saved context of no core, with packets of one hop count. -/
def saved0 (ps : List Packet) : Saved := ⟨0, 0, true, [], [], [], [], ps.map fun p => { p with hops := 3 }, false⟩

/-- VF 0 with a save area of one epoch. -/
def savedVf : Vf := { fetchVf with area := [⟨.manifest, 0, 7⟩] }

/-- A packet in the drop buffer of router (0, 0). -/
def dropped : Packet := packet0 .plain false (.drop 0 0 .computePort) 1 .traffic

theorem wit_SlicesAndSwitches_in : switchingIn.running = none ∧ switchingIn.switchTo = some 0 ∧ (vfAt base 0).any (fun v => v.saved.isNone) = true ∧
    (saved0 []).restoring = false ∧ (saved0 []).packets = [] ∧ areaOk { switchingIn with saveKey := 0 } savedVf (saved0 []) = true ∧
    areaOk { switchingIn with saveKey := 1 } savedVf (saved0 []) = false ∧ areaOk { switchingIn with saveKey := 0 } savedVf (saved0 [dropped]) = true ∧ reinjected (inFold switchingIn) switchingIn = false ∧
    (saved0 [dropped]).packets.length = 1 ∧ (injectRound 3 (inFold switchingIn) [] (saved0 [dropped]).packets).2.length = 0 ∧
    ({ fold0 with restart := some 5 } : Fold).restart = some 5 ∧ 5 ≤ (timeOf (switching 5 false true)).toNat := by decide

theorem wit_SlicesAndSwitches_watchdog : lacksProgress (sliced fold0 0 []) fold0 = false ∧ fold0.wdStage = 0 ∧
    lacksProgress { sliced fold0 0 [] with now := 10 ^ 12 } { fold0 with wdStage := 1 } = true ∧ dieEnabled base 0 = true ∧
    (dieAt base 0).fold = some 0 ∧ (dieAt base 1).fold = none ∧ dieEnabled base 1 = true ∧
    0 + (fold0.wdTimes[1]?).getD 0 ≤ (timeOf { sliced fold0 0 [] with now := 10 ^ 12 }).toNat := by decide

/-- The base state with packets. -/
def meshed (ps : List Packet) : State := { base with packets := ps }

/-- The input of router (0, 0) that compute die 0 feeds. -/
def input0 : PacketAt := .input 0 0 .computePort

theorem wit_PacketsAndErrors_hops :
    (let p := packet0 .plain false .passenger 1 .traffic
     isFirst (meshed [p, p]) 1 p = false ∧ isFirst (meshed [p, p]) 0 p = true ∧ hasCredit (meshed [p]) { p with at_ := .leaving } = true ∧
     hasCredit (meshed [{ p with at_ := .leaving }]) { p with at_ := input0 } = true ∧
     routerOf p.srcSocket p.srcPort = (0, 0) ∧ portInput p.srcSocket = .computePort) ∧
    (let p := packet0 .plain false input0 1 .traffic
     let q := { p with at_ := .input 0 0 .fromWest }
     let n := nextPlace p 0 0
     Machine.turnOf (meshed [p]) 0 0 n.1 false = some .computePort ∧ hasCredit (meshed [p]) { p with at_ := n.2 } = true ∧
     Machine.turnOf (meshed [p, q]) 0 0 n.1 false ≠ some .computePort) := by decide +kernel

/-- A handle of fold 0's exports to fold 1. -/
def handle7 : Handle := ⟨7, 0, 0, 0, 0x4000000, 3, 1, 0, [], false⟩

theorem wit_PacketsAndErrors_arrivals :
    (let p := packet0 .plain false .arriving 0 .traffic
     isFirst (meshed [p]) 0 p = true ∧ passengerFold (meshed [p]) 0 = some 0 ∧ passengerFold (meshed [p]) 1 = none) ∧
    (packet0 .service false .arriving 63 .traffic).dstSocket < 64 ∧ 64 ≤ (packet0 .ioDie false .arriving 80 .traffic).dstSocket ∧
    handle7.id = 7 ∧ handle7.importer = 1 ∧ handle7.revoked = false := by decide

theorem wit_PacketsAndErrors_host : foldAt base 0 = some fold0 ∧ homeOf fold0 0 = some 32 ∧ (0 : Nat) % 64 + 8 ≤ 64 ∧
    homeOf { fold0 with map := { fold0.map with pbase := 0x50000000, psize := 64 } } 0x50000000 = none ∧
    (∀ x ∈ lineParts 128 32 128, (homeOf fold0 x.1).isSome = true) := by decide

theorem wit_PacketsAndErrors_parity : ∃ l ∈ (core fun c => { c with icache := [⟨0, 64, []⟩] }).core.icache, l.line = 64 := ⟨_, .head _, rfl⟩

/-- A part whose root key is the plain one, with images in flash for some KINDs; that of KIND 3 holds the record of the part. -/
def flashed (ks : List Nat) : State := { base with svc := { base.svc with
  rootKey := plainKey
  romHash := ofBeBytes (sha256 (leBytes 384 plainKey.modulus ++ leBytes 4 plainKey.exponent.toNat))
  linkFaults := []
  counters := []
  flash := ks.map fun k => plainImage k (if k = 3 then plainConfig base.svc.serial else [])
  bootStep := 5
  swapping := true } }

theorem flashed_rootKey (ks) : (flashed ks).svc.rootKey = plainKey := by simp only [flashed]

theorem flashed_image (k : Nat) (h1 : 1 ≤ k) (h3 : k ≤ 3) (ks : List Nat) (hk : ks.find? (· == k) = some k) (hs : ∀ j ∈ ks, j < 65536) :
    verified (flashed ks).svc k = some (plainImage k (if k = 3 then plainConfig base.svc.serial else [])) := by
  have hf : imageOf (flashed ks).svc.flash k = some (plainImage k (if k = 3 then plainConfig base.svc.serial else [])) := by
    show List.find? _ (ks.map _) = _
    rw [List.find?_map, List.find?_congr (p₂ := fun j => j == k), hk]
    · rfl
    · intro j hj
      show (imageKind (plainImage j _) == k) = _
      rw [plainImage_kind _ _ (hs j hj)]
  have hb : (if k = 3 then plainConfig base.svc.serial else []).length < 2 ^ 64 := by
    split
    · rw [plainConfig_length]; decide
    · decide
  rw [verified, hf, Option.filter_some, if_pos (plainImage_ok (flashed_rootKey ks) rfl h1 h3 hb)]

/-- What a record leaves of the dies does not hang on the state. -/
theorem leavesADie_plain (s : State) (n : Word) : leavesADie s ⟨n, 0, List.replicate 16 0, List.replicate 32 0, []⟩ = true := by
  have h : dieEnabled (setSvc s { s.svc with config := some ⟨n, 0, List.replicate 16 0, List.replicate 32 0, []⟩, disabledDies := [] }) 0 = true := by
    unfold dieEnabled
    simp only [setSvc]
    simp [clusterOff, Config.numDies]
    exact ⟨⟨0, by decide⟩, 0, by decide⟩
  exact List.any_eq_true.mpr ⟨0, by decide, h⟩

theorem flashed_none (k : Nat) (ks : List Nat) (hk : ks.find? (· == k) = none) (hs : ∀ j ∈ ks, j < 65536) : verified (flashed ks).svc k = none := by
  have hf : imageOf (flashed ks).svc.flash k = none := by
    show List.find? _ (ks.map _) = _
    rw [List.find?_map, List.find?_congr (p₂ := fun j => j == k), hk]
    · rfl
    · intro j hj
      show (imageKind (plainImage j _) == k) = _
      rw [plainImage_kind _ _ (hs j hj)]
  rw [verified, hf]
  rfl

theorem flashed_accepted (ks) : rootAccepted (flashed ks).svc = true := by
  unfold rootAccepted flashed
  exact beq_self_eq_true _

theorem wit_BootAndRegisters : verified base.svc 1 = none ∧ (verified (flashed [1, 2, 3]).svc 1).isSome = true ∧
    rootAccepted (flashed [1, 2, 3]).svc = true ∧ verified (flashed [1]).svc 3 = none ∧ (verified (flashed [1, 2, 3]).svc 3).isSome = true ∧
    (verified (flashed [1, 2, 3]).svc 2).isSome = true ∧ verified (flashed [1, 3]).svc 2 = none ∧ (flashed [1, 2, 3]).svc.linkFaults = [] ∧
    (flashed [1, 2, 3]).svc.bootStep ≠ 0 ∧ (flashed [1, 2, 3]).svc.swapping = true := by
  refine ⟨rfl, ?_, flashed_accepted _, flashed_none 3 [1] (by decide) (by decide), ?_, ?_, flashed_none 2 [1, 3] (by decide) (by decide), rfl,
    by decide, rfl⟩
  · rw [flashed_image 1 (by decide) (by decide) [1, 2, 3] (by decide) (by decide)]; rfl
  · rw [flashed_image 3 (by decide) (by decide) [1, 2, 3] (by decide) (by decide)]; rfl
  · rw [flashed_image 2 (by decide) (by decide) [1, 2, 3] (by decide) (by decide)]; rfl

theorem wit_BootAndRegisters_record (i : List Byte) :
    let u := setSvc (setSvc State.reset (keptModule (flashed [1, 2, 3]).svc))
      { runImage (setSvc State.reset (keptModule (flashed [1, 2, 3]).svc)).svc i with bootStep := 1 }
    recordOk u (imageBody (plainImage 3 (plainConfig base.svc.serial))) = true ∧ recordOk u [] = false := by
  refine ⟨?_, rfl⟩
  rw [plainImage_body 3 _ (by rw [plainConfig_length]; decide)]
  exact plainConfig_ok (flashed_rootKey [1, 2, 3]) (leavesADie_plain _ _)

theorem wit_BootAndRegisters_go : (flashed []).svc.busy = false ∧ (flashed []).svc.done = false ∧ (flashed []).svc.bootStep = 5 ∧
    (flashed []).svc.powerCycle = false ∧ (8 : Nat) < 0x10000 ∧ (0x20000 : Nat) ≤ 0x20008 := by decide

theorem wit_BootAndRegisters_writes : fold0.h2dtail ≤ (0 : Word).toNat ∧ (0 : Word).toNat ≤ fold0.h2dhead + 1024 ∧
    fold0.h2dhead + 1024 < (1025 : Word).toNat ∧ dieEnabled base 0 = true ∧ Input.foldReset 0 ∈ { base with inputs := [.foldReset 0] }.inputs := by
  decide

/-- The operator key 5, for which COUNT 3 was accepted last. -/
def key5 : OperatorKey := ⟨5, some plainKey, some 3⟩

/-- A part that takes requests, with operator keys. -/
def servingKeys (ks : List OperatorKey) (s : State) : State := { s with svc := { s.svc with
  bootStep := 5, powerCycle := false, done := false, busy := false, job := none, submitted := none, keys := ks } }

/-- The part with that key. -/
def serving (s : State) : State := servingKeys [key5] s

theorem serving_takes (ks) (s : State) (code : Nat) (body) : TakesFrame (servingKeys ks s) (plainFrame code body) :=
  ⟨rfl, rfl, rfl, .inr ⟨rfl, fun h => Bool.noConfusion h⟩⟩

/-- The hypotheses of every statement about a request, with any CODE and body. -/
theorem wit_RequestFrames (s : State) (code : Nat) (body : List Byte) (hc : code < 65536) (hb : body.length < 2 ^ 23) :
    FrameOk (serving s) (plainFrame code body) code key5 ∧ bodyOf (plainFrame code body) = body := by
  have hh := plainFrame_header code body hc
  obtain ⟨-, -, hq, -, hf⟩ := plainFrame_facts code body hb
  refine ⟨⟨serving_takes _ s code body, ?_, hf, ?_, ⟨plainKey, rfl, plainFrame_signed code body hb⟩, ?_⟩, hq⟩
  · rw [hh]; exact Nat.mod_eq_of_lt hc
  · rw [hh]; rfl
  · intro c h
    cases h
    rw [hh]
    exact (by decide : (3 : Word).toNat < (4 : Word).toNat)

theorem wit_RequestChecks_codes : (BitVec.ofNat 16 0x99).toNat ∉ knownCodes ∧ (0x02 : Nat) < 65536 ∧ ([] : List Byte).length ≠ 1 ∧
    ([9] : List Byte).length = 1 ∧ foldAt (serving base) (leField [9] 0 1) = none ∧ (serving base).svc.bootStep = 5 ∧
    (serving base).svc.powerCycle = false ∧ isSubmitted (serving base) ⟨true, [], []⟩ = false := by decide

/-- A frame of no bytes breaks the layout, a frame names a key that is not registered, one is not signed by its key, and one has a COUNT that
is too low. -/
theorem wit_RequestChecks (s : State) : frameOk ⟨false, [], []⟩ = false ∧
    registered (servingKeys [] s) (headerOf (plainFrame 0x99 [])).keyid = none ∧
    registered (servingKeys [⟨5, some ⟨0, 1⟩, none⟩] s) (headerOf (plainFrame 0x99 [])).keyid = some ⟨5, some ⟨0, 1⟩, none⟩ ∧
    frameSigned ⟨0, 1⟩ (plainFrame 0x99 []) = false ∧
    registered (servingKeys [⟨5, some plainKey, some 4⟩] s) (headerOf (plainFrame 0x99 [])).keyid = some ⟨5, some plainKey, some 4⟩ ∧
    (headerOf (plainFrame 0x99 [])).count.toNat ≤ (4 : Word).toNat := by
  rw [plainFrame_header 0x99 [] (by decide)]
  refine ⟨by decide, rfl, rfl, ?_, rfl, by decide⟩
  simp [frameSigned, pssVerify]

/-- The body of a FOLDNEW of a fold with die 1, whose memory is interleaved. -/
def foldBody (n isize : Nat) : List Byte := leBytes 1 n ++ leBytes 3 0 ++ leBytes 4 2 ++ leBytes 8 0 ++ leBytes 8 isize ++ List.replicate 932 0

/-- The body of a VFSET of fold 0. -/
def vfBody (n q : Nat) : List Byte := leBytes 2 n ++ leBytes 1 0 ++ leBytes 1 1 ++ leBytes 4 q ++ leBytes 8 0 ++ leBytes 8 fetchRoot

/-- Does a body of FOLDNEW name a new fold with free dies and a legal map? -/
def foldnewGoes (s : State) (b : List Byte) : Option Bool := (parseFoldNew b).map fun x =>
  (foldAt s x.fold).isNone && !x.dies.isEmpty && x.dies.all (fun n => dieEnabled s n && (dieAt s n).fold.isNone) && mapOk x.map x.dies

theorem wit_FoldAndVfRequests_folds : foldnewGoes (serving base) (foldBody 1 0x40000000) = some true ∧
    foldnewGoes (serving base) (foldBody 0 0x40000000) = some false ∧ foldnewGoes (serving base) (foldBody 1 0x40000001) = some false ∧
    parseFoldNew [] = none ∧ (foldAt (serving base) (leField [0] 0 1)).isSome = true := by decide +kernel

/-- A body of FOLDSET of fold 0 that changes a part, with its value. -/
def setBody (what : Nat) (value : List Byte) : List Byte := leBytes 1 0 ++ leBytes 1 what ++ leBytes 6 0 ++ value

theorem wit_FoldAndVfRequests_sets : ([leBytes 1 127, leBytes 1 2, List.replicate 388 0, List.replicate 24 1].map fun v => (setBody 0 v).length) =
      [9, 9, 396, 32] ∧ (([0, 1, 2, 3, 4] : List Nat).all fun n => leField (setBody n [2]) 1 1 == n && leField (setBody n [2]) 8 1 == 2 &&
      leField (setBody n [2]) 0 1 == 0) = true ∧ (foldAt (serving base) 0).isSome = true ∧
    ((List.range 6).all fun i => (#v[1, 2, 3, 4, 5, 6] : Vector Nat 6)[i]? ==
      some (leField (setBody 3 ([1, 2, 3, 4, 5, 6].flatMap (leBytes 4))) (8 + 4 * i) 4)) = true := by decide +kernel

/-- A body of RCT of fold 0 whose words are all one word. -/
def rctBody (w : Nat) : List Byte := leBytes 4 0 ++ (List.replicate 8 (leBytes 4 w)).flatten

/-- A second VF of fold 0. -/
def withVfs (n : Nat) : State := { serving base with vfs := (List.range n).map fun i => { fetchVf with num := i } }

theorem wit_FoldAndVfRequests_classes :
    (parseRct (rctBody 0xFFFF0)).any (fun t => t.1 == 0 && t.2.all fun w => w.extractLsb' 4 16 != 0) = true ∧
    (parseRct (rctBody 0)).any (fun t => t.1 == 0 && t.2.any fun w => w.extractLsb' 4 16 == 0) = true := by decide +kernel

theorem wit_FoldAndVfRequests_vfs :
    parseVfSet (vfBody 1 1000) = some ⟨1, 0, 1, 1000, 0, fetchRoot⟩ ∧ vfAt (serving base) 1 = none ∧
    ((serving base).vfs.filter fun v => v.fold == 0).length < 64 ∧ parseVfSet (vfBody 0 1000) = some ⟨0, 0, 1, 1000, 0, fetchRoot⟩ ∧
    (vfAt (serving base) 0).any (fun v => v.queueBlock == 0 && v.root == fetchRoot && v.fold == 0) = true ∧
    parseVfSet (vfBody 0 0) = some ⟨0, 0, 1, 0, 0, fetchRoot⟩ ∧ parseVfSet (vfBody 64 1000) = some ⟨64, 0, 1, 1000, 0, fetchRoot⟩ ∧
    vfAt (withVfs 64) 64 = none ∧ 64 ≤ ((withVfs 64).vfs.filter fun v => v.fold == 0).length ∧
    (vfAt (serving base) 0).any (fun v => v.root != 0) = true := by decide +kernel

theorem wit_FoldAndVfRequests_removal : ([0, 0] : List Byte).length = 2 ∧ (vfAt (serving base) (leField [0, 0] 0 2)).isSome = true ∧
    (serving base).launches = [] ∧ (serving launched).launches = [launch0] ∧ launch0.vf = 0 ∧ launch0.phase ≠ .waiting := by decide

/-- A state whose fold 0 has a window, and has exported a handle to fold 0. -/
def exported : State := serving { base with folds := [{ fold0 with
  map := { fold0.map with wsize := 0x10000000 }, handles := [⟨7, 0, 0, 0, 0x4000000, 3, 0, 0, [], false⟩] }] }

/-- A body of HANDLE of VF 0. -/
def handleBody (op rights : Nat) (h base length importer endpoint : Nat) : List Byte :=
  leBytes 1 op ++ leBytes 1 rights ++ leBytes 2 0 ++ leBytes 4 0 ++ leBytes 8 h ++ leBytes 8 base ++ leBytes 8 length ++ leBytes 1 importer ++
    leBytes 7 0 ++ leBytes 16 endpoint

/-- What an install comes to: whether its window is free, and whether the handle allows it. -/
def installs (b : List Byte) : Option (Bool × Option Bool) := (parseHandle 1 b).bind fun h => (foldAt exported 0).map fun f =>
  (windowFree exported f h.base h.length, ((allHandles exported).find? fun e => e.id == h.handle && e.endpoint == 0).map fun e =>
    !e.revoked && e.importer == f.num && decide (h.length ≤ e.length))

theorem wit_ServiceRequests_handles : (vfAt exported 0).isSome = true ∧ (parseHandle 0 (handleBody 0 3 0 0 0x4000000 0 0)).isSome = true ∧
    installs (handleBody 1 0 7 0 0x4000000 0 0) = some (true, some true) ∧ installs (handleBody 1 0 7 0 0x8000000 0 0) = some (true, some false) ∧
    installs (handleBody 1 0 7 1 0x4000000 0 0) = some (false, some true) ∧ installs (handleBody 1 3 9 0 0x4000000 0 1) = some (true, none) ∧
    ((parseHandle 2 (handleBody 2 0 7 0 0 0 0)).map fun h => (allHandles exported).any fun e => e.id == h.handle && e.vf == h.vf) = some true ∧
    ((allHandles exported).find? fun e => e.id == 7).map (·.vf) ≠ some 1 ∧ droversTake exported 0 = true ∧
    droversTake (setSvc exported { exported.svc with swapping := true }) 0 = false := by decide +kernel

/-- A file of one TEXT section of eight bytes at 0x10000. -/
def file0 (version : Nat) : List Byte :=
  leBytes 4 0x00464F5A ++ leBytes 2 version ++ leBytes 2 2 ++ leBytes 2 2 ++ leBytes 2 0 ++ leBytes 4 0 ++ leBytes 8 64 ++ leBytes 8 168 ++
    List.replicate 80 0 ++ leBytes 4 0 ++ leBytes 2 1 ++ leBytes 2 2 ++ leBytes 8 160 ++ leBytes 8 8 ++ leBytes 8 0x10000 ++ leBytes 4 2 ++
    List.replicate 20 0

/-- The body of a LOAD of that file for VF 0. -/
def loadBody (version : Nat) : List Byte := List.replicate 8 0 ++ file0 version

/-- Does a plan place the file, and in free memory? -/
def plans (plan : LoadPlan) : Option (Option Bool) := (vfAt (serving base) 0).map fun v => (planOf (serving base) v (file0 1) plan).map fun rows =>
  planFree (serving base) v plan rows (rows.foldl (loadPage (file0 1) v) (serving base, plan.pool)).2

theorem wit_ServiceRequests_load : (loadBody 1).length = 176 ∧ fileOk (file0 1) = true ∧ fileOk (file0 2) = false ∧
    (vfAt (serving base) (leField (loadBody 1) 0 2)).isSome = true ∧ (foldAt (serving base) 0).any (fun f => f.codeKey.isNone) = true ∧
    plans ⟨[0x200000], 0x32000000⟩ = some (some true) ∧ plans ⟨[], 0x32000000⟩ = some none ∧ plans ⟨[0x32000000], 0x32000000⟩ = some (some false) ∧
    launchesOf (file0 1) = [] ∧ loadAppend 0 (some (serving queued)) (0, 0x10100) ≠ none ∧ loadAppend 0 (some (serving base)) (0, 0x10100) = none := by
  decide +kernel

/-- The counted state of a request of some CODE. -/
def afterCount (s : State) : State := setKey s { key5 with count := some 4 }

theorem counted_plain (s : State) (code : Nat) (body) (hc : code < 65536) : counted s (plainFrame code body) key5 = afterCount s := by
  rw [counted, plainFrame_header code body hc]
  rfl

theorem wit_ServiceRequests : (vfAt exported (leField [0, 0] 0 2)).isSome = true ∧
    (parseMigrate (leBytes 2 0 ++ leBytes 30 0)).any (fun b => decide (b.2.1 ≤ 31) && (vfAt exported b.1).isSome) = true ∧
    (exported.svc.measured.flatMap logEntry).length + 416 ≤ 65088 ∧ (1 ≤ leField [2, 0] 0 2 ∧ leField [2, 0] 0 2 ≤ 3) ∧ exported.ras.length ≤ 0 + 2711 ∧
    parseKeyAdd (leBytes 4 9 ++ List.replicate 388 0) = some (9, ⟨0, 0⟩) ∧ registered (afterCount exported) 9 = none ∧
    (registered (afterCount exported) 5).isSome = true ∧ leField [5, 0, 0, 0] 0 4 = 5 ∧
    (registered (afterCount (servingKeys [key5, ⟨6, some ⟨0, 1⟩, none⟩] base)) 6).isSome = true := by decide +kernel

/-- The measurement log has 64 bytes an entry. -/
theorem quoteLog_length (n : Nat) (m : Measured) : ((List.replicate n m).flatMap logEntry).length = 64 * n := by
  have h : (logEntry m).length = 64 := by simp [logEntry, leBytes_length]
  induction n with
  | zero => rfl
  | succ n ih => rw [List.replicate_succ, List.flatMap_cons, List.length_append, h, ih]; omega

theorem wit_ServiceRequests_quote (m : Measured) : 65088 < ((List.replicate 1011 m).flatMap logEntry).length + 416 := by
  rw [quoteLog_length]; decide

theorem wit_ServiceRequests_images : imageOk (serving (flashed [])).svc (plainImage 2 []) = true ∧ imageOk (serving base).svc [] = false ∧
    (({ base.svc with running := [measureOf (plainImage 2 [])] } : Module).running.find? fun g => g.kind == 2).isSome = true ∧
    0 + 2711 < (List.replicate 2712 (⟨.isolation, 0, 0⟩ : RasRec)).length := by
  refine ⟨plainImage_ok (by simp only [serving, servingKeys, flashed]) rfl (by decide) (by decide) (by decide), rfl, ?_, by rw [List.length_replicate]; decide⟩
  simp [measureOf, plainImage_kind]

/-! ## More witnesses: the remaining cases of earlier statements -/

/-- Where END finds no frame of FENTER and no child left: does its retirement wait for the copy of a page? -/
def ending (s : State) : Option Bool :=
  if curEnt s || childrenLeft s != 0 then none else some (rootCopies (joined s) (endFrame (closeRegion (retired (joined s))))).isSome

theorem wit_FoldForkAndJoin_end : ending framed = some false ∧ ending parented = some true ∧ curEnt entered = true ∧
    (withChild (List.replicate 32 ⟨0x10000, 0, 0, 0, Vector.replicate 6 0⟩)).core.sync.deque.length = 32 ∧ (phased 0).core.sync.phase.isSome = true := by
  decide +kernel

/-- What the read of a gate entry gives: good, malformed, or nothing. -/
def gateCase (s : State) (va : Word) : Nat :=
  match readGate s va with
  | .ok _ lo hi => if gateMalformed lo hi then 1 else 0
  | .bad _ => 2
  | _ => 3

theorem wit_Gates_entries : (gated.core.gates.find? fun e => e.va == 0x11010) = some ⟨0x11010, 0x10080, 0x101⟩ ∧ gateCase gated 0x11010 = 0 ∧
    gateCase gated 0x11000 = 1 ∧ gateCase gated 0x8000000000000000 = 2 := by decide +kernel

theorem wit_CsrAccess_instret : CsrLegal base 0x021 0 ∧ modeAllows 0x021 7 := by unfold CsrLegal modeAllows; decide

theorem wit_CsrReadBack_stages : (loopAt (looping 2) 1).act = true ∧ (loopAt base 1).act = false := by decide

/-- A switch out is due, and only the open phase of the core in focus delays it. -/
def phaseOnly : State := { phased 0 with folds := [{ fold0 with switchT := some 0 }], now := 10000000 }

theorem wit_BarriersTriggersLaunches_sstep : phaseOnly.core.sync.phase ≠ none ∧ switchDue phaseOnly phaseOnly.core = true ∧
    phaseOnly.core.sync.npr = false ∧ phaseOnly.core.occ ≠ .task ∧
    (let p := readPrio (release sharing sharing.core.pos 2 allRegions) 0x10100
     p.2 = some 0 ∧ (appendWaits p.1 0 0 0x10100).isSome = true) := by decide +kernel

theorem wit_PagesAndCopies_engines : enginesRun (commanded []) base.core.pos.cluster = true ∧
    enginesRun (switching 5 false false) base.core.pos.cluster = false ∧
    (foldAt { base with folds := [fold0, { fold0 with num := 1 }] } 1).isSome = true ∧ (vfAt base 0).any (fun v => v.fold != 1) = true := by decide

/-! ## Worked examples of the spec -/

/-- R175: the immediate of ADDI is sign-extended: −1 added to zero. -/
theorem test_addi_wraps : xr (next (exec (.addi 5 0 0x1FFF) base)) 5 = BitVec.allOnes 64 := by decide

/-- R173: a division by zero gives all ones and the dividend. -/
theorem test_div_by_zero : xr (next (exec (.div 5 1 0) (withX [(1, 7)]))) 5 = BitVec.allOnes 64 ∧
    xr (next (exec (.rem 5 1 0) (withX [(1, 7)]))) 5 = 7 := by decide

/-- R173: the most negative number divided by −1. -/
theorem test_div_overflow : xr (next (exec (.div 5 1 2) (withX [(1, 0x8000000000000000), (2, BitVec.allOnes 64)]))) 5 = 0x8000000000000000 ∧
    xr (next (exec (.rem 5 1 2) (withX [(1, 0x8000000000000000), (2, BitVec.allOnes 64)]))) 5 = 0 := by decide

/-- R171: x0 reads 0 and discards a write. -/
theorem test_x0_discards : xr (next (exec (.addi 0 0 5) base)) 0 = 0 := by decide

/-- R180, the example: 1 + 2^−23 rounds to 1.0 in FP16 and raises NX. -/
theorem test_fcvt_ff16 : xr (next (exec (.fcvtFf16 9 9) (withX [(9, 0x3F800001)]))) 9 = 0x3C00 ∧
    (next (exec (.fcvtFf16 9 9) (withX [(9, 0x3F800001)]))).core.regs.fflags = (next (exec (.fdiv 9 9 10) (withX [(9, 0x3F800000), (10, 0x40400000)]))).core.regs.fflags := by
  decide

/-- R183, the example: JAL x1, .+8. -/
theorem test_jal : (next (exec (.jal 1 2) base)).core.regs.pc = 0x10008 ∧ xr (next (exec (.jal 1 2) base)) 1 = 0x10004 := by decide

/-- R203: FADR x7, d2.1 gives d(2) + 40 + 8 and reads nothing. -/
theorem test_fadr : xr (next (exec (.fadr 7 2 1) framed)) 7 = tcmVa framed.core.pos 48 := by decide

/-- R203: slot 8 of a frame of 8 slots raises cause 9 with subcode 2. -/
theorem test_fld_bad_slot : (next (exec (.fld 7 2 8) { framed with core := { framed.core with trap := handled.core.trap } })).core.trap.cause = 9 ∧
    (next (exec (.fld 7 2 8) { framed with core := { framed.core with trap := handled.core.trap } })).core.trap.tval = 0x0200000000000808 := by decide

/-- R160, R156: BKPT raises cause 3 with TVAL 0 and its own PC in EPC. -/
theorem test_bkpt : let t := next (exec .bkpt handled)
    t.core.trap.cause = 3 ∧ t.core.trap.tval = 0 ∧ t.core.trap.epc = 0x10000 ∧ t.core.regs.pc = 0x4000 ∧ t.core.regs.level = 2 := by decide

/-- R232, the example: from STATE 1 the first draw leaves 0x40822041 and returns 0. -/
theorem test_first_draw : draws 1 1 = (0x40822041, [0]) := by decide

/-- The fold of the example after R121. -/
def fold4 : Fold := newFold 0 Config.saveMaxUs ⟨0, 0, 0, [0, 1, 2, 3], ⟨0, 0x2000000000, 0, 0, 0, 0, []⟩, none⟩

/-- The example after R121: the home dies and the slice of PA 0x1234567000. -/
theorem test_home_die : homeDie fold4 0 0 0x1234567000 = some (some 33) ∧ homeDie fold4 1 0 0x1234567000 = some (some 32) ∧
    homeSlice 0x1234567000 = 2 := by decide

/-- The products of the example after R240 that its mask lets through. -/
def products : List Ex := [dyadic false 1 0, dyadic false 3 (-65), dyadic true 5 (-65)]

/-- The example after R240: 1 + 1.5 · 2^−64 − 1.25 · 2^−63 is summed at 2^−63 and rounds to 1.0, with NX. -/
theorem test_sum_group : (accumulate false 0 (sumGroup products 0).1).1 = 0x3FF00000000000 ∧ (sumGroup products 0).2 = flagNX := by decide +kernel

/-- The tiles t2 and t5 of the example of the factorising section, and its core 7; k3 = 0x24, x5 = 0. -/
def factored : State :=
  let acc (l : List (Nat × Acc)) : Vector Acc 256 := l.foldl (fun v p => vset v p.1 p.2) (Vector.replicate 256 0)
  let t2 : Tile := { Tile.reset with valid := true, rowv := 3, acc := acc [(0, 0x40000000000000), (1, 0x3FF00000000000), (2, 0x3FF00000000000),
    (16, 0xC0100000000000), (17, 0x40000000000000), (18, 0x40100000000000)] }
  let t5 : Tile := { Tile.reset with valid := true, rowv := 1, acc := acc [(0, 0x3FF00000000000), (1, 0x400C0000000000), (2, 0x40100000000000)] }
  let s := mat 5 [(2, t2), (5, t5)] FactorSet.reset NegGroup.reset Trough.reset
  { s with core := { s.core with pos := { s.core.pos with core := 7 }, vec := { s.core.vec with k := vset s.core.vec.k 3 0x24 } } }

/-- The example's FBEGIN: A0 = MX = 4 and G = 1.0. -/
theorem test_fbegin : let f := (next (exec (.fbegin 3) factored)).core.mat.fset
    f.isOpen = true ∧ f.set = 0x24 ∧ f.a0 = 0x40100000000000 ∧ f.mx = 0x40100000000000 ∧ f.g = 0x3FF00000000000 := by decide +kernel

/-- The example's first FCOL: the pivot, the map of t2, the multipliers, MX and G. -/
theorem test_fcol : let m := (next (exec (.fcol 5) (next (exec (.fbegin 3) factored)))).core.mat
    m.fset.ph[0] = 0x0000000100071201 ∧ m.fset.mx = 0x40140000000000 ∧ m.fset.g = 0x3FF40000000000 ∧ m.tiles[2].map[0] = 1 ∧ m.tiles[2].map[1] = 0 ∧
      m.tiles[2].acc[0] = 0xBFE00000000000 ∧ m.tiles[2].acc[2] = 0x40080000000000 ∧ m.tiles[5].acc[0] = 0xBFD00000000000 ∧
      m.tiles[5].acc[2] = 0x40140000000000 := by decide +kernel

/-- SHA-256 of "abc", as FIPS 180 publishes it. -/
theorem test_sha256 : ofBeBytes (sha256 [0x61, 0x62, 0x63]) = 0xBA7816BF8F01CFEA414140DE5DAE2223B00361A396177A9CB410FF61F20015AD := by
  decide +kernel

/-- R142: SETM 0xD6. -/
theorem test_setm : (next (exec (.setm 0xD6) base)).core.regs.mode = 0xD6 := by decide

/-- The example at the end of the vector section: under GUARD with a pushed mask of 0 a lane of v8 keeps 1.0, with all ones it takes 2.0. -/
theorem test_guarded_vadd : (next (exec (.vadd 8 8 9 0) (vec 0x105 [(8, 0x3F800000), (9, 0x3F800000)] [0]))).core.vec.v[8] = 0x3F800000 ∧
    (next (exec (.vadd 8 8 9 0) (vec 0x105 [(8, 0x3F800000), (9, 0x3F800000)] [1]))).core.vec.v[8] = 0x40000000 := by decide +kernel

/-- R271, the example: VSCL.SET.F2 v4, x7 with 0x7F800. -/
theorem test_vscl_set : (next (exec (.vsclSet 4 7 2) (withX [(7, 0x7F800)]))).core.vec.scales[4][2] = 0x7F800 := by decide

/-- R276: a byte stored to the own TCM is loaded back with its sign. -/
theorem test_sb_lb : let s := next (exec (.sb 2 1 0) (withX [(1, tcmVa base.core.pos 64), (2, 0x80)]))
    xr (next (exec (.lb 5 1 0) s)) 5 = 0xFFFFFFFFFFFFFF80 ∧ xr (next (exec (.lbu 5 1 0) s)) 5 = 0x80 := by decide

/-- A step runs the word that the PC names: 0x0C18_0000 is ADDI x6, x0, 0. -/
theorem test_step : (next (step (State.reset.withFetchWord 32 0x0C180007))).core.regs.pc = 0x10004 ∧
    xr (next (step (State.reset.withFetchWord 32 0x0C180007))) 6 = 7 := by decide +kernel

end Tests

end Sys2Proof
end

namespace Sys2Proof.Machine

/-! ## Integer results (R172, R173) -/

/-- A left shift is the product with a power of two, reduced to 64 bits. -/
theorem shiftLeft_eq_ofNat (x : Word) (n : Nat) : x <<< n = BitVec.ofNat 64 (x.toNat * 2 ^ n) := by
  apply BitVec.eq_of_toNat_eq
  rw [BitVec.toNat_shiftLeft, BitVec.toNat_ofNat, Nat.shiftLeft_eq]

/-- A logical right shift is the quotient by a power of two. -/
theorem ushiftRight_eq_ofNat (x : Word) (n : Nat) : x >>> n = BitVec.ofNat 64 (x.toNat / 2 ^ n) := by
  apply BitVec.eq_of_toNat_eq
  have hlt : x.toNat / 2 ^ n < 2 ^ 64 := Nat.lt_of_le_of_lt (Nat.div_le_self _ _) x.isLt
  rw [BitVec.toNat_ushiftRight, BitVec.toNat_ofNat, Nat.shiftRight_eq_div_pow, Nat.mod_eq_of_lt hlt]

/-- An arithmetic right shift is the floor quotient of the signed value by a power of two. -/
theorem sshiftRight_eq_ofInt (x : Word) (n : Nat) : x.sshiftRight n = BitVec.ofInt 64 (x.toInt / 2 ^ n) := by
  rw [BitVec.sshiftRight, Int.shiftRight_eq_div_pow]
  norm_cast

/-- A product is that of the unsigned values, reduced to 64 bits. -/
theorem mul_eq_ofNat (x y : Word) : x * y = BitVec.ofNat 64 (x.toNat * y.toNat) := by
  apply BitVec.eq_of_toNat_eq
  rw [BitVec.toNat_mul, BitVec.toNat_ofNat]

/-- A signed quotient truncates toward zero; −2^63 by −1 wraps to −2^63 (R173). -/
theorem divSigned_eq (x y : Word) :
    divSigned x y = if y = 0 then BitVec.allOnes 64 else BitVec.ofInt 64 (x.toInt.tdiv y.toInt) := by
  have hq : x.sdiv y = BitVec.ofInt 64 (x.toInt.tdiv y.toInt) := by
    apply BitVec.eq_of_toInt_eq
    rw [BitVec.toInt_sdiv, BitVec.toInt_ofInt]
  rw [divSigned, hq]

/-- An unsigned quotient is the floor (R173). -/
theorem divUnsigned_eq (x y : Word) :
    divUnsigned x y = if y = 0 then BitVec.allOnes 64 else BitVec.ofNat 64 (x.toNat / y.toNat) := by
  have hq : x / y = BitVec.ofNat 64 (x.toNat / y.toNat) := by
    rw [← BitVec.toNat_udiv, BitVec.ofNat_toNat, BitVec.setWidth_eq]
  rw [divUnsigned, hq]

/-- A signed remainder has the sign of the dividend (R173). -/
theorem remSigned_eq (x y : Word) : remSigned x y = if y = 0 then x else BitVec.ofInt 64 (x.toInt.tmod y.toInt) := by
  have hr : x.srem y = BitVec.ofInt 64 (x.toInt.tmod y.toInt) := by
    rw [← BitVec.toInt_srem, BitVec.ofInt_toInt]
  rw [remSigned, hr]

/-- An unsigned remainder (R173). -/
theorem remUnsigned_eq (x y : Word) : remUnsigned x y = if y = 0 then x else BitVec.ofNat 64 (x.toNat % y.toNat) := by
  have hr : x % y = BitVec.ofNat 64 (x.toNat % y.toNat) := by
    rw [← BitVec.toNat_umod, BitVec.ofNat_toNat, BitVec.setWidth_eq]
  rw [remUnsigned, hr]

/-- A signed comparison as a word. -/
theorem bitWord_slt (x y : Word) : bitWord (x.slt y) = if x.toInt < y.toInt then 1 else 0 := by
  simp [bitWord, BitVec.slt]

/-- An unsigned comparison as a word. -/
theorem bitWord_ult (x y : Word) : bitWord (x.ult y) = if x.toNat < y.toNat then 1 else 0 := by
  simp [bitWord, BitVec.ult]

/-- The smaller of two by a signed comparison. -/
theorem ite_slt_min (x y : Word) : (if y.slt x then y else x) = if x.toInt ≤ y.toInt then x else y := by
  simp only [BitVec.slt, decide_eq_true_eq, ← Int.not_le, ite_not]

/-- The smaller of two by an unsigned comparison. -/
theorem ite_ult_min (x y : Word) : (if y.ult x then y else x) = if x.toNat ≤ y.toNat then x else y := by
  simp only [BitVec.ult, decide_eq_true_eq, ← Nat.not_le, ite_not]

/-- The larger of two by a signed comparison: equal values are one word. -/
theorem ite_slt_max (x y : Word) : (if x.slt y then y else x) = if x.toInt ≤ y.toInt then y else x := by
  rcases Int.lt_trichotomy x.toInt y.toInt with hlt | heq | hgt
  · simp [BitVec.slt, hlt, Int.le_of_lt hlt]
  · rw [BitVec.eq_of_toInt_eq heq, ite_self, ite_self]
  · simp [BitVec.slt, Int.not_lt.2 (Int.le_of_lt hgt), Int.not_le.2 hgt]

/-- The larger of two by an unsigned comparison: equal values are one word. -/
theorem ite_ult_max (x y : Word) : (if x.ult y then y else x) = if x.toNat ≤ y.toNat then y else x := by
  rcases Nat.lt_trichotomy x.toNat y.toNat with hlt | heq | hgt
  · simp [BitVec.ult, hlt, Nat.le_of_lt hlt]
  · rw [BitVec.eq_of_toNat_eq heq, ite_self, ite_self]
  · simp [BitVec.ult, Nat.not_lt.2 (Nat.le_of_lt hgt), Nat.not_le.2 hgt]

/-- The high half of a signed product. -/
theorem mulh_eq (x y : Word) :
    BitVec.ofInt 64 (x.toInt * y.toInt / (2 ^ 64 : Nat)) = BitVec.ofInt 64 (x.toInt * y.toInt / 2 ^ 64) := by
  norm_cast

/-- An R-format integer instruction computes its function of the two operands (R171, R172). -/
theorem computes_alu2 {i : Instr} {s : State} {d a b : Reg} {f : Word → Word → Word} {v : Word} (h : Ready s)
    (he : exec i s = alu2 s d a b f) (hv : f (xr s a) (xr s b) = v) : Computes i s d v :=
  computes_of h he (by rw [← hv])

end Sys2Proof.Machine

section

open Sys2Proof Sys2Proof.Machine

/-- Settles O1, by the word identity of each operation. -/
theorem integerRegisterForms : Obligations.IntegerRegisterForms := by
  intro s d a b h x y sh
  exact ⟨computes_alu2 h (Eq.refl (execAdd d a b s)) rfl,
    computes_alu2 h (Eq.refl (execSub d a b s)) rfl,
    computes_alu2 h (Eq.refl (execAnd d a b s)) rfl,
    computes_alu2 h (Eq.refl (execOr d a b s)) rfl,
    computes_alu2 h (Eq.refl (execXor d a b s)) rfl,
    computes_alu2 h (Eq.refl (execSll d a b s)) (shiftLeft_eq_ofNat x sh),
    computes_alu2 h (Eq.refl (execSrl d a b s)) (ushiftRight_eq_ofNat x sh),
    computes_alu2 h (Eq.refl (execSra d a b s)) (sshiftRight_eq_ofInt x sh),
    computes_alu2 h (Eq.refl (execSlt d a b s)) (bitWord_slt x y),
    computes_alu2 h (Eq.refl (execSltu d a b s)) (bitWord_ult x y),
    computes_alu2 h (Eq.refl (execMin d a b s)) (ite_slt_min x y),
    computes_alu2 h (Eq.refl (execMax d a b s)) (ite_slt_max x y),
    computes_alu2 h (Eq.refl (execMinu d a b s)) (ite_ult_min x y),
    computes_alu2 h (Eq.refl (execMaxu d a b s)) (ite_ult_max x y),
    computes_alu2 h (Eq.refl (execMul d a b s)) (mul_eq_ofNat x y),
    computes_alu2 h (Eq.refl (execMulh d a b s)) (mulh_eq x y),
    computes_alu2 h (Eq.refl (execMulhu d a b s)) rfl,
    computes_alu2 h (Eq.refl (execDiv d a b s)) (divSigned_eq x y),
    computes_alu2 h (Eq.refl (execDivu d a b s)) (divUnsigned_eq x y),
    computes_alu2 h (Eq.refl (execRem d a b s)) (remSigned_eq x y),
    computes_alu2 h (Eq.refl (execRemu d a b s)) (remUnsigned_eq x y)⟩

end

namespace Sys2Proof.Machine

/-! ## Branches and jumps (R182 to R184, R190) -/

/-- A word offset shifted into bytes is four times its signed value (R135). -/
theorem signExtend_words {n : Nat} (o : BitVec n) : o.signExtend 64 <<< 2 = BitVec.ofInt 64 (4 * o.toInt) := by
  rw [BitVec.shiftLeft_eq_mul_twoPow, BitVec.ofInt_mul, BitVec.mul_comm]
  rfl

/-- A branch target is PC + 4 × the offset (R135, R182). -/
theorem branchTarget_eq (s : State) (o : BitVec 13) : branchTarget s o = wordsOn s o.toInt := by
  rw [branchTarget, signExtend_words]
  rfl

section
variable {i : Instr} {s : State} {rs : List Reg} {k : State → State} {c : Bool} {o : BitVec 13} {P : Prop} [Decidable P]

/-- A branch goes to its target when its condition holds, and else to the next word (R182). -/
theorem goesTo_of_branchIf (h : Ready s) (he : exec i s = .next (strand s rs k)) (hk : k s = branchIf s c o) :
    GoesTo i s (if c then wordsOn s o.toInt else wordsOn s 1) := by
  cases c with
  | true => exact goesTo_of h.1 he (hk.trans (congrArg (jumpTo s) (branchTarget_eq s o)))
  | false => exact goesNext_of h he hk

/-- A branch that is taken where P holds (R182). -/
theorem goesTo_branch_on (h : Ready s) (he : exec i s = .next (strand s rs k)) (hk : k s = branchIf s c o) (hc : c = decide P) :
    GoesTo i s (if P then wordsOn s o.toInt else wordsOn s 1) := by
  have hg := goesTo_of_branchIf h he hk
  simpa only [hc, decide_eq_true_eq] using hg

/-- A branch that is taken where P does not hold (R182). -/
theorem goesTo_branch_unless (h : Ready s) (he : exec i s = .next (strand s rs k)) (hk : k s = branchIf s c o) (hc : c = !decide P) :
    GoesTo i s (if P then wordsOn s 1 else wordsOn s o.toInt) := by
  rw [← ite_not]
  exact goesTo_branch_on h he hk (hc.trans (decide_not (p := P)).symm)

end

/-- With nothing queued no change of the mask stack is outstanding (R184). -/
theorem whenMasked_idle {s : State} (hq : s.core.q.queue = []) (k : State → State) : whenMasked s k = k s := by
  unfold whenMasked
  rw [waitQueue_met _ (by simp [hq])]

/-- Writing x(d) and jumping leaves the x registers but x(d), and everything but INSTRET, RCNT and the PC besides (R183). -/
theorem jumpTo_setX {s : State} (h : Quiet s) (d : Reg) (v pc : Word) :
    WroteX s (jumpTo (setX s d v) pc) d v ∧ OnlyX s (jumpTo (setX s d v) pc) := by
  have hq := (quiet_setX h d v).1
  have ho := jumpTo_onlyPc hq pc
  obtain ⟨hsame, hother⟩ := wroteX_setX s d v
  refine ⟨⟨fun hd => ?_, fun r hr => ?_⟩, ?_⟩
  · rw [onlyPc_xr ho, hsame hd]
  · rw [onlyPc_xr ho, hother r hr]
  · rw [jumpTo, retired_eq hq, setX_eq]
    rfl

/-- An instruction whose meaning writes PC + 4 to x(d) and jumps (R183). -/
theorem links_of {i : Instr} {s : State} {rs : List Reg} {k : State → State} {d : Reg} {pc : Word} (h : Quiet s)
    (he : exec i s = .next (strand s rs k)) (hk : k s = jumpTo (writeX s d (pcOf s + 4)) pc) : Links i s d pc := by
  have hx := quiet_setX h d (pcOf s + 4)
  obtain ⟨hw, ho⟩ := jumpTo_setX h d (pcOf s + 4) pc
  obtain ⟨hpc, hret⟩ := jumpTo_goes hx.1 pc
  refine ⟨jumpTo (setX s d (pcOf s + 4)) pc, ?_, hw, hpc, hret.trans ?_, ho⟩
  · rw [he, strand_quiet h, hk, writeX_idle h.1, settle_quiet (onlyPc_quiet (jumpTo_onlyPc hx.1 pc) hx)]
  · rw [setX_eq]
    rfl

/-- The two low bits of an address are its remainder by 4 (R132). -/
theorem lowBits_eq_zero_iff (t : Word) : t.extractLsb' 0 2 = 0 ↔ t.toNat % 4 = 0 := by
  rw [← BitVec.toNat_inj, BitVec.extractLsb'_toNat, Nat.shiftRight_zero]
  rfl

end Sys2Proof.Machine

section

open Sys2Proof Sys2Proof.Machine

/-- Settles O6, by the condition of each branch. -/
theorem branches : Obligations.Branches := by
  intro s a b o st n h x y off on top
  have masked (k : State → State) : whenMasked s k = k s := whenMasked_idle h.1.1 k
  exact ⟨goesTo_branch_on h (Eq.refl (execBeq a b o s)) rfl rfl,
    goesTo_branch_unless h (Eq.refl (execBne a b o s)) rfl rfl,
    goesTo_branch_on h (Eq.refl (execBlt a b o s)) rfl rfl,
    goesTo_branch_unless h (Eq.refl (execBge a b o s)) rfl rfl,
    goesTo_branch_on h (Eq.refl (execBltu a b o s)) rfl rfl,
    goesTo_branch_unless h (Eq.refl (execBgeu a b o s)) rfl rfl,
    goesTo_branch_on h (Eq.refl (execBmz o s)) (masked _) rfl,
    goesTo_branch_unless h (Eq.refl (execBmnz o s)) (masked _) rfl,
    fun _ => goesTo_branch_unless h (Eq.refl (execBst st n o s)) rfl (by rw [Bool.decide_eq_true])⟩

/-- Settles O7: the target of JALR is aligned, and it links, or misaligned, and it traps before it writes. -/
theorem jumps : Obligations.Jumps := by
  intro s d a u i h t
  refine ⟨?_, fun ht => ?_, fun ht => ?_⟩
  · exact links_of h (Eq.refl (execJal d u s)) (congrArg (fun v => jumpTo _ (pcOf s + v)) (signExtend_words u))
  · exact links_of h (Eq.refl (execJalr d a i s)) (if_neg (not_not.2 ((lowBits_eq_zero_iff t).2 ht)))
  · exact traps_of h (Eq.refl (execJalr d a i s)) (if_pos (mt (lowBits_eq_zero_iff t).1 ht))

end

namespace Sys2Proof.Machine

/-! ## Scalar FP32 (R177 to R181) -/

/-- With nothing queued no draw is waited for (R181). -/
theorem whenDrawn_idle {s : State} (hq : s.core.q.queue = []) (rounds : Bool) (k : State → State) : whenDrawn s rounds k = k s := by
  unfold whenDrawn
  rw [waitQueue_met _ (by simp [drawsOutstanding, hq]), ite_self]

/-- With nothing queued flags are merged at once (R166, R177). -/
theorem scalarFlags_idle {s : State} (hq : s.core.q.queue = []) (f : Flags) (own : Bool) :
    scalarFlags s f own = setRegs s { s.core.regs with fflags := s.core.regs.fflags ||| f } := by
  unfold scalarFlags
  by_cases hf : f = 0
  · have hor : s.core.regs.fflags ||| f = s.core.regs.fflags := by rw [hf]; exact BitVec.or_zero
    rw [if_pos hf, hor]
    rfl
  · rw [if_neg hf, if_pos (by rw [hq]; rfl)]

/-- A state with another value in SRSEED (R232). -/
def seeded (s : State) (seed : Word) : State := setRegs s { s.core.regs with srseed := seed }

/-- A value in SRSEED leaves a quiet core quiet. -/
theorem quiet_seeded {s : State} (h : Quiet s) (seed : Word) : Quiet (seeded s seed) := h

/-- With nothing queued an instruction that rounds draws under SR, and its draw moves SRSEED alone (R181). -/
theorem scalarDraw_rounds {s : State} (hq : s.core.q.queue = []) : scalarDraw s true = (seeded s (scalarSeed s), scalarBits s) := by
  unfold scalarDraw scalarSeed scalarBits
  rw [Bool.true_and, pushUndo_idle hq]
  cases mSr s.core.regs.mode <;> rfl

/-- An instruction that does not round takes no draw (R181). -/
theorem scalarDraw_exact (s : State) : scalarDraw s false = (seeded s s.core.regs.srseed, 0) := rfl

/-- What a scalar FP32 instruction writes before it falls through: SRSEED, x(d) and FFLAGS (R166, R177, R181). -/
def fpWrites (s : State) (d : Reg) (r : Nat × Flags) (seed : Word) : State :=
  let t := setX (seeded s seed) d (BitVec.ofNat 64 r.1)
  setRegs t { t.core.regs with fflags := t.core.regs.fflags ||| r.2 }

section
variable {s : State} {d : Reg} {r : Nat × Flags} {seed : Word}

/-- On a quiet core the strand's writes of a scalar FP32 instruction are made at once (R166). -/
theorem scalarFlags_writeX (h : Quiet s) (own : Bool) :
    scalarFlags (writeX (seeded s seed) d (BitVec.ofNat 64 r.1)) r.2 own = fpWrites s d r seed := by
  have hs := quiet_seeded h seed
  rw [writeX_idle hs.1, scalarFlags_idle (quiet_setX hs d _).1]
  rfl

/-- The writes change x(d), FFLAGS and SRSEED alone. -/
theorem fpWrites_eq : fpWrites s d r seed = setRegs s { s.core.regs with
    x := (fpWrites s d r seed).core.regs.x, srseed := seed, fflags := s.core.regs.fflags ||| r.2 } := by
  unfold fpWrites
  rw [setX_eq]
  rfl

/-- The writes leave a ready core ready. -/
theorem ready_fpWrites (h : Ready s) : Ready (fpWrites s d r seed) := by
  rw [fpWrites_eq]
  exact ⟨h.1, noLoopEnd_congr h.2 rfl rfl rfl⟩

/-- Of the x registers the writes change x(d) alone (R171). -/
theorem wroteX_fpWrites : WroteX s (fpWrites s d r seed) d (BitVec.ofNat 64 r.1) :=
  wroteX_setX (seeded s seed) d (BitVec.ofNat 64 r.1)

/-- Where no loop ends, the fall through after the writes leaves the x registers, and moves the PC, INSTRET and RCNT alone. -/
theorem fallThrough_fpWrites (h : Ready s) :
    let t := fallThrough (fpWrites s d r seed)
    WroteX s t d (BitVec.ofNat 64 r.1) ∧ Advances s t ∧ OnlyF s t ∧
      t.core.regs.fflags = s.core.regs.fflags ||| r.2 ∧ t.core.regs.srseed = seed := by
  intro t
  obtain ⟨⟨hq, _⟩, hn⟩ : Ready (fpWrites s d r seed) := ready_fpWrites h
  have ho : OnlyPc (fpWrites s d r seed) t := fallThrough_onlyPc hq hn
  obtain ⟨hsame, hother⟩ : WroteX s (fpWrites s d r seed) d (BitVec.ofNat 64 r.1) := wroteX_fpWrites
  refine ⟨⟨fun hd => ?_, fun q hne => ?_⟩, ?_⟩
  · rw [onlyPc_xr ho, hsame hd]
  · rw [onlyPc_xr ho, hother q hne]
  · simp only [t]
    rw [fallThrough_eq hq hn, retired_eq hq, fpWrites_eq]
    exact ⟨⟨rfl, rfl⟩, rfl, rfl, rfl⟩

end

section
variable {i : Instr} {s : State} {d : Reg} {rs : List Reg} {f : State → Nat → Nat × Flags} {r : Nat × Flags}

/-- A scalar FP32 instruction completes with its function's result and flags, taken of the operands and its draw (R177, R181). -/
theorem computesF_of_draw {rounds : Bool} {seed : Word} {bits : Nat} (h : Ready s) (he : exec i s = fp s d rs rounds f)
    (hdraw : scalarDraw s rounds = (seeded s seed, bits)) (hr : f s bits = r) : ComputesF i s d r seed := by
  have hw : Ready (fpWrites s d r seed) := ready_fpWrites h
  refine ⟨fallThrough (fpWrites s d r seed), ?_, fallThrough_fpWrites h⟩
  rw [he, fp, strand_quiet h.1, whenDrawn_idle h.1.1, hdraw]
  simp only
  rw [hr, scalarFlags_writeX h.1, settle_quiet (onlyPc_quiet (fallThrough_onlyPc hw.1.1 hw.2) hw.1)]

/-- A scalar FP32 instruction that rounds takes a draw under SR (R181). -/
theorem computesF_of_rounds (h : Ready s) (he : exec i s = fp s d rs true f) (hr : f s (scalarBits s) = r) :
    ComputesF i s d r (scalarSeed s) :=
  computesF_of_draw h he (scalarDraw_rounds h.1.1) hr

/-- A scalar FP32 instruction that does not round takes no draw (R181). -/
theorem computesF_of_exact (h : Ready s) (he : exec i s = fp s d rs false f) (hr : f s 0 = r) :
    ComputesF i s d r s.core.regs.srseed :=
  computesF_of_draw h he (scalarDraw_exact s) hr

end

/-- A value that comes with no flag and no signalling operand is rounded with the flags of its rounding alone (R228). -/
theorem rounded_exact (f : Fmt) (m : BitVec 18) (rnd : Nat) (v : Ex) : rounded f m rnd (v, 0) false = roundTo f (mRm m) (mSat m) rnd v := by
  simp [rounded, flagIf]

/-- A value that comes with no flag is rounded with the flags of its rounding, and NV for a signalling operand (R228). -/
theorem rounded_noFlags (f : Fmt) (m : BitVec 18) (rnd : Nat) (v : Ex) (sn : Bool) : rounded f m rnd (v, 0) sn =
    ((roundTo f (mRm m) (mSat m) rnd v).1, (roundTo f (mRm m) (mSat m) rnd v).2 ||| flagIf sn flagNV) := by
  simp [rounded]

section
variable {i : Instr} {s : State} {d a b : Reg}

/-- FMIN and FMAX give the operand that they pick, with NV for a signalling NaN (R179). -/
theorem computesF_fpPick {f : Ex → Ex → Ex} (h : Ready s) (he : exec i s = fpPick s d a b f) :
    ComputesF i s d ((roundTo fp32 1 false 0 (f (fp32.decode (single s a)) (fp32.decode (single s b)))).1,
      flagIf (fp32.snan (single s a) || fp32.snan (single s b)) flagNV) s.core.regs.srseed :=
  computesF_of_exact h he rfl

/-- FCMP gives 1 where its relation holds; where it is not quiet, any NaN sets NV (R179). -/
theorem computesF_fpCmp {quiet : Bool} {f : Ex → Ex → Bool} (h : Ready s) (he : exec i s = fpCmp s d a b quiet f) :
    ComputesF i s d (if f (fp32.decode (single s a)) (fp32.decode (single s b)) then 1 else 0,
      flagIf ((fp32.snan (single s a) || fp32.snan (single s b)) ||
        (!quiet && ((fp32.decode (single s a)).isNan || (fp32.decode (single s b)).isNan))) flagNV) s.core.regs.srseed :=
  computesF_of_exact h he rfl

/-- A quiet FCMP sets NV for a signalling NaN alone (R179). -/
theorem computesF_fpCmp_quiet {f : Ex → Ex → Bool} (h : Ready s) (he : exec i s = fpCmp s d a b true f) :
    ComputesF i s d (if f (fp32.decode (single s a)) (fp32.decode (single s b)) then 1 else 0,
      flagIf (fp32.snan (single s a) || fp32.snan (single s b)) flagNV) s.core.regs.srseed := by
  have hc := computesF_fpCmp h he
  simpa only [Bool.not_true, Bool.false_and, Bool.or_false] using hc

/-- An FCMP that is not quiet sets NV for any NaN (R179). -/
theorem computesF_fpCmp_anyNan {f : Ex → Ex → Bool} (h : Ready s) (he : exec i s = fpCmp s d a b false f) :
    ComputesF i s d (if f (fp32.decode (single s a)) (fp32.decode (single s b)) then 1 else 0,
      flagIf ((fp32.snan (single s a) || fp32.snan (single s b)) ||
        ((fp32.decode (single s a)).isNan || (fp32.decode (single s b)).isNan)) flagNV) s.core.regs.srseed :=
  computesF_fpCmp h he

/-- A widening conversion gives the value of the low bits in FP32, with NV for a signalling NaN (R180). -/
theorem computesF_fpWiden {f : Fmt} (h : Ready s) (he : exec i s = fpWiden s d a f) :
    ComputesF i s d ((roundTo fp32 1 false 0 (f.decode ((xr s a).toNat % 2 ^ f.width))).1,
      flagIf (f.snan ((xr s a).toNat % 2 ^ f.width)) flagNV) s.core.regs.srseed :=
  computesF_of_exact h he rfl

/-- A narrowing conversion rounds the FP32 operand once, under MODE and its draw (R180, R181). -/
theorem computesF_fpNarrow {f : Fmt} (h : Ready s) (he : exec i s = fpNarrow s d a f) :
    ComputesF i s d (rounded f s.core.regs.mode (scalarBits s) (fp32.decode (single s a), 0) (fp32.snan (single s a)))
      (scalarSeed s) :=
  computesF_of_rounds h he (rounded_noFlags f _ _ _ _).symm

end

end Sys2Proof.Machine

section

open Sys2Proof Sys2Proof.Machine

/-- Settles O4: each form is one scalar FP32 instruction, and what it computes is its function at the operands. -/
theorem floatCompareAndConvert : Obligations.FloatCompareAndConvert := by
  constructor
  · intro s d a b h
    exact ⟨computesF_fpPick h (Eq.refl (execFmin d a b s)),
      computesF_fpPick h (Eq.refl (execFmax d a b s)),
      computesF_fpCmp_quiet h (Eq.refl (execFcmpEq d a b s)),
      computesF_fpCmp_anyNan h (Eq.refl (execFcmpLt d a b s)),
      computesF_fpCmp_anyNan (f := fun x y => x.lt y || x.eq y) h (Eq.refl (execFcmpLe d a b s))⟩
  · intro s d a h
    exact ⟨computesF_of_rounds h (Eq.refl (execFcvtI64f d a s)) (rounded_exact fp32 _ _ _).symm,
      computesF_of_rounds h (Eq.refl (execFcvtFi64 d a s)) rfl,
      computesF_fpNarrow h (Eq.refl (execFcvtFf16 d a s)),
      computesF_fpNarrow h (Eq.refl (execFcvtFb16 d a s)),
      computesF_fpWiden h (Eq.refl (execFcvtF16f d a s)),
      computesF_fpWiden h (Eq.refl (execFcvtB16f d a s)),
      computesF_of_exact h (Eq.refl (execFcvtS20f d a s)) rfl,
      computesF_of_rounds h (Eq.refl (execFcvtFs20 d a s)) rfl⟩

end

namespace Sys2Proof.Machine

/-! ## Pivot magnitudes (R341) -/

/-- The rank of a magnitude in the search: finite values in their order, then infinity, then a NaN (R341). -/
def magRank : Ex → WithTop (WithTop ℚ)
  | .nan => ⊤
  | .inf _ => ((⊤ : WithTop ℚ) : WithTop (WithTop ℚ))
  | .fin _ n d _ => (((n / d : ℚ) : WithTop ℚ) : WithTop (WithTop ℚ))

/-- The denominator of a power of two is positive. -/
theorem pow2_den_pos (e : Int) : 0 < (pow2 e).2 := by
  unfold pow2
  split
  · exact Nat.one_pos
  · exact Nat.two_pow_pos _

/-- An encoding is a NaN, an infinity or a dyadic value (R224). -/
theorem decode_cases (f : Fmt) (b : Nat) :
    f.decode b = .nan ∨ (∃ neg, f.decode b = .inf neg) ∨ ∃ neg m e, f.decode b = dyadic neg m e := by
  unfold Fmt.decode
  simp only
  split_ifs
  · exact .inr (.inl ⟨_, rfl⟩)
  · exact .inl rfl
  · exact .inl rfl
  · exact .inr (.inr ⟨_, _, _, rfl⟩)
  · exact .inr (.inr ⟨_, _, _, rfl⟩)

/-- A magnitude of an accumulator is a NaN, +∞ or a ratio with a positive denominator. -/
theorem magOf_cases (a : Acc) : magOf a = .nan ∨ magOf a = .inf false ∨ ∃ n d, 0 < d ∧ magOf a = .fin false n d false := by
  unfold magOf accValue
  rcases decode_cases fa56 a.toNat with h | ⟨neg, h⟩ | ⟨neg, m, e, h⟩
  · exact .inl (by rw [h]; rfl)
  · exact .inr (.inl (by rw [h]; rfl))
  · exact .inr (.inr ⟨_, _, pow2_den_pos e, by rw [h]; rfl⟩)

/-- Of two finite magnitudes the larger ratio is the larger, and zero is the least. -/
theorem beats_fin (n d n' d' : Nat) :
    beats (.fin false n d false) (.fin false n' d' false) = decide (n * d' < n' * d) := by
  by_cases hz : n = 0 ∧ n' = 0
  · obtain ⟨rfl, rfl⟩ := hz
    simp [beats, Ex.lt, Ex.isNan]
  · have hz' : (n == 0 && n' == 0) = false := by simpa using hz
    simp [beats, Ex.lt, Ex.isNan, magLt, hz']

/-- A magnitude beats another as a pivot when its rank is higher. -/
theorem beats_magOf_iff (a b : Acc) : beats (magOf a) (magOf b) = true ↔ magRank (magOf a) < magRank (magOf b) := by
  rcases magOf_cases a with ha | ha | ⟨n, d, hd, ha⟩
  · rw [ha]
    simp [beats, Ex.isNan, magRank]
  · rw [ha]
    rcases magOf_cases b with hb | hb | ⟨n', d', -, hb⟩
    · simp [hb, beats, Ex.isNan, magRank]
    · simp [hb, beats, Ex.isNan, Ex.lt, magRank]
    · simp [hb, beats, Ex.isNan, Ex.lt, magRank]
  · rw [ha]
    rcases magOf_cases b with hb | hb | ⟨n', d', hd', hb⟩
    · simp [hb, beats, Ex.isNan, magRank]
    · simp [hb, beats, Ex.isNan, Ex.lt, magRank]
    · have hq : (n / d : ℚ) < n' / d' ↔ n * d' < n' * d := by
        rw [div_lt_div_iff₀ (by exact_mod_cast hd) (by exact_mod_cast hd')]
        norm_cast
      simp [hb, beats_fin, magRank, hq]

/-! ## The tiles of a set (R335) -/

/-- The tiles of a set are those of its mask. -/
theorem mem_setTiles {m : BitVec 8} {t : Nat} : t ∈ setTiles m ↔ t < 8 ∧ m.getLsbD t = true := by
  simp [setTiles]

/-- A mask with a tile is not empty. -/
theorem mask_ne_zero {m : BitVec 8} {t : Nat} (h : m.getLsbD t = true) : m ≠ 0 := by
  rintro rfl
  simp at h

/-- The tiles of a set rise with their rank. -/
theorem setTiles_pairwise (m : BitVec 8) : (setTiles m).Pairwise (· < ·) := List.pairwise_lt_range.filter _

/-- A tile of a bank that has eight is its own entry. -/
theorem getElem?_tileOf {ts : Vector Tile 8} {t : Nat} (h : t < 8) : ts[t]? = some (tileOf ts t) := by
  simp [tileOf, h]

/-- The first tile of a set that a test picks. -/
theorem find_setTiles {m : BitVec 8} {p : Nat → Bool} {t : Nat} (ht : t < 8) (hm : m.getLsbD t = true) (hp : p t = true)
    (hlow : ∀ h, h < t → m.getLsbD h = true → p h = false) : (setTiles m).find? p = some t := by
  rw [setTiles, List.find?_filter, List.find?_range_eq_some]
  refine ⟨by simp [hm, hp], List.mem_range.2 ht, fun h hh => ?_⟩
  cases hb : m.getLsbD h with
  | false => simp
  | true => simp [hlow h hh hb]

/-! ## The candidates of a search (R341) -/

/-- The candidate in the physical row at a place of the search order, if one is there. -/
def candidateAt (f : FactorSet) (ts : Vector Tile 8) (i : Nat) : Option Cand :=
  let t := ((setTiles f.set)[i / 16]?).getD 0
  match (List.range 16).find? fun j => (((tileOf ts t).map[j]?).getD 0).toNat == i % 16 with
  | some j => if f.np ≤ 16 * (i / 16) + j && (tileOf ts t).rowv.getLsbD (i % 16) then some ⟨16 * (i / 16) + j, t, i % 16⟩ else none
  | none => none

/-- The candidates are those of the places in their order. -/
theorem candidates_eq (f : FactorSet) (ts : Vector Tile 8) :
    candidates f ts = (List.range (16 * (setTiles f.set).length)).filterMap (candidateAt f ts) := rfl

section
variable {f : FactorSet} {ts : Vector Tile 8} {i : Nat} {c : Cand}

/-- A candidate at a place: its logical row is from NP up and names the physical row, whose ROWV bit is set. -/
theorem candidateAt_some (h : candidateAt f ts i = some c) : ∃ j, j < 16 ∧
    c = ⟨16 * (i / 16) + j, ((setTiles f.set)[i / 16]?).getD 0, i % 16⟩ ∧ (((tileOf ts c.tile).map[j]?).getD 0).toNat = i % 16 ∧
    f.np ≤ c.l ∧ (tileOf ts c.tile).rowv.getLsbD (i % 16) = true := by
  unfold candidateAt at h
  simp only at h
  split at h
  · rename_i j hj
    split at h
    · rename_i hc
      obtain ⟨hnp, hrow⟩ := Bool.and_eq_true_iff.1 hc
      cases h
      exact ⟨j, List.mem_range.1 (List.mem_of_find?_eq_some hj), rfl, by simpa using List.find?_some hj, of_decide_eq_true hnp, hrow⟩
    · cases h
  · cases h

/-- A candidate's tile is that of its rank, and its physical row is its place in the tile. -/
theorem candidateAt_place (hi : i < 16 * (setTiles f.set).length) (h : candidateAt f ts i = some c) :
    (setTiles f.set)[i / 16]? = some c.tile ∧ c.prow = i % 16 := by
  obtain ⟨j, -, hc, -⟩ := candidateAt_some h
  rw [hc]
  exact ⟨by simp [Nat.div_lt_of_lt_mul hi], rfl⟩

/-- A candidate takes part at the place of its logical row, from NP up (R335, R341). -/
theorem candidate_spec (h : c ∈ candidates f ts) :
    f.np ≤ c.l ∧ takesPart f.set ts c.l = true ∧ placeOfRow f.set ts c.l = (c.tile, c.prow) := by
  rw [candidates_eq, List.mem_filterMap] at h
  obtain ⟨i, hi, hc⟩ := h
  obtain ⟨ht, hp⟩ := candidateAt_place (List.mem_range.1 hi) hc
  obtain ⟨j, hj, hl, hmap, hnp, hrow⟩ := candidateAt_some hc
  have hl' : c.l = 16 * (i / 16) + j := by rw [hl]
  have hplace : placeOfRow f.set ts c.l = (c.tile, c.prow) := by
    unfold placeOfRow
    rw [hl', show (16 * (i / 16) + j) / 16 = i / 16 by omega, show (16 * (i / 16) + j) % 16 = j by omega, ht, hp]
    exact congrArg (Prod.mk c.tile) hmap
  have ht8 : c.tile < 8 := (mem_setTiles.1 (List.mem_of_getElem? ht)).1
  refine ⟨hnp, ?_, hplace⟩
  unfold takesPart
  rw [hplace]
  simp only [ht8, decide_true, Bool.true_and, hp, hrow]

end

/-- The order of the search: by tile, then by physical row (R341). -/
def Cand.before (a b : Cand) : Prop := a.tile < b.tile ∨ (a.tile = b.tile ∧ a.prow < b.prow)

/-- No candidate stands before itself or before one that stands before it. -/
theorem Cand.before_asymm {a b : Cand} (h : a.before b) : ¬b.before a := by
  unfold Cand.before at *
  omega

/-- The candidates stand in the order of the search. -/
theorem candidates_pairwise (f : FactorSet) (ts : Vector Tile 8) : (candidates f ts).Pairwise Cand.before := by
  rw [candidates_eq, List.pairwise_filterMap]
  refine List.pairwise_lt_range.imp_of_mem fun {i k} hi hk hlt a ha b hb => ?_
  obtain ⟨hta, hpa⟩ := candidateAt_place (List.mem_range.1 hi) ha
  obtain ⟨htb, hpb⟩ := candidateAt_place (List.mem_range.1 hk) hb
  rcases (Nat.div_le_div_right hlt.le : i / 16 ≤ k / 16).lt_or_eq with hrank | hrank
  · obtain ⟨hi', ea⟩ := List.getElem?_eq_some_iff.1 hta
    obtain ⟨hk', eb⟩ := List.getElem?_eq_some_iff.1 htb
    have hsorted := List.pairwise_iff_getElem.1 (setTiles_pairwise f.set) _ _ hi' hk' hrank
    rw [ea, eb] at hsorted
    exact .inl hsorted
  · rw [hrank, htb] at hta
    exact .inr ⟨(Option.some.inj hta).symm, by omega⟩

/-- A candidate before another is listed before it. -/
theorem idxOf_lt_of_before {f : FactorSet} {ts : Vector Tile 8} {a b : Cand} (ha : a ∈ candidates f ts) (hb : b ∈ candidates f ts)
    (h : a.before b) : (candidates f ts).idxOf a < (candidates f ts).idxOf b := by
  by_contra hge
  rcases (not_lt.1 hge).lt_or_eq with hlt | heq
  · have hba := List.pairwise_iff_getElem.1 (candidates_pairwise f ts) _ _ (List.idxOf_lt_length_iff.2 hb)
      (List.idxOf_lt_length_iff.2 ha) hlt
    rw [List.getElem_idxOf, List.getElem_idxOf] at hba
    exact Cand.before_asymm h hba
  · rw [(List.idxOf_inj hb).1 heq] at h
    exact Cand.before_asymm h h

/-! ## The pivot (R341) -/

/-- The rank of a candidate in a column. -/
def candRank (f : FactorSet) (ts : Vector Tile 8) (col : Nat) (c : Cand) : WithTop (WithTop ℚ) :=
  magRank (magOf (setElem f.set ts c.l col))

/-- The pivot is the first candidate of the highest rank. -/
theorem searchPivot_eq_argmax (f : FactorSet) (ts : Vector Tile 8) (col : Nat) :
    searchPivot f ts col = (candidates f ts).argmax (candRank f ts col) := by
  unfold searchPivot List.argmax
  congr 1
  funext b c
  cases b with
  | none => rfl
  | some x =>
    show (if beats _ _ = true then _ else _) = if _ then _ else _
    simp only [beats_magOf_iff]
    rfl

section
variable {f : FactorSet} {ts : Vector Tile 8} {col : Nat} {p c : Cand}

/-- No candidate beats the pivot. -/
theorem not_beats_pivot (hp : searchPivot f ts col = some p) (hc : c ∈ candidates f ts) :
    beats (magOf (setElem f.set ts p.l col)) (magOf (setElem f.set ts c.l col)) = false := by
  rw [searchPivot_eq_argmax] at hp
  rw [Bool.eq_false_iff, ne_eq, beats_magOf_iff]
  exact List.not_lt_of_mem_argmax (f := candRank f ts col) hc hp

/-- The pivot beats every candidate before it. -/
theorem pivot_beats_before (hp : searchPivot f ts col = some p) (hc : c ∈ candidates f ts) (h : c.before p) :
    beats (magOf (setElem f.set ts c.l col)) (magOf (setElem f.set ts p.l col)) = true := by
  rw [searchPivot_eq_argmax] at hp
  rw [beats_magOf_iff]
  by_contra hle
  have hidx := List.index_of_argmax hp hc (not_lt.1 hle)
  exact absurd (idxOf_lt_of_before hc (List.argmax_mem hp) h) (not_lt.2 hidx)

/-- The pivot is a candidate. -/
theorem pivot_mem (hp : searchPivot f ts col = some p) : p ∈ candidates f ts := by
  rw [searchPivot_eq_argmax] at hp
  exact List.argmax_mem hp

/-- There is no pivot where there is no candidate. -/
theorem searchPivot_eq_none_iff : searchPivot f ts col = none ↔ candidates f ts = [] := by
  rw [searchPivot_eq_argmax]
  exact List.argmax_eq_none

end

end Sys2Proof.Machine

namespace Sys2Proof.Machine

/-! ## Turns that complete or trap (R156, R161) -/

/-- On a ready strand an instruction that is no early load is appended and has its turn at once. -/
theorem enqueue_ready {i : Instr} {s : State} (h : ReadyQ i s) (he : isEarlyLoad i = false) : enqueue s i = settle (appended s i) := by
  obtain ⟨hready, -, hmode, hsub, -⟩ := h
  obtain ⟨hq, -, -, hrem⟩ := hready.1
  unfold enqueue
  rw [whenLogged_idle hq]
  simp only [hmode, Bool.not_true, Bool.false_eq_true, if_false]
  rw [whenReady_idle hq hrem]
  simp only [hsub]
  rw [waitQueue_met (fun t => roomFor t i) (by simp [roomFor, hq, he, Config.queueDepth])]
  simp only
  rw [append_appended hready he]

/-- The turn of the only queued instruction traps, and what is outstanding goes on. -/
theorem settle_trap {t u : State} {e : QEntry} {r : Trap} {keep : Bool} (hq : t.core.q.queue = [e]) (ha : e.ahead = none)
    (hp : t.pace.queue = 0) (hr : runEntry e t = .trap u r keep) : settle t = paced (trapHead u e r keep) := by
  have hrun : runQueue t = .trapped (trapHead u e r keep) := by
    unfold runQueue runHead
    simp only [hq, ha, hr]
  have hd : drainTo t.pace.queue t = .trapped (trapHead u e r keep) := by
    unfold drainTo waitQueue queueFuel
    rw [hp, hq]
    show drainUntil _ (2 + 1) t = _
    unfold drainUntil
    rw [if_neg (by simp [hq]), hrun]
  unfold settle
  rw [hd]
  rfl

/-- An instruction whose turn traps. -/
theorem turnTraps_of {i : Instr} {s u : State} {r : Trap} {keep : Bool} (h : ReadyQ i s) (he : isEarlyLoad i = false)
    (hx : exec i s = .next (enqueue s i)) (hr : runEntry (capture s i) (appended s i) = .trap u r keep) : TurnTraps i s u r keep := by
  have hp : (appended s i).pace.queue = 0 := h.2.1
  unfold TurnTraps
  rw [hx, enqueue_ready h he, settle_trap rfl rfl hp hr]

/-- What the completion of an instruction enqueued at s leaves of its turn, where it takes no SDQ entry: INSTRET counts, the queue is
empty, the LDQ entry that it read is free, and RCNT and the page requests may move (R153, R161, R250, R299, R427). -/
def completed (i : Instr) (s : State) (reqs : List PageReq) (rcnt : Nat) (u : State) : State :=
  { u with
    pageReqs := reqs
    core := { u.core with
      regs := { u.core.regs with instret := u.core.regs.instret + 1 }
      q := { u.core.q with queue := [], ldq := ldqAfter s i u.core.q.ldq, retry := none }
      sync := { u.core.sync with rcnt := rcnt } } }

/-- Completing its turn is how a state passes an instruction. -/
theorem completed_appended {i : Instr} {s : State} (hq : s.core.q.queue = []) (t : State) :
    completed i s t.pageReqs t.core.sync.rcnt (appended s i) = passed i s t := by
  unfold completed appended passed
  simp only [hq]

/-- An instruction whose turn makes f of the state, f leaving alone what the completion moves. -/
theorem yields_of {i : Instr} {s : State} {f : State → State} (h : ReadyQ i s) (he : isEarlyLoad i = false) (hs : takesSdq i = false)
    (hx : exec i s = .next (enqueue s i)) (hr : runEntry (capture s i) (appended s i) = .done (f (appended s i)))
    (hk : KeptQueues (capture s i) (f (appended s i)))
    (hf : ∀ reqs rcnt u, completed i s reqs rcnt (f u) = f (completed i s reqs rcnt u)) : Yields i s f := by
  have hq : s.core.q.queue = [] := h.1.1.1
  obtain ⟨reqs, rcnt, hn⟩ := turn_done h he hx hr hk
  simp only [hs, Bool.false_eq_true, if_false] at hn
  refine ⟨completed i s reqs rcnt (f (appended s i)), hn, ?_⟩
  rw [← completed_appended hq]
  exact hf reqs rcnt (appended s i)

/-- An instruction whose turn writes the tiles and the set. -/
theorem yields_setFactor {i : Instr} {s : State} {ts : Vector Tile 8} {f : FactorSet} (h : ReadyQ i s) (he : isEarlyLoad i = false)
    (hs : takesSdq i = false) (hx : exec i s = .next (enqueue s i))
    (hr : runEntry (capture s i) (appended s i) = .done (setFactor (appended s i) ts f)) : Yields i s fun u => setFactor u ts f :=
  yields_of h he hs hx hr (appended_kept h) fun _ _ _ => rfl

/-- An instruction whose turn writes the tiles and the set and raises flags. -/
theorem yields_setFactor_flags {i : Instr} {s : State} {ts : Vector Tile 8} {f : FactorSet} {fl : Flags} (h : ReadyQ i s)
    (he : isEarlyLoad i = false) (hs : takesSdq i = false) (hx : exec i s = .next (enqueue s i))
    (hr : runEntry (capture s i) (appended s i) = .done (raiseFlags (setFactor (appended s i) ts f) fl)) :
    Yields i s fun u => raiseFlags (setFactor u ts f) fl :=
  yields_of h he hs hx hr (appended_kept h) fun _ _ _ => rfl

/-! ## FBEGIN and FEND (R339, R340) -/

/-- A choice among the elements of a list is an empty part for each that is not chosen. -/
theorem flatMap_filter_ite {α β : Type} (p : α → Bool) (g : α → List β) :
    ∀ l : List α, (l.filter p).flatMap g = l.flatMap fun a => if p a then g a else []
  | [] => rfl
  | a :: t => by
    have ih := flatMap_filter_ite p g t
    cases hp : p a <;> simp [hp, ih]

/-- Counting through 16 places of each element of a list goes through the elements in order. -/
theorem range_places : ∀ l : List Nat, ((List.range (16 * l.length)).map fun i => ((l[i / 16]?).getD 0, i % 16)) =
    l.flatMap fun t => (List.range 16).map fun r => (t, r)
  | [] => rfl
  | a :: l => by
    have ih := range_places l
    rw [List.flatMap_cons, ← ih, List.length_cons, Nat.mul_succ, Nat.add_comm, List.range_add, List.map_append, List.map_map]
    congr 1
    refine List.map_congr_left fun i _ => ?_
    simp only [Function.comp_apply, show (16 + i) / 16 = i / 16 + 1 by omega, show (16 + i) % 16 = i % 16 by omega, List.getElem?_cons_succ]

/-- The magnitudes of the present rows of a set, tile by tile and row by row (R339). -/
def setMags (m : BitVec 8) (ts : Vector Tile 8) : List Ex :=
  (setTiles m).flatMap fun t => (List.range 16).flatMap fun r =>
    if (tileOf ts t).rowv.getLsbD r then (rowAccs (tileOf ts t) r).map magOf else []

/-- The largest of them, rounded: A0 (R339). -/
def firstA0 (m : BitVec 8) (ts : Vector Tile 8) : Acc := (roundFA56 ((setMags m ts).foldl maxNan (.zero false))).1

/-- The magnitudes of the present rows, by the places of the set. -/
theorem setMags_eq (m : BitVec 8) (ts : Vector Tile 8) :
    ((((List.range (16 * (setTiles m).length)).map fun i => (((setTiles m)[i / 16]?).getD 0, i % 16)).filter fun r =>
      (tileOf ts r.1).rowv.getLsbD r.2).flatMap fun r => (rowAccs (tileOf ts r.1) r.2).map magOf) = setMags m ts := by
  rw [range_places, flatMap_filter_ite, List.flatMap_assoc]
  simp only [List.flatMap_map]
  rfl

/-- The tiles of a bank with those of a mask changed. -/
def changeTiles (m : BitVec 8) (ts : Vector Tile 8) (g : Tile → Tile) : Vector Tile 8 :=
  Vector.ofFn fun i => if m.getLsbD i.val then g ts[i] else ts[i]

/-- Each tile of such a bank. -/
theorem getElem?_changeTiles {m : BitVec 8} {ts : Vector Tile 8} {g : Tile → Tile} {t : Nat} (h : t < 8) :
    (changeTiles m ts g)[t]? = some (if m.getLsbD t then g (tileOf ts t) else tileOf ts t) := by
  simp [changeTiles, tileOf, h]

section
variable (e : QEntry) {k : BitVec 3} {s : State} {m : BitVec 8}

/-- FBEGIN while a set is open (R337). -/
theorem effFbegin_open (ho : s.core.mat.fset.isOpen = true) : effFbegin e k s = .trap s (subTrap 14 9 0) false := by
  unfold effFbegin
  simp only [ho, if_true]

/-- FBEGIN of an empty mask (R337). -/
theorem effFbegin_empty (ho : s.core.mat.fset.isOpen = false) (hm : (kReg s k).extractLsb' 0 8 = (0 : BitVec 8)) :
    effFbegin e k s = .trap s (subTrap 14 11 8) false := by
  unfold effFbegin
  simp only [ho, hm, Bool.false_eq_true, if_false, if_true]

/-- No tile of a set is picked by a test that all of them fail. -/
theorem find_setTiles_none {p : Nat → Bool} (h : ∀ t, t < 8 → m.getLsbD t = true → p t = false) : (setTiles m).find? p = none := by
  rw [List.find?_eq_none]
  intro t ht
  obtain ⟨h8, hb⟩ := mem_setTiles.1 ht
  rw [h t h8 hb]
  exact Bool.false_ne_true

/-- A tile is unfit for a set when it is invalid or of KIND 1 (R337). -/
theorem unfit_eq_false_iff {v : Tile} : (!v.valid || v.kind) = false ↔ v.valid = true ∧ v.kind = false := by
  simp

/-- FBEGIN of a mask whose first unfit tile is t (R337). -/
theorem effFbegin_unfit {t : Nat} (ho : s.core.mat.fset.isOpen = false) (hm : (kReg s k).extractLsb' 0 8 = m) (h0 : m ≠ 0)
    (ht : ((setTiles m).find? fun t => !(tileOf s.core.mat.tiles t).valid || (tileOf s.core.mat.tiles t).kind) = some t) :
    effFbegin e k s = .trap s (subTrap 14 11 t) false := by
  unfold effFbegin
  simp only [ho, hm, h0, ht, Bool.false_eq_true, if_false]

/-- The set that FBEGIN opens (R339). -/
def beginSet (m : BitVec 8) (ts : Vector Tile 8) : FactorSet :=
  { isOpen := true, set := m, np := 0, done := 0, ph := Vector.replicate 16 0, a0 := firstA0 m ts, mx := firstA0 m ts,
    g := if (accValue (firstA0 m ts)).isNan then (roundFA56 .nan).1 else acc1 }

/-- FBEGIN of a mask of fit tiles (R339). -/
theorem effFbegin_begins (ho : s.core.mat.fset.isOpen = false) (hm : (kReg s k).extractLsb' 0 8 = m) (h0 : m ≠ 0)
    (ht : ((setTiles m).find? fun t => !(tileOf s.core.mat.tiles t).valid || (tileOf s.core.mat.tiles t).kind) = none) :
    effFbegin e k s = .done (setFactor s (changeTiles m s.core.mat.tiles fun t => { t with map := identityMap, fact := true })
      (beginSet m s.core.mat.tiles)) := by
  unfold effFbegin
  simp only [ho, hm, h0, ht, Bool.false_eq_true, if_false, setMags_eq]
  rfl

/-- FEND of an open set (R340). -/
theorem effFend_open (ho : s.core.mat.fset.isOpen = true) : effFend e s =
    .done (setFactor s (changeTiles s.core.mat.fset.set s.core.mat.tiles fun t => { t with fact := false })
      { s.core.mat.fset with isOpen := false }) := by
  unfold effFend
  simp only [ho, Bool.not_true, Bool.false_eq_true, if_false]
  rfl

/-- FEND with no open set (R340). -/
theorem effFend_closed (ho : s.core.mat.fset.isOpen = false) : effFend e s = .trap s (subTrap 14 10 0) false := by
  unfold effFend
  simp only [ho, Bool.not_false, if_true]

end

/-! ## FCOL (R341, R342) -/

section
variable {s : State} {col : Nat}

/-- The check of a column with no open set (R337). -/
theorem columnTrap_closed (ho : s.core.mat.fset.isOpen = false) : columnTrap s col = some (subTrap 14 10 0) := by
  simp [columnTrap, ho]

/-- The check of a column that is done (R337). -/
theorem columnTrap_done (ho : s.core.mat.fset.isOpen = true) (hd : s.core.mat.fset.done.getLsbD col = true) :
    columnTrap s col = some (subTrap 14 12 col) := by
  simp [columnTrap, ho, hd]

/-- The checks of a column that pass (R337). -/
theorem columnTrap_none (ho : s.core.mat.fset.isOpen = true) (hd : s.core.mat.fset.done.getLsbD col = false) :
    columnTrap s col = none := by
  simp [columnTrap, ho, hd]

end

/-- The elimination of a column with a pivot: the pivot is replaced where it is singular and moved to NP, and the rows below it are
eliminated (R341). -/
def eliminated (f : FactorSet) (ts : Vector Tile 8) (col : Nat) (c : Cand) (tau : Acc) : Vector Tile 8 × Acc × Flags :=
  let p := setElem f.set ts c.l col
  let ts2 := swapRows f.set (if singular p tau then putElem f.set ts c.l col (replaced p tau) else ts) c.l f.np
  eliminate f ts2 col (logicalRow f.set ts2 f.np) (f.np + 1)

section
variable {e : QEntry} {x : Reg} {s : State} {col : Nat} {c : Cand}

/-- FCOL of a column that fails a check (R337). -/
theorem effFcol_trap {t : Trap} (hx : (e.x x).toNat % 16 = col) (ht : columnTrap s col = some t) :
    effFcol e x s = .trap s t false := by
  unfold effFcol
  simp only [hx, ht]

/-- FCOL of a column without candidates (R341). -/
theorem effFcol_none (hx : (e.x x).toNat % 16 = col) (ht : columnTrap s col = none)
    (hp : searchPivot s.core.mat.fset s.core.mat.tiles col = none) :
    effFcol e x s = .done (setFactor s s.core.mat.tiles (recordColumn s.core.mat.fset col (phNone false))) := by
  unfold effFcol
  simp only [hx, ht, hp]

variable (hx : (e.x x).toNat % 16 = col) (ht : columnTrap s col = none)
  (hp : searchPivot s.core.mat.fset s.core.mat.tiles col = some c)
include hx ht hp

/-- FCOL of a singular pivot under TRAP (R341). -/
theorem effFcol_singular_trap (hs : singular (setElem s.core.mat.fset.set s.core.mat.tiles c.l col) e.tau = true)
    (hm : mSpol e.mode = 0) : effFcol e x s = .trap s ⟨15, BitVec.ofNat 64 col⟩ false := by
  unfold effFcol
  simp only [hx, ht, hp, hs, hm, decide_true, Bool.and_self, if_true]

/-- FCOL of a singular pivot under SKIP (R341, R342). -/
theorem effFcol_singular_skip (hs : singular (setElem s.core.mat.fset.set s.core.mat.tiles c.l col) e.tau = true)
    (hm : mSpol e.mode = 2) : effFcol e x s = .done (raiseFlags (setFactor s s.core.mat.tiles
      (recordColumn s.core.mat.fset col (phWord c s.core.pos.core 0 false true false))) flagSPF) := by
  unfold effFcol
  simp [hx, ht, hp, hs, hm]

/-- FCOL of a pivot that is not singular, or is replaced: the column is eliminated unless the growth watch traps (R341). -/
theorem effFcol_eliminates (hs : singular (setElem s.core.mat.fset.set s.core.mat.tiles c.l col) e.tau = false ∨
      mSpol e.mode = 1 ∨ mSpol e.mode = 3) :
    effFcol e x s =
      let f := s.core.mat.fset
      let r := eliminated f s.core.mat.tiles col c e.tau
      let sing := singular (setElem f.set s.core.mat.tiles c.l col) e.tau
      if growthTrap e.mode (growth f.a0 r.2.1) e.gflim then .trap s ⟨16, BitVec.ofNat 64 col⟩ false
      else .done (raiseFlags (setFactor s r.1 { recordColumn f col (phWord c s.core.pos.core f.np sing false false) with
        np := f.np + 1, mx := r.2.1, g := growth f.a0 r.2.1 }) (r.2.2 ||| flagIf sing flagSPF)) := by
  unfold effFcol
  simp only [hx, ht, hp]
  have h0 : (singular (setElem s.core.mat.fset.set s.core.mat.tiles c.l col) e.tau && decide (mSpol e.mode = 0)) = false := by
    rcases hs with hs | hs | hs <;> simp [hs]
  have h2 : (singular (setElem s.core.mat.fset.set s.core.mat.tiles c.l col) e.tau && decide (mSpol e.mode = 2)) = false := by
    rcases hs with hs | hs | hs <;> simp [hs]
  rw [h0, h2]
  rfl

end

end Sys2Proof.Machine

section

open Sys2Proof Sys2Proof.Machine

/-- Settles O39: the pivot is the first of the candidates of the highest rank, and each outcome of FBEGIN, FEND and FCOL is that of its
turn. -/
theorem factorising : Obligations.Factorising := by
  refine ⟨fun f ts col => ?_, fun s k => ?_, fun s x h => ?_⟩
  · exact ⟨fun c hc => candidate_spec hc,
      fun p hp => ⟨pivot_mem hp, fun c hc => ⟨not_beats_pivot hp hc, pivot_beats_before hp hc⟩⟩,
      searchPivot_eq_none_iff⟩
  · intro i f m ts good mags a0
    have hx : exec i s = .next (enqueue s i) := Eq.refl (execFbegin k s)
    have hend : exec .fend s = .next (enqueue s .fend) := Eq.refl (execFend s)
    refine ⟨fun h ho h0 hgood => ?_, fun h ho => ?_, fun h ho h0 => ?_, fun t h ho ht hb hbad hlow => ?_, fun h ho => ?_, fun h ho => ?_⟩
    · have hfind := find_setTiles_none fun t ht hb => unfit_eq_false_iff.2 (hgood t ht hb)
      exact ⟨_, fun t => getElem?_changeTiles, yields_setFactor h rfl rfl hx (effFbegin_begins (capture s i) ho rfl h0 hfind)⟩
    · exact turnTraps_of h rfl hx (effFbegin_open (capture s i) ho)
    · exact turnTraps_of h rfl hx (effFbegin_empty (capture s i) ho h0)
    · have hfind := find_setTiles ht hb (eq_true_of_ne_false (mt unfit_eq_false_iff.1 hbad))
        fun l hl hm => unfit_eq_false_iff.2 (hlow l hl hm)
      exact turnTraps_of h rfl hx (effFbegin_unfit (capture s i) ho rfl (mask_ne_zero hb) hfind)
    · exact ⟨_, fun t => getElem?_changeTiles, yields_setFactor h rfl rfl hend (effFend_open (capture s .fend) ho)⟩
    · exact turnTraps_of h rfl hend (effFend_closed (capture s .fend) ho)
  · intro i m tau col f ts me
    have hcol : ((capture s i).x x).toNat % 16 = col := by rw [capture_x s (List.mem_singleton.2 rfl)]
    have hx : exec i s = .next (enqueue s i) := Eq.refl (execFcol x s)
    have hnone (ho : f.isOpen = true) (hd : f.done.getLsbD col = false) : columnTrap (appended s i) col = none := columnTrap_none ho hd
    refine ⟨fun ho => turnTraps_of h rfl hx (effFcol_trap hcol (columnTrap_closed ho)),
      fun ho hd => turnTraps_of h rfl hx (effFcol_trap hcol (columnTrap_done ho hd)),
      fun ho hd hp => yields_setFactor h rfl rfl hx (effFcol_none hcol (hnone ho hd) hp),
      fun c ho hd hp => ⟨fun hs hm => ?_, fun hs hm => ?_, fun hs hg => ?_, fun hs hg => ?_⟩⟩
    · exact turnTraps_of h rfl hx (effFcol_singular_trap hcol (hnone ho hd) hp hs hm)
    · exact yields_setFactor_flags h rfl rfl hx (effFcol_singular_skip hcol (hnone ho hd) hp hs hm)
    · exact turnTraps_of h rfl hx ((effFcol_eliminates hcol (hnone ho hd) hp hs).trans (if_pos hg))
    · exact yields_setFactor_flags h rfl rfl hx
        ((effFcol_eliminates hcol (hnone ho hd) hp hs).trans (if_neg (ne_true_of_eq_false hg)))

end

namespace Sys2Proof.Laws

/-! ## From a word to its instruction and back (R133 to R137) -/

/-- Every instruction that has a word is spelled by the fields of that word. -/
theorem Encoding.statement (i : Instr) : Encoding.Statement i :=
  Instr.rec (motive := Encoding.Statement)
    add sub and or xor sll srl sra slt sltu min max minu maxu mul mulh mulhu div divu rem remu bitClz bitCtz bitPopc bitBrev addi
    andi ori xori slli srli srai slti sltiu lui auipc shor fadd fsub fmul fdiv fma fsqrt fmin fmax fcmpEq fcmpLt fcmpLe fcvtI64f
    fcvtFi64 fcvtF16f fcvtFf16 fcvtB16f fcvtFb16 fcvtS20f fcvtFs20 lb lbu lh lhu lw lwu ld sb sh sw sd pref cboWb cboWbinv cboInv
    fld fst fadr facc fenter fleave dspr ffold fpol beq bne blt bge bltu bgeu jal jalr loop loopt loops lbrk bmz bmnz gate gret
    fork join endStrand bst acq rel fenceRange fenceRemote fenceAll svld svst svadd svmax svmin svand svor svswap svcas svwait
    svlock svunlock barCluster barDie barLaunch sstep trig launch lidx inboxWait inboxPoll csrr csrw csrs csrc tret bkpt nprb npre
    setm contain wfi vadd vsub vmul vfma vfms vfnma vmin vmax vabs vneg vdiv vsqrt vrcp vrsq vexp2 vlog2 vand vor vxor vsll vsrl
    vsra vcmp vsel vmov vbc viota vmulh vclamp vld vlds vldg vldmx vst vsts vstg vcvt vcvtn ldcb vperm vslideUp vslideDn vzip
    vunzip vredadd vredmax vredmin vmvx vins mpush minv mpop mstg kmovKx kmovXk kmovKt kopAnd kopOr kopXor kopAndn vsclSet
    vsclSeta vsclGet mrow mrowp mrowz mrowzp tzero tload tstore tmovv tvmov tstat trcfg trpop trstat fbegin fcol fcoln ngjoin
    ngleave fend fmaprd rdph rdgf tperm cpy cpyq engstCnt engstFva xsend xsel xend joinWake svwaitWake barrierComplete inboxWake
    wfiWake earlyLoadDeferred matrixCommit negotiationRound storeBufferLeave remoteReply lateRefusal queuedTrap interruptTake
    timeCompare killUnwind steal pageWalk pageService copyOnWrite tlbInvalidation copyCommandRun cpyqReserve copyComplete
    exchangeArrival doorbell qovfClear headCheck dependenceTest chooseLaunch clusterTakeLaunch strandStart counterReport sliceEnd
    gangSwitchOut gangSwitchIn nprOverrun packetHop packetDeliver uncorrectableError powerOn moduleWarmReset mbstatDoneClear
    foldnew folddel foldreset foldsetFoldmode foldsetPolicy foldsetCodeKey foldsetWatchdogTimes vfset vfdel rct handleExport
    handleInstall handleRevoke snapshot migrate stage droverSwap commit identity quote telemetry raslog load keyadd keydel pgdone
    cowdone nextvf start refuse placego containact d2hheadWrite drvbeatWrite watchdogStage registerWrite unitIssue
    illegalInstruction droverMessage exchangeSend softError parityError prefFill hostAccess unknownCode i

/-- A field of a word, placed where it stood, is what a mask of the field leaves of the word. -/
theorem placeField_wordField (w : InstrWord) (lo n : Nat) :
    placeField (wordField w lo n) lo = w &&& placeField (BitVec.allOnes n) lo := by
  apply BitVec.eq_of_getLsbD_eq
  intro i hi
  simp only [placeField, wordField, BitVec.getLsbD_shiftLeft, BitVec.getLsbD_setWidth, BitVec.getLsbD_extractLsb', BitVec.getLsbD_and,
    BitVec.getLsbD_allOnes]
  by_cases hlo : i < lo
  · simp [hlo]
  · rw [Nat.add_sub_cancel' (Nat.le_of_not_lt hlo), Bool.and_comm (w.getLsbD i)]
    by_cases hn : i - lo < n <;> simp [hi, hlo, hn]

/-- What a decoder answers spells the word: the word of the instruction is the word decoded. -/
def Spells (w : InstrWord) (o : Except DecodeError Instr) : Prop := ∀ i, o = .ok i → encode i = some w

/-- A refusal spells nothing. -/
theorem spells_error (w : InstrWord) (e : DecodeError) : Spells w (.error e) := fun _ h => by cases h

/-- A pattern spells the word where the word that matches it is its instruction's own. -/
theorem spells_onPattern {w m p : InstrWord} {i : Instr} {o : Except DecodeError Instr} (hi : w &&& m = p → encode i = some w)
    (ho : Spells w o) : Spells w (onPattern w m p i o) := by
  unfold onPattern
  split
  · rename_i hp
    intro j hj
    cases hj
    exact hi hp
  · exact ho

/-- A word is put together again from its pattern and from its fields where they cover it. -/
theorem and_mask_full {w m : InstrWord} (h : m = BitVec.allOnes 32) : w &&& m = w := by rw [h, BitVec.and_allOnes]

/-- The rows of class 0 spell their words. -/
theorem spells_class0 (w : InstrWord) : Spells w (decodeClass0 w) := by
  unfold decodeClass0
  split <;> repeat' apply spells_onPattern
  any_goals exact spells_error w _
  all_goals
    intro h
    simp only [encode, placeField_wordField, ← h, ← BitVec.and_or_distrib_left]
    exact congrArg some (and_mask_full (by decide))

/-- The rows of class 1 spell their words. -/
theorem spells_class1 (w : InstrWord) : Spells w (decodeClass1 w) := by
  unfold decodeClass1
  split <;> repeat' apply spells_onPattern
  any_goals exact spells_error w _
  all_goals
    intro h
    simp only [encode, placeField_wordField, ← h, ← BitVec.and_or_distrib_left]
    exact congrArg some (and_mask_full (by decide))

/-- The rows of class 2 spell their words. -/
theorem spells_class2 (w : InstrWord) : Spells w (decodeClass2 w) := by
  unfold decodeClass2
  split <;> repeat' apply spells_onPattern
  any_goals exact spells_error w _
  all_goals
    intro h
    simp only [encode, placeField_wordField, ← h, ← BitVec.and_or_distrib_left]
    exact congrArg some (and_mask_full (by decide))

/-- The rows of class 3 spell their words. -/
theorem spells_class3 (w : InstrWord) : Spells w (decodeClass3 w) := by
  unfold decodeClass3
  split <;> repeat' apply spells_onPattern
  any_goals exact spells_error w _
  all_goals
    intro h
    simp only [encode, placeField_wordField, ← h, ← BitVec.and_or_distrib_left]
    exact congrArg some (and_mask_full (by decide))

/-- The rows of class 4 spell their words. -/
theorem spells_class4 (w : InstrWord) : Spells w (decodeClass4 w) := by
  unfold decodeClass4
  split <;> repeat' apply spells_onPattern
  any_goals exact spells_error w _
  all_goals
    intro h
    simp only [encode, placeField_wordField, ← h, ← BitVec.and_or_distrib_left]
    exact congrArg some (and_mask_full (by decide))

/-- The rows of class 5 spell their words. -/
theorem spells_class5 (w : InstrWord) : Spells w (decodeClass5 w) := by
  unfold decodeClass5
  split <;> repeat' apply spells_onPattern
  any_goals exact spells_error w _
  all_goals
    intro h
    simp only [encode, placeField_wordField, ← h, ← BitVec.and_or_distrib_left]
    exact congrArg some (and_mask_full (by decide))

/-- The rows of class 6 spell their words. -/
theorem spells_class6 (w : InstrWord) : Spells w (decodeClass6 w) := by
  unfold decodeClass6
  split <;> repeat' apply spells_onPattern
  any_goals exact spells_error w _
  all_goals
    intro h
    simp only [encode, placeField_wordField, ← h, ← BitVec.and_or_distrib_left]
    exact congrArg some (and_mask_full (by decide))

/-- The rows of class 7 spell their words. -/
theorem spells_class7 (w : InstrWord) : Spells w (decodeClass7 w) := by
  unfold decodeClass7
  split <;> repeat' apply spells_onPattern
  any_goals exact spells_error w _
  all_goals
    intro h
    simp only [encode, placeField_wordField, ← h, ← BitVec.and_or_distrib_left]
    exact congrArg some (and_mask_full (by decide))

/-- What the fields of a word spell has that word (R133 to R137). -/
theorem encode_of_decodeFields {w : InstrWord} {i : Instr} (h : decodeFields w = .ok i) : encode i = some w := by
  unfold decodeFields at h
  split at h
  · exact spells_class0 w i h
  · exact spells_class1 w i h
  · exact spells_class2 w i h
  · exact spells_class3 w i h
  · exact spells_class4 w i h
  · exact spells_class5 w i h
  · exact spells_class6 w i h
  · exact spells_class7 w i h

/-- A word's fields spell an instruction exactly when the word is that instruction's own. -/
theorem decodeFields_ok_iff {w : InstrWord} {i : Instr} : decodeFields w = .ok i ↔ encode i = some w :=
  ⟨encode_of_decodeFields, Encoding.statement i w⟩

/-- A word decodes to what its fields spell where that is well formed (R137). -/
theorem decodeWord_ok_iff {w : InstrWord} {i : Instr} : decodeWord w = .ok i ↔ decodeFields w = .ok i ∧ i.wellFormed = true := by
  unfold decodeWord
  cases decodeFields w with
  | error e => simp
  | ok j =>
    by_cases hj : j.wellFormed = true
    · simp only [hj, if_true, Except.ok.injEq]
      exact ⟨fun h => ⟨h, h ▸ hj⟩, And.left⟩
    · simp only [hj, if_false, Except.ok.injEq, reduceCtorEq, false_iff]
      exact fun h => hj (h.1 ▸ h.2)

end Sys2Proof.Laws

section

open Sys2Proof Sys2Proof.Laws

/-- Settles O46: a word's fields spell an instruction exactly when it has that word, and the decoder adds the checks of wellFormed alone. -/
theorem decodeEncode : Obligations.DecodeEncode := by
  intro w i
  rw [decodeWord_ok_iff, decodeFields_ok_iff]

end

namespace Sys2Proof.Machine

/-! ## BIT, the immediate forms, LUI, AUIPC and SHOR (R174 to R176) -/

/-- The first index of a range that passes a test, or its end when none does. -/
theorem find_range_first (p : Nat → Bool) (n : Nat) :
    let k := ((List.range n).find? p).getD n
    k ≤ n ∧ (∀ j, j < k → p j = false) ∧ (k < n → p k = true) := by
  cases h : (List.range n).find? p with
  | none =>
    rw [List.find?_range_eq_none] at h
    exact ⟨le_rfl, fun j hj => by simpa using h j hj, fun hlt => absurd hlt (lt_irrefl n)⟩
  | some k =>
    rw [List.find?_range_eq_some] at h
    obtain ⟨hp, hmem, hlow⟩ := h
    exact ⟨(List.mem_range.1 hmem).le, fun j hj => by simpa using hlow j hj, fun _ => hp⟩

/-- The elements of a list that pass a test are as many as the sum of its outcomes. -/
theorem length_filter_eq_sum {α : Type} (p : α → Bool) : ∀ l : List α, (l.filter p).length = (l.map fun a => (p a).toNat).sum
  | [] => rfl
  | a :: t => by
    have ih := length_filter_eq_sum p t
    cases hp : p a <;> simp [hp, ih, Nat.add_comm]

/-- A bit of a word that a fold has put together by disjunctions. -/
theorem foldl_or_bit (p : Nat → Bool) (g : Nat → Word) (k : Nat) : ∀ (l : List Nat) (r : Word),
    (l.foldl (fun r j => if p j then r ||| g j else r) r).getLsbD k = (r.getLsbD k || l.any fun j => p j && (g j).getLsbD k)
  | [], r => by simp
  | j :: t, r => by
    rw [List.foldl_cons, foldl_or_bit p g k t, List.any_cons]
    cases p j <;> simp [Bool.or_assoc]

/-- The only one bit of a one that has been shifted. -/
theorem one_shift_bit {n k : Nat} (hk : k < 64) : (1#64 <<< n).getLsbD k = decide (k = n) := by
  rw [BitVec.getLsbD_shiftLeft, BitVec.getLsbD_one]
  by_cases hkn : k = n
  · simp [hkn ▸ hk, hkn]
  · rcases Nat.lt_or_gt_of_ne hkn with hlt | hgt
    · simp [hlt, hkn]
    · simp [Nat.sub_ne_zero_of_lt hgt, hkn]

/-- Bit j of the operand of BIT.BREV is bit 63 − j of its result (R174). -/
theorem brev_bit (a : Word) {j : Nat} (hj : j < 64) : (brev a).getLsbD (63 - j) = a.getLsbD j := by
  refine (foldl_or_bit a.getLsbD (fun i => 1#64 <<< (63 - i)) (63 - j) (List.range 64) 0#64).trans ?_
  rw [Bool.eq_iff_iff]
  simp only [one_shift_bit (show 63 - j < 64 by omega), BitVec.getLsbD_zero, Bool.false_or, List.any_eq_true, List.mem_range,
    Bool.and_eq_true, decide_eq_true_eq]
  constructor
  · rintro ⟨i, hi, ha, he⟩
    rwa [show j = i by omega]
  · exact fun ha => ⟨j, hj, ha, rfl⟩

/-- A zero-extended immediate (R175). -/
theorem uimm_eq (i : BitVec 13) : uimm i = BitVec.ofNat 64 i.toNat := (BitVec.ofNat_toNat 64 i).symm

/-- A sign-extended immediate keeps its value (R175). -/
theorem simm_toInt (i : BitVec 13) : (simm i).toInt = i.toInt := BitVec.toInt_signExtend_of_le (by decide)

/-- The immediate of the U format (R176). -/
theorem upperImm_eq (u : BitVec 18) : upperImm u = BitVec.ofInt 64 (BitVec.ofNat 32 (u.toNat * 2 ^ 14)).toInt := by
  have hu : u.setWidth 32 <<< 14 = BitVec.ofNat 32 (u.toNat * 2 ^ 14) := by
    apply BitVec.eq_of_toNat_eq
    rw [BitVec.toNat_shiftLeft, BitVec.toNat_setWidth, BitVec.toNat_ofNat, Nat.shiftLeft_eq, Nat.mod_mul_mod]
  rw [upperImm, hu]
  rfl

/-- SHOR puts 18 bits below a shifted register (R176). -/
theorem shor_eq (x : Word) (u : BitVec 18) : x <<< 18 ||| u.setWidth 64 = BitVec.ofNat 64 (x.toNat * 2 ^ 18 + u.toNat) := by
  have hdis : x <<< 18 &&& u.setWidth 64 = 0#64 := by
    apply BitVec.eq_of_getLsbD_eq
    intro i _
    by_cases hi : i < 18
    · simp [hi]
    · simp [BitVec.getLsbD_of_ge u i (Nat.le_of_not_lt hi)]
  rw [← BitVec.add_eq_or_of_and_eq_zero _ _ hdis, shiftLeft_eq_ofNat, ← BitVec.ofNat_toNat 64 u, ← BitVec.ofNat_add]

/-- An instruction of class 0 computes its function of the state. -/
theorem computes_alu {i : Instr} {s : State} {d : Reg} {rs : List Reg} {f : State → Word} {v : Word} (h : Ready s)
    (he : exec i s = alu s d rs f) (hv : f s = v) : Computes i s d v :=
  computes_of h he (by rw [← hv])

/-! ## Scalar FP32 arithmetic (R178) -/

/-- A scalar arithmetic instruction rounds its exact value once, with NV for a signalling operand (R177, R178). -/
theorem computesF_fpArith {i : Instr} {s : State} {d : Reg} {rs : List Reg} {f : State → Ex × Flags} {v : Ex × Flags} {sn : Bool}
    (h : Ready s) (he : exec i s = fpArith s d rs f) (hv : f s = v) (hs : (rs.any fun q => fp32.snan (single s q)) = sn) :
    ComputesF i s d (rounded fp32 s.core.regs.mode (scalarBits s) v sn) (scalarSeed s) := by
  subst hs hv
  exact computesF_of_rounds h he rfl

/-! ## Rounding to an integer (R228) -/

section
variable {n d : Nat}

/-- A choice between the two neighbours of a magnitude is nearest where it takes the closer. -/
theorem nearest_neighbour {r : Nat} (hd : 0 < d) (h : (r = n / d ∧ 2 * (n % d) ≤ d) ∨ (r = n / d + 1 ∧ d ≤ 2 * (n % d))) (k : Nat) :
    ((r * d : Nat) - (n : Int)).natAbs ≤ ((k * d : Nat) - (n : Int)).natAbs := by
  have hn : d * (n / d) + n % d = n := Nat.div_add_mod n d
  have hm : n % d < d := Nat.mod_lt n hd
  have hk : k * d ≤ d * (n / d) ∨ d * (n / d) + d ≤ k * d := by
    rcases Nat.lt_or_ge (n / d) k with hlt | hge
    · exact .inr (by rw [← Nat.mul_succ, Nat.mul_comm k]; exact Nat.mul_le_mul_left d hlt)
    · exact .inl (by rw [Nat.mul_comm k]; exact Nat.mul_le_mul_left d hge)
  rcases h with ⟨rfl, hr⟩ | ⟨rfl, hr⟩
  · rw [Nat.mul_comm (n / d)]
    omega
  · rw [Nat.succ_mul, Nat.mul_comm (n / d)]
    omega

/-- SR: a unit is 65,536 parts, and the random bits count as that many of them (R228). -/
theorem roundInt_sr (rnd : Nat) (neg : Bool) (hd : 0 < d) : roundInt 5 rnd neg n d false = (n * 65536 / d + rnd) / 65536 := by
  show (n * 65536 + rnd * d) / (d * 65536) = _
  rw [← Nat.div_div_eq_div_mul, Nat.add_mul_div_right _ _ hd]

/-- RNE takes a nearest integer, a tie going to the even one (R228). -/
theorem roundInt_rne (rnd : Nat) (neg : Bool) : roundInt 0 rnd neg n d false =
    if d < 2 * (n % d) ∨ (2 * (n % d) = d ∧ n / d % 2 = 1) then n / d + 1 else n / d := by
  simp [roundInt]

/-- RNA takes a nearest integer, a tie going away from zero (R228). -/
theorem roundInt_rna (rnd : Nat) (neg : Bool) : roundInt 4 rnd neg n d false = if d ≤ 2 * (n % d) then n / d + 1 else n / d := by
  simp [roundInt]

/-- RTZ takes the floor (R228). -/
theorem roundInt_rtz (rnd : Nat) (neg : Bool) : roundInt 1 rnd neg n d false = n / d := rfl

/-- RDN goes away from zero for an inexact negative value (R228). -/
theorem roundInt_rdn (rnd : Nat) (neg : Bool) :
    roundInt 2 rnd neg n d false = if neg && decide (n % d ≠ 0) then n / d + 1 else n / d := by
  simp [roundInt]

/-- RUP goes away from zero for an inexact positive value (R228). -/
theorem roundInt_rup (rnd : Nat) (neg : Bool) :
    roundInt 3 rnd neg n d false = if !neg && decide (n % d ≠ 0) then n / d + 1 else n / d := by
  simp [roundInt]

/-- An exact value stands under every mode (R228). -/
theorem roundInt_exact {rm rnd : Nat} {neg : Bool} (hd : 0 < d) (hr : rnd < 65536) (hm : rm < 6) (h : n % d = 0) :
    roundInt rm rnd neg n d false = n / d := by
  interval_cases rm
  · simp [roundInt_rne, h, hd.ne]
  · exact roundInt_rtz rnd neg
  · simp [roundInt_rdn, h]
  · simp [roundInt_rup, h]
  · simp [roundInt_rna, h, hd.ne']
  · have hx : n * 65536 / d = n / d * 65536 := Nat.div_mul_right_comm (Nat.dvd_of_mod_eq_zero h) 65536 |>.symm
    rw [roundInt_sr rnd neg hd, hx, Nat.add_comm, Nat.add_mul_div_right _ _ (by decide), Nat.div_eq_of_lt hr, Nat.zero_add]

/-- RNE and RNA take a nearest integer (R228). -/
theorem roundInt_nearest {rm : Nat} (rnd : Nat) (neg : Bool) (hd : 0 < d) (hm : rm = 0 ∨ rm = 4) (k : Nat) :
    ((roundInt rm rnd neg n d false * d : Nat) - (n : Int)).natAbs ≤ ((k * d : Nat) - (n : Int)).natAbs := by
  apply nearest_neighbour hd
  rcases hm with rfl | rfl
  · rw [roundInt_rne]
    split <;> omega
  · rw [roundInt_rna]
    split <;> omega

/-- At a tie RNE takes the even neighbour and RNA the one away from zero (R228). -/
theorem roundInt_tie (rnd : Nat) (neg : Bool) (h : 2 * (n % d) = d) :
    roundInt 0 rnd neg n d false % 2 = 0 ∧ roundInt 4 rnd neg n d false = n / d + 1 := by
  rw [roundInt_rne, roundInt_rna, if_pos h.ge]
  refine ⟨?_, rfl⟩
  split <;> omega

end

end Sys2Proof.Machine

section

open Sys2Proof Sys2Proof.Machine

/-- Settles O2, by the word identity of each form. -/
theorem bitAndImmediateForms : Obligations.BitAndImmediateForms := by
  constructor
  · intro s d a h
    obtain ⟨hclz, hclzLow, hclzBit⟩ := find_range_first (fun i => (xr s a).getLsbD (63 - i)) 64
    obtain ⟨hctz, hctzLow, hctzBit⟩ := find_range_first (fun i => (xr s a).getLsbD i) 64
    exact ⟨⟨clz (xr s a), hclz, computes_alu h (Eq.refl (execBitClz d a s)) rfl, hclzLow, hclzBit⟩,
      ⟨ctz (xr s a), hctz, computes_alu h (Eq.refl (execBitCtz d a s)) rfl, hctzLow, hctzBit⟩,
      computes_alu h (Eq.refl (execBitPopc d a s)) (congrArg (BitVec.ofNat 64) (length_filter_eq_sum _ _)),
      ⟨brev (xr s a), computes_alu h (Eq.refl (execBitBrev d a s)) rfl, fun j hj => brev_bit (xr s a) hj⟩⟩
  · intro s d a i n u h x
    exact ⟨computes_alu h (Eq.refl (execAddi d a i s)) rfl,
      computes_alu h (Eq.refl (execAndi d a i s)) (congrArg (x &&& ·) (uimm_eq i)),
      computes_alu h (Eq.refl (execOri d a i s)) (congrArg (x ||| ·) (uimm_eq i)),
      computes_alu h (Eq.refl (execXori d a i s)) (congrArg (x ^^^ ·) (uimm_eq i)),
      computes_alu h (Eq.refl (execSlli d a n s)) (shiftLeft_eq_ofNat x n.toNat),
      computes_alu h (Eq.refl (execSrli d a n s)) (ushiftRight_eq_ofNat x n.toNat),
      computes_alu h (Eq.refl (execSrai d a n s)) (sshiftRight_eq_ofInt x n.toNat),
      computes_alu h (Eq.refl (execSlti d a i s)) ((bitWord_slt x (simm i)).trans (by rw [simm_toInt])),
      computes_alu h (Eq.refl (execSltiu d a i s)) (bitWord_ult x (simm i)),
      computes_alu h (Eq.refl (execLui d u s)) (upperImm_eq u),
      computes_alu h (Eq.refl (execAuipc d u s)) (congrArg (s.core.regs.pc + ·) (upperImm_eq u)),
      computes_alu h (Eq.refl (execShor d u s)) (shor_eq (xr s d) u)⟩

/-- Settles O3: each form is one scalar arithmetic instruction of its exact value. -/
theorem floatArithmetic : Obligations.FloatArithmetic := by
  intro s d a b h rm p q r m two
  have one (x : Reg) : ([x].any fun y => fp32.snan (single s y)) = fp32.snan (single s x) := by simp
  have pair : ([a, b].any fun y => fp32.snan (single s y)) = (fp32.snan p || fp32.snan q) := by simp [p, q]
  have triple : ([a, b, d].any fun y => fp32.snan (single s y)) = (fp32.snan p || fp32.snan q || fp32.snan r) := by
    simp [p, q, r, Bool.or_assoc]
  exact ⟨computesF_fpArith h (Eq.refl (execFadd d a b s)) rfl pair,
    computesF_fpArith h (Eq.refl (execFsub d a b s)) rfl pair,
    computesF_fpArith h (Eq.refl (execFmul d a b s)) rfl pair,
    computesF_fpArith h (Eq.refl (execFdiv d a b s)) rfl pair,
    computesF_fpArith h (Eq.refl (execFma d a b s)) rfl triple,
    computesF_fpArith h (Eq.refl (execFsqrt d a s)) rfl (one a)⟩

/-- Settles O5: each mode picks one of the two neighbours of the magnitude by its own test. -/
theorem roundingModes : Obligations.RoundingModes := by
  intro n d rnd neg hd hr fl
  exact ⟨roundInt_rtz rnd neg, roundInt_rdn rnd neg, roundInt_rup rnd neg, fun rm hm h => roundInt_exact hd hr hm h,
    fun rm hm k => roundInt_nearest rnd neg hd hm k, roundInt_tie rnd neg, roundInt_sr rnd neg hd⟩

end

namespace Sys2Proof.Machine

/-! ## The loop unit (R185 to R193) -/

section
variable {s : State}

/-- With nothing queued a write of a loop level is the write alone (R166). -/
theorem writeLoop_idle (hq : s.core.q.queue = []) (n : Nat) (l : LoopLevel) :
    writeLoop s n l = setRegs s { s.core.regs with loops := vset s.core.regs.loops n l } := by
  unfold writeLoop
  rw [pushUndo_idle hq]

/-- An undo entry leaves the registers (R166). -/
theorem pushUndo_regs (s : State) (i : UndoItem) : (pushUndo s i).core.regs = s.core.regs := by
  unfold pushUndo
  split
  · rfl
  · rfl

/-- The loop levels after a write of one. -/
theorem writeLoop_loops (s : State) (n : Nat) (l : LoopLevel) : (writeLoop s n l).core.regs.loops = vset s.core.regs.loops n l := by
  rw [← pushUndo_regs s (.loopLevel n (loopAt s n))]
  rfl

/-- A loop level reads what was written to it. -/
theorem loopAt_writeLoop_same {n : Nat} (hn : n < 6) (l : LoopLevel) : loopAt (writeLoop s n l) n = l := by
  rw [loopAt, writeLoop_loops]
  simp [vset, hn]

/-- A write of a loop level leaves every other. -/
theorem loopAt_writeLoop_other {n m : Nat} (h : m ≠ n) (l : LoopLevel) : loopAt (writeLoop s n l) m = loopAt s m := by
  rw [loopAt, writeLoop_loops]
  simp [loopAt, vset, h.symm]

/-- Retiring leaves the loop levels. -/
theorem loopAt_retired (hq : s.core.q.queue = []) (m : Nat) : loopAt (retired s) m = loopAt s m := by
  rw [retired_eq hq]
  rfl

/-- A write of an x register leaves the loop levels. -/
theorem loopAt_setX (d : Reg) (v : Word) (m : Nat) : loopAt (setX s d v) m = loopAt s m := by
  rw [setX_eq]
  rfl

/-- Where only loop levels and x registers change, a quiet core stays quiet. -/
theorem onlyLoops_quiet {t : State} (h : OnlyLoops s t) (hq : Quiet s) : Quiet t := by
  have e : t.core.q = s.core.q := by
    unfold OnlyLoops at h
    rw [h]
  unfold Quiet
  rw [e]
  exact hq

/-- An instruction whose meaning changes only loop levels and x registers ends its step with its meaning. -/
theorem exec_onlyLoops {i : Instr} {rs : List Reg} {k : State → State} {t : State} (h : Quiet s) (he : exec i s = .next (strand s rs k))
    (hk : k s = t) (ho : OnlyLoops s t) : exec i s = .next t := by
  rw [he, strand_quiet h, hk, settle_quiet (onlyLoops_quiet ho h)]

/-- Bits 47:0 of x(a) as a count (R186). -/
theorem loopCountOf_eq (s : State) (a : Reg) : loopCountOf s a = (xr s a).toNat % 2 ^ 48 := by
  rw [loopCountOf, BitVec.extractLsb'_toNat, Nat.shiftRight_zero]

/-- The address past a body of some words (R186). -/
theorem pastBody_eq (s : State) (body : Nat) :
    s.core.regs.pc + 4 + BitVec.ofNat 64 (4 * body) = wordsOn s (1 + body) := by
  unfold wordsOn
  rw [Int.mul_add, BitVec.ofInt_add, ← BitVec.add_assoc]
  congr 1

/-- A level that has just been set ends at no word of its own (R186). -/
theorem noLoopEnd_newLoop (h : Ready s) {n body : Nat} (c st : Nat) (b : Option (BitVec 3)) (hb : body ≠ 0) (hl : body < 2 ^ 12) :
    NoLoopEnd (writeLoop s n (newLoop s c st b body)) := by
  have hq := h.1.1
  rintro k hk ⟨ha, hs, hv⟩
  by_cases hkn : k = n
  · subst hkn
    rw [loopAt_writeLoop_same hk, writeLoop_idle hq] at hs
    have hz : BitVec.ofNat 64 (4 * body) = 0#64 := by
      refine BitVec.add_right_eq_self.1 (show s.core.regs.pc + BitVec.ofNat 64 (4 * body) = s.core.regs.pc from hs)
    have hn := congrArg BitVec.toNat hz
    rw [BitVec.toNat_ofNat, Nat.mod_eq_of_lt (by omega)] at hn
    exact hb (by simpa using hn)
  · rw [loopAt_writeLoop_other hkn] at ha hs hv
    rw [writeLoop_idle hq] at hs hv
    exact h.2 k hk ⟨ha, hs, hv⟩

/-- A loop setting of some passes sets its level and falls through (R186). -/
theorem setsLoop_of {i : Instr} {rs : List Reg} {k : State → State} {n : BitVec 3} {c st body : Nat} {b : Option (BitVec 3)} (h : Ready s)
    (he : exec i s = .next (strand s rs k)) (hk : k s = setLoop s n c st b body) (hn : n.toNat ≤ 5) (hc : c ≠ 0) (hb : body ≠ 0)
    (hl : body < 2 ^ 12) : SetsLoop i s n.toNat (newLoop s c st b body) := by
  have hq := h.1.1
  have hset : setLoop s n c st b body = fallThrough (writeLoop s n.toNat (newLoop s c st b body)) := if_neg hc
  have hqw : (writeLoop s n.toNat (newLoop s c st b body)).core.q.queue = [] := by rw [writeLoop_idle hq]; exact hq
  have hfall := fallThrough_eq hqw (noLoopEnd_newLoop h c st b hb hl)
  have hloop (m : Nat) : loopAt (setLoop s n c st b body) m = loopAt (writeLoop s n.toNat (newLoop s c st b body)) m := by
    rw [hset, hfall, ← loopAt_retired hqw]
    rfl
  have honly : OnlyLoops s (setLoop s n c st b body) := by
    rw [hset, hfall, retired_eq hqw, writeLoop_idle hq]
    rfl
  refine ⟨_, exec_onlyLoops h.1 he hk honly, ?_, fun m hm => ?_, fun r => ?_, ?_, honly⟩
  · rw [hloop, loopAt_writeLoop_same (Nat.lt_succ_of_le hn)]
  · rw [hloop, loopAt_writeLoop_other hm]
  · rw [hset, hfall, retired_eq hqw, writeLoop_idle hq]
    rfl
  · rw [hset, hfall, retired_eq hqw, writeLoop_idle hq]
    exact ⟨rfl, rfl⟩

/-- A loop setting sets its level, or skips the body for a count of 0 (R186). -/
theorem loopSetting {i : Instr} {rs : List Reg} {k : State → State} {n : BitVec 3} {c st body : Nat} {b : Option (BitVec 3)} (h : Ready s)
    (he : exec i s = .next (strand s rs k)) (hk : k s = setLoop s n c st b body) (hn : n.toNat ≤ 5) (hb : body ≠ 0) (hl : body < 2 ^ 12) :
    if c = 0 then GoesTo i s (wordsOn s (1 + body)) else SetsLoop i s n.toNat (newLoop s c st b body) := by
  split
  · rename_i hc
    exact goesTo_of h.1 he (hk.trans ((if_pos hc).trans (congrArg (jumpTo s) (pastBody_eq s body))))
  · rename_i hc
    exact setsLoop_of h he hk hn hc hb hl

/-! ## The END test (R187) -/

/-- Levels that do not end are passed over (R187). -/
theorem endTest_skip {a : Word} {n N : Nat} (hn : n ≤ N)
    (h : ∀ m, n ≤ m → m < N → ¬((loopAt s m).act = true ∧ (loopAt s m).stop = a ∧ (loopAt s m).lvl = s.core.regs.level)) :
    endTest s a N = endTest s a n := by
  induction N, hn using Nat.le_induction with
  | base => rfl
  | succ N hN ih =>
    have hc : ¬((loopAt s N).act && decide ((loopAt s N).stop = a) && decide ((loopAt s N).lvl = s.core.regs.level)) = true := by
      simpa only [Bool.and_eq_true, decide_eq_true_eq, and_assoc] using h N hN (Nat.lt_succ_self N)
    rw [← ih fun m hm hlt => h m hm (Nat.lt_succ_of_lt hlt)]
    exact if_neg hc

/-- The level that goes on at its END: LC falls by one and the stage bits move up (R187). -/
def nextPass (l : LoopLevel) : LoopLevel :=
  let lc := l.lc - 1
  let bit : Byte := if (l.count.toNat : Int) + l.stages - 1 - lc.toNat < l.count.toNat then 1 else 0
  { l with lc := lc, stg := ((l.stg <<< 1) ||| bit) &&& BitVec.ofNat 8 (2 ^ l.stages - 1) }

/-- A level that ends at a word goes on from START, or ends and leaves the test to the levels below it (R187). -/
theorem endTest_ends {n : Nat} {a : Word} (h : (loopAt s n).act = true ∧ (loopAt s n).stop = a ∧ (loopAt s n).lvl = s.core.regs.level) :
    endTest s a (n + 1) = if 1 < (loopAt s n).lc.toNat then setPc (writeLoop s n (nextPass (loopAt s n))) (loopAt s n).start
      else endTest (writeLoop s n (endedLoop (loopAt s n))) a n := by
  have hc : ((loopAt s n).act && decide ((loopAt s n).stop = a) && decide ((loopAt s n).lvl = s.core.regs.level)) = true := by
    simp only [Bool.and_eq_true, decide_eq_true_eq, and_assoc]
    exact h
  exact if_pos hc

/-- The bit that says that a pass starts. -/
theorem ite_one_bit (p : Prop) [Decidable p] (j : Nat) :
    (if p then 1 else 0 : Byte).getLsbD j = (decide (j = 0) && decide p) := by
  by_cases hp : p
  · rw [if_pos hp, show (1 : Byte) = 1#8 from rfl, BitVec.getLsbD_one]
    simp [hp]
  · simp [hp]

/-- The stage bits of the next pass: bit 0 says that a pass starts, and the others are those below them, for the stages that there are (R187). -/
theorem nextPass_stg (l : LoopLevel) {j : Nat} (hj : j < 8) :
    (nextPass l).stg.getLsbD j = (decide (j < l.stages) &&
      (if j = 0 then decide ((l.count.toNat : Int) + l.stages - 1 - (l.lc - 1).toNat < l.count.toNat) else l.stg.getLsbD (j - 1))) := by
  have hmask : (BitVec.ofNat 8 (2 ^ l.stages - 1)).getLsbD j = decide (j < l.stages) := by
    rw [BitVec.getLsbD_ofNat, Nat.testBit_two_pow_sub_one]
    simp [hj]
  unfold nextPass
  rw [BitVec.getLsbD_and, BitVec.getLsbD_or, hmask, ite_one_bit, BitVec.getLsbD_shiftLeft, Bool.and_comm]
  generalize ((l.count.toNat : Int) + l.stages - 1 - (l.lc - 1).toNat) = w
  cases j with
  | zero => simp
  | succ j => simp [hj]

section
variable {n : Nat} (d : Reg) (v : Word)

/-- The levels that end are those of the state before an instruction that writes an x register. -/
theorem endsAt_retired_setX (h : Quiet s) (m : Nat) : EndsAt s m ↔ (loopAt (retired (setX s d v)) m).act = true ∧
    (loopAt (retired (setX s d v)) m).stop = (retired (setX s d v)).core.regs.pc ∧
    (loopAt (retired (setX s d v)) m).lvl = (retired (setX s d v)).core.regs.level := by
  have hq := (quiet_setX h d v).1
  rw [loopAt_retired hq, loopAt_setX, retired_eq hq, setX_eq]
  rfl

/-- Falling through where level n is the highest that ends (R187). -/
theorem fallThrough_ends (h : Quiet s) (hn : n ≤ 5) (he : EndsAt s n) (hhigh : ∀ m, n < m → m ≤ 5 → ¬EndsAt s m) :
    fallThrough (setX s d v) = if 1 < (loopAt s n).lc.toNat then
        setPc (writeLoop (retired (setX s d v)) n (nextPass (loopAt s n))) (loopAt s n).start
      else endTest (writeLoop (retired (setX s d v)) n (endedLoop (loopAt s n))) s.core.regs.pc n := by
  have hq := (quiet_setX h d v).1
  have hl : loopAt (retired (setX s d v)) n = loopAt s n := by rw [loopAt_retired hq, loopAt_setX]
  have hpc : (retired (setX s d v)).core.regs.pc = s.core.regs.pc := by rw [retired_eq hq, setX_eq]; rfl
  show endTest (retired (setX s d v)) (retired (setX s d v)).core.regs.pc 6 = _
  rw [endTest_skip (show n + 1 ≤ 6 by omega) fun m hm hlt =>
      mt (endsAt_retired_setX d v h m).2 (hhigh m hm (Nat.le_of_lt_succ hlt)), endTest_ends ((endsAt_retired_setX d v h n).1 he), hl, hpc]

/-- With nothing queued, what a write of a level after an instruction leaves of the state. -/
theorem writeLoop_retired_setX (h : Quiet s) (l : LoopLevel) :
    writeLoop (retired (setX s d v)) n l = { s with core := { s.core with
      regs := { s.core.regs with
        x := (setX s d v).core.regs.x
        loops := vset s.core.regs.loops n l
        instret := s.core.regs.instret + 1 }
      sync := { s.core.sync with rcnt := (retired (setX s d v)).core.sync.rcnt } } } := by
  have hq := (quiet_setX h d v).1
  have hqr : (retired (setX s d v)).core.q.queue = [] := by rw [retired_eq hq]; exact hq
  rw [writeLoop_idle hqr, retired_eq hq, setX_eq]
  rfl

/-- Moving on from a state in which a level was written after an instruction: x(d) has its value, only loop levels, x registers and the PC
have changed, and of the levels only that one. -/
theorem moved_writeLoop (h : Quiet s) (hn : n ≤ 5) (l : LoopLevel) (pc : Word) :
    let t := setPc (writeLoop (retired (setX s d v)) n l) pc
    t.core.regs.pc = pc ∧ WroteX s t d v ∧ OnlyLoops s t ∧ (∀ m, m ≠ n → loopAt t m = loopAt s m) ∧ loopAt t n = l := by
  have hq := (quiet_setX h d v).1
  obtain ⟨hsame, hother⟩ := wroteX_setX s d v
  have hxr (r : Reg) : xr (setPc (writeLoop (retired (setX s d v)) n l) pc) r = xr (setX s d v) r := by
    rw [writeLoop_retired_setX d v h]
    rfl
  intro t
  refine ⟨rfl, ⟨fun hd => (hxr d).trans (hsame hd), fun r hr => (hxr r).trans (hother r hr)⟩, ?_, fun m hm => ?_, ?_⟩
  · simp only [t, OnlyLoops]
    rw [writeLoop_retired_setX d v h]
    rfl
  · exact (loopAt_writeLoop_other hm l).trans (by rw [loopAt_retired hq, loopAt_setX])
  · exact loopAt_writeLoop_same (Nat.lt_succ_of_le hn) l

/-- A level that ends leaves the strand at the next word where no lower level ends there (R187). -/
theorem endTest_ended (h : Quiet s) (hlow : ∀ m, m < n → ¬EndsAt s m) (l : LoopLevel) :
    endTest (writeLoop (retired (setX s d v)) n l) s.core.regs.pc n = setPc (writeLoop (retired (setX s d v)) n l) (s.core.regs.pc + 4) := by
  have hq := (quiet_setX h d v).1
  have hqr : (retired (setX s d v)).core.q.queue = [] := by rw [retired_eq hq]; exact hq
  refine endTest_none n fun k hk hends => hlow k hk ((endsAt_retired_setX d v h k).2 ?_)
  rw [loopAt_writeLoop_other (Nat.ne_of_lt hk), writeLoop_idle hqr] at hends
  obtain ⟨ha, hs, hv⟩ := hends
  refine ⟨ha, hs.trans ?_, hv⟩
  rw [retired_eq hq, setX_eq]
  rfl

end

/-! ## LBRK and LIDX (R188, R193) -/

/-- Level k ends when it is active and not below level n (R188). -/
def endLevel (n : Nat) (u : State) (k : Nat) : State :=
  if n ≤ k && (loopAt u k).act then writeLoop u k { loopAt u k with act := false, lc := 0, stg := 0 } else u

/-- Ending the levels of a range changes them alone (R188). -/
theorem endLevels_range (hq : s.core.q.queue = []) (n : Nat) : ∀ N, N ≤ 6 →
    let u := (List.range N).foldl (endLevel n) s
    u = setRegs s { s.core.regs with loops := u.core.regs.loops } ∧
    ∀ m, loopAt u m = if m < N ∧ n ≤ m ∧ (loopAt s m).act = true then endedLoop (loopAt s m) else loopAt s m
  | 0, _ => ⟨rfl, fun m => (if_neg (by simp)).symm⟩
  | N + 1, hN => by
    obtain ⟨hu, hl⟩ := endLevels_range hq n N (Nat.le_of_succ_le hN)
    have hqu : ((List.range N).foldl (endLevel n) s).core.q.queue = [] := by rw [hu]; exact hq
    have hold : loopAt ((List.range N).foldl (endLevel n) s) N = loopAt s N := (hl N).trans (if_neg (by simp))
    rw [List.range_succ, List.foldl_append, List.foldl_cons, List.foldl_nil]
    generalize (List.range N).foldl (endLevel n) s = u at hu hl hqu hold
    show endLevel n u N = setRegs s { s.core.regs with loops := (endLevel n u N).core.regs.loops } ∧
      ∀ m, loopAt (endLevel n u N) m = if m < N + 1 ∧ n ≤ m ∧ (loopAt s m).act = true then endedLoop (loopAt s m) else loopAt s m
    rw [show endLevel n u N = if n ≤ N && (loopAt u N).act then writeLoop u N (endedLoop (loopAt u N)) else u from rfl, hold]
    by_cases hc : n ≤ N ∧ (loopAt s N).act = true
    · rw [if_pos (by simpa using hc)]
      refine ⟨?_, fun m => ?_⟩
      · rw [writeLoop_idle hqu]
        rw [hu]
        rfl
      · by_cases hm : m = N
        · subst hm
          rw [loopAt_writeLoop_same (Nat.lt_of_succ_le hN), if_pos ⟨Nat.lt_succ_self m, hc⟩]
        · rw [loopAt_writeLoop_other hm, hl]
          simp only [show m < N + 1 ↔ m < N by omega]
    · rw [if_neg (by simpa using hc)]
      refine ⟨hu, fun m => ?_⟩
      by_cases hm : m = N
      · subst hm
        rw [hold, if_neg fun h => hc h.2]
      · rw [hl]
        simp only [show m < N + 1 ↔ m < N by omega]

/-- LBRK of an active level ends it and every active level above it, and goes past its END (R188). -/
theorem lbrk_active (h : Quiet s) {n : BitVec 3} (ha : (loopAt s n.toNat).act = true) :
    ∃ t, exec (.lbrk n) s = .next t ∧ t.core.regs.pc = (loopAt s n.toNat).stop + 4 ∧ OnlyLoops s t ∧ (∀ r, xr t r = xr s r) ∧
      ∀ m, m ≤ 5 → loopAt t m = if n.toNat ≤ m ∧ (loopAt s m).act = true then endedLoop (loopAt s m) else loopAt s m := by
  obtain ⟨hu, hl⟩ := endLevels_range h.1 n.toNat 6 le_rfl
  change endLevels s n.toNat = _ at hu
  change ∀ m, loopAt (endLevels s n.toNat) m = _ at hl
  have hqu : (endLevels s n.toNat).core.q.queue = [] := by rw [hu]; exact h.1
  have hjump : jumpTo (endLevels s n.toNat) ((loopAt s n.toNat).stop + 4) =
      setPc (retired (endLevels s n.toNat)) ((loopAt s n.toNat).stop + 4) := rfl
  have honly : OnlyLoops s (jumpTo (endLevels s n.toNat) ((loopAt s n.toNat).stop + 4)) := by
    rw [hjump, retired_eq hqu, hu]
    rfl
  refine ⟨_, exec_onlyLoops h (Eq.refl (execLbrk n s)) (if_pos ha) honly, (jumpTo_goes hqu _).1, honly, fun r => ?_, fun m hm => ?_⟩
  · rw [onlyPc_xr (jumpTo_onlyPc hqu _), hu]
    rfl
  · rw [show loopAt (jumpTo (endLevels s n.toNat) ((loopAt s n.toNat).stop + 4)) m = loopAt (retired (endLevels s n.toNat)) m from rfl,
      loopAt_retired hqu, hl]
    simp only [Nat.lt_succ_of_le hm, true_and]

/-- Counting down, a test picks the highest index that passes it. -/
theorem find_range_reverse {p : Nat → Bool} {n N : Nat} (hn : n < N) (hp : p n = true) (hhigh : ∀ k, n < k → k < N → p k = false) :
    (List.range N).reverse.find? p = some n := by
  induction N with
  | zero => exact absurd hn (Nat.not_lt_zero n)
  | succ N ih =>
    rw [List.range_succ, List.reverse_append, List.reverse_singleton, List.singleton_append]
    by_cases hnN : n = N
    · subst hnN
      rw [List.find?_cons_of_pos hp]
    · rw [List.find?_cons_of_neg (by simp [hhigh N (by omega) (Nat.lt_succ_self N)])]
      exact ih (by omega) fun k hk hlt => hhigh k hk (Nat.lt_succ_of_lt hlt)

/-- The test of a level for a binding (R193). -/
theorem boundTest_iff (n : Nat) (m : BitVec 3) :
    ((loopAt s n).act && (loopAt s n).bind == some m) = true ↔ BoundTo s n m := by
  simp [BoundTo]

/-- The highest level that is bound to an entry (R193). -/
theorem boundLevel_some {n : Nat} {m : BitVec 3} (hn : n ≤ 5) (hb : BoundTo s n m) (hhigh : ∀ k, n < k → k ≤ 5 → ¬BoundTo s k m) :
    boundLevel s m = some (loopAt s n) := by
  unfold boundLevel
  rw [List.find?_map, find_range_reverse (p := (fun l : LoopLevel => l.act && l.bind == some m) ∘ loopAt s) (Nat.lt_succ_of_le hn)
    ((boundTest_iff n m).2 hb) fun k hk hlt => Bool.eq_false_iff.2 (mt (boundTest_iff k m).1 (hhigh k hk (Nat.le_of_lt_succ hlt)))]
  rfl

/-- No level is bound to an entry (R193). -/
theorem boundLevel_none {m : BitVec 3} (h : ∀ k, k ≤ 5 → ¬BoundTo s k m) : boundLevel s m = none := by
  unfold boundLevel
  rw [List.find?_eq_none]
  intro l hl
  obtain ⟨k, hk, rfl⟩ := List.mem_map.1 hl
  exact mt (boundTest_iff k m).1 (h k (Nat.le_of_lt_succ (List.mem_range.1 (List.mem_reverse.1 hk))))

/-- LIDX writes its value (R193). -/
theorem computes_lidx (h : Ready s) {d : Reg} {m : BitVec 3} {v : Word} (hv : lidxValue s m = v) : Computes (.lidx d m) s d v :=
  computes_of h (Eq.refl (execLidx d m s)) (by rw [← hv])

section
variable {m : BitVec 3} {kind : Nat} {step : Int} (he : HasEntry s m kind step)
include he

/-- LIDX of a D or C entry: the index of the strand times STEP (R193). -/
theorem lidxValue_index (hk : kind = 1 ∨ kind = 2) : lidxValue s m = BitVec.ofInt 64 (((s.core.idx[m.toNat]?).getD 0 : Nat) * step) := by
  obtain ⟨l, hl, rfl, rfl⟩ := he
  unfold lidxValue
  simp only [hl]
  rw [if_pos (by simpa using hk)]

/-- LIDX of a T entry: the passes made by the highest active level that is bound to it times STEP, or 0 (R193). -/
theorem lidxValue_trips (hk : kind = 3) : lidxValue s m = match boundLevel s m with
    | some v => BitVec.ofInt 64 (((v.count.toNat : Int) - v.lc.toNat) * step)
    | none => 0 := by
  obtain ⟨l, hl, hkind, rfl⟩ := he
  unfold lidxValue
  simp only [hl, hkind.trans hk]
  rfl

/-- LIDX of an unused entry (R193). -/
theorem lidxValue_unused (hk : kind = 0) : lidxValue s m = 0 := by
  obtain ⟨l, hl, hkind, rfl⟩ := he
  unfold lidxValue
  simp only [hl, hkind.trans hk]
  rfl

end

end

end Sys2Proof.Machine

section

open Sys2Proof Sys2Proof.Machine

/-- Settles O8: each form is one loop setting, of its count, its stages and its binding. -/
theorem loopSettings : Obligations.LoopSettings := by
  intro s n m a l st k h hn c
  have hne {w : Nat} {b : BitVec w} (hb : b ≠ 0) : b.toNat ≠ 0 := fun e => hb (BitVec.eq_of_toNat_eq e)
  refine ⟨fun hl => ?_, fun hl _ => ?_, fun hk => ?_⟩
  · exact loopSetting h (Eq.refl (execLoop n a l s)) (by rw [loopCountOf_eq]) hn (hne hl) l.isLt
  · exact loopSetting h (Eq.refl (execLoopt n m l s)) rfl hn (hne hl) l.isLt
  · exact loopSetting h (Eq.refl (execLoops n a st k s)) (by rw [loopCountOf_eq]) hn (hne hk) (Nat.lt_trans k.isLt (by decide))

/-- Settles O9: the END test passes over the levels above the highest that ends, and that one goes on or ends; LBRK ends a range of levels;
LIDX looks for the highest level of its entry. -/
theorem loopEndBreakIndex : Obligations.LoopEndBreakIndex := by
  refine ⟨?_, fun s n hn => ⟨fun ha h => lbrk_active h ha, fun ha h => ?_⟩, fun s d m kind step h _ he => ?_⟩
  · intro s d a b n h hn hends hhigh l lc p
    have hfall := fallThrough_ends d (xr s a + xr s b) h hn hends hhigh
    have hx (t : State) (hk : fallThrough (setX s d (xr s a + xr s b)) = t) (ho : OnlyLoops s t) : exec (.add d a b) s = .next t :=
      exec_onlyLoops h (Eq.refl (execAdd d a b s)) ((congrArg fallThrough (writeX_idle h.1 d _)).trans hk) ho
    refine ⟨fun hlc => ?_, fun hlc hlow => ?_⟩
    · rw [if_pos hlc] at hfall
      obtain ⟨hpc, hw, ho, hother, hsame⟩ := moved_writeLoop d (xr s a + xr s b) h hn (nextPass l) l.start
      exact ⟨_, hx _ hfall ho, hpc, hw, ho, hother, by rw [hsame]; rfl, fun j hj => by rw [hsame]; exact nextPass_stg l hj⟩
    · rw [if_neg (Nat.not_lt.2 hlc), endTest_ended d _ h hlow] at hfall
      obtain ⟨hpc, hw, ho, hother, hsame⟩ := moved_writeLoop d (xr s a + xr s b) h hn (endedLoop l) (s.core.regs.pc + 4)
      exact ⟨_, hx _ hfall ho, hpc, hw, ho, hother, hsame⟩
  · exact goesNext_of h (Eq.refl (execLbrk n s)) (if_neg (ne_true_of_eq_false ha))
  · refine ⟨fun hk => ?_, fun n hk hn hb hhigh => ?_, fun hk hnone => ?_, fun hk => ?_⟩
    · exact computes_lidx h (lidxValue_index he hk)
    · exact computes_lidx h (by rw [lidxValue_trips he hk, boundLevel_some hn hb hhigh])
    · exact computes_lidx h (by rw [lidxValue_trips he hk, boundLevel_none hnone])
    · exact computes_lidx h (lidxValue_unused he hk)

end

namespace Sys2Proof.Machine

/-! ## The step of the machine (R129 to R137) -/

/-- What the machine does but for the acts of the outside: something is done, or a strand issues. -/
def Plan.isInner : Plan → Bool
  | .input _ _ => false
  | _ => true

theorem strandAct_isInner {s : State} {p : Plan} (h : strandAct s = some p) : p.isInner = true := by
  unfold strandAct at h
  split at h
  · split at h
    · exact absurd h nofun
    · exact Option.some.inj h ▸ rfl
  · split at h
    · exact Option.some.inj h ▸ rfl
    · split at h
      · exact Option.some.inj h ▸ rfl
      · exact absurd h nofun

theorem strandTurn_isInner {s : State} {p : Plan} (h : strandTurn s = some p) : p.isInner = true := by
  obtain ⟨c, -, hc⟩ := List.exists_of_findSome?_eq_some h
  split at hc
  · exact absurd hc nofun
  · exact strandAct_isInner hc

theorem inner_isInner (s : State) : (inner s).isInner = true := by
  unfold inner
  split
  · rfl
  · split
    · rfl
    · cases h : strandTurn s with
      | none => rfl
      | some p => exact strandTurn_isInner h

/-- A CSR read answers a next state, whether it drains the queue or not (R149). -/
theorem csrReadOp_next (w : Word) (d : Reg) (c : BitVec 13) (s : State) : ∃ t, csrReadOp w d c s = .next t := by
  unfold csrReadOp
  split
  · exact ⟨_, rfl⟩
  · exact ⟨_, rfl⟩

/-- An instruction that has a word answers a next state, whatever the state: only an event can be refused. -/
theorem exec_next_of_encode {i : Instr} (h : encode i ≠ none) (s : State) : ∃ t, exec i s = .next t := by
  cases i
  case csrr d c => exact csrReadOp_next _ d c s
  case csrs d a c =>
    by_cases ha : a = 0
    · exact (csrReadOp_next (wordOf (.csrs d a c)) d c s).imp fun t ht => (if_pos ha).trans ht
    · exact ⟨_, if_neg ha⟩
  case csrc d a c =>
    by_cases ha : a = 0
    · exact (csrReadOp_next (wordOf (.csrc d a c)) d c s).imp fun t ht => (if_pos ha).trans ht
    · exact ⟨_, if_neg ha⟩
  -- the events have no word
  all_goals try exact absurd rfl h
  all_goals exact ⟨_, rfl⟩

/-- A decoded instruction answers a next state. -/
theorem exec_next_of_decode {w : InstrWord} {i : Instr} (h : decodeWord w = .ok i) (s : State) : ∃ t, exec i s = .next t := by
  refine exec_next_of_encode ?_ s
  rw [((decodeEncode w i).1 h).1]
  nofun

section
variable {s s1 : State}

/-- The state in which a strand fetches: it has not stalled yet, and no trap waits. -/
def fetching (s : State) : State := setSync s { s.core.sync with stall := false, trapWaits := false }

/-- The issue of a fetched word that decodes (R137). -/
theorem issue_decoded {w : InstrWord} {i : Instr} (hf : fetchWord (fetching s) = .word s1 w) (hd : decodeWord w = .ok i) :
    runPlan (.issue s) = issued (startOf s1) (exec i s1) := by
  rw [fetching] at hf
  simp only [runPlan, fetchNext, hf, hd]

/-- The issue of a fetched word that decodes to nothing (R137). -/
theorem issue_illegal {w : InstrWord} {e : DecodeError} (hf : fetchWord (fetching s) = .word s1 w) (hd : decodeWord w = .error e) :
    runPlan (.issue s) = issued (startOf s1) (execIllegalInstruction w s1) := by
  rw [fetching] at hf
  simp only [runPlan, fetchNext, hf, hd]

/-- The issue where the fetch faults (R132). -/
theorem issue_fault {c : Nat} (hf : fetchWord (fetching s) = .fault s1 c) :
    runPlan (.issue s) = issued none (.next (settle (raiseTrap s1 c s1.core.regs.pc))) := by
  rw [fetching] at hf
  simp only [runPlan, fetchNext, hf]
  rfl

/-- The issue where the page is being serviced (R132). -/
theorem issue_wait (hf : fetchWord (fetching s) = .wait s1) : runPlan (.issue s) = issued none (.next (stall s1)) := by
  rw [fetching] at hf
  simp only [runPlan, fetchNext, hf]

end

/-- The issue of a strand answers a next state. -/
theorem issue_next (s : State) : ∃ t, runPlan (.issue s) = .next t := by
  cases hf : fetchWord (fetching s) with
  | wait s1 => exact ⟨_, issue_wait hf⟩
  | fault s1 c => exact ⟨_, issue_fault hf⟩
  | word s1 w =>
    cases hd : decodeWord w with
    | error e => exact ⟨_, issue_illegal hf hd⟩
    | ok i =>
      obtain ⟨t, ht⟩ := exec_next_of_decode hd s1
      exact ⟨_, (issue_decoded hf hd).trans (congrArg (issued (startOf s1)) ht)⟩

/-- What the machine does of itself answers a next state. -/
theorem inner_next (s : State) : ∃ t, runPlan (inner s) = .next t := by
  have h := inner_isInner s
  cases hp : inner s with
  | input i u => rw [hp] at h; exact absurd h nofun
  | done u => exact ⟨_, rfl⟩
  | issue u => exact issue_next u

/-- In its turn a strand that runs, waits for nothing and has no trap at its boundary issues (log 9). -/
theorem plan_issue {s : State} (h : ItsTurn s) (hr : Running s) (hw : s.core.sync.wait = none) (hb : boundaryTrap s (fetchFails s) = none) :
    plan s = .issue s := by
  obtain ⟨hocc, hx, hi, hu, ho, hk⟩ := h
  obtain ⟨-, hstop, hsw⟩ := hr
  have hcan : canIssue s = true := by simp [canIssue, hocc, hstop, hw, hsw]
  have hact : strandAct s = some (.issue s) := by simp only [strandAct, hk, hb, hcan, if_true]
  have hturn : strandTurn s = some (.issue s) := by
    simp only [strandTurn, allCores, List.findSome?_cons, if_neg hocc, focusOn, if_pos, hact]
  simp only [plan, hx, outer, hi, inner, hu, ho, hturn, Option.getD_some]

/-- Where a strand issues, the step is the issue. -/
theorem step_issue {s : State} (h : plan s = .issue s) : step s = runPlan (.issue s) := by
  obtain ⟨t, ht⟩ := issue_next s
  unfold step
  rw [h, ht]

end Sys2Proof.Machine

section

open Sys2Proof Sys2Proof.Machine

/-- Settles O47: what the machine does of itself always answers a next state, since only an event can be refused. -/
theorem machineGoesOn : Obligations.MachineGoesOn := by
  intro s
  unfold GoesOn step
  split
  · exact ⟨_, rfl⟩
  · exact inner_next s

/-- Settles O45: the strand in focus issues, and what it issues follows what it has fetched. -/
theorem stepRunsDecoded : Obligations.StepRunsDecoded := by
  intro s h hr hw hb fetched
  have hs := step_issue (plan_issue h hr hw hb)
  exact ⟨fun s1 w i hf hd => hs.trans (issue_decoded hf hd), fun s1 w e hf hd => hs.trans (issue_illegal hf hd),
    fun s1 c hf => hs.trans (issue_fault hf), fun s1 hf => hs.trans (issue_wait hf)⟩

/-- Settles O43, by reading the reset state. -/
theorem resetState : Obligations.ResetState := by
  unfold Obligations.ResetState MemoryCanonical
  decide

/-- Settles O44: each word is the word of its instruction (`decodeEncode`), and the last is the word of none. -/
theorem decodedWords : Obligations.DecodedWords := by
  refine ⟨?_, ?_, ?_, ?_, ?_, ?_, ?_, ?_, ?_, ?_, ?_, _, rfl⟩
  all_goals exact (decodeEncode _ _).2 (by decide)

end

namespace Sys2Proof.Machine

/-! ## Traps and returns (R144, R156, R159, R160, R429) -/

/-- A word with its low n bits cleared, as a number. -/
theorem shiftRight_shiftLeft_eq (w : Word) (n : Nat) : (w >>> n) <<< n = BitVec.ofNat 64 (w.toNat / 2 ^ n * 2 ^ n) := by
  apply BitVec.eq_of_toNat_eq
  rw [BitVec.toNat_shiftLeft, BitVec.toNat_ushiftRight, Nat.shiftLeft_eq, Nat.shiftRight_eq_div_pow, BitVec.toNat_ofNat]

/-- The own word of an instruction is TVAL of its cause 2 (R137). -/
theorem wordOf_eq_ownWord (i : Instr) : wordOf i = ownWord i := rfl

section
variable {s : State}

/-- Trap entry with a handler, written out (R156). -/
theorem trapEntry_to_handler (h : HandlerReady s) (code : Nat) (v pc : Word) :
    trapEntry s code false v pc = { s with core := { s.core with
      trap := { s.core.trap with
        epc := pc
        cause := 0 ||| BitVec.ofNat 64 code
        tval := v
        plv := s.core.regs.level
        pie := s.core.trap.ie
        ie := false
        inh := true
        emode := s.core.regs.mode
        emaskd := BitVec.ofNat 5 s.core.vec.masks.length }
      regs := { s.core.regs with mode := 0, level := 2, pc := BitVec.ofNat 64 (s.core.trap.tvec.toNat / 4 * 4) } } } := by
  obtain ⟨htvec, hinh⟩ := h
  rw [show BitVec.ofNat 64 (s.core.trap.tvec.toNat / 4 * 4) = (s.core.trap.tvec >>> 2) <<< 2 from (shiftRight_shiftLeft_eq _ 2).symm]
  refine if_neg ?_
  simpa [hinh] using htvec

/-- Trap entry with no handler, or with INH set, is containment at the PC (R423). -/
theorem trapEntry_contained (h : ¬HandlerReady s) (code : Nat) (v pc : Word) :
    trapEntry s code false v pc = containAs (setPc s pc) code v pc false := by
  refine if_pos ?_
  by_cases ht : s.core.trap.tvec >>> 2 = 0
  · simp [ht]
  · have hi : s.core.trap.inh = true := by
      by_contra hi
      exact h ⟨ht, by simpa using hi⟩
    simp [hi]

/-- The PC that the strand has is no change. -/
theorem setPc_self (s : State) : setPc s s.core.regs.pc = s := rfl

/-- An instruction whose meaning leaves the queues ends its step with its meaning. -/
theorem exec_keepsQueues {i : Instr} {rs : List Reg} {k : State → State} {t : State} (h : Quiet s) (he : exec i s = .next (strand s rs k))
    (hk : k s = t) (hq : t.core.q = s.core.q) : exec i s = .next t := by
  rw [he, strand_quiet h, hk, settle_quiet]
  unfold Quiet
  rw [hq]
  exact h

/-- The same for a drain point. -/
theorem exec_drained_keepsQueues {i : Instr} {rs : List Reg} {k : State → State} {t : State} (h : Quiet s)
    (he : exec i s = .next (drained s rs k)) (hk : k s = t) (hq : t.core.q = s.core.q) : exec i s = .next t := by
  rw [he, drained_quiet h, hk, settle_quiet]
  unfold Quiet
  rw [hq]
  exact h

/-- CONTAIN on a quiet core is its containment (R429). -/
theorem exec_contain (h : Quiet s) (a : Reg) : exec (.contain a) s = .next (settle (containOp s a)) := by
  show Host.Outcome.next (settle (whenReady s [a] fun s0 => atDrain s0 fun s1 => containOp s1 a)) = _
  rw [whenReady_idle h.1 h.2.2.2, atDrain_idle h.1]

end

/-- A strand at level 0 with INH = 1, at depth 1 with the policy 0 (IGNORE) in its template, and code 12 in x1. -/
def containedBelow : State :=
  let s := State.reset
  { s with core := { s.core with
    regs := { s.core.regs with x := vset s.core.regs.x 1 12, depth := 1, shadow := vset s.core.regs.shadow 1 0 }
    trap := { s.core.trap with inh := true } } }

end Sys2Proof.Machine

section

open Sys2Proof Sys2Proof.Machine

/-- Settles O18: on a quiet core a trap is taken at once, in the handler or as a containment. -/
theorem trapEntry : Obligations.TrapEntry := by
  refine ⟨fun s h hh => ?_, fun s w h => ?_⟩
  · exact exec_keepsQueues h (Eq.refl (execBkpt s)) ((raiseTrap_idle h.1 3 0).trans (trapEntry_to_handler hh 3 0 s.core.regs.pc)) rfl
  · have hw : exec (.illegalInstruction w) s = .next (settle (Machine.trapEntry s 2 false (w.setWidth 64) s.core.regs.pc)) :=
      congrArg (fun t => Host.Outcome.next (settle t)) (raiseTrap_idle h.1 2 (w.setWidth 64))
    exact ⟨hw, fun hh => by rw [hw, trapEntry_contained hh, setPc_self]⟩

/-- Refutes O19: below level 2 in a handler (INH = 1), CONTAIN of code 12 under policy 0 is ignored as R426 says of one that is not raised
with INH = 0: the PC stays at 0, where the statement moves it to the next word. -/
theorem not_trapReturnAndModes : ¬Obligations.TrapReturnAndModes := by
  intro h
  have hr : Ready containedBelow := ⟨⟨rfl, rfl, rfl, rfl⟩, by unfold NoLoopEnd; decide⟩
  have hc := (h.2 containedBelow 1 0 hr).2.2.1 (.inl (by decide))
  rw [exec_contain hr.1] at hc
  exact absurd (congrArg (fun r => (nextOf r).map fun t => t.core.regs.pc) hc) (by decide)

end

namespace Sys2Proof.Machine

/-! ## CSRs that read back what was written (R3, R142 to R153, R185, R194) -/

/-- A mask of the low n bits keeps them. -/
theorem lowMask_bit (n : Nat) {k : Nat} (hk : k < 64) : (BitVec.ofNat 64 (2 ^ n - 1)).getLsbD k = decide (k < n) := by
  rw [BitVec.getLsbD_ofNat, Nat.testBit_two_pow_sub_one]
  simp [hk]

/-- A field of the low n bits, extended, is the word under their mask. -/
theorem extract_setWidth (v : Word) (n : Nat) : (v.extractLsb' 0 n).setWidth 64 = v &&& BitVec.ofNat 64 (2 ^ n - 1) := by
  apply BitVec.eq_of_getLsbD_eq
  intro k hk
  rw [BitVec.getLsbD_and, lowMask_bit n hk, BitVec.getLsbD_setWidth, BitVec.getLsbD_extractLsb']
  simp [hk, Bool.and_comm]

/-- A word with its low n bits cleared is the word under the mask of the others. -/
theorem alignTo_eq (v : Word) (n : Nat) : alignTo v n = v &&& ~~~BitVec.ofNat 64 (2 ^ n - 1) := by
  apply BitVec.eq_of_getLsbD_eq
  intro k hk
  rw [BitVec.getLsbD_and, BitVec.getLsbD_not, lowMask_bit n hk, alignTo, BitVec.getLsbD_shiftLeft, BitVec.getLsbD_ushiftRight]
  by_cases hn : k < n
  · simp [hn]
  · simp [hn, hk, show n + (k - n) = k by omega]

/-- What a CSR reads after a write of v where it read old (R3). -/
def csrMixed (c : Nat) (old v : Word) : Word := (v &&& csrMask c) ||| (old &&& csrKept c)

/-- A CSR whose every bit software may write. -/
theorem csrMixed_whole {c : Nat} (hm : csrMask c = BitVec.allOnes 64) (hk : csrKept c = 0) (old v : Word) : csrMixed c old v = v := by
  rw [csrMixed, hm, hk, BitVec.and_allOnes, show old &&& 0 = 0#64 from BitVec.and_zero]
  exact BitVec.or_zero

/-- A CSR of which software may write the bits of a mask, and whose others read 0. -/
theorem csrMixed_field {c : Nat} {m : Word} (hm : csrMask c = m) (hk : csrKept c = 0) (old v : Word) : csrMixed c old v = v &&& m := by
  simp [csrMixed, hm, hk]

/-- A read-only CSR. -/
theorem csrMixed_readOnly {c : Nat} (hm : csrMask c = 0) (hk : csrKept c = BitVec.allOnes 64) (old v : Word) : csrMixed c old v = old := by
  rw [csrMixed, hm, hk, BitVec.and_allOnes, show v &&& 0 = 0#64 from BitVec.and_zero, BitVec.zero_or]

/-- The CSRs that no write changes (R150, R153, R168). -/
def csrReadOnly : List Nat := [0x003, 0x004, 0x005, 0x022, 0x030, 0x031, 0x040, 0x041]

/-- The CSRs that hold a word, but for those of the loops, LANEDONE and CYCLE. -/
def csrWhole : List Nat := [0x002, 0x021, 0x203, 0x204, 0x205, 0x20B]

/-- The CSRs that hold a field of the low bits of a word, with its width. -/
def csrFields : List (Nat × Nat) := [(0x000, 18), (0x001, 6), (0x007, 56), (0x008, 56), (0x207, 9), (0x208, 32), (0x209, 18), (0x20A, 5)]

/-- The CSRs that hold an aligned word, with the number of its clear bits. -/
def csrAligned : List (Nat × Nat) := [(0x101, 2), (0x201, 2), (0x202, 2), (0x206, 4)]

/-- The kinds of CSRs (R150). -/
theorem csr_kinds {s : State} {c : Nat} {old : Word} (h : csrRead s c = some old) :
    c ∈ csrReadOnly ∨ c ∈ csrWhole ∨ (∃ w, (c, w) ∈ csrFields) ∨ (∃ w, (c, w) ∈ csrAligned) ∨ (0x010 ≤ c ∧ c ≤ 0x015) ∨
      c = 0x006 ∨ c = 0x016 ∨ c = 0x020 ∨ c = 0x100 ∨ c = 0x200 := by
  by_contra hn
  simp only [csrReadOnly, csrWhole, csrFields, csrAligned, List.mem_cons, List.not_mem_nil, Prod.mk.injEq, or_false, exists_or,
    exists_eq_right, not_or] at hn
  refine absurd h ?_
  simp only [csrRead]
  simp [hn]

section
variable {s : State} {c : Nat}

theorem csrReadOnly_readBack (hc : c ∈ csrReadOnly) (old v : Word) :
    csrRead (csrWrite s c v) c = csrRead s c ∧ csrMixed c old v = old := by
  simp only [csrReadOnly, List.mem_cons, List.not_mem_nil, or_false] at hc
  rcases hc with rfl | rfl | rfl | rfl | rfl | rfl | rfl | rfl
  all_goals exact ⟨rfl, csrMixed_readOnly (by decide) (by decide) old v⟩

theorem csrWhole_readBack (hc : c ∈ csrWhole) (old v : Word) : csrRead (csrWrite s c v) c = some (csrMixed c old v) := by
  simp only [csrWhole, List.mem_cons, List.not_mem_nil, or_false] at hc
  rcases hc with rfl | rfl | rfl | rfl | rfl | rfl
  all_goals exact congrArg some (csrMixed_whole (by decide) (by decide) old v).symm

theorem csrFields_readBack {w : Nat} (hc : (c, w) ∈ csrFields) (old v : Word) : csrRead (csrWrite s c v) c = some (csrMixed c old v) := by
  simp only [csrFields, List.mem_cons, List.not_mem_nil, or_false, Prod.mk.injEq] at hc
  rcases hc with ⟨rfl, rfl⟩ | ⟨rfl, rfl⟩ | ⟨rfl, rfl⟩ | ⟨rfl, rfl⟩ | ⟨rfl, rfl⟩ | ⟨rfl, rfl⟩ | ⟨rfl, rfl⟩ | ⟨rfl, rfl⟩
  all_goals exact congrArg some ((extract_setWidth v _).trans (csrMixed_field (by decide) (by decide) old v).symm)

theorem csrAligned_readBack {w : Nat} (hc : (c, w) ∈ csrAligned) (old v : Word) : csrRead (csrWrite s c v) c = some (csrMixed c old v) := by
  simp only [csrAligned, List.mem_cons, List.not_mem_nil, or_false, Prod.mk.injEq] at hc
  rcases hc with ⟨rfl, rfl⟩ | ⟨rfl, rfl⟩ | ⟨rfl, rfl⟩ | ⟨rfl, rfl⟩
  all_goals exact congrArg some ((alignTo_eq v _).trans (csrMixed_field (by decide) (by decide) old v).symm)

end

section
variable {s : State}

/-- LCn reads what was written to it (R185). -/
theorem csrLoop_readBack {c : Nat} (hc : 0x010 ≤ c ∧ c ≤ 0x015) (old v : Word) : csrRead (csrWrite s c v) c = some (csrMixed c old v) := by
  obtain ⟨n, hn, rfl⟩ : ∃ n, n < 6 ∧ c = 0x010 + n := ⟨c - 0x010, by omega, by omega⟩
  have hw : csrWrite s (0x010 + n) v = writeLc s n v := by
    interval_cases n
    all_goals rfl
  have hr (u : State) : csrRead u (0x010 + n) = some (loopAt u n).lc := by
    interval_cases n
    all_goals rfl
  have hm : csrMixed (0x010 + n) old v = v := by
    refine csrMixed_whole ?_ ?_ old v
    · interval_cases n
      all_goals decide
    · interval_cases n
      all_goals decide
  rw [hw, hr, hm, writeLc, loopAt_writeLoop_same hn]

/-- LANEDONE reads what was written to it (R287). -/
theorem csrLanedone_readBack (old v : Word) : csrRead (csrWrite s 0x006 v) 0x006 = some (csrMixed 0x006 old v) := by
  rw [csrMixed_whole (by decide) (by decide)]
  show some (writeLanedone s v).core.regs.lanedone = some v
  unfold writeLanedone
  dsimp only
  split
  · rfl
  · rfl

/-- CYCLE reads what was written to it (R153). -/
theorem csrCycle_readBack (old v : Word) : csrRead (csrWrite s 0x020 v) 0x020 = some (csrMixed 0x020 old v) := by
  rw [csrMixed_whole (by decide) (by decide)]
  exact congrArg some (sub_sub_cancel (BitVec.ofNat 64 s.now) v)

/-- A bit of a field that stands above some low bits. -/
theorem testBit_field {a b i k : Nat} (hb : b < 2 ^ i) : (b + a * 2 ^ i).testBit k = if k < i then b.testBit k else a.testBit (k - i) := by
  rw [Nat.add_comm, Nat.mul_comm, Nat.testBit_two_pow_mul_add a hb]

/-- A bit of a flag. -/
theorem testBit_flag (b : Bool) (k : Nat) : (b.toNat).testBit k = (decide (k = 0) && b) := by
  cases b
  · simp
  · cases k with
    | zero => rfl
    | succ k => simp [Nat.testBit_succ]

/-- The bits of STATUS and of GSTATUS: a level, two flags, another flag, and fields above (R151, R194). -/
theorem packed_bit (p : BitVec 2) (a b c : Bool) (hi : Nat) {k : Nat} (hk : k < 64) :
    (BitVec.ofNat 64 (p.toNat + (if a then 4 else 0) + (if b then 8 else 0) + (if c then 16 else 0) + hi * 2 ^ 8)).getLsbD k =
      if k < 2 then p.getLsbD k else if k = 2 then a else if k = 3 then b else if k = 4 then c else decide (8 ≤ k) && hi.testBit (k - 8) := by
  have hp := p.isLt
  have he : p.toNat + (if a then 4 else 0) + (if b then 8 else 0) + (if c then 16 else 0) + hi * 2 ^ 8 =
      p.toNat + (a.toNat + (b.toNat + (c.toNat + (hi * 2 ^ 3) * 2 ^ 1) * 2 ^ 1) * 2 ^ 1) * 2 ^ 2 := by
    cases a <;> cases b <;> cases c <;> simp <;> omega
  rw [BitVec.getLsbD_ofNat, he, testBit_field hp, testBit_field (Bool.toNat_lt _), testBit_field (Bool.toNat_lt _),
    testBit_field (Bool.toNat_lt _), testBit_flag, testBit_flag, testBit_flag, Nat.testBit_mul_two_pow]
  rcases (by omega : k < 2 ∨ k = 2 ∨ k = 3 ∨ k = 4 ∨ 4 < k) with h | rfl | rfl | rfl | h
  · simp [h, hk]; rfl
  · simp
  · simp
  · simp
  · simp only [hk, show ¬k < 2 by omega, show ¬k = 2 by omega, show ¬k = 3 by omega, show ¬k = 4 by omega, show ¬k - 2 < 1 by omega,
      show ¬k - 2 - 1 < 1 by omega, show ¬k - 2 - 1 - 1 < 1 by omega, show k - 2 - 1 - 1 - 1 - 3 = k - 8 by omega,
      show 3 ≤ k - 2 - 1 - 1 - 1 ↔ 8 ≤ k by omega, decide_true, Bool.true_and, if_false]

/-- The bits of STATUS (R151). -/
theorem statusOf_bit (s : State) {k : Nat} (hk : k < 64) : (statusOf s).getLsbD k =
    if k < 2 then s.core.trap.plv.getLsbD k else if k = 2 then s.core.trap.ie else if k = 3 then s.core.trap.pie
    else if k = 4 then s.core.trap.inh
    else decide (8 ≤ k) && if k < 12 then s.core.trap.ien.getLsbD (k - 8) else (ipend s).getLsbD (k - 12) := by
  have he : statusOf s = BitVec.ofNat 64 (s.core.trap.plv.toNat + (if s.core.trap.ie then 4 else 0) + (if s.core.trap.pie then 8 else 0) +
      (if s.core.trap.inh then 16 else 0) + (s.core.trap.ien.toNat + (ipend s).toNat * 2 ^ 4) * 2 ^ 8) := by
    rw [Nat.add_mul, Nat.mul_assoc, ← Nat.add_assoc]
    rfl
  rw [he, packed_bit _ _ _ _ _ hk, testBit_field s.core.trap.ien.isLt, show k - 8 - 4 = k - 12 by omega]
  by_cases h8 : 8 ≤ k
  · simp only [show k - 8 < 4 ↔ k < 12 by omega]
    rfl
  · simp [h8]

/-- The bits of GSTATUS (R194). -/
theorem gstatusOf_bit (t : TrapRegs) {k : Nat} (hk : k < 64) : (gstatusOf t).getLsbD k =
    if k < 2 then t.gPlv.getLsbD k else if k = 2 then t.gAct else if k = 3 then t.gMpush
    else if k = 4 then false else decide (8 ≤ k) && t.gIndex.getLsbD (k - 8) :=
  packed_bit t.gPlv t.gAct t.gMpush false t.gIndex.toNat hk

/-- The bits of STATUS that software may write (R151). -/
theorem statusMask_bit {k : Nat} (hk : k < 64) : (csrMask 0x200).getLsbD k = (decide (k < 4) || (decide (8 ≤ k) && decide (k < 12))) := by
  revert k
  decide

/-- INH and IPEND, which a write of STATUS leaves (R151). -/
theorem statusKept_bit {k : Nat} (hk : k < 64) : (csrKept 0x200).getLsbD k = (decide (k = 4) || (decide (12 ≤ k) && decide (k < 16))) := by
  revert k
  decide

/-- The bits of GSTATUS that software may write (R194). -/
theorem gstatusMask_bit {k : Nat} (hk : k < 64) : (csrMask 0x100).getLsbD k = (decide (k < 4) || (decide (8 ≤ k) && decide (k < 16))) := by
  revert k
  decide

/-- STATUS reads back its fields, INH and IPEND as they were (R151). -/
theorem csrStatus_readBack (v : Word) : csrRead (csrWrite s 0x200 v) 0x200 = some (csrMixed 0x200 (statusOf s) v) := by
  refine congrArg some (BitVec.eq_of_getLsbD_eq fun k hk => ?_)
  show (statusOf (writeStatus s v)).getLsbD k = _
  rw [statusOf_bit _ hk, csrMixed, BitVec.getLsbD_or, BitVec.getLsbD_and, BitVec.getLsbD_and, statusMask_bit hk, statusKept_bit hk, statusOf_bit _ hk,
    show ipend (writeStatus s v) = ipend s from rfl]
  simp only [writeStatus, setTrap_core_trap, BitVec.getLsbD_extractLsb']
  generalize ipend s = ip
  grind

/-- GSTATUS reads back its fields (R194). -/
theorem csrGstatus_readBack (old v : Word) : csrRead (csrWrite s 0x100 v) 0x100 = some (csrMixed 0x100 old v) := by
  refine congrArg some (BitVec.eq_of_getLsbD_eq fun k hk => ?_)
  show (gstatusOf (writeGstatus s v).core.trap).getLsbD k = _
  rw [gstatusOf_bit _ hk, csrMixed_field rfl rfl, BitVec.getLsbD_and, gstatusMask_bit hk]
  simp only [writeGstatus, setTrap_core_trap, BitVec.getLsbD_extractLsb']
  grind

/-- STGV holds the stage bits of each level, eight for each (R185). -/
theorem stgv_bit (s : State) {n j : Nat} (hn : n < 6) (hj : j < 8) : (stgv s).getLsbD (8 * n + j) = (loopAt s n).stg.getLsbD j := by
  refine (foldl_or_bit (fun _ => true) (fun m => (loopAt s m).stg.setWidth 64 <<< (8 * m)) (8 * n + j) (List.range 6) 0).trans ?_
  have hbit (m : Nat) : ((loopAt s m).stg.setWidth 64 <<< (8 * m)).getLsbD (8 * n + j) = (decide (m = n) && (loopAt s n).stg.getLsbD j) := by
    rw [BitVec.getLsbD_shiftLeft, BitVec.getLsbD_setWidth]
    rcases Nat.lt_trichotomy m n with h | rfl | h
    · simp [Nat.ne_of_lt h, BitVec.getLsbD_of_ge (loopAt s m).stg (8 * n + j - 8 * m) (by omega)]
    · simp [show 8 * m + j < 64 by omega, show j < 64 by omega]
    · simp [(Nat.ne_of_lt h).symm, show 8 * n + j < 8 * m by omega]
  rw [Bool.eq_iff_iff]
  simp only [hbit, BitVec.ofNat_eq_ofNat, BitVec.getLsbD_zero, Bool.false_or, Bool.true_and, List.any_eq_true, List.mem_range,
    Bool.and_eq_true, decide_eq_true_eq]
  exact ⟨fun ⟨m, _, _, hb⟩ => hb, fun hb => ⟨n, hn, rfl, hb⟩⟩

/-- The stage bits that a write of STGV gives to an active level (R185). -/
def writtenStages (s : State) (v : Word) (n : Nat) : LoopLevel :=
  { loopAt s n with stg := v.extractLsb' (8 * n) 8 &&& BitVec.ofNat 8 (2 ^ (loopAt s n).stages - 1) }

/-- A write of STGV at one level (R185). -/
def writeStages (v : Word) (s : State) (n : Nat) : State := if (loopAt s n).act then writeLoop s n (writtenStages s v n) else s

/-- Writing the stages of a range of levels writes each active one of them, and no other (R185). -/
theorem writeStages_range (v : Word) (m : Nat) : ∀ N, N ≤ 6 → loopAt ((List.range N).foldl (writeStages v) s) m =
    if m < N ∧ (loopAt s m).act = true then writtenStages s v m else loopAt s m
  | 0, _ => by simp
  | N + 1, hN => by
    have ih (k : Nat) := writeStages_range v k N (Nat.le_of_succ_le hN)
    rw [List.range_succ, List.foldl_append, List.foldl_cons, List.foldl_nil]
    generalize (List.range N).foldl (writeStages v) s = u at ih
    have hN' : loopAt u N = loopAt s N := (ih N).trans (if_neg (by simp))
    by_cases hm : m = N
    · subst hm
      unfold writeStages
      rw [hN', writtenStages, hN']
      by_cases ha : (loopAt s m).act = true
      · rw [if_pos ha, if_pos ⟨Nat.lt_succ_self m, ha⟩, loopAt_writeLoop_same (Nat.lt_of_succ_le hN)]
        rfl
      · rw [if_neg ha, if_neg fun h => ha h.2, hN']
    · have ho : loopAt (writeStages v u N) m = loopAt u m := by
        unfold writeStages
        split
        · exact loopAt_writeLoop_other hm _
        · rfl
      rw [ho, ih]
      simp only [show m < N + 1 ↔ m < N by omega]

/-- STGV reads back the stage bits of the active levels; the others keep theirs (R185). -/
theorem csrStgv_readBack (s : State) (v : Word) {n j : Nat} (hn : n < 6) (hj : j < 8) :
    (stgv (csrWrite s 0x016 v)).getLsbD (8 * n + j) =
      if (loopAt s n).act then v.getLsbD (8 * n + j) && decide (j < (loopAt s n).stages) else (stgv s).getLsbD (8 * n + j) := by
  have hw : loopAt (writeStgv s v) n = if n < 6 ∧ (loopAt s n).act = true then writtenStages s v n else loopAt s n :=
    writeStages_range v n 6 le_rfl
  rw [show csrWrite s 0x016 v = writeStgv s v from rfl, stgv_bit _ hn hj, stgv_bit _ hn hj, hw]
  by_cases ha : (loopAt s n).act = true
  · rw [if_pos ⟨hn, ha⟩, if_pos ha, writtenStages, BitVec.getLsbD_and, BitVec.getLsbD_extractLsb', BitVec.getLsbD_ofNat,
      Nat.testBit_two_pow_sub_one]
    simp [hj]
  · rw [if_neg fun h => ha h.2, if_neg ha]

end

end Sys2Proof.Machine

section

open Sys2Proof Sys2Proof.Machine

/-- Settles O21, by the kinds of CSRs. -/
theorem csrReadBack : Obligations.CsrReadBack := by
  refine ⟨fun s c old v h hc => ?_, fun s v n j hn hj => csrStgv_readBack s v hn hj⟩
  rcases csr_kinds h with hk | hk | ⟨w, hk⟩ | ⟨w, hk⟩ | hk | rfl | rfl | rfl | rfl | rfl
  · obtain ⟨hr, hm⟩ := csrReadOnly_readBack (s := s) hk old v
    rw [hr, h]
    exact congrArg some hm.symm
  · exact csrWhole_readBack hk old v
  · exact csrFields_readBack hk old v
  · exact csrAligned_readBack hk old v
  · exact csrLoop_readBack hk old v
  · exact csrLanedone_readBack old v
  · exact absurd rfl hc
  · exact csrCycle_readBack old v
  · exact csrGstatus_readBack old v
  · obtain rfl : statusOf s = old := Option.some.inj h
    exact csrStatus_readBack v

end

namespace Sys2Proof.Machine

/-! ## CSR accesses (R147, R148, R149) -/

section
variable {s : State}

/-- An instruction whose own effect writes x(d) and falls through computes (R171). -/
theorem computes_of_settle {i : Instr} {d : Reg} {v : Word} (h : Ready s) (he : exec i s = .next (settle (fallThrough (writeX s d v)))) :
    Computes i s d v := by
  refine ⟨fallThrough (setX s d v), ?_, fallThrough_setX h d v⟩
  rw [he, writeX_idle h.1.1, settle_quiet]
  exact onlyPc_quiet (fallThrough_onlyPc (quiet_setX h.1 d v).1 (noLoopEnd_setX h.2 d v)) (quiet_setX h.1 d v)

/-- An instruction whose own effect is a trap takes it at its own PC (R156). -/
theorem traps_of_settle {i : Instr} {code : Nat} {v : Word} (h : Quiet s) (he : exec i s = .next (settle (raiseTrap s code v))) :
    TrapsWith i s code v := by
  unfold TrapsWith
  rw [he, raiseTrap_idle h.1]

/-- A CSR read on a quiet core acts at once, at a drain point or not (R149). -/
theorem csrReadOp_quiet (h : Quiet s) (w : Word) (d : Reg) (c : BitVec 13) :
    csrReadOp w d c s = .next (settle (csrAccess s w d c none)) := by
  unfold csrReadOp
  split
  · rw [drained_quiet h]
  · rw [strand_quiet h]

theorem exec_csrr (h : Quiet s) (d : Reg) (c : BitVec 13) :
    exec (.csrr d c) s = .next (settle (csrAccess s (ownWord (.csrr d c)) d c none)) := csrReadOp_quiet h _ d c

theorem exec_csrw (h : Quiet s) (d a : Reg) (c : BitVec 13) :
    exec (.csrw d a c) s = .next (settle (csrAccess s (ownWord (.csrw d a c)) d c (some fun _ => xr s a))) :=
  congrArg Host.Outcome.next (drained_quiet h _ _)

theorem exec_csrs (h : Quiet s) (d a : Reg) (c : BitVec 13) : exec (.csrs d a c) s =
    .next (settle (csrAccess s (ownWord (.csrs d a c)) d c (if a = 0 then none else some fun o => o ||| xr s a))) := by
  by_cases ha : a = 0
  · rw [if_pos ha]
    exact (if_pos ha).trans (csrReadOp_quiet h _ d c)
  · rw [if_neg ha]
    exact (if_neg ha).trans (congrArg Host.Outcome.next (drained_quiet h _ _))

theorem exec_csrc (h : Quiet s) (d a : Reg) (c : BitVec 13) : exec (.csrc d a c) s =
    .next (settle (csrAccess s (ownWord (.csrc d a c)) d c (if a = 0 then none else some fun o => o &&& ~~~xr s a))) := by
  by_cases ha : a = 0
  · rw [if_pos ha]
    exact (if_pos ha).trans (csrReadOp_quiet h _ d c)
  · rw [if_neg ha]
    exact (if_neg ha).trans (congrArg Host.Outcome.next (drained_quiet h _ _))

/-- What makes an access illegal (R147). -/
theorem csrBad_iff (c : BitVec 13) : csrBad s c = true ↔
    2 ^ 10 ≤ c.toNat ∨ csrRead s c.toNat = none ∨ s.core.regs.level.toNat < c.toNat / 2 ^ 8 % 4 := by
  have hhigh : (c.extractLsb' 10 3 != 0) = true ↔ 2 ^ 10 ≤ c.toNat := by
    have hc := c.isLt
    rw [bne_iff_ne, ne_eq, ← BitVec.toNat_inj, BitVec.extractLsb'_toNat, Nat.shiftRight_eq_div_pow]
    simp only [BitVec.ofNat_eq_ofNat, BitVec.toNat_ofNat]
    omega
  have hlevel : s.core.regs.level.ult (c.extractLsb' 8 2) = true ↔ s.core.regs.level.toNat < c.toNat / 2 ^ 8 % 4 := by
    rw [BitVec.ult, decide_eq_true_eq, BitVec.extractLsb'_toNat, Nat.shiftRight_eq_div_pow]
  unfold csrBad
  rw [Bool.or_eq_true, Bool.or_eq_true, hhigh, hlevel, Option.isNone_iff_eq_none, or_assoc]

/-- A legal access is no illegal one (R147). -/
theorem csrBad_of_legal {c : BitVec 13} {old : Word} (h : CsrLegal s c old) : csrBad s c = false := by
  obtain ⟨hc, hr, hl⟩ := h
  refine Bool.eq_false_iff.2 (mt (csrBad_iff c).1 ?_)
  rw [hr]
  rintro (hn | hn | hn)
  · omega
  · exact absurd hn nofun
  · omega

/-- An illegal access raises cause 2 with the instruction's own word, whatever it would write (R147). -/
theorem csrAccess_illegal {c : BitVec 13} (hb : csrBad s c = true) (w : Word) (d : Reg) (v : Option (Word → Word)) :
    csrAccess s w d c v = raiseTrap s 2 w := if_pos hb

/-- A legal read (R148). -/
theorem csrAccess_read {c : BitVec 13} {old : Word} (h : CsrLegal s c old) (w : Word) (d : Reg) :
    csrAccess s w d c none = fallThrough (writeX s d old) := by
  unfold csrAccess
  rw [if_neg (ne_true_of_eq_false (csrBad_of_legal h)), h.2.1]
  rfl

/-- A legal access that writes (R148). -/
theorem csrAccess_write {c : BitVec 13} {old : Word} (h : CsrLegal s c old) (w : Word) (d : Reg) {f : Word → Word} {v : Word}
    (hf : f old = v) (hm : modeAllows c v) :
    csrAccess s w d c (some f) = keepWritten c v (fallThrough (writeX (csrWrite s c.toNat v) d old)) := by
  subst hf
  have hmode : modeWriteBad c (f old) = false := by
    rw [modeWriteBad, Bool.and_eq_false_iff, beq_eq_false_iff_ne]
    exact or_iff_not_imp_left.2 fun hc => hm (not_not.1 hc)
  unfold csrAccess
  rw [if_neg (ne_true_of_eq_false (csrBad_of_legal h)), h.2.1]
  exact if_neg (ne_true_of_eq_false hmode)

/-- A write of an illegal mode word raises cause 2 (R147). -/
theorem csrAccess_badMode {old : Word} (h : CsrLegal s 0 old) (w : Word) (d : Reg) {f : Word → Word}
    (hm : modeIllegal ((f old).extractLsb' 0 18) = true) : csrAccess s w d 0 (some f) = raiseTrap s 2 w := by
  unfold csrAccess
  rw [if_neg (ne_true_of_eq_false (csrBad_of_legal h)), h.2.1]
  exact if_pos hm

/-- INSTRET takes a value (R153). -/
def instretWritten (s : State) (v : Word) : State := setRegs s { s.core.regs with instret := v }

/-- A write of INSTRET leaves a strand ready. -/
theorem instretWritten_ready (h : Ready s) (v : Word) : Ready (instretWritten s v) := ⟨h.1, noLoopEnd_congr h.2 rfl rfl rfl⟩

/-- What a legal write that falls through leaves (R148, log 29). -/
theorem csrWrites {i : Instr} {d : Reg} {c : BitVec 13} {old v w : Word} {f : Word → Word} (h : Ready s) (hl : CsrLegal s c old)
    (he : exec i s = .next (settle (csrAccess s w d c (some f)))) (hf : f old = v) (hm : modeAllows c v) :
    (c ≠ 0x021 → Goes i s (writeX (csrWrite s c.toNat v) d old)) ∧
    (c = 0x021 → ∃ t, exec i s = .next t ∧ WroteX s t d old ∧ t.core.regs.pc = s.core.regs.pc + 4 ∧ t.core.regs.instret = v ∧ OnlyX s t) := by
  rw [csrAccess_write hl w d hf hm] at he
  refine ⟨fun hc => ?_, fun hc => ?_⟩
  · unfold Goes
    rw [he, keepWritten, if_neg hc]
  · subst hc
    have hk : keepWritten 0x021 v (fallThrough (writeX (csrWrite s (0x021 : BitVec 13).toNat v) d old)) =
      setRegs (fallThrough (setX (instretWritten s v) d old))
        { (fallThrough (setX (instretWritten s v) d old)).core.regs with instret := v } := by
      rw [show csrWrite s (0x021 : BitVec 13).toNat v = instretWritten s v from rfl, writeX_idle (instretWritten_ready h v).1.1]
      exact if_pos rfl
    obtain ⟨⟨hsame, hother⟩, ⟨hpc, -⟩, honly⟩ := fallThrough_setX (instretWritten_ready h v) d old
    refine ⟨setRegs (fallThrough (setX (instretWritten s v) d old))
        { (fallThrough (setX (instretWritten s v) d old)).core.regs with instret := v },
      he.trans (congrArg Host.Outcome.next ?_), ⟨hsame, hother⟩, hpc, rfl, ?_⟩
    · rw [hk, settle_quiet]
      unfold OnlyX at honly
      rw [honly]
      exact h.1
    · unfold OnlyX at honly ⊢
      rw [honly]
      rfl

end

end Sys2Proof.Machine

section

open Sys2Proof Sys2Proof.Machine

/-- Settles O20: each form is one access of the CSR, which is illegal, reads, or writes. -/
theorem csrAccess : Obligations.CsrAccess := by
  intro s d a c old h x writes
  refine ⟨fun hl => ⟨?_, fun hm => ?_, fun ha hm => ?_, fun ha hm => ?_, fun ha => ⟨?_, ?_⟩, fun hc hm => ?_⟩, fun hbad => ?_⟩
  · exact computes_of_settle h ((exec_csrr h.1 d c).trans (by rw [csrAccess_read hl]))
  · exact csrWrites h hl (exec_csrw h.1 d a c) rfl hm
  · have he := exec_csrs h.1 d a c
    rw [if_neg ha] at he
    exact csrWrites h hl he rfl hm
  · have he := exec_csrc h.1 d a c
    rw [if_neg ha] at he
    exact csrWrites h hl he rfl hm
  · exact computes_of_settle h ((exec_csrs h.1 d a c).trans (by rw [if_pos ha, csrAccess_read hl]))
  · exact computes_of_settle h ((exec_csrc h.1 d a c).trans (by rw [if_pos ha, csrAccess_read hl]))
  · subst hc
    have he := exec_csrw h.1 d a 0
    rw [csrAccess_badMode (f := fun _ => xr s a) hl _ _ hm] at he
    exact traps_of_settle h.1 he
  · have hb := (csrBad_iff c).2 hbad
    exact ⟨traps_of_settle h.1 ((exec_csrr h.1 d c).trans (by rw [csrAccess_illegal hb])),
      traps_of_settle h.1 ((exec_csrw h.1 d a c).trans (by rw [csrAccess_illegal hb])),
      traps_of_settle h.1 ((exec_csrs h.1 d a c).trans (by rw [csrAccess_illegal hb])),
      traps_of_settle h.1 ((exec_csrc h.1 d a c).trans (by rw [csrAccess_illegal hb]))⟩

end

namespace Sys2Proof.Machine

/-! ## What acts outside the cores keep

Most acts of memory, of the pages, of the dispatcher and of the service leave the cores, time and the pace as they are, and write memory
only in ways that keep its canonical form. A predicate that depends on no more than that is kept by each of them. -/

/-- t differs from s outside the cores, time and the pace alone, and its memory is canonical where that of s is. -/
structure Aside (s t : State) : Prop where
  core : t.core = s.core
  others : t.others = s.others
  now : t.now = s.now
  pace : t.pace = s.pace
  canonical : Memory.wf s.mem = true → Memory.wf t.mem = true

/-- t differs from s in memory, its cached copies, the translations and the counts of these alone: in what a read, a write or a release can
change. -/
structure Near (s t : State) : Prop where
  aside : Aside s t
  clusters : t.clusters = s.clusters
  folds : t.folds = s.folds
  parked : t.parked = s.parked
  locks : t.locks = s.locks

/-- A predicate that every such act keeps. -/
structure KeptNear (P : State → Prop) : Prop where
  of : ∀ {s t}, P s → Near s t → P t

/-- A predicate that every act outside the cores keeps. -/
structure KeptAside (P : State → Prop) : Prop where
  of : ∀ {s t}, P s → Aside s t → P t

/-- What every act outside the cores keeps, a read, a write or a release keeps. -/
theorem KeptAside.near {P : State → Prop} (hP : KeptAside P) : KeptNear P := ⟨fun h a => hP.of h a.aside⟩

section
variable {P : State → Prop} (hP : KeptNear P) {s : State}
include hP

theorem KeptNear.dies {v} (h : P s) : P { s with dies := v } := hP.of h ⟨⟨rfl, rfl, rfl, rfl, id⟩, rfl, rfl, rfl, rfl⟩
theorem KeptNear.svc {v} (h : P s) : P { s with svc := v } := hP.of h ⟨⟨rfl, rfl, rfl, rfl, id⟩, rfl, rfl, rfl, rfl⟩
theorem KeptNear.tlb {v} (h : P s) : P { s with tlb := v } := hP.of h ⟨⟨rfl, rfl, rfl, rfl, id⟩, rfl, rfl, rfl, rfl⟩
theorem KeptNear.grants {v} (h : P s) : P { s with grants := v } := hP.of h ⟨⟨rfl, rfl, rfl, rfl, id⟩, rfl, rfl, rfl, rfl⟩
theorem KeptNear.hostRead {v} (h : P s) : P { s with hostRead := v } := hP.of h ⟨⟨rfl, rfl, rfl, rfl, id⟩, rfl, rfl, rfl, rfl⟩

end

section
variable {P : State → Prop} (hP : KeptAside P) {s : State}
include hP

theorem KeptAside.dies {v} (h : P s) : P { s with dies := v } := hP.of h ⟨rfl, rfl, rfl, rfl, id⟩
theorem KeptAside.svc {v} (h : P s) : P { s with svc := v } := hP.of h ⟨rfl, rfl, rfl, rfl, id⟩
theorem KeptAside.tlb {v} (h : P s) : P { s with tlb := v } := hP.of h ⟨rfl, rfl, rfl, rfl, id⟩
theorem KeptAside.grants {v} (h : P s) : P { s with grants := v } := hP.of h ⟨rfl, rfl, rfl, rfl, id⟩
theorem KeptAside.hostRead {v} (h : P s) : P { s with hostRead := v } := hP.of h ⟨rfl, rfl, rfl, rfl, id⟩

end

/-- The canonical form of memory is such a predicate. -/
theorem canonKept : KeptAside MemoryCanonical := ⟨fun h a => a.canonical h⟩

/-- To have a given core in focus is one. -/
theorem coreKept (c : Core) : KeptAside fun s => s.core = c := ⟨fun h a => a.core.trans h⟩

/-! ### Predicates of answers -/

section
variable (P : State → Prop)

/-- The state of an answer that has one has P. -/
def InOption : Option State → Prop
  | some t => P t
  | none => True

/-- The state of an answer with a value that has one has P. -/
def InOptionFst {α : Type} : Option (State × α) → Prop
  | some r => P r.1
  | none => True

/-- A next state has P. -/
def InResult : Result → Prop
  | .next t => P t
  | _ => True

def RunRes.All : RunRes → Prop
  | .done t => P t
  | .trap t _ _ => P t
  | .blocked t => P t

def DrainRes.All : DrainRes → Prop
  | .clear t => P t
  | .trapped t => P t
  | .blocked t => P t

def SvRes.All : SvRes → Prop
  | .ok t _ => P t
  | .trap t _ => P t
  | .wait t => P t

def LoadRes.All : LoadRes → Prop
  | .ok t _ => P t
  | .trap t _ => P t
  | .wait t => P t

def JoinRes.All : JoinRes → Prop
  | .done t => P t
  | .ran t => P t
  | .wait t => P t

def GateRes.All : GateRes → Prop
  | .ok t _ _ => P t
  | .bad t => P t
  | .wait t => P t

def ElemRes.All : ElemRes → Prop
  | .ok t _ => P t
  | .stop t _ _ => P t
  | .wait t => P t

def HeadRes.All : HeadRes → Prop
  | .usable t _ => P t
  | .unusable t _ => P t
  | .unreadable => True

def Fetched.All : Fetched → Prop
  | .word t _ => P t
  | .fault t _ => P t
  | .wait t => P t

def Next.All : Next → Prop
  | .run _ t => P t
  | .illegal _ t => P t
  | .done r => InResult P r

def Plan.All : Plan → Prop
  | .input _ t => P t
  | .done t => P t
  | .issue t => P t

def Placing.All : Placing → Prop
  | .ends t _ => P t
  | .frame t _ _ _ => P t

def Served.All : Served → Prop
  | .refused _ => True
  | .ok t _ => P t
  | .started t => P t

def InOptionPlan : Option Plan → Prop
  | some p => p.All P
  | none => True

end

section
variable {P : State → Prop} {α β : Type}

/-- What holds of a value holds of what it is equal to. -/
theorem of_eq {γ : Type} (Q : γ → Prop) {x y : γ} (h : x = y) (hx : Q x) : Q y := h ▸ hx

theorem foldl_keeps {f : State → α → State} {l : List α} {s : State} (hf : ∀ u a, P u → P (f u a)) (h : P s) : P (l.foldl f s) := by
  induction l generalizing s with
  | nil => exact h
  | cons a t ih => exact ih (hf s a h)

theorem foldl_fst_keeps {f : State × β → α → State × β} {l : List α} {r : State × β} (hf : ∀ u a, P u.1 → P (f u a).1) (h : P r.1) :
    P (l.foldl f r).1 := by
  induction l generalizing r with
  | nil => exact h
  | cons a t ih => exact ih (hf r a h)

theorem inOption_bind {o : Option α} {f : α → Option State} (hf : ∀ a, InOption P (f a)) : InOption P (o.bind f) := by
  cases o with
  | none => trivial
  | some a => exact hf a

theorem inOption_map {o : Option α} {f : α → State} (hf : ∀ a, P (f a)) : InOption P (o.map f) := by
  cases o with
  | none => trivial
  | some a => exact hf a

theorem inOptionFst_map {o : Option α} {f : α → State × β} (hf : ∀ a, P (f a).1) : InOptionFst P (o.map f) := by
  cases o with
  | none => trivial
  | some a => exact hf a

theorem inOption_mapFst {o : Option (State × β)} (h : InOptionFst P o) : InOption P (o.map (·.1)) := by
  cases o with
  | none => trivial
  | some r => exact h

theorem inOption_findSome {l : List α} {f : α → Option State} (hf : ∀ a, InOption P (f a)) : InOption P (l.findSome? f) := by
  induction l with
  | nil => trivial
  | cons a t ih =>
    rw [List.findSome?_cons]
    split
    · rename_i t ht
      exact of_eq (InOption P) ht (hf a)
    · exact ih

theorem inOptionPlan_findSome {l : List α} {f : α → Option Plan} (hf : ∀ a, InOptionPlan P (f a)) : InOptionPlan P (l.findSome? f) := by
  induction l with
  | nil => trivial
  | cons a t ih =>
    rw [List.findSome?_cons]
    split
    · rename_i t ht
      exact of_eq (InOptionPlan P) ht (hf a)
    · exact ih

theorem inOption_getD {o : Option State} {s : State} (ho : InOption P o) (h : P s) : P (o.getD s) := by
  cases o with
  | none => exact h
  | some t => exact ho

theorem drainRes_state {r : DrainRes} (h : r.All P) : P r.state := by
  cases r with
  | clear t => exact h
  | trapped t => exact h
  | blocked t => exact h

theorem firstOf_nil {s : State} : InOption P (firstOf s []) := trivial

theorem firstOf_cons {s : State} {f : State → Option State} {l : List (State → Option State)} (hf : InOption P (f s))
    (hl : InOption P (firstOf s l)) : InOption P (firstOf s (f :: l)) := by
  unfold firstOf
  split
  · rename_i t ht
    exact of_eq (InOption P) ht hf
  · exact hl

end
section
variable {P : State → Prop} (hP : KeptNear P) {s : State}
include hP

/-! ### Regs -/

theorem setLaunch_keeps {l} (h : P s) : P (setLaunch s l) :=
  hP.of h ⟨⟨rfl, rfl, rfl, rfl, id⟩, rfl, rfl, rfl, rfl⟩

/-! ### Ops -/

theorem reportFault_keeps {lid code v pc} (h : P s) : P (reportFault s lid code v pc) := by
  unfold reportFault
  dsimp only
  split
  · exact h
  · exact setLaunch_keeps hP h

/-! ### Coherence -/

theorem putWord_keeps {w} (h : P s) : P (putWord s w) :=
  hP.of h ⟨⟨rfl, rfl, rfl, rfl, id⟩, rfl, rfl, rfl, rfl⟩

theorem forward_keeps {l key o} (h : P s) : P (forward s l key o) := by
  unfold forward
  split
  · exact putWord_keeps hP h
  · exact h

theorem refresh_keeps {l key} (h : P s) : P (refresh s l key) := by
  unfold refresh
  dsimp only
  split
  · exact h
  · split
    · exact foldl_keeps (fun _ _ hu => forward_keeps hP hu) h
    · exact h

theorem supply_keeps {l key} (h : P s) : InOptionFst P (supply s l key) := by
  unfold supply
  dsimp only
  split
  · exact refresh_keeps hP h
  · split
    · exact h
    · exact trivial

theorem hitWhere_keeps {p} (h : P s) : P (hitWhere s p) :=
  hP.of h ⟨⟨rfl, rfl, rfl, rfl, id⟩, rfl, rfl, rfl, rfl⟩

theorem hitSlice_keeps {key} (h : P s) : P (hitSlice s key) :=
  hitWhere_keeps hP h

theorem homeRead4_keeps {key} (h : P s) : P (homeRead4 s key).1 := by
  unfold homeRead4
  split
  · rename_i t0 ht
    have ht0 : P (t0).1 := of_eq (InOptionFst P) ht (supply_keeps hP (hitSlice_keeps hP h))
    exact ht0
  · exact h

theorem homeRead8_keeps {key} (h : P s) : P (homeRead8 s key).1 :=
  homeRead4_keeps hP (homeRead4_keeps hP h)

/-! ### Translate -/

theorem walkFrom_keeps {fold va y3 y4} (h : P s) : P (walkFrom s fold va y3 y4).1 := by
  induction y3 generalizing s fold va y4 with
  | nil => exact h
  | cons a l ih =>
    unfold walkFrom
    dsimp only
    split
    · exact homeRead8_keeps hP h
    · split
      · exact homeRead8_keeps hP h
      · split
        · split
          · exact homeRead8_keeps hP h
          · exact ih (homeRead8_keeps hP h)
        · split
          · exact homeRead8_keeps hP h
          · split
            · exact homeRead8_keeps hP h
            · split
              · exact homeRead8_keeps hP h
              · exact homeRead8_keeps hP h

theorem walk_keeps {fold root va} (h : P s) : P (walk s fold root va).1 :=
  walkFrom_keeps hP h

/-! ### Frames -/

theorem frameRead_keeps {vf va} (h : P s) : P (frameRead s vf va).1 := by
  unfold frameRead
  split
  · exact h
  · split
    · exact h
    · exact homeRead8_keeps hP h

theorem frameState_keeps {vf w2} (h : P s) : P (frameState s vf w2).1 :=
  frameRead_keeps hP h

/-! ### Mem -/

theorem clearPoison_keeps {k} (h : P s) : P (clearPoison s k) :=
  hP.of h ⟨⟨rfl, rfl, rfl, rfl, id⟩, rfl, rfl, rfl, rfl⟩

omit hP in
/-- A write of bytes changes memory and its marks alone. -/
theorem pokeLe_near (s : State) (k n v : Nat) : Near s (pokeLe s k n v) := by
  unfold pokeLe
  split
  · split
    · exact ⟨⟨rfl, rfl, rfl, rfl, Memory.setLe_wf k n v⟩, rfl, rfl, rfl, rfl⟩
    · exact ⟨⟨rfl, rfl, rfl, rfl, Memory.setLe_wf k n v⟩, rfl, rfl, rfl, rfl⟩
  · split
    · split
      · exact ⟨⟨rfl, rfl, rfl, rfl, Memory.setLe_wf k n v⟩, rfl, rfl, rfl, rfl⟩
      · exact ⟨⟨rfl, rfl, rfl, rfl, Memory.setLe_wf k n v⟩, rfl, rfl, rfl, rfl⟩
    · exact ⟨⟨rfl, rfl, rfl, rfl, Memory.setLe_wf k n v⟩, rfl, rfl, rfl, rfl⟩

theorem pokeLe_keeps {k n v} (h : P s) : P (pokeLe s k n v) := hP.of h (pokeLe_near s k n v)

/-! ### Coherence -/

theorem dropWord_keeps {l key} (h : P s) : P (dropWord s l key) :=
  hP.of h ⟨⟨rfl, rfl, rfl, rfl, id⟩, rfl, rfl, rfl, rfl⟩

/-! ### Mem -/

theorem markPoison_keeps {k} (h : P s) : P (markPoison s k) :=
  hP.of h ⟨⟨rfl, rfl, rfl, rfl, id⟩, rfl, rfl, rfl, rfl⟩

/-! ### Coherence -/

theorem setHomeWord_keeps {key v poison} (h : P s) : P (setHomeWord s key v poison) := by
  unfold setHomeWord
  dsimp only
  split
  · exact markPoison_keeps hP (pokeLe_keeps hP (dropWord_keeps hP h))
  · exact pokeLe_keeps hP (dropWord_keeps hP h)

theorem meshRequest_keeps {fold kind die home key} (h : P s) : P (meshRequest s fold kind die home key) := by
  unfold meshRequest
  dsimp only
  split
  · exact hP.of h ⟨⟨rfl, rfl, rfl, rfl, id⟩, rfl, rfl, rfl, rfl⟩
  · exact h

theorem sendHome_keeps {die key t} (h : P s) : P (sendHome s die key t) := by
  unfold sendHome
  split
  · exact meshRequest_keeps hP h
  · exact h

theorem setDie_keeps {d} (h : P s) : P (setDie s d) :=
  hP.of h ⟨⟨rfl, rfl, rfl, rfl, id⟩, rfl, rfl, rfl, rfl⟩

theorem countHome_keeps {die key t} (h : P s) : P (countHome s die key t) := by
  unfold countHome
  dsimp only
  split
  · split
    · exact setDie_keeps hP (sendHome_keeps hP h)
    · exact setDie_keeps hP (sendHome_keeps hP h)
  · exact h

theorem countWriteBacks_keeps (h : P s) : P (countWriteBacks s) :=
  foldl_keeps (fun _ _ hu => countHome_keeps hP hu) (hP.of h ⟨⟨rfl, rfl, rfl, rfl, id⟩, rfl, rfl, rfl, rfl⟩)

theorem dropOwner_keeps {key o} (h : P s) : P (dropOwner s key o) := by
  unfold dropOwner
  dsimp only
  split
  · exact putWord_keeps hP (foldl_keeps (fun _ _ hu => dropWord_keeps hP hu) h)
  · exact foldl_keeps (fun _ _ hu => dropWord_keeps hP hu) h

theorem noteWriteBack_keeps {die key t} (h : P s) : P (noteWriteBack s die key t) := by
  unfold noteWriteBack
  split
  · exact h
  · exact hP.of h ⟨⟨rfl, rfl, rfl, rfl, id⟩, rfl, rfl, rfl, rfl⟩

theorem revokeHomeWord_keeps {key} (h : P s) : P (revokeHomeWord s key) := by
  unfold revokeHomeWord
  dsimp only
  split
  · exact h
  · exact noteWriteBack_keeps hP (setHomeWord_keeps hP (dropOwner_keeps hP h))

theorem revokeHome_keeps {key} (h : P s) : P (revokeHome s key) := by
  unfold revokeHome
  dsimp only
  split
  · exact revokeHomeWord_keeps hP (revokeHomeWord_keeps hP h)
  · exact revokeHomeWord_keeps hP h

theorem writeDie_keeps {n key t v poison} (h : P s) : P (writeDie s n key t v poison) := by
  unfold writeDie
  dsimp only
  split
  · exact noteWriteBack_keeps hP (putWord_keeps hP (setHomeWord_keeps hP (revokeHome_keeps hP h)))
  · exact putWord_keeps hP h

theorem revokeWord_keeps {key o} (h : P s) : P (revokeWord s key o) := by
  unfold revokeWord
  dsimp only
  split
  · exact h
  · split
    · exact noteWriteBack_keeps hP (setHomeWord_keeps hP (dropOwner_keeps hP h))
    · exact writeDie_keeps hP (dropOwner_keeps hP h)
    · exact putWord_keeps hP (dropOwner_keeps hP h)

theorem revokePair_keeps {key o} (h : P s) : P (revokePair s key o) :=
  revokeWord_keeps hP (revokeWord_keeps hP h)

theorem revokeOther_keeps {l key keep} (h : P s) : P (revokeOther s l key keep) := by
  unfold revokeOther
  split
  · split
    · exact h
    · exact revokePair_keeps hP h
  · exact h

theorem revokeAt_keeps {l key keep} (h : P s) : P (revokeAt s l key keep) :=
  countWriteBacks_keeps hP (revokeOther_keeps hP h)

theorem homeWrite4_keeps {key v} (h : P s) : P (homeWrite4 s key v) :=
  setHomeWord_keeps hP (revokeAt_keeps hP (hitSlice_keeps hP h))

theorem homeWriteWords_keeps {key y2 y3} (h : P s) : P (homeWriteWords s key y2 y3) := by
  induction y2 generalizing s key y3 with
  | zero => exact h
  | succ n ih => exact ih (homeWrite4_keeps hP h)

/-! ### Frames -/

theorem frameWrite_keeps {vf va v} (h : P s) : P (frameWrite s vf va v) := by
  unfold frameWrite
  split
  · exact h
  · split
    · exact pokeLe_keeps hP h
    · exact homeWriteWords_keeps hP h

/-! ### Ops -/

theorem setKill_keeps {vf w2} (h : P s) : P (setKill s vf w2) :=
  frameWrite_keeps hP (frameState_keeps hP h)

theorem markCluster_keeps {l c} (h : P s) : P (markCluster s l c) := by
  unfold markCluster
  dsimp only
  refine foldl_keeps (fun _ _ hu => setKill_keeps hP hu) ?_
  split
  · exact setKill_keeps hP h
  · exact h

/-! ### Translate -/

theorem peerRequest_keeps {die fold key pte} (h : P s) : P (peerRequest s die fold key pte) := by
  unfold peerRequest
  split
  · exact meshRequest_keeps hP h
  · exact h

/-! ### Coherence -/

theorem hitLine_keeps {c line} (h : P s) : P (hitLine s c line) :=
  hitWhere_keeps hP h

theorem takeWay_keeps {evict c line w fill} (hevict : ∀ u0 a1, P u0 → P (evict u0 a1)) (h : P s) : P (takeWay evict s c line w fill) := by
  unfold takeWay
  dsimp only
  split
  · split
    · exact hP.of h ⟨⟨rfl, rfl, rfl, rfl, id⟩, rfl, rfl, rfl, rfl⟩
    · exact hitLine_keeps hP h
  · split
    · exact hP.of h ⟨⟨rfl, rfl, rfl, rfl, id⟩, rfl, rfl, rfl, rfl⟩
    · split
      · exact h
      · exact hevict _ _ (hP.of h ⟨⟨rfl, rfl, rfl, rfl, id⟩, rfl, rfl, rfl, rfl⟩)

theorem evictSlice_keeps {line} (h : P s) : P (evictSlice s line) :=
  foldl_keeps (fun _ _ hu => revokeHome_keeps hP hu) h

theorem useSlice_keeps {key t record} (h : P s) : P (useSlice s key t record) := by
  unfold useSlice
  split
  · exact h
  · split
    · exact hitLine_keeps hP h
    · split
      · exact h
      · exact takeWay_keeps hP (fun _ _ hv0 => evictSlice_keeps hP hv0) h

theorem storeHome_keeps {key t v poison} (h : P s) : P (storeHome s key t v poison) :=
  setHomeWord_keeps hP (revokeHome_keeps hP (useSlice_keeps hP h))

theorem evictDie_keeps {n line} (h : P s) : P (evictDie n s line) := by
  unfold evictDie
  dsimp only
  refine foldl_keeps (fun _ _ hu => ?_) (foldl_keeps (fun _ _ hu => revokeOther_keeps hP hu) h)
  refine dropWord_keeps hP ?_
  split
  · exact noteWriteBack_keeps hP (storeHome_keeps hP hu)
  · exact hu

theorem takeDie_keeps {n key t fill} (h : P s) : P (takeDie s n key t fill) :=
  takeWay_keeps hP (fun _ _ hv0 => evictDie_keeps hP hv0) h

theorem evictCluster_keeps {c line} (h : P s) : P (evictCluster s c line) := by
  unfold evictCluster
  dsimp only
  refine foldl_keeps (fun _ _ hu => ?_) (foldl_keeps (fun _ _ hu => revokeOther_keeps hP hu) h)
  refine dropWord_keeps hP ?_
  split
  · exact writeDie_keeps hP (revokeOther_keeps hP (takeDie_keeps hP hu))
  · exact hu

theorem takeCluster_keeps {c key fill} (h : P s) : P (takeCluster s c key fill) :=
  takeWay_keeps hP (fun _ _ hv0 => evictCluster_keeps hP hv0) h

theorem makeRoom_keeps {l key t} (h : P s) : P (makeRoom s l key t) := by
  unfold makeRoom
  split
  · exact useSlice_keeps hP h
  · exact takeDie_keeps hP h
  · exact takeCluster_keeps hP h
  · exact h

theorem writeHome_keeps {p w} (h : P s) : P (writeHome s p w) := by
  unfold writeHome
  dsimp only
  refine noteWriteBack_keeps hP ?_
  refine storeHome_keeps hP ?_
  refine foldl_keeps (fun _ _ hu => ?_) (foldl_keeps (fun _ _ hu => dropWord_keeps hP hu) h)
  split
  · exact putWord_keeps hP (makeRoom_keeps hP (revokeOther_keeps hP hu))
  · exact dropWord_keeps hP (revokeOther_keeps hP hu)

theorem clearBelow_keeps {p l key} (h : P s) : P (clearBelow s p l key) := by
  unfold clearBelow
  dsimp only
  refine countWriteBacks_keeps hP ?_
  refine foldl_keeps (fun _ _ hu => ?_) h
  refine foldl_keeps (fun _ _ hu => ?_) ?_
  · split
    · split
      · exact dropWord_keeps hP hu
      · exact hu
    · exact hu
  · refine dropWord_keeps hP ?_
    split
    · split
      · exact writeHome_keeps hP hu
      · exact hu
    · exact hu

theorem hitAt_keeps {l key attr} (h : P s) : P (hitAt s l key attr) := by
  unfold hitAt
  split
  · exact useSlice_keeps hP h
  · exact hitLine_keeps hP h
  · exact hitLine_keeps hP h
  · exact h

theorem roomForLine_keeps {top lower key attr} (h : P s) : P (roomForLine s top lower key attr) := by
  unfold roomForLine
  refine foldl_keeps (fun _ _ hu => ?_) (hitAt_keeps hP h)
  split
  · split
    · exact takeDie_keeps hP hu
    · exact hu
  · exact takeCluster_keeps hP hu
  · exact hu

theorem dropStale_keeps {l key cur} (h : P s) : P (dropStale s l key cur) := by
  unfold dropStale
  split
  · exact h
  · split
    · split
      · exact dropWord_keeps hP h
      · exact h
    · exact h

theorem passWord_keeps {l key attr cur} (h : P s) : P (passWord s l key attr cur).1 := by
  unfold passWord
  split
  · rename_i r _ hr
    exact of_eq (InOptionFst P) hr (supply_keeps hP h)
  · split
    · exact putWord_keeps hP h
    · exact h
  · exact h

theorem bringPair_keeps {lo attr a b y5} (h : P s) : P (bringPair s lo attr a b y5) := by
  induction y5 generalizing s lo attr a b with
  | nil => exact h
  | cons a l ih => exact ih (passWord_keeps hP (passWord_keeps hP (dropStale_keeps hP (dropStale_keeps hP h))))

theorem recordAt_keeps {key attr o v y5} (h : P s) : P (recordAt s key attr o v y5) := by
  induction y5 generalizing s key attr o v with
  | nil => exact h
  | cons a l ih => exact ih (putWord_keeps hP (makeRoom_keeps hP (revokeOther_keeps hP h)))

theorem register_keeps {p key sc} (h : P s) : P (register s p key sc) := by
  unfold register
  dsimp only
  split
  · exact h
  · exact putWord_keeps hP (recordAt_keeps hP h)

theorem evictL1Line_keeps {p line} (h : P s) : P (evictL1Line s p line) := by
  unfold evictL1Line
  dsimp only
  refine countWriteBacks_keeps hP ?_
  refine foldl_keeps (fun _ _ hu => dropWord_keeps hP (revokePair_keeps hP hu)) ?_
  refine foldl_keeps (fun _ _ hu => ?_) h
  split
  · exact register_keeps hP hu
  · exact hu

theorem trimL1_keeps {p} (h : P s) : P (trimL1 s p) := by
  unfold trimL1
  dsimp only
  split
  · exact h
  · split
    · exact h
    · exact evictL1Line_keeps hP h

theorem fillLine_keeps {p levels key attr count} (h : P s) : P (fillLine s p levels key attr count) := by
  unfold fillLine
  dsimp only
  refine countWriteBacks_keeps hP ?_
  refine foldl_keeps (fun _ _ hu => ?_) ?_
  · split
    · exact trimL1_keeps hP hu
    · exact hu
  · split
    · exact foldl_keeps (fun _ _ hu => bringPair_keeps hP hu) (roomForLine_keeps hP h)
    · split
      · exact countHome_keeps hP (foldl_keeps (fun _ _ hu => bringPair_keeps hP hu) (roomForLine_keeps hP h))
      · exact sendHome_keeps hP (foldl_keeps (fun _ _ hu => bringPair_keeps hP hu) (roomForLine_keeps hP h))

theorem findSupply_keeps {key y2} (h : P s) : P (findSupply s key y2).1 := by
  induction y2 generalizing s key with
  | nil => exact h
  | cons a l ih =>
    unfold findSupply
    split
    · rename_i t0 ht
      have ht0 : P (t0).1 := of_eq (InOptionFst P) ht (supply_keeps hP h)
      exact ht0
    · exact ih h

theorem readWords_keeps {p levels ks attr} (h : P s) : P (readWords s p levels ks attr).1 := by
  unfold readWords
  dsimp only
  refine foldl_fst_keeps (fun _ _ hu => findSupply_keeps hP hu) ?_
  split
  · exact fillLine_keeps hP h
  · exact hitAt_keeps hP h
  · exact h

theorem dropLone_keeps {key ls} (h : P s) : P (dropLone s key ls) := by
  induction ls generalizing s with
  | nil => exact h
  | cons l t ih =>
    unfold dropLone
    split
    · exact h
    · exact h
    · rename_i hl
      obtain ⟨rfl, rfl⟩ := List.cons.inj hl
      split
      · exact h
      · refine ih ?_
        split
        · exact dropWord_keeps hP h
        · exact h
      · refine ih ?_
        split
        · exact dropWord_keeps hP h
        · exact h
      · exact ih h

theorem levelRead8_keeps {p l key attr} (h : P s) : P (levelRead8 s p l key attr).1 :=
  readWords_keeps hP (dropLone_keeps hP (countWriteBacks_keeps hP (revokeOther_keeps hP (revokeOther_keeps hP h))))

theorem placeHeld_keeps {l key attr v poison} (h : P s) : P (placeHeld s l key attr v poison) := by
  unfold placeHeld
  split
  · exact setHomeWord_keeps hP (useSlice_keeps hP h)
  · exact writeDie_keeps hP (takeDie_keeps hP h)
  · exact putWord_keeps hP (takeCluster_keeps hP h)
  · exact putWord_keeps hP h

theorem levelWrite8_keeps {l key attr v} (h : P s) : P (levelWrite8 s l key attr v) :=
  countWriteBacks_keeps hP (placeHeld_keeps hP (placeHeld_keeps hP h))

/-! ### Frames -/

theorem foldAtLoc_keeps {l op v} (h : P s) : P (foldAtLoc s l op v) := by
  unfold foldAtLoc
  dsimp only
  split
  · exact pokeLe_keeps hP h
  · exact homeWriteWords_keeps hP (homeRead8_keeps hP (peerRequest_keeps hP h))
  · exact countHome_keeps hP (levelWrite8_keeps hP (levelRead8_keeps hP (clearBelow_keeps hP h)))

/-! ### Coherence -/

theorem staleCopies_keeps {p m ls} (h : P s) : P (staleCopies s p m ls) :=
  hP.of h ⟨⟨rfl, rfl, rfl, rfl, id⟩, rfl, rfl, rfl, rfl⟩

theorem promote_keeps {sc target path k key} (h : P s) : P (promote s sc target path k key) := by
  unfold promote
  dsimp only
  split
  · exact h
  · split
    · split
      · split
        · exact putWord_keeps hP (recordAt_keeps hP h)
        · exact recordAt_keeps hP h
      · exact recordAt_keeps hP h
    · refine iteInduction (motive := P) (fun _ => ?_) (fun _ => ?_)
      · refine putWord_keeps hP ?_
        refine foldl_keeps (fun _ _ hu => ?_) h
        split
        · exact placeHeld_keeps hP (revokeOther_keeps hP hu)
        · exact putWord_keeps hP (makeRoom_keeps hP (revokeOther_keeps hP hu))
      · refine foldl_keeps (fun _ _ hu => ?_) h
        split
        · exact placeHeld_keeps hP (revokeOther_keeps hP hu)
        · exact putWord_keeps hP (makeRoom_keeps hP (revokeOther_keeps hP hu))
    · exact h

theorem release_keeps {p sc m} (h : P s) : P (release s p sc m) := by
  unfold release
  dsimp only
  split
  · exact foldl_keeps (fun _ _ hu => countHome_keeps hP hu) (countWriteBacks_keeps hP (staleCopies_keeps hP (foldl_keeps
    (fun _ _ hu => promote_keeps hP hu) (foldl_keeps (fun _ _ hu => register_keeps hP hu) h))))
  · exact countWriteBacks_keeps hP (staleCopies_keeps hP (foldl_keeps (fun _ _ hu => promote_keeps hP hu) (foldl_keeps
    (fun _ _ hu => register_keeps hP hu) h)))

/-! ### Translate -/

theorem noteCmd_keeps {c} (h : P s) : P (noteCmd s c) := by
  unfold noteCmd
  dsimp only
  split
  · exact hP.of h ⟨⟨rfl, rfl, rfl, rfl, id⟩, rfl, rfl, rfl, rfl⟩
  · exact h

theorem setPteBits_keeps {fold ptePa bits} (h : P s) : P (setPteBits s fold ptePa bits) :=
  hP.tlb (homeWriteWords_keeps hP (homeRead8_keeps hP h))

theorem setUsed_keeps {fold ptePa pte write} (h : P s) : P (setUsed s fold ptePa pte write) := by
  unfold setUsed
  split
  · exact h
  · exact setPteBits_keeps hP h

theorem useVas_keeps {vf acc va n} (h : P s) : P (useVas s vf acc va n) := by
  unfold useVas
  refine foldl_keeps (fun _ _ hu => ?_) h
  split
  · exact setUsed_keeps hP hu
  · exact setUsed_keeps hP hu
  · exact hu

/-! ### Ops -/

theorem killActed_keeps {lid n} (h : P s) : P (killActed s lid n) := by
  unfold killActed
  split
  · exact setLaunch_keeps hP h
  · exact h

/-! ### Translate -/

theorem setVf_keeps {v} (h : P s) : P (setVf s v) :=
  hP.of h ⟨⟨rfl, rfl, rfl, rfl, id⟩, rfl, rfl, rfl, rfl⟩

theorem writeKeys_keeps {y1} (h : P s) : P (writeKeys s y1) := by
  induction y1 generalizing s with
  | nil => exact h
  | cons a l ih => exact ih (homeWriteWords_keeps hP h)

/-! ### Launches -/

theorem writeBlock_keeps {v p} (h : P s) : P (writeBlock s v p) := by
  unfold writeBlock
  split
  · exact writeKeys_keeps hP (useVas_keeps hP h)
  · exact h

theorem writeCompl_keeps {vf compl ws} (h : P s) : InOption P (writeCompl s vf compl ws) := by
  unfold writeCompl
  dsimp only
  refine inOption_map fun _ => ?_
  split
  · exact homeWrite4_keeps hP (writeKeys_keeps hP (homeWrite4_keeps hP (useVas_keeps hP h)))
  · exact h

theorem depTest_keeps {f vf w} (h : P s) : InOptionFst P (depTest s f vf w) :=
  inOptionFst_map fun _ => homeRead4_keeps hP h

theorem depsTest_keeps {f vf y3} (h : P s) : P (depsTest s f vf y3).1 := by
  induction y3 generalizing s f vf with
  | nil => exact h
  | cons a l ih =>
    unfold depsTest
    dsimp only
    split
    · exact ih h
    · split
      · exact ih h
      · rename_i t0 x1 x2 ht
        have ht0 : P t0 := of_eq (InOptionFst P) ht (depTest_keeps hP h)
        exact ih ht0

theorem forgetLaunch_keeps {lid} (h : P s) : P (forgetLaunch s lid) :=
  hP.of h ⟨⟨rfl, rfl, rfl, rfl, id⟩, rfl, rfl, rfl, rfl⟩

/-! ### Translate -/

theorem readKeys_keeps {y1} (h : P s) : P (readKeys s y1).1 := by
  induction y1 generalizing s with
  | nil => exact h
  | cons a l ih => exact ih (homeRead8_keeps hP h)

/-! ### Launches -/

theorem readHead_keeps {v p} (h : P s) : HeadRes.All P (readHead s v p) := by
  unfold readHead
  dsimp only
  split
  · exact trivial
  · split
    · exact readKeys_keeps hP (useVas_keeps hP h)
    · split
      · exact readKeys_keeps hP (useVas_keeps hP (readKeys_keeps hP (useVas_keeps hP h)))
      · split
        · exact readKeys_keeps hP (useVas_keeps hP (readKeys_keeps hP (useVas_keeps hP h)))
        · exact readKeys_keeps hP (useVas_keeps hP (readKeys_keeps hP (useVas_keeps hP h)))

/-! ### Ops -/

theorem seenTmpl_keeps {vf w2} (h : P s) : P (seenTmpl s vf w2).1 := by
  unfold seenTmpl
  split
  · exact h
  · exact frameRead_keeps hP h

theorem seenState_keeps {vf w2} (h : P s) : P (seenState s vf w2).1 := by
  unfold seenState
  split
  · exact h
  · exact frameState_keeps hP h

theorem seenParent_keeps {vf w2} (h : P s) : P (seenParent s vf w2).1 := by
  unfold seenParent
  split
  · exact h
  · exact frameRead_keeps hP h

/-! ### Translate -/

theorem tlbAdd_keeps {e} (h : P s) : P (tlbAdd s e) :=
  hP.of h ⟨⟨rfl, rfl, rfl, rfl, id⟩, rfl, rfl, rfl, rfl⟩

/-! ### Coherence -/

theorem sendTable_keeps {die key} (h : P s) : P (sendTable s die key) := by
  unfold sendTable
  split
  · exact meshRequest_keeps hP h
  · exact h

/-! ### Translate -/

theorem walkTraffic_keeps {die fold va y4 y5} (h : P s) : P (walkTraffic s die fold va y4 y5) := by
  induction y4 generalizing s die fold va y5 with
  | nil => exact h
  | cons a l ih =>
    unfold walkTraffic
    dsimp only
    split
    · exact ih (sendTable_keeps hP h)
    · exact sendTable_keeps hP h

theorem leafFor_keeps {w va} (h : P s) : P (leafFor s w va).1 := by
  unfold leafFor
  dsimp only
  split
  · exact h
  · split
    · exact tlbAdd_keeps hP h
    · split
      · exact h
      · split
        · refine tlbAdd_keeps hP ?_
          refine tlbAdd_keeps hP ?_
          refine walk_keeps hP ?_
          split
          · exact h
          · exact walkTraffic_keeps hP h
        · refine walk_keeps hP ?_
          split
          · exact h
          · exact walkTraffic_keeps hP h

/-! ### Coherence -/

theorem loadWord_keeps {p key attr} (h : P s) : P (loadWord s p key attr).1 := by
  unfold loadWord
  dsimp only
  split
  · exact h
  · split
    · exact fillLine_keeps hP h
    · exact fillLine_keeps hP h

/-! ### Translate -/

theorem endRefusals_keeps {p unit} (h : P s) : P (endRefusals s p unit) := by
  unfold endRefusals
  dsimp only
  split
  · exact hP.of h ⟨⟨rfl, rfl, rfl, rfl, id⟩, rfl, rfl, rfl, rfl⟩
  · exact h

theorem setUsedFrom_keeps {die fold ptePa pte write} (h : P s) : P (setUsedFrom s die fold ptePa pte write) := by
  unfold setUsedFrom
  split
  · exact h
  · exact setPteBits_keeps hP (sendTable_keeps hP h)

/-! ### Ops -/

theorem setAccessed_keeps {l write} (h : P s) : P (setAccessed s l write) := by
  unfold setAccessed
  split
  · exact setUsedFrom_keeps hP h
  · exact setUsedFrom_keeps hP h
  · exact h

/-! ### VecMem -/

theorem markLoaded_keeps {e} (h : P s) : P (markLoaded s e) := by
  unfold markLoaded
  refine foldl_keeps (fun _ _ hu => ?_) h
  split
  · exact setAccessed_keeps hP hu
  · exact hu

/-! ### Coherence -/

theorem joinWords_keeps {p ks} (h : P s) : P (joinWords s p ks) := by
  unfold joinWords
  dsimp only
  split
  · split
    · exact h
    · refine countWriteBacks_keeps hP ?_
      split
      · exact countHome_keeps hP (foldl_keeps (fun _ _ hu => register_keeps hP hu) h)
      · exact foldl_keeps (fun _ _ hu => register_keeps hP hu) h
  · exact h

theorem dirtyWord_keeps {p key attr v} (h : P s) : P (dirtyWord s p key attr v) := by
  unfold dirtyWord
  dsimp only
  split
  · exact putWord_keeps hP h
  · exact trimL1_keeps hP (putWord_keeps hP h)

theorem dirtyPart_keeps {p key n attr v} (h : P s) : P (dirtyPart s p key n attr v) := by
  unfold dirtyPart
  dsimp only
  split
  · split
    · exact putWord_keeps hP (dirtyWord_keeps hP (loadWord_keeps hP h))
    · exact dirtyWord_keeps hP (loadWord_keeps hP h)
  · exact dirtyWord_keeps hP (loadWord_keeps hP h)

theorem storeGlobal_keeps {p key n v attr} (h : P s) : P (storeGlobal s p key n v attr) := by
  unfold storeGlobal
  split
  · exact joinWords_keeps hP (dirtyWord_keeps hP (dirtyWord_keeps hP h))
  · split
    · exact dirtyWord_keeps hP h
    · exact dirtyPart_keeps hP h

theorem cboLine_keeps {p fn key} (h : P s) : P (cboLine s p fn key) := by
  unfold cboLine
  dsimp only
  refine countWriteBacks_keeps hP ?_
  refine foldl_keeps (fun _ _ hu => ?_) h
  split
  · exact dropWord_keeps hP (foldl_keeps (fun _ _ hu => dropWord_keeps hP hu) hu)
  · split
    · refine dropWord_keeps hP ?_
      split
      · exact putWord_keeps hP (writeHome_keeps hP hu)
      · exact hu
    · split
      · exact putWord_keeps hP (writeHome_keeps hP hu)
      · exact hu

/-! ### Frames -/

theorem addChild_keeps {vf w2 n} (h : P s) : P (addChild s vf w2 n) :=
  frameWrite_keeps hP (frameState_keeps hP h)

theorem writeHeader_keeps {vf w2 tmpl parent resume st retfr} (h : P s) : P (writeHeader s vf w2 tmpl parent resume st retfr) :=
  frameWrite_keeps hP (frameWrite_keeps hP (frameWrite_keeps hP (frameWrite_keeps hP (frameWrite_keeps hP h))))

/-! ### Coherence -/

theorem loadGlobal_keeps {p key n attr} (h : P s) : P (loadGlobal s p key n attr).1 := by
  unfold loadGlobal
  dsimp only
  split
  · exact loadWord_keeps hP (loadWord_keeps hP (dropLone_keeps hP h))
  · exact loadWord_keeps hP h

/-! ### Access -/

theorem readWordAt_keeps {l n} (h : P s) : P (readWordAt s l n).1 := by
  unfold readWordAt
  dsimp only
  split
  · exact loadGlobal_keeps hP h
  · exact homeRead4_keeps hP (peerRequest_keeps hP h)
  · exact h

theorem pairReady_keeps {l} (h : P s) : P (pairReady s l) := by
  unfold pairReady
  split
  · exact dropLone_keeps hP h
  · exact h

theorem readAt_keeps {l n} (h : P s) : P (readAt s l n).1 := by
  unfold readAt
  dsimp only
  split
  · exact readWordAt_keeps hP (readWordAt_keeps hP (pairReady_keeps hP h))
  · exact readWordAt_keeps hP h

theorem readPiece_keeps {used no p} (h : P s) : P (readPiece s used no p).1 := by
  unfold readPiece
  dsimp only
  split
  · exact h
  · split
    · exact h
    · split
      · refine readAt_keeps hP ?_
        refine readAt_keeps hP ?_
        split
        · exact setAccessed_keeps hP h
        · exact h
      · refine readAt_keeps hP ?_
        split
        · exact setAccessed_keeps hP h
        · exact h

theorem readPieces_keeps {used no y3} (h : P s) : P (readPieces s used no y3).1 := by
  induction y3 generalizing s used no with
  | nil => exact h
  | cons a l ih => exact ih (readPiece_keeps hP h)

theorem joinParts_keeps {ps} (h : P s) : P (joinParts s ps) :=
  foldl_keeps (fun _ _ hu => joinWords_keeps hP hu) h

theorem clearMark_keeps {l} (h : P s) : P (clearMark s l) := by
  unfold clearMark
  split
  · split
    · exact putWord_keeps hP h
    · exact h
  · exact clearPoison_keeps hP h
  · exact clearPoison_keeps hP h

/-! ### Coherence -/

theorem readThrough_keeps {p levels key attr count} (h : P s) : P (readThrough s p levels key attr count).1 := by
  unfold readThrough
  split
  · exact findSupply_keeps hP h
  · refine findSupply_keeps hP ?_
    split
    · exact hitAt_keeps hP h
    · exact fillLine_keeps hP h

theorem engineRead4_keeps {p l key attr} (h : P s) : P (engineRead4 s p l key attr).1 :=
  readThrough_keeps hP h

/-! ### Copy -/

theorem engWord_keeps {k l} (h : P s) : P (engWord s k l).1 := by
  unfold engWord
  split
  · exact engineRead4_keeps hP h
  · exact homeRead4_keeps hP h
  · exact h

theorem readDescriptor_keeps {k l y3} (h : P s) : P (readDescriptor s k l y3).1 := by
  induction y3 generalizing s k l with
  | zero => exact h
  | succ n ih => exact ih (engWord_keeps hP h)

theorem engRequest_keeps {k l} (h : P s) : P (engRequest s k l) := by
  unfold engRequest
  split
  · split
    · exact sendHome_keeps hP h
    · exact h
  · exact peerRequest_keeps hP h
  · exact h

/-! ### Frames -/

theorem liveTmpl_keeps {vf w2} (h : P s) : P (liveTmpl s vf w2).1 := by
  unfold liveTmpl
  dsimp only
  split
  · split
    · exact frameRead_keeps hP h
    · exact frameRead_keeps hP h
  · exact frameRead_keeps hP h

/-! ### Coherence -/

theorem selfInvalidate_keeps {p m sc} (h : P s) : P (selfInvalidate s p m sc) :=
  hP.of h ⟨⟨rfl, rfl, rfl, rfl, id⟩, rfl, rfl, rfl, rfl⟩

/-! ### SyncOps -/

theorem releaseHere_keeps {sc m} (h : P s) : P (releaseHere s sc m) :=
  release_keeps hP h

theorem fenceRange_keeps {base len} (h : P s) : P (fenceRange s base len) :=
  hP.of h ⟨⟨rfl, rfl, rfl, rfl, id⟩, rfl, rfl, rfl, rfl⟩

/-! ### Regs -/

theorem nextFree_keeps (h : P s) : P (nextFree s).1 :=
  hP.of h ⟨⟨rfl, rfl, rfl, rfl, id⟩, rfl, rfl, rfl, rfl⟩

/-! ### SyncOps -/

theorem svCount_keeps {l sc} (h : P s) : P (svCount s l sc) := by
  unfold svCount
  split
  · split
    · exact countHome_keeps hP h
    · split
      · exact sendHome_keeps hP h
      · exact h
  · exact peerRequest_keeps hP h
  · exact h

/-! ### SyncExec -/

theorem readPrio_keeps {va} (h : P s) : P (readPrio s va).1 := by
  unfold readPrio
  dsimp only
  split
  · exact h
  · split
    · exact homeRead4_keeps hP h
    · exact homeRead4_keeps hP h
    · exact h

/-! ### Launches -/

theorem append_keeps {vf p recVa} (h : P s) : InOptionFst P (append s vf p recVa) := by
  unfold append
  dsimp only
  split
  · exact trivial
  · split
    · exact trivial
    · split
      · exact setVf_keeps hP (writeKeys_keeps hP (useVas_keeps hP (useVas_keeps hP h)))
      · exact trivial

/-! ### Copy -/

theorem dequeueInvalidate_keeps {m} (h : P s) : P (dequeueInvalidate s m) := by
  unfold dequeueInvalidate
  split
  · exact hP.of h ⟨⟨rfl, rfl, rfl, rfl, id⟩, rfl, rfl, rfl, rfl⟩
  · exact h

/-! ### Fetch -/

theorem fetchLine_keeps {key attr} (h : P s) : P (fetchLine s key attr).1 :=
  readWords_keeps hP h

/-! ### PageEvents -/

theorem refuseReq_keeps {vf page} (h : P s) : P (refuseReq s vf page) :=
  hP.of h ⟨⟨rfl, rfl, rfl, rfl, id⟩, rfl, rfl, rfl, rfl⟩

theorem cmdServed_keeps {c} (h : P s) : P (cmdServed s c) :=
  hP.of h ⟨⟨rfl, rfl, rfl, rfl, id⟩, rfl, rfl, rfl, rfl⟩

theorem dropReq_keeps {vf page cow} (h : P s) : P (dropReq s vf page cow) :=
  hP.of h ⟨⟨rfl, rfl, rfl, rfl, id⟩, rfl, rfl, rfl, rfl⟩

theorem execPageService_keeps {vf va answer} (h : P s) : InResult P (execPageService vf va answer s) := by
  unfold execPageService
  dsimp only
  split
  · exact trivial
  · split
    · exact trivial
    · split
      · exact refuseReq_keeps hP (cmdServed_keeps hP h)
      · split
        · exact homeWriteWords_keeps hP (dropReq_keeps hP (cmdServed_keeps hP h))
        · exact dropReq_keeps hP (cmdServed_keeps hP h)

theorem dropCow_keeps {vf va bits} (h : P s) : P (dropCow s vf va bits) :=
  hP.of h ⟨⟨rfl, rfl, rfl, rfl, id⟩, rfl, rfl, rfl, rfl⟩

theorem dropTlbVa_keeps {vf va} (h : P s) : P (dropTlbVa s vf va) :=
  hP.of h ⟨⟨rfl, rfl, rfl, rfl, id⟩, rfl, rfl, rfl, rfl⟩

theorem execTlbInvalidation_keeps {vf} (h : P s) : InResult P (execTlbInvalidation vf s) := by
  unfold execTlbInvalidation
  split
  · exact trivial
  · split
    · exact trivial
    · exact hP.of h ⟨⟨rfl, rfl, rfl, rfl, id⟩, rfl, rfl, rfl, rfl⟩

/-! ### Copy -/

theorem engPair_keeps {k l} (h : P s) : P (engPair s k l) := by
  unfold engPair
  split
  · exact dropLone_keeps hP h
  · exact h

theorem engRead_keeps {k l n} (h : P s) : P (engRead s k l n).1 := by
  unfold engRead
  dsimp only
  split
  · exact engWord_keeps hP (engWord_keeps hP (engPair_keeps hP h))
  · exact engWord_keeps hP h

theorem carryUp_keeps {lv path key} (h : P s) : P (carryUp s lv path key) := by
  unfold carryUp
  split
  · exact placeHeld_keeps hP (foldl_keeps (fun _ _ hu => dropWord_keeps hP hu) h)
  · exact h

theorem engTake_keeps {k l} (h : P s) : P (engTake s k l) := by
  unfold engTake
  dsimp only
  split
  · exact countWriteBacks_keeps hP (carryUp_keeps hP (foldl_keeps (fun _ _ hu => revokeOther_keeps hP hu) h))
  · exact revokeAt_keeps hP h
  · exact h

theorem engOld_keeps {k l n} (h : P s) : P (engOld s k l n).1 := by
  unfold engOld
  dsimp only
  refine engRead_keeps hP ?_
  split
  · exact engTake_keeps hP (engTake_keeps hP h)
  · exact engTake_keeps hP h

/-! ### Coherence -/

theorem engineWrite4_keeps {p l key attr v poison} (h : P s) : P (engineWrite4 s p l key attr v poison) :=
  countWriteBacks_keeps hP (placeHeld_keeps hP (foldl_keeps (fun _ _ hu => dropWord_keeps hP hu) (foldl_keeps
    (fun _ _ hu => revokeOther_keeps hP hu) h)))

/-! ### Copy -/

theorem engPut_keeps {k l v poison} (h : P s) : P (engPut s k l v poison) := by
  unfold engPut
  dsimp only
  split
  · exact engineWrite4_keeps hP h
  · exact setHomeWord_keeps hP (revokeAt_keeps hP h)
  · split
    · exact markPoison_keeps hP (pokeLe_keeps hP h)
    · exact pokeLe_keeps hP h

theorem engWrite_keeps {s0 k l n v carry} (h : P s0) : P (engWrite s0 k l n v carry) := by
  unfold engWrite
  dsimp only
  split
  · exact engPut_keeps hP (engPut_keeps hP (engRequest_keeps hP h))
  · split
    · exact engPut_keeps hP (engRequest_keeps hP h)
    · exact engPut_keeps hP (engWord_keeps hP (engTake_keeps hP (engRequest_keeps hP h)))

theorem freeFill_keeps {k l n} (h : P s) : P (freeFill s k l n) :=
  engWrite_keeps hP (foldl_fst_keeps (fun _ _ hu => nextFree_keeps hP hu) h)

/-! ### DispatchEvents -/

theorem refuseDoorbell_keeps {v p} (h : P s) : P (refuseDoorbell s v p) :=
  setVf_keeps hP h

theorem bellAppends_keeps {vf p recVa} (h : P s) : P (bellAppends s vf p recVa) := by
  unfold bellAppends
  split
  · rename_i r _ hr
    exact of_eq (InOptionFst P) hr (append_keeps hP h)
  · exact refuseDoorbell_keeps hP h
  · exact h

theorem execQovfClear_keeps {vf value} (h : P s) : InResult P (execQovfClear vf value s) := by
  unfold execQovfClear
  split
  · exact trivial
  · split
    · exact h
    · exact setVf_keeps hP h

theorem readImage_keeps {vf va n} (h : P s) : InOptionFst P (readImage s vf va n) := by
  unfold readImage
  split
  · exact h
  · exact inOptionFst_map fun _ => readKeys_keeps hP (useVas_keeps hP h)

theorem placingTests_keeps {f l} (h : P s) : Placing.All P (placingTests s f l) := by
  unfold placingTests
  dsimp only
  split
  · exact h
  · split
    · exact h
    · rename_i t0 x1 ht
      have ht0 : P t0 := by
        refine of_eq (InOptionFst P) ht ?_
        split
        · exact h
        · exact readImage_keeps hP h
      split
      · exact ht0
      · split
        · exact ht0
        · split
          · exact ht0
          · exact ht0

theorem emptyCluster_keeps {c} (h : P s) : P (emptyCluster s c) := by
  unfold emptyCluster
  exact hP.of (countWriteBacks_keeps hP (foldl_keeps (fun _ _ hu => promote_keeps hP hu) h)) ⟨⟨rfl, rfl, rfl, rfl, id⟩, rfl, rfl, rfl, rfl⟩

theorem pickVf_keeps {f again} (h : P s) : P (pickVf s f again).1 := by
  unfold pickVf
  dsimp only
  split
  · exact h
  · split
    · exact foldl_keeps (fun _ _ hu => setVf_keeps hP hu) h
    · exact foldl_keeps (fun _ _ hu => setVf_keeps hP hu) h

theorem chargeSlice_keeps {f vf} (h : P s) : P (chargeSlice s f vf) := by
  unfold chargeSlice
  dsimp only
  split
  · exact h
  · exact setVf_keeps hP h

/-! ### SwitchEvents -/

theorem forgetWaits_keeps {p} (h : P s) : P (forgetWaits s p) :=
  hP.of h ⟨⟨rfl, rfl, rfl, rfl, id⟩, rfl, rfl, rfl, rfl⟩

theorem uncounted_keeps {f} (hf : ∀ u0, P u0 → P (f u0)) (h : P s) : P (uncounted f s) :=
  hP.dies (hf _ h)

/-! ### Coherence -/

theorem revoke_keeps {key o} (h : P s) : P (revoke s key o) :=
  countWriteBacks_keeps hP (revokePair_keeps hP h)

theorem writeBackLevel_keeps {l up} (h : P s) : P (writeBackLevel s l up) := by
  unfold writeBackLevel
  dsimp only
  refine foldl_keeps (fun _ _ hu => ?_) h
  refine dropWord_keeps hP ?_
  refine iteInduction (motive := P) (fun _ => ?_) (fun _ => ?_)
  · exact placeHeld_keeps hP hu
  · exact hu

/-! ### SwitchEvents -/

theorem writeBackCaches_keeps {f} (h : P s) : P (writeBackCaches s f) :=
  foldl_keeps (fun _ _ hu => writeBackLevel_keeps hP hu) (foldl_keeps (fun _ _ hu => writeBackLevel_keeps hP hu) h)

theorem writeArea_keeps {v epoch cores bs} (h : P s) : P (writeArea s v epoch cores bs).1 :=
  nextFree_keeps hP h

theorem dropSaved_keeps {vf} (h : P s) : P (dropSaved s vf) := by
  unfold dropSaved
  split
  · exact setVf_keeps hP h
  · exact h

theorem injectRound_keeps {w0 kept y3} (h : P s) : P (injectRound w0 s kept y3).1 := by
  induction y3 generalizing w0 s kept with
  | nil => exact h
  | cons a l ih =>
    unfold injectRound
    dsimp only
    split
    · exact ih (hP.of h ⟨⟨rfl, rfl, rfl, rfl, id⟩, rfl, rfl, rfl, rfl⟩)
    · exact ih h

/-! ### MeshEvents -/

theorem movePacket_keeps {i p a} (h : P s) : P (movePacket s i p a) :=
  hP.of h ⟨⟨rfl, rfl, rfl, rfl, id⟩, rfl, rfl, rfl, rfl⟩

theorem hopDue_keeps {i p} (h : P s) : InOption P (hopDue s i p) := by
  unfold hopDue
  dsimp only
  split
  · exact trivial
  · split
    · split
      · exact movePacket_keeps hP h
      · exact trivial
    · split
      · exact movePacket_keeps hP h
      · exact trivial
    · split
      · exact hP.grants (movePacket_keeps hP h)
      · exact trivial
    · exact trivial

theorem respond_keeps {p flits cargo} (h : P s) : P (respond s p flits cargo) :=
  hP.of h ⟨⟨rfl, rfl, rfl, rfl, id⟩, rfl, rfl, rfl, rfl⟩

theorem hostReadBytes_keeps {key y2} (h : P s) : P (hostReadBytes s key y2).1 := by
  induction y2 generalizing s key with
  | zero => exact h
  | succ n ih => exact ih (homeRead4_keeps hP h)

theorem poisonAt_keeps {place key} (h : P s) : P (poisonAt s place key) := by
  unfold poisonAt
  cases place with
  | stored => exact markPoison_keeps hP h
  | l1 p =>
    dsimp only
    split
    · exact putWord_keeps hP h
    · exact h
  | clusterCache c =>
    dsimp only
    split
    · exact putWord_keeps hP h
    · exact h
  | dieCache n =>
    dsimp only
    split
    · exact putWord_keeps hP h
    · exact h

/-! ### ServiceEvents -/

theorem setSvc_keeps {m} (h : P s) : P (setSvc s m) :=
  hP.of h ⟨⟨rfl, rfl, rfl, rfl, id⟩, rfl, rfl, rfl, rfl⟩

/-! ### ModuleEvents -/

theorem bootConfig_keeps (h : P s) : InOption P (bootConfig s) := by
  unfold bootConfig
  dsimp only
  refine inOption_bind fun _ => ?_
  split
  · exact setSvc_keeps hP h
  · exact trivial

theorem bootService_keeps (h : P s) : P (bootService s) :=
  setSvc_keeps hP h

/-! ### SwitchEvents -/

theorem resetWords_keeps {f} (h : P s) : P (resetWords s f) := by
  unfold resetWords
  exact hP.of (foldl_keeps (fun _ _ hu => setHomeWord_keeps hP hu) h) ⟨⟨rfl, rfl, rfl, rfl, id⟩, rfl, rfl, rfl, rfl⟩

/-! ### ServiceEvents -/

theorem execMbstatDoneClear_keeps (h : P s) : InResult P (execMbstatDoneClear s) :=
  setSvc_keeps hP h

theorem answerFrame_keeps {w1 status body} (h : P s) : P (answerFrame s w1 status body) := by
  unfold answerFrame
  dsimp only
  split
  · exact setSvc_keeps hP h
  · exact setSvc_keeps hP h

theorem setKey_keeps {k} (h : P s) : P (setKey s k) :=
  setSvc_keeps hP h

theorem recordCount_keeps {w1} (h : P s) : P (recordCount s w1) := by
  unfold recordCount
  split
  · exact setKey_keeps hP h
  · exact h

theorem setDieFold_keeps {fold mode n} (h : P s) : P (setDieFold s fold mode n) :=
  setDie_keeps hP h

/-! ### SwitchEvents -/

theorem cancelJob_keeps {vfs} (h : P s) : P (cancelJob s vfs) :=
  hP.of h ⟨⟨rfl, rfl, rfl, rfl, id⟩, rfl, rfl, rfl, rfl⟩

/-! ### ServiceEvents -/

theorem readQueue_keeps {vf qb p} (h : P s) : P (readQueue s vf qb p).1 := by
  unfold readQueue
  dsimp only
  split
  · exact readKeys_keeps hP h
  · exact h

/-! ### ModuleEvents -/

theorem setJob_keeps {j} (h : P s) : P (setJob s j) :=
  setSvc_keeps hP h

theorem startJob_keeps {fr vf migrate} (h : P s) : P (startJob s fr vf migrate) :=
  setSvc_keeps hP (setJob_keeps hP h)

/-! ### ServiceEvents -/

theorem execDroverSwap_keeps (h : P s) : InResult P (execDroverSwap s) := by
  unfold execDroverSwap
  dsimp only
  split
  · split
    · exact setSvc_keeps hP h
    · exact trivial
  · exact trivial

/-! ### ModuleEvents -/

theorem mapDrovers_keeps {f g} (h : P s) : P (mapDrovers s f g) :=
  hP.of h ⟨⟨rfl, rfl, rfl, rfl, id⟩, rfl, rfl, rfl, rfl⟩

theorem goFrame_keeps (h : P s) : P (goFrame s) := by
  unfold goFrame
  dsimp only
  split
  · exact h
  · exact setSvc_keeps hP h

theorem managementWrite_keeps {offset value} (h : P s) : InResult P (managementWrite s offset value) := by
  unfold managementWrite
  dsimp only
  split
  · split
    · exact goFrame_keeps hP h
    · exact h
  · split
    · split
      · exact execMbstatDoneClear_keeps hP h
      · exact h
    · split
      · exact setSvc_keeps hP h
      · exact h

/-! ### Fetch -/

theorem noteStart_keeps {x} (h : P s) : P (noteStart s x) := by
  unfold noteStart
  dsimp only
  split
  · exact setLaunch_keeps hP h
  · exact h

/-! ### Schedule -/

theorem ended_keeps {first} (h : P s) : P (ended first s) := by
  unfold ended
  split
  · exact h
  · exact endRefusals_keeps hP (noteStart_keeps hP h)

/-! ### ModuleEvents -/

theorem endJob_keeps {j status body} (h : P s) : P (endJob s j status body) :=
  answerFrame_keeps hP (setSvc_keeps hP h)

theorem dropTlbVf_keeps {vf} (h : P s) : P (dropTlbVf s vf) :=
  hP.of h ⟨⟨rfl, rfl, rfl, rfl, id⟩, rfl, rfl, rfl, rfl⟩

theorem setAllCow_keeps {v} (h : P s) : P (setAllCow s v) := by
  unfold setAllCow
  refine foldl_keeps (fun _ _ hu => ?_) h
  split
  · exact homeWriteWords_keeps hP hu
  · exact hu

theorem freeze_keeps {j v stage} (h : P s) : P (freeze s j v stage) :=
  setJob_keeps hP (setVf_keeps hP (dropTlbVf_keeps hP (setAllCow_keeps hP h)))

theorem snapshotDone_keeps {j v} (h : P s) : P (snapshotDone s j v) := by
  unfold snapshotDone
  split
  · exact endJob_keeps hP h
  · exact setJob_keeps hP h

theorem chargeSnapshot_keeps {j v} (h : P s) : P (chargeSnapshot s j v) :=
  setVf_keeps hP h

/-! ### SwitchEvents -/

theorem faultSaved_keeps {vf} (h : P s) : P (faultSaved s vf) := by
  unfold faultSaved
  split
  · exact setVf_keeps hP h
  · exact h

end

section
variable {P : State → Prop} (hP : KeptAside P) {s : State}
include hP

/-! ### Translate -/

theorem setFold_keeps {f} (h : P s) : P (setFold s f) :=
  hP.of h ⟨rfl, rfl, rfl, rfl, id⟩

theorem postMb_keeps {fold e} (h : P s) : P (postMb s fold e) := by
  unfold postMb
  dsimp only
  split
  · exact h
  · split
    · split
      · exact hP.svc (setFold_keeps hP h)
      · exact setFold_keeps hP h
    · exact setFold_keeps hP h

theorem newRequest_keeps {fold vf va acc cow waiters} (h : P s) : P (newRequest s fold vf va acc cow waiters) := by
  unfold newRequest
  dsimp only
  split
  · exact h
  · refine iteInduction (motive := P) (fun _ => ?_) (fun _ => ?_)
    · exact postMb_keeps hP (hP.of h ⟨rfl, rfl, rfl, rfl, id⟩)
    · exact noteCmd_keeps hP.near (hP.of h ⟨rfl, rfl, rfl, rfl, id⟩)

theorem askCopies_keeps {vf vas} (h : P s) : InOption P (askCopies s vf vas) := by
  unfold askCopies
  split
  · exact trivial
  · exact trivial
  · refine foldl_keeps (fun _ _ hu => ?_) h
    split
    · exact hu
    · exact newRequest_keeps hP hu

/-! ### Launches -/

theorem askTest_keeps {fold} (h : P s) : P (askTest s fold) := by
  unfold askTest
  split
  · exact setFold_keeps hP h
  · exact h

theorem writeTriggered_keeps {l} (h : P s) : P (writeTriggered s l) := by
  unfold writeTriggered
  dsimp only
  split
  · rename_i t0 ht
    have ht0 : P t0 := of_eq (InOption P) ht (askCopies_keeps hP h)
    exact setLaunch_keeps hP.near ht0
  · split
    · split
      · split
        · exact setFold_keeps hP (askTest_keeps hP (homeWrite4_keeps hP.near (useVas_keeps hP.near (homeRead4_keeps hP.near (setLaunch_keeps hP.near h)))))
        · exact askTest_keeps hP (homeWrite4_keeps hP.near (useVas_keeps hP.near (homeRead4_keeps hP.near (setLaunch_keeps hP.near h))))
      · exact homeRead4_keeps hP.near (setLaunch_keeps hP.near h)
    · exact setLaunch_keeps hP.near h

theorem triggerDec_keeps {lid n ends} (h : P s) : P (triggerDec s lid n ends) := by
  unfold triggerDec
  dsimp only
  split
  · exact h
  · split
    · exact h
    · split
      · exact writeTriggered_keeps hP h
      · exact setLaunch_keeps hP.near h

/-! ### Ops -/

theorem neverStarted_keeps {lid c n} (h : P s) : P (neverStarted s lid c n) := by
  unfold neverStarted
  dsimp only
  split
  · exact setLaunch_keeps hP.near (triggerDec_keeps hP h)
  · exact triggerDec_keeps hP h

/-! ### Frames -/

theorem launchCopies_keeps {after l} (h : P s) : InOption P (launchCopies s after l) := by
  unfold launchCopies
  split
  · exact trivial
  · exact askCopies_keeps hP h

/-! ### Launches -/

theorem postBlock_keeps {vf p} (h : P s) : P (postBlock s vf p) := by
  unfold postBlock
  split
  · exact h
  · split
    · rename_i t0 ht
      have ht0 : P t0 := of_eq (InOption P) ht (askCopies_keeps hP h)
      exact setVf_keeps hP.near ht0
    · exact writeBlock_keeps hP.near (setVf_keeps hP.near h)

theorem advanceHead_keeps {vf p} (h : P s) : P (advanceHead s vf p) := by
  unfold advanceHead
  dsimp only
  split
  · exact h
  · exact postBlock_keeps hP (setVf_keeps hP.near h)

/-! ### Translate -/

theorem logRas_keeps {fold c loc} (h : P s) : P (logRas s fold c loc) := by
  unfold logRas
  dsimp only
  split
  · split
    · exact postMb_keeps hP (hP.of h ⟨rfl, rfl, rfl, rfl, id⟩)
    · exact hP.of h ⟨rfl, rfl, rfl, rfl, id⟩
  · exact hP.of h ⟨rfl, rfl, rfl, rfl, id⟩

/-! ### Launches -/

theorem testHead_keeps {l} (h : P s) : P (testHead s l) := by
  unfold testHead
  dsimp only
  split
  · exact h
  · split
    · exact h
    · split
      · exact logRas_keeps hP (setLaunch_keeps hP.near (depsTest_keeps hP.near h))
      · exact setLaunch_keeps hP.near (depsTest_keeps hP.near h)

theorem testHeads_keeps {f} (h : P s) : P (testHeads s f) :=
  foldl_keeps (fun _ _ hu => testHead_keeps hP hu) (setFold_keeps hP h)

theorem noteAnswer_keeps {l key} (h : P s) : P (noteAnswer s l key) := by
  unfold noteAnswer
  dsimp only
  split
  · exact h
  · split
    · exact testHeads_keeps hP (setFold_keeps hP h)
    · exact setFold_keeps hP h

theorem reportBad_keeps {vf lid c} (h : P s) : P (reportBad s vf lid c) := by
  unfold reportBad
  dsimp only
  refine logRas_keeps hP ?_
  split
  · exact setVf_keeps hP.near h
  · exact h

theorem answerNow_keeps {l status tstart nstrand} (h : P s) : P (answerNow s l status tstart nstrand) := by
  unfold answerNow
  dsimp only
  split
  · refine advanceHead_keeps hP ?_
    refine forgetLaunch_keeps hP.near ?_
    split
    · rename_i t0 ht
      have ht0 : P t0 := of_eq (InOption P) ht (writeCompl_keeps hP.near (hP.of h ⟨rfl, rfl, rfl, rfl, id⟩))
      exact noteAnswer_keeps hP ht0
    · exact noteAnswer_keeps hP (reportBad_keeps hP (hP.of h ⟨rfl, rfl, rfl, rfl, id⟩))
  · refine forgetLaunch_keeps hP.near ?_
    split
    · rename_i t0 ht
      have ht0 : P t0 := of_eq (InOption P) ht (writeCompl_keeps hP.near (hP.of h ⟨rfl, rfl, rfl, rfl, id⟩))
      exact noteAnswer_keeps hP ht0
    · exact noteAnswer_keeps hP (reportBad_keeps hP (hP.of h ⟨rfl, rfl, rfl, rfl, id⟩))

theorem answer_keeps {l status tstart nstrand} (h : P s) : P (answer s l status tstart nstrand) := by
  unfold answer
  split
  · rename_i t0 ht
    have ht0 : P t0 := of_eq (InOption P) ht (askCopies_keeps hP h)
    exact setLaunch_keeps hP.near ht0
  · exact answerNow_keeps hP h

/-! ### Ops -/

theorem answerEntry_keeps {vf p} (h : P s) : P (answerEntry s vf p) := by
  unfold answerEntry
  split
  · exact answer_keeps hP h
  · exact h
  · split
    · rename_i t0 x1 ht
      have ht0 : P t0 := of_eq (HeadRes.All P) ht (readHead_keeps hP.near h)
      exact answer_keeps hP ht0
    · rename_i t0 x1 ht
      have ht0 : P t0 := of_eq (HeadRes.All P) ht (readHead_keeps hP.near h)
      exact reportBad_keeps hP ht0
    · exact h

theorem answerQueue_keeps {y0 y1 y2 y3} (h : P y1) : P (answerQueue y0 y1 y2 y3) := by
  induction y0 generalizing y1 y2 y3 with
  | zero => exact h
  | succ n ih =>
    unfold answerQueue
    split
    · exact h
    · split
      · exact h
      · exact ih (advanceHead_keeps hP (answerEntry_keeps hP h))

/-! ### Frames -/

theorem rootCopies_keeps {after} (h : P s) : InOption P (rootCopies s after) :=
  inOption_bind fun _ => launchCopies_keeps hP h

/-! ### Ops -/

theorem leaveCopies_keeps {e} (h : P s) : InOption P (leaveCopies s e) := by
  unfold leaveCopies
  split
  · exact rootCopies_keeps hP h
  · exact trivial

/-! ### Translate -/

theorem askPage_keeps {w va acc cow} (h : P s) : P (askPage s w va acc cow) := by
  unfold askPage
  dsimp only
  split
  · exact hP.of h ⟨rfl, rfl, rfl, rfl, id⟩
  · exact newRequest_keeps hP h

theorem translateAs_keeps {w va acc defer net} (h : P s) : P (translateAs s w va acc defer net).1 := by
  unfold translateAs
  dsimp only
  split
  · split
    · exact h
    · exact h
    · exact h
  · split
    · exact h
    · split
      · exact leafFor_keeps hP.near h
      · split
        · exact leafFor_keeps hP.near h
        · exact askPage_keeps hP (leafFor_keeps hP.near h)
      · split
        · exact leafFor_keeps hP.near h
        · split
          · exact askPage_keeps hP (leafFor_keeps hP.near h)
          · split
            · split
              · exact leafFor_keeps hP.near h
              · exact setUsedFrom_keeps hP.near (leafFor_keeps hP.near h)
            · exact leafFor_keeps hP.near h

/-! ### Access -/

theorem translateAll_keeps {w acc y3} (h : P s) : P (translateAll s w acc y3).1 := by
  induction y3 generalizing s w acc with
  | nil => exact h
  | cons a l ih =>
    unfold translateAll
    dsimp only
    split
    · exact translateAs_keeps hP h
    · exact ih (translateAs_keeps hP h)
    · exact ih (translateAs_keeps hP h)

/-! ### VecMem -/

theorem translateLanes_keeps {w acc base y4} (h : P s) : P (translateLanes s w acc base y4).1 := by
  induction y4 generalizing s w acc base with
  | nil => exact h
  | cons a l ih =>
    unfold translateLanes
    dsimp only
    split
    · exact ih h
    · split
      · exact translateAs_keeps hP h
      · exact ih (translateAs_keeps hP h)
      · exact ih (translateAs_keeps hP h)

/-! ### Coherence -/

theorem setCluster_keeps {k} (h : P s) : P (setCluster s k) :=
  hP.of h ⟨rfl, rfl, rfl, rfl, id⟩

/-! ### Troughs -/

theorem setTrough_keeps {c q t} (h : P s) : P (setTrough s c q t) :=
  setCluster_keeps hP h

theorem popTrough_keeps {q} (h : P s) : P (popTrough s q) :=
  setTrough_keeps hP h

theorem effTrpop_keeps {y0 q} (h : P s) : RunRes.All P (effTrpop y0 q s) := by
  unfold effTrpop
  dsimp only
  split
  · exact h
  · split
    · exact h
    · exact popTrough_keeps hP h

/-! ### Factor -/

theorem dropPosts_keeps {p} (h : P s) : P (dropPosts s p) := by
  unfold dropPosts
  dsimp only
  split
  · exact setCluster_keeps hP h
  · exact h

theorem setGroup_keeps {c n g} (h : P s) : P (setGroup s c n g) :=
  setCluster_keeps hP h

theorem effFcoln_keeps {e x n} (h : P s) : RunRes.All P (effFcoln e x n s) := by
  unfold effFcoln
  dsimp only
  split
  · exact h
  · split
    · exact h
    · split
      · exact dropPosts_keeps hP h
      · split
        · exact h
        · exact setGroup_keeps hP h

theorem effNgjoin_keeps {e x n} (h : P s) : RunRes.All P (effNgjoin e x n s) := by
  unfold effNgjoin
  dsimp only
  split
  · exact h
  · split
    · exact setGroup_keeps hP h
    · split
      · exact h
      · exact setGroup_keeps hP h

theorem effNgleave_keeps {y0 n} (h : P s) : RunRes.All P (effNgleave y0 n s) := by
  unfold effNgleave
  dsimp only
  split
  · exact setGroup_keeps hP h
  · exact h

/-! ### Copy -/

theorem engLoc_keeps {k va acc n} (h : P s) : P (engLoc s k va acc n).1 := by
  unfold engLoc
  dsimp only
  split
  · split
    · split
      · exact h
      · split
        · exact h
        · exact h
    · exact h
  · split
    · exact translateAs_keeps hP h
    · exact translateAs_keeps hP h
    · exact translateAs_keeps hP h
    · exact translateAs_keeps hP h

theorem fetchDescriptor_keeps {k va} (h : P s) : P (fetchDescriptor s k va).1 := by
  unfold fetchDescriptor
  dsimp only
  split
  · exact h
  · split
    · exact engLoc_keeps hP h
    · exact engLoc_keeps hP h
    · split
      · exact readDescriptor_keeps hP.near (engRequest_keeps hP.near (engRequest_keeps hP.near (engLoc_keeps hP h)))
      · split
        · exact readDescriptor_keeps hP.near (engRequest_keeps hP.near (engRequest_keeps hP.near (engLoc_keeps hP h)))
        · exact readDescriptor_keeps hP.near (engRequest_keeps hP.near (engRequest_keeps hP.near (engLoc_keeps hP h)))

/-! ### Exchange -/

omit hP in
theorem effXsend_keeps {e y1 b} (h : P s) : RunRes.All P (effXsend e y1 b s) := by
  unfold effXsend
  split
  · exact h
  · split
    · exact h
    · exact h

/-! ### Translate -/

theorem translate_keeps {w va acc} (h : P s) : P (translate s w va acc).1 :=
  translateAs_keeps hP h

/-! ### Factor -/

theorem loseMember_keeps {p} (h : P s) : P (loseMember s p) := by
  unfold loseMember
  dsimp only
  split
  · exact setCluster_keeps hP h
  · exact h

/-! ### SyncOps -/

theorem svCheck_keeps {va sc acc} (h : P s) : SvRes.All P (svCheck s va sc acc) := by
  unfold svCheck
  dsimp only
  split
  · exact h
  · split
    · exact h
    · refine iteInduction (motive := SvRes.All P) (fun _ => ?_) (fun _ => ?_)
      · exact leafFor_keeps hP.near h
      · split
        · exact translate_keeps hP (leafFor_keeps hP.near h)
        · exact translate_keeps hP (leafFor_keeps hP.near h)
        · split
          · exact translate_keeps hP (leafFor_keeps hP.near h)
          · exact translate_keeps hP (leafFor_keeps hP.near h)

theorem setHolder_keeps {l sc p lid} (h : P s) : P (setHolder s l sc p lid) :=
  hP.of h ⟨rfl, rfl, rfl, rfl, id⟩

theorem unpark_keeps {p} (h : P s) : P (unpark s p) :=
  hP.of h ⟨rfl, rfl, rfl, rfl, id⟩

theorem dropHolder_keeps {l sc} (h : P s) : P (dropHolder s l sc) :=
  hP.of h ⟨rfl, rfl, rfl, rfl, id⟩

/-! ### Launches -/

theorem appendWaits_keeps {vf p recVa} (h : P s) : InOption P (appendWaits s vf p recVa) := by
  unfold appendWaits
  refine inOption_bind fun _ => ?_
  split
  · exact askCopies_keeps hP h
  · exact trivial

/-! ### CoreEvents -/

omit hP in
theorem whenDue_keeps {n r} (h : InOption P r) : InResult P (whenDue n r) := by
  unfold whenDue
  split
  · rename_i t0
    have ht0 : P t0 := h
    exact ht0
  · exact trivial

omit hP in
theorem ifRunning_keeps {r} (h1 : InOption P r) : InOption P (ifRunning s r) := by
  unfold ifRunning
  split
  · exact trivial
  · exact h1

theorem roundCancelled_keeps {c n} (h : P s) : P (roundCancelled s c n) :=
  setGroup_keeps hP h

theorem roundDone_keeps {c n} (h : P s) : P (roundDone s c n) :=
  setGroup_keeps hP h

theorem dropContReqs_keeps {p} (h : P s) : P (dropContReqs s p) := by
  unfold dropContReqs
  split
  · split
    · exact setFold_keeps hP h
    · exact h
  · exact h

omit hP in
theorem execTimeCompare_keeps (h : P s) : InResult P (execTimeCompare s) := by
  unfold execTimeCompare
  split
  · exact h
  · exact trivial

theorem zeroRange_keeps {lo n} (h : P s) : P (zeroRange s lo n) :=
  hP.of h ⟨rfl, rfl, rfl, rfl, Memory.clear_wf lo (lo + n)⟩

/-! ### PageEvents -/

theorem execPageWalk_keeps {va acc} (h : P s) : InResult P (execPageWalk va acc s) := by
  unfold execPageWalk
  dsimp only
  split
  · exact trivial
  · split
    · exact askPage_keeps hP (leafFor_keeps hP.near h)
    · exact leafFor_keeps hP.near h

theorem copyFrame_keeps {src dst n} (h : P s) : P (copyFrame s src dst n) := by
  unfold copyFrame
  refine foldl_keeps (fun _ _ hu => setHomeWord_keeps hP.near hu) (foldl_keeps (fun _ _ hu => markPoison_keeps hP.near hu) ?_)
  exact hP.of h ⟨rfl, rfl, rfl, rfl, fun hm => putMoved_wf src dst _ (Memory.clear_wf dst (dst + n) hm)⟩

theorem execCopyOnWrite_keeps {vf va frame} (h : P s) : InResult P (execCopyOnWrite vf va frame s) := by
  unfold execCopyOnWrite
  dsimp only
  split
  · exact trivial
  · split
    · split
      · exact trivial
      · exact setVf_keeps hP.near (dropCow_keeps hP.near (dropTlbVa_keeps hP.near (cmdServed_keeps hP.near (homeWriteWords_keeps hP.near (copyFrame_keeps hP h)))))
    · exact trivial

/-! ### CoreEvents -/

omit hP in
theorem ifEngines_keeps {c r} (h1 : InOption P r) : InOption P (ifEngines s c r) := by
  unfold ifEngines
  split
  · exact h1
  · exact trivial

/-! ### Copy -/

theorem destLoc_keeps {k n} (h : P s) : P (destLoc s k n).1 := by
  unfold destLoc
  dsimp only
  split
  · exact h
  · exact engLoc_keeps hP h

theorem runElem_keeps {k n} (h : P s) : ElemRes.All P (runElem s k n) := by
  unfold runElem
  dsimp only
  split
  · exact engLoc_keeps hP h
  · exact engLoc_keeps hP h
  · split
    · exact destLoc_keeps hP (engLoc_keeps hP h)
    · exact destLoc_keeps hP (engLoc_keeps hP h)
    · split
      · exact engRead_keeps hP.near (engRequest_keeps hP.near (destLoc_keeps hP (engLoc_keeps hP h)))
      · refine engWrite_keeps hP.near ?_
        split
        · exact engOld_keeps hP.near (engRead_keeps hP.near (engRequest_keeps hP.near (destLoc_keeps hP (engLoc_keeps hP h))))
        · exact engRead_keeps hP.near (engRequest_keeps hP.near (destLoc_keeps hP (engLoc_keeps hP h)))

theorem freeElements_keeps {k y1 y2} (h : P y2) : P (freeElements k y1 y2) := by
  induction y1 generalizing k y2 with
  | zero => exact h
  | succ n ih =>
    unfold freeElements
    dsimp only
    split
    · exact freeFill_keeps hP.near (destLoc_keeps hP (ih h))
    · exact ih h

theorem runElems_keeps {y0 y1 y2} (h : P y1) : P (runElems y0 y1 y2).1 := by
  induction y0 generalizing y1 y2 with
  | zero => exact h
  | succ n ih =>
    unfold runElems
    split
    · rename_i t0 x1 ht
      have ht0 : P t0 := of_eq (ElemRes.All P) ht (runElem_keeps hP h)
      exact ih ht0
    · rename_i t0 ht
      have ht0 : P t0 := of_eq (ElemRes.All P) ht (runElem_keeps hP h)
      exact ht0
    · rename_i t0 x1 x2 ht
      have ht0 : P t0 := of_eq (ElemRes.All P) ht (runElem_keeps hP h)
      exact freeElements_keeps hP ht0

theorem runCommand_keeps {k} (h : P s) : P (runCommand s k).1 := by
  unfold runCommand
  dsimp only
  split
  · exact h
  · split
    · exact freeElements_keeps hP (runElems_keeps hP h)
    · exact runElems_keeps hP h

theorem setCmd_keeps {c i k} (h : P s) : P (setCmd s c i k) :=
  setCluster_keeps hP h

theorem runFirst_keeps {c y2} (h : P s) : InOption P (runFirst s c y2) := by
  induction y2 generalizing s c with
  | nil => exact trivial
  | cons a l ih =>
    unfold runFirst
    dsimp only
    split
    · exact setCmd_keeps hP (runCommand_keeps hP h)
    · split
      · exact runCommand_keeps hP h
      · exact ih h

/-! ### CoreEvents -/

theorem execCopyCommandRun_keeps {c} (h : P s) : InResult P (execCopyCommandRun c s) :=
  whenDue_keeps (ifEngines_keeps (runFirst_keeps hP h))

/-! ### Copy -/

theorem reserveSlot_keeps {c q i k} (h : P s) : P (reserveSlot s c q i k) :=
  setCmd_keeps hP (setTrough_keeps hP h)

/-! ### CoreEvents -/

theorem execCpyqReserve_keeps {c q} (h : P s) : InResult P (execCpyqReserve c q s) :=
  whenDue_keeps (ifEngines_keeps (inOption_map fun _ => reserveSlot_keeps hP h))

/-! ### DispatchEvents -/

theorem ringBell_keeps {v p recVa} (h : P s) : P (ringBell s v p recVa) := by
  unfold ringBell
  split
  · exact setVf_keeps hP.near h
  · split
    · rename_i t0 ht
      have ht0 : P t0 := of_eq (InOption P) ht (appendWaits_keeps hP h)
      exact setVf_keeps hP.near ht0
    · exact bellAppends_keeps hP.near h

theorem execDoorbell_keeps {vf p value} (h : P s) : InResult P (execDoorbell vf p value s) := by
  unfold execDoorbell
  split
  · exact trivial
  · split
    · exact h
    · split
      · exact setVf_keeps hP.near h
      · exact ringBell_keeps hP h

theorem postHead_keeps {fold l} (h : P s) : P (postHead s fold l) := by
  unfold postHead
  split
  · split
    · exact postMb_keeps hP h
    · exact h
  · exact h

theorem checkHead_keeps {v p} (h : P s) : InOption P (checkHead s v p) := by
  unfold checkHead
  split
  · exact trivial
  · rename_i t0 x1 ht
    have ht0 : P t0 := of_eq (HeadRes.All P) ht (readHead_keeps hP.near h)
    exact reportBad_keeps hP (advanceHead_keeps hP ht0)
  · rename_i t0 x1 ht
    have ht0 : P t0 := of_eq (HeadRes.All P) ht (readHead_keeps hP.near h)
    split
    · exact trivial
    · split
      · exact answer_keeps hP ht0
      · exact postHead_keeps hP (testHead_keeps hP (setLaunch_keeps hP.near ht0))

theorem execHeadCheck_keeps {vf p} (h : P s) : InResult P (execHeadCheck vf p s) := by
  unfold execHeadCheck
  dsimp only
  split
  · exact trivial
  · split
    · exact trivial
    · exact whenDue_keeps (checkHead_keeps hP h)

theorem execDependenceTest_keeps {fold} (h : P s) : InResult P (execDependenceTest fold s) := by
  unfold execDependenceTest
  split
  · exact trivial
  · split
    · exact testHeads_keeps hP h
    · exact trivial

theorem postWave_keeps {f l die wave} (h : P s) : P (postWave s f l die wave) := by
  unfold postWave
  dsimp only
  split
  · exact setFold_keeps hP (postMb_keeps hP h)
  · exact postMb_keeps hP h

theorem startPlacing_keeps {f l image ks} (h : P s) : P (startPlacing s f l image ks) := by
  unfold startPlacing
  dsimp only
  refine iteInduction (motive := P) (fun _ => ?_) (fun _ => ?_)
  · exact foldl_keeps (fun _ _ hu => postWave_keeps hP hu) (setLaunch_keeps hP.near (writeKeys_keeps hP.near (useVas_keeps hP.near (advanceHead_keeps hP h))))
  · exact setLaunch_keeps hP.near (writeKeys_keeps hP.near (useVas_keeps hP.near (advanceHead_keeps hP h)))

/-! ### Launches -/

theorem completeLaunch_keeps {l} (h : P s) : P (completeLaunch s l) :=
  answer_keeps hP h

theorem nodeReport_keeps {l n} (h : P s) : P (nodeReport s l n) := by
  unfold nodeReport
  dsimp only
  split
  · exact setLaunch_keeps hP.near h
  · exact setLaunch_keeps hP.near h
  · exact completeLaunch_keeps hP (setLaunch_keeps hP.near h)

/-! ### DispatchEvents -/

theorem applyMode_keeps {f} (h : P s) : P (applyMode s f) := by
  unfold applyMode
  dsimp only
  split
  · exact foldl_keeps (fun _ _ hu => postHead_keeps hP hu) (hP.dies (setFold_keeps hP h))
  · exact hP.dies (setFold_keeps hP h)

theorem reportSlice_keeps {f vf} (h : P s) : P (reportSlice s f vf) := by
  unfold reportSlice
  dsimp only
  split
  · exact setVf_keeps hP.near (postMb_keeps hP (setFold_keeps hP h))
  · exact postMb_keeps hP (setFold_keeps hP h)

theorem beginSlice_keeps {f vf} (h : P s) : P (beginSlice s f vf) := by
  unfold beginSlice
  dsimp only
  split
  · exact setFold_keeps hP h
  · split
    · exact setFold_keeps hP h
    · exact setFold_keeps hP h

theorem sliceDue_keeps {f} (h : P s) : InOption P (sliceDue s f) := by
  unfold sliceDue
  dsimp only
  split
  · exact trivial
  · split
    · split
      · exact trivial
      · split
        · exact trivial
        · split
          · exact reportSlice_keeps hP (applyMode_keeps hP h)
          · split
            · exact beginSlice_keeps hP (pickVf_keeps hP.near (chargeSlice_keeps hP.near (applyMode_keeps hP h)))
            · exact setFold_keeps hP (pickVf_keeps hP.near (chargeSlice_keeps hP.near (applyMode_keeps hP h)))
    · split
      · exact applyMode_keeps hP h
      · split
        · exact inOption_map fun _ => beginSlice_keeps hP (pickVf_keeps hP.near h)
        · exact trivial

theorem execSliceEnd_keeps {fold} (h : P s) : InResult P (execSliceEnd fold s) := by
  unfold execSliceEnd
  split
  · exact trivial
  · exact whenDue_keeps (sliceDue_keeps hP h)

/-! ### SwitchEvents -/

theorem cancelRounds_keeps {f} (h : P s) : P (cancelRounds s f) :=
  hP.of h ⟨rfl, rfl, rfl, rfl, id⟩

theorem atSwitchTime_keeps {f vf} (h : P s) : P (atSwitchTime s f vf) := by
  unfold atSwitchTime
  dsimp only
  split
  · exact setFold_keeps hP (cancelRounds_keeps hP h)
  · exact cancelRounds_keeps hP h

theorem beginRunning_keeps {f vf} (h : P s) : P (beginRunning s f vf) :=
  setFold_keeps hP h

theorem failRestore_keeps {f vf} (h : P s) : P (failRestore s f vf) :=
  foldl_keeps (fun _ _ hu => answer_keeps hP hu) (logRas_keeps hP h)

/-! ### MeshEvents -/

theorem execPacketHop_keeps {i} (h : P s) : InResult P (execPacketHop i s) :=
  whenDue_keeps (inOption_bind fun _ => hopDue_keeps hP.near h)

theorem hostWriteBytes_keeps {key l} (h : P s) : P (hostWriteBytes s key l) := by
  induction l generalizing s key with
  | nil => exact h
  | cons b t ih =>
    unfold hostWriteBytes
    have hs : P { revokeAt s .home (wordKey key) none with mem := Memory.set (revokeAt s .home (wordKey key) none).mem key b } :=
      hP.of (revokeAt_keeps hP.near h) ⟨rfl, rfl, rfl, rfl, Memory.set_wf key b⟩
    refine ih ?_
    split
    · exact clearPoison_keeps hP.near hs
    · exact hs

theorem performHost_keeps {fold pa op} (h : P s) : P (performHost s fold pa op).1 := by
  unfold performHost
  split
  · exact hostReadBytes_keeps hP.near h
  · exact hostWriteBytes_keeps hP h

theorem landed_keeps {p} (h : P s) : P (landed s p) := by
  unfold landed
  dsimp only
  split
  · split
    · exact h
    · exact respond_keeps hP.near h
  · exact respond_keeps hP.near (performHost_keeps hP h)
  · exact hP.of h ⟨rfl, rfl, rfl, rfl, id⟩

theorem deliverDue_keeps {i p} (h : P s) : InOption P (deliverDue s i p) := by
  unfold deliverDue
  dsimp only
  split
  · exact trivial
  · split
    · exact landed_keeps hP (hP.of h ⟨rfl, rfl, rfl, rfl, id⟩)
    · exact logRas_keeps hP (hP.of h ⟨rfl, rfl, rfl, rfl, id⟩)

theorem execPacketDeliver_keeps {i} (h : P s) : InResult P (execPacketDeliver i s) :=
  whenDue_keeps (inOption_bind fun _ => deliverDue_keeps hP h)

/-! ### ModuleEvents -/

theorem bootTrain_keeps (h : P s) : P (bootTrain s) :=
  setSvc_keeps hP.near (foldl_keeps (fun _ _ hu => logRas_keeps hP hu) h)

theorem bootFrom2_keeps (h : P s) : P (bootFrom2 s) := by
  unfold bootFrom2
  dsimp only
  split
  · exact bootService_keeps hP.near (setSvc_keeps hP.near h)
  · rename_i t0 ht
    have ht0 : P t0 := of_eq (InOption P) ht (bootConfig_keeps hP.near h)
    split
    · exact setSvc_keeps hP.near (bootTrain_keeps hP ht0)
    · exact bootService_keeps hP.near (setSvc_keeps hP.near (bootTrain_keeps hP ht0))

/-! ### ServiceEvents -/

theorem answerServed_keeps {s1 w2 body} (h : P s) (h1 : P s1) : P (answerServed s s1 w2 body) := by
  unfold answerServed
  split
  · exact answerFrame_keeps hP.near (logRas_keeps hP h)
  · exact answerFrame_keeps hP.near h1

theorem serve_keeps {n code fr act} (h : P s) (hact : ∀ u0 a1, P u0 → Served.All P (act u0 a1)) : InResult P (serve n code fr s act) := by
  unfold serve
  dsimp only
  split
  · exact trivial
  · split
    · exact h
    · split
      · exact trivial
      · split
        · exact answerFrame_keeps hP.near h
        · split
          · exact answerFrame_keeps hP.near (recordCount_keeps hP.near h)
          · rename_i t0 x1 ht
            have ht0 : P t0 := of_eq (Served.All P) ht (hact _ _ (recordCount_keeps hP.near h))
            exact answerServed_keeps hP (recordCount_keeps hP.near h) ht0
          · rename_i t0 ht
            have ht0 : P t0 := of_eq (Served.All P) ht (hact _ _ (recordCount_keeps hP.near h))
            exact ht0

theorem servePar_keeps {α : Type} [DecidableEq α] {n code fr} {parse : List Byte → Option α} {x : α} {act : State → Served}
    (h : P s) (hact : ∀ u, P u → (act u).All P) : InResult P (servePar n code fr s parse x act) := by
  unfold servePar
  split
  · trivial
  · refine serve_keeps hP h fun u b hu => ?_
    split
    · trivial
    · exact hact u hu

theorem execFoldnew_keeps {fr b} (h : P s) : InResult P (execFoldnew fr b s) := by
  unfold execFoldnew
  dsimp only
  refine servePar_keeps hP h (fun _ hv0 => ?_)
  split
  · exact trivial
  · exact foldl_keeps (fun _ _ hu => setDieFold_keeps hP.near hu) (setFold_keeps hP hv0)

/-! ### SwitchEvents -/

theorem postHeads_keeps {f} (h : P s) : P (postHeads s f) :=
  foldl_keeps (fun _ _ hu => postHead_keeps hP hu) h

/-! ### ServiceEvents -/

theorem mapHandles_keeps {g} (h : P s) : P (mapHandles s g) :=
  hP.of h ⟨rfl, rfl, rfl, rfl, id⟩

theorem foldset_keeps {α : Type} [DecidableEq α] {name what n fr} {value : List Byte → Option α} {fold} {x : α} {change : Fold → Fold}
    (h : P s) : InResult P (foldset name what n fr value fold x change s) := by
  unfold foldset
  split
  · trivial
  · refine servePar_keeps hP h fun u hu => ?_
    split
    · trivial
    · exact setFold_keeps hP hu

theorem execFoldsetFoldmode_keeps {fr fold mode} (h : P s) : InResult P (execFoldsetFoldmode fr fold mode s) :=
  foldset_keeps hP h

theorem execFoldsetPolicy_keeps {fr fold policy} (h : P s) : InResult P (execFoldsetPolicy fr fold policy s) :=
  foldset_keeps hP h

theorem execFoldsetCodeKey_keeps {fr fold key} (h : P s) : InResult P (execFoldsetCodeKey fr fold key s) :=
  foldset_keeps hP h

theorem execFoldsetWatchdogTimes_keeps {fr fold times} (h : P s) : InResult P (execFoldsetWatchdogTimes fr fold times s) :=
  foldset_keeps hP h

theorem configureVf_keeps {b quantum} (h : P s) : P (configureVf s b quantum) := by
  unfold configureVf
  dsimp only
  refine foldl_keeps (fun _ _ hu => ?_) (hP.of h ⟨rfl, rfl, rfl, rfl, id⟩)
  refine postBlock_keeps hP ?_
  split
  · exact setVf_keeps hP.near (readQueue_keeps hP.near hu)
  · exact readQueue_keeps hP.near hu

theorem execVfset_keeps {fr b} (h : P s) : InResult P (execVfset fr b s) := by
  unfold execVfset
  dsimp only
  refine servePar_keeps hP h (fun _ hv0 => ?_)
  split
  · exact trivial
  · split
    · exact trivial
    · split
      · split
        · exact trivial
        · exact setVf_keeps hP.near hv0
      · split
        · exact trivial
        · exact configureVf_keeps hP hv0

theorem execRct_keeps {fr fold table} (h : P s) : InResult P (execRct fr fold table s) := by
  unfold execRct
  refine servePar_keeps hP h (fun _ hv0 => ?_)
  split
  · exact trivial
  · split
    · exact trivial
    · exact setFold_keeps hP hv0

theorem serveHandle_keeps {name op fr b act} (h : P s) (hact : ∀ u0, P u0 → Served.All P (act u0)) : InResult P (serveHandle name op fr b s act) := by
  unfold serveHandle
  split
  · exact trivial
  · exact servePar_keeps hP h (fun _ hv0 => hact _ hv0)

theorem execHandleExport_keeps {fr b} (h : P s) : InResult P (execHandleExport fr b s) := by
  unfold execHandleExport
  dsimp only
  refine serveHandle_keeps hP h (fun _ hv0 => ?_)
  split
  · exact trivial
  · exact setFold_keeps hP hv0

theorem execHandleInstall_keeps {fr b} (h : P s) : InResult P (execHandleInstall fr b s) := by
  unfold execHandleInstall
  dsimp only
  split
  · exact trivial
  · refine serveHandle_keeps hP h (fun _ hv0 => ?_)
    split
    · exact trivial
    · split
      · exact trivial
      · split
        · exact setFold_keeps hP hv0
        · split
          · exact trivial
          · split
            · exact trivial
            · exact mapHandles_keeps hP hv0

theorem execHandleRevoke_keeps {fr b} (h : P s) : InResult P (execHandleRevoke fr b s) := by
  unfold execHandleRevoke
  refine serveHandle_keeps hP h (fun _ hv0 => ?_)
  split
  · exact trivial
  · split
    · exact trivial
    · exact mapHandles_keeps hP hv0

/-! ### ModuleEvents -/

theorem execSnapshot_keeps {fr vf} (h : P s) : InResult P (execSnapshot fr vf s) := by
  unfold execSnapshot
  refine servePar_keeps hP h (fun _ hv0 => ?_)
  split
  · exact trivial
  · exact startJob_keeps hP.near hv0

theorem execMigrate_keeps {fr vf destFold delta endpoint destOk} (h : P s) : InResult P (execMigrate fr vf destFold delta endpoint destOk s) := by
  unfold execMigrate
  refine servePar_keeps hP h (fun _ hv0 => ?_)
  split
  · exact trivial
  · split
    · exact trivial
    · split
      · exact trivial
      · exact startJob_keeps hP.near hv0

/-! ### ServiceEvents -/

theorem execStage_keeps {fr image} (h : P s) : InResult P (execStage fr image s) := by
  unfold execStage
  dsimp only
  refine servePar_keeps hP h (fun _ hv0 => ?_)
  split
  · exact trivial
  · exact setSvc_keeps hP.near hv0

theorem execCommit_keeps {fr kind} (h : P s) : InResult P (execCommit fr kind s) := by
  unfold execCommit
  dsimp only
  refine servePar_keeps hP h (fun _ hv0 => ?_)
  split
  · exact trivial
  · split
    · exact trivial
    · exact setSvc_keeps hP.near hv0

theorem execIdentity_keeps {fr} (h : P s) : InResult P (execIdentity fr s) :=
  servePar_keeps hP h (fun _ hv0 => hv0)

theorem execQuote_keeps {fr nonce} (h : P s) : InResult P (execQuote fr nonce s) :=
  servePar_keeps hP h (fun _ hv0 => hv0)

theorem execTelemetry_keeps {fr first} (h : P s) : InResult P (execTelemetry fr first s) :=
  servePar_keeps hP h (fun _ hv0 => hv0)

theorem execRaslog_keeps {fr first} (h : P s) : InResult P (execRaslog fr first s) :=
  servePar_keeps hP h (fun _ hv0 => hv0)

/-! ### ModuleEvents -/

theorem installLeaf_keeps {fold va leaf ls base pool} (h : P s) : P (installLeaf fold va leaf ls s base pool).1 := by
  induction ls generalizing s base pool with
  | nil => exact h
  | cons l rest ih =>
    unfold installLeaf
    dsimp only
    split
    · exact homeWriteWords_keeps hP.near (homeRead8_keeps hP.near h)
    · split
      · exact ih (homeRead8_keeps hP.near h)
      · exact ih (homeWriteWords_keeps hP.near (hP.of (homeRead8_keeps hP.near h) ⟨rfl, rfl, rfl, rfl, Memory.clear_wf _ _⟩))

theorem placePart_keeps {b page key x} (h : P s) : P (placePart b page key s x) := by
  unfold placePart
  dsimp only
  split
  · exact hostWriteBytes_keeps hP h
  · exact h

theorem loadPage_keeps {b v st x} (h : P (st).1) : P (loadPage b v st x).1 :=
  installLeaf_keeps hP (foldl_keeps (fun _ _ hu => placePart_keeps hP hu) h)

/-! ### ServiceEvents -/

theorem execKeyadd_keeps {fr keyid key} (h : P s) : InResult P (execKeyadd fr keyid key s) := by
  unfold execKeyadd
  refine servePar_keeps hP h (fun _ hv0 => ?_)
  split
  · exact trivial
  · exact setKey_keeps hP.near hv0

theorem execKeydel_keeps {fr keyid} (h : P s) : InResult P (execKeydel fr keyid s) := by
  unfold execKeydel
  refine servePar_keeps hP h (fun _ hv0 => ?_)
  split
  · exact trivial
  · split
    · exact trivial
    · exact setKey_keeps hP.near hv0

/-! ### PageEvents -/

theorem consumeMsg_keeps {f} (h : P s) : P (consumeMsg s f) :=
  setFold_keeps hP h

theorem ignoreMsg_keeps {f kind vf a} (h : P s) : P (ignoreMsg s f kind vf a) :=
  postMb_keeps hP (consumeMsg_keeps hP h)

theorem execPgdone_keeps {fold vf va answer} (h : P s) : InResult P (execPgdone fold vf va answer s) := by
  unfold execPgdone
  dsimp only
  split
  · exact trivial
  · split
    · exact ignoreMsg_keeps hP h
    · split
      · exact dropReq_keeps hP.near (consumeMsg_keeps hP h)
      · exact refuseReq_keeps hP.near (consumeMsg_keeps hP h)

theorem execCowdone_keeps {fold vf va} (h : P s) : InResult P (execCowdone fold vf va s) := by
  unfold execCowdone
  dsimp only
  split
  · exact trivial
  · split
    · exact ignoreMsg_keeps hP h
    · split
      · exact ignoreMsg_keeps hP h
      · exact setVf_keeps hP.near (dropCow_keeps hP.near (dropTlbVa_keeps hP.near (consumeMsg_keeps hP h)))

/-! ### DispatchEvents -/

theorem execNextvf_keeps {fold vf} (h : P s) : InResult P (execNextvf fold vf s) := by
  unfold execNextvf
  dsimp only
  split
  · exact trivial
  · split
    · refine beginSlice_keeps hP ?_
      split
      · exact setVf_keeps hP.near (consumeMsg_keeps hP h)
      · exact consumeMsg_keeps hP h
    · exact ignoreMsg_keeps hP h

theorem execStart_keeps {fold lid} (h : P s) : InResult P (execStart fold lid s) := by
  unfold execStart
  dsimp only
  split
  · exact trivial
  · split
    · exact setFold_keeps hP (consumeMsg_keeps hP h)
    · exact ignoreMsg_keeps hP h

theorem execRefuse_keeps {fold lid status} (h : P s) : InResult P (execRefuse fold lid status s) := by
  unfold execRefuse
  dsimp only
  split
  · exact trivial
  · split
    · exact ignoreMsg_keeps hP h
    · split
      · exact setFold_keeps hP (answer_keeps hP (consumeMsg_keeps hP h))
      · split
        · exact setFold_keeps hP (answer_keeps hP (consumeMsg_keeps hP h))
        · exact ignoreMsg_keeps hP h

theorem execPlacego_keeps {fold lid die wave} (h : P s) : InResult P (execPlacego fold lid die wave s) := by
  unfold execPlacego
  dsimp only
  split
  · exact trivial
  · split
    · exact ignoreMsg_keeps hP h
    · split
      · exact setLaunch_keeps hP.near (setFold_keeps hP (consumeMsg_keeps hP h))
      · exact ignoreMsg_keeps hP h

theorem postWaiting_keeps {y0 y1 y2} (h : P y1) : P (postWaiting y0 y1 y2) := by
  induction y0 generalizing y1 y2 with
  | zero => exact h
  | succ n ih =>
    unfold postWaiting
    dsimp only
    split
    · exact h
    · split
      · exact h
      · split
        · exact ih (setFold_keeps hP (postMb_keeps hP (setFold_keeps hP h)))
        · exact h

theorem execD2hheadWrite_keeps {fold value} (h : P s) : InResult P (execD2hheadWrite fold value s) := by
  unfold execD2hheadWrite
  dsimp only
  split
  · exact trivial
  · split
    · exact h
    · exact postWaiting_keeps hP (setFold_keeps hP h)

/-! ### ModuleEvents -/

theorem setStage_keeps {f n} (h : P s) : P (setStage s f n) :=
  setFold_keeps hP h

theorem execDrvbeatWrite_keeps {die value} (h : P s) : InResult P (execDrvbeatWrite die value s) := by
  unfold execDrvbeatWrite
  dsimp only
  split
  · exact trivial
  · split
    · split
      · exact setStage_keeps hP (setDie_keeps hP.near h)
      · exact setDie_keeps hP.near h
    · exact setDie_keeps hP.near h

theorem mailboxWrite_keeps {fold offset value} (h : P s) : InResult P (mailboxWrite s fold offset value) := by
  unfold mailboxWrite
  split
  · exact execD2hheadWrite_keeps hP h
  · split
    · exact h
    · split
      · exact setFold_keeps hP h
      · split
        · split
          · exact h
          · exact setFold_keeps hP h
        · split
          · exact setFold_keeps hP h
          · exact h

theorem execRegisterWrite_keeps {r value} (h : P s) : InResult P (execRegisterWrite r value s) := by
  unfold execRegisterWrite
  dsimp only
  split
  · split
    · exact execDoorbell_keeps hP h
    · split
      · exact execQovfClear_keeps hP.near h
      · exact h
  · exact managementWrite_keeps hP.near h
  · exact mailboxWrite_keeps hP h
  · split
    · exact execDrvbeatWrite_keeps hP h
    · split
      · exact setDie_keeps hP.near h
      · exact h

/-! ### MeshEvents -/

theorem execSoftError_keeps {key} (h : P s) : InResult P (execSoftError key s) :=
  logRas_keeps hP h

theorem hostPart_keeps {f op pa x} (h : P s) : P (hostPart f op pa s x) := by
  unfold hostPart
  dsimp only
  split
  · exact hP.of h ⟨rfl, rfl, rfl, rfl, id⟩
  · exact hP.hostRead (performHost_keeps hP h)

theorem execHostAccess_keeps {fold pa op} (h : P s) : InResult P (execHostAccess fold pa op s) := by
  unfold execHostAccess
  dsimp only
  split
  · exact trivial
  · refine iteInduction (motive := InResult P) (fun _ => ?_) (fun _ => ?_)
    · exact trivial
    · exact foldl_keeps (fun _ _ hu => hostPart_keeps hP hu) (hP.of h ⟨rfl, rfl, rfl, rfl, id⟩)

/-! ### ServiceEvents -/

theorem execUnknownCode_keeps {fr} (h : P s) : InResult P (execUnknownCode fr s) := by
  unfold execUnknownCode
  dsimp only
  split
  · exact trivial
  · exact serve_keeps hP h (fun _ _ hv0 => trivial)

/-! ### CoreEvents -/

omit hP in
theorem nextOf_keeps {r} (h : InResult P r) : InOption P (nextOf r) := by
  unfold nextOf
  split
  · exact h
  · trivial

/-! ### ModuleEvents -/

theorem serveParsed_keeps {α : Type} {x : Option α} {fr} {act : α → Result} (h : P s) (hact : ∀ a, InResult P (act a)) :
    InResult P (serveParsed x fr s act) := by
  unfold serveParsed
  split
  · exact hact _
  · exact serve_keeps hP h fun u b hu => trivial

theorem serveFoldset_keeps {fr} (h : P s) : InResult P (serveFoldset fr s) := by
  unfold serveFoldset
  dsimp only
  split
  · exact serveParsed_keeps hP h (fun _ => execFoldsetPolicy_keeps hP h)
  · exact serveParsed_keeps hP h (fun _ => execFoldsetCodeKey_keeps hP h)
  · exact serveParsed_keeps hP h (fun _ => execFoldsetWatchdogTimes_keeps hP h)
  · exact serveParsed_keeps hP h (fun _ => execFoldsetFoldmode_keeps hP h)

theorem serveHandleFrame_keeps {fr} (h : P s) : InResult P (serveHandleFrame fr s) := by
  unfold serveHandleFrame
  dsimp only
  split
  · exact serveParsed_keeps hP h (fun _ => execHandleInstall_keeps hP h)
  · exact serveParsed_keeps hP h (fun _ => execHandleRevoke_keeps hP h)
  · exact serveParsed_keeps hP h (fun _ => execHandleExport_keeps hP h)

theorem askSwitch_keeps {f j stage} (h : P s) : P (askSwitch s f j stage) :=
  setJob_keeps hP.near (setFold_keeps hP h)

/-! ### DispatchEvents -/

theorem bellsDue_keeps {v} (h : P s) : InOption P (bellsDue s v) := by
  unfold bellsDue
  split
  · exact trivial
  · split
    · rename_i t0 ht
      have ht0 : P t0 := of_eq (InOption P) ht (appendWaits_keeps hP h)
      split
      · exact trivial
      · exact ht0
    · exact bellAppends_keeps hP.near (setVf_keeps hP.near h)

theorem copiedFirst_keeps {vf vas act} (h : P s) (h1 : P act) : InOption P (copiedFirst s vf vas act) := by
  unfold copiedFirst
  split
  · rename_i t0 ht
    have ht0 : P t0 := of_eq (InOption P) ht (askCopies_keeps hP h)
    split
    · exact trivial
    · exact ht0
  · exact h1

theorem blocksDue_keeps {v} (h : P s) : InOption P (blocksDue s v) :=
  inOption_findSome fun _ => copiedFirst_keeps hP h (postBlock_keeps hP h)

/-! ### Schedule -/

theorem blockWritesDue_keeps (h : P s) : InOption P (blockWritesDue s) :=
  inOption_findSome fun _ => firstOf_cons (bellsDue_keeps hP h) (firstOf_cons (blocksDue_keeps hP h) firstOf_nil)

/-! ### DispatchEvents -/

theorem recordsDue_keeps (h : P s) : InOption P (recordsDue s) := by
  unfold recordsDue
  refine inOption_findSome fun _ => ?_
  split
  · split
    · exact copiedFirst_keeps hP h (answerNow_keeps hP h)
    · exact trivial
  · split
    · exact copiedFirst_keeps hP h (writeTriggered_keeps hP h)
    · exact trivial

/-! ### Schedule -/

theorem headsDue_keeps (h : P s) : InOption P (headsDue s) := by
  unfold headsDue
  refine inOption_findSome fun _ => ?_
  refine inOption_findSome fun _ => ?_
  split
  · exact nextOf_keeps (execHeadCheck_keeps hP h)
  · exact trivial

theorem testsDue_keeps (h : P s) : InOption P (testsDue s) := by
  unfold testsDue
  refine inOption_findSome fun _ => ?_
  split
  · exact nextOf_keeps (execDependenceTest_keeps hP h)
  · exact trivial

theorem packetsDue_keeps (h : P s) : InOption P (packetsDue s) :=
  inOption_findSome fun _ => firstOf_cons (nextOf_keeps (execPacketDeliver_keeps hP h)) (firstOf_cons (nextOf_keeps
    (execPacketHop_keeps hP h)) firstOf_nil)

/-! ### ServiceEvents -/

theorem changeSaveMax_keeps {fold us} (h : P s) : P (changeSaveMax s fold us) := by
  unfold changeSaveMax
  dsimp only
  split
  · exact h
  · exact foldl_keeps (fun _ _ hu => logRas_keeps hP (setVf_keeps hP.near hu)) (setFold_keeps hP h)

end

end Sys2Proof.Machine

namespace Sys2Proof.Machine

/-! ## Every act keeps the canonical form of memory (log 3) -/

section
variable {s : State}

/-- The canonical form speaks of memory alone. -/
theorem mk_canon {now core others clusters dies folds vfs launches mem poison words lines writeBacks tlb pageReqs parked locks svScopes svTests fabric packets grants svc ras hostRead inputs pace freeCtr} (h : Memory.wf mem = true) :
    MemoryCanonical ⟨now, core, others, clusters, dies, folds, vfs, launches, mem, poison, words, lines, writeBacks, tlb, pageReqs, parked, locks, svScopes, svTests, fabric, packets, grants, svc, ras, hostRead, inputs, pace, freeCtr⟩ := h

/-! ### Regs -/

theorem tick_canon (h : MemoryCanonical s) : MemoryCanonical (tick s) :=
  h

/-! ### Schedule -/

theorem clock_canon {r} (h : InResult MemoryCanonical r) : InResult MemoryCanonical (clock r) := by
  unfold clock
  split
  · rename_i t0
    have ht0 : MemoryCanonical t0 := h
    exact tick_canon ht0
  · exact h

/-! ### Regs -/

theorem setQ_canon {q} (h : MemoryCanonical s) : MemoryCanonical (setQ s q) :=
  h

/-! ### Frames -/

theorem noteRemote_canon {va} (h : MemoryCanonical s) : MemoryCanonical (noteRemote s va) := by
  unfold noteRemote
  dsimp only
  split
  · exact setQ_canon h
  · exact h

theorem foldIntoParent_canon {vf parent op n v} (h : MemoryCanonical s) : MemoryCanonical (foldIntoParent s vf parent op n v) := by
  unfold foldIntoParent
  dsimp only
  split
  · split
    · exact foldAtLoc_keeps canonKept.near (noteRemote_canon h)
    · exact noteRemote_canon h
  · split
    · exact foldAtLoc_keeps canonKept.near (noteRemote_canon h)
    · exact noteRemote_canon h

/-! ### Regs -/

theorem setCoreAt_canon {c} (h : MemoryCanonical s) : MemoryCanonical (setCoreAt s c) := by
  unfold setCoreAt
  split
  · exact h
  · exact h

/-! ### Frames -/

theorem freeFrame_canon {vf w2} (h : MemoryCanonical s) : MemoryCanonical (freeFrame s vf w2) := by
  unfold freeFrame
  dsimp only
  split
  · exact setCoreAt_canon h
  · exact h

theorem retireFrom_canon {y0 y1 y2 y3} (h : MemoryCanonical y1) : MemoryCanonical (retireFrom y0 y1 y2 y3) := by
  induction y0 generalizing y1 y2 y3 with
  | zero => exact h
  | succ n ih =>
    unfold retireFrom
    dsimp only
    split
    · refine release_keeps canonKept.near ?_
      split
      · exact foldIntoParent_canon (frameRead_keeps canonKept.near (frameState_keeps canonKept.near (frameRead_keeps canonKept.near (frameRead_keeps canonKept.near h))))
      · exact frameState_keeps canonKept.near (frameRead_keeps canonKept.near (frameRead_keeps canonKept.near h))
    · refine iteInduction (motive := MemoryCanonical) (fun _ => ?_) (fun _ => ?_)
      · refine ih ?_
        refine freeFrame_canon ?_
        refine frameWrite_keeps canonKept.near ?_
        refine frameState_keeps canonKept.near ?_
        refine noteRemote_canon ?_
        refine release_keeps canonKept.near ?_
        split
        · exact foldIntoParent_canon (frameRead_keeps canonKept.near (frameState_keeps canonKept.near (frameRead_keeps canonKept.near
          (frameRead_keeps canonKept.near h))))
        · exact frameState_keeps canonKept.near (frameRead_keeps canonKept.near (frameRead_keeps canonKept.near h))
      · refine freeFrame_canon ?_
        refine frameWrite_keeps canonKept.near ?_
        refine frameState_keeps canonKept.near ?_
        refine noteRemote_canon ?_
        refine release_keeps canonKept.near ?_
        split
        · exact foldIntoParent_canon (frameRead_keeps canonKept.near (frameState_keeps canonKept.near (frameRead_keeps canonKept.near
          (frameRead_keeps canonKept.near h))))
        · exact frameState_keeps canonKept.near (frameRead_keeps canonKept.near (frameRead_keeps canonKept.near h))

theorem childDone_canon {vf parent sc} (h : MemoryCanonical s) : MemoryCanonical (childDone s vf parent sc) := by
  unfold childDone
  dsimp only
  split
  · exact retireFrom_canon (frameWrite_keeps canonKept.near (frameState_keeps canonKept.near h))
  · exact frameWrite_keeps canonKept.near (frameState_keeps canonKept.near h)

/-! ### Ops -/

theorem childrenDone_canon {y0 y1 y2 y3} (h : MemoryCanonical y1) : MemoryCanonical (childrenDone y0 y1 y2 y3) := by
  induction y0 generalizing y1 y2 y3 with
  | zero => exact h
  | succ n ih => exact ih (childDone_canon h)

theorem endUnstarted_canon {l c} (h : MemoryCanonical s) : MemoryCanonical (endUnstarted s l c) := by
  unfold endUnstarted
  dsimp only
  split
  · exact h
  · refine neverStarted_keeps canonKept ?_
    split
    · exact childrenDone_canon (setLaunch_keeps canonKept.near h)
    · exact childDone_canon (setLaunch_keeps canonKept.near h)

theorem killNode_canon {lid n} (h : MemoryCanonical s) : MemoryCanonical (killNode s lid n) := by
  unfold killNode
  dsimp only
  split
  · exact h
  · split
    · exact h
    · split
      · rename_i t0 ht
        have ht0 : MemoryCanonical t0 := by
          refine of_eq (InOption MemoryCanonical) ht ?_
          refine launchCopies_keeps canonKept ?_
          cases n with
          | cluster c => exact markCluster_keeps canonKept.near h
          | root => exact h
          | die m => exact h
        exact ht0
      · refine killActed_keeps canonKept.near ?_
        cases n with
        | cluster c => exact endUnstarted_canon (markCluster_keeps canonKept.near h)
        | root => exact setKill_keeps canonKept.near h
        | die m => exact h

theorem killNodes_canon {lid ns} (h : MemoryCanonical s) : MemoryCanonical (killNodes s lid ns) := by
  unfold killNodes
  split
  · exact h
  · exact foldl_keeps (fun _ _ hu => killNode_canon hu) (setLaunch_keeps canonKept.near h)

theorem killLaunch_canon {lid} (h : MemoryCanonical s) : MemoryCanonical (killLaunch s lid) := by
  unfold killLaunch
  split
  · exact h
  · exact killNodes_canon (setLaunch_keeps canonKept.near h)

/-! ### Regs -/

theorem setSync_canon {y} (h : MemoryCanonical s) : MemoryCanonical (setSync s y) :=
  h

/-! ### Ops -/

theorem killVf_canon {vf} (h : MemoryCanonical s) : MemoryCanonical (killVf s vf) := by
  unfold killVf
  dsimp only
  refine foldl_keeps (fun _ _ hu => ?_) (foldl_keeps (fun _ _ hu => killLaunch_canon hu) h)
  split
  · exact answerQueue_keeps canonKept hu
  · exact hu

theorem applyPolicy_canon {fold lid vf policy} (h : MemoryCanonical s) : MemoryCanonical (applyPolicy s fold lid vf policy) := by
  unfold applyPolicy
  split
  · exact killLaunch_canon h
  · split
    · exact killVf_canon h
    · exact h

theorem foldPolicy_canon {code v pc} (h : MemoryCanonical s) : MemoryCanonical (foldPolicy s code v pc) := by
  unfold foldPolicy
  dsimp only
  split
  · exact killLaunch_canon h
  · split
    · exact setSync_canon (postMb_keeps canonKept (setFold_keeps canonKept h))
    · split
      · exact setSync_canon (noteCmd_keeps canonKept.near h)
      · exact applyPolicy_canon h

theorem notify_canon {parent} (h : MemoryCanonical s) : MemoryCanonical (notify s parent) := by
  unfold notify
  dsimp only
  split
  · split
    · exact h
    · exact setCoreAt_canon h
  · exact h

theorem kill_canon {w1} (h : MemoryCanonical s) : MemoryCanonical (kill s w1) := by
  unfold kill
  dsimp only
  split
  · exact killLaunch_canon h
  · split
    · exact killNodes_canon h
    · exact notify_canon (setKill_keeps canonKept.near h)

theorem climb_canon {y0 y1 y2 y3 y4 y5 y6} (h : MemoryCanonical y1) : MemoryCanonical (climb y0 y1 y2 y3 y4 y5 y6) := by
  induction y0 generalizing y1 y2 y3 y4 y5 y6 with
  | zero => exact foldPolicy_canon h
  | succ n ih =>
    unfold climb
    dsimp only
    split
    · split
      · exact foldPolicy_canon (seenTmpl_keeps canonKept.near h)
      · exact ih (seenTmpl_keeps canonKept.near h)
    · split
      · exact kill_canon (seenTmpl_keeps canonKept.near h)
      · exact kill_canon (seenTmpl_keeps canonKept.near h)

/-! ### Regs -/

theorem setRegs_canon {r} (h : MemoryCanonical s) : MemoryCanonical (setRegs s r) :=
  h

theorem setPc_canon {pc} (h : MemoryCanonical s) : MemoryCanonical (setPc s pc) :=
  setRegs_canon h

theorem setX_canon {r v} (h : MemoryCanonical s) : MemoryCanonical (setX s r v) := by
  unfold setX
  dsimp only
  split
  · exact h
  · exact setRegs_canon h

theorem setVec_canon {v} (h : MemoryCanonical s) : MemoryCanonical (setVec s v) :=
  h

/-! ### Ops -/

theorem clearDest_canon {pc only} (h : MemoryCanonical s) : MemoryCanonical (clearDest s pc only) := by
  unfold clearDest
  dsimp only
  split
  · exact h
  · split
    · exact setX_canon h
    · split
      · exact h
      · exact setVec_canon h
    · split
      · exact h
      · exact setVec_canon h
    · exact h

theorem dropOrphans_canon (h : MemoryCanonical s) : MemoryCanonical (dropOrphans s) :=
  setQ_canon h

theorem ignore_canon {code pc contain} (h : MemoryCanonical s) : MemoryCanonical (ignore s code pc contain) := by
  unfold ignore
  dsimp only
  split
  · exact setPc_canon h
  · split
    · exact setPc_canon h
    · split
      · exact setPc_canon h
      · split
        · exact setPc_canon (dropOrphans_canon (setRegs_canon (clearDest_canon h)))
        · exact setPc_canon (clearDest_canon h)

theorem retryAt_canon {pc} (h : MemoryCanonical s) : MemoryCanonical (retryAt s pc) :=
  setPc_canon (setSync_canon h)

theorem containAs_canon {code v pc contain} (h : MemoryCanonical s) : MemoryCanonical (containAs s code v pc contain) := by
  unfold containAs
  dsimp only
  split
  · exact foldPolicy_canon (reportFault_keeps canonKept.near h)
  · split
    · exact climb_canon (reportFault_keeps canonKept.near h)
    · split
      · exact ignore_canon (reportFault_keeps canonKept.near h)
      · split
        · exact retryAt_canon (reportFault_keeps canonKept.near h)
        · exact kill_canon (reportFault_keeps canonKept.near h)

/-! ### Regs -/

theorem setTrap_canon {t} (h : MemoryCanonical s) : MemoryCanonical (setTrap s t) :=
  h

/-! ### Ops -/

theorem trapEntry_canon {code int v pc} (h : MemoryCanonical s) : MemoryCanonical (trapEntry s code int v pc) := by
  unfold trapEntry
  dsimp only
  split
  · exact containAs_canon (setPc_canon h)
  · exact setRegs_canon (setTrap_canon h)

theorem restoreReplaced_canon {i} (h : MemoryCanonical s) : MemoryCanonical (restoreReplaced s i) := by
  unfold restoreReplaced
  dsimp only
  split
  · exact setVec_canon h
  · exact setVec_canon h
  · exact setVec_canon h
  · exact setVec_canon h
  · exact setRegs_canon h

theorem undoAhead_canon {e} (h : MemoryCanonical s) : MemoryCanonical (undoAhead s e) := by
  unfold undoAhead
  split
  · exact foldl_keeps (fun _ _ hu => restoreReplaced_canon hu) h
  · exact h

/-! ### Frames -/

theorem syncLive_canon (h : MemoryCanonical s) : MemoryCanonical (syncLive s) := by
  unfold syncLive
  dsimp only
  split
  · exact setRegs_canon h
  · exact h

/-! ### Ops -/

theorem restoreItem_canon {i} (h : MemoryCanonical s) : MemoryCanonical (restoreItem s i) := by
  unfold restoreItem
  dsimp only
  split
  · exact setX_canon h
  · exact setRegs_canon h
  · exact setRegs_canon h
  · exact h
  · exact syncLive_canon (setRegs_canon h)
  · exact setRegs_canon h

theorem rollback_canon {e keepLanes} (h : MemoryCanonical s) : MemoryCanonical (rollback s e keepLanes) :=
  setRegs_canon (setQ_canon (foldl_keeps (fun _ _ hu => restoreItem_canon hu) (foldl_keeps (fun _ _ hu => undoAhead_canon hu) h)))

/-! ### Queue -/

theorem trapHead_canon {e t keep} (h : MemoryCanonical s) : MemoryCanonical (trapHead s e t keep) :=
  trapEntry_canon (endRefusals_keeps canonKept.near (rollback_canon h))

/-! ### Ops -/

theorem settleUses_canon (h : MemoryCanonical s) : MemoryCanonical (settleUses s) := by
  unfold settleUses
  dsimp only
  split
  · exact h
  · exact foldl_keeps (fun _ _ hu => setUsedFrom_keeps canonKept.near hu) (setQ_canon h)

theorem settleRetry_canon (h : MemoryCanonical s) : MemoryCanonical (settleRetry s) := by
  unfold settleRetry
  dsimp only
  split
  · exact setSync_canon (setQ_canon h)
  · exact h

theorem freeUndo_canon (h : MemoryCanonical s) : MemoryCanonical (freeUndo s) := by
  unfold freeUndo
  dsimp only
  split
  · exact h
  · exact setRegs_canon (setQ_canon h)

/-! ### Queue -/

theorem completeHead_canon {e} (h : MemoryCanonical s) : MemoryCanonical (completeHead s e) := by
  unfold completeHead
  dsimp only
  refine settleUses_canon ?_
  refine settleRetry_canon ?_
  refine freeUndo_canon ?_
  refine setRegs_canon ?_
  refine iteInduction (motive := MemoryCanonical) (fun _ => ?_) (fun _ => ?_)
  · exact setSync_canon (setQ_canon (endRefusals_keeps canonKept.near h))
  · exact setQ_canon (endRefusals_keeps canonKept.near h)

/-! ### VecOps -/

theorem raiseFlags_canon {f} (h : MemoryCanonical s) : MemoryCanonical (raiseFlags s f) :=
  setRegs_canon h

/-! ### Queue -/

theorem takeHeld_canon {a} (h : MemoryCanonical s) : MemoryCanonical (takeHeld s a) := by
  unfold takeHeld
  dsimp only
  split
  · exact setX_canon (raiseFlags_canon h)
  · exact raiseFlags_canon h

/-! ### VecOps -/

theorem takeDraws_canon {e n} (h : MemoryCanonical s) : MemoryCanonical (takeDraws s e n).1 := by
  unfold takeDraws
  dsimp only
  split
  · exact setRegs_canon h
  · exact h

theorem pushSdq_canon {e v} (h : MemoryCanonical s) : MemoryCanonical (pushSdq s e v) :=
  setQ_canon h

theorem setV_canon {r v} (h : MemoryCanonical s) : MemoryCanonical (setV s r v) :=
  setVec_canon h

theorem writeLanes_canon {e d w active new} (h : MemoryCanonical s) : MemoryCanonical (writeLanes s e d w active new) := by
  unfold writeLanes
  dsimp only
  split
  · exact pushSdq_canon h
  · exact setV_canon h

theorem laneEffect_canon {e d w f} (h : MemoryCanonical s) : RunRes.All MemoryCanonical (laneEffect s e d w f) :=
  raiseFlags_canon (writeLanes_canon (takeDraws_canon h))

/-! ### VecArith -/

theorem effBinary_canon {e d a b x ff fi} (h : MemoryCanonical s) : RunRes.All MemoryCanonical (effBinary s e d a b x ff fi) := by
  unfold effBinary
  dsimp only
  split
  · exact laneEffect_canon h
  · exact laneEffect_canon h

theorem effVadd_canon {e d a b x} (h : MemoryCanonical s) : RunRes.All MemoryCanonical (effVadd e d a b x s) :=
  effBinary_canon h

theorem effVsub_canon {e d a b x} (h : MemoryCanonical s) : RunRes.All MemoryCanonical (effVsub e d a b x s) :=
  effBinary_canon h

theorem effVmul_canon {e d a b x} (h : MemoryCanonical s) : RunRes.All MemoryCanonical (effVmul e d a b x s) :=
  effBinary_canon h

theorem effFused_canon {e d a b x negProd negAdd} (h : MemoryCanonical s) : RunRes.All MemoryCanonical (effFused s e d a b x negProd negAdd) := by
  unfold effFused
  dsimp only
  split
  · exact laneEffect_canon h
  · exact laneEffect_canon h

theorem effVfma_canon {e d a b x} (h : MemoryCanonical s) : RunRes.All MemoryCanonical (effVfma e d a b x s) :=
  effFused_canon h

theorem effVfms_canon {e d a b x} (h : MemoryCanonical s) : RunRes.All MemoryCanonical (effVfms e d a b x s) :=
  effFused_canon h

theorem effVfnma_canon {e d a b x} (h : MemoryCanonical s) : RunRes.All MemoryCanonical (effVfnma e d a b x s) :=
  effFused_canon h

theorem effOrder_canon {e d a b x ff fi} (h : MemoryCanonical s) : RunRes.All MemoryCanonical (effOrder s e d a b x ff fi) := by
  unfold effOrder
  dsimp only
  split
  · exact laneEffect_canon h
  · exact laneEffect_canon h

theorem effVmin_canon {e d a b x} (h : MemoryCanonical s) : RunRes.All MemoryCanonical (effVmin e d a b x s) :=
  effOrder_canon h

theorem effVmax_canon {e d a b x} (h : MemoryCanonical s) : RunRes.All MemoryCanonical (effVmax e d a b x s) :=
  effOrder_canon h

theorem effSign_canon {e d a ff fi} (h : MemoryCanonical s) : RunRes.All MemoryCanonical (effSign s e d a ff fi) := by
  unfold effSign
  dsimp only
  split
  · exact laneEffect_canon h
  · exact laneEffect_canon h

theorem effVabs_canon {e d a} (h : MemoryCanonical s) : RunRes.All MemoryCanonical (effVabs e d a s) :=
  effSign_canon h

theorem effVneg_canon {e d a} (h : MemoryCanonical s) : RunRes.All MemoryCanonical (effVneg e d a s) :=
  effSign_canon h

theorem effVdiv_canon {e d a b x} (h : MemoryCanonical s) : RunRes.All MemoryCanonical (effVdiv e d a b x s) :=
  effBinary_canon h

theorem effVsqrt_canon {e d a} (h : MemoryCanonical s) : RunRes.All MemoryCanonical (effVsqrt e d a s) := by
  unfold effVsqrt
  exact laneEffect_canon h

theorem effApprox_canon {e d a op} (h : MemoryCanonical s) : RunRes.All MemoryCanonical (effApprox s e d a op) := by
  unfold effApprox
  exact laneEffect_canon h

theorem effVrcp_canon {e d a} (h : MemoryCanonical s) : RunRes.All MemoryCanonical (effVrcp e d a s) :=
  effApprox_canon h

theorem effVrsq_canon {e d a} (h : MemoryCanonical s) : RunRes.All MemoryCanonical (effVrsq e d a s) :=
  effApprox_canon h

theorem effVexp2_canon {e d a} (h : MemoryCanonical s) : RunRes.All MemoryCanonical (effVexp2 e d a s) :=
  effApprox_canon h

theorem effVlog2_canon {e d a} (h : MemoryCanonical s) : RunRes.All MemoryCanonical (effVlog2 e d a s) :=
  effApprox_canon h

theorem effBits_canon {e d a b x f} (h : MemoryCanonical s) : RunRes.All MemoryCanonical (effBits s e d a b x f) :=
  laneEffect_canon h

theorem effVand_canon {e d a b x} (h : MemoryCanonical s) : RunRes.All MemoryCanonical (effVand e d a b x s) :=
  effBits_canon h

theorem effVor_canon {e d a b x} (h : MemoryCanonical s) : RunRes.All MemoryCanonical (effVor e d a b x s) :=
  effBits_canon h

theorem effVxor_canon {e d a b x} (h : MemoryCanonical s) : RunRes.All MemoryCanonical (effVxor e d a b x s) :=
  effBits_canon h

theorem effVsll_canon {e d a b x} (h : MemoryCanonical s) : RunRes.All MemoryCanonical (effVsll e d a b x s) :=
  effBits_canon h

theorem effVsrl_canon {e d a b x} (h : MemoryCanonical s) : RunRes.All MemoryCanonical (effVsrl e d a b x s) :=
  effBits_canon h

theorem effVsra_canon {e d a b x} (h : MemoryCanonical s) : RunRes.All MemoryCanonical (effVsra e d a b x s) :=
  effBits_canon h

/-! ### VecOps -/

theorem setK_canon {n v} (h : MemoryCanonical s) : MemoryCanonical (setK s n v) := by
  unfold setK
  dsimp only
  split
  · exact h
  · exact setVec_canon h

/-! ### VecArith -/

theorem effVcmp_canon {e d a b x c} (h : MemoryCanonical s) : RunRes.All MemoryCanonical (effVcmp e d a b x c s) :=
  raiseFlags_canon (setK_canon h)

theorem effVsel_canon {e d a b x k} (h : MemoryCanonical s) : RunRes.All MemoryCanonical (effVsel e d a b x k s) :=
  laneEffect_canon h

/-! ### VecOps -/

theorem setScales_canon {r sc} (h : MemoryCanonical s) : MemoryCanonical (setScales s r sc) :=
  setVec_canon h

/-! ### VecArith -/

theorem effVmov_canon {e d a} (h : MemoryCanonical s) : RunRes.All MemoryCanonical (effVmov e d a s) := by
  unfold effVmov
  split
  · split
    · exact pushSdq_canon h
    · exact setScales_canon (setV_canon h)
  · exact laneEffect_canon h

theorem effVbc_canon {e d a} (h : MemoryCanonical s) : RunRes.All MemoryCanonical (effVbc e d a s) :=
  laneEffect_canon h

theorem effViota_canon {e d} (h : MemoryCanonical s) : RunRes.All MemoryCanonical (effViota e d s) :=
  laneEffect_canon h

theorem effVmulh_canon {e d a b x} (h : MemoryCanonical s) : RunRes.All MemoryCanonical (effVmulh e d a b x s) :=
  effBits_canon h

theorem effVclamp_canon {e d a b x} (h : MemoryCanonical s) : RunRes.All MemoryCanonical (effVclamp e d a b x s) := by
  unfold effVclamp
  dsimp only
  split
  · exact laneEffect_canon h
  · exact laneEffect_canon h

/-! ### VecMem -/

theorem setLanedone_canon {m} (h : MemoryCanonical s) : MemoryCanonical (setLanedone s m) :=
  setRegs_canon h

theorem earlyTurn_canon {e run} (h : MemoryCanonical s) (hrun : ∀ u0, MemoryCanonical u0 → RunRes.All MemoryCanonical (run u0)) :
    RunRes.All MemoryCanonical (earlyTurn e s run) := by
  unfold earlyTurn
  split
  · exact h
  · split
    · split
      · exact setLanedone_canon h
      · exact h
    · split
      · exact hrun _ h
      · exact markLoaded_keeps canonKept.near h

/-! ### Frames -/

theorem leaveFrame_canon {vf w2 tmpl} (h : MemoryCanonical s) : MemoryCanonical (leaveFrame s vf w2 tmpl) := by
  unfold leaveFrame
  dsimp only
  split
  · exact retireFrom_canon (frameWrite_keeps canonKept.near (frameState_keeps canonKept.near (release_keeps canonKept.near (frameWrite_keeps canonKept.near h))))
  · exact frameWrite_keeps canonKept.near (frameState_keeps canonKept.near (release_keeps canonKept.near (frameWrite_keeps canonKept.near h)))

/-! ### Ops -/

theorem performRemote_canon {r} (h : MemoryCanonical s) : MemoryCanonical (performRemote s r) := by
  unfold performRemote
  dsimp only
  split
  · split
    · exact setX_canon (setQ_canon h)
    · exact setQ_canon h
  · split
    · exact setX_canon h
    · exact pokeLe_keeps canonKept.near h
    · exact foldAtLoc_keeps canonKept.near h

theorem popRemote_canon (h : MemoryCanonical s) : MemoryCanonical (popRemote s) := by
  unfold popRemote
  dsimp only
  split
  · exact h
  · exact performRemote_canon (setQ_canon h)

theorem drainRemote_canon {y0 y1 y2} (h : MemoryCanonical y1) : MemoryCanonical (drainRemote y0 y1 y2) := by
  induction y0 generalizing y1 y2 with
  | zero => exact h
  | succ n ih =>
    unfold drainRemote
    split
    · exact h
    · exact ih (popRemote_canon h)

theorem flushRemote_canon (h : MemoryCanonical s) : MemoryCanonical (flushRemote s) :=
  drainRemote_canon h

theorem roomRemote_canon (h : MemoryCanonical s) : MemoryCanonical (roomRemote s) :=
  drainRemote_canon h

theorem sendRemote_canon {s0 key op} (h : MemoryCanonical s0) : MemoryCanonical (sendRemote s0 key op) :=
  setQ_canon (roomRemote_canon h)

theorem storeAt_canon {l size data} (h : MemoryCanonical s) : MemoryCanonical (storeAt s l size data) := by
  unfold storeAt
  split
  · split
    · exact sendRemote_canon h
    · exact pokeLe_keeps canonKept.near h
  · exact pokeLe_keeps canonKept.near (revokeAt_keeps canonKept.near (revokeAt_keeps canonKept.near (peerRequest_keeps canonKept.near h)))
  · exact storeGlobal_keeps canonKept.near h

theorem performSb_canon {e} (h : MemoryCanonical s) : MemoryCanonical (performSb s e) := by
  unfold performSb
  split
  · exact storeAt_canon (setAccessed_keeps canonKept.near h)
  · split
    · split
      · exact sendRemote_canon h
      · exact foldAtLoc_keeps canonKept.near h
    · exact foldAtLoc_keeps canonKept.near (setAccessed_keeps canonKept.near h)
  · split
    · exact cboLine_keeps canonKept.near (setAccessed_keeps canonKept.near h)
    · exact setAccessed_keeps canonKept.near h
  · exact addChild_keeps canonKept.near (writeHeader_keeps canonKept.near h)
  · exact leaveFrame_canon (flushRemote_canon h)

theorem popSb_canon (h : MemoryCanonical s) : MemoryCanonical (popSb s) := by
  unfold popSb
  dsimp only
  split
  · exact h
  · split
    · exact h
    · split
      · rename_i t0 ht
        have ht0 : MemoryCanonical t0 := of_eq (InOption MemoryCanonical) ht (leaveCopies_keeps canonKept h)
        exact ht0
      · exact performSb_canon (setQ_canon h)

theorem drainSb_canon {y0 y1 y2} (h : MemoryCanonical y1) : MemoryCanonical (drainSb y0 y1 y2) := by
  induction y0 generalizing y1 y2 with
  | zero => exact h
  | succ n ih =>
    unfold drainSb
    split
    · exact h
    · exact ih (popSb_canon h)

/-! ### Access -/

theorem olderStoresOut_canon (h : MemoryCanonical s) : MemoryCanonical (olderStoresOut s) :=
  drainSb_canon h

theorem remoteOnce_canon {e key} (h : MemoryCanonical s) : MemoryCanonical (remoteOnce s e key).1 :=
  setQ_canon h

theorem remoteLines_canon {e ps} (h : MemoryCanonical s) : MemoryCanonical (remoteLines s e ps).1 := by
  unfold remoteLines
  dsimp only
  refine iteInduction (motive := fun r : State × _ => MemoryCanonical r.1) (fun _ => ?_) (fun _ => ?_)
  · exact h
  · exact foldl_fst_keeps (fun _ _ hu => remoteOnce_canon hu) (flushRemote_canon h)

theorem loadAll_canon {e used ps} (h : MemoryCanonical s) : LoadRes.All MemoryCanonical (loadAll s e used ps) := by
  unfold loadAll
  dsimp only
  split
  · exact translateAll_keeps canonKept h
  · split
    · exact translateAll_keeps canonKept h
    · split
      · exact translateAll_keeps canonKept h
      · split
        · exact readPieces_keeps canonKept.near (remoteLines_canon (translateAll_keeps canonKept h))
        · exact readPieces_keeps canonKept.near (remoteLines_canon (translateAll_keeps canonKept h))

/-! ### VecMem -/

theorem mapLdq_canon {seq f} (h : MemoryCanonical s) : MemoryCanonical (mapLdq s seq f) :=
  setQ_canon h

theorem finishLoad_canon {e d w mask vals} (h : MemoryCanonical s) : MemoryCanonical (finishLoad s e d w mask vals) := by
  unfold finishLoad
  split
  · exact mapLdq_canon h
  · exact writeLanes_canon h

theorem runVld_canon {used e d a i s0} (h : MemoryCanonical s0) : RunRes.All MemoryCanonical (runVld used e d a i s0) := by
  unfold runVld
  dsimp only
  split
  · exact olderStoresOut_canon h
  · split
    · rename_i t0 ht
      have ht0 : MemoryCanonical t0 := of_eq (LoadRes.All MemoryCanonical) ht (loadAll_canon (olderStoresOut_canon h))
      exact ht0
    · rename_i t0 x1 ht
      have ht0 : MemoryCanonical t0 := of_eq (LoadRes.All MemoryCanonical) ht (loadAll_canon (olderStoresOut_canon h))
      exact ht0
    · rename_i t0 x1 ht
      have ht0 : MemoryCanonical t0 := of_eq (LoadRes.All MemoryCanonical) ht (loadAll_canon (olderStoresOut_canon h))
      exact finishLoad_canon ht0

theorem effVld_canon {e d a i} (h : MemoryCanonical s) : RunRes.All MemoryCanonical (effVld e d a i s) := by
  unfold effVld
  split
  · exact earlyTurn_canon h (fun _ hv0 => runVld_canon hv0)
  · exact runVld_canon h

theorem runLaneLoad_canon {used e d base addr s0} (h : MemoryCanonical s0) : RunRes.All MemoryCanonical (runLaneLoad used e d base addr s0) := by
  unfold runLaneLoad
  dsimp only
  split
  · exact translateLanes_keeps canonKept (olderStoresOut_canon h)
  · split
    · exact translateLanes_keeps canonKept (olderStoresOut_canon h)
    · split
      · exact readPieces_keeps canonKept.near (remoteLines_canon (translateLanes_keeps canonKept (olderStoresOut_canon h)))
      · split
        · exact finishLoad_canon (readPieces_keeps canonKept.near (remoteLines_canon (translateLanes_keeps canonKept (olderStoresOut_canon h))))
        · refine setLanedone_canon ?_
          split
          · exact setQ_canon (readPieces_keeps canonKept.near (remoteLines_canon (translateLanes_keeps canonKept (olderStoresOut_canon h))))
          · exact finishLoad_canon (readPieces_keeps canonKept.near (remoteLines_canon (translateLanes_keeps canonKept (olderStoresOut_canon h))))

theorem runVlds_canon {used e d a b} (h : MemoryCanonical s) : RunRes.All MemoryCanonical (runVlds used e d a b s) :=
  runLaneLoad_canon h

theorem effVlds_canon {e d a b} (h : MemoryCanonical s) : RunRes.All MemoryCanonical (effVlds e d a b s) := by
  unfold effVlds
  split
  · exact earlyTurn_canon h (fun _ hv0 => runVlds_canon hv0)
  · exact runVlds_canon h

theorem runVldg_canon {used e d a b n} (h : MemoryCanonical s) : RunRes.All MemoryCanonical (runVldg used e d a b n s) :=
  runLaneLoad_canon h

theorem effVldg_canon {e d a b n} (h : MemoryCanonical s) : RunRes.All MemoryCanonical (effVldg e d a b n s) := by
  unfold effVldg
  split
  · exact earlyTurn_canon h (fun _ hv0 => runVldg_canon hv0)
  · exact runVldg_canon h

theorem effVldmx_canon {e d a b s0} (h : MemoryCanonical s0) : RunRes.All MemoryCanonical (effVldmx e d a b s0) := by
  unfold effVldmx
  dsimp only
  split
  · exact olderStoresOut_canon h
  · split
    · exact olderStoresOut_canon h
    · split
      · rename_i t0 ht
        have ht0 : MemoryCanonical t0 := of_eq (LoadRes.All MemoryCanonical) ht (loadAll_canon (olderStoresOut_canon h))
        exact ht0
      · rename_i t0 x1 ht
        have ht0 : MemoryCanonical t0 := of_eq (LoadRes.All MemoryCanonical) ht (loadAll_canon (olderStoresOut_canon h))
        exact ht0
      · rename_i t0 x1 ht
        have ht0 : MemoryCanonical t0 := of_eq (LoadRes.All MemoryCanonical) ht (loadAll_canon (olderStoresOut_canon h))
        split
        · exact writeLanes_canon ht0
        · exact setScales_canon (writeLanes_canon ht0)

/-! ### Access -/

theorem writePiece_canon {no p} (h : MemoryCanonical s) : MemoryCanonical (writePiece s no p) := by
  unfold writePiece
  split
  · exact h
  · split
    · exact h
    · split
      · exact pokeLe_keeps canonKept.near h
      · exact storeAt_canon (setAccessed_keeps canonKept.near h)

theorem writeEach_canon {no bytes y3} (h : MemoryCanonical s) : MemoryCanonical (writeEach s no bytes y3) := by
  induction y3 generalizing s no bytes with
  | nil => exact h
  | cons a l ih =>
    unfold writeEach
    dsimp only
    refine ih ?_
    split
    · split
      · exact clearMark_keeps canonKept.near (writePiece_canon h)
      · exact writePiece_canon h
    · exact writePiece_canon h

theorem writePieces_canon {no ps} (h : MemoryCanonical s) : MemoryCanonical (writePieces s no ps) :=
  writeEach_canon h

theorem storeAll_canon {e ps} (h : MemoryCanonical s) : RunRes.All MemoryCanonical (storeAll s e ps) := by
  unfold storeAll
  dsimp only
  split
  · exact translateAll_keeps canonKept h
  · split
    · exact translateAll_keeps canonKept h
    · split
      · exact translateAll_keeps canonKept h
      · exact joinParts_keeps canonKept.near (writePieces_canon (remoteLines_canon (translateAll_keeps canonKept h)))

/-! ### VecMem -/

theorem effVst_canon {e d a i s0} (h : MemoryCanonical s0) : RunRes.All MemoryCanonical (effVst e d a i s0) := by
  unfold effVst
  dsimp only
  split
  · exact olderStoresOut_canon h
  · exact storeAll_canon (olderStoresOut_canon h)

theorem runLaneStore_canon {e d base addr s0} (h : MemoryCanonical s0) : RunRes.All MemoryCanonical (runLaneStore e d base addr s0) := by
  unfold runLaneStore
  dsimp only
  split
  · exact translateLanes_keeps canonKept (olderStoresOut_canon h)
  · split
    · exact translateLanes_keeps canonKept (olderStoresOut_canon h)
    · split
      · exact writePieces_canon (remoteLines_canon (translateLanes_keeps canonKept (olderStoresOut_canon h)))
      · exact setLanedone_canon (writePieces_canon (remoteLines_canon (translateLanes_keeps canonKept (olderStoresOut_canon h))))

theorem effVsts_canon {e d a b} (h : MemoryCanonical s) : RunRes.All MemoryCanonical (effVsts e d a b s) :=
  runLaneStore_canon h

theorem effVstg_canon {e d a b n} (h : MemoryCanonical s) : RunRes.All MemoryCanonical (effVstg e d a b n s) :=
  runLaneStore_canon h

/-! ### VecPerm -/

theorem effVcvt_canon {e d a p src} (h : MemoryCanonical s) : RunRes.All MemoryCanonical (effVcvt e d a p src s) := by
  unfold effVcvt
  dsimp only
  refine raiseFlags_canon ?_
  split
  · exact pushSdq_canon (takeDraws_canon h)
  · exact setV_canon (takeDraws_canon h)

theorem effVcvtn_canon {e d a w3 f} (h : MemoryCanonical s) : RunRes.All MemoryCanonical (effVcvtn e d a w3 f s) :=
  writeLanes_canon h

theorem effLdcb_canon {e a b} (h : MemoryCanonical s) : RunRes.All MemoryCanonical (effLdcb e a b s) :=
  setVec_canon h

theorem effVperm_canon {e d a b x} (h : MemoryCanonical s) : RunRes.All MemoryCanonical (effVperm e d a b x s) := by
  unfold effVperm
  exact laneEffect_canon h

theorem effVslideUp_canon {e d a b} (h : MemoryCanonical s) : RunRes.All MemoryCanonical (effVslideUp e d a b s) := by
  unfold effVslideUp
  exact laneEffect_canon h

theorem effVslideDn_canon {e d a b} (h : MemoryCanonical s) : RunRes.All MemoryCanonical (effVslideDn e d a b s) := by
  unfold effVslideDn
  exact laneEffect_canon h

theorem effVzip_canon {e d a b w4} (h : MemoryCanonical s) : RunRes.All MemoryCanonical (effVzip e d a b w4 s) := by
  unfold effVzip
  exact laneEffect_canon h

theorem effVunzip_canon {e d a b w4} (h : MemoryCanonical s) : RunRes.All MemoryCanonical (effVunzip e d a b w4 s) := by
  unfold effVunzip
  exact laneEffect_canon h

/-! ### VecOps -/

theorem setXq_canon {d v} (h : MemoryCanonical s) : MemoryCanonical (setXq s d v) :=
  setX_canon h

/-! ### VecPerm -/

theorem effVredadd_canon {e d a} (h : MemoryCanonical s) : RunRes.All MemoryCanonical (effVredadd e d a s) := by
  unfold effVredadd
  dsimp only
  split
  · exact raiseFlags_canon (setXq_canon (takeDraws_canon h))
  · exact raiseFlags_canon (setXq_canon h)

theorem effExtreme_canon {e d a big} (h : MemoryCanonical s) : RunRes.All MemoryCanonical (effExtreme s e d a big) := by
  unfold effExtreme
  dsimp only
  split
  · exact raiseFlags_canon (setXq_canon h)
  · exact setXq_canon h

theorem effVredmax_canon {e d a} (h : MemoryCanonical s) : RunRes.All MemoryCanonical (effVredmax e d a s) :=
  effExtreme_canon h

theorem effVredmin_canon {e d a} (h : MemoryCanonical s) : RunRes.All MemoryCanonical (effVredmin e d a s) :=
  effExtreme_canon h

theorem effVmvx_canon {e d a b} (h : MemoryCanonical s) : RunRes.All MemoryCanonical (effVmvx e d a b s) :=
  setXq_canon h

theorem effVins_canon {e d a b} (h : MemoryCanonical s) : RunRes.All MemoryCanonical (effVins e d a b s) :=
  setV_canon h

theorem setMasks_canon {ms} (h : MemoryCanonical s) : MemoryCanonical (setMasks s ms) :=
  setVec_canon h

theorem effMpush_canon (e : QEntry) {a} (h : MemoryCanonical s) : RunRes.All MemoryCanonical (effMpush e a s) :=
  setMasks_canon h

theorem effMinv_canon (e : QEntry) (h : MemoryCanonical s) : RunRes.All MemoryCanonical (effMinv e s) := by
  unfold effMinv
  split
  · exact h
  · exact setMasks_canon h

theorem effMpop_canon (e : QEntry) (h : MemoryCanonical s) : RunRes.All MemoryCanonical (effMpop e s) :=
  setMasks_canon h

theorem effMstg_canon {e st n} (h : MemoryCanonical s) : RunRes.All MemoryCanonical (effMstg e st n s) :=
  setMasks_canon h

theorem effKmovKx_canon {e d a} (h : MemoryCanonical s) : RunRes.All MemoryCanonical (effKmovKx e d a s) :=
  setK_canon h

theorem effKmovXk_canon (e : QEntry) {d a} (h : MemoryCanonical s) : RunRes.All MemoryCanonical (effKmovXk e d a s) :=
  setXq_canon h

theorem effKmovKt_canon (e : QEntry) {d} (h : MemoryCanonical s) : RunRes.All MemoryCanonical (effKmovKt e d s) :=
  setK_canon h

theorem effKopAnd_canon (e : QEntry) {d a b} (h : MemoryCanonical s) : RunRes.All MemoryCanonical (effKopAnd e d a b s) :=
  setK_canon h

theorem effKopOr_canon (e : QEntry) {d a b} (h : MemoryCanonical s) : RunRes.All MemoryCanonical (effKopOr e d a b s) :=
  setK_canon h

theorem effKopXor_canon (e : QEntry) {d a b} (h : MemoryCanonical s) : RunRes.All MemoryCanonical (effKopXor e d a b s) :=
  setK_canon h

theorem effKopAndn_canon (e : QEntry) {d a b} (h : MemoryCanonical s) : RunRes.All MemoryCanonical (effKopAndn e d a b s) :=
  setK_canon h

theorem effVsclSet_canon {e d a j} (h : MemoryCanonical s) : RunRes.All MemoryCanonical (effVsclSet e d a j s) :=
  setScales_canon h

theorem effVsclSeta_canon {e d a} (h : MemoryCanonical s) : RunRes.All MemoryCanonical (effVsclSeta e d a s) :=
  setScales_canon h

theorem effVsclGet_canon (e : QEntry) {d a j} (h : MemoryCanonical s) : RunRes.All MemoryCanonical (effVsclGet e d a j s) :=
  setXq_canon h

/-! ### Regs -/

theorem setMat_canon {m} (h : MemoryCanonical s) : MemoryCanonical (setMat s m) :=
  h

/-! ### Matrix -/

theorem stationary_canon {q t r} (h : MemoryCanonical s) : MemoryCanonical (stationary s q t r).1 := by
  unfold stationary
  dsimp only
  split
  · exact setMat_canon h
  · exact setMat_canon h

theorem setTile_canon {t v} (h : MemoryCanonical s) : MemoryCanonical (setTile s t v) :=
  setMat_canon h

theorem runRow_canon {replace pop e t x v q k r s0} (h : MemoryCanonical s0) : RunRes.All MemoryCanonical (runRow replace pop e t x v q k r s0) := by
  unfold runRow
  dsimp only
  split
  · exact olderStoresOut_canon h
  · split
    · exact olderStoresOut_canon h
    · split
      · exact olderStoresOut_canon h
      · split
        · exact olderStoresOut_canon h
        · split
          · exact popTrough_keeps canonKept (raiseFlags_canon (setTile_canon (stationary_canon (olderStoresOut_canon h))))
          · exact raiseFlags_canon (setTile_canon (stationary_canon (olderStoresOut_canon h)))

theorem effMrow_canon {e t x v q k r} (h : MemoryCanonical s) : RunRes.All MemoryCanonical (effMrow e t x v q k r s) :=
  runRow_canon h

theorem effMrowp_canon {e t x v q k r} (h : MemoryCanonical s) : RunRes.All MemoryCanonical (effMrowp e t x v q k r s) :=
  runRow_canon h

theorem effMrowz_canon {e t x v q k r} (h : MemoryCanonical s) : RunRes.All MemoryCanonical (effMrowz e t x v q k r s) :=
  runRow_canon h

theorem effMrowzp_canon {e t x v q k r} (h : MemoryCanonical s) : RunRes.All MemoryCanonical (effMrowzp e t x v q k r s) :=
  runRow_canon h

theorem effTzero_canon {e t} (h : MemoryCanonical s) : RunRes.All MemoryCanonical (effTzero e t s) := by
  unfold effTzero
  dsimp only
  split
  · exact h
  · exact setTile_canon h

theorem effTload_canon {e t x v k s0} (h : MemoryCanonical s0) : RunRes.All MemoryCanonical (effTload e t x v k s0) := by
  unfold effTload
  dsimp only
  split
  · exact olderStoresOut_canon h
  · split
    · exact olderStoresOut_canon h
    · split
      · rename_i t0 ht
        have ht0 : MemoryCanonical t0 := of_eq (LoadRes.All MemoryCanonical) ht (loadAll_canon (olderStoresOut_canon h))
        exact ht0
      · rename_i t0 x1 ht
        have ht0 : MemoryCanonical t0 := of_eq (LoadRes.All MemoryCanonical) ht (loadAll_canon (olderStoresOut_canon h))
        exact ht0
      · rename_i t0 x1 ht
        have ht0 : MemoryCanonical t0 := of_eq (LoadRes.All MemoryCanonical) ht (loadAll_canon (olderStoresOut_canon h))
        exact raiseFlags_canon (setTile_canon ht0)

theorem effTstore_canon {e t x v k s0} (h : MemoryCanonical s0) : RunRes.All MemoryCanonical (effTstore e t x v k s0) := by
  unfold effTstore
  dsimp only
  split
  · exact olderStoresOut_canon h
  · split
    · exact translateAll_keeps canonKept (olderStoresOut_canon h)
    · split
      · exact translateAll_keeps canonKept (olderStoresOut_canon h)
      · split
        · exact translateAll_keeps canonKept (olderStoresOut_canon h)
        · exact raiseFlags_canon (writePieces_canon (remoteLines_canon (takeDraws_canon (translateAll_keeps canonKept (olderStoresOut_canon h)))))

theorem effTmovv_canon {e t x v} (h : MemoryCanonical s) : RunRes.All MemoryCanonical (effTmovv e t x v s) := by
  unfold effTmovv
  dsimp only
  split
  · exact raiseFlags_canon (setScales_canon (setV_canon (takeDraws_canon h)))
  · refine raiseFlags_canon ?_
    split
    · exact pushSdq_canon (takeDraws_canon h)
    · exact setV_canon (takeDraws_canon h)

theorem effTvmov_canon {e t x v} (h : MemoryCanonical s) : RunRes.All MemoryCanonical (effTvmov e t x v s) := by
  unfold effTvmov
  dsimp only
  split
  · exact h
  · exact raiseFlags_canon (setTile_canon h)

theorem effTstat_canon (e : QEntry) {t x} (h : MemoryCanonical s) : RunRes.All MemoryCanonical (effTstat e t x s) :=
  setXq_canon h

/-! ### Regs -/

theorem mapCores_canon {f} (h : MemoryCanonical s) : MemoryCanonical (mapCores s f) :=
  h

/-! ### Troughs -/

theorem dropCopies_canon {c q} (h : MemoryCanonical s) : MemoryCanonical (dropCopies s c q) :=
  mapCores_canon h

theorem effTrcfg_canon {e x v q} (h : MemoryCanonical s) : RunRes.All MemoryCanonical (effTrcfg e x v q s) := by
  unfold effTrcfg
  dsimp only
  split
  · exact h
  · split
    · exact h
    · split
      · exact h
      · exact dropCopies_canon (setTrough_keeps canonKept h)

theorem effTrstat_canon (e : QEntry) {x q} (h : MemoryCanonical s) : RunRes.All MemoryCanonical (effTrstat e x q s) :=
  setXq_canon h

/-! ### Factor -/

theorem setFactor_canon {ts f} (h : MemoryCanonical s) : MemoryCanonical (setFactor s ts f) :=
  setMat_canon h

theorem effFbegin_canon (e : QEntry) {k} (h : MemoryCanonical s) : RunRes.All MemoryCanonical (effFbegin e k s) := by
  unfold effFbegin
  dsimp only
  split
  · exact h
  · split
    · exact h
    · split
      · exact h
      · exact setFactor_canon h

theorem effFcol_canon {e x} (h : MemoryCanonical s) : RunRes.All MemoryCanonical (effFcol e x s) := by
  unfold effFcol
  dsimp only
  split
  · exact h
  · split
    · exact setFactor_canon h
    · split
      · exact h
      · split
        · exact raiseFlags_canon (setFactor_canon h)
        · refine iteInduction (motive := RunRes.All MemoryCanonical) (fun _ => ?_) (fun _ => ?_)
          · exact h
          · exact raiseFlags_canon (setFactor_canon h)

theorem effFend_canon (e : QEntry) (h : MemoryCanonical s) : RunRes.All MemoryCanonical (effFend e s) := by
  unfold effFend
  dsimp only
  split
  · exact h
  · exact setFactor_canon h

theorem effFmaprd_canon (e : QEntry) {t x} (h : MemoryCanonical s) : RunRes.All MemoryCanonical (effFmaprd e t x s) :=
  setXq_canon h

theorem effRdph_canon {e x} (h : MemoryCanonical s) : RunRes.All MemoryCanonical (effRdph e x s) :=
  setXq_canon h

theorem effRdgf_canon (e : QEntry) {x} (h : MemoryCanonical s) : RunRes.All MemoryCanonical (effRdgf e x s) :=
  setXq_canon h

theorem effTperm_canon (e : QEntry) {t} (h : MemoryCanonical s) : RunRes.All MemoryCanonical (effTperm e t s) := by
  unfold effTperm
  dsimp only
  split
  · exact h
  · exact setTile_canon h

/-! ### Copy -/

theorem acceptCopy_canon {e a tr tag sc s0} (h : MemoryCanonical s0) : RunRes.All MemoryCanonical (acceptCopy e a tr tag sc s0) := by
  unfold acceptCopy
  dsimp only
  split
  · exact olderStoresOut_canon h
  · split
    · exact fetchDescriptor_keeps canonKept (olderStoresOut_canon h)
    · refine iteInduction (motive := RunRes.All MemoryCanonical) (fun _ => ?_) (fun _ => ?_)
      · exact fetchDescriptor_keeps canonKept (olderStoresOut_canon h)
      · exact setSync_canon (setCluster_keeps canonKept (fetchDescriptor_keeps canonKept (olderStoresOut_canon h)))

theorem effCpy_canon {e a b sc} (h : MemoryCanonical s) : RunRes.All MemoryCanonical (effCpy e a b sc s) :=
  acceptCopy_canon h

theorem effCpyq_canon {e a b sc} (h : MemoryCanonical s) : RunRes.All MemoryCanonical (effCpyq e a b sc s) :=
  acceptCopy_canon h

theorem effEngstCnt_canon (e : QEntry) {d} (h : MemoryCanonical s) : RunRes.All MemoryCanonical (effEngstCnt e d s) :=
  setXq_canon h

theorem effEngstFva_canon (e : QEntry) {d} (h : MemoryCanonical s) : RunRes.All MemoryCanonical (effEngstFva e d s) :=
  setXq_canon h

/-! ### Exchange -/

theorem effXsel_canon {e d a} (h : MemoryCanonical s) : RunRes.All MemoryCanonical (effXsel e d a s) := by
  unfold effXsel
  dsimp only
  split
  · exact h
  · split
    · exact h
    · split
      · exact h
      · split
        · split
          · exact pushSdq_canon h
          · exact setV_canon h
        · exact h

theorem effXend_canon (e : QEntry) (h : MemoryCanonical s) : RunRes.All MemoryCanonical (effXend e s) :=
  setSync_canon h

/-! ### Queue -/

theorem runEntry_canon {e} (h : MemoryCanonical s) : RunRes.All MemoryCanonical (runEntry e s) := by
  suffices hall : ∀ i, RunRes.All MemoryCanonical (runEntry { e with instr := i } s) from hall e.instr
  intro i
  cases i with
  | vadd d a b x => exact effVadd_canon h
  | vsub d a b x => exact effVsub_canon h
  | vmul d a b x => exact effVmul_canon h
  | vfma d a b x => exact effVfma_canon h
  | vfms d a b x => exact effVfms_canon h
  | vfnma d a b x => exact effVfnma_canon h
  | vmin d a b x => exact effVmin_canon h
  | vmax d a b x => exact effVmax_canon h
  | vabs d a => exact effVabs_canon h
  | vneg d a => exact effVneg_canon h
  | vdiv d a b x => exact effVdiv_canon h
  | vsqrt d a => exact effVsqrt_canon h
  | vrcp d a => exact effVrcp_canon h
  | vrsq d a => exact effVrsq_canon h
  | vexp2 d a => exact effVexp2_canon h
  | vlog2 d a => exact effVlog2_canon h
  | vand d a b x => exact effVand_canon h
  | vor d a b x => exact effVor_canon h
  | vxor d a b x => exact effVxor_canon h
  | vsll d a b x => exact effVsll_canon h
  | vsrl d a b x => exact effVsrl_canon h
  | vsra d a b x => exact effVsra_canon h
  | vcmp d a b x c => exact effVcmp_canon h
  | vsel d a b x k => exact effVsel_canon h
  | vmov d a => exact effVmov_canon h
  | vbc d a => exact effVbc_canon h
  | viota d => exact effViota_canon h
  | vmulh d a b x => exact effVmulh_canon h
  | vclamp d a b x => exact effVclamp_canon h
  | vld d a i => exact effVld_canon h
  | vlds d a b => exact effVlds_canon h
  | vldg d a b n => exact effVldg_canon h
  | vldmx d a b => exact effVldmx_canon h
  | vst d a i => exact effVst_canon h
  | vsts d a b => exact effVsts_canon h
  | vstg d a b n => exact effVstg_canon h
  | vcvt d a p t => exact effVcvt_canon h
  | vcvtn d a p f => exact effVcvtn_canon h
  | ldcb a b => exact effLdcb_canon h
  | vperm d a b x => exact effVperm_canon h
  | vslideUp d a b => exact effVslideUp_canon h
  | vslideDn d a b => exact effVslideDn_canon h
  | vzip d a b p => exact effVzip_canon h
  | vunzip d a b p => exact effVunzip_canon h
  | vredadd d a => exact effVredadd_canon h
  | vredmax d a => exact effVredmax_canon h
  | vredmin d a => exact effVredmin_canon h
  | vmvx d a b => exact effVmvx_canon h
  | vins d a b => exact effVins_canon h
  | mpush a => exact effMpush_canon e h
  | minv => exact effMinv_canon e h
  | mpop => exact effMpop_canon e h
  | mstg t n => exact effMstg_canon h
  | kmovKx d a => exact effKmovKx_canon h
  | kmovXk d a => exact effKmovXk_canon e h
  | kmovKt d => exact effKmovKt_canon e h
  | kopAnd d a b => exact effKopAnd_canon e h
  | kopOr d a b => exact effKopOr_canon e h
  | kopXor d a b => exact effKopXor_canon e h
  | kopAndn d a b => exact effKopAndn_canon e h
  | vsclSet d a j => exact effVsclSet_canon h
  | vsclSeta d a => exact effVsclSeta_canon h
  | vsclGet d a j => exact effVsclGet_canon e h
  | mrow t x v q k r => exact effMrow_canon h
  | mrowp t x v q k r => exact effMrowp_canon h
  | mrowz t x v q k r => exact effMrowz_canon h
  | mrowzp t x v q k r => exact effMrowzp_canon h
  | tzero t => exact effTzero_canon h
  | tload t x v k => exact effTload_canon h
  | tstore t x v k => exact effTstore_canon h
  | tmovv t x v => exact effTmovv_canon h
  | tvmov t x v => exact effTvmov_canon h
  | tstat t x => exact effTstat_canon e h
  | trcfg x v q => exact effTrcfg_canon h
  | trpop q => exact effTrpop_keeps (y0 := e) canonKept h
  | trstat x q => exact effTrstat_canon e h
  | fbegin k => exact effFbegin_canon e h
  | fcol x => exact effFcol_canon h
  | fcoln x g => exact effFcoln_keeps canonKept h
  | ngjoin x g => exact effNgjoin_keeps canonKept h
  | ngleave g => exact effNgleave_keeps (y0 := e) canonKept h
  | fend => exact effFend_canon e h
  | fmaprd t x => exact effFmaprd_canon e h
  | rdph x => exact effRdph_canon h
  | rdgf x => exact effRdgf_canon e h
  | tperm t => exact effTperm_canon e h
  | cpy a b c => exact effCpy_canon h
  | cpyq a b c => exact effCpyq_canon h
  | engstCnt d => exact effEngstCnt_canon e h
  | engstFva d => exact effEngstFva_canon e h
  | xsend a b => exact effXsend_keeps (y1 := a) h
  | xsel d a => exact effXsel_canon h
  | xend => exact effXend_canon e h
  | _ => exact h

theorem runHead_canon (h : MemoryCanonical s) : DrainRes.All MemoryCanonical (runHead s) := by
  unfold runHead
  split
  · exact h
  · split
    · split
      · exact trapHead_canon h
      · exact completeHead_canon (takeHeld_canon h)
    · split
      · rename_i t0 ht
        have ht0 : MemoryCanonical t0 := of_eq (RunRes.All MemoryCanonical) ht (runEntry_canon h)
        exact completeHead_canon ht0
      · rename_i t0 x1 x2 ht
        have ht0 : MemoryCanonical t0 := of_eq (RunRes.All MemoryCanonical) ht (runEntry_canon h)
        exact trapHead_canon ht0
      · rename_i t0 ht
        have ht0 : MemoryCanonical t0 := of_eq (RunRes.All MemoryCanonical) ht (runEntry_canon h)
        exact ht0

theorem noteAhead_canon {e a} (h : MemoryCanonical s) : MemoryCanonical (noteAhead s e a) :=
  setQ_canon h

theorem holdAhead_canon {s1 e} (h1 : MemoryCanonical s1) : MemoryCanonical (holdAhead s s1 e) := by
  unfold holdAhead
  dsimp only
  refine noteAhead_canon ?_
  split
  · exact setX_canon (setRegs_canon h1)
  · exact setRegs_canon h1

theorem runsAhead_canon {older e} (h : MemoryCanonical s) : InOption MemoryCanonical (runsAhead s older e) := by
  unfold runsAhead
  split
  · split
    · rename_i t0 ht
      have ht0 : MemoryCanonical t0 := of_eq (RunRes.All MemoryCanonical) ht (runEntry_canon h)
      exact holdAhead_canon ht0
    · rename_i t0 x1 x2 ht
      have ht0 : MemoryCanonical t0 := of_eq (RunRes.All MemoryCanonical) ht (runEntry_canon h)
      split
      · exact noteAhead_canon h
      · exact trivial
    · rename_i t0 ht
      have ht0 : MemoryCanonical t0 := of_eq (RunRes.All MemoryCanonical) ht (runEntry_canon h)
      split
      · exact trivial
      · exact ht0
  · exact trivial

theorem aheadFrom_canon {p older y3} (h : MemoryCanonical s) : InOption MemoryCanonical (aheadFrom s p older y3) := by
  induction y3 generalizing s p older with
  | nil => exact trivial
  | cons a l ih =>
    unfold aheadFrom
    split
    · exact ih h
    · split
      · rename_i t0 ht
        have ht0 : MemoryCanonical t0 := by
          refine of_eq (InOption MemoryCanonical) ht ?_
          split
          · exact trivial
          · exact runsAhead_canon h
        exact ht0
      · exact ih h

theorem runQueue_canon (h : MemoryCanonical s) : DrainRes.All MemoryCanonical (runQueue s) := by
  unfold runQueue
  split
  · rename_i t0 ht
    have ht0 : MemoryCanonical t0 := of_eq (DrainRes.All MemoryCanonical) ht (runHead_canon h)
    split
    · rename_i t0 ht
      have ht0 : MemoryCanonical t0 := of_eq (InOption MemoryCanonical) ht (aheadFrom_canon ht0)
      exact ht0
    · exact ht0
  · exact runHead_canon h

theorem drainUntil_canon {p y1 y2} (h : MemoryCanonical y2) : DrainRes.All MemoryCanonical (drainUntil p y1 y2) := by
  induction y1 generalizing p y2 with
  | zero =>
    unfold drainUntil
    split
    · exact h
    · exact h
  | succ n ih =>
    unfold drainUntil
    split
    · exact h
    · split
      · rename_i t0 ht
        have ht0 : MemoryCanonical t0 := of_eq (DrainRes.All MemoryCanonical) ht (runQueue_canon h)
        exact ih ht0
      · exact runQueue_canon h

theorem waitQueue_canon {p} (h : MemoryCanonical s) : DrainRes.All MemoryCanonical (waitQueue p s) :=
  drainUntil_canon h

theorem drainTo_canon {n} (h : MemoryCanonical s) : DrainRes.All MemoryCanonical (drainTo n s) :=
  waitQueue_canon h

theorem settle_canon (h : MemoryCanonical s) : MemoryCanonical (settle s) :=
  drainRemote_canon (drainSb_canon (drainRes_state (drainTo_canon h)))

/-! ### Regs -/

theorem stall_canon (h : MemoryCanonical s) : MemoryCanonical (stall s) :=
  setSync_canon h

/-! ### Queue -/

theorem whenLogged_canon {k} (h : MemoryCanonical s) (hk : ∀ u0, MemoryCanonical u0 → MemoryCanonical (k u0)) : MemoryCanonical (whenLogged s k) := by
  unfold whenLogged
  split
  · rename_i t0 ht
    have ht0 : MemoryCanonical t0 := of_eq (DrainRes.All MemoryCanonical) ht (waitQueue_canon h)
    exact hk _ ht0
  · rename_i t0 ht
    have ht0 : MemoryCanonical t0 := of_eq (DrainRes.All MemoryCanonical) ht (waitQueue_canon h)
    exact ht0
  · rename_i t0 ht
    have ht0 : MemoryCanonical t0 := of_eq (DrainRes.All MemoryCanonical) ht (waitQueue_canon h)
    exact stall_canon ht0

theorem drainRemoteFor_canon {rs y1 y2} (h : MemoryCanonical y2) : MemoryCanonical (drainRemoteFor rs y1 y2) := by
  induction y1 generalizing rs y2 with
  | zero => exact h
  | succ n ih =>
    unfold drainRemoteFor
    split
    · exact ih (popRemote_canon h)
    · exact h

theorem whenReady_canon {rs k} (h : MemoryCanonical s) (hk : ∀ u0, MemoryCanonical u0 → MemoryCanonical (k u0)) :
    MemoryCanonical (whenReady s rs k) := by
  unfold whenReady
  dsimp only
  split
  · rename_i t0 ht
    have ht0 : MemoryCanonical t0 := of_eq (DrainRes.All MemoryCanonical) ht (waitQueue_canon (drainRemoteFor_canon h))
    exact hk _ ht0
  · rename_i t0 ht
    have ht0 : MemoryCanonical t0 := of_eq (DrainRes.All MemoryCanonical) ht (waitQueue_canon (drainRemoteFor_canon h))
    exact ht0
  · rename_i t0 ht
    have ht0 : MemoryCanonical t0 := of_eq (DrainRes.All MemoryCanonical) ht (waitQueue_canon (drainRemoteFor_canon h))
    exact stall_canon ht0

theorem strand_canon {rs k} (h : MemoryCanonical s) (hk : ∀ u0, MemoryCanonical u0 → MemoryCanonical (k u0)) : MemoryCanonical (strand s rs k) :=
  settle_canon (whenLogged_canon h (fun _ hv0 => whenReady_canon hv0 (fun _ hv0 => hk _ hv0)))

/-! ### Ops -/

theorem retryDone_canon (h : MemoryCanonical s) : MemoryCanonical (retryDone s) := by
  unfold retryDone
  dsimp only
  split
  · split
    · exact setSync_canon h
    · exact setQ_canon h
  · exact h

theorem retired_canon (h : MemoryCanonical s) : MemoryCanonical (retired s) :=
  setRegs_canon (retryDone_canon h)

/-! ### Regs -/

theorem pushUndo_canon {i} (h : MemoryCanonical s) : MemoryCanonical (pushUndo s i) := by
  unfold pushUndo
  dsimp only
  split
  · exact h
  · exact setQ_canon h

theorem writeLoop_canon {n l} (h : MemoryCanonical s) : MemoryCanonical (writeLoop s n l) :=
  setRegs_canon (pushUndo_canon h)

/-! ### Ops -/

theorem endTest_canon {a y2} (h : MemoryCanonical s) : MemoryCanonical (endTest s a y2) := by
  induction y2 generalizing s a with
  | zero => exact setPc_canon h
  | succ n ih =>
    unfold endTest
    dsimp only
    split
    · split
      · exact setPc_canon (writeLoop_canon h)
      · exact ih (writeLoop_canon h)
    · exact ih h

theorem fallThrough_canon (h : MemoryCanonical s) : MemoryCanonical (fallThrough s) :=
  endTest_canon (retired_canon h)

/-! ### Regs -/

theorem writeX_canon {r v} (h : MemoryCanonical s) : MemoryCanonical (writeX s r v) := by
  unfold writeX
  split
  · exact h
  · exact setX_canon (pushUndo_canon h)

/-! ### ScalarInt -/

theorem alu_canon {d rs f} (h : MemoryCanonical s) : InResult MemoryCanonical (alu s d rs f) :=
  strand_canon h (fun _ hv0 => fallThrough_canon (writeX_canon hv0))

theorem alu2_canon {d a b f} (h : MemoryCanonical s) : InResult MemoryCanonical (alu2 s d a b f) :=
  alu_canon h

theorem execAdd_canon {d a b} (h : MemoryCanonical s) : InResult MemoryCanonical (execAdd d a b s) :=
  alu2_canon h

theorem execSub_canon {d a b} (h : MemoryCanonical s) : InResult MemoryCanonical (execSub d a b s) :=
  alu2_canon h

theorem execAnd_canon {d a b} (h : MemoryCanonical s) : InResult MemoryCanonical (execAnd d a b s) :=
  alu2_canon h

theorem execOr_canon {d a b} (h : MemoryCanonical s) : InResult MemoryCanonical (execOr d a b s) :=
  alu2_canon h

theorem execXor_canon {d a b} (h : MemoryCanonical s) : InResult MemoryCanonical (execXor d a b s) :=
  alu2_canon h

theorem execSll_canon {d a b} (h : MemoryCanonical s) : InResult MemoryCanonical (execSll d a b s) :=
  alu2_canon h

theorem execSrl_canon {d a b} (h : MemoryCanonical s) : InResult MemoryCanonical (execSrl d a b s) :=
  alu2_canon h

theorem execSra_canon {d a b} (h : MemoryCanonical s) : InResult MemoryCanonical (execSra d a b s) :=
  alu2_canon h

theorem execSlt_canon {d a b} (h : MemoryCanonical s) : InResult MemoryCanonical (execSlt d a b s) :=
  alu2_canon h

theorem execSltu_canon {d a b} (h : MemoryCanonical s) : InResult MemoryCanonical (execSltu d a b s) :=
  alu2_canon h

theorem execMin_canon {d a b} (h : MemoryCanonical s) : InResult MemoryCanonical (execMin d a b s) :=
  alu2_canon h

theorem execMax_canon {d a b} (h : MemoryCanonical s) : InResult MemoryCanonical (execMax d a b s) :=
  alu2_canon h

theorem execMinu_canon {d a b} (h : MemoryCanonical s) : InResult MemoryCanonical (execMinu d a b s) :=
  alu2_canon h

theorem execMaxu_canon {d a b} (h : MemoryCanonical s) : InResult MemoryCanonical (execMaxu d a b s) :=
  alu2_canon h

theorem execMul_canon {d a b} (h : MemoryCanonical s) : InResult MemoryCanonical (execMul d a b s) :=
  alu2_canon h

theorem execMulh_canon {d a b} (h : MemoryCanonical s) : InResult MemoryCanonical (execMulh d a b s) :=
  alu2_canon h

theorem execMulhu_canon {d a b} (h : MemoryCanonical s) : InResult MemoryCanonical (execMulhu d a b s) :=
  alu2_canon h

theorem execDiv_canon {d a b} (h : MemoryCanonical s) : InResult MemoryCanonical (execDiv d a b s) :=
  alu2_canon h

theorem execDivu_canon {d a b} (h : MemoryCanonical s) : InResult MemoryCanonical (execDivu d a b s) :=
  alu2_canon h

theorem execRem_canon {d a b} (h : MemoryCanonical s) : InResult MemoryCanonical (execRem d a b s) :=
  alu2_canon h

theorem execRemu_canon {d a b} (h : MemoryCanonical s) : InResult MemoryCanonical (execRemu d a b s) :=
  alu2_canon h

theorem execBitClz_canon {d a} (h : MemoryCanonical s) : InResult MemoryCanonical (execBitClz d a s) :=
  alu_canon h

theorem execBitCtz_canon {d a} (h : MemoryCanonical s) : InResult MemoryCanonical (execBitCtz d a s) :=
  alu_canon h

theorem execBitPopc_canon {d a} (h : MemoryCanonical s) : InResult MemoryCanonical (execBitPopc d a s) :=
  alu_canon h

theorem execBitBrev_canon {d a} (h : MemoryCanonical s) : InResult MemoryCanonical (execBitBrev d a s) :=
  alu_canon h

theorem execAddi_canon {d a i} (h : MemoryCanonical s) : InResult MemoryCanonical (execAddi d a i s) :=
  alu_canon h

theorem execAndi_canon {d a i} (h : MemoryCanonical s) : InResult MemoryCanonical (execAndi d a i s) :=
  alu_canon h

theorem execOri_canon {d a i} (h : MemoryCanonical s) : InResult MemoryCanonical (execOri d a i s) :=
  alu_canon h

theorem execXori_canon {d a i} (h : MemoryCanonical s) : InResult MemoryCanonical (execXori d a i s) :=
  alu_canon h

theorem execSlli_canon {d a i} (h : MemoryCanonical s) : InResult MemoryCanonical (execSlli d a i s) :=
  alu_canon h

theorem execSrli_canon {d a i} (h : MemoryCanonical s) : InResult MemoryCanonical (execSrli d a i s) :=
  alu_canon h

theorem execSrai_canon {d a i} (h : MemoryCanonical s) : InResult MemoryCanonical (execSrai d a i s) :=
  alu_canon h

theorem execSlti_canon {d a i} (h : MemoryCanonical s) : InResult MemoryCanonical (execSlti d a i s) :=
  alu_canon h

theorem execSltiu_canon {d a i} (h : MemoryCanonical s) : InResult MemoryCanonical (execSltiu d a i s) :=
  alu_canon h

theorem execLui_canon {d i} (h : MemoryCanonical s) : InResult MemoryCanonical (execLui d i s) :=
  alu_canon h

theorem execAuipc_canon {d i} (h : MemoryCanonical s) : InResult MemoryCanonical (execAuipc d i s) :=
  alu_canon h

theorem execShor_canon {d i} (h : MemoryCanonical s) : InResult MemoryCanonical (execShor d i s) :=
  alu_canon h

/-! ### Flags -/

theorem whenDrawn_canon {rounds k} (h : MemoryCanonical s) (hk : ∀ u0, MemoryCanonical u0 → MemoryCanonical (k u0)) :
    MemoryCanonical (whenDrawn s rounds k) := by
  unfold whenDrawn
  split
  · split
    · rename_i t0 ht
      have ht0 : MemoryCanonical t0 := of_eq (DrainRes.All MemoryCanonical) ht (waitQueue_canon h)
      exact hk _ ht0
    · rename_i t0 ht
      have ht0 : MemoryCanonical t0 := of_eq (DrainRes.All MemoryCanonical) ht (waitQueue_canon h)
      exact ht0
    · rename_i t0 ht
      have ht0 : MemoryCanonical t0 := of_eq (DrainRes.All MemoryCanonical) ht (waitQueue_canon h)
      exact stall_canon ht0
  · exact hk _ h

theorem scalarDraw_canon {rounds} (h : MemoryCanonical s) : MemoryCanonical (scalarDraw s rounds).1 := by
  unfold scalarDraw
  dsimp only
  split
  · exact setRegs_canon (pushUndo_canon h)
  · exact h

theorem scalarFlags_canon {f own} (h : MemoryCanonical s) : MemoryCanonical (scalarFlags s f own) := by
  unfold scalarFlags
  dsimp only
  split
  · exact h
  · split
    · exact setRegs_canon h
    · refine setQ_canon ?_
      split
      · exact h
      · exact pushUndo_canon h

/-! ### ScalarFp -/

theorem fp_canon {d rs rounds f} (h : MemoryCanonical s) : InResult MemoryCanonical (fp s d rs rounds f) :=
  strand_canon h (fun _ hv0 => whenDrawn_canon hv0 (fun _ hv0 => fallThrough_canon (scalarFlags_canon (writeX_canon (scalarDraw_canon hv0)))))

theorem fpArith_canon {d rs f} (h : MemoryCanonical s) : InResult MemoryCanonical (fpArith s d rs f) :=
  fp_canon h

theorem execFadd_canon {d a b} (h : MemoryCanonical s) : InResult MemoryCanonical (execFadd d a b s) :=
  fpArith_canon h

theorem execFsub_canon {d a b} (h : MemoryCanonical s) : InResult MemoryCanonical (execFsub d a b s) :=
  fpArith_canon h

theorem execFmul_canon {d a b} (h : MemoryCanonical s) : InResult MemoryCanonical (execFmul d a b s) :=
  fpArith_canon h

theorem execFdiv_canon {d a b} (h : MemoryCanonical s) : InResult MemoryCanonical (execFdiv d a b s) :=
  fpArith_canon h

theorem execFma_canon {d a b} (h : MemoryCanonical s) : InResult MemoryCanonical (execFma d a b s) :=
  fpArith_canon h

theorem execFsqrt_canon {d a} (h : MemoryCanonical s) : InResult MemoryCanonical (execFsqrt d a s) :=
  fpArith_canon h

theorem fpPick_canon {d a b f} (h : MemoryCanonical s) : InResult MemoryCanonical (fpPick s d a b f) :=
  fp_canon h

theorem execFmin_canon {d a b} (h : MemoryCanonical s) : InResult MemoryCanonical (execFmin d a b s) :=
  fpPick_canon h

theorem execFmax_canon {d a b} (h : MemoryCanonical s) : InResult MemoryCanonical (execFmax d a b s) :=
  fpPick_canon h

theorem fpCmp_canon {d a b quiet f} (h : MemoryCanonical s) : InResult MemoryCanonical (fpCmp s d a b quiet f) :=
  fp_canon h

theorem execFcmpEq_canon {d a b} (h : MemoryCanonical s) : InResult MemoryCanonical (execFcmpEq d a b s) :=
  fpCmp_canon h

theorem execFcmpLt_canon {d a b} (h : MemoryCanonical s) : InResult MemoryCanonical (execFcmpLt d a b s) :=
  fpCmp_canon h

theorem execFcmpLe_canon {d a b} (h : MemoryCanonical s) : InResult MemoryCanonical (execFcmpLe d a b s) :=
  fpCmp_canon h

theorem execFcvtI64f_canon {d a} (h : MemoryCanonical s) : InResult MemoryCanonical (execFcvtI64f d a s) :=
  fp_canon h

theorem execFcvtFi64_canon {d a} (h : MemoryCanonical s) : InResult MemoryCanonical (execFcvtFi64 d a s) :=
  fp_canon h

theorem fpWiden_canon {d a f} (h : MemoryCanonical s) : InResult MemoryCanonical (fpWiden s d a f) :=
  fp_canon h

theorem execFcvtF16f_canon {d a} (h : MemoryCanonical s) : InResult MemoryCanonical (execFcvtF16f d a s) :=
  fpWiden_canon h

theorem fpNarrow_canon {d a f} (h : MemoryCanonical s) : InResult MemoryCanonical (fpNarrow s d a f) :=
  fp_canon h

theorem execFcvtFf16_canon {d a} (h : MemoryCanonical s) : InResult MemoryCanonical (execFcvtFf16 d a s) :=
  fpNarrow_canon h

theorem execFcvtB16f_canon {d a} (h : MemoryCanonical s) : InResult MemoryCanonical (execFcvtB16f d a s) :=
  fpWiden_canon h

theorem execFcvtFb16_canon {d a} (h : MemoryCanonical s) : InResult MemoryCanonical (execFcvtFb16 d a s) :=
  fpNarrow_canon h

theorem execFcvtS20f_canon {d a} (h : MemoryCanonical s) : InResult MemoryCanonical (execFcvtS20f d a s) :=
  fp_canon h

theorem execFcvtFs20_canon {d a} (h : MemoryCanonical s) : InResult MemoryCanonical (execFcvtFs20 d a s) :=
  fp_canon h

/-! ### Queue -/

theorem drainAll_canon (h : MemoryCanonical s) : DrainRes.All MemoryCanonical (drainAll s) :=
  drainTo_canon h

theorem raiseTrap_canon {code v} (h : MemoryCanonical s) : MemoryCanonical (raiseTrap s code v) := by
  unfold raiseTrap
  dsimp only
  split
  · rename_i t0 ht
    have ht0 : MemoryCanonical t0 := of_eq (DrainRes.All MemoryCanonical) ht (drainAll_canon h)
    exact trapEntry_canon ht0
  · rename_i t0 ht
    have ht0 : MemoryCanonical t0 := of_eq (DrainRes.All MemoryCanonical) ht (drainAll_canon h)
    exact ht0
  · rename_i t0 ht
    have ht0 : MemoryCanonical t0 := of_eq (DrainRes.All MemoryCanonical) ht (drainAll_canon h)
    exact stall_canon (setSync_canon ht0)

/-! ### ScalarMem -/

theorem whenClear_canon {r k} (h : DrainRes.All MemoryCanonical r) (hk : ∀ u0, MemoryCanonical u0 → MemoryCanonical (k u0)) :
    MemoryCanonical (whenClear r k) := by
  unfold whenClear
  split
  · rename_i t0
    have ht0 : MemoryCanonical t0 := h
    exact hk _ ht0
  · rename_i t0
    have ht0 : MemoryCanonical t0 := h
    exact ht0
  · rename_i t0
    have ht0 : MemoryCanonical t0 := h
    exact stall_canon ht0

/-! ### Ops -/

theorem noteUse_canon {l} (h : MemoryCanonical s) : MemoryCanonical (noteUse s l) := by
  unfold noteUse
  dsimp only
  split
  · exact h
  · split
    · exact setAccessed_keeps canonKept.near h
    · split
      · exact h
      · exact setQ_canon h
  · split
    · exact setAccessed_keeps canonKept.near h
    · split
      · exact h
      · exact setQ_canon h

/-! ### ScalarMem -/

theorem remoteLoad_canon {d va n signed k} (h : MemoryCanonical s) : MemoryCanonical (remoteLoad s d va n signed k) := by
  unfold remoteLoad
  dsimp only
  split
  · split
    · exact raiseTrap_canon (flushRemote_canon h)
    · refine fallThrough_canon ?_
      refine sendRemote_canon ?_
      split
      · exact flushRemote_canon h
      · exact pushUndo_canon (flushRemote_canon h)
  · refine fallThrough_canon ?_
    refine sendRemote_canon ?_
    split
    · exact h
    · exact pushUndo_canon h

theorem loadAt_canon {d va n signed l} (h : MemoryCanonical s) : MemoryCanonical (loadAt s d va n signed l) := by
  unfold loadAt
  dsimp only
  split
  · split
    · exact remoteLoad_canon h
    · split
      · exact raiseTrap_canon (readAt_keeps canonKept.near h)
      · exact fallThrough_canon (writeX_canon (readAt_keeps canonKept.near h))
  · split
    · exact raiseTrap_canon (readAt_keeps canonKept.near h)
    · exact fallThrough_canon (writeX_canon (readAt_keeps canonKept.near h))

/-! ### Queue -/

theorem drainSbUntil_canon {p y1 y2} (h : MemoryCanonical y2) : DrainRes.All MemoryCanonical (drainSbUntil p y1 y2) := by
  induction y1 generalizing p y2 with
  | zero =>
    unfold drainSbUntil
    split
    · exact h
    · exact h
  | succ n ih =>
    unfold drainSbUntil
    split
    · exact h
    · split
      · exact h
      · split
        · exact ih (popSb_canon h)
        · split
          · exact h
          · split
            · rename_i t0 ht
              have ht0 : MemoryCanonical t0 := of_eq (DrainRes.All MemoryCanonical) ht (runQueue_canon h)
              exact ih ht0
            · exact runQueue_canon h

theorem waitSb_canon {p} (h : MemoryCanonical s) : DrainRes.All MemoryCanonical (waitSb p s) :=
  drainSbUntil_canon h

/-! ### ScalarMem -/

theorem loadOp_canon {d va n signed} (h : MemoryCanonical s) : MemoryCanonical (loadOp s d va n signed) := by
  unfold loadOp
  dsimp only
  split
  · exact raiseTrap_canon h
  · split
    · exact stall_canon (translateAs_keeps canonKept h)
    · exact raiseTrap_canon (translateAs_keeps canonKept h)
    · refine whenClear_canon (waitQueue_canon (translateAs_keeps canonKept h)) (fun _ hv0 => ?_)
      split
      · exact fallThrough_canon (writeX_canon (noteUse_canon hv0))
      · exact loadAt_canon (noteUse_canon hv0)
      · exact whenClear_canon (waitSb_canon (noteUse_canon hv0)) (fun _ hv0 => loadAt_canon hv0)

theorem execLoad_canon {d a i n signed} (h : MemoryCanonical s) : InResult MemoryCanonical (execLoad d a i n signed s) :=
  strand_canon h (fun _ hv0 => loadOp_canon hv0)

theorem execLb_canon {d a i} (h : MemoryCanonical s) : InResult MemoryCanonical (execLb d a i s) :=
  execLoad_canon h

theorem execLbu_canon {d a i} (h : MemoryCanonical s) : InResult MemoryCanonical (execLbu d a i s) :=
  execLoad_canon h

theorem execLh_canon {d a i} (h : MemoryCanonical s) : InResult MemoryCanonical (execLh d a i s) :=
  execLoad_canon h

theorem execLhu_canon {d a i} (h : MemoryCanonical s) : InResult MemoryCanonical (execLhu d a i s) :=
  execLoad_canon h

theorem execLw_canon {d a i} (h : MemoryCanonical s) : InResult MemoryCanonical (execLw d a i s) :=
  execLoad_canon h

theorem execLwu_canon {d a i} (h : MemoryCanonical s) : InResult MemoryCanonical (execLwu d a i s) :=
  execLoad_canon h

theorem execLd_canon {d a i} (h : MemoryCanonical s) : InResult MemoryCanonical (execLd d a i s) :=
  execLoad_canon h

theorem whenSbRoom_canon {k} (h : MemoryCanonical s) (hk : ∀ u0, MemoryCanonical u0 → MemoryCanonical (k u0)) : MemoryCanonical (whenSbRoom s k) :=
  whenClear_canon (waitSb_canon h) (fun _ hv0 => hk _ hv0)

theorem pushSb_canon {va l op} (h : MemoryCanonical s) : MemoryCanonical (pushSb s va l op) :=
  setQ_canon h

theorem storeOp_canon {va n data} (h : MemoryCanonical s) : MemoryCanonical (storeOp s va n data) := by
  unfold storeOp
  dsimp only
  split
  · exact raiseTrap_canon h
  · refine whenSbRoom_canon h (fun _ hv0 => ?_)
    split
    · exact stall_canon (translateAs_keeps canonKept hv0)
    · exact raiseTrap_canon (translateAs_keeps canonKept hv0)
    · exact fallThrough_canon (pushSb_canon (translateAs_keeps canonKept hv0))

theorem execStore_canon {d a i n} (h : MemoryCanonical s) : InResult MemoryCanonical (execStore d a i n s) :=
  strand_canon h (fun _ hv0 => storeOp_canon hv0)

theorem execSb_canon {d a i} (h : MemoryCanonical s) : InResult MemoryCanonical (execSb d a i s) :=
  execStore_canon h

theorem execSh_canon {d a i} (h : MemoryCanonical s) : InResult MemoryCanonical (execSh d a i s) :=
  execStore_canon h

theorem execSw_canon {d a i} (h : MemoryCanonical s) : InResult MemoryCanonical (execSw d a i s) :=
  execStore_canon h

theorem execSd_canon {d a i} (h : MemoryCanonical s) : InResult MemoryCanonical (execSd d a i s) :=
  execStore_canon h

/-! ### Regs -/

theorem setCore_canon {c} (h : MemoryCanonical s) : MemoryCanonical (setCore s c) :=
  h

/-! ### ScalarMem -/

theorem execPref_canon {w0 a i} (h : MemoryCanonical s) : InResult MemoryCanonical (execPref w0 a i s) := by
  unfold execPref
  dsimp only
  refine strand_canon h (fun _ hv0 => ?_)
  split
  · exact fallThrough_canon (setCore_canon hv0)
  · exact fallThrough_canon hv0

theorem cboOp_canon {a fn acc} (h : MemoryCanonical s) : MemoryCanonical (cboOp s a fn acc) := by
  unfold cboOp
  dsimp only
  refine whenSbRoom_canon h (fun _ hv0 => ?_)
  split
  · exact stall_canon (translateAs_keeps canonKept hv0)
  · exact raiseTrap_canon (translateAs_keeps canonKept hv0)
  · exact fallThrough_canon (pushSb_canon (translateAs_keeps canonKept hv0))

theorem execCboWb_canon {a} (h : MemoryCanonical s) : InResult MemoryCanonical (execCboWb a s) :=
  strand_canon h (fun _ hv0 => cboOp_canon hv0)

theorem execCboWbinv_canon {a} (h : MemoryCanonical s) : InResult MemoryCanonical (execCboWbinv a s) :=
  strand_canon h (fun _ hv0 => cboOp_canon hv0)

theorem execCboInv_canon {a} (h : MemoryCanonical s) : InResult MemoryCanonical (execCboInv a s) := by
  unfold execCboInv
  refine strand_canon h (fun _ hv0 => ?_)
  split
  · exact raiseTrap_canon hv0
  · exact cboOp_canon hv0

/-! ### FrameExec -/

theorem slotOp_canon {n k f} (h : MemoryCanonical s) (hf : ∀ u0 a1, MemoryCanonical u0 → MemoryCanonical (f u0 a1)) :
    MemoryCanonical (slotOp s n k f) := by
  unfold slotOp
  split
  · exact raiseTrap_canon h
  · exact hf _ _ h

theorem execFld_canon {x n k} (h : MemoryCanonical s) : InResult MemoryCanonical (execFld x n k s) :=
  strand_canon h (fun _ hv0 => slotOp_canon hv0 (fun _ _ hv0 => loadOp_canon hv0))

theorem execFst_canon {x n k} (h : MemoryCanonical s) : InResult MemoryCanonical (execFst x n k s) :=
  strand_canon h (fun _ hv0 => slotOp_canon hv0 (fun _ _ hv0 => storeOp_canon hv0))

theorem execFadr_canon {x n k} (h : MemoryCanonical s) : InResult MemoryCanonical (execFadr x n k s) :=
  strand_canon h (fun _ hv0 => slotOp_canon hv0 (fun _ _ hv0 => fallThrough_canon (writeX_canon hv0)))

theorem execFacc_canon {x n k f} (h : MemoryCanonical s) : InResult MemoryCanonical (execFacc x n k f s) := by
  unfold execFacc
  dsimp only
  refine strand_canon h (fun _ hv0 => ?_)
  refine slotOp_canon hv0 (fun _ _ hv0 => ?_)
  refine whenSbRoom_canon hv0 (fun _ hv0 => ?_)
  split
  · exact stall_canon (translateAs_keeps canonKept hv0)
  · exact raiseTrap_canon (translateAs_keeps canonKept hv0)
  · split
    · exact raiseTrap_canon (translateAs_keeps canonKept hv0)
    · exact fallThrough_canon (pushSb_canon (translateAs_keeps canonKept hv0))

/-! ### FrameOps -/

theorem logFrame_canon {added} (h : MemoryCanonical s) : MemoryCanonical (logFrame s added) :=
  pushUndo_canon h

/-! ### FrameExec -/

theorem enterFrame_canon {d n off t} (h : MemoryCanonical s) : MemoryCanonical (enterFrame s d n off t) :=
  fallThrough_canon (writeX_canon (pushSb_canon (setRegs_canon (logFrame_canon h))))

theorem execFenter_canon {d a p sc} (h : MemoryCanonical s) : InResult MemoryCanonical (execFenter d a p sc s) := by
  unfold execFenter
  dsimp only
  refine strand_canon h (fun _ hv0 => ?_)
  split
  · exact raiseTrap_canon hv0
  · split
    · exact raiseTrap_canon hv0
    · refine whenSbRoom_canon hv0 (fun _ hv0 => ?_)
      split
      · exact raiseTrap_canon hv0
      · exact enterFrame_canon hv0

theorem execFleave_canon (h : MemoryCanonical s) : InResult MemoryCanonical (execFleave s) := by
  unfold execFleave
  dsimp only
  refine strand_canon h (fun _ hv0 => ?_)
  split
  · exact raiseTrap_canon hv0
  · exact whenSbRoom_canon hv0 (fun _ hv0 => fallThrough_canon (pushSb_canon (setRegs_canon (logFrame_canon hv0))))

theorem execDspr_canon {d n} (h : MemoryCanonical s) : InResult MemoryCanonical (execDspr d n s) :=
  strand_canon h (fun _ hv0 => fallThrough_canon (writeX_canon hv0))

theorem setShadow_canon {t} (h : MemoryCanonical s) : MemoryCanonical (setShadow s t) :=
  syncLive_canon (setRegs_canon (logFrame_canon h))

theorem execFfold_canon {a b f} (h : MemoryCanonical s) : InResult MemoryCanonical (execFfold a b f s) := by
  unfold execFfold
  dsimp only
  refine strand_canon h (fun _ hv0 => ?_)
  split
  · exact raiseTrap_canon hv0
  · exact fallThrough_canon (setShadow_canon hv0)

theorem execFpol_canon {p} (h : MemoryCanonical s) : InResult MemoryCanonical (execFpol p s) :=
  strand_canon h (fun _ hv0 => fallThrough_canon (setShadow_canon hv0))

/-! ### Ops -/

theorem jumpTo_canon {pc} (h : MemoryCanonical s) : MemoryCanonical (jumpTo s pc) :=
  setPc_canon (retired_canon h)

/-! ### Control -/

theorem branchIf_canon {c o} (h : MemoryCanonical s) : MemoryCanonical (branchIf s c o) := by
  unfold branchIf
  split
  · exact jumpTo_canon h
  · exact fallThrough_canon h

theorem branch2_canon {a b o c} (h : MemoryCanonical s) : InResult MemoryCanonical (branch2 s a b o c) :=
  strand_canon h (fun _ hv0 => branchIf_canon hv0)

theorem execBeq_canon {a b o} (h : MemoryCanonical s) : InResult MemoryCanonical (execBeq a b o s) :=
  branch2_canon h

theorem execBne_canon {a b o} (h : MemoryCanonical s) : InResult MemoryCanonical (execBne a b o s) :=
  branch2_canon h

theorem execBlt_canon {a b o} (h : MemoryCanonical s) : InResult MemoryCanonical (execBlt a b o s) :=
  branch2_canon h

theorem execBge_canon {a b o} (h : MemoryCanonical s) : InResult MemoryCanonical (execBge a b o s) :=
  branch2_canon h

theorem execBltu_canon {a b o} (h : MemoryCanonical s) : InResult MemoryCanonical (execBltu a b o s) :=
  branch2_canon h

theorem execBgeu_canon {a b o} (h : MemoryCanonical s) : InResult MemoryCanonical (execBgeu a b o s) :=
  branch2_canon h

theorem execJal_canon {d i} (h : MemoryCanonical s) : InResult MemoryCanonical (execJal d i s) :=
  strand_canon h (fun _ hv0 => jumpTo_canon (writeX_canon hv0))

theorem execJalr_canon {d a i} (h : MemoryCanonical s) : InResult MemoryCanonical (execJalr d a i s) := by
  unfold execJalr
  dsimp only
  refine strand_canon h (fun _ hv0 => ?_)
  split
  · exact raiseTrap_canon hv0
  · exact jumpTo_canon (writeX_canon hv0)

theorem setLoop_canon {l n st bind body} (h : MemoryCanonical s) : MemoryCanonical (setLoop s l n st bind body) := by
  unfold setLoop
  dsimp only
  split
  · exact jumpTo_canon h
  · exact fallThrough_canon (writeLoop_canon h)

theorem execLoop_canon {n a l} (h : MemoryCanonical s) : InResult MemoryCanonical (execLoop n a l s) :=
  strand_canon h (fun _ hv0 => setLoop_canon hv0)

theorem execLoopt_canon {n m l} (h : MemoryCanonical s) : InResult MemoryCanonical (execLoopt n m l s) :=
  strand_canon h (fun _ hv0 => setLoop_canon hv0)

theorem execLoops_canon {n a st l} (h : MemoryCanonical s) : InResult MemoryCanonical (execLoops n a st l s) :=
  strand_canon h (fun _ hv0 => setLoop_canon hv0)

theorem endLevels_canon {n} (h : MemoryCanonical s) : MemoryCanonical (endLevels s n) := by
  unfold endLevels
  dsimp only
  refine foldl_keeps (fun _ _ hu => ?_) h
  split
  · exact writeLoop_canon hu
  · exact hu

theorem execLbrk_canon {n} (h : MemoryCanonical s) : InResult MemoryCanonical (execLbrk n s) := by
  unfold execLbrk
  dsimp only
  refine strand_canon h (fun _ hv0 => ?_)
  split
  · exact jumpTo_canon (endLevels_canon hv0)
  · exact fallThrough_canon hv0

theorem whenMasked_canon {k} (h : MemoryCanonical s) (hk : ∀ u0, MemoryCanonical u0 → MemoryCanonical (k u0)) : MemoryCanonical (whenMasked s k) := by
  unfold whenMasked
  split
  · rename_i t0 ht
    have ht0 : MemoryCanonical t0 := of_eq (DrainRes.All MemoryCanonical) ht (waitQueue_canon h)
    exact hk _ ht0
  · rename_i t0 ht
    have ht0 : MemoryCanonical t0 := of_eq (DrainRes.All MemoryCanonical) ht (waitQueue_canon h)
    exact ht0
  · rename_i t0 ht
    have ht0 : MemoryCanonical t0 := of_eq (DrainRes.All MemoryCanonical) ht (waitQueue_canon h)
    exact stall_canon ht0

theorem execBmz_canon {o} (h : MemoryCanonical s) : InResult MemoryCanonical (execBmz o s) :=
  strand_canon h (fun _ hv0 => whenMasked_canon hv0 (fun _ hv0 => branchIf_canon hv0))

theorem execBmnz_canon {o} (h : MemoryCanonical s) : InResult MemoryCanonical (execBmnz o s) :=
  strand_canon h (fun _ hv0 => whenMasked_canon hv0 (fun _ hv0 => branchIf_canon hv0))

/-! ### Queue -/

theorem atDrain_canon {k} (h : MemoryCanonical s) (hk : ∀ u0, MemoryCanonical u0 → MemoryCanonical (k u0)) : MemoryCanonical (atDrain s k) := by
  unfold atDrain
  split
  · rename_i t0 ht
    have ht0 : MemoryCanonical t0 := of_eq (DrainRes.All MemoryCanonical) ht (drainAll_canon h)
    exact hk _ ht0
  · rename_i t0 ht
    have ht0 : MemoryCanonical t0 := of_eq (DrainRes.All MemoryCanonical) ht (drainAll_canon h)
    exact ht0
  · rename_i t0 ht
    have ht0 : MemoryCanonical t0 := of_eq (DrainRes.All MemoryCanonical) ht (drainAll_canon h)
    exact stall_canon ht0

theorem drained_canon {rs k} (h : MemoryCanonical s) (hk : ∀ u0, MemoryCanonical u0 → MemoryCanonical (k u0)) : MemoryCanonical (drained s rs k) :=
  settle_canon (atDrain_canon h (fun _ hv0 => whenReady_canon hv0 (fun _ hv0 => hk _ hv0)))

/-! ### Control -/

theorem readGate_canon {va} (h : MemoryCanonical s) : GateRes.All MemoryCanonical (readGate s va) := by
  unfold readGate
  dsimp only
  split
  · exact h
  · split
    · exact translate_keeps canonKept h
    · exact translate_keeps canonKept h
    · split
      · exact readAt_keeps canonKept.near (readAt_keeps canonKept.near (translate_keeps canonKept h))
      · split
        · exact setCore_canon (readAt_keeps canonKept.near (readAt_keeps canonKept.near (translate_keeps canonKept h)))
        · exact readAt_keeps canonKept.near (readAt_keeps canonKept.near (translate_keeps canonKept h))

theorem passGate_canon {g lo hi} (h : MemoryCanonical s) : MemoryCanonical (passGate s g lo hi) := by
  unfold passGate
  dsimp only
  refine setRegs_canon ?_
  refine retired_canon ?_
  split
  · exact setVec_canon (setTrap_canon h)
  · exact setTrap_canon h

theorem execGate_canon {g} (h : MemoryCanonical s) : InResult MemoryCanonical (execGate g s) := by
  unfold execGate
  dsimp only
  refine drained_canon h (fun _ hv0 => ?_)
  split
  · exact raiseTrap_canon hv0
  · split
    · rename_i t0 ht
      have ht0 : MemoryCanonical t0 := of_eq (GateRes.All MemoryCanonical) ht (readGate_canon hv0)
      exact stall_canon ht0
    · rename_i t0 ht
      have ht0 : MemoryCanonical t0 := of_eq (GateRes.All MemoryCanonical) ht (readGate_canon hv0)
      exact raiseTrap_canon ht0
    · rename_i t0 x1 x2 ht
      have ht0 : MemoryCanonical t0 := of_eq (GateRes.All MemoryCanonical) ht (readGate_canon hv0)
      split
      · exact raiseTrap_canon ht0
      · exact passGate_canon ht0

theorem execGret_canon (h : MemoryCanonical s) : InResult MemoryCanonical (execGret s) := by
  unfold execGret
  dsimp only
  refine drained_canon h (fun _ hv0 => ?_)
  split
  · exact raiseTrap_canon hv0
  · refine setRegs_canon ?_
    refine setTrap_canon ?_
    refine retired_canon ?_
    split
    · exact setVec_canon hv0
    · exact hv0

/-! ### Ops -/

theorem flushStores_canon (h : MemoryCanonical s) : MemoryCanonical (flushStores s) :=
  flushRemote_canon (drainSb_canon h)

/-! ### ScalarMem -/

theorem whenFlushed_canon {k} (h : MemoryCanonical s) (hk : ∀ u0, MemoryCanonical u0 → MemoryCanonical (k u0)) :
    MemoryCanonical (whenFlushed s k) := by
  unfold whenFlushed
  dsimp only
  split
  · exact hk _ (flushStores_canon h)
  · exact stall_canon (flushStores_canon h)

/-! ### FrameOps -/

theorem dropEntry_canon {e} (h : MemoryCanonical s) : MemoryCanonical (dropEntry s e) :=
  childDone_canon (release_keeps canonKept.near (flushRemote_canon h))

/-! ### Frames -/

theorem readChain_canon {vf w2 y3} (h : MemoryCanonical s) : MemoryCanonical (readChain s vf w2 y3).1 := by
  induction y3 generalizing s vf w2 with
  | zero => exact liveTmpl_keeps canonKept.near (frameState_keeps canonKept.near (noteRemote_canon h))
  | succ n ih =>
    unfold readChain
    dsimp only
    split
    · exact ih (frameRead_keeps canonKept.near (liveTmpl_keeps canonKept.near (frameState_keeps canonKept.near (noteRemote_canon h))))
    · exact frameRead_keeps canonKept.near (liveTmpl_keeps canonKept.near (frameState_keeps canonKept.near (noteRemote_canon h)))

theorem setDisplay_canon {depth chain} (h : MemoryCanonical s) : MemoryCanonical (setDisplay s depth chain) :=
  setRegs_canon h

theorem rebuildDisplay_canon {vf w2} (h : MemoryCanonical s) : MemoryCanonical (rebuildDisplay s vf w2).1 := by
  unfold rebuildDisplay
  dsimp only
  split
  · exact setDisplay_canon (readChain_canon (frameState_keeps canonKept.near h))
  · exact readChain_canon (frameState_keeps canonKept.near h)

theorem runTask_canon {e resume none_} (h : MemoryCanonical s) : MemoryCanonical (runTask s e resume none_).1 := by
  unfold runTask
  dsimp only
  split
  · exact setPc_canon h
  · split
    · exact setPc_canon h
    · refine setRegs_canon ?_
      split
      · exact writeHeader_keeps canonKept.near (rebuildDisplay_canon h)
      · exact frameWrite_keeps canonKept.near (writeHeader_keeps canonKept.near (rebuildDisplay_canon h))

/-! ### FrameOps -/

theorem runNested_canon {e resume counted popped} (h : MemoryCanonical s) (hpopped : ∀ u0, MemoryCanonical u0 → MemoryCanonical (popped u0)) :
    MemoryCanonical (runNested s e resume counted popped) := by
  unfold runNested
  dsimp only
  split
  · refine setPc_canon ?_
    refine dropEntry_canon ?_
    refine hpopped _ ?_
    split
    · exact h
    · exact addChild_keeps canonKept.near h
  · split
    · refine runTask_canon ?_
      split
      · exact hpopped _ h
      · exact addChild_keeps canonKept.near (hpopped _ h)
    · split
      · exact foldPolicy_canon (reportFault_keeps canonKept.near (setPc_canon h))
      · exact trapEntry_canon (setPc_canon h)

/-! ### FrameExec -/

theorem execFork_canon {a b o} (h : MemoryCanonical s) : InResult MemoryCanonical (execFork a b o s) := by
  unfold execFork
  dsimp only
  refine drained_canon h (fun _ hv0 => ?_)
  split
  · exact raiseTrap_canon hv0
  · split
    · exact raiseTrap_canon hv0
    · split
      · exact raiseTrap_canon hv0
      · refine whenFlushed_canon hv0 (fun _ hv0 => ?_)
        split
        · exact runNested_canon hv0 (fun _ hv0 => retired_canon hv0)
        · split
          · exact stall_canon hv0
          · exact fallThrough_canon (addChild_keeps canonKept.near (setSync_canon (release_keeps canonKept.near hv0)))

/-! ### Regs -/

theorem acquire_canon {m sc} (h : MemoryCanonical s) : MemoryCanonical (acquire s m sc) :=
  mapCores_canon (selfInvalidate_keeps canonKept.near h)

/-! ### FrameOps -/

theorem joinSteps_canon (h : MemoryCanonical s) : JoinRes.All MemoryCanonical (joinSteps s) := by
  unfold joinSteps
  dsimp only
  split
  · refine frameWrite_keeps canonKept.near ?_
    refine frameState_keeps canonKept.near ?_
    split
    · exact acquire_canon (frameState_keeps canonKept.near h)
    · exact frameState_keeps canonKept.near h
  · split
    · exact runNested_canon h (fun _ hv0 => setSync_canon hv0)
    · exact h

/-! ### FrameExec -/

theorem execJoin_canon (h : MemoryCanonical s) : InResult MemoryCanonical (execJoin s) := by
  unfold execJoin
  dsimp only
  refine drained_canon h (fun _ hv0 => ?_)
  split
  · exact raiseTrap_canon hv0
  · refine whenFlushed_canon hv0 (fun _ hv0 => ?_)
    split
    · rename_i t0 ht
      have ht0 : MemoryCanonical t0 := of_eq (JoinRes.All MemoryCanonical) ht (joinSteps_canon hv0)
      exact fallThrough_canon ht0
    · rename_i t0 ht
      have ht0 : MemoryCanonical t0 := of_eq (JoinRes.All MemoryCanonical) ht (joinSteps_canon hv0)
      exact ht0
    · rename_i t0 ht
      have ht0 : MemoryCanonical t0 := of_eq (JoinRes.All MemoryCanonical) ht (joinSteps_canon hv0)
      exact setSync_canon ht0

/-! ### FrameOps -/

theorem goIdle_canon (h : MemoryCanonical s) : MemoryCanonical (goIdle s) := by
  unfold goIdle
  dsimp only
  refine mk_canon ?_
  refine loseMember_keeps canonKept ?_
  refine dropPosts_keeps canonKept ?_
  split
  · exact setCluster_keeps canonKept h
  · exact h

theorem retiring_canon (h : MemoryCanonical s) : MemoryCanonical (retiring s) :=
  mk_canon (goIdle_canon h)

theorem endStrandSteps_canon (h : MemoryCanonical s) : MemoryCanonical (endStrandSteps s) := by
  unfold endStrandSteps
  dsimp only
  split
  · exact goIdle_canon h
  · split
    · split
      · refine retiring_canon ?_
        refine setLaunch_keeps canonKept.near ?_
        split
        · exact triggerDec_keeps canonKept (release_keeps canonKept.near h)
        · exact release_keeps canonKept.near h
      · refine goIdle_canon ?_
        refine setLaunch_keeps canonKept.near ?_
        split
        · exact triggerDec_keeps canonKept (release_keeps canonKept.near h)
        · exact release_keeps canonKept.near h
    · refine goIdle_canon ?_
      split
      · exact triggerDec_keeps canonKept (release_keeps canonKept.near h)
      · exact release_keeps canonKept.near h

theorem resumeAt_canon {retfr resume} (h : MemoryCanonical s) : MemoryCanonical (resumeAt s retfr resume) := by
  unfold resumeAt
  dsimp only
  split
  · exact setPc_canon (rebuildDisplay_canon h)
  · exact foldPolicy_canon (reportFault_keeps canonKept.near (setPc_canon h))

theorem endFrame_canon (h : MemoryCanonical s) : MemoryCanonical (endFrame s) := by
  unfold endFrame
  dsimp only
  split
  · exact endStrandSteps_canon (leaveFrame_canon (frameRead_keeps canonKept.near (frameRead_keeps canonKept.near h)))
  · split
    · exact goIdle_canon (leaveFrame_canon (frameRead_keeps canonKept.near (frameRead_keeps canonKept.near h)))
    · exact resumeAt_canon (leaveFrame_canon (frameRead_keeps canonKept.near (frameRead_keeps canonKept.near h)))

/-! ### FrameExec -/

theorem closeRegion_canon (h : MemoryCanonical s) : MemoryCanonical (closeRegion s) :=
  setSync_canon h

theorem execEnd_canon (h : MemoryCanonical s) : InResult MemoryCanonical (execEnd s) := by
  unfold execEnd
  dsimp only
  refine drained_canon h (fun _ hv0 => ?_)
  split
  · exact raiseTrap_canon hv0
  · refine whenFlushed_canon hv0 (fun _ hv0 => ?_)
    split
    · rename_i t0 ht
      have ht0 : MemoryCanonical t0 := of_eq (JoinRes.All MemoryCanonical) ht (joinSteps_canon hv0)
      exact ht0
    · rename_i t0 ht
      have ht0 : MemoryCanonical t0 := of_eq (JoinRes.All MemoryCanonical) ht (joinSteps_canon hv0)
      exact setSync_canon ht0
    · rename_i t0 ht
      have ht0 : MemoryCanonical t0 := of_eq (JoinRes.All MemoryCanonical) ht (joinSteps_canon hv0)
      split
      · exact stall_canon ht0
      · split
        · rename_i t0 ht
          have ht0 : MemoryCanonical t0 := of_eq (InOption MemoryCanonical) ht (rootCopies_keeps canonKept ht0)
          exact stall_canon ht0
        · exact endFrame_canon (closeRegion_canon (retired_canon ht0))

/-! ### Control -/

theorem execBst_canon {st n o} (h : MemoryCanonical s) : InResult MemoryCanonical (execBst st n o s) :=
  strand_canon h (fun _ hv0 => branchIf_canon hv0)

/-! ### SyncExec -/

theorem execAcq_canon {a sc} (h : MemoryCanonical s) : InResult MemoryCanonical (execAcq a sc s) :=
  drained_canon h (fun _ hv0 => fallThrough_canon (acquire_canon hv0))

/-! ### SyncOps -/

theorem whenReleasable_canon {k} (h : MemoryCanonical s) (hk : ∀ u0, MemoryCanonical u0 → MemoryCanonical (k u0)) :
    MemoryCanonical (whenReleasable s k) := by
  unfold whenReleasable
  refine whenFlushed_canon h (fun _ hv0 => ?_)
  split
  · exact hk _ hv0
  · exact stall_canon hv0

/-! ### SyncExec -/

theorem execRel_canon {a sc} (h : MemoryCanonical s) : InResult MemoryCanonical (execRel a sc s) :=
  drained_canon h (fun _ hv0 => whenReleasable_canon hv0 (fun _ hv0 => fallThrough_canon (releaseHere_keeps canonKept.near hv0)))

theorem execFenceRange_canon {a b} (h : MemoryCanonical s) : InResult MemoryCanonical (execFenceRange a b s) := by
  unfold execFenceRange
  refine drained_canon h (fun _ hv0 => ?_)
  refine whenFlushed_canon hv0 (fun _ hv0 => ?_)
  split
  · exact stall_canon hv0
  · exact fallThrough_canon (fenceRange_keeps canonKept.near hv0)

theorem execFenceRemote_canon (h : MemoryCanonical s) : InResult MemoryCanonical (execFenceRemote s) :=
  drained_canon h (fun _ hv0 => fallThrough_canon (flushRemote_canon hv0))

theorem execFenceAll_canon (h : MemoryCanonical s) : InResult MemoryCanonical (execFenceAll s) :=
  drained_canon h (fun _ hv0 => whenFlushed_canon hv0 (fun _ hv0 => fallThrough_canon (setCore_canon hv0)))

/-! ### SyncOps -/

theorem svOp_canon {a acc sc rel k} (h : MemoryCanonical s) (hk : ∀ u0 a1, MemoryCanonical u0 → MemoryCanonical (k u0 a1)) :
    MemoryCanonical (svOp s a acc sc rel k) := by
  unfold svOp
  dsimp only
  split
  · rename_i t0 x1 ht
    have ht0 : MemoryCanonical t0 := of_eq (SvRes.All MemoryCanonical) ht (svCheck_keeps canonKept h)
    exact raiseTrap_canon ht0
  · rename_i t0 ht
    have ht0 : MemoryCanonical t0 := of_eq (SvRes.All MemoryCanonical) ht (svCheck_keeps canonKept h)
    exact stall_canon ht0
  · rename_i t0 x1 ht
    have ht0 : MemoryCanonical t0 := of_eq (SvRes.All MemoryCanonical) ht (svCheck_keeps canonKept h)
    split
    · refine whenReleasable_canon ht0 (fun _ hv0 => ?_)
      split
      · exact stall_canon (releaseHere_keeps canonKept.near hv0)
      · exact hk _ _ (releaseHere_keeps canonKept.near hv0)
    · split
      · exact stall_canon ht0
      · exact hk _ _ ht0

theorem svRead_canon {l sc} (h : MemoryCanonical s) : MemoryCanonical (svRead s l sc).1 := by
  unfold svRead
  dsimp only
  split
  · refine mk_canon ?_
    split
    · exact levelRead8_keeps canonKept.near h
    · exact levelRead8_keeps canonKept.near h
    · exact h
  · split
    · split
      · exact levelRead8_keeps canonKept.near h
      · exact levelRead8_keeps canonKept.near h
      · exact h
    · refine nextFree_keeps canonKept.near ?_
      split
      · exact levelRead8_keeps canonKept.near h
      · exact levelRead8_keeps canonKept.near h
      · exact h

theorem svWrite_canon {l sc v} (h : MemoryCanonical s) : MemoryCanonical (svWrite s l sc v) := by
  unfold svWrite
  dsimp only
  refine iteInduction (motive := MemoryCanonical) (fun _ => ?_) (fun _ => ?_)
  · split
    · exact levelWrite8_keeps canonKept.near h
    · exact homeWriteWords_keeps canonKept.near h
    · exact h
  · refine mk_canon ?_
    split
    · exact levelWrite8_keeps canonKept.near h
    · exact homeWriteWords_keeps canonKept.near h
    · exact h

theorem svAcquire_canon {sc acq} (h : MemoryCanonical s) : MemoryCanonical (svAcquire s sc acq) := by
  unfold svAcquire
  split
  · exact acquire_canon h
  · exact h

theorem svRmw_canon {l d sc acq f} (h : MemoryCanonical s) : MemoryCanonical (svRmw s l d sc acq f) := by
  unfold svRmw
  dsimp only
  refine fallThrough_canon ?_
  refine writeX_canon ?_
  refine svAcquire_canon ?_
  split
  · exact svWrite_canon (svRead_canon (svCount_keeps canonKept.near h))
  · exact svRead_canon (svCount_keeps canonKept.near h)

/-! ### SyncExec -/

theorem execSvld_canon {d a l c sc} (h : MemoryCanonical s) : InResult MemoryCanonical (execSvld d a l c sc s) :=
  drained_canon h (fun _ hv0 => svOp_canon hv0 (fun _ _ hv0 => svRmw_canon hv0))

theorem execSvst_canon {a b l c sc} (h : MemoryCanonical s) : InResult MemoryCanonical (execSvst a b l c sc s) :=
  drained_canon h (fun _ hv0 => svOp_canon hv0 (fun _ _ hv0 => svRmw_canon hv0))

theorem sv3_canon {d a b l c sc f} (h : MemoryCanonical s) : InResult MemoryCanonical (sv3 d a b l c sc f s) :=
  drained_canon h (fun _ hv0 => svOp_canon hv0 (fun _ _ hv0 => svRmw_canon hv0))

theorem execSvadd_canon {d a b u l c sc} (h : MemoryCanonical s) : InResult MemoryCanonical (execSvadd d a b u l c sc s) :=
  sv3_canon h

theorem execSvmax_canon {d a b u l c sc} (h : MemoryCanonical s) : InResult MemoryCanonical (execSvmax d a b u l c sc s) :=
  sv3_canon h

theorem execSvmin_canon {d a b u l c sc} (h : MemoryCanonical s) : InResult MemoryCanonical (execSvmin d a b u l c sc s) :=
  sv3_canon h

theorem execSvand_canon {d a b l c sc} (h : MemoryCanonical s) : InResult MemoryCanonical (execSvand d a b l c sc s) :=
  sv3_canon h

theorem execSvor_canon {d a b l c sc} (h : MemoryCanonical s) : InResult MemoryCanonical (execSvor d a b l c sc s) :=
  sv3_canon h

theorem execSvswap_canon {d a b l c sc} (h : MemoryCanonical s) : InResult MemoryCanonical (execSvswap d a b l c sc s) :=
  sv3_canon h

theorem execSvcas_canon {d a b l c sc} (h : MemoryCanonical s) : InResult MemoryCanonical (execSvcas d a b l c sc s) :=
  drained_canon h (fun _ hv0 => svOp_canon hv0 (fun _ _ hv0 => svRmw_canon hv0))

/-! ### SyncOps -/

theorem park_canon {l sc isLock w} (h : MemoryCanonical s) : MemoryCanonical (park s l sc isLock w) :=
  mk_canon (setSync_canon h)

/-! ### SyncExec -/

theorem execSvwait_canon {d a b u l c sc} (h : MemoryCanonical s) : InResult MemoryCanonical (execSvwait d a b u l c sc s) := by
  unfold execSvwait
  dsimp only
  refine drained_canon h (fun _ hv0 => ?_)
  refine svOp_canon hv0 (fun _ _ hv0 => ?_)
  split
  · exact fallThrough_canon (writeX_canon (svAcquire_canon (svRead_canon (svCount_keeps canonKept.near hv0))))
  · exact park_canon (svRead_canon (svCount_keeps canonKept.near hv0))

/-! ### SyncOps -/

theorem endWait_canon (h : MemoryCanonical s) : MemoryCanonical (endWait s) :=
  setSync_canon (unpark_keeps canonKept h)

theorem takeLock_canon {l sc} (h : MemoryCanonical s) : MemoryCanonical (takeLock s l sc) :=
  fallThrough_canon (acquire_canon (setHolder_keeps canonKept (endWait_canon h)))

/-! ### SyncExec -/

theorem execSvlock_canon {a sc} (h : MemoryCanonical s) : InResult MemoryCanonical (execSvlock a sc s) := by
  unfold execSvlock
  dsimp only
  refine drained_canon h (fun _ hv0 => ?_)
  refine svOp_canon hv0 (fun _ _ hv0 => ?_)
  split
  · exact takeLock_canon (svWrite_canon (svRead_canon (svCount_keeps canonKept.near hv0)))
  · split
    · exact raiseTrap_canon (svRead_canon (svCount_keeps canonKept.near hv0))
    · exact park_canon (svRead_canon (svCount_keeps canonKept.near hv0))

/-! ### Regs -/

theorem focusOn_canon {p} (h : MemoryCanonical s) : MemoryCanonical (focusOn s p) := by
  unfold focusOn
  dsimp only
  split
  · exact h
  · exact h

/-! ### SyncOps -/

theorem asCore_canon {p f} (h : MemoryCanonical s) (hf : ∀ u0, MemoryCanonical u0 → MemoryCanonical (f u0)) : MemoryCanonical (asCore s p f) :=
  focusOn_canon (hf _ (focusOn_canon h))

/-! ### SyncExec -/

theorem execSvunlock_canon {a sc} (h : MemoryCanonical s) : InResult MemoryCanonical (execSvunlock a sc s) := by
  unfold execSvunlock
  dsimp only
  refine drained_canon h (fun _ hv0 => ?_)
  refine svOp_canon hv0 (fun _ _ hv0 => ?_)
  split
  · exact raiseTrap_canon (svRead_canon (svCount_keeps canonKept.near hv0))
  · refine whenReleasable_canon (svRead_canon (svCount_keeps canonKept.near hv0)) (fun _ hv0 => ?_)
    split
    · exact fallThrough_canon (asCore_canon (releaseHere_keeps canonKept.near hv0) (fun _ hv0 => takeLock_canon hv0))
    · exact fallThrough_canon (svWrite_canon (dropHolder_keeps canonKept (releaseHere_keeps canonKept.near hv0)))

/-! ### SyncOps -/

theorem leaveBarrier_canon {form sstep c0} (h : MemoryCanonical s) : MemoryCanonical (leaveBarrier s form sstep c0) :=
  fallThrough_canon (setSync_canon (acquire_canon h))

theorem barrier_canon {form sstep} (h : MemoryCanonical s) : MemoryCanonical (barrier s form sstep) := by
  unfold barrier
  dsimp only
  split
  · split
    · exact leaveBarrier_canon h
    · exact setSync_canon h
  · split
    · exact h
    · split
      · exact raiseTrap_canon h
      · exact whenReleasable_canon h (fun _ hv0 => setSync_canon (releaseHere_keeps canonKept.near hv0))

/-! ### SyncExec -/

theorem barOp_canon {form} (h : MemoryCanonical s) : InResult MemoryCanonical (barOp form s) := by
  unfold barOp
  refine drained_canon h (fun _ hv0 => ?_)
  split
  · exact raiseTrap_canon hv0
  · split
    · exact raiseTrap_canon hv0
    · exact barrier_canon hv0

theorem execBarCluster_canon (h : MemoryCanonical s) : InResult MemoryCanonical (execBarCluster s) :=
  barOp_canon h

theorem execBarDie_canon (h : MemoryCanonical s) : InResult MemoryCanonical (execBarDie s) :=
  barOp_canon h

theorem execBarLaunch_canon (h : MemoryCanonical s) : InResult MemoryCanonical (execBarLaunch s) :=
  barOp_canon h

theorem execSstep_canon (h : MemoryCanonical s) : InResult MemoryCanonical (execSstep s) := by
  unfold execSstep
  dsimp only
  refine drained_canon h (fun _ hv0 => ?_)
  split
  · exact raiseTrap_canon hv0
  · split
    · exact raiseTrap_canon hv0
    · split
      · exact setSync_canon hv0
      · exact barrier_canon (setSync_canon hv0)

theorem execTrig_canon (h : MemoryCanonical s) : InResult MemoryCanonical (execTrig s) := by
  unfold execTrig
  dsimp only
  refine drained_canon h (fun _ hv0 => ?_)
  split
  · exact fallThrough_canon hv0
  · split
    · exact raiseTrap_canon hv0
    · split
      · exact raiseTrap_canon hv0
      · refine whenReleasable_canon hv0 (fun _ hv0 => ?_)
        split
        · exact fallThrough_canon (releaseHere_keeps canonKept.near hv0)
        · exact fallThrough_canon (triggerDec_keeps canonKept (setSync_canon (releaseHere_keeps canonKept.near hv0)))

theorem execLaunch_canon {d a} (h : MemoryCanonical s) : InResult MemoryCanonical (execLaunch d a s) := by
  unfold execLaunch
  refine drained_canon h fun u hu => whenReleasable_canon hu fun v hv => ?_
  dsimp only
  have hr : MemoryCanonical (readPrio (releaseHere v 2 allRegions) (xr (releaseHere v 2 allRegions) a)).1 :=
    readPrio_keeps canonKept.near (releaseHere_keeps canonKept.near hv)
  split
  · rename_i s4 hs
    obtain ⟨p, -, hp⟩ := Option.bind_eq_some_iff.1 hs
    exact stall_canon (of_eq (InOption MemoryCanonical) hp (appendWaits_keeps canonKept hr))
  · split
    · rename_i q hq
      obtain ⟨p, -, hp⟩ := Option.bind_eq_some_iff.1 hq
      exact fallThrough_canon (writeX_canon (of_eq (InOptionFst MemoryCanonical) hp (append_keeps canonKept.near hr)))
    · exact fallThrough_canon (writeX_canon hr)

/-! ### Control -/

theorem execLidx_canon {d m} (h : MemoryCanonical s) : InResult MemoryCanonical (execLidx d m s) :=
  strand_canon h (fun _ hv0 => fallThrough_canon (writeX_canon hv0))

/-! ### Copy -/

theorem dequeue_canon {m rest} (h : MemoryCanonical s) : MemoryCanonical (dequeue s m rest) :=
  setSync_canon (dequeueInvalidate_keeps canonKept.near h)

/-! ### SyncExec -/

theorem inboxTake_canon {d drv} (h : MemoryCanonical s) : InOption MemoryCanonical (inboxTake s d drv) := by
  unfold inboxTake
  dsimp only
  split
  · exact inOption_map fun _ => fallThrough_canon (writeX_canon (setSync_canon h))
  · split
    · exact trivial
    · exact fallThrough_canon (writeX_canon (dequeue_canon h))

theorem execInboxWait_canon {d v} (h : MemoryCanonical s) : InResult MemoryCanonical (execInboxWait d v s) := by
  unfold execInboxWait
  dsimp only
  refine drained_canon h (fun _ hv0 => ?_)
  split
  · rename_i t0 ht
    have ht0 : MemoryCanonical t0 := of_eq (InOption MemoryCanonical) ht (inboxTake_canon hv0)
    exact ht0
  · split
    · exact raiseTrap_canon hv0
    · exact setSync_canon hv0

theorem execInboxPoll_canon {d v} (h : MemoryCanonical s) : InResult MemoryCanonical (execInboxPoll d v s) := by
  unfold execInboxPoll
  refine drained_canon h (fun _ hv0 => ?_)
  split
  · rename_i t0 ht
    have ht0 : MemoryCanonical t0 := of_eq (InOption MemoryCanonical) ht (inboxTake_canon hv0)
    exact ht0
  · exact fallThrough_canon (writeX_canon hv0)

/-! ### Csr -/

theorem keepWritten_canon {c v} (h : MemoryCanonical s) : MemoryCanonical (keepWritten c v s) := by
  unfold keepWritten
  dsimp only
  split
  · exact setRegs_canon h
  · exact h

theorem writeLanedone_canon {v} (h : MemoryCanonical s) : MemoryCanonical (writeLanedone s v) := by
  unfold writeLanedone
  dsimp only
  split
  · exact dropOrphans_canon (setLanedone_canon h)
  · exact setLanedone_canon h

theorem writeLc_canon {n v} (h : MemoryCanonical s) : MemoryCanonical (writeLc s n v) :=
  writeLoop_canon h

theorem writeStgv_canon {v} (h : MemoryCanonical s) : MemoryCanonical (writeStgv s v) := by
  unfold writeStgv
  dsimp only
  refine foldl_keeps (fun _ _ hu => ?_) h
  split
  · exact writeLoop_canon hu
  · exact hu

theorem writeGstatus_canon {v} (h : MemoryCanonical s) : MemoryCanonical (writeGstatus s v) :=
  setTrap_canon h

theorem writeStatus_canon {v} (h : MemoryCanonical s) : MemoryCanonical (writeStatus s v) :=
  setTrap_canon h

/-- Either branch of a test keeps the canonical form. -/
theorem ite_canon {p : Prop} [Decidable p] {a b : State} (ha : MemoryCanonical a) (hb : MemoryCanonical b) :
    MemoryCanonical (if p then a else b) :=
  iteInduction (motive := MemoryCanonical) (fun _ => ha) fun _ => hb

theorem csrWrite_canon {c v} (h : MemoryCanonical s) : MemoryCanonical (csrWrite s c v) := by
  unfold csrWrite
  refine ite_canon (setRegs_canon h) ?_
  refine ite_canon (setRegs_canon h) ?_
  refine ite_canon (setRegs_canon h) ?_
  refine ite_canon (writeLanedone_canon h) ?_
  refine ite_canon (setRegs_canon h) ?_
  refine ite_canon (setRegs_canon h) ?_
  refine ite_canon (writeLc_canon h) ?_
  refine ite_canon (writeStgv_canon h) ?_
  refine ite_canon (setRegs_canon h) ?_
  refine ite_canon (setRegs_canon h) ?_
  refine ite_canon (writeGstatus_canon h) ?_
  refine ite_canon (setTrap_canon h) ?_
  refine ite_canon (writeStatus_canon h) ?_
  refine ite_canon (setTrap_canon h) ?_
  refine ite_canon (setTrap_canon h) ?_
  refine ite_canon (setTrap_canon h) ?_
  refine ite_canon (setTrap_canon h) ?_
  refine ite_canon (setTrap_canon h) ?_
  refine ite_canon (setTrap_canon h) ?_
  refine ite_canon (setTrap_canon h) ?_
  refine ite_canon (setTrap_canon h) ?_
  refine ite_canon (setTrap_canon h) ?_
  refine ite_canon (setTrap_canon h) ?_
  refine ite_canon (setTrap_canon h) ?_
  exact h

theorem csrAccess_canon {w d c v} (h : MemoryCanonical s) : MemoryCanonical (csrAccess s w d c v) := by
  unfold csrAccess
  dsimp only
  split
  · exact raiseTrap_canon h
  · split
    · exact fallThrough_canon (writeX_canon h)
    · split
      · exact raiseTrap_canon h
      · exact keepWritten_canon (fallThrough_canon (writeX_canon (csrWrite_canon h)))

theorem csrReadOp_canon {w d c} (h : MemoryCanonical s) : InResult MemoryCanonical (csrReadOp w d c s) := by
  unfold csrReadOp
  split
  · exact drained_canon h (fun _ hv0 => csrAccess_canon hv0)
  · exact strand_canon h (fun _ hv0 => csrAccess_canon hv0)

theorem execCsrr_canon {d c} (h : MemoryCanonical s) : InResult MemoryCanonical (execCsrr d c s) :=
  csrReadOp_canon h

theorem execCsrw_canon {d a c} (h : MemoryCanonical s) : InResult MemoryCanonical (execCsrw d a c s) :=
  drained_canon h (fun _ hv0 => csrAccess_canon hv0)

theorem execCsrs_canon {d a c} (h : MemoryCanonical s) : InResult MemoryCanonical (execCsrs d a c s) := by
  unfold execCsrs
  split
  · exact csrReadOp_canon h
  · exact drained_canon h (fun _ hv0 => csrAccess_canon hv0)

theorem execCsrc_canon {d a c} (h : MemoryCanonical s) : InResult MemoryCanonical (execCsrc d a c s) := by
  unfold execCsrc
  split
  · exact csrReadOp_canon h
  · exact drained_canon h (fun _ hv0 => csrAccess_canon hv0)

/-! ### Ops -/

theorem tretSteps_canon (h : MemoryCanonical s) : MemoryCanonical (tretSteps s) :=
  setTrap_canon (setRegs_canon (setVec_canon h))

theorem trapReturn_canon (h : MemoryCanonical s) : MemoryCanonical (trapReturn s) :=
  jumpTo_canon (tretSteps_canon h)

/-! ### TrapExec -/

theorem execTret_canon (h : MemoryCanonical s) : InResult MemoryCanonical (execTret s) := by
  unfold execTret
  refine drained_canon h (fun _ hv0 => ?_)
  split
  · exact raiseTrap_canon hv0
  · exact trapReturn_canon hv0

theorem execBkpt_canon (h : MemoryCanonical s) : InResult MemoryCanonical (execBkpt s) :=
  strand_canon h (fun _ hv0 => raiseTrap_canon hv0)

/-! ### SyncExec -/

theorem execNprb_canon (h : MemoryCanonical s) : InResult MemoryCanonical (execNprb s) := by
  unfold execNprb
  dsimp only
  refine drained_canon h (fun _ hv0 => ?_)
  split
  · exact raiseTrap_canon hv0
  · exact fallThrough_canon (setSync_canon hv0)

theorem execNpre_canon (h : MemoryCanonical s) : InResult MemoryCanonical (execNpre s) := by
  unfold execNpre
  dsimp only
  refine drained_canon h (fun _ hv0 => ?_)
  split
  · exact fallThrough_canon (setSync_canon hv0)
  · exact raiseTrap_canon hv0

/-! ### TrapExec -/

theorem execSetm_canon {i} (h : MemoryCanonical s) : InResult MemoryCanonical (execSetm i s) := by
  unfold execSetm
  dsimp only
  refine strand_canon h (fun _ hv0 => ?_)
  split
  · exact raiseTrap_canon hv0
  · exact fallThrough_canon (setRegs_canon (pushUndo_canon hv0))

theorem containOp_canon {a} (h : MemoryCanonical s) : MemoryCanonical (containOp s a) := by
  unfold containOp
  dsimp only
  split
  · refine containAs_canon ?_
    refine setPc_canon ?_
    split
    · exact h
    · exact tretSteps_canon h
  · exact containAs_canon h

theorem execContain_canon {a} (h : MemoryCanonical s) : InResult MemoryCanonical (execContain a s) :=
  settle_canon (whenReady_canon h (fun _ hv0 => atDrain_canon hv0 (fun _ hv0 => containOp_canon hv0)))

/-! ### SyncExec -/

theorem execWfi_canon (h : MemoryCanonical s) : InResult MemoryCanonical (execWfi s) := by
  unfold execWfi
  dsimp only
  refine drained_canon h (fun _ hv0 => ?_)
  split
  · exact fallThrough_canon hv0
  · exact setSync_canon hv0

/-! ### Queue -/

theorem allotLdq_canon {e} (h : MemoryCanonical s) : MemoryCanonical (allotLdq s e) := by
  unfold allotLdq
  dsimp only
  split
  · split
    · exact setQ_canon h
    · exact setQ_canon (nextFree_keeps canonKept.near h)
  · exact h

/-! ### VecMem -/

theorem fillEarly_canon {e run} (h : MemoryCanonical s) (hrun : ∀ u0, MemoryCanonical u0 → RunRes.All MemoryCanonical (run u0)) :
    MemoryCanonical (fillEarly e s run) := by
  unfold fillEarly
  dsimp only
  split
  · rename_i t0 ht
    have ht0 : MemoryCanonical t0 := of_eq (RunRes.All MemoryCanonical) ht (hrun _ h)
    exact ht0
  · rename_i t0 ht
    have ht0 : MemoryCanonical t0 := of_eq (RunRes.All MemoryCanonical) ht (hrun _ h)
    exact ht0
  · rename_i t0 x1 x2 ht
    have ht0 : MemoryCanonical t0 := of_eq (RunRes.All MemoryCanonical) ht (hrun _ h)
    exact mapLdq_canon (setLanedone_canon ht0)

theorem performEarly_canon {e} (h : MemoryCanonical s) : MemoryCanonical (performEarly s e) := by
  unfold performEarly
  split
  · exact fillEarly_canon h (fun _ hv0 => runVld_canon hv0)
  · exact fillEarly_canon h (fun _ hv0 => runVlds_canon hv0)
  · exact fillEarly_canon h (fun _ hv0 => runVldg_canon hv0)
  · exact h

/-! ### Queue -/

theorem earlyAtEnqueue_canon {e} (h : MemoryCanonical s) : MemoryCanonical (earlyAtEnqueue s e) := by
  unfold earlyAtEnqueue
  refine iteInduction (motive := MemoryCanonical) (fun _ => ?_) (fun _ => ?_)
  · exact performEarly_canon h
  · exact h

theorem enqueued_canon {e} (h : MemoryCanonical s) : MemoryCanonical (append_ s e) := by
  unfold append_
  dsimp only
  refine endTest_canon ?_
  refine earlyAtEnqueue_canon ?_
  split
  · exact setLanedone_canon (setQ_canon (allotLdq_canon h))
  · exact setQ_canon (allotLdq_canon h)

theorem enqueue_canon {i} (h : MemoryCanonical s) : MemoryCanonical (enqueue s i) := by
  unfold enqueue
  refine settle_canon ?_
  refine whenLogged_canon h (fun _ hv0 => ?_)
  split
  · exact raiseTrap_canon hv0
  · refine whenReady_canon hv0 (fun _ hv0 => ?_)
    split
    · exact raiseTrap_canon hv0
    · split
      · rename_i t0 ht
        have ht0 : MemoryCanonical t0 := of_eq (DrainRes.All MemoryCanonical) ht (waitQueue_canon hv0)
        exact enqueued_canon ht0
      · rename_i t0 ht
        have ht0 : MemoryCanonical t0 := of_eq (DrainRes.All MemoryCanonical) ht (waitQueue_canon hv0)
        exact ht0
      · rename_i t0 ht
        have ht0 : MemoryCanonical t0 := of_eq (DrainRes.All MemoryCanonical) ht (waitQueue_canon hv0)
        exact stall_canon ht0

/-! ### VecArithExec -/

theorem execVadd_canon {d a b x} (h : MemoryCanonical s) : InResult MemoryCanonical (execVadd d a b x s) :=
  enqueue_canon h

theorem execVsub_canon {d a b x} (h : MemoryCanonical s) : InResult MemoryCanonical (execVsub d a b x s) :=
  enqueue_canon h

theorem execVmul_canon {d a b x} (h : MemoryCanonical s) : InResult MemoryCanonical (execVmul d a b x s) :=
  enqueue_canon h

theorem execVfma_canon {d a b x} (h : MemoryCanonical s) : InResult MemoryCanonical (execVfma d a b x s) :=
  enqueue_canon h

theorem execVfms_canon {d a b x} (h : MemoryCanonical s) : InResult MemoryCanonical (execVfms d a b x s) :=
  enqueue_canon h

theorem execVfnma_canon {d a b x} (h : MemoryCanonical s) : InResult MemoryCanonical (execVfnma d a b x s) :=
  enqueue_canon h

theorem execVmin_canon {d a b x} (h : MemoryCanonical s) : InResult MemoryCanonical (execVmin d a b x s) :=
  enqueue_canon h

theorem execVmax_canon {d a b x} (h : MemoryCanonical s) : InResult MemoryCanonical (execVmax d a b x s) :=
  enqueue_canon h

theorem execVabs_canon {d a} (h : MemoryCanonical s) : InResult MemoryCanonical (execVabs d a s) :=
  enqueue_canon h

theorem execVneg_canon {d a} (h : MemoryCanonical s) : InResult MemoryCanonical (execVneg d a s) :=
  enqueue_canon h

theorem execVdiv_canon {d a b x} (h : MemoryCanonical s) : InResult MemoryCanonical (execVdiv d a b x s) :=
  enqueue_canon h

theorem execVsqrt_canon {d a} (h : MemoryCanonical s) : InResult MemoryCanonical (execVsqrt d a s) :=
  enqueue_canon h

theorem execVrcp_canon {d a} (h : MemoryCanonical s) : InResult MemoryCanonical (execVrcp d a s) :=
  enqueue_canon h

theorem execVrsq_canon {d a} (h : MemoryCanonical s) : InResult MemoryCanonical (execVrsq d a s) :=
  enqueue_canon h

theorem execVexp2_canon {d a} (h : MemoryCanonical s) : InResult MemoryCanonical (execVexp2 d a s) :=
  enqueue_canon h

theorem execVlog2_canon {d a} (h : MemoryCanonical s) : InResult MemoryCanonical (execVlog2 d a s) :=
  enqueue_canon h

theorem execVand_canon {d a b x} (h : MemoryCanonical s) : InResult MemoryCanonical (execVand d a b x s) :=
  enqueue_canon h

theorem execVor_canon {d a b x} (h : MemoryCanonical s) : InResult MemoryCanonical (execVor d a b x s) :=
  enqueue_canon h

theorem execVxor_canon {d a b x} (h : MemoryCanonical s) : InResult MemoryCanonical (execVxor d a b x s) :=
  enqueue_canon h

theorem execVsll_canon {d a b x} (h : MemoryCanonical s) : InResult MemoryCanonical (execVsll d a b x s) :=
  enqueue_canon h

theorem execVsrl_canon {d a b x} (h : MemoryCanonical s) : InResult MemoryCanonical (execVsrl d a b x s) :=
  enqueue_canon h

theorem execVsra_canon {d a b x} (h : MemoryCanonical s) : InResult MemoryCanonical (execVsra d a b x s) :=
  enqueue_canon h

theorem execVcmp_canon {d a b x c} (h : MemoryCanonical s) : InResult MemoryCanonical (execVcmp d a b x c s) :=
  enqueue_canon h

theorem execVsel_canon {d a b x k} (h : MemoryCanonical s) : InResult MemoryCanonical (execVsel d a b x k s) :=
  enqueue_canon h

theorem execVmov_canon {d a} (h : MemoryCanonical s) : InResult MemoryCanonical (execVmov d a s) :=
  enqueue_canon h

theorem execVbc_canon {d a} (h : MemoryCanonical s) : InResult MemoryCanonical (execVbc d a s) :=
  enqueue_canon h

theorem execViota_canon {d} (h : MemoryCanonical s) : InResult MemoryCanonical (execViota d s) :=
  enqueue_canon h

theorem execVmulh_canon {d a b x} (h : MemoryCanonical s) : InResult MemoryCanonical (execVmulh d a b x s) :=
  enqueue_canon h

theorem execVclamp_canon {d a b x} (h : MemoryCanonical s) : InResult MemoryCanonical (execVclamp d a b x s) :=
  enqueue_canon h

/-! ### VecExec -/

theorem execVld_canon {d a i} (h : MemoryCanonical s) : InResult MemoryCanonical (execVld d a i s) :=
  enqueue_canon h

theorem execVlds_canon {d a b} (h : MemoryCanonical s) : InResult MemoryCanonical (execVlds d a b s) :=
  enqueue_canon h

theorem execVldg_canon {d a b n} (h : MemoryCanonical s) : InResult MemoryCanonical (execVldg d a b n s) :=
  enqueue_canon h

theorem execVldmx_canon {d a b} (h : MemoryCanonical s) : InResult MemoryCanonical (execVldmx d a b s) :=
  enqueue_canon h

theorem execVst_canon {d a i} (h : MemoryCanonical s) : InResult MemoryCanonical (execVst d a i s) :=
  enqueue_canon h

theorem execVsts_canon {d a b} (h : MemoryCanonical s) : InResult MemoryCanonical (execVsts d a b s) :=
  enqueue_canon h

theorem execVstg_canon {d a b n} (h : MemoryCanonical s) : InResult MemoryCanonical (execVstg d a b n s) :=
  enqueue_canon h

theorem execVcvt_canon {d a p sf} (h : MemoryCanonical s) : InResult MemoryCanonical (execVcvt d a p sf s) :=
  enqueue_canon h

theorem execVcvtn_canon {d a w2 f} (h : MemoryCanonical s) : InResult MemoryCanonical (execVcvtn d a w2 f s) :=
  enqueue_canon h

theorem execLdcb_canon {a b} (h : MemoryCanonical s) : InResult MemoryCanonical (execLdcb a b s) :=
  enqueue_canon h

theorem execVperm_canon {d a b x} (h : MemoryCanonical s) : InResult MemoryCanonical (execVperm d a b x s) :=
  enqueue_canon h

theorem execVslideUp_canon {d a b} (h : MemoryCanonical s) : InResult MemoryCanonical (execVslideUp d a b s) :=
  enqueue_canon h

theorem execVslideDn_canon {d a b} (h : MemoryCanonical s) : InResult MemoryCanonical (execVslideDn d a b s) :=
  enqueue_canon h

theorem execVzip_canon {d a b w3} (h : MemoryCanonical s) : InResult MemoryCanonical (execVzip d a b w3 s) :=
  enqueue_canon h

theorem execVunzip_canon {d a b w3} (h : MemoryCanonical s) : InResult MemoryCanonical (execVunzip d a b w3 s) :=
  enqueue_canon h

theorem execVredadd_canon {d a} (h : MemoryCanonical s) : InResult MemoryCanonical (execVredadd d a s) :=
  enqueue_canon h

theorem execVredmax_canon {d a} (h : MemoryCanonical s) : InResult MemoryCanonical (execVredmax d a s) :=
  enqueue_canon h

theorem execVredmin_canon {d a} (h : MemoryCanonical s) : InResult MemoryCanonical (execVredmin d a s) :=
  enqueue_canon h

theorem execVmvx_canon {d a b} (h : MemoryCanonical s) : InResult MemoryCanonical (execVmvx d a b s) :=
  enqueue_canon h

theorem execVins_canon {d a b} (h : MemoryCanonical s) : InResult MemoryCanonical (execVins d a b s) :=
  enqueue_canon h

theorem execMpush_canon {a} (h : MemoryCanonical s) : InResult MemoryCanonical (execMpush a s) :=
  enqueue_canon h

theorem execMinv_canon (h : MemoryCanonical s) : InResult MemoryCanonical (execMinv s) :=
  enqueue_canon h

theorem execMpop_canon (h : MemoryCanonical s) : InResult MemoryCanonical (execMpop s) :=
  enqueue_canon h

theorem execMstg_canon {sf n} (h : MemoryCanonical s) : InResult MemoryCanonical (execMstg sf n s) :=
  enqueue_canon h

theorem execKmovKx_canon {d a} (h : MemoryCanonical s) : InResult MemoryCanonical (execKmovKx d a s) :=
  enqueue_canon h

theorem execKmovXk_canon {d a} (h : MemoryCanonical s) : InResult MemoryCanonical (execKmovXk d a s) :=
  enqueue_canon h

theorem execKmovKt_canon {d} (h : MemoryCanonical s) : InResult MemoryCanonical (execKmovKt d s) :=
  enqueue_canon h

theorem execKopAnd_canon {d a b} (h : MemoryCanonical s) : InResult MemoryCanonical (execKopAnd d a b s) :=
  enqueue_canon h

theorem execKopOr_canon {d a b} (h : MemoryCanonical s) : InResult MemoryCanonical (execKopOr d a b s) :=
  enqueue_canon h

theorem execKopXor_canon {d a b} (h : MemoryCanonical s) : InResult MemoryCanonical (execKopXor d a b s) :=
  enqueue_canon h

theorem execKopAndn_canon {d a b} (h : MemoryCanonical s) : InResult MemoryCanonical (execKopAndn d a b s) :=
  enqueue_canon h

theorem execVsclSet_canon {d a j} (h : MemoryCanonical s) : InResult MemoryCanonical (execVsclSet d a j s) :=
  enqueue_canon h

theorem execVsclSeta_canon {d a} (h : MemoryCanonical s) : InResult MemoryCanonical (execVsclSeta d a s) :=
  enqueue_canon h

theorem execVsclGet_canon {d a j} (h : MemoryCanonical s) : InResult MemoryCanonical (execVsclGet d a j s) :=
  enqueue_canon h

/-! ### MatrixExec -/

theorem execMrow_canon {t x v q k r} (h : MemoryCanonical s) : InResult MemoryCanonical (execMrow t x v q k r s) :=
  enqueue_canon h

theorem execMrowp_canon {t x v q k r} (h : MemoryCanonical s) : InResult MemoryCanonical (execMrowp t x v q k r s) :=
  enqueue_canon h

theorem execMrowz_canon {t x v q k r} (h : MemoryCanonical s) : InResult MemoryCanonical (execMrowz t x v q k r s) :=
  enqueue_canon h

theorem execMrowzp_canon {t x v q k r} (h : MemoryCanonical s) : InResult MemoryCanonical (execMrowzp t x v q k r s) :=
  enqueue_canon h

theorem execTzero_canon {t} (h : MemoryCanonical s) : InResult MemoryCanonical (execTzero t s) :=
  enqueue_canon h

theorem execTload_canon {t x v k} (h : MemoryCanonical s) : InResult MemoryCanonical (execTload t x v k s) :=
  enqueue_canon h

theorem execTstore_canon {t x v k} (h : MemoryCanonical s) : InResult MemoryCanonical (execTstore t x v k s) :=
  enqueue_canon h

theorem execTmovv_canon {t x v} (h : MemoryCanonical s) : InResult MemoryCanonical (execTmovv t x v s) :=
  enqueue_canon h

theorem execTvmov_canon {t x v} (h : MemoryCanonical s) : InResult MemoryCanonical (execTvmov t x v s) :=
  enqueue_canon h

theorem execTstat_canon {t x} (h : MemoryCanonical s) : InResult MemoryCanonical (execTstat t x s) :=
  enqueue_canon h

theorem execTrcfg_canon {x v q} (h : MemoryCanonical s) : InResult MemoryCanonical (execTrcfg x v q s) :=
  enqueue_canon h

theorem execTrpop_canon {q} (h : MemoryCanonical s) : InResult MemoryCanonical (execTrpop q s) :=
  enqueue_canon h

theorem execTrstat_canon {x q} (h : MemoryCanonical s) : InResult MemoryCanonical (execTrstat x q s) :=
  enqueue_canon h

theorem execFbegin_canon {k} (h : MemoryCanonical s) : InResult MemoryCanonical (execFbegin k s) :=
  enqueue_canon h

theorem execFcol_canon {x} (h : MemoryCanonical s) : InResult MemoryCanonical (execFcol x s) :=
  enqueue_canon h

theorem execFcoln_canon {x g} (h : MemoryCanonical s) : InResult MemoryCanonical (execFcoln x g s) :=
  enqueue_canon h

theorem execNgjoin_canon {x g} (h : MemoryCanonical s) : InResult MemoryCanonical (execNgjoin x g s) :=
  enqueue_canon h

theorem execNgleave_canon {g} (h : MemoryCanonical s) : InResult MemoryCanonical (execNgleave g s) :=
  enqueue_canon h

theorem execFend_canon (h : MemoryCanonical s) : InResult MemoryCanonical (execFend s) :=
  enqueue_canon h

theorem execFmaprd_canon {t x} (h : MemoryCanonical s) : InResult MemoryCanonical (execFmaprd t x s) :=
  enqueue_canon h

theorem execRdph_canon {x} (h : MemoryCanonical s) : InResult MemoryCanonical (execRdph x s) :=
  enqueue_canon h

theorem execRdgf_canon {x} (h : MemoryCanonical s) : InResult MemoryCanonical (execRdgf x s) :=
  enqueue_canon h

theorem execTperm_canon {t} (h : MemoryCanonical s) : InResult MemoryCanonical (execTperm t s) :=
  enqueue_canon h

/-! ### EngineExec -/

theorem execCpy_canon {a b sf} (h : MemoryCanonical s) : InResult MemoryCanonical (execCpy a b sf s) :=
  enqueue_canon h

theorem execCpyq_canon {a b sf} (h : MemoryCanonical s) : InResult MemoryCanonical (execCpyq a b sf s) :=
  enqueue_canon h

theorem execEngstCnt_canon {d} (h : MemoryCanonical s) : InResult MemoryCanonical (execEngstCnt d s) :=
  enqueue_canon h

theorem execEngstFva_canon {d} (h : MemoryCanonical s) : InResult MemoryCanonical (execEngstFva d s) :=
  enqueue_canon h

theorem execXsend_canon {a b} (h : MemoryCanonical s) : InResult MemoryCanonical (execXsend a b s) :=
  enqueue_canon h

theorem execXsel_canon {d a} (h : MemoryCanonical s) : InResult MemoryCanonical (execXsel d a s) :=
  enqueue_canon h

theorem execXend_canon (h : MemoryCanonical s) : InResult MemoryCanonical (execXend s) :=
  enqueue_canon h

/-! ### CoreEvents -/

theorem joinWakes_canon (h : MemoryCanonical s) : InOption MemoryCanonical (joinWakes s) := by
  unfold joinWakes
  dsimp only
  split
  · exact setSync_canon h
  · exact trivial

theorem execJoinWake_canon (h : MemoryCanonical s) : InResult MemoryCanonical (execJoinWake s) :=
  whenDue_keeps (joinWakes_canon h)

/-! ### SyncOps -/

theorem testParked_canon (h : MemoryCanonical s) : MemoryCanonical (testParked s) := by
  unfold testParked
  dsimp only
  split
  · split
    · exact h
    · split
      · exact fallThrough_canon (writeX_canon (svAcquire_canon (endWait_canon (levelRead8_keeps canonKept.near h))))
      · exact levelRead8_keeps canonKept.near h
  · exact h

/-! ### CoreEvents -/

theorem execSvwaitWake_canon {key} (h : MemoryCanonical s) : InResult MemoryCanonical (execSvwaitWake key s) := by
  unfold execSvwaitWake
  dsimp only
  split
  · exact trivial
  · exact foldl_keeps (fun _ _ hu => asCore_canon hu (fun _ hv0 => testParked_canon hv0)) h

theorem releaseFrom_canon {c0 form} (h : MemoryCanonical s) : MemoryCanonical (releaseFrom c0 form s) := by
  unfold releaseFrom
  dsimp only
  split
  · split
    · exact setSync_canon h
    · exact leaveBarrier_canon h
  · exact setSync_canon h

theorem execBarrierComplete_canon {lid form} (h : MemoryCanonical s) : InResult MemoryCanonical (execBarrierComplete lid form s) := by
  unfold execBarrierComplete
  split
  · exact trivial
  · exact foldl_keeps (fun _ _ hu => asCore_canon hu (fun _ hv0 => releaseFrom_canon hv0)) h

theorem inboxWakes_canon (h : MemoryCanonical s) : InOption MemoryCanonical (inboxWakes s) := by
  unfold inboxWakes
  split
  · split
    · exact inboxTake_canon (endWait_canon h)
    · exact trivial
  · exact trivial

theorem execInboxWake_canon (h : MemoryCanonical s) : InResult MemoryCanonical (execInboxWake s) :=
  whenDue_keeps (inboxWakes_canon h)

theorem wfiWakes_canon (h : MemoryCanonical s) : InOption MemoryCanonical (wfiWakes s) := by
  unfold wfiWakes
  split
  · exact fallThrough_canon (endWait_canon h)
  · exact trivial

theorem execWfiWake_canon (h : MemoryCanonical s) : InResult MemoryCanonical (execWfiWake s) :=
  whenDue_keeps (wfiWakes_canon h)

theorem earlyRuns_canon (h : MemoryCanonical s) : InOption MemoryCanonical (earlyRuns s) := by
  unfold earlyRuns
  dsimp only
  refine inOption_bind fun _ => ?_
  split
  · exact trivial
  · exact performEarly_canon h

theorem execEarlyLoadDeferred_canon (h : MemoryCanonical s) : InResult MemoryCanonical (execEarlyLoadDeferred s) :=
  whenDue_keeps (ifRunning_keeps (earlyRuns_canon h))

theorem headCompletes_canon {p} (h : MemoryCanonical s) : InOption MemoryCanonical (headCompletes s p) := by
  unfold headCompletes
  split
  · split
    · rename_i x0 x1 t2 _ ht
      have ht2 : MemoryCanonical t2 := of_eq (DrainRes.All MemoryCanonical) ht (runHead_canon h)
      split
      · exact ht2
      · exact trivial
    · exact trivial
  · exact trivial

theorem execMatrixCommit_canon (h : MemoryCanonical s) : InResult MemoryCanonical (execMatrixCommit s) :=
  whenDue_keeps (ifRunning_keeps (headCompletes_canon h))

theorem memberTraps_canon {p t} (h : MemoryCanonical s) : MemoryCanonical (memberTraps s p t) := by
  unfold memberTraps
  split
  · exact asCore_canon h (fun _ hv0 => trapHead_canon hv0)
  · exact h

theorem memberCommits_canon {p ts f fl} (h : MemoryCanonical s) : MemoryCanonical (memberCommits s p ts f fl) := by
  unfold memberCommits
  split
  · exact asCore_canon h (fun _ hv0 => completeHead_canon (raiseFlags_canon (setFactor_canon hv0)))
  · exact h

theorem recordAll_canon {ps col w3 winner} (h : MemoryCanonical s) : MemoryCanonical (recordAll s ps col w3 winner) :=
  foldl_keeps (fun _ _ hu => memberCommits_canon hu) h

theorem playRound_canon {c n g} (h : MemoryCanonical s) : MemoryCanonical (playRound s c n g) := by
  unfold playRound
  dsimp only
  split
  · exact foldl_keeps (fun _ _ hu => memberTraps_canon hu) (roundCancelled_keeps canonKept h)
  · split
    · exact roundDone_keeps canonKept (recordAll_canon h)
    · split
      · exact memberTraps_canon (roundCancelled_keeps canonKept h)
      · split
        · exact roundDone_keeps canonKept (recordAll_canon h)
        · refine iteInduction (motive := MemoryCanonical) (fun _ => ?_) (fun _ => ?_)
          · exact foldl_keeps (fun _ _ hu => memberTraps_canon hu) (roundCancelled_keeps canonKept h)
          · refine roundDone_keeps canonKept ?_
            refine foldl_keeps (fun _ _ hu => ?_) h
            split
            · exact memberCommits_canon hu
            · exact hu

theorem execNegotiationRound_canon {c n} (h : MemoryCanonical s) : InResult MemoryCanonical (execNegotiationRound c n s) := by
  unfold execNegotiationRound
  dsimp only
  split
  · exact playRound_canon h
  · exact trivial

theorem sbLeaves_canon (h : MemoryCanonical s) : InOption MemoryCanonical (sbLeaves s) := by
  unfold sbLeaves
  dsimp only
  split
  · split
    · exact trivial
    · exact popSb_canon h
  · exact trivial

theorem execStoreBufferLeave_canon (h : MemoryCanonical s) : InResult MemoryCanonical (execStoreBufferLeave s) :=
  whenDue_keeps (sbLeaves_canon h)

theorem remoteAnswered_canon {refused} (h : MemoryCanonical s) : InOption MemoryCanonical (remoteAnswered s refused) := by
  unfold remoteAnswered
  split
  · exact trivial
  · split
    · exact popRemote_canon h
    · exact trivial

theorem execRemoteReply_canon (h : MemoryCanonical s) : InResult MemoryCanonical (execRemoteReply s) :=
  whenDue_keeps (remoteAnswered_canon h)

theorem execLateRefusal_canon (h : MemoryCanonical s) : InResult MemoryCanonical (execLateRefusal s) :=
  whenDue_keeps (remoteAnswered_canon h)

theorem headTraps_canon (h : MemoryCanonical s) : InOption MemoryCanonical (headTraps s) := by
  unfold headTraps
  split
  · rename_i t0 ht
    have ht0 : MemoryCanonical t0 := of_eq (DrainRes.All MemoryCanonical) ht (runHead_canon h)
    exact ht0
  · exact trivial

theorem execQueuedTrap_canon (h : MemoryCanonical s) : InResult MemoryCanonical (execQueuedTrap s) :=
  whenDue_keeps (ifRunning_keeps (headTraps_canon h))

/-! ### FrameOps -/

theorem dropKilled_canon (h : MemoryCanonical s) : MemoryCanonical (dropKilled s) :=
  foldl_keeps (fun _ _ hu => dropEntry_canon hu) (setSync_canon h)

theorem unwindTo_canon {n y2} (h : MemoryCanonical s) : MemoryCanonical (unwindTo s n y2) := by
  induction y2 generalizing s n with
  | zero => exact h
  | succ n ih =>
    unfold unwindTo
    dsimp only
    split
    · exact h
    · exact ih (setRegs_canon (leaveFrame_canon (setKill_keeps canonKept.near h)))

theorem endUnwound_canon (h : MemoryCanonical s) : MemoryCanonical (endUnwound s) := by
  unfold endUnwound
  dsimp only
  split
  · exact endStrandSteps_canon h
  · exact setSync_canon h

theorem unwindKilled_canon {n} (h : MemoryCanonical s) : MemoryCanonical (unwindKilled s n) := by
  unfold unwindKilled
  dsimp only
  refine iteInduction (motive := MemoryCanonical) (fun _ => ?_) (fun _ => ?_)
  · refine flushStores_canon ?_
    refine setQ_canon ?_
    split
    · exact h
    · exact dropPosts_keeps canonKept (rollback_canon h)
  · split
    · refine goIdle_canon ?_
      refine dropKilled_canon ?_
      refine mk_canon ?_
      refine setSync_canon ?_
      refine flushStores_canon ?_
      refine setQ_canon ?_
      split
      · exact h
      · exact dropPosts_keeps canonKept (rollback_canon h)
    · split
      · refine endUnwound_canon ?_
        refine unwindTo_canon ?_
        refine dropKilled_canon ?_
        refine mk_canon ?_
        refine setSync_canon ?_
        refine flushStores_canon ?_
        refine setQ_canon ?_
        split
        · exact h
        · exact dropPosts_keeps canonKept (rollback_canon h)
      · refine iteInduction (motive := MemoryCanonical) (fun _ => ?_) (fun _ => ?_)
        · refine goIdle_canon ?_
          refine unwindTo_canon ?_
          refine dropKilled_canon ?_
          refine mk_canon ?_
          refine setSync_canon ?_
          refine flushStores_canon ?_
          refine setQ_canon ?_
          split
          · exact h
          · exact dropPosts_keeps canonKept (rollback_canon h)
        · refine resumeAt_canon ?_
          refine unwindTo_canon ?_
          refine dropKilled_canon ?_
          refine mk_canon ?_
          refine setSync_canon ?_
          refine flushStores_canon ?_
          refine setQ_canon ?_
          split
          · exact h
          · exact dropPosts_keeps canonKept (rollback_canon h)

/-! ### CoreEvents -/

theorem unwindStep_canon {n} (h : MemoryCanonical s) : MemoryCanonical (unwindStep s n) :=
  inOption_getD (rootCopies_keeps canonKept h) (unwindKilled_canon (setSync_canon (endRefusals_keeps canonKept.near (endRefusals_keeps canonKept.near
    (dropContReqs_keeps canonKept h)))))

theorem killDue_canon (h : MemoryCanonical s) : InOption MemoryCanonical (killDue s) := by
  unfold killDue
  split
  · exact trivial
  · split
    · exact trivial
    · split
      · exact endStrandSteps_canon h
      · exact trivial
    · exact inOption_map fun _ => unwindStep_canon h

theorem withdrawWait_canon (h : MemoryCanonical s) : MemoryCanonical (withdrawWait s) := by
  unfold withdrawWait
  split
  · exact fallThrough_canon (endWait_canon h)
  · split
    · exact h
    · exact endWait_canon h
  · exact h

theorem takeNpr_canon (h : MemoryCanonical s) : MemoryCanonical (takeNpr s) := by
  unfold takeNpr
  dsimp only
  refine trapEntry_canon ?_
  refine setSync_canon ?_
  refine withdrawWait_canon ?_
  split
  · exact h
  · exact endRefusals_keeps canonKept.near (dropPosts_keeps canonKept (rollback_canon h))

theorem takeLate_canon {r} (h : MemoryCanonical s) : MemoryCanonical (takeLate s r) :=
  atDrain_canon (withdrawWait_canon (setSync_canon h)) (fun _ hv0 => trapEntry_canon (setQ_canon hv0))

theorem pendingTrap_canon (h : MemoryCanonical s) : InOption MemoryCanonical (pendingTrap s) := by
  unfold pendingTrap
  split
  · exact trivial
  · split
    · exact takeNpr_canon h
    · split
      · exact trivial
      · exact inOption_map fun _ => takeLate_canon h

theorem takeInterrupt_canon {c} (h : MemoryCanonical s) : MemoryCanonical (takeInterrupt s c) := by
  unfold takeInterrupt
  dsimp only
  refine atDrain_canon (withdrawWait_canon h) (fun _ hv0 => ?_)
  refine trapEntry_canon ?_
  split
  · exact setSync_canon hv0
  · exact hv0

theorem interruptTaken_canon {fetchFails} (h : MemoryCanonical s) : InOption MemoryCanonical (interruptTaken s fetchFails) := by
  unfold interruptTaken
  split
  · exact trivial
  · split
    · exact trivial
    · exact takeInterrupt_canon h

/-! ### Fetch -/

theorem icacheAdd_canon {l} (h : MemoryCanonical s) : MemoryCanonical (icacheAdd s l) :=
  setCore_canon h

theorem fetchAhead_canon {key attr y3} (h : MemoryCanonical s) : MemoryCanonical (fetchAhead s key attr y3) := by
  induction y3 generalizing s key attr with
  | zero => exact h
  | succ n ih =>
    unfold fetchAhead
    dsimp only
    split
    · exact ih h
    · split
      · exact logRas_keeps canonKept (fetchLine_keeps canonKept.near (ih h))
      · exact icacheAdd_canon (fetchLine_keeps canonKept.near (ih h))

theorem fetchWord_canon (h : MemoryCanonical s) : Fetched.All MemoryCanonical (fetchWord s) := by
  unfold fetchWord
  dsimp only
  split
  · exact translateAs_keeps canonKept h
  · exact translateAs_keeps canonKept h
  · split
    · exact noteUse_canon (translateAs_keeps canonKept h)
    · split
      · exact fetchLine_keeps canonKept.near (noteUse_canon (translateAs_keeps canonKept h))
      · exact fetchAhead_canon (icacheAdd_canon (fetchLine_keeps canonKept.near (noteUse_canon (translateAs_keeps canonKept h))))
  · exact translateAs_keeps canonKept h

theorem execInterruptTake_canon (h : MemoryCanonical s) : InResult MemoryCanonical (execInterruptTake s) := by
  unfold execInterruptTake
  split
  · exact trivial
  · exact whenDue_keeps (interruptTaken_canon h)

/-! ### CoreEvents -/

theorem execKillUnwind_canon (h : MemoryCanonical s) : InResult MemoryCanonical (execKillUnwind s) :=
  whenDue_keeps (killDue_canon h)

theorem boundaryTrap_canon {fetchFails} (h : MemoryCanonical s) : InOption MemoryCanonical (boundaryTrap s fetchFails) := by
  unfold boundaryTrap
  split
  · rename_i t0 ht
    have ht0 : MemoryCanonical t0 := of_eq (InOption MemoryCanonical) ht (pendingTrap_canon h)
    exact ht0
  · exact interruptTaken_canon h

theorem startCore_canon {l p occ idx} (h : MemoryCanonical s) : MemoryCanonical (startCore s l p occ idx) := by
  unfold startCore
  dsimp only
  refine mk_canon ?_
  split
  · exact focusOn_canon h
  · exact zeroRange_keeps canonKept (focusOn_canon h)

theorem theft_canon {l p v e} (h : MemoryCanonical s) : MemoryCanonical (theft s l p v e) := by
  unfold theft
  dsimp only
  split
  · exact goIdle_canon (dropEntry_canon (startCore_canon (setCoreAt_canon h)))
  · split
    · exact runTask_canon (acquire_canon (startCore_canon (setCoreAt_canon h)))
    · exact goIdle_canon (dropEntry_canon (foldPolicy_canon (reportFault_keeps canonKept.near (setPc_canon (acquire_canon (startCore_canon
      (setCoreAt_canon h)))))))

/-! ### DispatchEvents -/

theorem stealDue_canon (h : MemoryCanonical s) : InOption MemoryCanonical (stealDue s) := by
  unfold stealDue
  dsimp only
  split
  · exact trivial
  · split
    · exact trivial
    · refine inOption_bind fun _ => ?_
      refine inOption_bind fun _ => ?_
      split
      · rename_i t0 ht
        have ht0 : MemoryCanonical t0 := of_eq (InOption MemoryCanonical) ht (launchCopies_keeps canonKept h)
        split
        · exact trivial
        · exact ht0
      · exact theft_canon h

theorem execSteal_canon (h : MemoryCanonical s) : InResult MemoryCanonical (execSteal s) :=
  whenDue_keeps (stealDue_canon h)

/-! ### Copy -/

theorem postMessage_canon {k st} (h : MemoryCanonical s) : MemoryCanonical (postMessage s k st) := by
  unfold postMessage
  dsimp only
  split
  · exact setCoreAt_canon h
  · exact h

theorem finishCommand_canon {c k st} (h : MemoryCanonical s) : MemoryCanonical (finishCommand s c k st) := by
  unfold finishCommand
  dsimp only
  refine postMessage_canon ?_
  refine endRefusals_keeps canonKept.near ?_
  refine setCluster_keeps canonKept ?_
  split
  · exact setTrough_keeps canonKept h
  · exact h

/-! ### CoreEvents -/

theorem execCopyComplete_canon {c} (h : MemoryCanonical s) : InResult MemoryCanonical (execCopyComplete c s) :=
  whenDue_keeps (ifEngines_keeps (inOption_map fun _ => finishCommand_canon h))

/-! ### Queue -/

theorem unitGoes_canon {p} (h : MemoryCanonical s) : InOption MemoryCanonical (unitGoes s p) := by
  unfold unitGoes
  dsimp only
  split
  · exact trivial
  · split
    · exact aheadFrom_canon h
    · split
      · rename_i t0 ht
        have ht0 : MemoryCanonical t0 := of_eq (DrainRes.All MemoryCanonical) ht (runHead_canon h)
        exact ht0
      · rename_i t0 ht
        have ht0 : MemoryCanonical t0 := of_eq (DrainRes.All MemoryCanonical) ht (runHead_canon h)
        exact trivial
      · rename_i t0 ht
        have ht0 : MemoryCanonical t0 := of_eq (DrainRes.All MemoryCanonical) ht (runHead_canon h)
        split
        · exact aheadFrom_canon h
        · exact ht0

/-! ### CoreEvents -/

theorem execExchangeArrival_canon (h : MemoryCanonical s) : InResult MemoryCanonical (execExchangeArrival s) :=
  whenDue_keeps (ifRunning_keeps (unitGoes_canon h))

/-! ### DispatchEvents -/

theorem takeStart_canon {f : Fold} {lid : Word} (h : MemoryCanonical s) : MemoryCanonical (match foldAt s f.num with
    | some f1 => setFold s { f1 with starts := f1.starts.filter (· != lid) }
    | none => s) := by
  split
  · exact setFold_keeps canonKept h
  · exact h

theorem beginPlacing_canon {f l} (h : MemoryCanonical s) : InOption MemoryCanonical (beginPlacing s f l) := by
  have ht := placingTests_keeps canonKept.near (f := f) (l := l) h
  unfold beginPlacing
  dsimp only
  split
  · rename_i s1 st hs
    rw [hs] at ht
    exact advanceHead_keeps canonKept (answer_keeps canonKept (takeStart_canon ht))
  · rename_i s1 l1 image ks hs
    rw [hs] at ht
    split
    · rename_i s2 hs2
      split
      · trivial
      · exact of_eq (InOption MemoryCanonical) hs2 (askCopies_keeps canonKept ht)
    · exact startPlacing_keeps canonKept (takeStart_canon ht)

theorem chooseDue_canon {f} (h : MemoryCanonical s) : InOption MemoryCanonical (chooseDue s f) := by
  unfold chooseDue
  split
  · exact trivial
  · split
    · exact trivial
    · exact inOption_bind fun _ => beginPlacing_canon h

theorem execChooseLaunch_canon {fold} (h : MemoryCanonical s) : InResult MemoryCanonical (execChooseLaunch fold s) := by
  unfold execChooseLaunch
  split
  · exact trivial
  · exact whenDue_keeps (chooseDue_canon h)

theorem takeLaunch_canon {s0 c l} (h : MemoryCanonical s0) : MemoryCanonical (takeLaunch s0 c l) := by
  unfold takeLaunch
  dsimp only
  refine writeHeader_keeps canonKept.near ?_
  refine zeroRange_keeps canonKept ?_
  refine mapCores_canon ?_
  refine setCluster_keeps canonKept ?_
  split
  · split
    · exact emptyCluster_keeps canonKept.near (setLaunch_keeps canonKept.near h)
    · exact setLaunch_keeps canonKept.near h
  · refine zeroRange_keeps canonKept ?_
    split
    · exact emptyCluster_keeps canonKept.near (setLaunch_keeps canonKept.near h)
    · exact setLaunch_keeps canonKept.near h

theorem execClusterTakeLaunch_canon {c lid} (h : MemoryCanonical s) : InResult MemoryCanonical (execClusterTakeLaunch c lid s) := by
  unfold execClusterTakeLaunch
  split
  · exact trivial
  · split
    · exact takeLaunch_canon h
    · exact trivial

theorem startStrand_canon {f l p} (h : MemoryCanonical s) : MemoryCanonical (startStrand s f l p) :=
  setLaunch_keeps canonKept.near (acquire_canon (setDisplay_canon (setRegs_canon (writeHeader_keeps canonKept.near (zeroRange_keeps canonKept
    (startCore_canon h))))))

theorem strandDue_canon {p} (h : MemoryCanonical s) : InOption MemoryCanonical (strandDue s p) := by
  unfold strandDue
  dsimp only
  split
  · exact trivial
  · split
    · split
      · exact foldl_keeps (fun _ _ hu => startStrand_canon hu) h
      · exact startStrand_canon h
    · split
      · exact postWave_keeps canonKept h
      · exact trivial

theorem execStrandStart_canon {p} (h : MemoryCanonical s) : InResult MemoryCanonical (execStrandStart p s) :=
  whenDue_keeps (strandDue_canon h)

theorem freeRetired_canon {lid} (h : MemoryCanonical s) : MemoryCanonical (freeRetired s lid) :=
  mapCores_canon h

theorem nodeReports_canon {l n} (h : MemoryCanonical s) : InOption MemoryCanonical (nodeReports s l n) := by
  unfold nodeReports
  split
  · exact freeRetired_canon (nodeReport_keeps canonKept h)
  · exact trivial

theorem execCounterReport_canon {lid node} (h : MemoryCanonical s) : InResult MemoryCanonical (execCounterReport lid node s) :=
  whenDue_keeps (inOption_bind fun _ => nodeReports_canon h)

/-! ### SwitchEvents -/

theorem completeStarted_canon {y0 y1} (h : MemoryCanonical y1) : MemoryCanonical (completeStarted y0 y1) := by
  induction y0 generalizing y1 with
  | zero => exact h
  | succ n ih =>
    unfold completeStarted
    split
    · split
      · rename_i t0 ht
        have ht0 : MemoryCanonical t0 := of_eq (DrainRes.All MemoryCanonical) ht (runHead_canon h)
        exact ih ht0
      · rename_i t0 ht
        have ht0 : MemoryCanonical t0 := of_eq (DrainRes.All MemoryCanonical) ht (runHead_canon h)
        exact ht0
      · rename_i t0 ht
        have ht0 : MemoryCanonical t0 := of_eq (DrainRes.All MemoryCanonical) ht (runHead_canon h)
        exact ht0
    · exact h

theorem performAllSb_canon {y0 y1} (h : MemoryCanonical y1) : MemoryCanonical (performAllSb y0 y1) := by
  induction y0 generalizing y1 with
  | zero => exact h
  | succ n ih =>
    unfold performAllSb
    dsimp only
    split
    · exact h
    · split
      · rename_i t0 ht
        have ht0 : MemoryCanonical t0 := of_eq (InOption MemoryCanonical) ht (leaveCopies_keeps canonKept h)
        exact ht0
      · exact ih (performSb_canon (setQ_canon h))

/-! ### Coherence -/

theorem writeBackCore_canon {p} (h : MemoryCanonical s) : MemoryCanonical (writeBackCore s p) := by
  unfold writeBackCore
  dsimp only
  refine mk_canon ?_
  refine foldl_keeps (fun _ _ hu => ?_) (release_keeps canonKept.near h)
  split
  · exact revoke_keeps canonKept.near hu
  · exact hu

/-! ### SwitchEvents -/

theorem stopCore_canon (h : MemoryCanonical s) : MemoryCanonical (stopCore s) := by
  unfold stopCore
  dsimp only
  refine iteInduction (motive := MemoryCanonical) (fun _ => ?_) (fun _ => ?_)
  · refine setCore_canon ?_
    refine uncounted_keeps canonKept.near (fun _ hv0 => writeBackCore_canon hv0) ?_
    refine flushRemote_canon ?_
    refine performAllSb_canon ?_
    refine forgetWaits_keeps canonKept.near ?_
    refine dropPosts_keeps canonKept ?_
    split
    · exact completeStarted_canon (withdrawWait_canon h)
    · exact rollback_canon (completeStarted_canon (withdrawWait_canon h))
  · refine performAllSb_canon ?_
    refine forgetWaits_keeps canonKept.near ?_
    refine dropPosts_keeps canonKept ?_
    split
    · exact completeStarted_canon (withdrawWait_canon h)
    · exact rollback_canon (completeStarted_canon (withdrawWait_canon h))

theorem stopCores_canon {f vf} (h : MemoryCanonical s) : MemoryCanonical (stopCores s f vf) :=
  foldl_keeps (fun _ _ hu => asCore_canon hu (fun _ hv0 => stopCore_canon hv0)) h

theorem saveVf_canon {f vf} (h : MemoryCanonical s) : MemoryCanonical (saveVf s f vf) := by
  unfold saveVf
  dsimp only
  split
  · exact uncounted_keeps canonKept.near (fun _ hv0 => writeBackCaches_keeps canonKept.near hv0) h
  · exact mk_canon (mapCores_canon (setVf_keeps canonKept.near (writeArea_keeps canonKept.near (uncounted_keeps canonKept.near
    (fun _ hv0 => writeBackCaches_keeps canonKept.near hv0) h))))

theorem switchOut_canon {f vf t} (h : MemoryCanonical s) : MemoryCanonical (switchOut s f vf t) := by
  unfold switchOut
  dsimp only
  split
  · refine setFold_keeps canonKept ?_
    split
    · exact setVf_keeps canonKept.near (saveVf_canon h)
    · exact saveVf_canon h
  · split
    · exact setVf_keeps canonKept.near (saveVf_canon h)
    · exact saveVf_canon h

theorem switchOutDue_canon {f} (h : MemoryCanonical s) : InOption MemoryCanonical (switchOutDue s f) := by
  unfold switchOutDue
  dsimp only
  split
  · split
    · exact trivial
    · split
      · exact switchOut_canon (stopCores_canon (atSwitchTime_keeps canonKept h))
      · split
        · exact trivial
        · exact stopCores_canon (atSwitchTime_keeps canonKept h)
  · exact trivial

theorem execGangSwitchOut_canon {fold} (h : MemoryCanonical s) : InResult MemoryCanonical (execGangSwitchOut fold s) := by
  unfold execGangSwitchOut
  split
  · exact trivial
  · exact whenDue_keeps (switchOutDue_canon h)

theorem restartVf_canon {f vf} (h : MemoryCanonical s) : MemoryCanonical (restartVf s f vf) :=
  beginRunning_keeps canonKept (foldl_keeps (fun _ _ hu => asCore_canon hu (fun _ hv0 => acquire_canon hv0)) h)

/-- Clearing ranges one after the other keeps the canonical form. -/
theorem clearRanges_wf {m : Memory} (rs : List (Nat × Nat)) (h : Memory.wf m = true) :
    Memory.wf (rs.foldl (fun m r => Memory.clear m r.1 (r.1 + r.2)) m) = true := by
  induction rs generalizing m with
  | nil => exact h
  | cons r t ih => exact ih (Memory.clear_wf r.1 (r.1 + r.2) h)

theorem restoreCtx_canon {x} (h : MemoryCanonical s) : MemoryCanonical (restoreCtx s x) := by
  unfold restoreCtx
  refine foldl_keeps (fun _ _ hu => setCoreAt_canon hu) (foldl_keeps (fun _ _ hu => setCluster_keeps canonKept hu) ?_)
  exact putCells_wf x.locals (clearRanges_wf _ h)

theorem putBack_canon {f vf x} (h : MemoryCanonical s) : MemoryCanonical (putBack s f vf x) :=
  setFold_keeps canonKept (dropSaved_keeps canonKept.near (restoreCtx_canon h))

theorem restoreDue_canon {f v x tagsOk} (h : MemoryCanonical s) : InOption MemoryCanonical (restoreDue s f v x tagsOk) := by
  unfold restoreDue
  dsimp only
  split
  · split
    · exact trivial
    · exact beginRunning_keeps canonKept (dropSaved_keeps canonKept.near (failRestore_keeps canonKept h))
  · split
    · exact trivial
    · split
      · exact putBack_canon h
      · split
        · exact trivial
        · exact setVf_keeps canonKept.near (injectRound_keeps canonKept.near h)

theorem switchInDue_canon {f vf tagsOk} (h : MemoryCanonical s) : InOption MemoryCanonical (switchInDue s f vf tagsOk) := by
  unfold switchInDue
  split
  · split
    · exact restartVf_canon h
    · exact trivial
  · exact trivial
  · split
    · exact trivial
    · refine inOption_bind fun _ => ?_
      split
      · exact beginRunning_keeps canonKept h
      · exact restoreDue_canon h

theorem execGangSwitchIn_canon {fold vf tagsOk} (h : MemoryCanonical s) : InResult MemoryCanonical (execGangSwitchIn fold vf tagsOk s) := by
  unfold execGangSwitchIn
  split
  · exact trivial
  · exact whenDue_keeps (switchInDue_canon h)

/-! ### CoreEvents -/

theorem execNprOverrun_canon (h : MemoryCanonical s) : InResult MemoryCanonical (execNprOverrun s) := by
  unfold execNprOverrun
  split
  · exact takeNpr_canon h
  · exact trivial

/-! ### MeshEvents -/

theorem execUncorrectableError_canon {place keys} (h : MemoryCanonical s) : InResult MemoryCanonical (execUncorrectableError place keys s) := by
  unfold execUncorrectableError
  dsimp only
  split
  · exact trivial
  · refine logRas_keeps canonKept ?_
    split
    · exact mapCores_canon (foldl_keeps (fun _ _ hu => poisonAt_keeps canonKept.near hu) h)
    · exact foldl_keeps (fun _ _ hu => poisonAt_keeps canonKept.near hu) h

/-! ### ModuleEvents -/

theorem execPowerOn_canon : InResult MemoryCanonical (execPowerOn s) := by
  have h : MemoryCanonical State.reset := rfl
  unfold execPowerOn
  dsimp only
  split
  · exact h
  · exact bootFrom2_keeps canonKept h

theorem warmBase_canon (h : MemoryCanonical s) : MemoryCanonical (warmBase s) :=
  Memory.filter_wf _ (foldl_keeps (fun _ _ hu => resetWords_keeps canonKept.near hu) h)

theorem execModuleWarmReset_canon (h : MemoryCanonical s) : InResult MemoryCanonical (execModuleWarmReset s) := by
  unfold execModuleWarmReset
  dsimp only
  split
  · exact trivial
  · exact bootFrom2_keeps canonKept (setSvc_keeps canonKept.near (warmBase_canon h))

/-! ### SwitchEvents -/

theorem resetFold_canon {f} (h : MemoryCanonical s) : MemoryCanonical (resetFold s f) := by
  unfold resetFold
  refine postHeads_keeps canonKept (setFold_keeps canonKept ?_)
  exact Memory.filter_wf _ (resetWords_keeps canonKept.near (foldl_keeps (fun _ _ hu => answer_keeps canonKept hu) (cancelJob_keeps canonKept.near h)))

/-! ### ServiceEvents -/

theorem removeFold_canon {f} (h : MemoryCanonical s) : MemoryCanonical (removeFold s f) :=
  Memory.clear_wf _ _ (mapHandles_keeps canonKept (foldl_keeps (P := MemoryCanonical) (fun _ _ hu => setDieFold_keeps canonKept.near hu)
    (resetFold_canon h)))

theorem execFolddel_canon {fr fold} (h : MemoryCanonical s) : InResult MemoryCanonical (execFolddel fr fold s) := by
  unfold execFolddel
  refine servePar_keeps canonKept h (fun _ hv0 => ?_)
  split
  · exact trivial
  · exact removeFold_canon hv0

theorem execFoldreset_canon {fr fold} (h : MemoryCanonical s) : InResult MemoryCanonical (execFoldreset fr fold s) := by
  unfold execFoldreset
  split
  · refine servePar_keeps canonKept h (fun _ hv0 => ?_)
    split
    · exact trivial
    · exact resetFold_canon hv0
  · split
    · exact trivial
    · split
      · exact resetFold_canon h
      · exact trivial

theorem forgetVf_canon {vf} (h : MemoryCanonical s) : MemoryCanonical (forgetVf s vf) :=
  mk_canon (mapCores_canon h)

theorem removeVf_canon {v} (h : MemoryCanonical s) : MemoryCanonical (removeVf s v) :=
  mk_canon (forgetVf_canon h)

theorem execVfdel_canon {fr vf} (h : MemoryCanonical s) : InResult MemoryCanonical (execVfdel fr vf s) := by
  unfold execVfdel
  refine servePar_keeps canonKept h (fun _ hv0 => ?_)
  split
  · exact trivial
  · split
    · exact trivial
    · exact removeVf_canon hv0

/-! ### ModuleEvents -/

theorem loadAppend_canon {vf x} {o : Option State} (h : InOption MemoryCanonical o) : InOption MemoryCanonical (loadAppend vf o x) := by
  cases o with
  | none => trivial
  | some s =>
    change InOption MemoryCanonical ((vfAt s vf).bind _)
    refine inOption_bind fun v => ?_
    dsimp only
    split
    · trivial
    · split
      · exact setVf_keeps canonKept.near h
      · split
        · rename_i s1 hs
          exact setVf_keeps canonKept.near (of_eq (InOption MemoryCanonical) hs (appendWaits_keeps canonKept h))
        · exact inOption_mapFst (append_keeps canonKept.near h)

/-- Appending the launches of a file keeps the canonical form. -/
theorem loadAppends_canon {vf} {l : List (Nat × Nat)} {o : Option State} (h : InOption MemoryCanonical o) :
    InOption MemoryCanonical (l.foldl (loadAppend vf) o) := by
  induction l generalizing o with
  | nil => exact h
  | cons x t ih => exact ih (loadAppend_canon h)

theorem execLoadFile_canon {fr vf plan} (h : MemoryCanonical s) : InResult MemoryCanonical (execLoadFile fr vf plan s) := by
  unfold execLoadFile
  refine servePar_keeps canonKept h fun u hu => ?_
  split
  · trivial
  · dsimp only
    split
    · trivial
    · split
      · exact answerFrame_keeps canonKept.near (logRas_keeps canonKept hu)
      · rename_i s2 hs
        have hs2 : MemoryCanonical s2 := by
          obtain ⟨rows, -, hr⟩ := Option.bind_eq_some_iff.1 hs
          split at hr
          · obtain rfl := Option.some.inj hr
            exact foldl_fst_keeps (fun _ _ hu => loadPage_keeps canonKept hu) hu
          · exact absurd hr nofun
        split
        · trivial
        · rename_i s3 hs3
          exact of_eq (InOption MemoryCanonical) hs3 (loadAppends_canon hs2)

/-! ### DispatchEvents -/

theorem execContainact_canon {fold lid policy} (h : MemoryCanonical s) : InResult MemoryCanonical (execContainact fold lid policy s) := by
  unfold execContainact
  dsimp only
  split
  · exact trivial
  · split
    · split
      · refine applyPolicy_canon ?_
        refine mk_canon ?_
        split
        · exact setCoreAt_canon (setFold_keeps canonKept (consumeMsg_keeps canonKept h))
        · exact setFold_keeps canonKept (consumeMsg_keeps canonKept h)
      · exact ignoreMsg_keeps canonKept h
    · exact ignoreMsg_keeps canonKept h

/-! ### ModuleEvents -/

theorem stage3_canon {f} (h : MemoryCanonical s) : MemoryCanonical (stage3 s f) := by
  unfold stage3
  dsimp only
  split
  · split
    · exact setFold_keeps canonKept h
    · exact h
  · split
    · refine killLaunch_canon ?_
      refine setLaunch_keeps canonKept.near ?_
      split
      · exact setFold_keeps canonKept h
      · exact h
    · split
      · exact setFold_keeps canonKept h
      · exact h

theorem stageActs_canon {f n} (h : MemoryCanonical s) : MemoryCanonical (stageActs s f n) := by
  unfold stageActs
  dsimp only
  split
  · exact mapDrovers_keeps canonKept.near h
  · split
    · exact mapDrovers_keeps canonKept.near h
    · split
      · exact stage3_canon h
      · split
        · exact resetFold_canon h
        · split
          · exact h
          · split
            · exact setSvc_keeps canonKept.near h
            · exact h

theorem watchdogDue_canon {f} (h : MemoryCanonical s) : InOption MemoryCanonical (watchdogDue s f) := by
  unfold watchdogDue
  dsimp only
  split
  · split
    · exact trivial
    · exact setStage_keeps canonKept h
  · split
    · exact trivial
    · exact stageActs_canon (setStage_keeps canonKept h)

theorem execWatchdogStage_canon {fold} (h : MemoryCanonical s) : InResult MemoryCanonical (execWatchdogStage fold s) := by
  unfold execWatchdogStage
  split
  · exact trivial
  · exact whenDue_keeps (watchdogDue_canon h)

/-! ### CoreEvents -/

theorem execUnitIssue_canon {u} (h : MemoryCanonical s) : InResult MemoryCanonical (execUnitIssue u s) :=
  whenDue_keeps (ifRunning_keeps (unitGoes_canon h))

/-! ### TrapExec -/

theorem execIllegalInstruction_canon {w} (h : MemoryCanonical s) : InResult MemoryCanonical (execIllegalInstruction w s) :=
  settle_canon (raiseTrap_canon h)

/-! ### CoreEvents -/

theorem execDroverMessage_canon {p v} (h : MemoryCanonical s) : InResult MemoryCanonical (execDroverMessage p v s) := by
  unfold execDroverMessage
  dsimp only
  split
  · exact trivial
  · exact setCoreAt_canon h

theorem portDone_canon {e fault} (h : MemoryCanonical s) : MemoryCanonical (portDone s e fault) := by
  unfold portDone
  split
  · split
    · exact trapHead_canon h
    · exact completeHead_canon h
  · exact noteAhead_canon h

theorem sendOne_canon {all x} (h : MemoryCanonical s) : MemoryCanonical (sendOne all s x) := by
  unfold sendOne
  dsimp only
  split
  · exact asCore_canon h (fun _ hv0 => portDone_canon hv0)
  · exact asCore_canon h (fun _ hv0 => portDone_canon (mk_canon hv0))

theorem execExchangeSend_canon (h : MemoryCanonical s) : InResult MemoryCanonical (execExchangeSend s) := by
  unfold execExchangeSend
  split
  · exact trivial
  · exact foldl_keeps (fun _ _ hu => sendOne_canon hu) h

/-! ### MeshEvents -/

theorem execParityError_canon {line} (h : MemoryCanonical s) : InResult MemoryCanonical (execParityError line s) := by
  unfold execParityError
  dsimp only
  split
  · exact logRas_keeps canonKept (setCore_canon h)
  · exact trivial

/-! ### ScalarMem -/

theorem prefArrives_canon {f rest} (h : MemoryCanonical s) : MemoryCanonical (prefArrives s f rest) :=
  fillLine_keeps canonKept.near (setCore_canon h)

/-! ### CoreEvents -/

theorem prefDue_canon (h : MemoryCanonical s) : InOption MemoryCanonical (prefDue s) := by
  unfold prefDue
  split
  · exact trivial
  · exact prefArrives_canon h

theorem execPrefFill_canon (h : MemoryCanonical s) : InResult MemoryCanonical (execPrefFill s) :=
  whenDue_keeps (prefDue_canon h)

/-! ### Dispatch -/

theorem exec_canon {i} (h : MemoryCanonical s) : InResult MemoryCanonical (exec i s) := by
  cases i with
  | add => exact execAdd_canon h
  | sub => exact execSub_canon h
  | and => exact execAnd_canon h
  | or => exact execOr_canon h
  | xor => exact execXor_canon h
  | sll => exact execSll_canon h
  | srl => exact execSrl_canon h
  | sra => exact execSra_canon h
  | slt => exact execSlt_canon h
  | sltu => exact execSltu_canon h
  | min => exact execMin_canon h
  | max => exact execMax_canon h
  | minu => exact execMinu_canon h
  | maxu => exact execMaxu_canon h
  | mul => exact execMul_canon h
  | mulh => exact execMulh_canon h
  | mulhu => exact execMulhu_canon h
  | div => exact execDiv_canon h
  | divu => exact execDivu_canon h
  | rem => exact execRem_canon h
  | remu => exact execRemu_canon h
  | bitClz => exact execBitClz_canon h
  | bitCtz => exact execBitCtz_canon h
  | bitPopc => exact execBitPopc_canon h
  | bitBrev => exact execBitBrev_canon h
  | addi => exact execAddi_canon h
  | andi => exact execAndi_canon h
  | ori => exact execOri_canon h
  | xori => exact execXori_canon h
  | slli => exact execSlli_canon h
  | srli => exact execSrli_canon h
  | srai => exact execSrai_canon h
  | slti => exact execSlti_canon h
  | sltiu => exact execSltiu_canon h
  | lui => exact execLui_canon h
  | auipc => exact execAuipc_canon h
  | shor => exact execShor_canon h
  | fadd => exact execFadd_canon h
  | fsub => exact execFsub_canon h
  | fmul => exact execFmul_canon h
  | fdiv => exact execFdiv_canon h
  | fma => exact execFma_canon h
  | fsqrt => exact execFsqrt_canon h
  | fmin => exact execFmin_canon h
  | fmax => exact execFmax_canon h
  | fcmpEq => exact execFcmpEq_canon h
  | fcmpLt => exact execFcmpLt_canon h
  | fcmpLe => exact execFcmpLe_canon h
  | fcvtI64f => exact execFcvtI64f_canon h
  | fcvtFi64 => exact execFcvtFi64_canon h
  | fcvtF16f => exact execFcvtF16f_canon h
  | fcvtFf16 => exact execFcvtFf16_canon h
  | fcvtB16f => exact execFcvtB16f_canon h
  | fcvtFb16 => exact execFcvtFb16_canon h
  | fcvtS20f => exact execFcvtS20f_canon h
  | fcvtFs20 => exact execFcvtFs20_canon h
  | lb => exact execLb_canon h
  | lbu => exact execLbu_canon h
  | lh => exact execLh_canon h
  | lhu => exact execLhu_canon h
  | lw => exact execLw_canon h
  | lwu => exact execLwu_canon h
  | ld => exact execLd_canon h
  | sb => exact execSb_canon h
  | sh => exact execSh_canon h
  | sw => exact execSw_canon h
  | sd => exact execSd_canon h
  | pref => exact execPref_canon h
  | cboWb => exact execCboWb_canon h
  | cboWbinv => exact execCboWbinv_canon h
  | cboInv => exact execCboInv_canon h
  | fld => exact execFld_canon h
  | fst => exact execFst_canon h
  | fadr => exact execFadr_canon h
  | facc => exact execFacc_canon h
  | fenter => exact execFenter_canon h
  | fleave => exact execFleave_canon h
  | dspr => exact execDspr_canon h
  | ffold => exact execFfold_canon h
  | fpol => exact execFpol_canon h
  | beq => exact execBeq_canon h
  | bne => exact execBne_canon h
  | blt => exact execBlt_canon h
  | bge => exact execBge_canon h
  | bltu => exact execBltu_canon h
  | bgeu => exact execBgeu_canon h
  | jal => exact execJal_canon h
  | jalr => exact execJalr_canon h
  | loop => exact execLoop_canon h
  | loopt => exact execLoopt_canon h
  | loops => exact execLoops_canon h
  | lbrk => exact execLbrk_canon h
  | bmz => exact execBmz_canon h
  | bmnz => exact execBmnz_canon h
  | gate => exact execGate_canon h
  | gret => exact execGret_canon h
  | fork => exact execFork_canon h
  | join => exact execJoin_canon h
  | endStrand => exact execEnd_canon h
  | bst => exact execBst_canon h
  | acq => exact execAcq_canon h
  | rel => exact execRel_canon h
  | fenceRange => exact execFenceRange_canon h
  | fenceRemote => exact execFenceRemote_canon h
  | fenceAll => exact execFenceAll_canon h
  | svld => exact execSvld_canon h
  | svst => exact execSvst_canon h
  | svadd => exact execSvadd_canon h
  | svmax => exact execSvmax_canon h
  | svmin => exact execSvmin_canon h
  | svand => exact execSvand_canon h
  | svor => exact execSvor_canon h
  | svswap => exact execSvswap_canon h
  | svcas => exact execSvcas_canon h
  | svwait => exact execSvwait_canon h
  | svlock => exact execSvlock_canon h
  | svunlock => exact execSvunlock_canon h
  | barCluster => exact execBarCluster_canon h
  | barDie => exact execBarDie_canon h
  | barLaunch => exact execBarLaunch_canon h
  | sstep => exact execSstep_canon h
  | trig => exact execTrig_canon h
  | launch => exact execLaunch_canon h
  | lidx => exact execLidx_canon h
  | inboxWait => exact execInboxWait_canon h
  | inboxPoll => exact execInboxPoll_canon h
  | csrr => exact execCsrr_canon h
  | csrw => exact execCsrw_canon h
  | csrs => exact execCsrs_canon h
  | csrc => exact execCsrc_canon h
  | tret => exact execTret_canon h
  | bkpt => exact execBkpt_canon h
  | nprb => exact execNprb_canon h
  | npre => exact execNpre_canon h
  | setm => exact execSetm_canon h
  | contain => exact execContain_canon h
  | wfi => exact execWfi_canon h
  | vadd => exact execVadd_canon h
  | vsub => exact execVsub_canon h
  | vmul => exact execVmul_canon h
  | vfma => exact execVfma_canon h
  | vfms => exact execVfms_canon h
  | vfnma => exact execVfnma_canon h
  | vmin => exact execVmin_canon h
  | vmax => exact execVmax_canon h
  | vabs => exact execVabs_canon h
  | vneg => exact execVneg_canon h
  | vdiv => exact execVdiv_canon h
  | vsqrt => exact execVsqrt_canon h
  | vrcp => exact execVrcp_canon h
  | vrsq => exact execVrsq_canon h
  | vexp2 => exact execVexp2_canon h
  | vlog2 => exact execVlog2_canon h
  | vand => exact execVand_canon h
  | vor => exact execVor_canon h
  | vxor => exact execVxor_canon h
  | vsll => exact execVsll_canon h
  | vsrl => exact execVsrl_canon h
  | vsra => exact execVsra_canon h
  | vcmp => exact execVcmp_canon h
  | vsel => exact execVsel_canon h
  | vmov => exact execVmov_canon h
  | vbc => exact execVbc_canon h
  | viota => exact execViota_canon h
  | vmulh => exact execVmulh_canon h
  | vclamp => exact execVclamp_canon h
  | vld => exact execVld_canon h
  | vlds => exact execVlds_canon h
  | vldg => exact execVldg_canon h
  | vldmx => exact execVldmx_canon h
  | vst => exact execVst_canon h
  | vsts => exact execVsts_canon h
  | vstg => exact execVstg_canon h
  | vcvt => exact execVcvt_canon h
  | vcvtn => exact execVcvtn_canon h
  | ldcb => exact execLdcb_canon h
  | vperm => exact execVperm_canon h
  | vslideUp => exact execVslideUp_canon h
  | vslideDn => exact execVslideDn_canon h
  | vzip => exact execVzip_canon h
  | vunzip => exact execVunzip_canon h
  | vredadd => exact execVredadd_canon h
  | vredmax => exact execVredmax_canon h
  | vredmin => exact execVredmin_canon h
  | vmvx => exact execVmvx_canon h
  | vins => exact execVins_canon h
  | mpush => exact execMpush_canon h
  | minv => exact execMinv_canon h
  | mpop => exact execMpop_canon h
  | mstg => exact execMstg_canon h
  | kmovKx => exact execKmovKx_canon h
  | kmovXk => exact execKmovXk_canon h
  | kmovKt => exact execKmovKt_canon h
  | kopAnd => exact execKopAnd_canon h
  | kopOr => exact execKopOr_canon h
  | kopXor => exact execKopXor_canon h
  | kopAndn => exact execKopAndn_canon h
  | vsclSet => exact execVsclSet_canon h
  | vsclSeta => exact execVsclSeta_canon h
  | vsclGet => exact execVsclGet_canon h
  | mrow => exact execMrow_canon h
  | mrowp => exact execMrowp_canon h
  | mrowz => exact execMrowz_canon h
  | mrowzp => exact execMrowzp_canon h
  | tzero => exact execTzero_canon h
  | tload => exact execTload_canon h
  | tstore => exact execTstore_canon h
  | tmovv => exact execTmovv_canon h
  | tvmov => exact execTvmov_canon h
  | tstat => exact execTstat_canon h
  | trcfg => exact execTrcfg_canon h
  | trpop => exact execTrpop_canon h
  | trstat => exact execTrstat_canon h
  | fbegin => exact execFbegin_canon h
  | fcol => exact execFcol_canon h
  | fcoln => exact execFcoln_canon h
  | ngjoin => exact execNgjoin_canon h
  | ngleave => exact execNgleave_canon h
  | fend => exact execFend_canon h
  | fmaprd => exact execFmaprd_canon h
  | rdph => exact execRdph_canon h
  | rdgf => exact execRdgf_canon h
  | tperm => exact execTperm_canon h
  | cpy => exact execCpy_canon h
  | cpyq => exact execCpyq_canon h
  | engstCnt => exact execEngstCnt_canon h
  | engstFva => exact execEngstFva_canon h
  | xsend => exact execXsend_canon h
  | xsel => exact execXsel_canon h
  | xend => exact execXend_canon h
  | joinWake => exact execJoinWake_canon h
  | svwaitWake => exact execSvwaitWake_canon h
  | barrierComplete => exact execBarrierComplete_canon h
  | inboxWake => exact execInboxWake_canon h
  | wfiWake => exact execWfiWake_canon h
  | earlyLoadDeferred => exact execEarlyLoadDeferred_canon h
  | matrixCommit => exact execMatrixCommit_canon h
  | negotiationRound => exact execNegotiationRound_canon h
  | storeBufferLeave => exact execStoreBufferLeave_canon h
  | remoteReply => exact execRemoteReply_canon h
  | lateRefusal => exact execLateRefusal_canon h
  | queuedTrap => exact execQueuedTrap_canon h
  | interruptTake => exact execInterruptTake_canon h
  | timeCompare => exact execTimeCompare_keeps h
  | killUnwind => exact execKillUnwind_canon h
  | steal => exact execSteal_canon h
  | pageWalk => exact execPageWalk_keeps canonKept h
  | pageService => exact execPageService_keeps canonKept.near h
  | copyOnWrite => exact execCopyOnWrite_keeps canonKept h
  | tlbInvalidation => exact execTlbInvalidation_keeps canonKept.near h
  | copyCommandRun => exact execCopyCommandRun_keeps canonKept h
  | cpyqReserve => exact execCpyqReserve_keeps canonKept h
  | copyComplete => exact execCopyComplete_canon h
  | exchangeArrival => exact execExchangeArrival_canon h
  | doorbell => exact execDoorbell_keeps canonKept h
  | qovfClear => exact execQovfClear_keeps canonKept.near h
  | headCheck => exact execHeadCheck_keeps canonKept h
  | dependenceTest => exact execDependenceTest_keeps canonKept h
  | chooseLaunch => exact execChooseLaunch_canon h
  | clusterTakeLaunch => exact execClusterTakeLaunch_canon h
  | strandStart => exact execStrandStart_canon h
  | counterReport => exact execCounterReport_canon h
  | sliceEnd => exact execSliceEnd_keeps canonKept h
  | gangSwitchOut => exact execGangSwitchOut_canon h
  | gangSwitchIn => exact execGangSwitchIn_canon h
  | nprOverrun => exact execNprOverrun_canon h
  | packetHop => exact execPacketHop_keeps canonKept h
  | packetDeliver => exact execPacketDeliver_keeps canonKept h
  | uncorrectableError => exact execUncorrectableError_canon h
  | powerOn => exact execPowerOn_canon
  | moduleWarmReset => exact execModuleWarmReset_canon h
  | mbstatDoneClear => exact execMbstatDoneClear_keeps canonKept.near h
  | foldnew => exact execFoldnew_keeps canonKept h
  | folddel => exact execFolddel_canon h
  | foldreset => exact execFoldreset_canon h
  | foldsetFoldmode => exact execFoldsetFoldmode_keeps canonKept h
  | foldsetPolicy => exact execFoldsetPolicy_keeps canonKept h
  | foldsetCodeKey => exact execFoldsetCodeKey_keeps canonKept h
  | foldsetWatchdogTimes => exact execFoldsetWatchdogTimes_keeps canonKept h
  | vfset => exact execVfset_keeps canonKept h
  | vfdel => exact execVfdel_canon h
  | rct => exact execRct_keeps canonKept h
  | handleExport => exact execHandleExport_keeps canonKept h
  | handleInstall => exact execHandleInstall_keeps canonKept h
  | handleRevoke => exact execHandleRevoke_keeps canonKept h
  | snapshot => exact execSnapshot_keeps canonKept h
  | migrate => exact execMigrate_keeps canonKept h
  | stage => exact execStage_keeps canonKept h
  | droverSwap => exact execDroverSwap_keeps canonKept.near h
  | commit => exact execCommit_keeps canonKept h
  | identity => exact execIdentity_keeps canonKept h
  | quote => exact execQuote_keeps canonKept h
  | telemetry => exact execTelemetry_keeps canonKept h
  | raslog => exact execRaslog_keeps canonKept h
  | load => exact execLoadFile_canon h
  | keyadd => exact execKeyadd_keeps canonKept h
  | keydel => exact execKeydel_keeps canonKept h
  | pgdone => exact execPgdone_keeps canonKept h
  | cowdone => exact execCowdone_keeps canonKept h
  | nextvf => exact execNextvf_keeps canonKept h
  | start => exact execStart_keeps canonKept h
  | refuse => exact execRefuse_keeps canonKept h
  | placego => exact execPlacego_keeps canonKept h
  | containact => exact execContainact_canon h
  | d2hheadWrite => exact execD2hheadWrite_keeps canonKept h
  | drvbeatWrite => exact execDrvbeatWrite_keeps canonKept h
  | watchdogStage => exact execWatchdogStage_canon h
  | registerWrite => exact execRegisterWrite_keeps canonKept h
  | unitIssue => exact execUnitIssue_canon h
  | illegalInstruction => exact execIllegalInstruction_canon h
  | droverMessage => exact execDroverMessage_canon h
  | exchangeSend => exact execExchangeSend_canon h
  | softError => exact execSoftError_keeps canonKept h
  | parityError => exact execParityError_canon h
  | prefFill => exact execPrefFill_canon h
  | hostAccess => exact execHostAccess_keeps canonKept h
  | unknownCode => exact execUnknownCode_keeps canonKept h

/-! ### Fetch -/

theorem fetchNext_canon (h : MemoryCanonical s) : Next.All MemoryCanonical (fetchNext s) := by
  unfold fetchNext
  dsimp only
  split
  · rename_i t0 ht
    have ht0 : MemoryCanonical t0 := of_eq (Fetched.All MemoryCanonical) ht (fetchWord_canon (setSync_canon h))
    exact stall_canon ht0
  · rename_i t0 x1 ht
    have ht0 : MemoryCanonical t0 := of_eq (Fetched.All MemoryCanonical) ht (fetchWord_canon (setSync_canon h))
    exact settle_canon (raiseTrap_canon ht0)
  · rename_i t0 x1 ht
    have ht0 : MemoryCanonical t0 := of_eq (Fetched.All MemoryCanonical) ht (fetchWord_canon (setSync_canon h))
    split
    · exact ht0
    · exact ht0

/-! ### Schedule -/

theorem rotate_canon (h : MemoryCanonical s) : MemoryCanonical (rotate s) := by
  unfold rotate
  split
  · exact focusOn_canon h
  · exact h

theorem issued_canon {first r} (h : InResult MemoryCanonical r) : InResult MemoryCanonical (issued first r) := by
  unfold issued
  split
  · rename_i t0
    have ht0 : MemoryCanonical t0 := h
    exact rotate_canon (tick_canon (ended_keeps canonKept.near ht0))
  · exact h

/-! ### Step -/

theorem runPlan_canon {p} (h : Plan.All MemoryCanonical p) : InResult MemoryCanonical (runPlan p) := by
  unfold runPlan
  split
  · rename_i t0
    have ht0 : MemoryCanonical t0 := h
    exact clock_canon ht0
  · rename_i x0 t1
    have ht1 : MemoryCanonical t1 := h
    exact clock_canon (exec_canon ht1)
  · rename_i t0
    have ht0 : MemoryCanonical t0 := h
    split
    · rename_i x0 t1 ht
      have ht1 : MemoryCanonical t1 := of_eq (Next.All MemoryCanonical) ht (fetchNext_canon ht0)
      exact issued_canon (exec_canon ht1)
    · rename_i x0 t1 ht
      have ht1 : MemoryCanonical t1 := of_eq (Next.All MemoryCanonical) ht (fetchNext_canon ht0)
      exact issued_canon (execIllegalInstruction_canon ht1)
    · rename_i t0 ht
      have ht0 : InResult MemoryCanonical t0 := of_eq (Next.All MemoryCanonical) ht (fetchNext_canon ht0)
      exact issued_canon ht0

/-! ### Schedule -/

theorem reportsDue_canon (h : MemoryCanonical s) : InOption MemoryCanonical (reportsDue s) := by
  unfold reportsDue
  refine inOption_findSome fun _ => ?_
  split
  · exact trivial
  · exact inOption_findSome fun _ => nodeReports_canon h

/-! ### Ops -/

theorem killsDue_canon (h : MemoryCanonical s) : InOption MemoryCanonical (killsDue s) := by
  unfold killsDue
  dsimp only
  refine inOption_findSome fun _ => ?_
  split
  · exact trivial
  · exact foldl_keeps (fun _ _ hu => killNode_canon hu) h

/-! ### Schedule -/

theorem switchesDue_canon (h : MemoryCanonical s) : InOption MemoryCanonical (switchesDue s) :=
  inOption_findSome fun _ => switchOutDue_canon h

theorem svTestsDue_canon (h : MemoryCanonical s) : InOption MemoryCanonical (svTestsDue s) :=
  inOption_bind fun _ => nextOf_keeps (execSvwaitWake_canon h)

theorem barriersDue_canon (h : MemoryCanonical s) : InOption MemoryCanonical (barriersDue s) := by
  unfold barriersDue
  split
  · exact inOption_findSome fun _ => inOption_findSome fun _ => nextOf_keeps (execBarrierComplete_canon h)
  · exact trivial

theorem onCores_canon {p f} (h : MemoryCanonical s) (hf : ∀ u0, MemoryCanonical u0 → InOption MemoryCanonical (f u0)) :
    InOption MemoryCanonical (onCores s p f) := by
  unfold onCores
  refine inOption_findSome fun _ => ?_
  split
  · exact hf _ (focusOn_canon h)
  · exact trivial

theorem wakesDue_canon (h : MemoryCanonical s) : InOption MemoryCanonical (wakesDue s) :=
  onCores_canon h (fun _ hv0 => firstOf_cons (joinWakes_canon hv0) (firstOf_cons (inboxWakes_canon hv0) (firstOf_cons
    (wfiWakes_canon hv0) firstOf_nil)))

theorem roundsDue_canon (h : MemoryCanonical s) : InOption MemoryCanonical (roundsDue s) :=
  inOption_findSome fun _ => inOption_findSome fun _ => nextOf_keeps (execNegotiationRound_canon h)

theorem copiesDue_canon (h : MemoryCanonical s) : InOption MemoryCanonical (copiesDue s) := by
  unfold copiesDue
  refine inOption_findSome fun _ => ?_
  split
  · exact trivial
  · exact firstOf_cons (nextOf_keeps (execCopyComplete_canon h)) (firstOf_cons (nextOf_keeps (execCpyqReserve_keeps canonKept h)) (firstOf_cons
    (nextOf_keeps (execCpyqReserve_keeps canonKept h)) (firstOf_cons (nextOf_keeps (execCpyqReserve_keeps canonKept h)) (firstOf_cons
      (nextOf_keeps (execCpyqReserve_keeps canonKept h)) (firstOf_cons (nextOf_keeps (execCopyCommandRun_keeps canonKept h)) firstOf_nil)))))

/-! ### PageEvents -/

theorem serveCmd_canon {c} (h : MemoryCanonical s) : InOption MemoryCanonical (serveCmd s c) := by
  unfold serveCmd
  split
  · split
    · exact applyPolicy_canon (cmdServed_keeps canonKept.near h)
    · exact cmdServed_keeps canonKept.near h
  · split
    · exact trivial
    · exact cmdServed_keeps canonKept.near h

theorem mailboxDue_canon (h : MemoryCanonical s) : InOption MemoryCanonical (mailboxDue s) := by
  unfold mailboxDue
  split
  · exact trivial
  · refine inOption_findSome fun _ => ?_
    refine iteInduction (motive := InOption MemoryCanonical) (fun _ => ?_) (fun _ => ?_)
    · exact serveCmd_canon h
    · exact trivial

/-! ### ModuleEvents -/

theorem serveFrame_canon {fr} (h : MemoryCanonical s) : InResult MemoryCanonical (serveFrame fr s) := by
  unfold serveFrame
  dsimp only
  split
  · exact serveParsed_keeps canonKept h (fun _ => execFoldnew_keeps canonKept h)
  · exact serveParsed_keeps canonKept h (fun _ => execFolddel_canon h)
  · exact serveParsed_keeps canonKept h (fun _ => execFoldreset_canon h)
  · exact serveFoldset_keeps canonKept h
  · exact serveParsed_keeps canonKept h (fun _ => execVfset_keeps canonKept h)
  · exact serveParsed_keeps canonKept h (fun _ => execVfdel_canon h)
  · exact serveParsed_keeps canonKept h (fun _ => execRct_keeps canonKept h)
  · exact serveHandleFrame_keeps canonKept h
  · exact serveParsed_keeps canonKept h (fun _ => execSnapshot_keeps canonKept h)
  · exact serveParsed_keeps canonKept h (fun _ => trivial)
  · exact execStage_keeps canonKept h
  · exact serveParsed_keeps canonKept h (fun _ => execCommit_keeps canonKept h)
  · exact execIdentity_keeps canonKept h
  · exact serveParsed_keeps canonKept h (fun _ => execQuote_keeps canonKept h)
  · exact serveParsed_keeps canonKept h (fun _ => execTelemetry_keeps canonKept h)
  · exact serveParsed_keeps canonKept h (fun _ => execRaslog_keeps canonKept h)
  · exact serveParsed_keeps canonKept h (fun _ => trivial)
  · exact serveParsed_keeps canonKept h (fun _ => execKeyadd_keeps canonKept h)
  · exact serveParsed_keeps canonKept h (fun _ => execKeydel_keeps canonKept h)
  · exact execUnknownCode_keeps canonKept h

theorem submitDue_canon (h : MemoryCanonical s) : InOption MemoryCanonical (submitDue s) := by
  unfold submitDue
  refine inOption_bind fun _ => ?_
  split
  · exact trivial
  · exact nextOf_keeps (serveFrame_canon h)

theorem endMigrate_canon {f j v} (h : MemoryCanonical s) : MemoryCanonical (endMigrate s f j v) := by
  unfold endMigrate
  dsimp only
  split
  · exact endJob_keeps canonKept.near (removeVf_canon (nextFree_keeps canonKept.near h))
  · exact endJob_keeps canonKept.near (logRas_keeps canonKept h)

theorem jobDue_canon (h : MemoryCanonical s) : InOption MemoryCanonical (jobDue s) := by
  unfold jobDue
  dsimp only
  refine inOption_bind fun _ => ?_
  split
  · exact endJob_keeps canonKept.near (logRas_keeps canonKept h)
  · refine inOption_bind fun _ => ?_
    refine inOption_bind fun _ => ?_
    split
    · split
      · split
        · exact askSwitch_keeps canonKept h
        · exact trivial
      · split
        · exact trivial
        · exact snapshotDone_keeps canonKept.near (freeze_keeps canonKept.near h)
    · split
      · exact trivial
      · exact setFold_keeps canonKept (freeze_keeps canonKept.near h)
    · split
      · exact snapshotDone_keeps canonKept.near (chargeSnapshot_keeps canonKept.near h)
      · exact trivial
    · split
      · split
        · exact askSwitch_keeps canonKept h
        · exact trivial
      · split
        · exact trivial
        · exact endMigrate_canon h
    · split
      · exact trivial
      · exact endMigrate_canon h
    · exact trivial

theorem messageDue_canon {f} (h : MemoryCanonical s) : InOption MemoryCanonical (messageDue s f) := by
  unfold messageDue
  dsimp only
  split
  · exact trivial
  · split
    · exact ignoreMsg_keeps canonKept h
    · split
      · exact nextOf_keeps (execPgdone_keeps canonKept h)
      · exact nextOf_keeps (execCowdone_keeps canonKept h)
      · exact nextOf_keeps (execNextvf_keeps canonKept h)
      · exact nextOf_keeps (execStart_keeps canonKept h)
      · exact nextOf_keeps (execRefuse_keeps canonKept h)
      · exact nextOf_keeps (execPlacego_keeps canonKept h)
      · exact nextOf_keeps (execContainact_canon h)
      · exact ignoreMsg_keeps canonKept h

/-! ### Schedule -/

theorem foldsDue_canon (h : MemoryCanonical s) : InOption MemoryCanonical (foldsDue s) :=
  inOption_findSome fun _ => firstOf_cons (messageDue_canon h) (firstOf_cons (inOption_bind fun _ => switchInDue_canon h) (firstOf_cons
    (sliceDue_keeps canonKept h) (firstOf_cons (watchdogDue_canon h) firstOf_nil)))

theorem choicesDue_canon (h : MemoryCanonical s) : InOption MemoryCanonical (choicesDue s) := by
  unfold choicesDue
  split
  · exact inOption_findSome fun _ => chooseDue_canon h
  · exact trivial

theorem takesDue_canon (h : MemoryCanonical s) : InOption MemoryCanonical (takesDue s) := by
  unfold takesDue
  refine inOption_findSome fun _ => ?_
  split
  · exact inOption_findSome fun _ => nextOf_keeps (execClusterTakeLaunch_canon h)
  · exact trivial

theorem startsDue_canon (h : MemoryCanonical s) : InOption MemoryCanonical (startsDue s) := by
  unfold startsDue
  refine inOption_findSome fun _ => ?_
  split
  · refine inOption_findSome fun _ => ?_
    split
    · exact inOption_findSome fun _ => strandDue_canon h
    · exact trivial
  · exact trivial

theorem stealsDue_canon (h : MemoryCanonical s) : InOption MemoryCanonical (stealsDue s) := by
  unfold stealsDue
  refine inOption_findSome fun _ => ?_
  refine inOption_findSome fun _ => ?_
  split
  · exact stealDue_canon (focusOn_canon h)
  · exact trivial

theorem unitEvent_canon (h : MemoryCanonical s) : InOption MemoryCanonical (unitEvent s) :=
  firstOf_cons (reportsDue_canon h) (firstOf_cons (killsDue_canon h) (firstOf_cons (switchesDue_canon h) (firstOf_cons (svTestsDue_canon h)
    (firstOf_cons (barriersDue_canon h) (firstOf_cons (wakesDue_canon h) (firstOf_cons (roundsDue_canon h) (firstOf_cons (copiesDue_canon h)
      (firstOf_cons (mailboxDue_canon h) (firstOf_cons (submitDue_canon h) (firstOf_cons (jobDue_canon h) (firstOf_cons (foldsDue_canon h)
        (firstOf_cons (blockWritesDue_keeps canonKept h) (firstOf_cons (recordsDue_keeps canonKept h) (firstOf_cons (headsDue_keeps canonKept h)
          (firstOf_cons (testsDue_keeps canonKept h) (firstOf_cons (choicesDue_canon h) (firstOf_cons (takesDue_canon h) (firstOf_cons
            (startsDue_canon h) (firstOf_cons (stealsDue_canon h) firstOf_nil)))))))))))))))))))

theorem queueGoes_canon (h : MemoryCanonical s) : InOption MemoryCanonical (queueGoes s) := by
  unfold queueGoes
  split
  · exact trivial
  · refine ifRunning_keeps ?_
    split
    · rename_i t0 ht
      have ht0 : MemoryCanonical t0 := of_eq (DrainRes.All MemoryCanonical) ht (runQueue_canon h)
      exact ht0
    · rename_i t0 ht
      have ht0 : MemoryCanonical t0 := of_eq (DrainRes.All MemoryCanonical) ht (runQueue_canon h)
      exact ht0
    · rename_i t0 ht
      have ht0 : MemoryCanonical t0 := of_eq (DrainRes.All MemoryCanonical) ht (runQueue_canon h)
      split
      · exact trivial
      · exact ht0

theorem leftBehind_canon (h : MemoryCanonical s) : InOption MemoryCanonical (leftBehind s) :=
  firstOf_cons (sbLeaves_canon h) (firstOf_cons (queueGoes_canon h) (firstOf_cons (remoteAnswered_canon h) (firstOf_cons
    (remoteAnswered_canon h) (firstOf_cons (ifRunning_keeps (earlyRuns_canon h)) (firstOf_cons (prefDue_canon h) firstOf_nil)))))

theorem outstandingDue_canon (h : MemoryCanonical s) : InOption MemoryCanonical (outstandingDue s) := by
  unfold outstandingDue
  dsimp only
  split
  · rename_i t0 ht
    have ht0 : MemoryCanonical t0 := of_eq (InOption MemoryCanonical) ht (onCores_canon h (fun _ hv0 => leftBehind_canon hv0))
    exact ht0
  · split
    · exact packetsDue_keeps canonKept h
    · exact trivial

theorem strandAct_canon (h : MemoryCanonical s) : InOptionPlan MemoryCanonical (strandAct s) := by
  unfold strandAct
  split
  · rename_i t0 ht
    have ht0 : MemoryCanonical t0 := of_eq (InOption MemoryCanonical) ht (killDue_canon h)
    split
    · exact trivial
    · exact ht0
  · split
    · rename_i t0 ht
      have ht0 : MemoryCanonical t0 := of_eq (InOption MemoryCanonical) ht (boundaryTrap_canon h)
      exact ht0
    · split
      · exact h
      · exact trivial

theorem strandTurn_canon (h : MemoryCanonical s) : InOptionPlan MemoryCanonical (strandTurn s) := by
  unfold strandTurn
  refine inOptionPlan_findSome fun _ => ?_
  split
  · exact trivial
  · exact strandAct_canon (focusOn_canon h)

theorem inner_canon (h : MemoryCanonical s) : Plan.All MemoryCanonical (inner s) := by
  unfold inner
  split
  · rename_i s1 hs
    exact of_eq (InOption MemoryCanonical) hs (unitEvent_canon h)
  · split
    · rename_i s1 hs
      exact of_eq (InOption MemoryCanonical) hs (outstandingDue_canon h)
    · have hf := firstOf_cons (P := MemoryCanonical) (f := fun u => onCores u hasLeft leftBehind) (onCores_canon h fun u hu => leftBehind_canon hu)
        (firstOf_cons (packetsDue_keeps canonKept h) firstOf_nil)
      cases ht : strandTurn s with
      | some p => exact of_eq (InOptionPlan MemoryCanonical) ht (strandTurn_canon h)
      | none => exact (inOption_getD hf h : MemoryCanonical _)

theorem outer_canon (h : MemoryCanonical s) : Plan.All MemoryCanonical (outer s) := by
  unfold outer
  split
  · exact inner_canon h
  · exact changeSaveMax_keeps canonKept h
  · exact faultSaved_keeps canonKept.near h
  · split
    · exact h
    · exact h
  · exact focusOn_canon h
  · split
    · rename_i t0 ht
      have ht0 : MemoryCanonical t0 := of_eq (InOption MemoryCanonical) ht (nextOf_keeps (execFoldreset_canon h))
      exact ht0
    · exact h
  · split
    · rename_i t0 ht
      have ht0 : MemoryCanonical t0 := of_eq (InOption MemoryCanonical) ht (nextOf_keeps (execModuleWarmReset_canon h))
      exact ht0
    · exact h

theorem plan_canon (h : MemoryCanonical s) : Plan.All MemoryCanonical (plan s) := by
  unfold plan
  split
  · rename_i t0 ht
    have ht0 : MemoryCanonical t0 := of_eq (InOption MemoryCanonical) ht (nextOf_keeps (execExchangeSend_canon h))
    exact ht0
  · exact outer_canon h

/-! ### Step -/

theorem step_canon (h : MemoryCanonical s) : InResult MemoryCanonical (step s) := by
  unfold step
  split
  · rename_i t0 ht
    have ht0 : MemoryCanonical t0 := of_eq (InResult MemoryCanonical) ht (runPlan_canon (plan_canon h))
    exact ht0
  · exact runPlan_canon (inner_canon h)

end

end Sys2Proof.Machine

section
open Sys2Proof Sys2Proof.Machine

/-- Settles O48: every act of the model keeps the canonical form, so the step does. -/
theorem memoryStaysCanonical : Obligations.MemoryStaysCanonical :=
  fun _ _ h hs => Machine.of_eq (InResult MemoryCanonical) hs (step_canon h)

end

namespace Sys2Proof.Machine

/-! ## Gates (R194 to R196) -/

section
variable {s u : State} {g : BitVec 8} {va lo hi : Word}

/-- What passing a gate leaves (R195). -/
theorem passGate_eq (hq : s.core.q.queue = []) : ∃ rcnt, passGate s g lo hi = { s with core := { s.core with
    trap := { s.core.trap with
      gepc := s.core.regs.pc + 4, gPlv := s.core.regs.level, gAct := true, gMpush := hi.getLsbD 8, gIndex := g }
    vec := { s.core.vec with masks := if hi.getLsbD 8 then BitVec.allOnes 64 :: s.core.vec.masks else s.core.vec.masks }
    regs := { s.core.regs with level := hi.extractLsb' 0 2, pc := lo, instret := s.core.regs.instret + 1 }
    sync := { s.core.sync with rcnt := rcnt } } } := by
  unfold passGate
  dsimp only
  cases hi.getLsbD 8 with
  | true =>
    simp only [if_true]
    rw [retired_eq (by exact hq)]
    exact ⟨_, rfl⟩
  | false =>
    simp only [Bool.false_eq_true, if_false]
    rw [retired_eq (by exact hq)]
    exact ⟨_, rfl⟩

/-- The effect of a GRET that passes its checks (R196). -/
def gateReturn (s : State) : State :=
  let t := s.core.trap
  let s2 := if t.gMpush then setVec s { s.core.vec with masks := s.core.vec.masks.drop 1 } else s
  let s3 := setTrap (retired s2) { t with gPlv := 0, gAct := false, gMpush := false, gIndex := 0 }
  setRegs s3 { s3.core.regs with level := t.gPlv, pc := (t.gepc >>> 2) <<< 2 }

/-- What returning through a gate leaves (R196). -/
theorem gateReturn_eq (hq : s.core.q.queue = []) : ∃ rcnt, gateReturn s = { s with core := { s.core with
    trap := { s.core.trap with gPlv := 0, gAct := false, gMpush := false, gIndex := 0 }
    vec := { s.core.vec with masks := if s.core.trap.gMpush then s.core.vec.masks.drop 1 else s.core.vec.masks }
    regs := { s.core.regs with
      level := s.core.trap.gPlv, pc := BitVec.ofNat 64 (s.core.trap.gepc.toNat / 4 * 4), instret := s.core.regs.instret + 1 }
    sync := { s.core.sync with rcnt := rcnt } } } := by
  have hpc : (s.core.trap.gepc >>> 2) <<< 2 = BitVec.ofNat 64 (s.core.trap.gepc.toNat / 4 * 4) := shiftRight_shiftLeft_eq _ 2
  rw [← hpc]
  unfold gateReturn
  dsimp only
  cases s.core.trap.gMpush with
  | true =>
    simp only [if_true]
    rw [retired_eq (by exact hq)]
    exact ⟨_, rfl⟩
  | false =>
    simp only [Bool.false_eq_true, if_false]
    rw [retired_eq (by exact hq)]
    exact ⟨_, rfl⟩

/-- An entry that may be passed: it is well-formed, does not lower the level, and its mask finds room (R39, R195). -/
def GateGood (s : State) (lo hi : Word) : Prop :=
  gateMalformed lo hi = false ∧ s.core.regs.level.toNat ≤ (hi.extractLsb' 0 2).toNat ∧ (hi.getLsbD 8 = true → s.core.vec.masks.length < 16)

/-- GATE refuses exactly the entries that may not be passed. -/
theorem gateRefuses_iff : (gateMalformed lo hi || (hi.extractLsb' 0 2).ult s.core.regs.level ||
    (hi.getLsbD 8 && decide (Config.maskDepth ≤ s.core.vec.masks.length))) = true ↔ ¬GateGood s lo hi := by
  have hd : Config.maskDepth = 16 := rfl
  unfold GateGood
  rw [hd]
  simp only [Bool.or_eq_true, Bool.and_eq_true, decide_eq_true_eq, BitVec.ult]
  cases gateMalformed lo hi <;> cases hi.getLsbD 8 <;> simp
  omega

/-- A gate that may be looked up: none is active, and the index lies in the table (R194). -/
theorem gateOpen (ha : s.core.trap.gAct = false) (hg : g.toNat < gateCount s) :
    (s.core.trap.gAct || decide (gateCount s ≤ g.toNat)) = false := by
  simp [ha, hg]

/-- An entry that the core holds is read without a change (R195). -/
theorem readGate_cached (hf : (s.core.gates.find? fun e => e.va == va) = some ⟨va, lo, hi⟩) : readGate s va = .ok s lo hi := by
  unfold readGate
  rw [hf]

/-- Reading an entry changes of the core its cached entries alone (R195). -/
theorem readGate_core (hr : readGate s va = .ok u lo hi) : u.core = { s.core with gates := u.core.gates } := by
  unfold readGate at hr
  split at hr
  · cases hr
    rfl
  · dsimp only at hr
    split at hr
    · exact absurd hr nofun
    · exact absurd hr nofun
    · split at hr
      · exact absurd hr nofun
      · rename_i l _ _
        have hk := readAt_keeps (coreKept s.core).near (l := l.add 8) (n := 8) (readAt_keeps (coreKept s.core).near (l := l) (n := 8)
          (translate_keeps (coreKept s.core) (s := s) (w := { s.core.who with level := 2 }) (va := va) (acc := .r) rfl))
        injection hr with hu _ _
        rw [← hu]
        split
        · rw [setCore_core, hk]
        · rw [hk]

/-- An entry that cannot be read leaves the core (R195). -/
theorem readGate_bad_core (hr : readGate s va = .bad u) : u.core = s.core := by
  unfold readGate at hr
  split at hr
  · exact absurd hr nofun
  · dsimp only at hr
    have ht := translate_keeps (coreKept s.core) (s := s) (w := { s.core.who with level := 2 }) (va := va) (acc := .r) rfl
    split at hr
    · exact absurd hr nofun
    · injection hr with hu
      rw [← hu]
      exact ht
    · split at hr
      · injection hr with hu
        rw [← hu]
        exact readAt_keeps (coreKept s.core).near (readAt_keeps (coreKept s.core).near ht)
      · exact absurd hr nofun

/-- GATE with an entry that may be passed (R195). -/
theorem exec_gate_passes (h : Quiet s) (ha : s.core.trap.gAct = false) (hg : g.toNat < gateCount s)
    (hr : readGate s (s.core.trap.gtbase + BitVec.ofNat 64 (16 * g.toNat)) = .ok u lo hi) (hgood : GateGood s lo hi) :
    exec (.gate g) s = .next (passGate u g lo hi) := by
  have hc := readGate_core hr
  have hgood' : GateGood u lo hi := by
    unfold GateGood
    rw [hc]
    exact hgood
  obtain ⟨rcnt, hp⟩ := passGate_eq (s := u) (g := g) (lo := lo) (hi := hi) (by rw [hc]; exact h.1)
  refine exec_drained_keepsQueues h (Eq.refl (execGate g s)) ?_ ?_
  · simp only [gateOpen ha hg, Bool.false_eq_true, if_false, hr]
    exact if_neg fun hb => gateRefuses_iff.1 hb hgood'
  · rw [hp, hc]

/-- GATE with an entry that may not be passed raises cause 8 (R195). -/
theorem exec_gate_refused (h : Quiet s) (ha : s.core.trap.gAct = false) (hg : g.toNat < gateCount s)
    (hr : readGate s (s.core.trap.gtbase + BitVec.ofNat 64 (16 * g.toNat)) = .ok u lo hi) (hgood : ¬GateGood s lo hi) :
    exec (.gate g) s = .next (settle (trapEntry u 8 false (g.setWidth 64) s.core.regs.pc)) := by
  have hc := readGate_core hr
  have hgood' : ¬GateGood u lo hi := by
    unfold GateGood
    rw [hc]
    exact hgood
  have hx : exec (.gate g) s = execGate g s := rfl
  rw [hx, execGate, drained_quiet h]
  simp only [gateOpen ha hg, Bool.false_eq_true, if_false, hr]
  rw [if_pos (gateRefuses_iff.2 hgood'), raiseTrap_idle (by rw [hc]; exact h.1), hc]

/-- GATE with an entry that cannot be read raises cause 8 (R195). -/
theorem exec_gate_bad (h : Quiet s) (ha : s.core.trap.gAct = false) (hg : g.toNat < gateCount s)
    (hr : readGate s (s.core.trap.gtbase + BitVec.ofNat 64 (16 * g.toNat)) = .bad u) :
    exec (.gate g) s = .next (settle (trapEntry u 8 false (g.setWidth 64) s.core.regs.pc)) := by
  have hc := readGate_bad_core hr
  have hx : exec (.gate g) s = execGate g s := rfl
  rw [hx, execGate, drained_quiet h]
  simp only [gateOpen ha hg, Bool.false_eq_true, if_false, hr]
  rw [raiseTrap_idle (by rw [hc]; exact h.1), hc]

end

end Sys2Proof.Machine

section

open Sys2Proof Sys2Proof.Machine

/-- Settles O17, by what each answer of the entry's lookup comes to, and by the checks of GRET. -/
theorem gates : Obligations.Gates := by
  intro s g h t0 va masks good passes
  have pass (u : State) (lo hi : Word) (ha : t0.gAct = false) (hg : g.toNat < gateCount s) (hr : readGate s va = .ok u lo hi)
      (hgood : good lo hi) : passes u lo hi := by
    have hc := readGate_core hr
    obtain ⟨rcnt, hp⟩ := passGate_eq (s := u) (g := g) (lo := lo) (hi := hi) (by rw [hc]; exact h.1)
    refine ⟨_, exec_gate_passes h ha hg hr hgood, ?_⟩
    rw [hp, hc]
  refine ⟨fun lo hi ha hg hf hgood => pass s lo hi ha hg (readGate_cached hf) hgood, fun u lo hi ha hg hr => pass u lo hi ha hg hr,
    fun u lo hi ha hg hr => exec_gate_refused h ha hg hr, fun hb => ?_, fun u ha hg hr => exec_gate_bad h ha hg hr,
    fun ha hl hm => ?_, fun hb => ?_⟩
  · refine traps_of_drained h (Eq.refl (execGate g s)) (if_pos ?_)
    simpa [t0] using hb
  · obtain ⟨rcnt, he⟩ := gateReturn_eq h.1
    refine ⟨gateReturn s, exec_drained_keepsQueues h (Eq.refl (execGret s)) (if_neg ?_) (by rw [he]), by rw [he]⟩
    have hlt : s.core.regs.level.ult s.core.trap.gPlv = false := by simpa [BitVec.ult] using hl
    have ha' : s.core.trap.gAct = true := ha
    have hm' : s.core.trap.gMpush = true → s.core.vec.masks ≠ [] := hm
    simpa [ha', hlt] using hm'
  · refine traps_of_drained h (Eq.refl (execGret s)) (if_pos ?_)
    rcases hb with hb | hb | ⟨hb, hb'⟩
    · simp [t0] at hb
      simp [hb]
    · have : s.core.regs.level.ult s.core.trap.gPlv = true := by simpa [BitVec.ult] using hb
      simp [this]
    · simp [t0] at hb
      simp [hb, hb']

end

namespace Sys2Proof.Machine

/-! ## Slots and frame faults (R201 to R207, R210) -/

section
variable {i : Instr} {s u : State} {rs : List Reg} {k : State → State}

/-- With nothing queued, what is outstanding within the pace stays outstanding (log 9). -/
theorem settle_withinPace (hq : s.core.q.queue = []) (hb : s.core.q.sb.length ≤ s.pace.sb)
    (hr : s.core.q.remote.length ≤ s.pace.remote) : settle s = s := by
  have hd : (drainTo s.pace.queue s).state = s := by rw [drainTo_idle hq]; rfl
  have hsb : drainSb s.core.q.sb.length s s.pace.sb = s := by
    cases hn : s.core.q.sb.length with
    | zero => rfl
    | succ n => rw [drainSb, if_pos hb]
  have hrem : drainRemote s.core.q.remote.length s s.pace.remote = s := by
    cases hn : s.core.q.remote.length with
    | zero => rfl
    | succ n => rw [drainRemote, if_pos hr]
  unfold settle
  simp only [hd, hsb, hrem]

/-- An instruction whose meaning takes a store-buffer entry and falls through (R165). -/
theorem takesEntry_of {va : Word} {l : Loc} {op : SbOp} (h : Quiet s) (hu : Ready u) (he : exec i s = .next (strand s rs k))
    (hk : k s = fallThrough (pushSb u va l op)) : TakesEntry i s u va l op := by
  intro hp hpace
  obtain ⟨⟨hq, -, hs, hr⟩, hn⟩ := hu
  have hqp : (pushSb u va l op).core.q.queue = [] := hq
  have hnp : NoLoopEnd (pushSb u va l op) := noLoopEnd_congr hn rfl rfl rfl
  have hf := fallThrough_eq hqp hnp
  rw [retired_eq hqp] at hf
  have hs1 : (pushSb u va l op).core.q.sb = [⟨u.core.q.qnext, va, l, op⟩] := by
    show u.core.q.sb ++ _ = _
    rw [hs]
    rfl
  refine ⟨fallThrough (pushSb u va l op), ?_, ?_, ?_⟩
  · rw [he, strand_quiet h, hk, settle_withinPace]
    · rw [hf]; exact hqp
    · rw [hf]
      show (pushSb u va l op).core.q.sb.length ≤ u.pace.sb
      rw [hs1, hpace]
      exact hp
    · rw [hf]
      show u.core.q.remote.length ≤ _
      rw [hr]
      exact Nat.zero_le _
  · rw [hf]
    exact ⟨rfl, rfl⟩
  · rw [hf]
    show _ = { u with core := _ }
    simp only [← hs1]
    rfl

end

section
variable {s : State} {n : BitVec 3} {k : BitVec 10} {f : State → Word → State}

/-- A slot operand in range is the slot's address (R203). -/
theorem slotOp_ok (h : SlotOk s n k) : slotOp s n k f = f s (slotAt s n k) := by
  obtain ⟨hn, hk⟩ := h
  have hfault : slotFault s n k = none := by
    unfold slotFault
    rw [if_neg (Nat.not_lt.2 hn), if_neg (Nat.not_le.2 hk)]
  unfold slotOp
  rw [hfault]
  rfl

/-- A subcode with a value below 2^56 (R202). -/
theorem subcode_small {m v : Nat} (h : v < 2 ^ 56) : BitVec.ofNat 64 (m * 2 ^ 56 + v) = subcode m v := by
  unfold subcode
  rw [Nat.mod_eq_of_lt h]

/-- A slot operand as a TVAL fits (R202). -/
theorem slotOperand_lt (n : BitVec 3) (k : BitVec 10) : n.toNat * 2 ^ 10 + k.toNat < 2 ^ 56 := by omega

/-- A slot operand above the depth raises cause 9 with subcode 1 (R202, R203). -/
theorem slotOp_deep (h : s.core.regs.depth < n.toNat) : slotOp s n k f = raiseTrap s 9 (subcode 1 (n.toNat * 2 ^ 10 + k.toNat)) := by
  unfold slotOp slotFault
  simp only [if_pos h, subcode_small (slotOperand_lt n k)]

/-- A slot beyond its frame raises cause 9 with subcode 2 (R202, R203). -/
theorem slotOp_wide (h : n.toNat ≤ s.core.regs.depth ∧ tSlots (shadowAt s n.toNat) ≤ k.toNat) :
    slotOp s n k f = raiseTrap s 9 (subcode 2 (n.toNat * 2 ^ 10 + k.toNat)) := by
  unfold slotOp slotFault
  simp only [if_neg (Nat.not_lt.2 h.1), if_pos h.2, subcode_small (slotOperand_lt n k)]

/-- The TVAL of a fault whose operand is a number (R202). -/
theorem sizeFault_ofNat (m v : Nat) : sizeFault m (BitVec.ofNat 64 v) = subcode m v := by
  unfold sizeFault subcode
  rw [BitVec.toNat_ofNat, Nat.mod_mod_of_dvd v (by decide)]

end

end Sys2Proof.Machine

section

open Sys2Proof Sys2Proof.Machine

/-- Settles O13, by what a slot operand in range comes to. -/
theorem slotOperations : Obligations.SlotOperations := by
  intro s x n k f h
  refine ⟨fun hs => ?_, fun u l hs ht hl hu => ?_, fun hn => ?_, fun hn => ?_⟩
  · exact computes_of h (Eq.refl (execFadr x n k s)) (slotOp_ok hs)
  · refine takesEntry_of h.1 hu (Eq.refl (execFacc x n k f s)) ((slotOp_ok hs).trans ?_)
    rw [whenSbRoom_idle h.1.2.2.1]
    simp only [ht, hl, Bool.false_eq_true, if_false]
  · exact computes_of h (Eq.refl (execDspr x n s)) (congrArg (fun v => fallThrough (writeX s x v)) (if_pos hn))
  · exact computes_of h (Eq.refl (execDspr x n s)) (congrArg (fun v => fallThrough (writeX s x v)) (if_neg (Nat.not_le.2 hn)))

/-- Settles O14, by the check of each instruction that fails. -/
theorem frameFaults : Obligations.FrameFaults := by
  intro s x a n k f p sc h nk deep wide size fin
  have room (k : State → State) : whenSbRoom s k = k s := whenSbRoom_idle h.1.2.2.1 k
  refine ⟨fun hd => ⟨?_, ?_, ?_, ?_⟩, fun hw => ⟨?_, ?_, ?_, ?_⟩, fun hd => ?_, fun hd hs => ?_, fun hd hs hf => ?_, fun he => ?_, fun he => ?_⟩
  · exact traps_of h.1 (Eq.refl (execFld x n k s)) (slotOp_deep hd)
  · exact traps_of h.1 (Eq.refl (execFst x n k s)) (slotOp_deep hd)
  · exact traps_of h.1 (Eq.refl (execFadr x n k s)) (slotOp_deep hd)
  · exact traps_of h.1 (Eq.refl (execFacc x n k f s)) (slotOp_deep hd)
  · exact traps_of h.1 (Eq.refl (execFld x n k s)) (slotOp_wide hw)
  · exact traps_of h.1 (Eq.refl (execFst x n k s)) (slotOp_wide hw)
  · exact traps_of h.1 (Eq.refl (execFadr x n k s)) (slotOp_wide hw)
  · exact traps_of h.1 (Eq.refl (execFacc x n k f s)) (slotOp_wide hw)
  · exact traps_of h.1 (Eq.refl (execFenter x a p sc s)) (if_pos hd)
  · exact traps_of h.1 (Eq.refl (execFenter x a p sc s)) ((if_neg hd).trans (if_pos hs))
  · refine traps_of h.1 (Eq.refl (execFenter x a p sc s)) ((if_neg hd).trans ((if_neg (Nat.not_lt.2 hs)).trans ?_))
    rw [room]
    refine (if_pos hf).trans ?_
    rw [sizeFault_ofNat]
  · refine traps_of h.1 (Eq.refl (execFleave s)) ((if_pos (by rw [he]; rfl)).trans ?_)
    rw [sizeFault_ofNat]
  · refine traps_of_drained h.1 (Eq.refl (execEnd s)) ((if_pos he).trans ?_)
    rw [sizeFault_ofNat]

end

namespace Sys2Proof.Machine

/-! ## Translation for a strand's access (R295 to R300) -/

section
variable {s u : State} {w : Who} {va : Word} {acc : Access} {l : Loc} {k : Nat}

/-- A place that a translation comes to is reached through the leaf that named it. -/
theorem placeOf_leaf {pte : Word} {ptePa pa : Nat} {net : Bool} (h : placeOf s w acc pte ptePa pa net = .ok l) :
    ∃ key, l = .glob key pte ptePa ∨ l = .peer key pte ptePa := by
  unfold placeOf at h
  split at h
  · cases h
  · split at h
    · split at h
      · cases h
        exact ⟨_, .inl rfl⟩
      · cases h
    · split at h
      · split at h
        · cases h
        · split at h
          · cases h
            exact ⟨_, .inr rfl⟩
          · cases h
      · split at h
        · cases h
          exact ⟨_, .inl rfl⟩
        · cases h

/-- A window address names its bank byte and changes nothing (R114). -/
theorem translateAs_bank (hacc : acc ≠ .x) (hw : isWindow va = true) (hk : windowKey s w.pos w.fold va = some k) (defer net : Bool) :
    translateAs s w va acc defer net = (s, .ok (.bank k)) := by
  cases acc with
  | x => exact absurd rfl hacc
  | r => simp only [translateAs, hw, hk, if_true]
  | w => simp only [translateAs, hw, hk, if_true]

/-- A translation by a leaf that allows the access (R295 to R298). -/
theorem translateAs_leaf {v : State} {pte : Word} {ptePa bits : Nat} {defer net : Bool} (hw : isWindow va = false)
    (hc : canonical va = true) (hl : leafFor s w va = (v, .leaf pte ptePa bits)) (ha : pteAllows pte acc w.level = true)
    (hcow : (decide (acc = .w) && pteCow pte) = false)
    (hp : placeOf v w acc pte ptePa (ptePfn pte * 65536 + va.toNat % 2 ^ bits) net = .ok l) :
    translateAs s w va acc defer net =
      ((if defer then v else setUsedFrom v w.pos.die w.fold ptePa pte (decide (acc = .w))), .ok l) := by
  unfold translateAs
  simp only [hw, hc, hl, ha, hcow, hp, Bool.not_true, Bool.false_eq_true, if_false]

/-- A page address that translates does so by a leaf that allows the access (R295 to R298). -/
theorem translateAs_ok_inv {defer net : Bool} (hw : isWindow va = false) (h : translateAs s w va acc defer net = (u, .ok l)) :
    ∃ v pte ptePa bits, canonical va = true ∧ leafFor s w va = (v, .leaf pte ptePa bits) ∧ pteAllows pte acc w.level = true ∧
      (decide (acc = .w) && pteCow pte) = false ∧
      placeOf v w acc pte ptePa (ptePfn pte * 65536 + va.toNat % 2 ^ bits) net = .ok l ∧
      u = if defer then v else setUsedFrom v w.pos.die w.fold ptePa pte (decide (acc = .w)) := by
  unfold translateAs at h
  simp only [hw, Bool.false_eq_true, if_false] at h
  by_cases hc : (!canonical va) = true
  · rw [if_pos hc] at h
    cases (Prod.mk.inj h).2
  · rw [if_neg hc] at h
    have hc' : canonical va = true := by simpa using hc
    cases hl : leafFor s w va with
    | mk v o =>
      rw [hl] at h
      cases o with
      | bad => cases (Prod.mk.inj h).2
      | absent =>
        dsimp only at h
        split at h
        · cases (Prod.mk.inj h).2
        · cases (Prod.mk.inj h).2
      | leaf pte ptePa bits =>
        dsimp only at h
        by_cases ha : (!pteAllows pte acc w.level) = true
        · rw [if_pos ha] at h
          cases (Prod.mk.inj h).2
        · rw [if_neg ha] at h
          by_cases hcow : (decide (acc = .w) && pteCow pte) = true
          · rw [if_pos hcow] at h
            cases (Prod.mk.inj h).2
          rw [if_neg hcow] at h
          cases hp : placeOf v w acc pte ptePa (ptePfn pte * 65536 + va.toNat % 2 ^ bits) net with
          | fault c =>
            rw [hp] at h
            cases (Prod.mk.inj h).2
          | wait =>
            rw [hp] at h
            cases (Prod.mk.inj h).2
          | ok l' =>
            rw [hp] at h
            obtain ⟨hu, hl'⟩ := Prod.mk.inj h
            cases hl'
            exact ⟨v, pte, ptePa, bits, hc', rfl, by simpa using ha, by simpa using hcow, hp, hu.symm⟩

/-- A fault does not depend on when A and D are set (R297). -/
theorem translateAs_defer_fault {c : Nat} (h : translate s w va acc = (u, .fault c)) : translateAs s w va acc true false = (u, .fault c) := by
  unfold translate at h
  unfold translateAs at h ⊢
  by_cases hw : isWindow va = true
  · rw [if_pos hw] at h ⊢
    exact h
  · rw [if_neg hw] at h ⊢
    by_cases hc : (!canonical va) = true
    · rw [if_pos hc] at h ⊢
      exact h
    · rw [if_neg hc] at h ⊢
      generalize leafFor s w va = r at h ⊢
      obtain ⟨v, o⟩ := r
      cases o with
      | bad => exact h
      | absent => exact h
      | leaf pte ptePa bits =>
        dsimp only at h ⊢
        generalize placeOf v w acc pte ptePa (ptePfn pte * 65536 + va.toNat % 2 ^ bits) false = p at h ⊢
        cases p with
        | fault c' => exact h
        | wait => exact h
        | ok l' =>
          dsimp only at h ⊢
          by_cases ha : (!pteAllows pte acc w.level) = true
          · rw [if_pos ha] at h ⊢
            exact h
          · rw [if_neg ha] at h ⊢
            by_cases hb : (decide (acc = .w) && pteCow pte) = true
            · rw [if_pos hb] at h ⊢
              exact h
            · rw [if_neg hb] at h
              cases (Prod.mk.inj h).2

/-- The leaf of a strand's address leaves its core. -/
theorem leafFor_core {v : State} {o : WalkRes} (h : leafFor s w va = (v, o)) : v.core = s.core := by
  have hk := leafFor_keeps (coreKept s.core).near (w := w) (va := va) (s := s) rfl
  rw [h] at hk
  exact hk

/-- A translation whose A and D are set at once is one that leaves them, and then the access's own setting of them (R297). -/
theorem translate_ok (hw : isWindow va = false) (h : translate s s.core.who va acc = (u, .ok l)) :
    ∃ v, translateAs s s.core.who va acc true false = (v, .ok l) ∧ v.core = s.core ∧ u = setAccessed v l (decide (acc = .w)) := by
  unfold translate at h
  obtain ⟨v, pte, ptePa, bits, hc, hl, ha, hcow, hp, hu⟩ := translateAs_ok_inv hw h
  rw [if_neg Bool.false_ne_true] at hu
  have hv := leafFor_core hl
  refine ⟨v, (translateAs_leaf hw hc hl ha hcow hp).trans (by rw [if_pos rfl]), hv, hu.trans ?_⟩
  have hset : setUsedFrom v s.core.who.pos.die s.core.who.fold ptePa pte (decide (acc = .w)) =
      setUsedFrom v v.core.pos.die v.core.fold ptePa pte (decide (acc = .w)) := by rw [hv]; rfl
  obtain ⟨key, rfl | rfl⟩ := placeOf_leaf hp
  · exact hset
  · exact hset

end

/-! ## Scalar loads (R277, R280, R293) -/

section
variable {i : Instr} {s : State} {d : Reg} {rs : List Reg} {f : State → State} {va : Word} {n : Nat} {signed : Bool} {k : Nat}

/-- With an empty store buffer a load finds nothing of its bytes in it (R164). -/
theorem sbView_empty (l : Loc) (n : Nat) : sbView [] l n = .none_ := by
  simp [sbView, sbByte]

/-- With nothing queued the use of a place sets A of its leaf at once (R297). -/
theorem noteUse_idle {u : State} (hq : u.core.q.queue = []) (l : Loc) : noteUse u l = setAccessed u l false := by
  cases l with
  | bank k => rfl
  | glob key pte pa => exact if_pos (by rw [hq]; rfl)
  | peer key pte pa => exact if_pos (by rw [hq]; rfl)

/-- On a quiet core an aligned load whose address translates is performed at once (R164, R277, R297). -/
theorem loadOp_performs {u : State} {l : Loc} (ha : va.toNat % n = 0) (hu : Quiet u)
    (ht : translateAs s s.core.who va .r true false = (u, .ok l)) :
    loadOp s d va n signed = loadAt (setAccessed u l false) d va n signed l := by
  have hmet : waitQueue (fun t => !queuedWrites t va l n) u = .clear u := waitQueue_met _ (by simp [queuedWrites, hu.1])
  have hcore : (setAccessed u l false).core = u.core := setAccessed_keeps (coreKept u.core).near rfl
  have hview : sbView (noteUse u l).core.q.sb l n = .none_ := by rw [noteUse_idle hu.1, hcore, hu.2.2.1, sbView_empty]
  unfold loadOp
  rw [if_neg (not_not.2 ha), ht]
  dsimp only
  rw [hmet, whenClear, hview]
  dsimp only
  rw [noteUse_idle hu.1]

/-- A load from a bank of a quiet core. -/
theorem loadOp_bank (h : Quiet s) (ha : va.toNat % n = 0) (hw : isWindow va = true)
    (hk : windowKey s s.core.pos s.core.fold va = some k) : loadOp s d va n signed = loadAt s d va n signed (.bank k) := by
  have ht : translateAs s s.core.who va .r true false = (s, .ok (.bank k)) := translateAs_bank (w := s.core.who) (acc := .r) nofun hw hk true false
  rw [loadOp_performs ha h ht, show setAccessed s (.bank k) false = s from rfl]

/-- What a load from the core's own banks comes to, by the marks of its bytes (R280). -/
theorem loadAt_own (hr : isRemote s.core.pos k = false) : loadAt s d va n signed (.bank k) =
    match (readAt s (.bank k) n).2.2 with
    | some o => raiseTrap s 11 (va + BitVec.ofNat 64 o)
    | none => fallThrough (writeX s d (extendLoad n signed (readAt s (.bank k) n).2.1)) := by
  have hs : (readAt s (.bank k) n).1 = s := by
    unfold readAt
    split
    · rfl
    · rfl
  unfold loadAt
  simp only [hr, Bool.false_eq_true, if_false, hs] <;> rfl

/-- Bytes read in two parts. -/
theorem le_append (m : Memory) (k a b : Nat) : Memory.le m k (a + b) = Memory.le m k a + 256 ^ a * Memory.le m (k + a) b := by
  induction a generalizing k with
  | zero => simp [Memory.le]
  | succ a ih =>
    rw [Nat.succ_add, Memory.le, Memory.le, ih, show k + 1 + a = k + (a + 1) by omega, pow_succ]
    ring

/-- Eight bytes are two words. -/
theorem le_eight (m : Memory) (k : Nat) : Memory.le m k 8 = Memory.le m k 4 + 2 ^ 32 * Memory.le m (k + 4) 4 := le_append m k 4 4

/-- The value that a bank gives to a load (R277). -/
theorem readAt_bank_value (s : State) (k n : Nat) : (readAt s (.bank k) n).2.1 = Memory.le s.mem k n := by
  unfold readAt
  split
  · rename_i h8
    rw [h8, le_eight]
    rfl
  · rfl

/-- A load whose bytes carry no mark finds none (R280). -/
theorem readAt_bank_clean (hn : 0 < n) (hc : ∀ j, j < n → poisoned s (k + j) = false) : (readAt s (.bank k) n).2.2 = none := by
  have h0 : poisoned s k = false := hc 0 hn
  unfold readAt
  split
  · rename_i h8
    have h4 : poisoned s (k + 4) = false := hc 4 (by omega)
    show (if poisoned s k = true then some 0 else if poisoned s (k + 4) = true then some 4 else none) = none
    rw [h0, h4]
    rfl
  · show (if poisoned s k = true then some 0 else none) = none
    rw [h0]
    rfl

/-- A load whose first byte carries a mark finds it there (R280). -/
theorem readAt_bank_first (h0 : poisoned s k = true) : (readAt s (.bank k) n).2.2 = some 0 := by
  unfold readAt
  split
  · exact if_pos h0
  · exact if_pos h0

/-- A load of eight bytes whose second word alone carries a mark finds it there (R280). -/
theorem readAt_bank_second (h0 : poisoned s k = false) (h4 : poisoned s (k + 4) = true) : (readAt s (.bank k) 8).2.2 = some 4 :=
  (if_neg (show ¬poisoned s k = true by rw [h0]; exact Bool.false_ne_true)).trans (if_pos h4)

/-- A load from another core's bank is a request that leaves x(d) pending (R277, R293). -/
theorem loadAt_remote (h : Quiet s) (hr : isRemote s.core.pos k = true) (hp : bankPoison s k n = none) :
    loadAt s d va n signed (.bank k) = fallThrough (setQ s { s.core.q with
      remote := [⟨s.core.q.rseq, s.core.q.qnext, k, .load d n signed⟩], rseq := s.core.q.rseq + 1 }) := by
  obtain ⟨hq, -, -, hrem⟩ := h
  have hsend : sendRemote s k (.load d n signed) = setQ s { s.core.q with
      remote := [⟨s.core.q.rseq, s.core.q.qnext, k, .load d n signed⟩], rseq := s.core.q.rseq + 1 } := by
    have hroom : roomRemote s = s := by
      unfold roomRemote
      rw [hrem]
      rfl
    unfold sendRemote
    rw [hroom]
    dsimp only
    rw [hrem]
    rfl
  have hl : loadAt s d va n signed (.bank k) = remoteLoad s d va n signed k := if_pos hr
  rw [hl]
  unfold remoteLoad
  simp only [hp, Option.isSome_none, Bool.false_and, Bool.false_eq_true, if_false, pushUndo_idle hq, ite_self, hsend]

/-- An instruction whose meaning is a load (R277, R280, R293). -/
theorem loadsAs_of (h : Ready s) (hn : 0 < n) (he : exec i s = .next (strand s rs f)) (hf : f s = loadOp s d va n signed) :
    LoadsAs i s d va n signed := by
  refine ⟨fun ha => ?_, fun k ha ⟨hw, hk, hr⟩ => ⟨fun hc => ?_, fun h0 => ?_, fun h8 h0 h4 => ?_⟩, fun u c ha ht hu => ?_,
    fun u l v x ha ht hw hb hu hread hv => ?_, fun k ha hw hk hr hp hpace => ?_⟩
  · exact traps_of h.1 he (hf.trans (if_pos ha))
  · refine computes_of h he ?_
    rw [hf, loadOp_bank h.1 ha hw hk, loadAt_own hr, readAt_bank_clean hn hc, readAt_bank_value]
  · refine traps_of h.1 he ?_
    rw [hf, loadOp_bank h.1 ha hw hk, loadAt_own hr, readAt_bank_first h0]
    exact congrArg (raiseTrap s 11) (BitVec.add_zero va)
  · refine traps_of h.1 he ?_
    subst h8
    rw [hf, loadOp_bank h.1 ha hw hk, loadAt_own hr, readAt_bank_second h0 h4]
    rfl
  · rw [he, strand_quiet h.1, hf]
    unfold loadOp
    rw [if_neg (not_not.2 ha), translateAs_defer_fault ht]
    exact congrArg (fun t => Host.Outcome.next (settle t)) (raiseTrap_idle hu.1 c va)
  · obtain ⟨w, htw, hcore, rfl⟩ := translate_ok hw ht
    have hwq : Quiet w := by
      unfold Quiet
      rw [hcore]
      exact h.1
    have hload : f s = fallThrough (writeX v d (extendLoad n signed x)) := by
      have hread' : readAt (setAccessed w l false) l n = (v, x, none) := hread
      rw [hf, loadOp_performs ha hwq htw]
      cases l with
      | bank k => exact absurd rfl (hb k)
      | glob key pte pa => simp only [loadAt, hread']
      | peer key pte pa => simp only [loadAt, hread']
    obtain ⟨hwrote, hadv, honly⟩ := fallThrough_setX hv d (extendLoad n signed x)
    refine ⟨fallThrough (setX v d (extendLoad n signed x)), ?_, hwrote, hadv, honly⟩
    rw [he, strand_quiet h.1, hload, writeX_idle hv.1.1, settle_quiet]
    exact onlyPc_quiet (fallThrough_onlyPc (quiet_setX hv.1 d _).1 (noLoopEnd_setX hv.2 d _)) (quiet_setX hv.1 d _)
  · generalize hu : setQ s { s.core.q with
      remote := [⟨s.core.q.rseq, s.core.q.qnext, k, .load d n signed⟩], rseq := s.core.q.rseq + 1 } = u
    have huq : u.core.q.queue = [] := by rw [← hu]; exact h.1.1
    have hun : NoLoopEnd u := noLoopEnd_congr h.2 (by rw [← hu]; rfl) (by rw [← hu]; rfl) (by rw [← hu]; rfl)
    have hfall := fallThrough_eq huq hun
    rw [retired_eq huq] at hfall
    refine ⟨fallThrough u, ?_, ?_, ?_⟩
    · rw [he, strand_quiet h.1, hf, loadOp_bank h.1 ha hw hk, loadAt_remote h.1 hr hp, hu]
      refine congrArg Host.Outcome.next (settle_withinPace ?_ ?_ ?_)
      · rw [hfall, ← hu]; exact h.1.1
      · rw [hfall, ← hu]
        show s.core.q.sb.length ≤ _
        rw [h.1.2.2.1]
        exact Nat.zero_le _
      · rw [hfall, ← hu]; exact hpace
    · rw [hfall, ← hu]
      exact ⟨rfl, rfl⟩
    · rw [hfall, ← hu]
      rfl

end

end Sys2Proof.Machine

section

open Sys2Proof Sys2Proof.Machine

/-- Settles O10: every form is one load of its size and extension at its address. -/
theorem scalarLoads : Obligations.ScalarLoads := by
  intro s d a i n k h va
  exact ⟨loadsAs_of h (by decide) (Eq.refl (execLb d a i s)) rfl,
    loadsAs_of h (by decide) (Eq.refl (execLbu d a i s)) rfl,
    loadsAs_of h (by decide) (Eq.refl (execLh d a i s)) rfl,
    loadsAs_of h (by decide) (Eq.refl (execLhu d a i s)) rfl,
    loadsAs_of h (by decide) (Eq.refl (execLw d a i s)) rfl,
    loadsAs_of h (by decide) (Eq.refl (execLwu d a i s)) rfl,
    loadsAs_of h (by decide) (Eq.refl (execLd d a i s)) rfl,
    fun hs => loadsAs_of h (by decide) (Eq.refl (execFld d n k s)) (slotOp_ok hs)⟩

end

namespace Sys2Proof.Machine

/-! ## Scalar stores, PREF and CBO (R165, R278, R281, R282) -/

section
variable {i : Instr} {s u : State} {rs : List Reg} {f : State → State} {va : Word} {n : Nat} {data : Word} {k : Nat} {l : Loc}

/-- On a quiet core a store whose address translates takes an entry (R165, R278). -/
theorem storeOp_ok (h : Quiet s) (ha : va.toNat % n = 0) (ht : translateAs s s.core.who va .w true false = (u, .ok l)) :
    storeOp s va n data = fallThrough (pushSb u va l (.store n data)) := by
  unfold storeOp
  rw [if_neg (not_not.2 ha), whenSbRoom_idle h.2.2.1, ht]

/-- On a quiet core a store whose address faults raises the fault's cause (R278). -/
theorem storeOp_fault {c : Nat} (h : Quiet s) (ha : va.toNat % n = 0) (ht : translateAs s s.core.who va .w true false = (u, .fault c)) :
    storeOp s va n data = raiseTrap u c va := by
  unfold storeOp
  rw [if_neg (not_not.2 ha), whenSbRoom_idle h.2.2.1, ht]

/-- A write of bytes changes memory and its marks alone. -/
theorem pokeLe_eq (s : State) (k n v : Nat) :
    pokeLe s k n v = { s with mem := Memory.setLe s.mem k n v, poison := (pokeLe s k n v).poison } := by
  unfold pokeLe
  split
  · split
    · rfl
    · rfl
  · split
    · split
      · rfl
      · rfl
    · rfl

/-- A store entry to the core's own banks leaves at once where the pace keeps none back, and writes its bytes (R165, log 9). -/
theorem settle_bankStore (hq : s.core.q.queue = []) (hs : s.core.q.sb = []) (hr : s.core.q.remote = []) (hp : s.pace.sb = 0)
    (hk : isRemote s.core.pos k = false) (after : Nat) :
    settle (setQ s { s.core.q with sb := [⟨after, va, .bank k, .store n data⟩] }) = pokeLe s k n data.toNat := by
  generalize hv : setQ s { s.core.q with sb := [⟨after, va, .bank k, .store n data⟩] } = v
  have hvq : v.core.q.queue = [] := by rw [← hv]; exact hq
  have hvs : v.core.q.sb = [⟨after, va, .bank k, .store n data⟩] := by rw [← hv]; rfl
  have hd : (drainTo v.pace.queue v).state = v := by rw [drainTo_idle hvq]; rfl
  have hback : setQ v { v.core.q with sb := [] } = s := by
    rw [← hv, ← hs]
    rfl
  have hpop : popSb v = pokeLe s k n data.toNat := by
    have hturn : leaveTurn v ⟨after, va, .bank k, .store n data⟩ = true := by
      simp [leaveTurn, queuePast, hvq]
    unfold popSb
    simp only [hvs, hturn, leaveCopies, hback, Bool.not_true, Bool.false_eq_true, if_false]
    exact if_neg (show ¬isRemote s.core.pos k = true by rw [hk]; exact Bool.false_ne_true)
  have hsb : drainSb v.core.q.sb.length v v.pace.sb = pokeLe s k n data.toNat := by
    have hpv : v.pace.sb = 0 := by rw [← hv]; exact hp
    rw [hvs, hpv]
    show (if v.core.q.sb.length ≤ 0 then v else drainSb 0 (popSb v) 0) = _
    rw [if_neg (by rw [hvs]; exact Nat.not_succ_le_zero 0), hpop]
    rfl
  have hrem : (pokeLe s k n data.toNat).core.q.remote = [] := by
    rw [pokeLe_eq]
    exact hr
  unfold settle
  simp only [hd, hsb, hrem, List.length_nil, drainRemote]

/-- An instruction whose meaning is a store (R165, R278). -/
theorem storesAs_of (h : Ready s) (he : exec i s = .next (strand s rs f)) (hf : f s = storeOp s va n data) : StoresAs i s va n data := by
  obtain ⟨hq, -, hsb, hrem⟩ := h.1
  refine ⟨fun ha => ?_, fun u c ha ht hu => ?_, fun u l ha ht hu => ?_, fun k ha ⟨hw, hk, hr⟩ hp hwf => ?_⟩
  · exact traps_of h.1 he (hf.trans (if_pos ha))
  · rw [he, strand_quiet h.1, hf, storeOp_fault h.1 ha ht, raiseTrap_idle hu.1]
  · exact takesEntry_of h.1 hu he (hf.trans (storeOp_ok h.1 ha ht))
  · have ht := translateAs_bank (s := s) (w := s.core.who) (acc := .w) nofun hw hk true false
    have hqp : (pushSb s va (.bank k) (.store n data)).core.q.queue = [] := hq
    have hnp : NoLoopEnd (pushSb s va (.bank k) (.store n data)) := noLoopEnd_congr h.2 rfl rfl rfl
    have hfall := fallThrough_eq hqp hnp
    rw [retired_eq hqp] at hfall
    generalize (retired (pushSb s va (.bank k) (.store n data))).core.sync.rcnt = rcnt at hfall
    generalize hv : setPc { s with core := { s.core with
      regs := { s.core.regs with instret := s.core.regs.instret + 1 }
      sync := { s.core.sync with rcnt := rcnt } } } (s.core.regs.pc + 4) = v
    have hpush : fallThrough (pushSb s va (.bank k) (.store n data)) =
        setQ v { v.core.q with sb := [⟨s.core.q.qnext, va, .bank k, .store n data⟩] } := by
      have hone : [(⟨s.core.q.qnext, va, .bank k, .store n data⟩ : SbEntry)] = s.core.q.sb ++ [⟨s.core.q.qnext, va, .bank k, .store n data⟩] := by
        rw [hsb]
        rfl
      rw [hfall, ← hv, hone]
      rfl
    have hset : exec i s = .next (pokeLe v k n data.toNat) := by
      rw [he, strand_quiet h.1, hf, storeOp_ok h.1 ha ht, hpush]
      exact congrArg Host.Outcome.next (settle_bankStore (by rw [← hv]; exact hq) (by rw [← hv]; exact hsb) (by rw [← hv]; exact hrem)
        (by rw [← hv]; exact hp) (by rw [← hv]; exact hr) _)
    have hmem : (pokeLe v k n data.toNat).mem = Memory.setLe s.mem k n data.toNat := by
      rw [pokeLe_eq, ← hv]
      rfl
    have hcore : (pokeLe v k n data.toNat).core = v.core := by rw [pokeLe_eq]
    refine ⟨_, hset, ?_, fun r => ?_, ?_, fun a hout => ?_, ?_, ?_⟩
    · unfold Advances
      rw [hcore, ← hv]
      exact ⟨rfl, rfl⟩
    · unfold xr
      rw [hcore, ← hv]
      rfl
    · rw [hmem, Memory.le_setLe k n _ hwf, Nat.pow_mul]
    · rw [hmem]
      exact Memory.byte_setLe_out k n _ a hwf hout
    · rw [hmem]
      exact Memory.setLe_wf k n _ hwf
    · rw [pokeLe_eq, ← hv]
      rfl

end

end Sys2Proof.Machine

section

open Sys2Proof Sys2Proof.Machine

/-- Settles O11: every form is one store of its size at its address. -/
theorem scalarStores : Obligations.ScalarStores := by
  intro s d a i n k h va
  exact ⟨storesAs_of h (Eq.refl (execSb d a i s)) rfl,
    storesAs_of h (Eq.refl (execSh d a i s)) rfl,
    storesAs_of h (Eq.refl (execSw d a i s)) rfl,
    storesAs_of h (Eq.refl (execSd d a i s)) rfl,
    fun hs => storesAs_of h (Eq.refl (execFst d n k s)) (slotOp_ok hs)⟩

end

namespace Sys2Proof.Machine

section
variable {s u : State} {a : Reg} {fn : BitVec 2} {acc : Access} {l : Loc}

/-- On a quiet core a CBO whose address translates takes an entry (R282). -/
theorem cboOp_ok (h : Quiet s) (ht : translateAs s s.core.who (xr s a) acc true false = (u, .ok l)) :
    cboOp s a fn acc = fallThrough (pushSb u (xr s a) l (.cbo fn)) := by
  unfold cboOp
  rw [whenSbRoom_idle h.2.2.1]
  dsimp only
  rw [ht]

/-- A state with other PREF fills of its core. -/
def withPrefs (s : State) (ps : List PrefFill) : State := setCore s { s.core with prefs := ps }

/-- PREF starts at most one fill (R281). -/
theorem exec_pref (h : Quiet s) (hint : BitVec 2) (i : BitVec 13) :
    ∃ ps, exec (.pref hint a i) s = .next (settle (fallThrough (withPrefs s ps))) ∧
      (ps = s.core.prefs ∨ ∃ f : PrefFill, ps = s.core.prefs ++ [f] ∧ f.levels = prefLevels s hint) := by
  show ∃ ps, Host.Outcome.next (strand s [a] _) = _ ∧ _
  rw [strand_quiet h]
  dsimp only
  split
  · exact ⟨_, rfl, .inr ⟨_, rfl, rfl⟩⟩
  · exact ⟨s.core.prefs, rfl, .inl rfl⟩

end

end Sys2Proof.Machine

section

open Sys2Proof Sys2Proof.Machine

/-- Settles O12, by the fill that PREF may start and the entries that the forms of CBO take. -/
theorem cacheOperations : Obligations.CacheOperations := by
  intro s a hint i h
  refine ⟨?_, fun u l ht hu => ?_, fun u l ht hu => ?_, fun u l hl ht hu => ?_, fun w hl hw => ?_⟩
  · obtain ⟨ps, hx, hps⟩ := exec_pref h.1 (a := a) hint i
    have hq : (withPrefs s ps).core.q.queue = [] := h.1.1
    have hn : NoLoopEnd (withPrefs s ps) := noLoopEnd_congr h.2 rfl rfl rfl
    have ho := fallThrough_onlyPc hq hn
    rw [settle_quiet (onlyPc_quiet ho (show Quiet (withPrefs s ps) from h.1))] at hx
    have hprefs : (fallThrough (withPrefs s ps)).core.prefs = ps := by rw [ho]; rfl
    refine ⟨_, hx, fallThrough_advances hq hn, ?_, ?_⟩
    · rw [hprefs]
      exact hps
    · rw [hprefs]
      exact ho
  · exact takesEntry_of h.1 hu (Eq.refl (execCboWb a s)) (cboOp_ok h.1 ht)
  · exact takesEntry_of h.1 hu (Eq.refl (execCboWbinv a s)) (cboOp_ok h.1 ht)
  · exact takesEntry_of h.1 hu (Eq.refl (execCboInv a s)) ((if_neg (not_not.2 hl)).trans (cboOp_ok h.1 ht))
  · have hown : wordOf (.cboInv a) = w.setWidth 64 := by
      unfold wordOf encodeOr0
      rw [hw]
      rfl
    exact traps_of h.1 (Eq.refl (execCboInv a s)) ((if_pos hl).trans (by rw [hown]))

end

namespace Sys2Proof.Machine

/-! ## Entering and leaving frames (R206, R207) -/

section
variable {s u : State}

/-- A state after an instruction that falls through where no loop ends: the next word, INSTRET counted, and RCNT (R132, R153, R427). -/
def advanced (s : State) (rcnt : Nat) : State :=
  { s with core := { s.core with
    regs := { s.core.regs with pc := s.core.regs.pc + 4, instret := s.core.regs.instret + 1 }
    sync := { s.core.sync with rcnt := rcnt } } }

/-- Falling through where no loop ends. -/
theorem fallThrough_advanced (hq : u.core.q.queue = []) (hn : NoLoopEnd u) : ∃ rcnt, fallThrough u = advanced u rcnt := by
  rw [fallThrough_eq hq hn, retired_eq hq]
  exact ⟨_, rfl⟩

/-- Falling through, with what is outstanding within the pace (log 9). -/
theorem settle_fallThrough (hq : u.core.q.queue = []) (hb : u.core.q.sb.length ≤ u.pace.sb) (hr : u.core.q.remote.length ≤ u.pace.remote)
    (hn : NoLoopEnd u) : ∃ rcnt, settle (fallThrough u) = advanced u rcnt := by
  obtain ⟨rcnt, hf⟩ := fallThrough_advanced hq hn
  exact ⟨rcnt, by rw [hf, settle_withinPace (by exact hq) (by exact hb) (by exact hr)]⟩

/-- With nothing queued no undo entry of the frame-depth kind is made (R166). -/
theorem logFrame_idle (hq : s.core.q.queue = []) (added : Option Nat) : logFrame s added = s := pushUndo_idle hq _

/-- An entry taken by an empty store buffer is its only one (R165). -/
theorem pushSb_empty (hs : s.core.q.sb = []) (va : Word) (l : Loc) (op : SbOp) :
    pushSb s va l op = setQ s { s.core.q with sb := [⟨s.core.q.qnext, va, l, op⟩] } := by
  unfold pushSb
  rw [hs]
  rfl

/-- What FENTER writes before it falls through, but for x(d) (R206). -/
def entered (s : State) (n off : Nat) (t : Word) : State :=
  let g := s.core.regs
  { s with core := { s.core with
    regs := { g with
      depth := g.depth + 1
      d := vset g.d (g.depth + 1) (tcmVa s.core.pos off)
      shadow := vset g.shadow (g.depth + 1) t
      frames := g.frames ++ [⟨off, off + 40 + 8 * n, t⟩] }
    q := { s.core.q with sb := [⟨s.core.q.qnext, tcmVa s.core.pos off, .bank (tcmKey s.core.pos + off),
      .enter (tcmVa s.core.pos off) t (curFrame s) (g.depth + 1)⟩] } } }

/-- FENTER on a quiet core (R206). -/
theorem enterFrame_eq (h : Quiet s) (d : Reg) (n off : Nat) (t : Word) :
    enterFrame s d n off t = fallThrough (setX (entered s n off t) d (BitVec.ofNat 64 (s.core.regs.depth + 1))) := by
  obtain ⟨hq, -, hsb, -⟩ := h
  unfold enterFrame
  rw [logFrame_idle hq]
  dsimp only
  rw [writeX_idle (by exact hq), pushSb_empty (by exact hsb)]
  rfl

/-- What FLEAVE writes before it falls through (R207). -/
def leaving (s : State) : State :=
  let g := s.core.regs
  { s with core := { s.core with
    regs := { g with depth := g.depth - 1, d := vset g.d g.depth 0, shadow := vset g.shadow g.depth 0 }
    q := { s.core.q with sb := [⟨s.core.q.qnext, curFrame s, .bank (absKey (curFrame s)), .leave (curFrame s) (curTmpl s)⟩] } } }

/-- FLEAVE from a frame that was entered, on a quiet core (R207). -/
theorem exec_fleave (h : Quiet s) (he : curEnt s = true) : exec .fleave s = .next (settle (fallThrough (leaving s))) := by
  obtain ⟨hq, -, hsb, -⟩ := id h
  have hx : exec .fleave s = execFleave s := rfl
  rw [hx, execFleave, strand_quiet h]
  simp only [he, Bool.not_true, Bool.false_eq_true, if_false]
  rw [whenSbRoom_idle hsb, logFrame_idle hq, pushSb_empty (by exact hsb)]
  rfl

end

end Sys2Proof.Machine

section

open Sys2Proof Sys2Proof.Machine

/-- Settles O15, by what each instruction writes before it falls through; its entry stays in the store buffer. -/
theorem enterAndLeave : Obligations.EnterAndLeave := by
  intro s d a p sc h hp n off g tmpl v
  obtain ⟨hq, -, hsb, hrem⟩ := h.1
  have hremote : s.core.q.remote.length ≤ s.pace.remote := by
    rw [hrem]
    exact Nat.zero_le _
  refine ⟨fun hd hn hf => ?_, fun he => ?_⟩
  · have hdepth : s.core.regs.depth ≠ 7 := Nat.ne_of_lt hd
    generalize hu : setX (entered s n off tmpl) d (BitVec.ofNat 64 (g.depth + 1)) = u
    have hu' := hu
    rw [setX_eq] at hu'
    obtain ⟨rcnt, hr⟩ := settle_fallThrough (u := u) (by rw [← hu']; exact hq) (by rw [← hu']; exact hp) (by rw [← hu']; exact hremote)
      (noLoopEnd_congr h.2 (by rw [← hu']; rfl) (by rw [← hu']; rfl) (by rw [← hu']; rfl))
    have hwrote : WroteX s u d (BitVec.ofNat 64 (g.depth + 1)) := by
      rw [← hu]
      exact wroteX_setX (entered s n off tmpl) d _
    refine ⟨advanced u rcnt, ?_, hwrote, ?_, ?_⟩
    · have hx : exec (.fenter d a p sc) s = execFenter d a p sc s := rfl
      rw [hx, execFenter, strand_quiet h.1]
      dsimp only
      rw [if_neg hdepth, if_neg (Nat.not_lt.2 hn), whenSbRoom_idle hsb,
        if_neg (show ¬Config.tcmBytes < ftopOf s.core.regs + 40 + 8 * (xr s a).toNat from Nat.not_lt.2 hf), enterFrame_eq h.1, ← hr, ← hu]
    · rw [← hu']
      exact ⟨rfl, rfl⟩
    · rw [← hu']
      rfl
  · obtain ⟨rcnt, hr⟩ := settle_fallThrough (u := leaving s) hq hp hremote (noLoopEnd_congr h.2 rfl rfl rfl)
    exact ⟨advanced (leaving s) rcnt, by rw [exec_fleave h.1 he, hr], ⟨rfl, rfl⟩, rfl⟩

end

namespace Sys2Proof.Machine

/-! ## Fields of a template (R44, R209) -/

section
variable {t : Word} {lo w v : Nat}

/-- A bit of a word with a field replaced. -/
theorem putField_bit (hw : w ≤ 64) {i : Nat} (hi : i < 64) :
    (putField t lo w v).getLsbD i = if lo ≤ i ∧ i < lo + w then v.testBit (i - lo) else t.getLsbD i := by
  unfold putField
  simp only [BitVec.getLsbD_or, BitVec.getLsbD_and, BitVec.getLsbD_not, BitVec.getLsbD_shiftLeft, BitVec.getLsbD_ushiftRight,
    BitVec.getLsbD_allOnes, BitVec.getLsbD_ofNat, hi, decide_true, Bool.true_and]
  by_cases h1 : lo ≤ i
  · by_cases h2 : i < lo + w
    · have h3 : 64 - w + (i - lo) < 64 := by omega
      have h4 : i - lo < 64 := by omega
      simp [h1, h2, h3, h4, Nat.not_lt.2 h1]
    · have h3 : ¬64 - w + (i - lo) < 64 := by omega
      simp [h1, h2, h3]
  · simp [h1, Nat.lt_of_not_le h1]

/-- A field apart from the one replaced stands. -/
theorem extract_putField_other (hw : w ≤ 64) {a n : Nat} (ha : a + n ≤ 64) (h : a + n ≤ lo ∨ lo + w ≤ a) :
    (putField t lo w v).extractLsb' a n = t.extractLsb' a n := by
  apply BitVec.eq_of_getLsbD_eq
  intro i hi
  simp only [BitVec.getLsbD_extractLsb', hi, decide_true, Bool.true_and]
  rw [putField_bit hw (by omega), if_neg (by omega)]

/-- A field that was replaced reads as its value. -/
theorem extract_putField_same (h : lo + w ≤ 64) : ((putField t lo w v).extractLsb' lo w).toNat = v % 2 ^ w := by
  have he : (putField t lo w v).extractLsb' lo w = BitVec.ofNat w v := by
    apply BitVec.eq_of_getLsbD_eq
    intro i hi
    simp only [BitVec.getLsbD_extractLsb', BitVec.getLsbD_ofNat, hi, decide_true, Bool.true_and]
    rw [putField_bit (by omega) (by omega), if_pos (by omega), Nat.add_sub_cancel_left]
  rw [he, BitVec.toNat_ofNat]

end

/-! ## FFOLD and FPOL (R209) -/

section
variable {i : Instr} {s : State} {rs : List Reg} {k : State → State} {tm : Word}

/-- The live template of the current frame follows its shadow (R201). -/
theorem syncLive_eq (u : State) : syncLive u = setRegs u { u.core.regs with frames := framesWith u (shadowAt u u.core.regs.depth) } := by
  unfold syncLive framesWith
  simp only [Bool.and_eq_true, Bool.not_eq_true', decide_eq_true_eq, and_assoc]
  split
  · rfl
  · rfl

/-- The shadow of the current frame replaced, and nothing else (R201, R209). -/
theorem setShadow_eq (hq : s.core.q.queue = []) (hd : s.core.regs.depth ≤ 7) : setShadow s tm = setRegs s { s.core.regs with
    shadow := vset s.core.regs.shadow s.core.regs.depth tm, frames := framesWith s tm } := by
  unfold setShadow
  rw [logFrame_idle hq]
  dsimp only
  generalize hu : setRegs s { s.core.regs with shadow := vset s.core.regs.shadow s.core.regs.depth tm } = u
  have hlive : shadowAt u u.core.regs.depth = tm := by
    have hlt : s.core.regs.depth < 8 := Nat.lt_succ_of_le hd
    rw [← hu]
    simp [shadowAt, setRegs, vset, hlt]
  rw [syncLive_eq, hlive, ← hu]
  rfl

/-- An instruction whose meaning replaces the shadow and falls through (R209). -/
theorem setsShadow_of (h : Ready s) (hd : s.core.regs.depth ≤ 7) (he : exec i s = .next (strand s rs k))
    (hk : k s = fallThrough (setShadow s tm)) : SetsShadow i s tm := by
  obtain ⟨hq, -, hsb, hrem⟩ := h.1
  generalize hu : setRegs s { s.core.regs with
    shadow := vset s.core.regs.shadow s.core.regs.depth tm, frames := framesWith s tm } = u
  rw [setShadow_eq hq hd, hu] at hk
  obtain ⟨rcnt, hr⟩ := settle_fallThrough (u := u) (by rw [← hu]; exact hq)
    (by rw [← hu]; show s.core.q.sb.length ≤ _; rw [hsb]; exact Nat.zero_le _)
    (by rw [← hu]; show s.core.q.remote.length ≤ _; rw [hrem]; exact Nat.zero_le _)
    (noLoopEnd_congr h.2 (by rw [← hu]; rfl) (by rw [← hu]; rfl) (by rw [← hu]; rfl))
  refine ⟨advanced u rcnt, ?_, ?_, ?_⟩
  · rw [he, strand_quiet h.1, hk, hr]
  · rw [← hu]
    exact ⟨rfl, rfl⟩
  · rw [← hu]
    rfl

/-- The template that FFOLD writes (R209). -/
def foldTmpl (t : Word) (op own par : Nat) : Word := putField (putField (putField t 14 3 op) 17 10 own) 27 10 par

/-- Its fields: FOP, FOWN and FPAR are written, and the others stand (R44, R209). -/
theorem foldTmpl_fields {t : Word} {op own par : Nat} (hop : op < 2 ^ 3) (hown : own < 2 ^ 10) (hpar : par < 2 ^ 10) :
    (tFop (foldTmpl t op own par)).toNat = op ∧ tFown (foldTmpl t op own par) = own ∧ tFpar (foldTmpl t op own par) = par ∧
      (foldTmpl t op own par).extractLsb' 0 14 = t.extractLsb' 0 14 ∧ (foldTmpl t op own par).extractLsb' 37 27 = t.extractLsb' 37 27 := by
  unfold foldTmpl tFop tFown tFpar
  refine ⟨?_, ?_, ?_, ?_, ?_⟩
  · rw [extract_putField_other (by decide) (by decide) (by decide), extract_putField_other (by decide) (by decide) (by decide),
      extract_putField_same (by decide), Nat.mod_eq_of_lt hop]
  · rw [extract_putField_other (by decide) (by decide) (by decide), extract_putField_same (by decide), Nat.mod_eq_of_lt hown]
  · rw [extract_putField_same (by decide), Nat.mod_eq_of_lt hpar]
  · rw [extract_putField_other (by decide) (by decide) (by decide), extract_putField_other (by decide) (by decide) (by decide),
      extract_putField_other (by decide) (by decide) (by decide)]
  · rw [extract_putField_other (by decide) (by decide) (by decide), extract_putField_other (by decide) (by decide) (by decide),
      extract_putField_other (by decide) (by decide) (by decide)]

/-- SLOTS of a template has ten bits. -/
theorem tSlots_lt (t : Word) : tSlots t < 2 ^ 10 := (t.extractLsb' 0 10).isLt

end

/-! ## FORK, JOIN and END (R212, R217 to R219) -/

section
variable {s : State}

/-- An acquire changes of the core in focus its pending fills alone (R281, R362). -/
theorem acquire_core (s : State) (m : Word) (sc : Scope) : (acquire s m sc).core =
    { s.core with prefs := s.core.prefs.filterMap (prefAfter s.core.pos (below (levelOf s s.core.pos sc) (sharedPath s s.core.pos))) } := rfl

/-- Reading STATE of a frame leaves the core. -/
theorem frameState_core (s : State) (vf : Nat) (h : Word) : (frameState s vf h).1.core = s.core := frameState_keeps (coreKept s.core).near rfl

/-- The state that JOIN reads the frame in, after the acquire that its children ask for (R218). -/
def joinBase (s : State) : State :=
  let st := frameState s s.core.vf (curFrame s)
  if stWv st.2 then acquire st.1 allRegions (stWscope st.2) else st.1

/-- It changes of the core its pending fills alone. -/
theorem joinBase_core (s : State) : ∃ ps, (joinBase s).core = { s.core with prefs := ps } := by
  unfold joinBase
  dsimp only
  split
  · rw [acquire_core, frameState_core]
    exact ⟨_, rfl⟩
  · rw [frameState_core]
    exact ⟨_, rfl⟩

/-- So does the whole of JOIN with no child left (R218). -/
theorem joined_core (s : State) : ∃ ps, (joined s).core = { s.core with prefs := ps } := by
  obtain ⟨ps, hb⟩ := joinBase_core s
  refine ⟨ps, ?_⟩
  have hj : joined s = frameWrite (frameState (joinBase s) s.core.vf (curFrame s)).1 s.core.vf (hState (curFrame s))
    (putField (frameState (joinBase s) s.core.vf (curFrame s)).2 39 1 0) := rfl
  rw [hj]
  exact frameWrite_keeps (coreKept _).near ((frameState_core _ _ _).trans hb)

/-- The JOIN steps with no child left (R218). -/
theorem joinSteps_done (hc : childrenLeft s = 0) : joinSteps s = .done (joined s) := by
  obtain ⟨ps, hb⟩ := joinBase_core s
  have hcur : curFrame (joinBase s) = curFrame s := by
    unfold curFrame dreg
    rw [hb]
  have hj : joinSteps s = .done (frameWrite (frameState (joinBase s) s.core.vf (curFrame (joinBase s))).1 s.core.vf
      (hState (curFrame (joinBase s))) (putField (frameState (joinBase s) s.core.vf (curFrame (joinBase s))).2 39 1 0)) := if_pos hc
  rw [hj, hcur]
  rfl

/-- The JOIN steps with children left and no entry in the deque (R218). -/
theorem joinSteps_wait (hc : childrenLeft s ≠ 0) (hd : s.core.sync.deque = []) : joinSteps s = .wait s := by
  refine (if_neg hc).trans ?_
  rw [hd]

/-- The JOIN steps with children left and an entry in the deque (R218). -/
theorem joinSteps_ran {e : DequeEntry} {rest : List DequeEntry} (hc : childrenLeft s ≠ 0) (hd : s.core.sync.deque = e :: rest) :
    joinSteps s = .ran (runNested s e s.core.regs.pc true fun u => setSync u { u.core.sync with deque := rest }) := by
  refine (if_neg hc).trans ?_
  rw [hd]
  rfl

/-- Outside an exchange phase (R403). -/
theorem inPhase_none (hp : s.core.sync.phase = none) : inPhase s = false := by
  unfold inPhase
  rw [hp]
  rfl

section
variable {t : State} (h : Quiet s)
include h

/-- JOIN on a quiet core outside a phase, by what the JOIN steps come to (R218). -/
theorem exec_join_done (hp : s.core.sync.phase = none) (hj : joinSteps s = .done t) : exec .join s = .next (settle (fallThrough t)) := by
  have hx : exec .join s = execJoin s := rfl
  rw [hx, execJoin, drained_quiet h, inPhase_none hp, whenFlushed_idle h.2.2.1 h.2.2.2, hj]
  rfl

theorem exec_join_ran (hp : s.core.sync.phase = none) (hj : joinSteps s = .ran t) : exec .join s = .next (settle t) := by
  have hx : exec .join s = execJoin s := rfl
  rw [hx, execJoin, drained_quiet h, inPhase_none hp, whenFlushed_idle h.2.2.1 h.2.2.2, hj]
  rfl

theorem exec_join_wait (hp : s.core.sync.phase = none) (hj : joinSteps s = .wait t) :
    exec .join s = .next (settle (setSync t { t.core.sync with wait := some .join })) := by
  have hx : exec .join s = execJoin s := rfl
  rw [hx, execJoin, drained_quiet h, inPhase_none hp, whenFlushed_idle h.2.2.1 h.2.2.2, hj]
  rfl

/-- END of a frame that no FENTER made, by what the JOIN steps come to (R219). -/
theorem exec_end_ran (he : curEnt s = false) (hj : joinSteps s = .ran t) : exec .endStrand s = .next (settle t) := by
  have hx : exec .endStrand s = execEnd s := rfl
  rw [hx, execEnd, drained_quiet h, he, whenFlushed_idle h.2.2.1 h.2.2.2, hj]
  rfl

theorem exec_end_wait (he : curEnt s = false) (hj : joinSteps s = .wait t) :
    exec .endStrand s = .next (settle (setSync t { t.core.sync with wait := some .join })) := by
  have hx : exec .endStrand s = execEnd s := rfl
  rw [hx, execEnd, drained_quiet h, he, whenFlushed_idle h.2.2.1 h.2.2.2, hj]
  rfl

theorem exec_end_done (he : curEnt s = false) (hj : joinSteps s = .done t) (hd : t.core.q.sdq = [])
    (ho : t.core.regs.depth = 2 → t.core.sync.outstanding = 0) : exec .endStrand s = .next (settle (
      ((rootCopies t (endFrame (closeRegion (retired t)))).map stall).getD (endFrame (closeRegion (retired t))))) := by
  have hx : exec .endStrand s = execEnd s := rfl
  have hc : (!t.core.q.sdq.isEmpty || (decide (t.core.regs.depth = 2) && decide (t.core.sync.outstanding ≠ 0))) = false := by
    simpa [hd] using ho
  rw [hx, execEnd, drained_quiet h, he, whenFlushed_idle h.2.2.1 h.2.2.2, hj]
  simp only [Bool.false_eq_true, if_false, hc]
  cases rootCopies t (endFrame (closeRegion (retired t))) with
  | none => rfl
  | some w => rfl

end

end

end Sys2Proof.Machine

section

open Sys2Proof Sys2Proof.Machine

/-- Settles O16, by the template that each of FFOLD and FPOL writes, by the checks of FORK, and by what the JOIN steps come to. -/
theorem foldForkAndJoin : Obligations.FoldForkAndJoin := by
  refine ⟨fun s a b f p h hd hf => ?_, fun s a b o h => ?_⟩
  · intro own par t0 above high
    have hown : tSlots t0 < 2 ^ 10 := tSlots_lt t0
    have habove : above < 2 ^ 10 := tSlots_lt _
    have hx : exec (.ffold a b f) s = execFfold a b f s := rfl
    refine ⟨fun h0 ho hp => ⟨foldTmpl t0 f.toNat own par, ?_, foldTmpl_fields (by omega) (by omega) (by omega)⟩,
      fun h0 => ⟨foldTmpl t0 0 0 0, ?_, ?_⟩, fun h0 hb => ?_, ⟨putField t0 12 2 p.toNat, ?_, ?_, ?_, ?_⟩⟩
    · refine setsShadow_of h hd hx ((if_neg ?_).trans ?_)
      · have h1 : ¬tSlots (shadowAt s s.core.regs.depth) ≤ (xr s a).toNat := Nat.not_le.2 ho
        have h2 : ¬tSlots (shadowAt s (s.core.regs.depth - 1)) ≤ (xr s b).toNat := Nat.not_le.2 hp
        simp [h1, h2]
      · simp only [if_neg h0]
        rfl
    · refine setsShadow_of h hd hx ((if_neg (by simp [h0])).trans ?_)
      simp only [h0]
      rfl
    · obtain ⟨h1, h2, h3, h4, h5⟩ := foldTmpl_fields (t := t0) (op := 0) (own := 0) (par := 0) (by decide) (by decide) (by decide)
      exact ⟨BitVec.eq_of_toNat_eq h1, h2, h3, h4, h5⟩
    · refine traps_of h.1 hx ((if_pos ?_).trans ?_)
      · have hb' : tSlots (shadowAt s s.core.regs.depth) ≤ (xr s a).toNat ∨ tSlots (shadowAt s (s.core.regs.depth - 1)) ≤ (xr s b).toNat := hb
        simpa using And.intro h0 hb'
      · rw [Nat.add_assoc, subcode_small (by omega)]
    · exact setsShadow_of h hd (Eq.refl (execFpol p s)) rfl
    · exact (extract_putField_same (by decide)).trans (Nat.mod_eq_of_lt p.isLt)
    · exact extract_putField_other (by decide) (by decide) (by decide)
    · exact extract_putField_other (by decide) (by decide) (by decide)
  · intro e r u v fits
    obtain ⟨ps, hcore⟩ := joined_core s
    have hx : exec (.fork a b o) s = execFork a b o s := rfl
    have hbig : (xr s b) >>> 14 ≠ 0 ↔ 2 ^ 14 ≤ (xr s b).toNat := by
      rw [ne_eq, ← BitVec.toNat_inj, BitVec.toNat_ushiftRight, Nat.shiftRight_eq_div_pow]
      show ¬_ = 0 ↔ _
      omega
    have fork (hd : s.core.regs.depth ≠ 7) (hb : (xr s b).toNat < 2 ^ 14) (hp : s.core.sync.phase = none) : exec (.fork a b o) s =
        .next (settle (if Config.dequeDepth ≤ s.core.sync.deque.length then runNested s e (s.core.regs.pc + 4) false retired
          else if !s.core.q.sdq.isEmpty then stall s
          else fallThrough (addChild (setSync r { r.core.sync with deque := e :: r.core.sync.deque }) r.core.vf e.parent 1))) := by
      have he : forkEntry s a b o = e := by
        unfold forkEntry
        rw [branchTarget_eq]
      rw [hx, execFork, drained_quiet h, if_neg hd, if_neg (mt hbig.1 (Nat.not_le.2 hb)), inPhase_none hp,
        if_neg Bool.false_ne_true, whenFlushed_idle h.2.2.1 h.2.2.2, ← he]
      rfl
    have hr : r.core = s.core := release_keeps (coreKept s.core).near rfl
    refine ⟨fun ⟨hd, hb, hp⟩ hl hs => ?_, fun ⟨hd, hb, hp⟩ hl => ?_, fun hd => ?_, fun hd hb => ?_, fun hd hb hp => ?_, fun hp => ?_,
      fun hp hc => ?_, fun hp hc => ?_, fun he hc => ?_, fun he hc hs ho hk => ?_, fun w he hc hs ho hk => ?_⟩
    · unfold Goes
      rw [fork hd hb hp, if_neg (show ¬Config.dequeDepth ≤ _ from Nat.not_le.2 hl), hs, if_neg (by decide), hr]
    · rw [fork hd hb hp, if_pos (show Config.dequeDepth ≤ _ from hl)]
    · exact traps_of_drained h hx (if_pos hd)
    · exact traps_of_drained h hx ((if_neg hd).trans (if_pos (hbig.2 hb)))
    · exact traps_of_drained h hx ((if_neg hd).trans ((if_neg (mt hbig.1 (Nat.not_le.2 hb))).trans (if_pos hp)))
    · exact traps_of_drained h (Eq.refl (execJoin s)) (if_pos hp)
    · exact exec_join_done h hp (joinSteps_done hc)
    · exact ⟨fun hd => exec_join_wait h hp (joinSteps_wait hc hd), fun e rest hd => exec_join_ran h hp (joinSteps_ran hc hd)⟩
    · exact ⟨fun hd => exec_end_wait h he (joinSteps_wait hc hd), fun e rest hd => exec_end_ran h he (joinSteps_ran hc hd)⟩
    · rw [exec_end_done h he (joinSteps_done hc) (by rw [hcore]; exact hs) (by rw [hcore]; exact ho), hk]
      rfl
    · rw [exec_end_done h he (joinSteps_done hc) (by rw [hcore]; exact hs) (by rw [hcore]; exact ho), hk]
      rfl

end

namespace Sys2Proof.Machine

/-! ## ACQ, REL and the fences (R362, R368, R388, R389) -/

section
variable {i : Instr} {s u : State} {rs : List Reg} {k : State → State}

/-- A drain point whose meaning falls through. -/
theorem goes_of_drained (h : Quiet s) (he : exec i s = .next (drained s rs k)) (hk : k s = fallThrough u) : Goes i s u := by
  unfold Goes
  rw [he, drained_quiet h, hk]

/-- A drain point whose meaning falls through from a ready state, and what its step leaves. -/
theorem exec_drained_advanced (h : Quiet s) (hu : Ready u) (he : exec i s = .next (drained s rs k)) (hk : k s = fallThrough u) :
    ∃ rcnt, exec i s = .next (advanced u rcnt) := by
  obtain ⟨hq, -, hs, hr⟩ := hu.1
  obtain ⟨rcnt, hf⟩ := settle_fallThrough (u := u) hq (by rw [hs]; exact Nat.zero_le _) (by rw [hr]; exact Nat.zero_le _) hu.2
  refine ⟨rcnt, ?_⟩
  rw [goes_of_drained h he hk, hf]

/-- A state that has the registers and the queues of a ready one is ready. -/
theorem ready_congr (h : Ready s) (hr : u.core.regs = s.core.regs) (hq : u.core.q = s.core.q) : Ready u := by
  refine ⟨?_, noLoopEnd_congr h.2 (by rw [hr]) (by rw [hr]) (by rw [hr])⟩
  unfold Quiet
  rw [hq]
  exact h.1

end

section
variable {s : State}

/-- What a region mask with region 0 holds (R356). -/
theorem inMask_iff (m : Word) (r : BitVec 6) : inMask (m ||| 1) r = true ↔ r = 0 ∨ m.getLsbD r.toNat = true := by
  unfold inMask
  simp only [Bool.or_eq_true, beq_iff_eq, BitVec.getLsbD_or]
  by_cases h0 : r = 0
  · simp [h0]
  · have hn : r.toNat ≠ 0 := fun hz => h0 (BitVec.eq_of_toNat_eq hz)
    simp [hn]

/-- The words that an acquire leaves (R362). -/
theorem mem_acquire_words (m : Word) (sc : Scope) (w : CacheWord) : w ∈ (acquire s (m ||| 1) sc).words ↔
    w ∈ s.words ∧ ¬(w.state = .valid ∧ (w.attr.region = 0 ∨ m.getLsbD w.attr.region.toNat = true) ∧
      (w.level = .l1 s.core.pos ∨ w.level ∈ below (levelOf s s.core.pos sc) (sharedPath s s.core.pos))) := by
  show w ∈ s.words.filter _ ↔ _
  rw [List.mem_filter]
  refine and_congr_right fun _ => ?_
  rw [← inMask_iff]
  simp
  by_cases hv : w.state = .valid <;> cases inMask (m ||| 1#64) w.attr.region <;> simp [hv]

/-- The words that FENCE.RANGE leaves (R368). -/
theorem mem_fenceRange_words (base len : Nat) (w : CacheWord) : w ∈ (fenceRange s base len).words ↔
    w ∈ s.words ∧ ¬(w.level = .l1 s.core.pos ∧ w.state = .valid ∧
      ∃ r ∈ rangeKeys s s.core.vf base len, overlaps w.key 4 r.1 r.2 = true) := by
  show w ∈ s.words.filter _ ↔ _
  rw [List.mem_filter]
  refine and_congr_right fun _ => ?_
  simp
  tauto

/-- With no copy command outstanding no FENCE.RANGE is held (R368). -/
theorem fenceHeld_noCopies (h : NoCopies s) (base len : Nat) : fenceHeld s base len = false := by
  unfold fenceHeld
  dsimp only
  rw [h]
  rfl

/-- FENCE.RANGE on a quiet core (R389). -/
theorem exec_fenceRange (h : Quiet s) (a b : Reg) : exec (.fenceRange a b) s = .next (settle
    (if fenceHeld s (xr s a).toNat (xr s b).toNat then stall s else fallThrough (fenceRange s (xr s a).toNat (xr s b).toNat))) := by
  have hx : exec (.fenceRange a b) s = execFenceRange a b s := rfl
  rw [hx, execFenceRange, drained_quiet h, whenFlushed_idle h.2.2.1 h.2.2.2]

variable (h : Quiet s)
include h

/-- INBOX with WAIT where its source has something (R399). -/
theorem goes_inboxWait {u : State} (d : Reg) (v : BitVec 1) (ht : inboxTake s d (v == 1) = some (fallThrough u)) : Goes (.inboxWait d v) s u := by
  refine goes_of_drained h (Eq.refl (execInboxWait d v s)) ?_
  rw [ht]

/-- INBOX with POLL where its source has something (R399). -/
theorem goes_inboxPoll {u : State} (d : Reg) (v : BitVec 1) (ht : inboxTake s d (v == 1) = some (fallThrough u)) : Goes (.inboxPoll d v) s u := by
  refine goes_of_drained h (Eq.refl (execInboxPoll d v s)) ?_
  rw [ht]

/-- INBOX with WAIT where its source has nothing that may still come (R399). -/
theorem traps_inboxWait (d : Reg) (ht : inboxTake s d false = none) (ho : s.core.sync.outstanding = 0) :
    TrapsWith (.inboxWait d 0) s 21 (sizeFault 7 0) := by
  refine traps_of_drained h (Eq.refl (execInboxWait d 0 s)) ?_
  rw [show ((0 : BitVec 1) == 1) = false from rfl, ht]
  exact if_pos (by rw [ho]; rfl)

/-- INBOX with WAIT where its source has nothing yet (R399). -/
theorem exec_inboxWait_parks (d : Reg) (v : BitVec 1) (ht : inboxTake s d (v == 1) = none) (ho : v = 0 → s.core.sync.outstanding ≠ 0) :
    exec (.inboxWait d v) s = .next (setSync s { s.core.sync with wait := some (.inbox d (v == 1)) }) := by
  refine exec_drained_keepsQueues h (Eq.refl (execInboxWait d v s)) ?_ rfl
  rw [ht]
  refine if_neg fun hc => ?_
  rw [Bool.and_eq_true, decide_eq_true_eq, decide_eq_true_eq] at hc
  exact ho hc.1 hc.2

end

/-- INBOX with POLL where its source has nothing (R399). -/
theorem computes_inboxPoll {s : State} (h : Ready s) (d : Reg) (v : BitVec 1) (ht : inboxTake s d (v == 1) = none) :
    Computes (.inboxPoll d v) s d (BitVec.allOnes 64) := by
  refine computes_of_settle h ?_
  have hx : exec (.inboxPoll d v) s = execInboxPoll d v s := rfl
  rw [hx, execInboxPoll, drained_quiet h.1, ht]

/-- The inbox of the host's messages, one source of INBOX (R399). -/
theorem inboxTake_message {s : State} {m : Message} {rest : List Message} (d : Reg) (hm : s.core.sync.inbox = m :: rest) :
    inboxTake s d false = some (fallThrough (writeX (dequeue s m rest) d m.value)) := by
  unfold inboxTake
  rw [if_neg Bool.false_ne_true, hm]

/-- The mailbox of the drover, the other source of INBOX (R400). -/
theorem inboxTake_drover {s : State} {v : Word} (d : Reg) (hm : s.core.sync.drvmsg = some v) :
    inboxTake s d true = some (fallThrough (writeX (setSync s { s.core.sync with drvmsg := none }) d v)) := by
  unfold inboxTake
  rw [if_pos rfl, hm]
  rfl

end Sys2Proof.Machine

section

open Sys2Proof Sys2Proof.Machine

/-- Settles O22, by the words that each instruction drops. -/
theorem acquireReleaseFences : Obligations.AcquireReleaseFences := by
  refine ⟨fun s a sc h => ⟨?_, fun hd => ?_⟩, fun s a b h => ?_⟩
  · have hready : Ready (acquire s (xr s a ||| 1) sc) := ready_congr h rfl rfl
    obtain ⟨rcnt, hx⟩ := exec_drained_advanced (i := (.acq a sc)) h.1 hready (Eq.refl (execAcq a sc s)) rfl
    exact ⟨_, hx, ⟨rfl, rfl⟩, ⟨_, rfl⟩, rfl, rfl, mem_acquire_words (xr s a) sc⟩
  · exact goes_of_drained h.1 (Eq.refl (execRel a sc s)) (whenReleasable_idle h.1.2.2.1 h.1.2.2.2 hd _)
  · intro drops
    have hfall (hf : fenceHeld s (xr s a).toNat (xr s b).toNat = false) : drops (.fenceRange a b) (xr s a).toNat (xr s b).toNat := by
      have hready : Ready (fenceRange s (xr s a).toNat (xr s b).toNat) := ready_congr h rfl rfl
      obtain ⟨rcnt, hx⟩ := exec_drained_advanced (i := (.fenceRange a b)) h.1 hready (Eq.refl (execFenceRange a b s))
        ((whenFlushed_idle h.1.2.2.1 h.1.2.2.2 _).trans (if_neg (by rw [hf]; exact Bool.false_ne_true)))
      exact ⟨_, hx, ⟨rfl, rfl⟩, ⟨fun c => c.prefs, by simp [advanced, fenceRange]⟩, rfl, rfl, mem_fenceRange_words _ _⟩
    refine ⟨?_, ?_, fun hn => hfall (fenceHeld_noCopies hn _ _), hfall, fun hf => ?_⟩
    · obtain ⟨rcnt, hx⟩ := exec_drained_advanced (i := .fenceRemote) h.1 h (Eq.refl (execFenceRemote s)) (congrArg fallThrough (flushRemote_idle h.1.2.2.2))
      exact ⟨_, hx, rfl, rfl, rfl⟩
    · have hready : Ready (setCore s { s.core with icache := [], gates := [] }) := ready_congr h rfl rfl
      obtain ⟨rcnt, hx⟩ := exec_drained_advanced (i := .fenceAll) h.1 hready (Eq.refl (execFenceAll s)) (whenFlushed_idle h.1.2.2.1 h.1.2.2.2 _)
      exact ⟨_, hx, ⟨rfl, rfl⟩, rfl⟩
    · rw [exec_fenceRange h.1, if_pos hf]

/-- Settles O26, by the answer of each source and the state of the region. -/
theorem inboxAndRegions : Obligations.InboxAndRegions := by
  intro s d h y hasNone
  have hnone (hn : y.inbox = []) : inboxTake s d false = none := by
    unfold inboxTake
    rw [if_neg Bool.false_ne_true, hn]
  have hdrv (hn : y.drvmsg = none) : inboxTake s d true = none := by
    unfold inboxTake
    rw [if_pos rfl, hn]
    rfl
  refine ⟨fun m rest hm => ?_, fun v hm => ?_, fun hn => computes_inboxPoll h d 0 (hnone hn), fun hn => computes_inboxPoll h d 1 (hdrv hn),
    fun hn ho => ?_, fun hn ho => ?_, fun hn => ?_, fun hi => ?_, fun hi hp => ?_, fun hn hp => ?_, fun hn => ?_, fun hn => ?_, fun hn => ?_⟩
  · exact ⟨goes_inboxWait h.1 d 0 (inboxTake_message d hm), goes_inboxPoll h.1 d 0 (inboxTake_message d hm)⟩
  · exact ⟨goes_inboxWait h.1 d 1 (inboxTake_drover d hm), goes_inboxPoll h.1 d 1 (inboxTake_drover d hm)⟩
  · exact exec_inboxWait_parks h.1 d 0 (hnone hn) fun _ => ho
  · rw [← sizeFault_ofNat 7 0]
    exact traps_inboxWait h.1 d (hnone hn) ho
  · exact exec_inboxWait_parks h.1 d 1 (hdrv hn) fun h0 => absurd h0 (by decide)
  · have hf : (if (decide (s.core.trap.ien = 0) || (ipend s &&& s.core.trap.ien) != 0) = true then fallThrough s
        else setSync s { s.core.sync with wait := some .wfi }) = fallThrough s :=
      if_pos (by simpa [bne_iff_ne] using hi)
    refine ⟨fallThrough s, ?_, (fallThrough_advances h.1.1 h.2).1, (fallThrough_advances h.1.1 h.2).2, fallThrough_onlyPc h.1.1 h.2⟩
    exact exec_drained_keepsQueues h.1 (Eq.refl (execWfi s)) hf (onlyPc_q (fallThrough_onlyPc h.1.1 h.2))
  · exact exec_drained_keepsQueues h.1 (Eq.refl (execWfi s)) (if_neg (by simpa [bne_iff_ne] using ⟨hi, hp⟩)) rfl
  · exact goes_of_drained h.1 (Eq.refl (execNprb s)) (if_neg (by rw [inPhase_none hp, show s.core.sync.npr = false from hn]; decide))
  · rw [← sizeFault_ofNat 8 0]
    exact traps_of_drained h.1 (Eq.refl (execNprb s)) (if_pos (by simpa [inPhase] using hn))
  · exact goes_of_drained h.1 (Eq.refl (execNpre s)) (if_pos hn)
  · rw [← sizeFault_ofNat 9 0]
    exact traps_of_drained h.1 (Eq.refl (execNpre s)) (if_neg (by rw [show s.core.sync.npr = false from hn]; decide))

end

namespace Sys2Proof.Machine

/-! ## What a read, a write or a release leaves of the engines -/

section
variable {s t u : State}

theorem Near.refl (s : State) : Near s s := ⟨⟨rfl, rfl, rfl, rfl, id⟩, rfl, rfl, rfl, rfl⟩

theorem Near.trans (h : Near s t) (g : Near t u) : Near s u :=
  ⟨⟨g.aside.core.trans h.aside.core, g.aside.others.trans h.aside.others, g.aside.now.trans h.aside.now, g.aside.pace.trans h.aside.pace,
    fun hc => g.aside.canonical (h.aside.canonical hc)⟩, g.clusters.trans h.clusters, g.folds.trans h.folds, g.parked.trans h.parked,
    g.locks.trans h.locks⟩

/-- To be near a state is kept by what acts near. -/
theorem nearKept (s : State) : KeptNear (Near s) := ⟨Near.trans⟩

/-- The levels of a scope are those of the clusters (R366). -/
theorem levelOf_near (h : Near s t) (p : CorePos) (sc : Scope) : levelOf t p sc = levelOf s p sc := by
  unfold levelOf clusterAt
  rw [h.clusters]

/-- The engine of a place is found from the clusters and the folds (R392). -/
theorem engineOf_near (h : Near s t) (p : CorePos) (sc : Scope) (l : Loc) : engineOf t p sc l = engineOf s p sc l := by
  have hf (n : Nat) : foldAt t n = foldAt s n := by unfold foldAt; rw [h.folds]
  unfold engineOf homeEngine
  simp only [levelOf_near h, hf]

/-- An engine's entries are the parked requests (R392). -/
theorem engineFull_near (h : Near s t) (e : Engine) : engineFull t e = engineFull s e := by
  unfold engineFull
  rw [h.parked]

/-- The engine that serves a lock (R395). -/
theorem lockEngine_near (h : Near s t) (l : Loc) (sc : Scope) : lockEngine t l sc = lockEngine s l sc := by
  unfold lockEngine
  rw [h.aside.core, engineOf_near h]

/-- The holder of a lock (R395). -/
theorem holdsLock_near (h : Near s t) (l : Loc) (sc : Scope) : holdsLock t l sc = holdsLock s l sc := by
  unfold holdsLock lockAt
  rw [h.locks, lockEngine_near h, h.aside.core]

/-- Which cores a gang switch stops (R412). -/
theorem switchStops_near (h : Near s t) (c : Core) : switchStops t c = switchStops s c := by
  unfold switchStops restarting switchDue foldAt timeOf
  rw [h.folds, h.aside.now]

/-- The oldest SVLOCK that waits (R395). -/
theorem nextLocker_near (h : Near s t) (l : Loc) (sc : Scope) : nextLocker t l sc = nextLocker s l sc := by
  have hc (p : CorePos) : coreAt t p = coreAt s p := by unfold coreAt; rw [h.aside.core, h.aside.others]
  unfold nextLocker
  simp only [h.parked, lockEngine_near h, hc, switchStops_near h]

/-- A core that has the same core in focus is quiet too. -/
theorem quiet_core (h : Quiet s) (hc : t.core = s.core) : Quiet t := by
  unfold Quiet
  rw [hc]
  exact h

/-- The release of an operation with L set (R392). -/
theorem svBase_near (s : State) (l : BitVec 1) (sc : Scope) : Near s (svBase s l sc) := by
  unfold svBase
  split
  · exact release_keeps (nearKept s) (Near.refl s)
  · exact Near.refl s

/-- The read of a sync variable (R366). -/
theorem svRead_near (s : State) (loc : Loc) (sc : Scope) : Near s (svRead s loc sc).1 := by
  have hr : Near s (match loc with
      | .glob k pte _ => levelRead8 s s.core.pos (levelOf s s.core.pos sc) k (pteAttr pte)
      | .peer k _ _ => levelRead8 s s.core.pos .home k Attr.plain
      | .bank _ => (s, 0) : State × Nat).1 := by
    cases loc with
    | glob k pte ptePa => exact levelRead8_keeps (nearKept s) (Near.refl s)
    | peer k pte ptePa => exact levelRead8_keeps (nearKept s) (Near.refl s)
    | bank k => exact Near.refl s
  unfold svRead
  dsimp only
  split
  · exact (nearKept s).of hr ⟨⟨rfl, rfl, rfl, rfl, id⟩, rfl, rfl, rfl, rfl⟩
  · split
    · exact hr
    · exact nextFree_keeps (nearKept s) hr

/-- The read of an operation after its request (R128, R366). -/
theorem svRead_svCount_near (s : State) (loc : Loc) (sc : Scope) : Near s (svRead (svCount s loc sc) loc sc).1 :=
  (svCount_keeps (nearKept s) (Near.refl s)).trans (svRead_near _ loc sc)

/-! ## The checks of a sync variable (R392) -/

variable {va : Word} {sc : Scope} {acc : Access} {s1 : State} {loc : Loc} {x : Trap}

/-- A translation of the strand in focus leaves its core. -/
theorem translate_core (s : State) (w : Who) (va : Word) (acc : Access) : (translate s w va acc).1.core = s.core :=
  translateAs_keeps (coreKept s.core) rfl

/-- A translation that gives a place walks and sets A and D, no more. -/
theorem translate_near {v : State} (hw : isWindow va = false) (h : translate s s.core.who va acc = (v, .ok loc)) : Near s v := by
  obtain ⟨v0, pte, ptePa, bits, -, hl, -, -, -, hu⟩ := translateAs_ok_inv hw h
  have h0 : Near s v0 := by
    have h1 := leafFor_keeps (nearKept s) (w := s.core.who) (va := va) (Near.refl s)
    rw [hl] at h1
    exact h1
  rw [hu, if_neg Bool.false_ne_true]
  exact setUsedFrom_keeps (nearKept s) h0

/-- What the checks of a sync variable leave of the state: the core in focus, and where they pass all but what a walk changes. -/
def CheckLeaves (s : State) : SvRes → Prop
  | .ok t _ => Near s t
  | .trap t _ => t.core = s.core
  | .wait _ => True

theorem svCheck_leaves (s : State) (va : Word) (sc : Scope) (acc : Access) : CheckLeaves s (svCheck s va sc acc) := by
  have h0 : Near s (leafFor s s.core.who va).1 := leafFor_keeps (nearKept s) (Near.refl s)
  unfold svCheck
  dsimp only
  by_cases ha : va.toNat % 8 ≠ 0
  · rw [if_pos ha]; rfl
  rw [if_neg ha]
  by_cases hw : isWindow va = true
  · rw [if_pos hw]; rfl
  rw [if_neg hw]
  refine iteInduction (motive := CheckLeaves s) (fun _ => h0.aside.core) fun _ => ?_
  have hc := translate_core (leafFor s s.core.who va).1 (leafFor s s.core.who va).1.core.who va acc
  split
  · trivial
  · exact hc.trans h0.aside.core
  · rename_i l hl
    refine iteInduction (motive := CheckLeaves s) (fun _ => hc.trans h0.aside.core) fun _ => ?_
    exact h0.trans (translate_near (Bool.not_eq_true _ ▸ hw) (Prod.ext rfl hl))

theorem svCheck_trap_core (h : svCheck s va sc acc = .trap s1 x) : s1.core = s.core := by
  have hc := svCheck_leaves s va sc acc
  rw [h] at hc
  exact hc

theorem svCheck_ok_near (h : svCheck s va sc acc = .ok s1 loc) : Near s s1 := by
  have hc := svCheck_leaves s va sc acc
  rw [h] at hc
  exact hc

/-- A misaligned variable (R392). -/
theorem svCheck_misaligned (h : va.toNat % 8 ≠ 0) : svCheck s va sc acc = .trap s ⟨if acc = .r then 4 else 7, va⟩ := if_pos h

/-- A variable in a local window (R392). -/
theorem svCheck_window (h : va.toNat % 8 = 0) (hw : isWindow va = true) : svCheck s va sc acc = .trap s ⟨21, sizeFault 1 va⟩ :=
  (if_neg (fun hn => hn h)).trans (if_pos hw)

/-- A variable that the core's own TLB reaches by PLACE 0 to 3 passes (R295 to R298, R392). -/
theorem svCheck_inTlb {k ptePa : Nat} {pte : Word} (h : va.toNat % 8 = 0) (ht : InTlb s va acc (.glob k pte ptePa)) (hp : ptePlace pte ≤ 3) :
    svCheck s va sc acc = .ok s (.glob k pte ptePa) := by
  obtain ⟨e, hw, hc, hf, ha, hcow, hu, hpl⟩ := ht
  have hl : leafFor s s.core.who va = (s, .leaf e.pte e.ptePa e.bits) := by
    unfold leafFor
    rw [show tlbFind s (.core s.core.who.pos) s.core.who.vf va = some e from hf]
  have hpte : e.pte = pte := by
    obtain ⟨key, hk | hk⟩ := placeOf_leaf hpl
    · injection hk with _ h1 _
      exact h1.symm
    · cases hk
  have hcow2 : (decide (acc = .w) && pteCow e.pte) = false := by
    refine Bool.eq_false_iff.2 fun hb => ?_
    rw [Bool.and_eq_true, decide_eq_true_eq] at hb
    exact hcow hb
  have hl5 : (ptePlace e.pte == 5) = false := beq_false_of_ne (by rw [hpte]; omega)
  have hl4 : (ptePlace e.pte == 4) = false := beq_false_of_ne (by rw [hpte]; omega)
  have htr : translate s s.core.who va acc = (s, .ok (.glob k pte ptePa)) := by
    unfold translate
    rw [translateAs_leaf hw hc hl ha hcow2 hpl, if_neg Bool.false_ne_true]
    unfold setUsedFrom
    rw [if_pos hu]
  have hat : lacksAtomics s s.core.who va = false := by
    unfold lacksAtomics
    rw [hl]
    split
    · rename_i hlf
      cases hlf
      rw [hl5]
      rfl
    · rfl
  unfold svCheck
  rw [if_neg (fun hn => hn h), if_neg (by rw [hw]; exact Bool.false_ne_true)]
  dsimp only
  rw [hl]
  dsimp only
  rw [if_neg (by rw [hl5, hl4, Bool.or_false, Bool.and_false, Bool.false_and]; exact Bool.false_ne_true), htr]
  dsimp only
  rw [if_neg (by rw [hat, Bool.and_false]; exact Bool.false_ne_true)]

/-! ## A sync-variable operation (R391, R392) -/

section
variable {a : Reg} {l : BitVec 1} {k : State → Loc → State} (h : Quiet s)
include h

/-- The release of an operation with L set may run at once. -/
theorem svOp_ok (hc : svCheck s (xr s a) sc acc = .ok s1 loc) (hd : l = 1 → s.core.q.sdq = []) :
    svOp s a acc sc (l == 1) k = if engineFull s (engineOf s s.core.pos sc loc) = true then stall (svBase s1 l sc) else k (svBase s1 l sc) loc := by
  have hn := svCheck_ok_near hc
  have hb := hn.trans (svBase_near s1 l sc)
  have hq := (quiet_core h hn.aside.core).2.2
  unfold svOp
  rw [hc]
  dsimp only
  rw [← engineFull_near hb, ← engineOf_near hb, ← hb.aside.core]
  by_cases hl : l = 1
  · have hs : svBase s1 l sc = releaseHere s1 sc allRegions := if_pos hl
    rw [if_pos (by rw [hl]; rfl), whenReleasable_idle hq.1 hq.2 (by rw [hn.aside.core]; exact hd hl), hs]
  · have hs : svBase s1 l sc = s1 := if_neg hl
    rw [if_neg (by simpa using hl), hs]

theorem svOp_reaches (hr : SvReaches s a l sc acc s1 loc) : svOp s a acc sc (l == 1) k = k (svBase s1 l sc) loc := by
  rw [svOp_ok h hr.1 hr.2.1, if_neg (by rw [hr.2.2]; exact Bool.false_ne_true)]

theorem svOp_full (hc : svCheck s (xr s a) sc acc = .ok s1 loc) (hd : l = 1 → s.core.q.sdq = [])
    (hf : engineFull s (engineOf s s.core.pos sc loc) = true) : svOp s a acc sc (l == 1) k = stall (svBase s1 l sc) := by
  rw [svOp_ok h hc hd, if_pos hf]

theorem svOp_trap (hc : svCheck s (xr s a) sc acc = .trap s1 x) :
    svOp s a acc sc (l == 1) k = trapEntry s1 x.code false x.tval s.core.regs.pc := by
  have hcore := svCheck_trap_core hc
  unfold svOp
  rw [hc]
  exact (raiseTrap_idle (quiet_core h hcore).1 x.code x.tval).trans (by rw [hcore])

end

/-- A read-modify-write leaves what svLeaves says and falls through (R391). -/
theorem svRmw_eq (s : State) (loc : Loc) (d : Reg) (sc : Scope) (c : BitVec 1) (f : Word → Option Word) :
    svRmw s loc d sc (c == 1) f = fallThrough (svLeaves s loc d c sc f) := by
  unfold svRmw svLeaves svAcquire
  dsimp only
  cases f (svRead (svCount s loc sc) loc sc).2 <;> simp only [beq_iff_eq]

/-- An instruction whose meaning is one read-modify-write of a variable (R391). -/
theorem goes_svRmw {i : Instr} {rs : List Reg} {a d : Reg} {l c : BitVec 1} {f : State → Word → Option Word} {g : Word → Option Word}
    (h : Quiet s) (hr : SvReaches s a l sc acc s1 loc)
    (he : exec i s = .next (drained s rs fun u => svOp u a acc sc (l == 1) fun v loc => svRmw v loc d sc (c == 1) (f v)))
    (hf : ∀ v : State, v.core = s.core → f v = g) : Goes i s (svLeaves (svBase s1 l sc) loc d c sc g) := by
  have hb := (svCheck_ok_near hr.1).trans (svBase_near s1 l sc)
  refine goes_of_drained h he ?_
  rw [svOp_reaches h hr, svRmw_eq, hf _ hb.aside.core]

/-- An operation on a variable that traps or waits, whatever else it is (R392). -/
def ChecksSv (i : Instr) (s : State) (a : Reg) (acc : Access) (l : BitVec 1) (sc : Scope) : Prop :=
  ∃ (rs : List Reg) (k : State → State → Loc → State), exec i s = .next (drained s rs fun u => svOp u a acc sc (l == 1) (k u))

/-- SVLD and SVWAIT read. -/
theorem checksSv_read {i : Instr} {d a b : Reg} {u : BitVec 2} {l c : BitVec 1}
    (hi : i ∈ [Instr.svld d a l c sc, .svwait d a b u l c sc]) : ChecksSv i s a .r l sc := by
  simp only [List.mem_cons, List.not_mem_nil, or_false] at hi
  rcases hi with rfl | rfl
  · exact ⟨_, _, Eq.refl (execSvld d a l c sc s)⟩
  · exact ⟨_, _, Eq.refl (execSvwait d a b u l c sc s)⟩

/-- The other forms but the locks' write. -/
theorem checksSv_write {i : Instr} {d a b : Reg} {u : BitVec 2} {v l c : BitVec 1}
    (hi : i ∈ [Instr.svst a b l c sc, .svadd d a b v l c sc, .svmax d a b u l c sc, .svmin d a b u l c sc, .svand d a b l c sc,
      .svor d a b l c sc, .svswap d a b l c sc, .svcas d a b l c sc]) : ChecksSv i s a .w l sc := by
  simp only [List.mem_cons, List.not_mem_nil, or_false] at hi
  rcases hi with rfl | rfl | rfl | rfl | rfl | rfl | rfl | rfl
  · exact ⟨_, _, Eq.refl (execSvst a b l c sc s)⟩
  · exact ⟨_, _, Eq.refl (execSvadd d a b v l c sc s)⟩
  · exact ⟨_, _, Eq.refl (execSvmax d a b u l c sc s)⟩
  · exact ⟨_, _, Eq.refl (execSvmin d a b u l c sc s)⟩
  · exact ⟨_, _, Eq.refl (execSvand d a b l c sc s)⟩
  · exact ⟨_, _, Eq.refl (execSvor d a b l c sc s)⟩
  · exact ⟨_, _, Eq.refl (execSvswap d a b l c sc s)⟩
  · exact ⟨_, _, Eq.refl (execSvcas d a b l c sc s)⟩

section
variable {i : Instr} {a : Reg} {l : BitVec 1} (h : Quiet s) (hi : ChecksSv i s a acc l sc)
include h hi

/-- A failed check raises its fault at the instruction. -/
theorem exec_svTrap (hc : svCheck s (xr s a) sc acc = .trap s1 x) :
    exec i s = .next (settle (trapEntry s1 x.code false x.tval s.core.regs.pc)) := by
  obtain ⟨rs, k, he⟩ := hi
  rw [he, drained_quiet h, svOp_trap h hc]

/-- With every entry of the engine taken it waits. -/
theorem exec_svFull (hc : svCheck s (xr s a) sc acc = .ok s1 loc) (hd : l = 1 → s.core.q.sdq = [])
    (hf : engineFull s (engineOf s s.core.pos sc loc) = true) : exec i s = .next (settle (stall (svBase s1 l sc))) := by
  obtain ⟨rs, k, he⟩ := hi
  rw [he, drained_quiet h, svOp_full h hc hd hf]

end

/-- An operation on a variable that it reaches is its own meaning there. -/
theorem exec_svOp {i : Instr} {rs : List Reg} {a : Reg} {l : BitVec 1} {k : State → Loc → State} {u : State} (h : Quiet s)
    (hr : SvReaches s a l sc acc s1 loc) (he : exec i s = .next (drained s rs fun u => svOp u a acc sc (l == 1) k))
    (hk : k (svBase s1 l sc) loc = u) : exec i s = .next (settle u) := by
  rw [he, drained_quiet h, svOp_reaches h hr, hk]

/-- The conditions of SVWAIT on the old value and x(b), both signed (R391). -/
theorem svHolds_iff (u : BitVec 2) (old x : Word) : svHolds u old x = true ↔
    (if u = 0 then old = x else if u = 1 then old ≠ x else if u = 2 then x.toInt ≤ old.toInt else old.toInt < x.toInt) := by
  unfold svHolds
  by_cases h0 : u = 0
  · simp [h0]
  by_cases h1 : u = 1
  · simp [h1]
  · simp [BitVec.slt_eq_decide]

/-- What a lock's operation reads (R395). -/
def lockRead (s : State) (loc : Loc) (sc : Scope) : State × Word := svRead (svCount s loc sc) loc sc

/-- The lock goes to a waiter, or becomes free (R395). -/
def handsOn (s : State) (loc : Loc) (sc : Scope) : Option Parked → State
  | some p => asCore s p.core fun k => takeLock k loc (lockScope k)
  | none => svWrite (dropHolder s loc sc) loc sc 0

/-! ## Locks (R395) -/

section
variable {a : Reg} (h : Quiet s) (hr : SvReaches s a 0 sc .w s1 loc)
include h hr

omit h in
theorem lockRead_near : Near s (lockRead s1 loc sc).1 := (svCheck_ok_near hr.1).trans (svRead_svCount_near s1 loc sc)

omit h in
theorem lockRead_xr : xr s1 a = xr s a := by unfold xr; rw [(svCheck_ok_near hr.1).aside.core]

/-- A trap of a lock's operation comes after its read. -/
theorem raiseTrap_lockRead (n : Nat) : raiseTrap (lockRead s1 loc sc).1 21 (sizeFault n (xr s1 a)) =
    trapEntry (lockRead s1 loc sc).1 21 false (subcode n (xr s a).toNat) s.core.regs.pc := by
  have hcore := (lockRead_near hr).aside.core
  rw [raiseTrap_idle (quiet_core h hcore).1, hcore, lockRead_xr hr, ← sizeFault_ofNat, BitVec.ofNat_toNat, BitVec.setWidth_eq]

theorem exec_svlock_free (h0 : (lockRead s1 loc sc).2 = 0) :
    exec (.svlock a sc) s = .next (settle (takeLock (svWrite (lockRead s1 loc sc).1 loc sc 1) loc sc)) :=
  exec_svOp h hr (Eq.refl (execSvlock a sc s)) (if_pos h0)

theorem exec_svlock_parks (h0 : (lockRead s1 loc sc).2 ≠ 0) (hh : holdsLock s loc sc = false) : exec (.svlock a sc) s =
    .next (settle (park (lockRead s1 loc sc).1 loc sc true (.svlock (svPlace loc).1 (svPlace loc).2 sc))) := by
  refine exec_svOp h hr (Eq.refl (execSvlock a sc s)) ((if_neg h0).trans (if_neg ?_))
  show ¬holdsLock (lockRead s1 loc sc).1 loc sc = true
  rw [holdsLock_near (lockRead_near hr), hh]
  exact Bool.false_ne_true

theorem exec_svlock_traps (h0 : (lockRead s1 loc sc).2 ≠ 0) (hh : holdsLock s loc sc = true) : exec (.svlock a sc) s =
    .next (settle (trapEntry (lockRead s1 loc sc).1 21 false (subcode 3 (xr s a).toNat) s.core.regs.pc)) := by
  refine exec_svOp h hr (Eq.refl (execSvlock a sc s)) (((if_neg h0).trans (if_pos ?_)).trans (raiseTrap_lockRead h hr 3))
  show holdsLock (lockRead s1 loc sc).1 loc sc = true
  rw [holdsLock_near (lockRead_near hr), hh]

theorem exec_svunlock_traps (hh : holdsLock s loc sc = false) : exec (.svunlock a sc) s =
    .next (settle (trapEntry (lockRead s1 loc sc).1 21 false (subcode 2 (xr s a).toNat) s.core.regs.pc)) := by
  refine exec_svOp h hr (Eq.refl (execSvunlock a sc s)) ((if_pos ?_).trans (raiseTrap_lockRead h hr 2))
  show (!holdsLock (lockRead s1 loc sc).1 loc sc) = true
  rw [holdsLock_near (lockRead_near hr), hh]
  rfl

/-- SVUNLOCK of a lock that the strand holds releases, and then looks for the oldest waiter. -/
theorem goes_svunlock (hh : holdsLock s loc sc = true) (hd : s.core.q.sdq = []) : Goes (.svunlock a sc) s
    (handsOn (release (lockRead s1 loc sc).1 s.core.pos sc allRegions) loc sc (nextLocker s loc sc)) := by
  have hn := lockRead_near hr
  have hq := (quiet_core h hn.aside.core).2.2
  have hf : Near s (release (lockRead s1 loc sc).1 s.core.pos sc allRegions) := release_keeps (nearKept s) hn
  refine exec_svOp h hr (Eq.refl (execSvunlock a sc s)) ((if_neg ?_).trans ?_)
  · show ¬(!holdsLock (lockRead s1 loc sc).1 loc sc) = true
    rw [holdsLock_near hn, hh]
    exact Bool.false_ne_true
  · refine (whenReleasable_idle hq.1 hq.2 (by rw [hn.aside.core]; exact hd) _).trans ?_
    have hr0 : releaseHere (lockRead s1 loc sc).1 sc allRegions =
        release (lockRead s1 loc sc).1 s.core.pos sc allRegions := by rw [← hn.aside.core]; rfl
    dsimp only
    rw [hr0, nextLocker_near hf]
    cases nextLocker s loc sc <;> rfl

end

end

end Sys2Proof.Machine

section

open Sys2Proof Sys2Proof.Machine

/-- Settles O23, by the checks of a variable and the read-modify-write that every form makes. -/
theorem syncVariables : Obligations.SyncVariables := by
  intro s s1 d a b u v l c sc loc h x does reads writes
  have hx {v : State} (hv : v.core = s.core) (r : Reg) : xr v r = xr s r := by unfold xr; rw [hv]
  refine ⟨fun hr => ?_, fun hr => ?_, fun acc i hi => ?_, fun k pte ptePa acc _ ha ht hp => ?_⟩
  · exact goes_svRmw (i := .svld d a l c sc) h hr rfl fun _ _ => rfl
  · refine ⟨?_, ?_, ?_, ?_, ?_, ?_, ?_, ?_, ?_, ?_, ?_, ?_, ?_⟩
    · exact goes_svRmw (i := .svst a b l c sc) h hr rfl fun v hv => by rw [hx hv]
    · exact goes_svRmw (i := .svadd d a b 0 l c sc) h hr rfl fun v hv => by simp only [hx hv]; rfl
    · exact goes_svRmw (i := .svadd d a b 1 l c sc) h hr rfl fun v hv => by simp only [hx hv]; rfl
    · exact goes_svRmw (i := .svmax d a b 0 l c sc) h hr rfl fun v hv => by simp [hx hv, x, BitVec.slt_eq_decide]
    · exact goes_svRmw (i := .svmax d a b 1 l c sc) h hr rfl fun v hv => by simp [hx hv, x, BitVec.ult_eq_decide]
    · exact goes_svRmw (i := .svmax d a b 2 l c sc) h hr rfl fun v hv => by simp only [hx hv]; rfl
    · exact goes_svRmw (i := .svmin d a b 0 l c sc) h hr rfl fun v hv => by simp [hx hv, x, BitVec.slt_eq_decide]
    · exact goes_svRmw (i := .svmin d a b 1 l c sc) h hr rfl fun v hv => by simp [hx hv, x, BitVec.ult_eq_decide]
    · exact goes_svRmw (i := .svmin d a b 2 l c sc) h hr rfl fun v hv => by simp only [hx hv]; rfl
    · exact goes_svRmw (i := .svand d a b l c sc) h hr rfl fun v hv => by simp only [hx hv]; rfl
    · exact goes_svRmw (i := .svor d a b l c sc) h hr rfl fun v hv => by simp only [hx hv]; rfl
    · exact goes_svRmw (i := .svswap d a b l c sc) h hr rfl fun v hv => by simp only [hx hv]; rfl
    · exact goes_svRmw (i := .svcas d a b l c sc) h hr rfl fun v hv => by simp only [hx hv]; rfl
  · have hck : ChecksSv i s a acc l sc := by
      rcases hi with ⟨rfl, hm⟩ | ⟨rfl, hm⟩
      · exact checksSv_read hm
      · exact checksSv_write hm
    refine ⟨fun ha => ?_, fun ha hw => ?_, fun t hc => exec_svTrap h hck hc, fun hc hd hf => exec_svFull h hck hc hd hf⟩
    · exact exec_svTrap (x := ⟨if acc = .r then 4 else 7, xr s a⟩) h hck (svCheck_misaligned ha)
    · rw [← sizeFault_ofNat, BitVec.ofNat_toNat, BitVec.setWidth_eq]
      exact exec_svTrap (x := ⟨21, sizeFault 1 (xr s a)⟩) h hck (svCheck_window ha hw)
  · exact svCheck_inTlb ha ht hp

end

section

open Sys2Proof Sys2Proof.Machine

/-- Settles O24, by what a release and a read leave of the locks and the engines. -/
theorem waitsAndLocks : Obligations.WaitsAndLocks := by
  intro s s1 d a b u l c sc loc h r q free x holds
  have hs (v : State) : svAcquire v sc (c == 1) = if c = 1 then acquire v allRegions sc else v := by simp [svAcquire]
  have hb (hr : SvReaches s a l sc .r s1 loc) : xr (svBase s1 l sc) b = xr s b := by
    unfold Machine.xr
    rw [((svCheck_ok_near hr.1).trans (svBase_near s1 l sc)).aside.core]
  have hx : svHolds u r.2 x = true ↔ holds := svHolds_iff u r.2 x
  refine ⟨fun hr hh => ?_, fun hr hh => ?_, exec_svlock_free h, exec_svlock_parks h, fun hr hh hd hn => ?_, fun p hr hh hd hn => ?_,
    exec_svlock_traps h, exec_svunlock_traps h, fun t hc => ⟨?_, ?_⟩, fun hc hf => ⟨?_, ?_⟩⟩
  · refine exec_svOp h hr (Eq.refl (execSvwait d a b u l c sc s)) ?_
    dsimp only
    rw [hb hr]
    exact (if_pos (hx.2 hh)).trans (by rw [hs])
  · refine exec_svOp h hr (Eq.refl (execSvwait d a b u l c sc s)) ?_
    dsimp only
    rw [hb hr]
    exact if_neg fun hc => hh (hx.1 hc)
  · have hg := goes_svunlock h hr hh hd
    rw [hn] at hg
    exact hg
  · have hg := goes_svunlock h hr hh hd
    rw [hn] at hg
    exact hg
  · exact exec_svTrap (x := t) (l := 0) h ⟨_, _, Eq.refl (execSvlock a sc s)⟩ hc
  · exact exec_svTrap (x := t) (l := 0) h ⟨_, _, Eq.refl (execSvunlock a sc s)⟩ hc
  · exact exec_svFull (l := 0) h ⟨_, _, Eq.refl (execSvlock a sc s)⟩ hc (fun h0 => absurd h0 (by decide)) hf
  · exact exec_svFull (l := 0) h ⟨_, _, Eq.refl (execSvunlock a sc s)⟩ hc (fun h0 => absurd h0 (by decide)) hf

end

namespace Sys2Proof.Machine

/-! ## Barriers, triggers and launches (R396 to R398, R403) -/

/-- A drain point on a quiet core is its own meaning. -/
theorem exec_of_drained {i : Instr} {s t : State} {rs : List Reg} {k : State → State} (h : Quiet s) (he : exec i s = .next (drained s rs k))
    (hk : k s = t) : exec i s = .next (settle t) := by
  rw [he, drained_quiet h, hk]

/-- A strand arrives at a barrier (R396). -/
def arrivesAt (s : State) (form : BitVec 2) (sstep : Bool) : State :=
  setSync (release s s.core.pos form allRegions)
    { s.core.sync with arrived := some form, arrivedStep := sstep, passed := none, wait := some (.barrier form sstep) }

/-- What LAUNCH does once its release is made (R398). -/
def launchFrom (s : State) (d : Reg) (va : Word) : State :=
  let r := readPrio s va
  match r.2.bind fun p => appendWaits r.1 r.1.core.vf p va with
  | some s4 => stall s4
  | none =>
    match r.2.bind fun p => append r.1 r.1.core.vf p va with
    | some q => fallThrough (writeX q.1 d q.2)
    | none => fallThrough (writeX r.1 d 0)

section
variable {s : State} {l : Launch} {form : BitVec 2}

/-- The first arrival of a strand releases and waits (R396). -/
theorem barrier_arrives (h : Quiet s) (hd : s.core.q.sdq = []) (hl : myLaunch s = some l) (ha : s.core.sync.arrived = none)
    (hw : manyWaves s l form s.core.pos = false) (sstep : Bool) : barrier s form sstep = arrivesAt s form sstep := by
  have hc : (release s s.core.pos form allRegions).core = s.core := release_keeps (coreKept s.core).near rfl
  unfold barrier
  dsimp only
  rw [ha, if_neg (by rw [Option.isSome_none]; exact Bool.false_ne_true), hl]
  dsimp only
  rw [if_neg (by rw [hw]; exact Bool.false_ne_true), whenReleasable_idle h.2.2.1 h.2.2.2 hd]
  unfold arrivesAt releaseHere barScope
  rw [hc]

/-- A barrier over strands of more than one wave (R396). -/
theorem barrier_traps (hl : myLaunch s = some l) (ha : s.core.sync.arrived = none)
    (hw : manyWaves s l form s.core.pos = true) (sstep : Bool) : barrier s form sstep = raiseTrap s 21 (sizeFault 4 0) := by
  unfold barrier
  dsimp only
  rw [ha, if_neg (by rw [Option.isSome_none]; exact Bool.false_ne_true), hl]
  exact if_pos hw

variable {i : Instr}

/-- BAR outside a phase, of a strand (R396). -/
theorem exec_bar (h : Quiet s) (he : exec i s = barOp form s) (hp : s.core.sync.phase = none) (ho : s.core.occ ≠ .task) :
    exec i s = .next (settle (barrier s form false)) := by
  refine exec_of_drained h he ((if_neg ?_).trans (if_neg ?_))
  · rw [inPhase_none hp]; exact Bool.false_ne_true
  · simpa [isLoneTask] using ho

/-- BAR in an exchange phase (R403). -/
theorem traps_bar_phase (h : Quiet s) (he : exec i s = barOp form s) (hp : s.core.sync.phase.isSome = true) :
    TrapsWith i s 21 (subcode 10 0) := by
  rw [← sizeFault_ofNat 10 0]
  exact traps_of_drained h he (if_pos hp)

/-- BAR by a task (R396). -/
theorem traps_bar_task (h : Quiet s) (he : exec i s = barOp form s) (hp : s.core.sync.phase = none) (ho : s.core.occ = .task) :
    TrapsWith i s 21 (subcode 11 0) := by
  rw [← sizeFault_ofNat 11 0]
  refine traps_of_drained h he ((if_neg ?_).trans (if_pos ?_))
  · rw [inPhase_none hp]; exact Bool.false_ne_true
  · simp [isLoneTask, ho]

/-- BAR over strands of more than one wave (R396). -/
theorem traps_bar_waves (h : Quiet s) (he : exec i s = barOp form s) (hl : myLaunch s = some l)
    (hr : s.core.sync.phase = none ∧ s.core.occ ≠ .task ∧ s.core.sync.arrived = none) (hw : manyWaves s l form s.core.pos = true) :
    TrapsWith i s 21 (subcode 4 0) := by
  rw [← sizeFault_ofNat 4 0]
  refine traps_of_settle h ?_
  rw [exec_bar h he hr.1 hr.2.1, barrier_traps hl hr.2.2 hw]
  rfl

/-- BAR that arrives (R396). -/
theorem exec_bar_arrives (h : Quiet s) (he : exec i s = barOp form s) (hd : s.core.q.sdq = []) (hl : myLaunch s = some l)
    (hr : s.core.sync.phase = none ∧ s.core.occ ≠ .task ∧ s.core.sync.arrived = none) (hw : manyWaves s l form s.core.pos = false) :
    exec i s = .next (settle (arrivesAt s form false)) := by
  rw [exec_bar h he hr.1 hr.2.1, barrier_arrives h hd hl hr.2.2 hw]

/-! ### SSTEP (R403, R416) -/

section
variable {s t : State} (hv : t.svc = s.svc) (hf : t.folds = s.folds)
include hv

theorem clusterCores_congr (c : ClusterPos) : clusterCores t c = clusterCores s c := by unfold clusterCores; rw [hv]

theorem dieClusters_congr (die : Nat) : dieClusters t die = dieClusters s die := by unfold dieClusters; rw [hv]

theorem corePosition_go_congr (p : CorePos) (cs : List ClusterPos) (n : Nat) : corePosition.go t p cs n = corePosition.go s p cs n := by
  induction cs generalizing n with
  | nil => rfl
  | cons c cs ih => simp only [corePosition.go, clusterCores_congr hv, ih]

theorem corePosition_congr (p : CorePos) : corePosition t p = corePosition s p := by
  unfold corePosition
  rw [corePosition_go_congr hv, dieClusters_congr hv]

theorem dieCoreCount_congr (die : Nat) : dieCoreCount t die = dieCoreCount s die := by
  unfold dieCoreCount
  simp only [dieClusters_congr hv, clusterCores_congr hv]

include hf

/-- The strands of the cores of a domain are found from the module's record and the folds. -/
theorem manyWaves_congr (l : Launch) (form : BitVec 2) (p : CorePos) : manyWaves t l form p = manyWaves s l form p := by
  have hc : clusterCores t = clusterCores s := funext fun c => clusterCores_congr hv c
  unfold manyWaves domainCores assigned foldAt
  simp only [hc, hf, dieClusters_congr hv, corePosition_congr hv, dieCoreCount_congr hv]

end


/-- The phase closed. -/
def phaseClosed (s : State) : State := setSync s { s.core.sync with phase := none }

theorem phaseClosed_none (hp : s.core.sync.phase = none) : phaseClosed s = s := by
  unfold phaseClosed
  rw [← hp]
  rfl

variable (h : Quiet s) (hl : myLaunch s = some l)
include h hl

/-- SSTEP of a launch with its flag, by a strand. -/
theorem exec_sstep (hs : recSstep l.record = true) (ho : s.core.occ ≠ .task) : exec .sstep s = .next (settle
    (if (inPhase s && switchDue s s.core && !s.core.sync.npr) = true then phaseClosed s else barrier (phaseClosed s) 2 true)) := by
  refine exec_of_drained h (Eq.refl (execSstep s)) ((if_neg ?_).trans ((if_neg ?_).trans rfl))
  · rw [hl, Option.any_some, hs]; decide
  · simpa [isLoneTask] using ho

/-- SSTEP of a launch with its flag, by a task. -/
theorem traps_sstep_task (hs : recSstep l.record = true) (ho : s.core.occ = .task) : TrapsWith .sstep s 21 (subcode 11 0) := by
  rw [← sizeFault_ofNat 11 0]
  refine traps_of_drained h (Eq.refl (execSstep s)) ((if_neg ?_).trans (if_pos ?_))
  · rw [hl, Option.any_some, hs]; decide
  · simp [isLoneTask, ho]

/-- SSTEP without the flag of its launch. -/
theorem traps_sstep_flag (hs : recSstep l.record = false) : TrapsWith .sstep s 21 (subcode 5 0) := by
  rw [← sizeFault_ofNat 5 0]
  refine traps_of_drained h (Eq.refl (execSstep s)) (if_pos ?_)
  rw [hl, Option.any_some, hs]
  rfl

/-! ### TRIG and LAUNCH (R397, R398) -/

/-- TRIG of a strand of a launch that expects triggers. -/
theorem goes_trig {u : State} (hd : s.core.q.sdq = []) (ht : recTrigexp l.record = true) (ho : s.core.occ ≠ .task)
    (hu : (if s.core.sync.triggered = true then release s s.core.pos 2 l.record.treg
      else triggerDec (setSync (release s s.core.pos 2 l.record.treg) { s.core.sync with triggered := true }) l.lid 1 false) = u) :
    Goes .trig s u := by
  have hc : (release s s.core.pos 2 l.record.treg).core = s.core := release_keeps (coreKept s.core).near rfl
  refine goes_of_drained h (Eq.refl (execTrig s)) ?_
  rw [hl]
  refine (if_neg (by rw [ht]; decide)).trans ((if_neg (by simpa [isLoneTask] using ho)).trans ?_)
  rw [whenReleasable_idle h.2.2.1 h.2.2.2 hd]
  dsimp only
  rw [releaseHere, hc, ← apply_ite fallThrough, hu]

/-- TRIG where the launch expects none. -/
theorem traps_trig_none (ht : recTrigexp l.record = false) : TrapsWith .trig s 21 (subcode 6 0) := by
  rw [← sizeFault_ofNat 6 0]
  refine traps_of_drained h (Eq.refl (execTrig s)) ?_
  rw [hl]
  exact if_pos (by rw [ht]; rfl)

/-- TRIG by a task. -/
theorem traps_trig_task (ht : recTrigexp l.record = true) (ho : s.core.occ = .task) : TrapsWith .trig s 21 (subcode 11 0) := by
  rw [← sizeFault_ofNat 11 0]
  refine traps_of_drained h (Eq.refl (execTrig s)) ?_
  rw [hl]
  exact (if_neg (by rw [ht]; decide)).trans (if_pos (by simp [isLoneTask, ho]))

end

section
variable {s : State} (h : Quiet s) (hd : s.core.q.sdq = []) (d a : Reg)
include h hd

/-- LAUNCH once its release is made. -/
theorem exec_launch {u : State} (hu : launchFrom (release s s.core.pos 2 allRegions) d (xr s a) = u) :
    exec (.launch d a) s = .next (settle u) := by
  have hc : (release s s.core.pos 2 allRegions).core = s.core := release_keeps (coreKept s.core).near rfl
  have hx : xr (release s s.core.pos 2 allRegions) a = xr s a := by unfold xr; rw [hc]
  refine exec_of_drained h (Eq.refl (execLaunch d a s)) ((whenReleasable_idle h.2.2.1 h.2.2.2 hd _).trans ?_)
  dsimp only
  rw [releaseHere, hx, ← hu]
  rfl

end

/-- The core of a reading of a record is the one in focus. -/
theorem readPrio_core (s : State) (va : Word) : (readPrio s va).1.core = s.core := readPrio_keeps (coreKept s.core).near rfl

section
variable {s t : State} {d : Reg} {va : Word} {n : Nat}

theorem launchFrom_unread (hn : (readPrio s va).2 = none) : launchFrom s d va = fallThrough (writeX (readPrio s va).1 d 0) := by
  unfold launchFrom
  dsimp only
  rw [hn]
  rfl

variable (hn : (readPrio s va).2 = some n)
include hn

theorem launchFrom_waits (hw : appendWaits (readPrio s va).1 s.core.vf n va = some t) : launchFrom s d va = stall t := by
  unfold launchFrom
  dsimp only
  rw [hn, readPrio_core, Option.bind_some, hw]

theorem launchFrom_appends {e : State × Word} (hw : appendWaits (readPrio s va).1 s.core.vf n va = none)
    (ha : append (readPrio s va).1 s.core.vf n va = some e) : launchFrom s d va = fallThrough (writeX e.1 d e.2) := by
  unfold launchFrom
  dsimp only
  rw [hn, readPrio_core, Option.bind_some, hw, Option.bind_some, ha]

theorem launchFrom_refused (hw : appendWaits (readPrio s va).1 s.core.vf n va = none)
    (ha : append (readPrio s va).1 s.core.vf n va = none) : launchFrom s d va = fallThrough (writeX (readPrio s va).1 d 0) := by
  unfold launchFrom
  dsimp only
  rw [hn, readPrio_core, Option.bind_some, hw, Option.bind_some, ha]

end

end Sys2Proof.Machine

section

open Sys2Proof Sys2Proof.Machine

/-- Settles O25, by one lemma for each outcome of an instruction. -/
theorem barriersTriggersLaunches : Obligations.BarriersTriggersLaunches := by
  refine ⟨fun s l h hd hl => ?_, fun s l d a h hd hl => ?_⟩
  · intro arrives ready
    have hc {i : Instr} {form : BitVec 2} (he : exec i s = barOp form s) (hr : ready) (hw : manyWaves s l form s.core.pos = false) :
        exec i s = .next (settle (arrives s form false)) := exec_bar_arrives h he hd hl hr hw
    refine ⟨fun hr hw => hc (i := .barCluster) rfl hr hw, fun hr hw => hc (i := .barDie) rfl hr hw,
      fun hr hw => hc (i := .barLaunch) rfl hr hw, ?_⟩
    intro closed goes
    have hgo (hg : goes) : (inPhase s && switchDue s s.core && !s.core.sync.npr) = false := by
      rcases hg with hg | hg | hg
      · rw [inPhase_none hg]; rfl
      · rw [hg, Bool.and_false]; rfl
      · rw [hg, Bool.not_true, Bool.and_false]
    refine ⟨fun hg ho ha hs hw => ?_, fun hg ho hs => ?_, fun ho hs => traps_sstep_task h hl hs ho, fun hp => ⟨?_, ?_, ?_⟩,
      fun hr hw => ?_, fun hr hw => ?_, fun hr hs hw => ?_, fun hp ho => ⟨?_, ?_, ?_⟩, fun hr hw => ?_, traps_sstep_flag h hl⟩
    · have hm : manyWaves (phaseClosed s) l 2 (phaseClosed s).core.pos = false := by
        rw [manyWaves_congr (s := s) (t := phaseClosed s) rfl rfl]
        exact hw
      rw [exec_sstep h hl hs ho, if_neg (by rw [hgo hg]; exact Bool.false_ne_true),
        barrier_arrives (s := phaseClosed s) (form := 2) h hd hl ha hm]
      rfl
    · rw [exec_sstep h hl hs ho, if_pos]
      · rfl
      · simp only [goes, not_or] at hg
        obtain ⟨hp, hw, hr⟩ := hg
        rw [Bool.not_eq_true] at hr
        rw [Bool.not_eq_false] at hw
        rw [hr, hw, Bool.and_true, Bool.not_false, Bool.and_true]
        simpa [inPhase, Option.isSome_iff_ne_none] using hp
    · exact traps_bar_phase (i := .barCluster) h (Eq.refl (barOp 0 s)) hp
    · exact traps_bar_phase (i := .barDie) h (Eq.refl (barOp 1 s)) hp
    · exact traps_bar_phase (i := .barLaunch) h (Eq.refl (barOp 2 s)) hp
    · exact traps_bar_waves (i := .barCluster) h (Eq.refl (barOp 0 s)) hl hr hw
    · exact traps_bar_waves (i := .barDie) h (Eq.refl (barOp 1 s)) hl hr hw
    · rw [← sizeFault_ofNat 4 0]
      refine traps_of_settle h ?_
      rw [exec_sstep h hl hs hr.2.1, if_neg (by rw [inPhase_none hr.1]; exact Bool.false_ne_true), phaseClosed_none hr.1,
        barrier_traps hl hr.2.2 hw]
      rfl
    · exact traps_bar_task (i := .barCluster) h (Eq.refl (barOp 0 s)) hp ho
    · exact traps_bar_task (i := .barDie) h (Eq.refl (barOp 1 s)) hp ho
    · exact traps_bar_task (i := .barLaunch) h (Eq.refl (barOp 2 s)) hp ho
    · exact traps_bar_waves (i := .barLaunch) h (Eq.refl (barOp 2 s)) hl hr hw
  · intro r q p
    have hv : q.core = s.core := release_keeps (coreKept s.core).near rfl
    refine ⟨fun ht ho hn => goes_trig h hl hd ht ho (if_neg (by rw [hn]; exact Bool.false_ne_true)),
      fun ht ho hn => goes_trig h hl hd ht ho (if_pos hn), traps_trig_none h hl, traps_trig_task h hl, fun hn => ?_,
      fun n hn => ⟨fun w hw => ?_, fun e hw ha => ?_, fun hw ha => ?_⟩⟩
    · exact exec_launch h hd d a (launchFrom_unread hn)
    · exact exec_launch h hd d a (launchFrom_waits hn (by rw [hv]; exact hw))
    · exact exec_launch h hd d a (launchFrom_appends hn (by rw [hv]; exact hw) (by rw [hv]; exact ha))
    · exact exec_launch h hd d a (launchFrom_refused hn (by rw [hv]; exact hw) (by rw [hv]; exact ha))

end

namespace Sys2Proof.Machine

/-! ## Masks and scale fields (R249, R269, R270, R272) -/

section
variable {i : Instr} {s : State} (h : ReadyQ i s) (he : isEarlyLoad i = false) (hs : takesSdq i = false) (hx : exec i s = .next (enqueue s i))
include h he hs hx

/-- An instruction whose turn writes the mask stack. -/
theorem yields_setMasks {ms : List Word} (hr : runEntry (capture s i) (appended s i) = .done (setMasks (appended s i) ms)) :
    Yields i s fun u => setMasks u ms :=
  yields_of h he hs hx hr (appended_kept h) fun _ _ _ => rfl

/-- An instruction whose turn writes a mask register. -/
theorem yields_setK {k : BitVec 3} {v : Word} (hr : runEntry (capture s i) (appended s i) = .done (setK (appended s i) k v)) :
    Yields i s fun u => setK u k v := by
  refine yields_of (f := fun u => setK u k v) h he hs hx hr ?_ fun reqs rcnt u => ?_
  · unfold setK
    split
    · exact appended_kept h
    · exact appended_kept h
  · unfold setK
    split
    · rfl
    · rfl

/-- An instruction whose turn writes the scale fields of a register. -/
theorem yields_setScales {d : Reg} {c : Vector Scale 4} (hr : runEntry (capture s i) (appended s i) = .done (setScales (appended s i) d c)) :
    Yields i s fun u => setScales u d c :=
  yields_of h he hs hx hr (appended_kept h) fun _ _ _ => rfl

/-- An instruction whose turn writes x(d) and no more. -/
theorem yieldsX_setX {d : Reg} {v : Word} (hr : runEntry (capture s i) (appended s i) = .done (setX (appended s i) d v)) :
    YieldsX i s d v 0 s.core.regs.srseed := by
  refine yieldsX_of h he hs hx (hr.trans (congrArg RunRes.done ?_))
  rw [setX_eq, show s.core.regs.fflags ||| 0 = s.core.regs.fflags from BitVec.or_zero]
  rfl

omit he hs hx in
/-- A ready MPOP or MINV finds a mask on the stack (R252). -/
theorem masks_ne_nil (hi : i = .mpop ∨ i = .minv) : s.core.vec.masks ≠ [] := by
  intro hm
  have hd : maskDepthAhead s = 0 := by
    unfold maskDepthAhead
    rw [h.1.1.1, hm]
    rfl
  have hn : ¬(if maskDepthAhead s = 0 then some 6 else none) = none := by rw [if_pos hd]; exact nofun
  rcases hi with rfl | rfl
  · exact hn h.2.2.2.1
  · exact hn h.2.2.2.1

end

end Sys2Proof.Machine

section

open Sys2Proof Sys2Proof.Machine

/-- Settles O33, by the effect of each instruction at its turn. -/
theorem masksAndScales : Obligations.MasksAndScales := by
  intro s d a k e g n st j ms seed sets p q
  refine ⟨fun h => yields_setMasks h rfl rfl rfl rfl, fun h => ?_, fun h => ⟨masks_ne_nil h (.inl rfl), yields_setMasks h rfl rfl rfl ?_⟩,
    fun h => yields_setMasks h rfl rfl rfl rfl, fun h => yields_setK h rfl rfl rfl ?_, fun h => yields_setK h rfl rfl rfl rfl, fun h => yields_setK h rfl rfl rfl rfl,
    fun h => yields_setK h rfl rfl rfl rfl, fun h => yields_setK h rfl rfl rfl rfl, fun h => yields_setK h rfl rfl rfl rfl,
    fun h => yieldsX_setX h rfl rfl rfl rfl, fun h => yields_setScales h rfl rfl rfl ?_, fun h => yields_setScales h rfl rfl rfl ?_,
    fun h => yieldsX_setX h rfl rfl rfl rfl⟩
  · obtain ⟨top, below, hm⟩ := List.exists_cons_of_ne_nil (masks_ne_nil h (.inr rfl))
    refine ⟨top, below, hm, yields_setMasks h rfl rfl rfl ?_⟩
    show effMinv (capture s .minv) (appended s .minv) = _
    unfold effMinv
    rw [show (appended s .minv).core.vec.masks = top :: below from hm]
    rfl
  · show RunRes.done (setMasks _ (s.core.vec.masks.drop 1)) = _
    rw [List.drop_one]
  · show RunRes.done (setK _ k ((capture s (.kmovKx k a)).x a)) = _
    rw [capture_x s (List.mem_singleton_self a)]
  · show RunRes.done (setScales _ d (vset (scalesOf s d) j.toNat (((capture s (.vsclSet d a j)).x a).extractLsb' 0 20))) = _
    rw [capture_x s (List.mem_singleton_self a)]
  · show RunRes.done (setScales _ d (Vector.replicate 4 (((capture s (.vsclSeta d a)).x a).extractLsb' 0 20))) = _
    rw [capture_x s (List.mem_singleton_self a)]

end

namespace Sys2Proof.Machine

/-! ## v sources and operands of a queued instruction at its turn (R250, R255) -/

section
variable {i : Instr} {s : State} {d : Reg} {w : Nat}

/-- v30 as a source that the instruction does not name reads as zero (R250). -/
theorem vSrc_unread (h : readsLdq i = false) : vSrc (appended s i) (capture s i) 30 = 0 := by
  have hn : ldqFor (appended s i) (capture s i) = none := by
    unfold ldqFor
    rw [show (capture s i).ldqSeq = if readsLdq i then (nextLdq s).map (·.seq) else none from rfl, h, if_neg Bool.false_ne_true]
    exact List.find?_eq_none.2 fun l _ => by simp
  unfold vSrc
  rw [if_pos rfl, hn]
  rfl

/-- What an instruction computes of an active lane is one value. -/
theorem lanewise_unique {f g : Nat → Nat → Nat × Flags} (hf : Lanewise i s d w f) (hg : Lanewise i s d w g) {j : Nat} (hj : j < laneCount w)
    (ha : (activeNow s).getLsbD j = true) (rnd : Nat) (hr : rnd = laneOf (drawn i s (laneCount w)).2 j) :
    (f j rnd).1 % 2 ^ w = (g j rnd).1 % 2 ^ w := by
  obtain ⟨t, ht, -, -, hl, -⟩ := hf
  obtain ⟨u, hu, -, -, hm, -⟩ := hg
  obtain rfl : t = u := by rw [ht] at hu; cases hu; rfl
  have h1 := hl j hj
  have h2 := hm j hj
  rw [if_pos ha] at h1 h2
  rw [hr]
  exact h1.symm.trans h2

end

section
variable {s : State} {d a b : Reg} {x : BitVec 1}

/-- The integer lanes of VFMA: the d source is read as any other (R257). -/
theorem lanewise_vfma_int (h : ReadyQ (.vfma d a b x) s) (ht : typeFmt (typeNow s) = none) :
    Lanewise (.vfma d a b x) s d (widthNow s) fun j _ =>
      intResult (typeNow s) (mSat s.core.regs.mode)
        (intElem (typeNow s) (lane (vSrc (appended s (.vfma d a b x)) (capture s (.vfma d a b x)) a) (widthNow s) j) *
            intElem (typeNow s) (bLane (appended s (.vfma d a b x)) (capture s (.vfma d a b x)) (widthNow s) b x j) +
          intElem (typeNow s) (lane (vSrc (appended s (.vfma d a b x)) (capture s (.vfma d a b x)) d) (widthNow s) j)) := by
  refine lanewise_of h rfl rfl rfl ?_
  show effFused (appended s (.vfma d a b x)) (capture s (.vfma d a b x)) d a b x false false = _
  unfold effFused
  dsimp only
  rw [show (capture s (.vfma d a b x)).ty = typeNow s from rfl, ht]
  rfl

/-- The integer lanes of VCLAMP (R258). -/
theorem lanewise_vclamp_int (h : ReadyQ (.vclamp d a b x) s) (ht : typeFmt (typeNow s) = none) :
    Lanewise (.vclamp d a b x) s d (widthNow s) fun j _ =>
      let p := intElem (typeNow s) (lane (vSrc (appended s (.vclamp d a b x)) (capture s (.vclamp d a b x)) a) (widthNow s) j)
      let q := intElem (typeNow s) (bLane (appended s (.vclamp d a b x)) (capture s (.vclamp d a b x)) (widthNow s) b x j)
      let r := intElem (typeNow s) (lane (vSrc (appended s (.vclamp d a b x)) (capture s (.vclamp d a b x)) d) (widthNow s) j)
      let m := if r < p then p else r
      (wrapBits (widthNow s) (if q < m then q else m), 0) := by
  refine lanewise_of h rfl rfl rfl ?_
  show effVclamp (capture s (.vclamp d a b x)) d a b x (appended s (.vclamp d a b x)) = _
  unfold effVclamp
  dsimp only
  rw [show (capture s (.vclamp d a b x)).ty = typeNow s from rfl, ht]
  rfl

end

/-- A strand under MODE 0 (TYPE I8) whose LDQ holds a load of 1 in lane 0 that no reader has been given, and 5 in x2. -/
def loadedV30 : State :=
  let s := State.reset
  { s with core := { s.core with
    regs := { s.core.regs with x := vset s.core.regs.x 2 5 }
    q := { s.core.q with ldq := [⟨0, 1, 0, none, false, false⟩] } } }

theorem loadedV30_ready : Ready loadedV30 := ⟨⟨rfl, rfl, rfl, rfl⟩, fun n hn hc => by
  have ha : ∀ n, n < 6 → (loopAt loadedV30 n).act = false := by decide
  rw [ha n hn] at hc
  exact Bool.false_ne_true hc.1⟩

end Sys2Proof.Machine

section

open Sys2Proof Sys2Proof.Machine

/-- Refutes O28: VFMA with d = 30 and no v30 source adds 0 for d and leaves the LDQ, where the statement adds the oldest early load. -/
theorem not_vectorArithmetic : ¬ Obligations.VectorArithmetic := by
  intro h
  obtain ⟨-, -, -, -, hfma, -⟩ := h loadedV30 30 1 1 0
  have hq : ReadyQ (.vfma 30 1 1 0) loadedV30 := ⟨loadedV30_ready, rfl, by decide, by decide, rfl⟩
  have hs := (hfma hq).2 (by decide)
  have hm := lanewise_vfma_int hq (by decide)
  have hn : 0 < laneCount (widthNow loadedV30) := by decide
  have hu := lanewise_unique hs hm hn (by decide) 0 (by decide)
  rw [vSrc_unread (by decide)] at hu
  exact absurd hu (by decide +kernel)

/-- Refutes O29: VCLAMP with d = 30 and no v30 source clamps 0 for d, where the statement clamps the oldest early load. -/
theorem not_vectorOrderAndFunctions : ¬ Obligations.VectorOrderAndFunctions := by
  intro h
  obtain ⟨-, -, -, -, hclamp, -⟩ := h loadedV30 30 1 2 1
  have hq : ReadyQ (.vclamp 30 1 2 1) loadedV30 := ⟨loadedV30_ready, rfl, by decide, by decide, rfl⟩
  have hs := (hclamp hq).2 (by decide)
  have hm := lanewise_vclamp_int hq (by decide)
  have hn : 0 < laneCount (widthNow loadedV30) := by decide
  have hu := lanewise_unique hs hm hn (by decide) 0 (by decide)
  rw [vSrc_unread (by decide)] at hu
  exact absurd hu (by decide +kernel)

end

namespace Sys2Proof.Machine

/-! ## Instructions on the bits of lanes (R260 to R262) -/

section
variable {i : Instr} {s : State} {d a b : Reg} {x : BitVec 1} {w : Nat}

/-- Only active lanes count, as values of their width. -/
theorem lanewise_congr {f g : Nat → Nat → Nat × Flags} (h : Lanewise i s d w f)
    (hv : ∀ j rnd, (activeNow s).getLsbD j = true → (f j rnd).1 % 2 ^ w = (g j rnd).1 % 2 ^ w)
    (hf : ∀ j rnd, (f j rnd).2 = (g j rnd).2) : Lanewise i s d w g := by
  obtain ⟨t, ht, ho, hseed, hl, hr⟩ := h
  refine ⟨t, ht, ho, hseed, fun j hj => ?_, fun b => ?_⟩
  · rw [hl j hj]
    by_cases ha : (activeNow s).getLsbD j = true
    · rw [if_pos ha, if_pos ha, hv j _ ha]
    · rw [if_neg ha, if_neg ha]
  · rw [hr b]
    simp only [hf]

/-- A lane that is active lies in a mask of 64 bits. -/
theorem active_lt {j : Nat} (h : (activeNow s).getLsbD j = true) : j < 64 := BitVec.lt_of_getLsbD h

/-- A v source that the instruction names. -/
theorem vSrc_named (h : ReadyQ i s) (ha : a ∈ vSourcesOf i) : vSrc (appended s i) (capture s i) a = vNow s a := by
  refine vSrc_appended h.1.1.1 fun h30 => ?_
  unfold readsLdq
  rw [← h30]
  exact List.contains_iff_mem.2 ha

/-- The b operand that the instruction names. -/
theorem bLane_named (h : ReadyQ i s) (hx : xReadsOf i = xB x b) (hv : ∀ r ∈ vB x b, r ∈ vSourcesOf i) (w j : Nat) :
    bLane (appended s i) (capture s i) w b x j = laneB s b x w j := by
  refine bLane_appended h.1.1.1 (fun h1 => ?_) (fun h1 h30 => ?_) w j
  · rw [hx, xB, if_pos h1]
    exact List.mem_singleton_self b
  · unfold readsLdq
    rw [← h30]
    exact List.contains_iff_mem.2 (hv b (by rw [vB, if_neg h1]; exact List.mem_singleton_self b))

/-- An instruction on the bits of two sources (R260). -/
theorem lanewise_bits {f : Nat → Nat → Nat} {g : Nat → Nat} (h : ReadyQ i s) (he : isEarlyLoad i = false) (hs : takesSdq i = false)
    (hx : exec i s = .next (enqueue s i)) (hr : runEntry (capture s i) (appended s i) = effBits (appended s i) (capture s i) d a b x f)
    (hxr : xReadsOf i = xB x b) (hv : vSourcesOf i = a :: vB x b)
    (hg : ∀ j, f (laneA s a (widthNow s) j) (laneB s b x (widthNow s) j) % 2 ^ widthNow s = g j % 2 ^ widthNow s) :
    Lanewise i s d (widthNow s) fun j _ => (g j, 0) := by
  refine lanewise_congr (lanewise_of h he hs hx hr) (fun j _ _ => ?_) fun _ _ => rfl
  dsimp only
  rw [vSrc_named h (by rw [hv]; exact List.mem_cons_self), bLane_named h hxr (fun r hm => by rw [hv]; exact List.mem_cons_of_mem a hm)]
  exact hg j

/-- VSEL takes the lanes of a that its mask register names (R262). -/
theorem lanewise_vsel {k : BitVec 3} (h : ReadyQ (.vsel d a b x k) s) : Lanewise (.vsel d a b x k) s d (widthNow s) fun j _ =>
    (if k = 0 ∨ ((s.core.vec.k[k.toNat]?).getD 0).getLsbD j = true then laneA s a (widthNow s) j else laneB s b x (widthNow s) j, 0) := by
  refine lanewise_congr (lanewise_of (f := fun j _ => (if (kReg s k).getLsbD j = true then
      lane (vSrc (appended s (.vsel d a b x k)) (capture s (.vsel d a b x k)) a) (widthNow s) j
    else bLane (appended s (.vsel d a b x k)) (capture s (.vsel d a b x k)) (widthNow s) b x j, 0)) h rfl rfl rfl rfl)
    (fun j _ ha => ?_) fun _ _ => rfl
  have hk : (kReg s k).getLsbD j = true ↔ k = 0 ∨ ((s.core.vec.k[k.toNat]?).getD 0).getLsbD j = true := by
    unfold kReg
    by_cases h0 : k = 0
    · rw [if_pos h0, BitVec.getLsbD_allOnes, decide_eq_true_eq]
      exact ⟨fun _ => .inl h0, fun _ => active_lt ha⟩
    · rw [if_neg h0]
      exact (or_iff_right h0).symm
  dsimp only
  rw [vSrc_named h List.mem_cons_self, bLane_named h rfl fun r hm => List.mem_cons_of_mem a hm]
  simp only [hk]
  rfl

/-- VMOV copies lanes under every TYPE but MXFP4 (R262). -/
theorem lanewise_vmov (h : ReadyQ (.vmov d a) s) (ht : typeNow s ≠ 10) :
    Lanewise (.vmov d a) s d (widthNow s) fun j _ => (laneA s a (widthNow s) j, 0) := by
  refine lanewise_congr (lanewise_of (f := fun j _ => (lane (vSrc (appended s (.vmov d a)) (capture s (.vmov d a)) a) (widthNow s) j, 0))
    h rfl rfl rfl ?_) (fun j _ _ => ?_) fun _ _ => rfl
  · exact if_neg ht
  · rw [vSrc_named h (List.mem_singleton_self a)]
    rfl

/-- VBC copies the low bits of x(a) (R262). -/
theorem lanewise_vbc (h : ReadyQ (.vbc d a) s) : Lanewise (.vbc d a) s d (widthNow s) fun _ _ => ((xr s a).toNat, 0) := by
  refine lanewise_congr (lanewise_of (f := fun _ _ => (((capture s (.vbc d a)).x a).toNat % 2 ^ widthNow s, 0)) h rfl rfl rfl rfl)
    (fun j _ _ => ?_) fun _ _ => rfl
  dsimp only
  rw [capture_x s (List.mem_singleton_self a), Nat.mod_mod]

/-- VIOTA gives each lane its index (R262). -/
theorem lanewise_viota {g : Nat → Nat} (h : ReadyQ (.viota d) s)
    (hg : ∀ j, g j = match typeFmt (typeNow s) with | some f => (roundTo f 1 false 0 (Ex.ofInt j)).1 | none => j) :
    Lanewise (.viota d) s d (widthNow s) fun j _ => (g j, 0) := by
  refine lanewise_of h rfl rfl rfl ?_
  show effViota (capture s (.viota d)) d (appended s (.viota d)) = _
  unfold effViota
  congr 1
  funext j rnd
  rw [hg j, show (capture s (.viota d)).ty = typeNow s from rfl]
  cases typeFmt (typeNow s) <;> rfl

/-- VMOV under MXFP4 copies the register and its scale fields (R262). -/
theorem yields_vmov_mx (h : ReadyQ (.vmov d a) s) (ht : typeNow s = 10) (hd : d ≠ 31) :
    Yields (.vmov d a) s fun u => setScales (setV u d (vNow s a)) d (scalesOf s a) := by
  refine yields_of (f := fun u => setScales (setV u d (vNow s a)) d (scalesOf s a)) h rfl rfl rfl ?_ (appended_kept h) fun _ _ _ => rfl
  refine (if_pos ht).trans ((if_neg hd).trans ?_)
  rw [vSrc_named h (List.mem_singleton_self a)]
  rfl

/-- VMOV under MXFP4 as a push takes the register alone (R251, R262). -/
theorem yields_vmov_push (h : ReadyQ (.vmov 31 a) s) (ht : typeNow s = 10) :
    Yields (.vmov 31 a) s fun u => tookV u s.core.q.qnext 31 (vNow s a) := by
  refine yields_of (f := fun u => tookV u s.core.q.qnext 31 (vNow s a)) h rfl rfl rfl ?_ (appended_kept h) fun _ _ _ => rfl
  refine (if_pos ht).trans ((if_pos rfl).trans ?_)
  rw [vSrc_named h (List.mem_singleton_self a)]
  rfl

end

/-- Where no lane raises a flag, none is raised. -/
theorem unionFlags_none (act : Word) (n : Nat) (g : Nat → Nat × Flags) (hg : ∀ j, (g j).2 = 0) :
    unionFlags act ((List.range n).map g) = 0 := by
  refine BitVec.eq_of_getLsbD_eq fun b _ => Bool.eq_iff_iff.2 ?_
  rw [unionFlags_bit]
  simp [hg]

/-! ## VCMP (R261) -/

/-- Bits packed from bit 0 up read back. -/
theorem testBit_bitsOf : ∀ (l : List Bool) (j : Nat), (bitsOf l).testBit j = (l[j]?).getD false
  | [], j => by simp [bitsOf]
  | b :: t, 0 => by cases b <;> simp [bitsOf, Nat.testBit_zero, Nat.add_mod]
  | b :: t, j + 1 => by
    have hd : ((if b then 1 else 0) + 2 * bitsOf t) / 2 = bitsOf t := by
      cases b
      · simp
      · simp only [if_true]; omega
    rw [bitsOf, Nat.testBit_succ, hd, testBit_bitsOf t j]
    rfl

section
variable {s : State} {d : BitVec 3} {a b : Reg} {x : BitVec 1} {c : BitVec 4}

/-- The lanes that are active and of which the test g holds. -/
def cmpBits (s : State) (n : Nat) (g : Nat → Nat × Flags) : Word :=
  BitVec.ofNat 64 (bitsOf (((List.range n).zip ((List.range n).map g)).map fun r => (activeNow s).getLsbD r.1 && r.2.1 == 1))

theorem cmpBits_getLsbD (n : Nat) (g : Nat → Nat × Flags) (j : Nat) :
    (cmpBits s n g).getLsbD j = true ↔ j < n ∧ (activeNow s).getLsbD j = true ∧ (g j).1 = 1 := by
  have hz : (List.range n).zip ((List.range n).map g) = (List.range n).map fun j => (j, g j) := by
    apply List.ext_getElem
    · simp
    · intro i h1 h2
      simp
  unfold cmpBits
  rw [hz, List.map_map, BitVec.getLsbD_ofNat, testBit_bitsOf, Bool.and_eq_true, decide_eq_true_eq]
  by_cases hj : j < n
  · rw [List.getElem?_map, List.getElem?_range hj]
    simp only [Option.map_some, Option.getD_some, Function.comp, Bool.and_eq_true, beq_iff_eq, hj, true_and]
    exact ⟨fun h => h.2, fun h => ⟨active_lt h.1, h⟩⟩
  · rw [List.getElem?_eq_none (by simpa using hj)]
    simp [hj]

/-- What VCMP leaves, g being the test of each lane with its flags. -/
theorem exec_vcmp {g : Nat → Nat × Flags} (h : ReadyQ (.vcmp d a b x c) s)
    (hg : ∀ j, g j = match typeFmt (typeNow s) with
      | some f => (if floatCond c.toNat (f.decode (laneA s a (widthNow s) j)) (f.decode (laneB s b x (widthNow s) j)) then 1 else 0,
        flagIf (f.snan (laneA s a (widthNow s) j) || f.snan (laneB s b x (widthNow s) j) ||
          (decide (2 ≤ c.toNat) && decide (c.toNat ≤ 5) &&
            ((f.decode (laneA s a (widthNow s) j)).isNan || (f.decode (laneB s b x (widthNow s) j)).isNan))) flagNV)
      | none => (if intCond c.toNat (intElem (typeNow s) (laneA s a (widthNow s) j)) (intElem (typeNow s) (laneB s b x (widthNow s) j))
        then 1 else 0, 0)) :
    ∃ t, exec (.vcmp d a b x c) s = .next t ∧
      t = setRegs (setK (passed (.vcmp d a b x c) s t) d (cmpBits s (laneCount (widthNow s)) g))
        { (passed (.vcmp d a b x c) s t).core.regs with fflags := t.core.regs.fflags } ∧
      t.core.regs.fflags = s.core.regs.fflags ||| unionFlags (activeNow s) ((List.range (laneCount (widthNow s))).map g) := by
  obtain ⟨t, ht, he⟩ : Yields (.vcmp d a b x c) s fun u => raiseFlags (setK u d (cmpBits s (laneCount (widthNow s)) g))
      (unionFlags (activeNow s) ((List.range (laneCount (widthNow s))).map g)) := by
    refine yields_of (f := fun u => raiseFlags (setK u d (cmpBits s (laneCount (widthNow s)) g))
      (unionFlags (activeNow s) ((List.range (laneCount (widthNow s))).map g))) h rfl rfl rfl ?_ ?_ fun reqs rcnt u => ?_
    · show effVcmp (capture s (.vcmp d a b x c)) d a b x c (appended s (.vcmp d a b x c)) = _
      obtain rfl : g = _ := funext hg
      unfold effVcmp cmpBits
      simp only [vSrc_named h List.mem_cons_self, bLane_named h rfl fun r hm => List.mem_cons_of_mem a hm]
      rw [show (capture s (.vcmp d a b x c)).ty = typeNow s from rfl]
      cases typeFmt (typeNow s) <;> rfl
    · unfold setK
      split
      · exact appended_kept h
      · exact appended_kept h
    · unfold setK
      split
      · rfl
      · rfl
  have hf : t.core.regs.fflags = s.core.regs.fflags ||| unionFlags (activeNow s) ((List.range (laneCount (widthNow s))).map g) := by
    rw [he]
    unfold setK
    split <;> rfl
  refine ⟨t, ht, ?_, hf⟩
  rw [hf]
  refine he.trans ?_
  unfold raiseFlags setK
  split <;> rfl

/-- The relation that a condition of VCMP names (R261). -/
def CmpRel (c : BitVec 4) (eq lt gt un : Prop) : Prop :=
  (c = 0 ∧ eq) ∨ (c = 1 ∧ ¬eq) ∨ (c = 2 ∧ lt) ∨ (c = 3 ∧ (lt ∨ eq)) ∨ (c = 4 ∧ gt) ∨ (c = 5 ∧ (gt ∨ eq)) ∨ (c = 6 ∧ un)

theorem floatCond_iff (hc : c.toNat ≤ 6) (p q : Ex) :
    (if floatCond c.toNat p q = true then 1 else 0) = 1 ↔
      CmpRel c (p.eq q = true) (p.lt q = true) (q.lt p = true) (p.isNan = true ∨ q.isNan = true) := by
  have hne : p.isNan = true ∨ q.isNan = true → p.eq q = false := by
    unfold Ex.eq
    rintro (h | h) <;> simp [h]
  have hcs : c = 0 ∨ c = 1 ∨ c = 2 ∨ c = 3 ∨ c = 4 ∨ c = 5 ∨ c = 6 := by bv_omega
  have h1 (b : Bool) : (if b = true then 1 else 0) = 1 ↔ b = true := by cases b <;> simp
  rw [h1]
  unfold floatCond CmpRel
  rcases hcs with rfl | rfl | rfl | rfl | rfl | rfl | rfl <;> simp
  cases hp : p.isNan
  · cases hq : q.isNan
    · simp
    · simpa using hne (.inr hq)
  · simpa using hne (.inl hp)

theorem intCond_iff (hc : c.toNat ≤ 5) (p q : Int) :
    (if intCond c.toNat p q = true then 1 else 0) = 1 ↔ CmpRel c (p = q) (p < q) (q < p) False := by
  have hcs : c = 0 ∨ c = 1 ∨ c = 2 ∨ c = 3 ∨ c = 4 ∨ c = 5 := by bv_omega
  unfold intCond CmpRel
  rcases hcs with rfl | rfl | rfl | rfl | rfl | rfl <;> simp <;> omega

end

end Sys2Proof.Machine

section

open Sys2Proof Sys2Proof.Machine

/-- Settles O30, by the lanes of each instruction and the bits of VCMP. -/
theorem vectorBits : Obligations.VectorBits := by
  refine ⟨fun s d a b x k => ?_, fun s d a b x c h => ?_⟩
  · intro ty w p q bits
    refine ⟨fun h => ?_, fun h => ?_, fun h => ?_, fun h => ?_, fun h => ?_, fun h => ?_, fun h => ?_, fun h => ?_, fun ht h => ?_, fun ht h hd => ?_, fun ht h => ?_, fun h => ?_, fun f hf h => ?_, fun hf h => ?_⟩
    · exact lanewise_bits (f := fun p q => p &&& q) h rfl rfl rfl rfl rfl rfl fun _ => rfl
    · exact lanewise_bits (f := fun p q => p ||| q) h rfl rfl rfl rfl rfl rfl fun _ => rfl
    · exact lanewise_bits (f := fun p q => p ^^^ q) h rfl rfl rfl rfl rfl rfl fun _ => rfl
    · exact lanewise_bits (f := fun p q => p * 2 ^ (q % widthNow s) % 2 ^ widthNow s) h rfl rfl rfl rfl rfl rfl fun _ => Nat.mod_mod _ _
    · exact lanewise_bits (f := fun p q => p / 2 ^ (q % widthNow s)) h rfl rfl rfl rfl rfl rfl fun _ => rfl
    · exact lanewise_bits (f := fun p q => wrapBits (widthNow s) (signedOf (widthNow s) p / (2 ^ (q % widthNow s) : Nat))) h rfl rfl rfl rfl rfl rfl fun _ => rfl
    · exact lanewise_bits (f := fun p q => wrapBits (widthNow s) (intElem (typeNow s) p * intElem (typeNow s) q / (2 ^ widthNow s : Nat))) h rfl rfl rfl rfl rfl rfl fun _ => rfl
    · exact lanewise_vsel h
    · exact lanewise_vmov h ht
    · exact yields_vmov_mx h ht hd
    · exact yields_vmov_push h ht
    · exact lanewise_vbc h
    · exact lanewise_viota h fun j => by rw [show typeFmt (typeNow s) = some f from hf]
    · exact lanewise_viota h fun j => by rw [show typeFmt (typeNow s) = none from hf]
  · intro ty w p q rel
    cases hf : typeFmt (typeNow s) with
    | some f =>
      obtain ⟨t, ht, he, hfl⟩ := exec_vcmp h fun j => by rw [hf]
      refine ⟨t, _, ht, he, fun j hj => ((cmpBits_getLsbD _ _ j).1 hj).1, fun f' hf' hc => ?_, fun hn => ?_⟩
      · obtain rfl : f = f' := Option.some.inj hf'
        refine ⟨fun j hj => ?_, fun b => ?_⟩
        · rw [cmpBits_getLsbD, and_iff_right hj]
          exact and_congr_right fun _ => floatCond_iff hc _ _
        · rw [hfl, BitVec.getLsbD_or, Bool.or_eq_true, unionFlags_bit]
          simp only [Bool.decide_and]
          rfl
      · cases hn
    | none =>
      obtain ⟨t, ht, he, hfl⟩ := exec_vcmp h fun j => by rw [hf]
      refine ⟨t, _, ht, he, fun j hj => ((cmpBits_getLsbD _ _ j).1 hj).1, fun f' hf' => ?_, fun _ hc => ⟨?_, fun j hj => ?_⟩⟩
      · cases hf'
      · rw [hfl]
        exact (congrArg (s.core.regs.fflags ||| ·) (unionFlags_none _ _ _ fun _ => rfl)).trans BitVec.or_zero
      · rw [cmpBits_getLsbD, and_iff_right hj]
        exact and_congr_right fun _ => intCond_iff hc _ _

end

namespace Sys2Proof.Machine

/-! ## Permutations (R266, R268) -/

section
variable {i : Instr} {s : State} {d a b : Reg} {x h1 : BitVec 1}

/-- An instruction that moves lanes. -/
theorem lanewise_moves {w : Nat} {f g : Nat → Nat} (h : ReadyQ i s) (he : isEarlyLoad i = false) (hs : takesSdq i = false)
    (hx : exec i s = .next (enqueue s i))
    (hr : runEntry (capture s i) (appended s i) = laneEffect (appended s i) (capture s i) d w fun j _ => (f j, 0)) (hg : ∀ j, f j = g j) :
    Lanewise i s d w fun j _ => (g j, 0) :=
  lanewise_congr (lanewise_of h he hs hx hr) (fun j _ _ => by rw [hg j]) fun _ _ => rfl

/-- VINS writes one lane of a register (R268). -/
theorem yields_vins (h : ReadyQ (.vins d a b) s) : ∃ v, Yields (.vins d a b) s (fun u => setV u d v) ∧
    ∀ j, j < laneCount (widthNow s) → lane v (widthNow s) j =
      if j = (xr s b).toNat % laneCount (widthNow s) then (xr s a).toNat % 2 ^ widthNow s else lane (s.core.vec.v.get d.toFin) (widthNow s) j := by
  refine ⟨_, yields_of (f := fun u => setV u d _) h rfl rfl rfl (Eq.refl (effVins _ d a b _)) (appended_kept h) fun _ _ _ => rfl, fun j hj => ?_⟩
  refine (lane_computed (widthNow s) _ hj).trans ?_
  have ha : (capture s (.vins d a b)).x a = xr s a := capture_x s List.mem_cons_self
  have hb : (capture s (.vins d a b)).x b = xr s b := capture_x s (List.mem_cons_of_mem a (List.mem_singleton_self b))
  rw [ha, hb]
  by_cases hk : j = (xr s b).toNat % laneCount (widthNow s)
  · rw [if_pos hk]
    exact congrArg (· % 2 ^ widthNow s) (if_pos hk)
  · rw [if_neg hk, ← lane_mod (s.core.vec.v.get d.toFin) (widthNow s) j]
    exact congrArg (· % 2 ^ widthNow s) (if_neg hk)

end

/-! ## Reductions (R267) -/

section
variable {i : Instr} {s : State} {d a b : Reg}

/-- The active lanes of a named source. -/
theorem activeLanes_named (h : ReadyQ i s) (ha : a ∈ vSourcesOf i) : activeLanes (appended s i) (capture s i) a =
    ((List.range (laneCount (widthNow s))).filter fun j => (activeNow s).getLsbD j).map (laneA s a (widthNow s)) := by
  unfold activeLanes
  rw [vSrc_named h ha]
  rfl

/-- The choice of the larger or the smaller of two integers. -/
def pickInt (big : Bool) (p q : Int) : Int := if big then (if p < q then q else p) else (if q < p then q else p)

/-- The fold of the choice over a list from a first element. -/
theorem foldl_pickInt (big : Bool) : ∀ (l : List Int) (v : Int),
    (if big then v ≤ l.foldl (pickInt big) v else l.foldl (pickInt big) v ≤ v) ∧
      (∀ u ∈ l, if big then u ≤ l.foldl (pickInt big) v else l.foldl (pickInt big) v ≤ u) ∧ l.foldl (pickInt big) v ∈ v :: l
  | [], v => by cases big <;> simp
  | u :: l, v => by
    obtain ⟨h1, h2, h3⟩ := foldl_pickInt big l (pickInt big v u)
    have hp : pickInt big v u = v ∨ pickInt big v u = u := by unfold pickInt; split <;> split <;> simp
    have hv : if big then v ≤ pickInt big v u ∧ u ≤ pickInt big v u else pickInt big v u ≤ v ∧ pickInt big v u ≤ u := by
      unfold pickInt
      cases big
      · simp only [Bool.false_eq_true, if_false]; split <;> omega
      · simp only [if_true]; split <;> omega
    rw [List.foldl_cons]
    refine ⟨?_, fun z hz => ?_, ?_⟩
    · cases big
      · exact h1.trans hv.1
      · exact hv.1.trans h1
    · rcases List.mem_cons.1 hz with rfl | hz
      · cases big
        · exact h1.trans hv.2
        · exact hv.2.trans h1
      · exact h2 z hz
    · rcases List.mem_cons.1 h3 with h3 | h3
      · rw [h3]
        rcases hp with hp | hp <;> simp [hp]
      · exact List.mem_cons_of_mem v (List.mem_cons_of_mem u h3)

/-- The extreme of a list is one of its elements, and none lies beyond it. -/
theorem extreme_pickInt (big : Bool) (e : Int) : ∀ l : List Int,
    (∀ u ∈ l, if big then u ≤ (extreme (pickInt big) l).getD e else (extreme (pickInt big) l).getD e ≤ u) ∧
      ((extreme (pickInt big) l).getD e ∈ l ∨ l = [] ∧ (extreme (pickInt big) l).getD e = e)
  | [] => ⟨nofun, .inr ⟨rfl, rfl⟩⟩
  | v :: l => by
    obtain ⟨h1, h2, h3⟩ := foldl_pickInt big l v
    refine ⟨fun u hu => ?_, .inl h3⟩
    rcases List.mem_cons.1 hu with rfl | hu
    · exact h1
    · exact h2 u hu

/-- The draws of a turn (R233). -/
theorem takeDraws_appended (s : State) (i : Instr) (n : Nat) : takeDraws (appended s i) (capture s i) n =
    (setRegs (appended s i) { (appended s i).core.regs with srseed := (drawn i s n).1 }, (drawn i s n).2) := by
  unfold takeDraws drawn
  show (if drawsUnder s.core.regs.mode i = true then _ else _) = _
  split <;> rfl

/-- A write of x(d) with flags after draws. -/
theorem raiseFlags_setX_seed (u : State) (d : Reg) (v : Word) (fl : Flags) (seed : Word) :
    raiseFlags (setX (setRegs u { u.core.regs with srseed := seed }) d v) fl =
      setRegs (setX u d v) { (setX u d v).core.regs with fflags := u.core.regs.fflags ||| fl, srseed := seed } := by
  unfold raiseFlags setX
  split <;> rfl

/-- The same with no draw. -/
theorem raiseFlags_setX (u : State) (d : Reg) (v : Word) (fl : Flags) : raiseFlags (setX u d v) fl =
    setRegs (setX u d v) { (setX u d v).core.regs with fflags := u.core.regs.fflags ||| fl, srseed := u.core.regs.srseed } := by
  unfold raiseFlags setX
  split <;> rfl

/-- VREDADD on floats (R267). -/
theorem yieldsX_vredadd_float {f : Fmt} {ls : List Nat} (h : ReadyQ (.vredadd d a) s) (hf : typeFmt (typeNow s) = some f)
    (hl : activeLanes (appended s (.vredadd d a)) (capture s (.vredadd d a)) a = ls) :
    YieldsX (.vredadd d a) s d
      (BitVec.ofNat 64 (rounded f s.core.regs.mode (laneOf (drawn (.vredadd d a) s 1).2 0)
        (sumFloats (mRm s.core.regs.mode) (ls.map f.decode)) (ls.any f.snan)).1)
      (rounded f s.core.regs.mode (laneOf (drawn (.vredadd d a) s 1).2 0)
        (sumFloats (mRm s.core.regs.mode) (ls.map f.decode)) (ls.any f.snan)).2 (drawn (.vredadd d a) s 1).1 := by
  refine yieldsX_of h rfl rfl rfl ?_
  show effVredadd (capture s (.vredadd d a)) d a (appended s (.vredadd d a)) = _
  unfold effVredadd
  dsimp only
  rw [hl, show (capture s (.vredadd d a)).ty = typeNow s from rfl, hf]
  dsimp only
  rw [takeDraws_appended]
  exact congrArg RunRes.done (raiseFlags_setX_seed _ d _ _ _)

/-- VREDADD on integers (R267). -/
theorem yieldsX_vredadd_int {ls : List Nat} (h : ReadyQ (.vredadd d a) s) (hf : typeFmt (typeNow s) = none)
    (hl : activeLanes (appended s (.vredadd d a)) (capture s (.vredadd d a)) a = ls) :
    YieldsX (.vredadd d a) s d (BitVec.ofNat 64 (intResult 4 (mSat s.core.regs.mode) (ls.map (intElem (typeNow s))).sum).1)
      (intResult 4 (mSat s.core.regs.mode) (ls.map (intElem (typeNow s))).sum).2 s.core.regs.srseed := by
  refine yieldsX_of h rfl rfl rfl ?_
  show effVredadd (capture s (.vredadd d a)) d a (appended s (.vredadd d a)) = _
  unfold effVredadd
  dsimp only
  rw [hl, show (capture s (.vredadd d a)).ty = typeNow s from rfl, hf, ← List.sum_eq_foldl]
  exact congrArg RunRes.done (raiseFlags_setX _ d _ _)

variable {big : Bool} {ls : List Nat} (h : ReadyQ i s) (he : isEarlyLoad i = false) (hs : takesSdq i = false)
  (hx : exec i s = .next (enqueue s i)) (hr : runEntry (capture s i) (appended s i) = effExtreme (appended s i) (capture s i) d a big)
  (hl : activeLanes (appended s i) (capture s i) a = ls)
include h he hs hx hr hl

/-- VREDMAX and VREDMIN on floats (R267). -/
theorem yieldsX_extreme_float {f : Fmt} (hf : typeFmt (typeNow s) = some f) : YieldsX i s d
    (BitVec.ofNat 64 (roundTo f 1 false 0 ((extreme (if big then exMax else exMin) (ls.map f.decode)).getD (.inf big))).1)
    (flagIf (ls.any f.snan) flagNV) s.core.regs.srseed := by
  refine yieldsX_of h he hs hx (hr.trans ?_)
  unfold effExtreme
  dsimp only
  rw [hl, show (capture s i).ty = typeNow s from rfl, hf]
  exact congrArg RunRes.done (raiseFlags_setX _ d _ _)

/-- VREDMAX and VREDMIN on integers (R267). -/
theorem yieldsX_extreme_int (hf : typeFmt (typeNow s) = none) : YieldsX i s d
    (BitVec.ofInt 64 ((extreme (pickInt big) (ls.map (intElem (typeNow s)))).getD
      (if big then (intRange (typeNow s)).1 else (intRange (typeNow s)).2))) 0 s.core.regs.srseed := by
  refine yieldsX_setX h he hs hx (hr.trans ?_)
  unfold effExtreme
  dsimp only
  rw [hl, show (capture s i).ty = typeNow s from rfl, hf]
  rfl

end

end Sys2Proof.Machine

section

open Sys2Proof Sys2Proof.Machine

/-- Settles O32, by the lanes of each permutation and the fold of each reduction. -/
theorem permuteAndReduce : Obligations.PermuteAndReduce := by
  refine ⟨fun s d a b x h1 => ?_, fun s d a b => ?_⟩
  · intro w n p q c moves
    refine ⟨fun h => ?_, fun h => ?_, fun h => ?_, fun h => ?_, fun h => ?_, fun h _ => yields_vins h⟩
    · refine lanewise_moves h rfl rfl rfl (Eq.refl (effVperm _ d a b x _)) fun j => ?_
      rw [vSrc_named h List.mem_cons_self, bLane_named h rfl fun r hm => List.mem_cons_of_mem a hm]
      rfl
    · refine lanewise_moves h rfl rfl rfl (Eq.refl (effVslideUp _ d a b _)) fun j => ?_
      rw [vSrc_named h List.mem_cons_self, capture_x s List.mem_cons_self]
      rfl
    · refine lanewise_moves h rfl rfl rfl (Eq.refl (effVslideDn _ d a b _)) fun j => ?_
      rw [vSrc_named h List.mem_cons_self, capture_x s List.mem_cons_self]
      rfl
    · refine lanewise_moves h rfl rfl rfl (Eq.refl (effVzip _ d a b h1 _)) fun j => ?_
      rw [vSrc_named h List.mem_cons_self, vSrc_named h (List.mem_cons_of_mem a (List.mem_singleton_self b)),
        apply_ite fun v => lane v _ _]
      rfl
    · refine lanewise_moves h rfl rfl rfl (Eq.refl (effVunzip _ d a b h1 _)) fun j => ?_
      rw [vSrc_named h List.mem_cons_self, vSrc_named h (List.mem_cons_of_mem a (List.mem_singleton_self b))]
      rfl
  · intro m ty w ls seed lanes p
    refine ⟨fun h => ?_, fun h => ?_, fun h => ?_, fun h => ?_⟩
    · have hl := activeLanes_named h (List.mem_singleton_self a)
      exact ⟨fun f hf => yieldsX_vredadd_float h hf hl, fun hf => yieldsX_vredadd_int h hf hl⟩
    · have hl := activeLanes_named h (List.mem_singleton_self a)
      refine ⟨fun f hf => yieldsX_extreme_float (big := true) h rfl rfl rfl rfl hl hf, fun hf =>
        ⟨_, yieldsX_extreme_int (big := true) h rfl rfl rfl rfl hl hf, extreme_pickInt true _ _⟩⟩
    · have hl := activeLanes_named h (List.mem_singleton_self a)
      refine ⟨fun f hf => yieldsX_extreme_float (big := false) h rfl rfl rfl rfl hl hf, fun hf =>
        ⟨_, yieldsX_extreme_int (big := false) h rfl rfl rfl rfl hl hf, extreme_pickInt false _ _⟩⟩
    · refine yieldsX_setX h rfl rfl rfl ?_
      show effVmvx (capture s (.vmvx d a b)) d a b (appended s (.vmvx d a b)) = _
      unfold effVmvx
      dsimp only
      rw [vSrc_named h (List.mem_singleton_self a), capture_x s (List.mem_singleton_self b)]
      simp only [intType, decide_eq_true_eq]
      rfl

end

namespace Sys2Proof.Machine

/-! ## VCVT (R263) -/

section
variable {s : State} {d a : Reg} {p : BitVec 3} {src : BitVec 4}

/-- The positions of VCVT, and where its source and its destination elements begin. -/
def cvtCount (s : State) (src : BitVec 4) : Nat := 512 / Nat.max (typeBits src.toNat) (typeBits (typeNow s))
def cvtSbase (s : State) (p : BitVec 3) (src : BitVec 4) : Nat :=
  if typeBits src.toNat < typeBits (typeNow s) then p.toNat * cvtCount s src else 0
def cvtDbase (s : State) (p : BitVec 3) (src : BitVec 4) : Nat :=
  if typeBits (typeNow s) < typeBits src.toNat then p.toNat * cvtCount s src else 0

/-- The result of position j of VCVT with its flags, as the model computes it. -/
def cvtLane (s : State) (d a : Reg) (p : BitVec 3) (src : BitVec 4) (j rnd : Nat) : Nat × Flags :=
  cvtResult s.core.regs.mode (typeNow s) src.toNat (if d = 31 then Vector.replicate 4 0 else scalesOf s d) (cvtDbase s p src + j) rnd
    (cvtSource src.toNat (vNow s a) (if a = 30 then Vector.replicate 4 0 else scalesOf s a) (cvtSbase s p src + j))

theorem typeBits_pos (ty : Nat) : 0 < typeBits ty := by
  unfold typeBits
  split_ifs <;> decide

/-- The wider of two widths. -/
theorem max_typeBits (a b : Nat) : (if a < b then b else a) = Nat.max b a := by
  show _ = max b a
  split <;> omega

/-- The destination elements lie in the register (R263). -/
theorem cvtDbase_lt (h : modeOk s.core.regs.mode (.vcvt d a p src) = true) {j : Nat} (hj : j < cvtCount s src) :
    cvtDbase s p src + j < laneCount (typeBits (typeNow s)) := by
  unfold cvtDbase
  unfold cvtCount at hj ⊢
  generalize hwd : typeBits (typeNow s) = wd at hj ⊢
  generalize hws : typeBits src.toNat = ws at hj ⊢
  have hp : 0 < wd := hwd ▸ typeBits_pos _
  unfold laneCount
  by_cases hw : wd < ws
  · have hpart : p.toNat < ws / wd := by
      have hm : cvtOk (typeNow s) src.toNat p.toNat d = true := by
        unfold modeOk at h
        dsimp only at h
        rw [Bool.and_eq_true] at h
        exact h.1
      unfold cvtOk at hm
      simp only [hwd, hws, if_pos hw, Bool.and_eq_true, decide_eq_true_eq] at hm
      exact hm.1.1.1.1
    rw [← max_typeBits, if_pos hw] at hj
    rw [if_pos hw, ← max_typeBits, if_pos hw]
    have hle : ws / wd * (512 / ws) ≤ 512 / wd := by
      rw [Nat.le_div_iff_mul_le hp]
      calc ws / wd * (512 / ws) * wd = ws / wd * wd * (512 / ws) := by ring
        _ ≤ ws * (512 / ws) := Nat.mul_le_mul_right _ (Nat.div_mul_le_self ws wd)
        _ ≤ 512 := Nat.mul_div_le 512 ws
    calc p.toNat * (512 / ws) + j < (p.toNat + 1) * (512 / ws) := by rw [Nat.add_mul, Nat.one_mul]; omega
      _ ≤ ws / wd * (512 / ws) := Nat.mul_le_mul_right _ hpart
      _ ≤ 512 / wd := hle
  · rw [← max_typeBits, if_neg hw] at hj
    rw [if_neg hw, Nat.zero_add]
    exact hj

/-- The lanes that VCVT makes. -/
def cvtLanes (s : State) (d : Reg) (p : BitVec 3) (src : BitVec 4) (rs : List Nat) : List Nat :=
  (List.range (512 / typeBits (typeNow s))).map fun k => match cvtPos (cvtDbase s p src) (cvtCount s src) (activeNow s) k with
    | some j => laneOf rs j
    | none => lane (oldV s d) (typeBits (typeNow s)) k

/-- The turn of VCVT. -/
theorem effVcvt_eq (h : ReadyQ (.vcvt d a p src) s) :
    let i : Instr := .vcvt d a p src
    let rs := (List.range (cvtCount s src)).map fun j => cvtLane s d a p src j (laneOf (drawn i s (cvtCount s src)).2 j)
    let u := tookV (appended s i) s.core.q.qnext d (ofLanes (typeBits (typeNow s)) (cvtLanes s d p src (rs.map (·.1))))
    effVcvt (capture s i) d a p src (appended s i) = .done (setRegs u { u.core.regs with
      fflags := s.core.regs.fflags ||| unionFlags (activeNow s) rs, srseed := (drawn i s (cvtCount s src)).1 }) := by
  intro i rs u
  have hn : 512 / (if typeBits (typeNow s) < typeBits src.toNat then typeBits src.toNat else typeBits (typeNow s)) = cvtCount s src := by
    rw [cvtCount, ← max_typeBits]
  unfold effVcvt
  dsimp only
  rw [vSrc_named h (List.mem_singleton_self a), show (capture s i).ty = typeNow s from rfl, hn, takeDraws_appended]
  by_cases hd : d = 31
  · subst hd
    rfl
  · simp only [u, tookV, if_neg hd]
    simp only [rs, cvtLanes, cvtLane, oldV, if_neg hd]
    rfl

/-- The exact value of source element k (R226, R263). -/
def cvtValue (s : State) (a : Reg) (src : BitVec 4) (k : Nat) : Ex :=
  match typeFmt src.toNat with
  | some f =>
    if src = 10 then (exMul (f.decode (lane (vNow s a) (typeBits src.toNat) k)) (scaleValue ((scalesOf s a)[k / 32]?.getD 0))).1
    else f.decode (lane (vNow s a) (typeBits src.toNat) k)
  | none => Ex.ofInt (intElem src.toNat (lane (vNow s a) (typeBits src.toNat) k))

/-- Is source element k a signalling NaN? -/
def cvtSnan (s : State) (a : Reg) (src : BitVec 4) (k : Nat) : Bool :=
  match typeFmt src.toNat with
  | some f => src != 10 && f.snan (lane (vNow s a) (typeBits src.toNat) k)
  | none => false

/-- What R138 asks of VCVT. -/
theorem modeOk_vcvt (h : modeOk s.core.regs.mode (.vcvt d a p src) = true) :
    cvtOk (typeNow s) src.toNat p.toNat d = true ∧ ¬(src = 10 ∧ a = 30) := by
  unfold modeOk at h
  dsimp only at h
  rw [Bool.and_eq_true, Bool.not_eq_true', Bool.and_eq_false_iff, beq_eq_false_iff_ne, beq_eq_false_iff_ne] at h
  exact ⟨h.1, fun hc => h.2.elim (fun hn => hn hc.1) fun hn => hn hc.2⟩

theorem cvtSource_eq (h : modeOk s.core.regs.mode (.vcvt d a p src) = true) (k : Nat) :
    cvtSource src.toNat (vNow s a) (if a = 30 then Vector.replicate 4 0 else scalesOf s a) k = (cvtValue s a src k, cvtSnan s a src k) := by
  have ha := (modeOk_vcvt h).2
  have h10 : src.toNat = 10 ↔ src = 10 := ⟨fun hn => BitVec.eq_of_toNat_eq hn, fun hn => by rw [hn]; rfl⟩
  unfold cvtSource cvtValue cvtSnan
  cases typeFmt src.toNat with
  | none => rfl
  | some f =>
    dsimp only
    by_cases hs : src = 10
    · rw [if_pos (h10.2 hs), if_pos hs, if_neg fun h30 => ha ⟨hs, h30⟩, show (src != 10) = false by rw [hs]; rfl, Bool.false_and]
    · rw [if_neg fun hn => hs (h10.1 hn), if_neg hs, show (src != 10) = true from bne_iff_ne.2 hs, Bool.true_and]

/-- A TYPE that is no float has no format. -/
theorem typeFmt_none {ty : Nat} (h : isFloat ty = false) : typeFmt ty = none := by
  have hn : ¬(5 ≤ ty ∧ ty ≤ 10) := by simpa [isFloat] using h
  unfold typeFmt
  rw [if_neg (by omega), if_neg (by omega), if_neg (by omega), if_neg (by omega), if_neg (by omega), if_neg (by omega)]

/-- The result of position j of VCVT, as R263 says. -/
theorem cvtLane_eq (h : modeOk s.core.regs.mode (.vcvt d a p src) = true) (j rnd : Nat) : cvtLane s d a p src j rnd =
    match typeFmt (typeNow s) with
    | some f => rounded f s.core.regs.mode rnd (if typeNow s = 10
        then (exDiv (cvtValue s a src (cvtSbase s p src + j)) (scaleValue ((scalesOf s d)[(cvtDbase s p src + j) / 32]?.getD 0))).1
        else cvtValue s a src (cvtSbase s p src + j), 0) (cvtSnan s a src (cvtSbase s p src + j))
    | none => if isFloat src.toNat then intFromFloat (typeNow s) (mRm s.core.regs.mode) rnd (cvtValue s a src (cvtSbase s p src + j))
      else intResult (typeNow s) (mSat s.core.regs.mode)
        (intElem src.toNat (lane (vNow s a) (typeBits src.toNat) (cvtSbase s p src + j))) := by
  unfold cvtLane
  rw [cvtSource_eq h]
  unfold cvtResult
  cases typeFmt (typeNow s) with
  | some f =>
    have hd : typeNow s = 10 → d ≠ 31 := by
      have hm := (modeOk_vcvt h).1
      unfold cvtOk at hm
      simp only [Bool.and_eq_true, Bool.not_eq_true', Bool.and_eq_false_iff, beq_eq_false_iff_ne] at hm
      exact fun ht => hm.2.elim (fun hn => absurd ht hn) id
    have hz (x : Flags) : x ||| 0 = x := BitVec.or_zero
    dsimp only [rounded]
    rw [hz]
    by_cases ht : typeNow s = 10
    · rw [if_pos ht, if_pos ht, if_neg (hd ht)]
    · rw [if_neg ht, if_neg ht]
  | none =>
    dsimp only
    by_cases hf : isFloat src.toNat = true
    · rw [if_pos hf, if_pos hf]
    · rw [if_neg hf, if_neg hf]
      have hn : typeFmt src.toNat = none := typeFmt_none (by simpa using hf)
      unfold cvtValue
      rw [hn]
      refine congrArg (intResult (typeNow s) (mSat s.core.regs.mode)) ?_
      simp only [decide_eq_true_eq]
      split <;> omega

/-- The destination element of an active position is its result (R263). -/
theorem lane_cvtLanes (h : modeOk s.core.regs.mode (.vcvt d a p src) = true) (rs : List Nat) {j : Nat} (hj : j < cvtCount s src)
    (ha : (activeNow s).getLsbD j = true) : lane (ofLanes (typeBits (typeNow s)) (cvtLanes s d p src rs)) (typeBits (typeNow s))
      (cvtDbase s p src + j) = laneOf rs j % 2 ^ typeBits (typeNow s) := by
  have hk := cvtDbase_lt h hj
  refine (lane_computed (typeBits (typeNow s)) _ hk).trans ?_
  have hp : cvtPos (cvtDbase s p src) (cvtCount s src) (activeNow s) (cvtDbase s p src + j) = some j := by
    unfold cvtPos
    rw [Nat.add_sub_cancel_left, ha, if_pos (by simp; omega)]
  rw [hp]

/-- Every other element keeps its value (R263). -/
theorem lane_cvtLanes_other (rs : List Nat) {k : Nat} (hk : k < 512 / typeBits (typeNow s))
    (hn : ∀ j, j < cvtCount s src → (activeNow s).getLsbD j = true → k ≠ cvtDbase s p src + j) :
    lane (ofLanes (typeBits (typeNow s)) (cvtLanes s d p src rs)) (typeBits (typeNow s)) k = lane (oldV s d) (typeBits (typeNow s)) k := by
  refine (lane_computed (typeBits (typeNow s)) _ hk).trans ?_
  have hp : cvtPos (cvtDbase s p src) (cvtCount s src) (activeNow s) k = none := by
    unfold cvtPos
    refine if_neg fun hc => ?_
    simp only [Bool.and_eq_true, decide_eq_true_eq] at hc
    exact hn (k - cvtDbase s p src) (by omega) hc.2 (by omega)
  rw [hp]
  exact lane_mod _ _ _

/-- A write of lanes by a turn. -/
theorem writeLanes_appended (s : State) (i : Instr) (d : Reg) (w : Nat) (act : Word) (new : List Nat) :
    writeLanes (appended s i) (capture s i) d w act new = tookV (appended s i) s.core.q.qnext d
      (ofLanes w ((List.range (laneCount w)).map fun j => if act.getLsbD j then laneOf new j else lane (oldV s d) w j)) := by
  unfold writeLanes tookV oldV
  by_cases hd : d = 31
  · simp only [if_pos hd]
    rfl
  · simp only [if_neg hd]
    rfl

/-- A write of a v destination leaves FFLAGS and SRSEED. -/
theorem tookV_flags (s : State) (i : Instr) (n : Nat) (d : Reg) (v : VWord) : tookV (appended s i) n d v =
    setRegs (tookV (appended s i) n d v)
      { (tookV (appended s i) n d v).core.regs with fflags := s.core.regs.fflags, srseed := s.core.regs.srseed } := by
  unfold tookV
  split <;> rfl

/-- An instruction whose turn writes lanes and no more. -/
theorem onlyV_of_lanes {i : Instr} {w : Nat} {f : Nat → Nat} {new : List Nat} (h : ReadyQ i s) (he : isEarlyLoad i = false)
    (hs : takesSdq i = false) (hx : exec i s = .next (enqueue s i))
    (hr : runEntry (capture s i) (appended s i) = .done (writeLanes (appended s i) (capture s i) d w (activeNow s) new))
    (hf : ∀ j, j < laneCount w → laneOf new j = f j) : ∃ t, exec i s = .next t ∧ OnlyV i s t d ∧ t.core.regs.fflags = s.core.regs.fflags ∧
      t.core.regs.srseed = s.core.regs.srseed ∧ LanesAre s t d w (activeNow s) f := by
  obtain ⟨t, ht, ho, hv, hfl, hseed⟩ := onlyV_of h he hs hx
    (hr.trans (by rw [writeLanes_appended]; exact congrArg RunRes.done (tookV_flags s i s.core.q.qnext d _)))
  refine ⟨t, ht, ho, hfl, hseed, fun j hj => ?_⟩
  rw [hv, lane_computed w _ hj]
  by_cases ha : (activeNow s).getLsbD j = true
  · rw [if_pos ha, if_pos ha, hf j hj]
  · rw [if_neg ha, if_neg ha, lane_mod]

end

end Sys2Proof.Machine

section

open Sys2Proof Sys2Proof.Machine

/-- Settles O31, by the elements of VCVT and the codes of VCVTN and LDCB. -/
theorem conversions : Obligations.Conversions := by
  refine ⟨fun s d a p src => ?_, fun s d a b h1 f => ?_⟩
  · intro i m ty wd ws n sbase dbase scale elem value sn result h _
    have hres (j rnd : Nat) : cvtLane s d a p src j rnd = result j rnd := cvtLane_eq h.2.2.1 j rnd
    obtain ⟨t, ht, ho, hv, hfl, hseed⟩ := onlyV_of h rfl rfl rfl (effVcvt_eq h)
    refine ⟨t, ht, ho, hseed, fun j hj ha => ?_, fun k hk hn => ?_, fun b => ?_⟩
    · rw [hv]
      refine (lane_cvtLanes h.2.2.1 _ hj ha).trans ?_
      rw [List.map_map, laneOf_map (n := cvtCount s src) _ hj]
      exact congrArg (fun r : Nat × Flags => r.1 % 2 ^ wd) (hres j _)
    · rw [hv, lane_cvtLanes_other _ hk hn]
    · rw [hfl, BitVec.getLsbD_or, Bool.or_eq_true, unionFlags_bit]
      simp only [hres]
      rfl
  · intro code4 code6 to8 value
    refine ⟨fun h => ?_, fun h => ?_⟩
    · refine onlyV_of_lanes h rfl rfl rfl (Eq.refl (effVcvtn _ d a h1 f _)) fun j hj => ?_
      rw [vSrc_named h (List.mem_singleton_self a), laneOf_map (n := 64) _ hj]
      have hf : f = 0 ∨ f = 1 ∨ f = 2 ∨ f = 3 := by bv_omega
      rcases hf with rfl | rfl | rfl | rfl <;> rfl
    · refine ⟨_, yields_of (f := fun u => setVec u { u.core.vec with codebook := _ }) h rfl rfl rfl (Eq.refl (effLdcb _ a b _))
        (appended_kept h) fun _ _ _ => rfl, fun c hc => ?_⟩
      have ha : (capture s (.ldcb a b)).x a = xr s a := capture_x s List.mem_cons_self
      have hb : (capture s (.ldcb a b)).x b = xr s b := capture_x s (List.mem_cons_of_mem a (List.mem_singleton_self b))
      rw [ha, hb, Vector.getElem?_ofFn, Vector.getElem?_ofFn, dif_pos (by omega), dif_pos (by omega)]
      dsimp only
      rw [if_pos hc, if_neg (by omega), Nat.add_sub_cancel]
      exact ⟨rfl, rfl⟩

end

namespace Sys2Proof.Machine

/-! ## The enqueue of a queued instruction and its turn (R138, R161, R252) -/

/-- A queued instruction is enqueued (R161). -/
theorem exec_queued {i : Instr} (h : (unitOf i).isSome = true) (s : State) : exec i s = .next (enqueue s i) := by
  cases i <;> cases h <;> rfl

section
variable {i : Instr} {s u : State}

/-- An enqueue on a ready strand that the mode word does not allow (R138). -/
theorem enqueue_illegal (h : Quiet s) (hm : modeOk s.core.regs.mode i = false) : enqueue s i = settle (raiseTrap s 2 (ownWord i)) := by
  unfold enqueue
  rw [whenLogged_idle h.1, if_pos (by rw [hm]; rfl)]
  rfl

/-- An enqueue that breaks a count (R252). -/
theorem enqueue_counted {n : Nat} (h : Quiet s) (hm : modeOk s.core.regs.mode i = true) (hn : enqueueSub s i = some n) :
    enqueue s i = settle (raiseTrap s 14 (subcode n 0)) := by
  unfold enqueue
  rw [whenLogged_idle h.1, if_neg (by rw [hm]; decide), whenReady_idle h.1 h.2.2.2, hn, subcode, Nat.zero_mod, Nat.add_zero]

/-- An enqueue that passes its checks appends the instruction. -/
theorem enqueue_appends (h : Ready s) (hm : modeOk s.core.regs.mode i = true) (hn : enqueueSub s i = none) (he : isEarlyLoad i = false) :
    enqueue s i = settle (appended s i) := by
  obtain ⟨hq, -, -, hr⟩ := h.1
  unfold enqueue
  rw [whenLogged_idle hq, if_neg (by rw [hm]; decide), whenReady_idle hq hr, hn]
  dsimp only
  rw [waitQueue_met (fun t => roomFor t i) (by simp [roomFor, hq, he, Config.queueDepth])]
  dsimp only
  rw [append_appended h he]

/-- With no store and no remote request outstanding, the pace of a queue that holds no more than it keeps back leaves all as it is. -/
theorem settle_within {t : State} (hq : t.core.q.queue.length ≤ t.pace.queue) (hs : t.core.q.sb = []) (hr : t.core.q.remote = []) :
    settle t = t := by
  have hd : drainTo t.pace.queue t = .clear t := waitQueue_met _ (by simpa using hq)
  unfold settle
  rw [hd]
  simp only [DrainRes.state, hs, hr, List.length_nil, drainSb, drainRemote]

/-- Nothing runs ahead of the only queued instruction. -/
theorem aheadFrom_single (s : State) (p : Instr → Bool) (e : QEntry) : aheadFrom s p [] [e] = none := by
  unfold aheadFrom
  split
  · rfl
  · rfl

/-- The turn of the only queued instruction has not started. -/
theorem settle_blocked {t : State} {e : QEntry} (hq : t.core.q.queue = [e]) (ha : e.ahead = none) (hp : t.pace.queue = 0)
    (hr : runEntry e t = .blocked u) (hu : u.core.q.queue = [e]) : settle t = paced u := by
  have hrun : runQueue t = .blocked u := by
    unfold runQueue runHead
    simp only [hq, ha, hr, hu, aheadFrom_single]
  have hd : drainTo t.pace.queue t = .blocked u := by
    unfold drainTo waitQueue queueFuel
    rw [hp, hq]
    show drainUntil _ (2 + 1) t = _
    unfold drainUntil
    rw [if_neg (by simp [hq]), hrun]
  unfold settle
  rw [hd]
  rfl

end

end Sys2Proof.Machine

section

open Sys2Proof Sys2Proof.Machine

/-- Settles O27, by the checks of the enqueue and the ways its turn ends. -/
theorem queuedInstructions : Obligations.QueuedInstructions := by
  refine ⟨fun s i h hi => ⟨fun hm => ?_, fun n hm hn => ?_, fun hm hn he hp => ?_⟩, fun s i hi h he =>
    ⟨fun u hr hk => ?_, fun u t keep hr => ?_, fun u hr hu => ?_⟩⟩
  · exact traps_of_settle h.1 ((exec_queued hi s).trans (congrArg Host.Outcome.next (enqueue_illegal h.1 hm)))
  · exact traps_of_settle h.1 ((exec_queued hi s).trans (congrArg Host.Outcome.next (enqueue_counted h.1 hm hn)))
  · rw [exec_queued hi, enqueue_appends h hm hn he]
    exact congrArg Host.Outcome.next (settle_within hp h.1.2.2.1 h.1.2.2.2)
  · exact (exec_queued hi s).trans (congrArg Host.Outcome.next (enqueue_done h he hr hk))
  · exact turnTraps_of h he (exec_queued hi s) hr
  · refine (exec_queued hi s).trans (congrArg Host.Outcome.next ?_)
    rw [enqueue_ready h he]
    exact settle_blocked (e := capture s i) rfl rfl h.2.1 hr hu

end

namespace Sys2Proof.Machine

/-! ## Troughs (R314, R315) -/

/-- An instruction whose turn has not started. -/
theorem turnWaits_of {i : Instr} {s u : State} (h : ReadyQ i s) (he : isEarlyLoad i = false) (hx : exec i s = .next (enqueue s i))
    (hr : runEntry (capture s i) (appended s i) = .blocked u) (hu : u.core.q.queue = [capture s i]) : TurnWaits i s u := by
  unfold TurnWaits
  rw [hx, enqueue_ready h he, settle_blocked (t := appended s i) (e := capture s i) rfl rfl h.2.1 hr hu]

section
variable {s : State} {x v : Reg} {q : BitVec 2}

/-- The base of a ring and its slots fit where TRCFG puts them (R314). -/
def RingFits (s : State) (q : BitVec 2) (base n : Nat) : Prop :=
  n = 0 ∨ (base % 256 = 0 ∧ base + 1280 * n ≤ padBytes (clusterAt s s.core.pos.cluster).split ∧ ringClash s q base (1280 * n) = false)

/-- What TRCFG tests of a ring. -/
theorem ringFits_iff (s : State) (q : BitVec 2) (base n : Nat) :
    (n ≠ 0 && (decide (base % 256 ≠ 0) || decide (padBytes (clusterAt s s.core.pos.cluster).split < base + Config.slotBytes * n) ||
      ringClash s q base (Config.slotBytes * n))) = false ↔ RingFits s q base n := by
  unfold RingFits
  rw [show Config.slotBytes = 1280 from rfl]
  by_cases h0 : n = 0
  · simp [h0]
  · simp [h0, and_assoc]

/-- Does no accepted CPYQ to a trough wait for its slot? -/
def TroughIdle (s : State) (q : BitVec 2) : Prop := ∀ k ∈ (clusterAt s s.core.pos.cluster).cmds, k.trough ≠ some q

theorem troughIdle_iff (s : State) (q : BitVec 2) :
    ((clusterAt s s.core.pos.cluster).cmds.any fun k => k.trough == some q) = false ↔ TroughIdle s q := by
  simp [TroughIdle]

/-- The turn of TRCFG. -/
theorem runEntry_trcfg (s : State) (x v : Reg) (q : BitVec 2) :
    runEntry (capture s (.trcfg x v q)) (appended s (.trcfg x v q)) =
      if ((clusterAt s s.core.pos.cluster).cmds.any fun k => k.trough == some q) = true then .blocked (appended s (.trcfg x v q))
      else if 255 < (xr s v).toNat then .trap (appended s (.trcfg x v q)) ⟨22, q.setWidth 64⟩ false
      else if ((xr s v).toNat ≠ 0 && (decide ((xr s x).toNat % 256 ≠ 0) ||
          decide (padBytes (clusterAt s s.core.pos.cluster).split < (xr s x).toNat + Config.slotBytes * (xr s v).toNat) ||
          ringClash s q (xr s x).toNat (Config.slotBytes * (xr s v).toNat))) = true then .trap (appended s (.trcfg x v q)) ⟨22, q.setWidth 64⟩ false
      else .done (dropCopies (setTrough (appended s (.trcfg x v q)) s.core.pos.cluster q
        { base := (xr s x).toNat, nslot := (xr s v).toNat, head := 0, tail := 0, res := 0, gens := List.replicate (xr s v).toNat 0, written := [] })
        s.core.pos.cluster q) := by
  have hx : (capture s (.trcfg x v q)).x x = xr s x := capture_x s List.mem_cons_self
  have hv : (capture s (.trcfg x v q)).x v = xr s v := capture_x s (List.mem_cons_of_mem x (List.mem_singleton_self v))
  show effTrcfg (capture s (.trcfg x v q)) x v q (appended s (.trcfg x v q)) = _
  unfold effTrcfg
  rw [hx, hv]
  rfl

/-- The matrix state of a core without the copies of a trough of its cluster. -/
def matWithout (k : Core) (c : ClusterPos) (q : BitVec 2) : MatRegs :=
  if k.pos.cluster = c then { k.mat with stat := k.mat.stat.filter fun t => t.trough != q } else k.mat

/-- Discarding the copies of a trough changes the matrix state of cores alone (R314). -/
theorem dropCopies_eq (s : State) (c : ClusterPos) (q : BitVec 2) : dropCopies s c q =
    { s with core := { s.core with mat := matWithout s.core c q }, others := s.others.map fun k => { k with mat := matWithout k c q } } := by
  have hk (k : Core) : (if k.pos.cluster = c then { k with mat := { k.mat with stat := k.mat.stat.filter fun t => t.trough != q } } else k) =
      { k with mat := matWithout k c q } := by
    unfold matWithout
    split <;> rfl
  unfold dropCopies mapCores
  simp only [hk]

/-- TRCFG sets the trough up (R314). -/
theorem yields_trcfg (h : ReadyQ (.trcfg x v q) s) {t : Trough} {c : ClusterPos}
    (hr : runEntry (capture s (.trcfg x v q)) (appended s (.trcfg x v q)) = .done (dropCopies (setTrough (appended s (.trcfg x v q)) c q t) c q)) :
    Yields (.trcfg x v q) s fun u => dropCopies (setTrough u c q t) c q := by
  refine yields_of (f := fun u => dropCopies (setTrough u c q t) c q) h rfl rfl rfl hr ?_ fun reqs rcnt u => ?_
  · rw [dropCopies_eq]
    exact appended_kept h
  · rw [dropCopies_eq, dropCopies_eq]
    rfl

end

end Sys2Proof.Machine

section

open Sys2Proof Sys2Proof.Machine

/-- Settles O41, by the outcomes of each turn. -/
theorem troughs : Obligations.Troughs := by
  intro s x v q c base n cfg pop t idle fits
  have hi : TroughIdle s q ↔ idle := Iff.rfl
  have hf : RingFits s q base n ↔ fits := Iff.rfl
  have hidle (h : idle) : ¬((clusterAt s s.core.pos.cluster).cmds.any fun k => k.trough == some q) = true := by
    rw [(troughIdle_iff s q).2 h]; exact Bool.false_ne_true
  refine ⟨fun h hn hl hfit => yields_trcfg h ?_, fun h hn hbad => ?_, fun h hn => ?_, fun h h0 hl => ?_, fun h h0 hl => ?_, fun h h0 => ?_, fun h => ?_⟩
  · rw [runEntry_trcfg, if_neg (hidle hn), if_neg (Nat.not_lt.2 hl), if_neg]
    rw [(ringFits_iff s q _ _).2 hfit]
    exact Bool.false_ne_true
  · refine turnTraps_of h rfl rfl ?_
    rw [runEntry_trcfg, if_neg (hidle hn)]
    by_cases hl : 255 < (xr s v).toNat
    · rw [if_pos hl]
    · rw [if_neg hl, if_pos]
      rw [← Bool.not_eq_false, ringFits_iff]
      exact hbad.resolve_left hl
  · refine turnWaits_of h rfl rfl ?_ rfl
    rw [runEntry_trcfg, if_pos]
    rw [← Bool.not_eq_false, troughIdle_iff]
    exact hn
  · exact yields_of (f := fun u => setTrough u c q { t with head := t.head + 1 }) h rfl rfl rfl
      ((if_neg h0).trans (if_neg (Nat.not_le.2 hl))) (appended_kept h) fun _ _ _ => rfl
  · exact turnWaits_of h rfl rfl ((if_neg h0).trans (if_pos hl)) rfl
  · exact turnTraps_of h rfl rfl (if_pos h0)
  · refine yieldsX_setX h rfl rfl rfl ?_
    show RunRes.done (setX _ x (trstatWord t)) = _
    unfold trstatWord
    by_cases h0 : t.nslot = 0
    · rw [if_pos h0, if_pos h0]
    · rw [if_neg h0, if_neg h0, headSlot, if_neg h0]

end

namespace Sys2Proof.Machine

/-! ## Negotiation groups (R347 to R352) -/

/-- A trap of a group that names no column (R352). -/
theorem negTrap_zero (sub : Nat) (n : BitVec 2) : negTrap sub 0 n = subTrap 17 sub n.toNat := by
  rw [negTrap, Nat.zero_mul, Nat.zero_add]

/-- An instruction whose turn writes a group. -/
theorem yields_setGroup {i : Instr} {s : State} {c : ClusterPos} {n : BitVec 2} {g : NegGroup} (h : ReadyQ i s) (he : isEarlyLoad i = false)
    (hs : takesSdq i = false) (hx : exec i s = .next (enqueue s i))
    (hr : runEntry (capture s i) (appended s i) = .done (setGroup (appended s i) c n g)) : Yields i s fun u => setGroup u c n g :=
  yields_of h he hs hx hr (appended_kept h) fun _ _ _ => rfl

section
variable (s : State) (x : Reg) (n : BitVec 2)

/-- The turn of NGJOIN, its operand read. -/
theorem runEntry_ngjoin : runEntry (capture s (.ngjoin x n)) (appended s (.ngjoin x n)) =
    if (decide ((xr s x).toNat < 2) || decide (64 < (xr s x).toNat) || inSomeGroup s s.core.pos) = true then
      .trap (appended s (.ngjoin x n)) (subTrap 17 1 n.toNat) false
    else if (groupAt s s.core.pos.cluster n).count = 0 then
      .done (setGroup (appended s (.ngjoin x n)) s.core.pos.cluster n { NegGroup.reset with count := (xr s x).toNat, members := [s.core.pos] })
    else if (decide ((xr s x).toNat ≠ (groupAt s s.core.pos.cluster n).count) ||
        decide ((groupAt s s.core.pos.cluster n).count ≤ (groupAt s s.core.pos.cluster n).members.length) ||
        decide (0 < (groupAt s s.core.pos.cluster n).round) || !(groupAt s s.core.pos.cluster n).left.isEmpty) = true then
      .trap (appended s (.ngjoin x n)) (subTrap 17 1 n.toNat) false
    else .done (setGroup (appended s (.ngjoin x n)) s.core.pos.cluster n
      { groupAt s s.core.pos.cluster n with members := (groupAt s s.core.pos.cluster n).members ++ [s.core.pos] }) := by
  have hx : (capture s (.ngjoin x n)).x x = xr s x := capture_x s List.mem_cons_self
  show effNgjoin (capture s (.ngjoin x n)) x n (appended s (.ngjoin x n)) = _
  unfold effNgjoin
  rw [hx, negTrap_zero]
  rfl

/-- The turn of FCOLN on an open set and a column that is not done. -/
theorem runEntry_fcoln (ho : s.core.mat.fset.isOpen = true) (hd : s.core.mat.fset.done.getLsbD ((xr s x).toNat % 16) = false) :
    runEntry (capture s (.fcoln x n)) (appended s (.fcoln x n)) =
    if (!(groupAt s s.core.pos.cluster n).members.contains s.core.pos) = true then
      .trap (appended s (.fcoln x n)) (negTrap 4 ((xr s x).toNat % 16) n) false
    else if ((groupAt s s.core.pos.cluster n).broken || !(groupAt s s.core.pos.cluster n).left.isEmpty) = true then
      .trap (dropPosts (appended s (.fcoln x n)) s.core.pos) (negTrap 2 ((xr s x).toNat % 16) n) false
    else if ((groupAt s s.core.pos.cluster n).posts.any fun q => q.core == s.core.pos) = true then .blocked (appended s (.fcoln x n))
    else .blocked (setGroup (appended s (.fcoln x n)) s.core.pos.cluster n { groupAt s s.core.pos.cluster n with
      posts := (groupAt s s.core.pos.cluster n).posts ++ [roundPost s (capture s (.fcoln x n)) ((xr s x).toNat % 16)] }) := by
  have hx : (capture s (.fcoln x n)).x x = xr s x := capture_x s List.mem_cons_self
  show effFcoln (capture s (.fcoln x n)) x n (appended s (.fcoln x n)) = _
  unfold effFcoln
  rw [hx]
  dsimp only
  rw [columnTrap_none (s := appended s (.fcoln x n)) ho hd]
  rfl

end

end Sys2Proof.Machine

section

open Sys2Proof Sys2Proof.Machine

/-- Settles O40, by the outcomes of each turn. -/
theorem negotiationGroups : Obligations.NegotiationGroups := by
  intro s x n p c g joins leaves col f post free refused ok
  have hfree : (decide (c < 2) || decide (64 < c) || inSomeGroup s p) = false ↔ free := by
    rw [Bool.or_eq_false_iff, Bool.or_eq_false_iff, decide_eq_false_iff_not, decide_eq_false_iff_not, Nat.not_lt, Nat.not_lt, and_assoc]
  have hfull : (decide (c ≠ g.count) || decide (g.count ≤ g.members.length) || decide (0 < g.round) || !g.left.isEmpty) = true ↔
      (c ≠ g.count ∨ g.count ≤ g.members.length ∨ 0 < g.round ∨ g.left ≠ []) := by
    simp [or_assoc]
  have hmem : g.members.contains p = true ↔ p ∈ g.members := List.contains_iff_mem
  refine ⟨fun h hf h0 => yields_setGroup h rfl rfl rfl ?_, fun h hr h0 => yields_setGroup h rfl rfl rfl ?_, fun h hr => turnTraps_of h rfl rfl ?_,
    fun h hm => yields_setGroup h rfl rfl rfl (if_pos (hmem.2 hm)), fun h hm => ?_, fun h ho hm hb hl hp => turnWaits_of h rfl rfl ?_ rfl,
    fun h ho hm => turnTraps_of h rfl rfl ?_, fun h ho hm hb => turnTraps_of h rfl rfl ?_⟩
  · rw [runEntry_ngjoin, if_neg (by rw [hfree.2 hf]; exact Bool.false_ne_true), if_pos h0]
  · rw [not_or, not_not, not_and] at hr
    rw [runEntry_ngjoin, if_neg (by rw [hfree.2 hr.1]; exact Bool.false_ne_true), if_neg h0, if_neg (fun hc => hr.2 h0 (hfull.1 hc))]
  · rw [runEntry_ngjoin]
    by_cases hf : free
    · obtain ⟨h0, hc⟩ := hr.resolve_left (not_not.2 hf)
      rw [if_neg (by rw [hfree.2 hf]; exact Bool.false_ne_true), if_neg h0, if_pos (hfull.2 hc)]
    · rw [if_pos (by rw [← Bool.not_eq_false, hfree]; exact hf)]
  · refine turnTraps_of h rfl rfl ((if_neg fun hc => hm (hmem.1 hc)).trans ?_)
    rw [negTrap_zero]
  · rw [runEntry_fcoln s x n ho.1 ho.2, if_neg (by rw [hmem.2 hm]; decide), if_neg (by rw [hb, hl]; decide), if_neg]
    simpa using hp
  · rw [runEntry_fcoln s x n ho.1 ho.2, if_pos]
    · rfl
    · simpa using hm
  · rw [runEntry_fcoln s x n ho.1 ho.2, if_neg (by rw [hmem.2 hm]; decide), if_pos]
    · rfl
    · simpa using hb

end

namespace Sys2Proof.Machine

/-! ## CPY, CPYQ and ENGST (R305, R306, R312) -/

/-- An instruction whose turn completes. -/
theorem turnMakes_of {i : Instr} {s u : State} (h : ReadyQ i s) (he : isEarlyLoad i = false) (hx : exec i s = .next (enqueue s i))
    (hr : runEntry (capture s i) (appended s i) = .done u) (hk : KeptQueues (capture s i) u) : TurnMakes i s u :=
  hx.trans (congrArg Host.Outcome.next (enqueue_done h he hr hk))

/-- With no store outstanding no older one has to leave. -/
theorem olderStoresOut_appended {i : Instr} {s : State} (h : ReadyQ i s) : olderStoresOut (appended s i) = appended s i := by
  have hs : (appended s i).core.q.sb = [] := h.1.1.2.2.1
  unfold olderStoresOut
  rw [hs]
  rfl

section
variable {i : Instr} {s : State} {a : Reg} {tr : Option (BitVec 2)} {tag : BitVec 32} {sc : BitVec 2}

/-- The command of an instruction that the strand enqueues now (R305). -/
def copyCommand (s : State) (tr : Option (BitVec 2)) (tag : BitVec 32) (sc : BitVec 2) : CopyCmd :=
  { core := s.core.pos, lid := s.core.lid, vf := s.core.vf, fold := s.core.fold, level := s.core.regs.level, scope := sc, trough := tr, tag := tag,
    early := none, desc := .empty, slot := none, index := 0, flags := 0, region := [], failedVa := 0, status := none, orphan := false }

/-- Room for a command and its message (R305, R306). -/
def CopyRoom (s : State) : Prop :=
  s.core.sync.outstanding + s.core.sync.inbox.length < 16 ∧ (clusterAt s s.core.pos.cluster).cmds.length < 64

theorem copyRoom_iff (s : State) : (decide (Config.inboxDepth ≤ s.core.sync.outstanding + s.core.sync.inbox.length) ||
    decide (Config.commandQueueDepth ≤ (clusterAt s s.core.pos.cluster).cmds.length)) = false ↔ CopyRoom s := by
  rw [Bool.or_eq_false_iff, decide_eq_false_iff_not, decide_eq_false_iff_not, Nat.not_le, Nat.not_le]
  rfl

/-- The trough of a CPYQ is not configured (R306). -/
def TroughUnset (s : State) (tr : Option (BitVec 2)) : Prop := ∃ t, tr = some t ∧ (myTrough s t).nslot = 0

/-- A command is accepted with its descriptor, and with an early status where its trough is not configured (R305, R306). -/
theorem acceptCopy_accepts {u : State} {early e1 : Option Nat} {desc : Descriptor} {k1 : CopyCmd} (h : ReadyQ i s)
    (hx : (capture s i).x a = xr s a) (hroom : CopyRoom s) (hf : fetchDescriptor (appended s i) (copyCommand s tr tag sc) (xr s a) = (u, some (early, desc)))
    (hk : k1 = { copyCommand s tr tag sc with early := e1, desc := desc }) (hu : TroughUnset s tr → e1 = some 7)
    (hn : ¬TroughUnset s tr → e1 = early) (hr : ∀ r ∈ cmdRanges k1, rangeHeld u r = false) :
    let v := setCluster u { clusterAt u s.core.pos.cluster with cmds := (clusterAt u s.core.pos.cluster).cmds ++ [k1] }
    acceptCopy (capture s i) a tr tag sc (appended s i) = .done (setSync v { v.core.sync with outstanding := v.core.sync.outstanding + 1 }) := by
  intro v
  have hc : newCommand (appended s i) (capture s i) tr tag sc = copyCommand s tr tag sc := rfl
  have hheld : ¬((cmdRanges k1).any (rangeHeld u)) = true := by
    rw [Bool.not_eq_true, List.any_eq_false]
    exact fun r hm => by rw [hr r hm]; exact Bool.false_ne_true
  unfold acceptCopy
  rw [olderStoresOut_appended h, hx]
  refine (if_neg ?_).trans ?_
  · rw [Bool.not_eq_true]
    exact (copyRoom_iff s).2 hroom
  · dsimp only
    rw [hc, hf]
    dsimp only
    cases tr with
    | none =>
      dsimp only
      rw [if_neg Bool.false_ne_true, ← hn (fun ⟨_, ht, _⟩ => nomatch ht), ← hk]
      exact if_neg hheld
    | some q =>
      dsimp only
      have he : (if ((troughAt (appended s i) (appended s i).core.pos.cluster q).nslot == 0) = true then some 7 else early) = e1 := by
        by_cases h0 : (myTrough s q).nslot = 0
        · rw [hu ⟨q, rfl, h0⟩]
          exact if_pos (beq_iff_eq.2 h0)
        · rw [hn fun ⟨t, ht, h1⟩ => h0 (by cases ht; exact h1)]
          exact if_neg fun hb => h0 (beq_iff_eq.1 hb)
      rw [he, ← hk]
      exact if_neg hheld

/-- With no room the command waits (R306). -/
theorem acceptCopy_waits (h : ReadyQ i s) (hroom : ¬CopyRoom s) :
    acceptCopy (capture s i) a tr tag sc (appended s i) = .blocked (appended s i) := by
  unfold acceptCopy
  rw [olderStoresOut_appended h]
  refine if_pos ?_
  rw [← Bool.not_eq_false]
  exact fun hc => hroom ((copyRoom_iff s).1 hc)

end

/-! ## The exchange phase (R404 to R406) -/

section
variable {s : State} {a b d : Reg} {c0 : Nat}

/-- The captured send cycle of an XSEND is that of its operand. -/
theorem sendCycle_capture (s : State) (a b : Reg) : sendCycle (capture s (.xsend a b)) b = (xr s b).toNat % 2 ^ 32 := by
  unfold sendCycle
  rw [capture_x s (i := .xsend a b) List.mem_cons_self, BitVec.extractLsb'_toNat, Nat.shiftRight_zero]

/-- The trap of an XSEND or XSEL names its send cycle (R406). -/
theorem exchTrap_mod (sub n : Nat) : exchTrap sub (n % 2 ^ 32) = subTrap 19 sub (n % 2 ^ 32) := by
  unfold exchTrap
  rw [Nat.mod_mod]

/-- The phase cycle at the turn of a queued instruction (R403). -/
theorem phaseCycle_appended (s : State) (i : Instr) : phaseCycle (appended s i) (appended s i).core =
    s.core.sync.phase.map fun c => (s.now : Int) - (c : Int) - 1 := rfl

/-- The turn of an XSEND outside a phase. -/
theorem runEntry_xsend_closed (hp : s.core.sync.phase = none) : runEntry (capture s (.xsend a b)) (appended s (.xsend a b)) =
    .trap (appended s (.xsend a b)) (subTrap 19 4 ((xr s b).toNat % 2 ^ 32)) false := by
  have hc : phaseCycle (appended s (.xsend a b)) (appended s (.xsend a b)).core = none := by
    rw [phaseCycle_appended, hp]; rfl
  show effXsend (capture s (.xsend a b)) a b (appended s (.xsend a b)) = _
  unfold effXsend
  rw [hc, sendCycle_capture]
  dsimp only
  rw [exchTrap_mod]

/-- The turn of an XSEND in a phase. -/
theorem runEntry_xsend (hp : s.core.sync.phase = some c0) : runEntry (capture s (.xsend a b)) (appended s (.xsend a b)) =
    if (((xr s b).toNat % 2 ^ 32 : Nat) : Int) < (s.now : Int) - c0 - 1 then
      .trap (appended s (.xsend a b)) (subTrap 19 2 ((xr s b).toNat % 2 ^ 32)) false
    else .blocked (appended s (.xsend a b)) := by
  have hc : phaseCycle (appended s (.xsend a b)) (appended s (.xsend a b)).core = some ((s.now : Int) - c0 - 1) := by
    rw [phaseCycle_appended, hp]; rfl
  show effXsend (capture s (.xsend a b)) a b (appended s (.xsend a b)) = _
  unfold effXsend
  rw [hc, sendCycle_capture]
  dsimp only
  rw [exchTrap_mod]

/-- Is a vector of the exchange the one that an XSEL of source operand n names, in the phase that began at c0 (R405)? -/
def Sought (s : State) (n c0 : Nat) (v : XSend) : Prop :=
  v.die = s.core.pos.die ∧ v.cx = n % 16 ∧ v.cy = n / 16 % 8 ∧ v.cycle = n / 2 ^ 16 % 2 ^ 32 ∧ v.lid = s.core.lid ∧ v.phase = c0

/-- The test of XSEL on a vector of the exchange. -/
def seeks (s : State) (n c0 : Nat) (v : XSend) : Bool :=
  v.die == s.core.pos.die && v.cx == n % 16 && v.cy == n / 16 % 8 && v.cycle == n / 2 ^ 16 % 2 ^ 32 && v.lid == s.core.lid &&
    some c0 == some v.phase

theorem seeks_iff (s : State) (n c0 : Nat) (v : XSend) : seeks s n c0 v = true ↔ Sought s n c0 v := by
  simp only [seeks, Sought, Bool.and_eq_true, beq_iff_eq, Option.some.injEq, and_assoc, eq_comm (a := c0)]

/-- The vector that the arrival buffer holds for an XSEL (R405). -/
def arrived (s : State) (n c0 : Nat) : Option XSend :=
  if clusterEnabled s ⟨s.core.pos.die, n % 16, n / 16 % 8⟩ then s.fabric.find? (seeks s n c0) else none

/-- The only sought vector is the one that has arrived. -/
theorem arrived_unique {n : Nat} {w : XSend} (hon : clusterEnabled s ⟨s.core.pos.die, n % 16, n / 16 % 8⟩ = true) (hw : w ∈ s.fabric)
    (hm : Sought s n c0 w) (hu : ∀ v ∈ s.fabric, Sought s n c0 v → v = w) : arrived s n c0 = some w := by
  obtain ⟨v, hv⟩ := Option.isSome_iff_exists.1 (List.find?_isSome.2 ⟨w, hw, (seeks_iff s n c0 w).2 hm⟩)
  rw [arrived, if_pos hon, hv, hu v (List.mem_of_find?_eq_some hv) ((seeks_iff s n c0 v).1 (List.find?_some hv))]

/-- No vector arrives from a cluster that is off, or where none is sought. -/
theorem arrived_none {n : Nat} (h : clusterEnabled s ⟨s.core.pos.die, n % 16, n / 16 % 8⟩ = false ∨ ∀ v ∈ s.fabric, ¬Sought s n c0 v) :
    arrived s n c0 = none := by
  unfold arrived
  rcases h with hoff | hno
  · rw [if_neg (by rw [hoff]; exact Bool.false_ne_true)]
  · split
    · exact List.find?_eq_none.2 fun v hv hc => hno v hv ((seeks_iff s n c0 v).1 hc)
    · rfl

/-- The phase cycle in which the vector of a source operand arrives (R405). -/
def arrivalCycle (s : State) (n : Nat) : Int :=
  ((n / 2 ^ 16 % 2 ^ 32 + 3 + dist s.core.pos.cx (n % 16) + dist s.core.pos.cy (n / 16 % 8) : Nat) : Int)

/-- The turn of an XSEL outside a phase. -/
theorem runEntry_xsel_closed (hp : s.core.sync.phase = none) : runEntry (capture s (.xsel d a)) (appended s (.xsel d a)) =
    .trap (appended s (.xsel d a)) (subTrap 19 4 ((xr s a).toNat / 2 ^ 16 % 2 ^ 32)) false := by
  have hc : phaseCycle (appended s (.xsel d a)) (appended s (.xsel d a)).core = none := by
    rw [phaseCycle_appended, hp]; rfl
  show effXsel (capture s (.xsel d a)) d a (appended s (.xsel d a)) = _
  unfold effXsel
  rw [hc, capture_x s (i := .xsel d a) List.mem_cons_self]
  dsimp only
  rw [exchTrap_mod]

/-- The turn of an XSEL in a phase. -/
theorem runEntry_xsel (hp : s.core.sync.phase = some c0) : runEntry (capture s (.xsel d a)) (appended s (.xsel d a)) =
    if (s.now : Int) - c0 - 1 < arrivalCycle s (xr s a).toNat then .blocked (appended s (.xsel d a))
    else if arrivalCycle s (xr s a).toNat + 63 < (s.now : Int) - c0 - 1 then
      .trap (appended s (.xsel d a)) (subTrap 19 5 ((xr s a).toNat / 2 ^ 16 % 2 ^ 32)) false
    else match arrived s (xr s a).toNat c0 with
      | some v => .done (tookV (appended s (.xsel d a)) s.core.q.qnext d v.data)
      | none => .trap (appended s (.xsel d a)) (subTrap 19 3 ((xr s a).toNat / 2 ^ 16 % 2 ^ 32)) false := by
  have hc : phaseCycle (appended s (.xsel d a)) (appended s (.xsel d a)).core = some ((s.now : Int) - c0 - 1) := by
    rw [phaseCycle_appended, hp]; rfl
  have hp' : (appended s (.xsel d a)).core.sync.phase = some c0 := hp
  show effXsel (capture s (.xsel d a)) d a (appended s (.xsel d a)) = _
  unfold effXsel
  rw [hc, capture_x s (i := .xsel d a) List.mem_cons_self, hp']
  dsimp only
  rw [exchTrap_mod, exchTrap_mod]
  refine if_congr Iff.rfl rfl (if_congr Iff.rfl rfl ?_)
  show (match arrived s (xr s a).toNat c0 with | some v => _ | none => _) = _
  cases arrived s (xr s a).toNat c0 <;> rfl

/-- A queued instruction that gives its v destination a value (R251). -/
theorem yields_tookV {i : Instr} {v : VWord} (h : ReadyQ i s) (he : isEarlyLoad i = false) (hs : takesSdq i = false)
    (hx : exec i s = .next (enqueue s i)) (hr : runEntry (capture s i) (appended s i) = .done (tookV (appended s i) s.core.q.qnext d v)) :
    Yields i s fun u => tookV u s.core.q.qnext d v := by
  refine yields_of (f := fun u => tookV u s.core.q.qnext d v) h he hs hx hr ?_ fun reqs rcnt u => ?_
  · unfold tookV
    split <;> exact appended_kept h
  · unfold tookV
    split <;> rfl

end

end Sys2Proof.Machine

section

open Sys2Proof Sys2Proof.Machine

/-- Settles O42, by the outcomes of each turn: the command's acceptance, and the window of an XSEL. -/
theorem copyAndExchange : Obligations.CopyAndExchange := by
  refine ⟨fun s a b d sc => ?_, fun s a b d c0 w => ?_⟩
  · intro c accepts
    have hkept {e : QEntry} {u : State} {cl : Cluster} (hk : KeptQueues e u) :
        KeptQueues e (setSync (setCluster u cl) { (setCluster u cl).core.sync with outstanding := (setCluster u cl).core.sync.outstanding + 1 }) := hk
    have hx (i : Instr) (ha : a ∈ xReadsOf i) : (capture s i).x a = xr s a := capture_x s ha
    refine ⟨fun h => ⟨fun u early desc k1 hroom hf hk hu hn hr hq => ?_, fun hroom => ?_⟩,
      fun h => ⟨fun u early desc k1 hroom hf hk hu hn hr hq => ?_, fun hroom => ?_⟩, fun h => ?_, fun h => ?_⟩
    · refine turnMakes_of h rfl rfl ?_ (hkept hq)
      have hb := capture_x s (i := .cpy a b sc) (r := b) (List.mem_cons_of_mem a (List.mem_singleton_self b))
      show acceptCopy _ a none (((capture s (.cpy a b sc)).x b).extractLsb' 0 32) sc _ = _
      rw [hb]
      exact acceptCopy_accepts h (hx _ List.mem_cons_self) hroom hf hk hu hn hr
    · exact turnWaits_of h rfl rfl (acceptCopy_waits h hroom) rfl
    · refine turnMakes_of h rfl rfl ?_ (hkept hq)
      have hb := capture_x s (i := .cpyq a b sc) (r := b) (List.mem_cons_of_mem a (List.mem_singleton_self b))
      show acceptCopy _ a (some (((capture s (.cpyq a b sc)).x b).extractLsb' 0 2)) (((capture s (.cpyq a b sc)).x b).extractLsb' 2 32) sc _ = _
      rw [hb]
      exact acceptCopy_accepts h (hx _ List.mem_cons_self) hroom hf hk hu hn hr
    · exact turnWaits_of h rfl rfl (acceptCopy_waits h hroom) rfl
    · exact yieldsX_setX h rfl rfl rfl rfl
    · exact yieldsX_setX h rfl rfl rfl rfl
  · intro send sel at_ n cycle p arrive now on mine
    have harr : arrivalCycle s n = arrive := by
      simp only [arrivalCycle, arrive, cycle, p, Nat.cast_add, Nat.cast_ofNat]
    have hafter {t t' : RunRes} (h : arrive ≤ now) : (if now < arrivalCycle s n then t else t') = t' :=
      if_neg (by rw [harr]; exact Int.not_lt.2 h)
    have hwithin {t t' : RunRes} (h : now ≤ arrive + 63) : (if arrivalCycle s n + 63 < now then t else t') = t' :=
      if_neg (by rw [harr]; exact Int.not_lt.2 h)
    refine ⟨fun h hp => turnTraps_of h rfl rfl (runEntry_xsend_closed hp),
      fun h hp hl => turnWaits_of h rfl rfl ((runEntry_xsend hp).trans (if_neg (Int.not_lt.2 hl))) rfl,
      fun h hp hl => turnTraps_of h rfl rfl ((runEntry_xsend hp).trans (if_pos hl)),
      fun h hp => turnTraps_of h rfl rfl (runEntry_xsel_closed hp),
      fun h hp hl => turnWaits_of h rfl rfl ((runEntry_xsel hp).trans (if_pos (by rw [harr]; exact hl))) rfl,
      fun h hp hl => turnTraps_of h rfl rfl ((runEntry_xsel hp).trans ((hafter ?_).trans (if_pos (by rw [harr]; exact hl)))),
      fun h hp hl hr hon hw hm hu => yields_tookV h rfl rfl rfl ((runEntry_xsel hp).trans ((hafter hl).trans ((hwithin hr).trans ?_))),
      fun h hp hl hr hno => turnTraps_of h rfl rfl ((runEntry_xsel hp).trans ((hafter hl).trans ((hwithin hr).trans ?_))),
      fun h => yields_of (f := fun u => setSync u { u.core.sync with phase := none }) h rfl rfl rfl rfl (appended_kept h) fun _ _ _ => rfl⟩
    · omega
    · rw [arrived_unique hon hw hm hu]
    · rw [arrived_none hno]

end

namespace Sys2Proof.Machine

/-! ## The checks of a request frame (R441 to R444) -/

section
variable {s : State} {fr : Frame} {n : String} {act : State → List Byte → Served}

/-- A frame that Benostale takes and whose checks refuse it is answered with their STATUS, and nothing else changes. -/
theorem serve_refused {st : Nat} (h : TakesFrame s fr) (hst : frameStatus s fr = some st) :
    serve n (headerOf fr).code.toNat fr s act = .next (answerFrame s (headerOf fr) st []) := by
  obtain ⟨h5, hp, hj, hb⟩ := h
  have idle : ((headerOf fr).viaPcie && !isSubmitted s fr && (s.svc.busy || s.svc.done)) = false := by
    show (fr.viaPcie && _ && _) = false
    rcases hb with h1 | ⟨_, h1⟩
    · simp [h1]
    · cases hv : fr.viaPcie with
      | false => rfl
      | true => simp [h1 hv]
  have turn : (s.svc.job.isSome || (s.svc.submitted.isSome && !isSubmitted s fr)) = false := by
    rcases hb with h1 | ⟨h1, _⟩ <;> simp [h1, hj]
  unfold serve
  dsimp only
  rw [if_neg (by simp [h5, hp]), idle, if_neg Bool.false_ne_true, turn, if_neg Bool.false_ne_true, hst]

/-- The STATUS of a frame whose layout is broken. -/
theorem frameStatus_layout (h : frameOk fr = false) : frameStatus s fr = some 4 := by
  simp [frameStatus, h]

/-- The STATUS of a frame whose key is not registered. -/
theorem frameStatus_unregistered (h : frameOk fr = true) (hr : registered s (headerOf fr).keyid = none) : frameStatus s fr = some 1 := by
  simp [frameStatus, h, hr]

/-- The STATUS of a frame whose signature is bad. -/
theorem frameStatus_unsigned {k : OperatorKey} {key : PubKey} (h : frameOk fr = true) (hr : registered s (headerOf fr).keyid = some k)
    (hk : k.key = some key) (hs : frameSigned key fr = false) : frameStatus s fr = some 1 := by
  simp [frameStatus, h, hr, hk, hs]

/-- The STATUS of a frame whose COUNT is not above the highest accepted. -/
theorem frameStatus_stale {k : OperatorKey} {key : PubKey} {c : Word} (h : frameOk fr = true)
    (hr : registered s (headerOf fr).keyid = some k) (hk : k.key = some key) (hs : frameSigned key fr = true) (hc : k.count = some c)
    (hle : (headerOf fr).count.toNat ≤ c.toNat) : frameStatus s fr = some 2 := by
  simp [frameStatus, h, hr, hk, hs, isStale, hc, hle]

/-- A frame with a CODE that R441 does not give is served under that CODE. -/
theorem exec_unknownCode (h : (headerOf fr).code.toNat ∉ knownCodes) :
    exec (.unknownCode fr) s = serve "UNKNOWN_CODE" (headerOf fr).code.toNat fr s fun _ _ => .refused 3 :=
  if_neg fun hc => h (List.contains_iff_mem.1 hc)

/-- An unknown CODE whose frame the checks refuse. -/
theorem unknownCode_refused {st : Nat} (h : TakesFrame s fr ∧ (headerOf fr).code.toNat ∉ knownCodes) (hst : frameStatus s fr = some st) :
    Answers (.unknownCode fr) s fr st [] s :=
  answers_of ((exec_unknownCode h.2).trans (serve_refused h.1 hst))

/-- A GO under BUSY or DONE is ignored (R443). -/
theorem serve_ignored (h5 : s.svc.bootStep = 5) (hp : s.svc.powerCycle = false) (hv : fr.viaPcie = true) (hs : isSubmitted s fr = false)
    (hb : s.svc.busy = true ∨ s.svc.done = true) : serve n (headerOf fr).code.toNat fr s act = .next s := by
  have hbusy : (s.svc.busy || s.svc.done) = true := by rw [Bool.or_eq_true]; exact hb
  unfold serve
  dsimp only
  rw [if_neg (by simp [h5, hp]), if_pos]
  show (fr.viaPcie && !isSubmitted s fr && (s.svc.busy || s.svc.done)) = true
  rw [hv, hs, hbusy]
  rfl

end

/-- A body that one field of n bytes fills. -/
theorem parseOnly_eq {n : Nat} {b : List Byte} (h : b.length = n) : parseOnly n b = some (leField b 0 n) := if_pos h

theorem parseOnly_none {n : Nat} {b : List Byte} (h : b.length ≠ n) : parseOnly n b = none := if_neg h

/-- Recording a COUNT leaves the folds. -/
theorem foldAt_counted (s : State) (fr : Frame) (k : OperatorKey) (n : Nat) : foldAt (counted s fr k) n = foldAt s n := rfl

/-- Recording a COUNT leaves the VFs. -/
theorem vfAt_counted (s : State) (fr : Frame) (k : OperatorKey) (n : Nat) : vfAt (counted s fr k) n = vfAt s n := rfl

end Sys2Proof.Machine

section

open Sys2Proof Sys2Proof.Machine

/-- Settles O58, by the STATUS that each check gives. -/
theorem requestChecks : Obligations.RequestChecks := by
  intro s fr h i up
  refine ⟨fun hu hf => unknownCode_refused hu (frameStatus_layout hf), fun hu hf hr => unknownCode_refused hu (frameStatus_unregistered hf hr),
    fun k key hu hf hr hk hs => unknownCode_refused hu (frameStatus_unsigned hf hr hk hs),
    fun k key c hu hf hr hk hs hc hle => unknownCode_refused hu (frameStatus_stale hf hr hk hs hc hle),
    fun k hf hn => answers_of ((exec_unknownCode hn).trans (serve_ok hf _ _)),
    fun k n hf hl => servePar_malformed (Eq.refl (execFolddel fr n s)) hf (parseOnly_none hl), fun k hf hl h0 => ?_,
    fun h5 hp hn hv hs hb => (exec_unknownCode hn).trans (serve_ignored h5 hp hv hs hb)⟩
  refine servePar_refused (Eq.refl (execFolddel fr _ s)) hf (parseOnly_eq hl) ?_
  rw [foldAt_counted, h0]

end

namespace Sys2Proof.Machine

/-! ## Requests about folds and VFs (R441, R445) -/

/-- A short body of numbers fits the response buffer (R443). -/
theorem leBytes_fits {n : Nat} (v : Nat) (h : n ≤ bodyLimit) : (leBytes n v).length ≤ bodyLimit := by
  rw [leBytes_length]
  exact h

/-- The fold found under a number has that number. -/
theorem foldAt_num {s : State} {n : Nat} {f : Fold} (h : foldAt s n = some f) : f.num = n := by
  unfold foldAt at h
  exact beq_iff_eq.1 (List.find?_some (p := fun f : Fold => f.num == n) h)

section
variable {s : State} {fr : Frame} {k : OperatorKey} {i : Instr} {α : Type} [DecidableEq α] {value : List Byte → Option α} {x : α}
  {what len : Nat} {name : String} {change : Fold → Fold} {f : Fold}

/-- A FOLDSET whose body gives its value changes the fold (R445). -/
theorem foldset_done (hx : exec i s = foldset name what len fr value (leField (bodyOf fr) 0 1) x change s) (hf : FrameOk s fr 0x04 k)
    (h0 : foldAt s (leField (bodyOf fr) 0 1) = some f) (hw : leField (bodyOf fr) 1 1 = what) (hle : what ≤ 3) (hl : (bodyOf fr).length = len)
    (hv : value (bodyOf fr) = some x) : Answers i s fr 0 [] (setFold (counted s fr k) (change f)) := by
  refine servePar_done (hx.trans (foldset_serves hw hle _ _ _ _ _ _ _)) hf ?_ ?_ (Nat.zero_le _)
  · unfold parseFoldset
    rw [if_neg (by simp [hl, hw]), hv]
    rfl
  · rw [foldAt_counted, h0]

/-- A WHAT above 3 is malformed (R445). -/
theorem foldset_unknown {n : Nat} {m : BitVec 7} (hf : FrameOk s fr 0x04 k) (hw : 3 < leField (bodyOf fr) 1 1) :
    Answers (.foldsetFoldmode fr n m) s fr 4 [] (counted s fr k) := by
  have hform : ¬foldsetForm fr ≠ 0 := by
    rw [not_not]
    exact if_neg (Nat.not_le.2 hw)
  refine servePar_malformed (parse := parseFoldset 0 9 foldmodeValue) (x := (n, m)) (if_neg hform) hf ?_
  exact if_pos (by rw [Bool.or_eq_true]; exact Or.inr (decide_eq_true (by omega)))

end

/-- The trigger times of a FOLDSET body are its six fields. -/
theorem timesValue_eq {b : List Byte} {ms : Vector Nat 6} (h : ∀ i, i < 6 → ms[i]? = some (leField b (8 + 4 * i) 4)) :
    timesValue b = some ms := by
  refine congrArg some (Vector.ext fun i hi => ?_)
  have hm := h i hi
  rw [Vector.getElem?_eq_getElem hi, Option.some.injEq] at hm
  rw [Vector.getElem_ofFn, hm]

/-- The table of an RCT body has eight words. -/
theorem parseRct_length {b : List Byte} {n : Nat} {t : List (BitVec 32)} (h : parseRct b = some (n, t)) : t.length = 8 := by
  unfold parseRct at h
  dsimp only at h
  split at h
  · cases h
  · cases h
    rw [List.length_map, List.length_range]

/-- What VFSET does in a fold (R85, R89, R448). -/
def vfsetIn (f : Fold) (b : VfSetBody) (s : State) : Served :=
  if b.quantum = 0 || decide (b.queueBlock.toNat % 256 ≠ 0) then .refused 5
  else match vfAt s b.vf with
    | some v =>
      if v.fold ≠ f.num || v.queueBlock ≠ b.queueBlock || v.root ≠ b.root then .refused 5
      else .ok (setVf s { v with nextWeight := b.weight, nextQuantum := quantumOf f b.quantum }) (leBytes 4 (quantumOf f b.quantum))
    | none =>
      if 64 ≤ (s.vfs.filter fun v => v.fold == f.num).length then .refused 5
      else .ok (configureVf s b (quantumOf f b.quantum)) (leBytes 4 (quantumOf f b.quantum))

/-- VFSET serves its body in its fold. -/
theorem execVfset_serves (fr : Frame) (b : VfSetBody) (s : State) : execVfset fr b s = servePar "VFSET" 0x10 fr s parseVfSet b fun s1 =>
    match foldAt s1 b.fold with
    | none => .refused 6
    | some f => vfsetIn f b s1 := rfl

/-- What a VFSET body must keep to (R85, R78). -/
def VfsetLegal (b : VfSetBody) : Prop := b.quantum ≠ 0 ∧ b.queueBlock.toNat % 256 = 0

theorem vfsetLegal_iff (b : VfSetBody) : (decide (b.quantum = 0) || decide (b.queueBlock.toNat % 256 ≠ 0)) = false ↔ VfsetLegal b := by
  rw [Bool.or_eq_false_iff, decide_eq_false_iff_not, decide_eq_false_iff_not, not_not]
  rfl

section
variable {f : Fold} {b : VfSetBody} {s : State} {v : Vf}

/-- A body that breaks its rules is refused. -/
theorem vfsetIn_illegal (h : ¬VfsetLegal b) : vfsetIn f b s = .refused 5 :=
  if_pos (by rw [← Bool.not_eq_false, vfsetLegal_iff]; exact h)

theorem vfsetIn_legal (h : VfsetLegal b) : vfsetIn f b s = match vfAt s b.vf with
    | some v =>
      if v.fold ≠ f.num || v.queueBlock ≠ b.queueBlock || v.root ≠ b.root then .refused 5
      else .ok (setVf s { v with nextWeight := b.weight, nextQuantum := quantumOf f b.quantum }) (leBytes 4 (quantumOf f b.quantum))
    | none =>
      if 64 ≤ (s.vfs.filter fun v => v.fold == f.num).length then .refused 5
      else .ok (configureVf s b (quantumOf f b.quantum)) (leBytes 4 (quantumOf f b.quantum)) :=
  if_neg (by rw [(vfsetLegal_iff b).2 h]; exact Bool.false_ne_true)

/-- A known VF keeps its queue block and its root (R448). -/
theorem vfsetIn_other (hv : vfAt s b.vf = some v) (hne : v.queueBlock ≠ b.queueBlock ∨ v.root ≠ b.root) : vfsetIn f b s = .refused 5 := by
  by_cases h : VfsetLegal b
  · rw [vfsetIn_legal h, hv]
    refine if_pos ?_
    simp only [Bool.or_eq_true, decide_eq_true_eq, or_assoc]
    exact Or.inr hne
  · exact vfsetIn_illegal h

/-- A fold holds 64 VFs (R85). -/
theorem vfsetIn_full (hv : vfAt s b.vf = none) (hfull : 64 ≤ (s.vfs.filter fun v => v.fold == f.num).length) :
    vfsetIn f b s = .refused 5 := by
  by_cases h : VfsetLegal b
  · rw [vfsetIn_legal h, hv]
    exact if_pos hfull
  · exact vfsetIn_illegal h

/-- A new VF is configured (R448). -/
theorem vfsetIn_new (h : VfsetLegal b) (hv : vfAt s b.vf = none) (hroom : (s.vfs.filter fun v => v.fold == f.num).length < 64) :
    vfsetIn f b s = .ok (configureVf s b (quantumOf f b.quantum)) (leBytes 4 (quantumOf f b.quantum)) := by
  rw [vfsetIn_legal h, hv]
  exact if_neg (Nat.not_le.2 hroom)

/-- A known VF takes its weight and its quantum at its next turn (R448). -/
theorem vfsetIn_again (h : VfsetLegal b) (hv : vfAt s b.vf = some v) (hf : v.fold = f.num) (hq : v.queueBlock = b.queueBlock)
    (hr : v.root = b.root) : vfsetIn f b s =
      .ok (setVf s { v with nextWeight := b.weight, nextQuantum := quantumOf f b.quantum }) (leBytes 4 (quantumOf f b.quantum)) := by
  rw [vfsetIn_legal h, hv]
  refine if_neg ?_
  simp only [Bool.or_eq_true, decide_eq_true_eq, not_or, not_not]
  exact ⟨⟨hf, hq⟩, hr⟩

end

end Sys2Proof.Machine

section

open Sys2Proof Sys2Proof.Machine

/-- Settles O59, by the outcomes of each request. -/
theorem foldAndVfRequests : Obligations.FoldAndVfRequests := by
  intro s fr k body u now
  refine ⟨fun b hf hp => ⟨fun h0 hd hall hm => ?_, fun hbad => ?_⟩, fun b hf hp => servePar_malformed (Eq.refl (execFoldnew fr b s)) hf hp,
    ?_, ?_, fun n f t hf hp h0 => ⟨fun hok => ?_, fun hbad => ?_⟩, ?_, ?_⟩
  · refine servePar_done (Eq.refl (execFoldnew fr b s)) hf hp (if_neg ?_) (leBytes_fits _ (by decide))
    simp only [foldAt_counted, h0, hm, Bool.not_true, Option.isSome_none, Bool.false_or, Bool.or_false, List.isEmpty_iff, hd,
      Bool.or_eq_true, Bool.not_eq_true', false_or]
    rw [Bool.not_eq_false, List.all_eq_true]
    intro n hn
    obtain ⟨h1, h2⟩ := hall n hn
    rw [Bool.and_eq_true]
    exact ⟨h1, Option.isNone_iff_eq_none.2 h2⟩
  · refine servePar_refused (Eq.refl (execFoldnew fr b s)) hf hp (if_pos ?_)
    simp only [Bool.or_eq_true, or_assoc]
    refine hbad.imp id (Or.imp List.isEmpty_iff.2 (Or.imp (fun ⟨n, hn, hx⟩ => ?_) fun hm => by rw [hm]; rfl))
    rw [Bool.not_eq_true', List.all_eq_false]
    refine ⟨n, hn, fun hc => ?_⟩
    rw [Bool.and_eq_true] at hc
    obtain ⟨h1, h2⟩ := hc
    rcases hx with h | h
    · exact Bool.false_ne_true (h.symm.trans h1)
    · exact h (Option.isNone_iff_eq_none.1 h2)
  · intro f n hl h0
    refine ⟨fun hf => ?_, fun hf => ?_⟩
    · refine servePar_done (Eq.refl (execFolddel fr n s)) hf (parseOnly_eq hl) ?_ (Nat.zero_le _)
      rw [foldAt_counted, h0]
    · refine servePar_done (Eq.refl (execFoldreset (some fr) n s)) hf (parseOnly_eq hl) ?_ (Nat.zero_le _)
      rw [foldAt_counted, h0]
  · intro f n what hf h0
    refine ⟨fun hw hl hv => ?_, fun hw hl hv => ?_, fun hw hl => ?_, fun ms hw hl hms => ?_, fun m hw => foldset_unknown hf hw⟩
    · exact foldset_done (change := fun f => { f with nextMode := BitVec.ofNat 7 (leField body 8 1) })
        (Eq.refl (execFoldsetFoldmode fr n _ s)) hf h0 hw (Nat.zero_le _) hl (if_neg (Nat.not_lt.2 hv))
    · exact foldset_done (change := fun f => { f with policy := leField body 8 1 })
        (Eq.refl (execFoldsetPolicy fr n _ s)) hf h0 hw (by decide) hl (if_neg (Nat.not_lt.2 hv))
    · exact foldset_done (change := fun f => { f with codeKey := some (keyAt body 8) })
        (Eq.refl (execFoldsetCodeKey fr n (keyAt body 8) s)) hf h0 hw (by decide) hl rfl
    · refine ⟨ms.map msCounts, fun i hi => ?_, foldset_done (change := fun f => { f with wdTimes := ms.map msCounts })
        (Eq.refl (execFoldsetWatchdogTimes fr n ms s)) hf h0 hw (by decide) hl (timesValue_eq hms)⟩
      rw [Vector.getElem?_map, hms i hi, Nat.mul_comm 100000]
      rfl
  · have hlen := parseRct_length hp
    refine ⟨Vector.ofFn fun i => (t[i.val]?).getD 0, ?_, servePar_done (Eq.refl (execRct fr n t s)) hf hp ?_ (Nat.zero_le _)⟩
    · rw [Vector.toList_ofFn]
      refine List.ext_getElem (by rw [List.length_ofFn, hlen]) fun i h1 h2 => ?_
      rw [List.getElem_ofFn, List.getElem?_eq_getElem h2]
      rfl
    · rw [foldAt_counted, h0]
      refine if_neg ?_
      rw [Bool.not_eq_true, List.any_eq_false]
      exact fun w hw hc => hok w hw (beq_iff_eq.1 hc)
  · refine servePar_refused (Eq.refl (execRct fr n t s)) hf hp ?_
    rw [foldAt_counted, h0]
    obtain ⟨w, hw, hz⟩ := hbad
    refine if_pos (List.any_eq_true.2 ⟨w, hw, ?_⟩)
    rw [hz]
    rfl
  · intro b f hf hp h0 q legal
    have hn := foldAt_num h0
    have hin : (match foldAt (counted s fr k) b.fold with | none => Served.refused 6 | some f => vfsetIn f b (counted s fr k)) =
        vfsetIn f b (counted s fr k) := by
      rw [foldAt_counted, h0]
    have hdone {t : State} (ha : vfsetIn f b (counted s fr k) = .ok t (leBytes 4 q)) : Answers (.vfset fr b) s fr 0 (leBytes 4 q) t :=
      servePar_done (execVfset_serves fr b s) hf hp (hin.trans ha) (leBytes_fits _ (by decide))
    have hrefused (ha : vfsetIn f b (counted s fr k) = .refused 5) : Answers (.vfset fr b) s fr 5 [] u :=
      servePar_refused (execVfset_serves fr b s) hf hp (hin.trans ha)
    rw [← hn]
    exact ⟨fun hv hl hroom => hdone (vfsetIn_new hl hv hroom), fun v hv hl hvf hqb hroot => hdone (vfsetIn_again hl hv hvf hqb hroot),
      fun v hv hne => hrefused (vfsetIn_other hv hne), fun hv hfull => hrefused (vfsetIn_full hv hfull), fun hl => hrefused (vfsetIn_illegal hl)⟩
  · intro v n hf hl h0
    refine ⟨fun hok => servePar_done (Eq.refl (execVfdel fr n s)) hf (parseOnly_eq hl) ?_ (Nat.zero_le _),
      fun hbad => servePar_refused (Eq.refl (execVfdel fr n s)) hf (parseOnly_eq hl) ?_⟩
    · rw [vfAt_counted, h0]
      refine if_neg ?_
      rw [Bool.not_eq_true, List.any_eq_false]
      intro l hm hc
      rw [Bool.and_eq_true, beq_iff_eq, bne_iff_ne] at hc
      exact hc.2 (hok l hm hc.1)
    · rw [vfAt_counted, h0]
      obtain ⟨l, hm, hv, hp⟩ := hbad
      refine if_pos (List.any_eq_true.2 ⟨l, hm, ?_⟩)
      rw [Bool.and_eq_true, beq_iff_eq, bne_iff_ne]
      exact ⟨hv, hp⟩

end

namespace Sys2Proof.Machine

/-! ## Requests about handles, reports and files (R441, R445) -/

/-- Free bytes come in pieces of 32. -/
theorem freeBytes_length (subject n : Nat) : (freeBytes subject n).length = 32 * (n / 32) := by
  unfold freeBytes
  rw [List.length_flatMap, List.map_congr_left (g := fun _ => 32) fun i _ => leBytes_length 32 _, List.map_const', List.sum_replicate,
    List.length_range, smul_eq_mul, Nat.mul_comm]

/-- A signature of the module's key has the length of a PSS signature. -/
theorem identitySign_length (text : List Byte) : (identitySign text).length = 384 := by
  unfold identitySign
  rw [freeBytes_length]
  rfl

theorem rasBytes_length (r : RasRec) : (rasBytes r).length = 24 := by
  simp only [rasBytes, List.length_append, leBytes_length]

/-- Reports of RAS records have 24 bytes each. -/
theorem flatMap_rasBytes_length (l : List RasRec) : (l.flatMap rasBytes).length = 24 * l.length := by
  rw [List.length_flatMap, List.map_congr_left (g := fun _ => 24) fun r _ => rasBytes_length r, List.map_const', List.sum_replicate,
    smul_eq_mul, Nat.mul_comm]

/-- The VF found under a number has that number. -/
theorem vfAt_num {s : State} {n : Nat} {v : Vf} (h : vfAt s n = some v) : v.num = n := by
  unfold vfAt at h
  exact beq_iff_eq.1 (List.find?_some (p := fun v : Vf => v.num == n) h)

section
variable {i : Instr} {s : State} {fr : Frame} {code : Nat} {k : OperatorKey} {n : String} {α : Type} [DecidableEq α]
  {parse : List Byte → Option α} {x : α} {act : State → Served}

/-- A body that the response buffer does not hold is answered with STATUS 8 (R443; log 73). -/
theorem servePar_large {u : State} {b : List Byte} (hx : exec i s = servePar n code fr s parse x act) (h : FrameOk s fr code k)
    (hp : parse (bodyOf fr) = some x) (ha : act (counted s fr k) = .ok u b) (hb : bodyLimit < b.length) :
    Answers i s fr 8 [] (logRas (counted s fr k) none .internalError (BitVec.ofNat 64 (headerOf fr).code.toNat)) := by
  have hs : answerServed (counted s fr k) u (headerOf fr) b =
      answerFrame (logRas (counted s fr k) none .internalError (BitVec.ofNat 64 (headerOf fr).code.toNat)) (headerOf fr) 8 [] := if_pos hb
  refine answers_of ?_
  rw [hx, servePar, if_neg (by simp [hp]), serve_ok h]
  simp [hp, ha, hs]

end

/-- A HANDLE body that parses under an OP has that OP. -/
theorem handleOp_of {op : Nat} {body : List Byte} {b : HandleBody} (h : parseHandle op body = some b) : handleOp body = op := by
  unfold parseHandle at h
  dsimp only at h
  split at h
  · cases h
  · rename_i hc
    simp only [Bool.or_eq_true, decide_eq_true_eq, not_or, not_not] at hc
    obtain ⟨⟨⟨⟨_, hop⟩, _⟩, _⟩, _⟩ := hc
    exact hop

section
variable {i : Instr} {s : State} {fr : Frame} {k : OperatorKey} {op : Nat} {name : String} {b : HandleBody} {act : State → Served}

/-- A HANDLE request that has its effect. -/
theorem serveHandle_done {u : State} {bs : List Byte} (hx : exec i s = serveHandle name op fr b s act) (hle : op ≤ 2)
    (h : FrameOk s fr 0x13 k) (hp : parseHandle op (bodyOf fr) = some b) (ha : act (counted s fr k) = .ok u bs)
    (hb : bs.length ≤ bodyLimit) : Answers i s fr 0 bs u :=
  servePar_done (hx.trans (serveHandle_serves (handleOp_of hp) hle name b s act)) h hp ha hb

/-- A HANDLE request that its rule refuses. -/
theorem serveHandle_refused {st : Nat} (hx : exec i s = serveHandle name op fr b s act) (hle : op ≤ 2)
    (h : FrameOk s fr 0x13 k) (hp : parseHandle op (bodyOf fr) = some b) (ha : act (counted s fr k) = .refused st) :
    Answers i s fr st [] (counted s fr k) :=
  servePar_refused (hx.trans (serveHandle_serves (handleOp_of hp) hle name b s act)) h hp ha

end

/-- What HANDLE, install does in the fold of its VF (R124). -/
def installIn (f : Fold) (b : HandleBody) (s : State) : Served :=
  if !windowFree s f b.base b.length then .refused 5
  else if b.endpoint ≠ 0 then
    .ok (setFold s { f with handles := f.handles ++
      [⟨b.handle, b.vf, f.num, 0, b.length, b.rights, f.num, b.endpoint, [(f.num, b.base, b.length)], false⟩] }) []
  else match (allHandles s).find? fun k => k.id == b.handle && k.endpoint == 0 with
    | none => .refused 6
    | some k =>
      if k.revoked || k.importer ≠ f.num || k.length < b.length then .refused 5
      else .ok (mapHandles s fun x =>
        if x.id = k.id && x.endpoint = 0 then { x with installed := x.installed ++ [(f.num, b.base, b.length)] } else x) []

/-- HANDLE, install, in its turn. -/
theorem execHandleInstall_serves {fr : Frame} {b : HandleBody} {s : State} (h : droversTake s b.vf = true) :
    execHandleInstall fr b s = serveHandle "HANDLE_INSTALL" 1 fr b s fun s1 =>
      match (vfAt s1 b.vf).bind fun v => foldAt s1 v.fold with
      | none => .refused 6
      | some f => installIn f b s1 :=
  if_neg (by rw [h]; exact Bool.false_ne_true)

section
variable {f : Fold} {b : HandleBody} {s : State} {e : Handle}

theorem installIn_free (h : windowFree s f b.base b.length = true) : installIn f b s =
    if b.endpoint ≠ 0 then
      .ok (setFold s { f with handles := f.handles ++
        [⟨b.handle, b.vf, f.num, 0, b.length, b.rights, f.num, b.endpoint, [(f.num, b.base, b.length)], false⟩] }) []
    else match (allHandles s).find? fun k => k.id == b.handle && k.endpoint == 0 with
      | none => .refused 6
      | some k =>
        if k.revoked || k.importer ≠ f.num || k.length < b.length then .refused 5
        else .ok (mapHandles s fun x =>
          if x.id = k.id && x.endpoint = 0 then { x with installed := x.installed ++ [(f.num, b.base, b.length)] } else x) [] :=
  if_neg (by rw [h]; exact Bool.false_ne_true)

/-- The window of an install is taken (R124). -/
theorem installIn_taken (h : windowFree s f b.base b.length = false) : installIn f b s = .refused 5 := if_pos (by rw [h]; rfl)

/-- A handle of a remote endpoint is installed (R124). -/
theorem installIn_remote (h : windowFree s f b.base b.length = true) (he : b.endpoint ≠ 0) : installIn f b s =
    .ok (setFold s { f with handles := f.handles ++
      [⟨b.handle, b.vf, f.num, 0, b.length, b.rights, f.num, b.endpoint, [(f.num, b.base, b.length)], false⟩] }) [] :=
  (installIn_free h).trans (if_pos he)

/-- May a handle be installed in a fold over a length (R124)? -/
theorem installable_iff (f : Fold) (e : Handle) (n : Nat) : (e.revoked || decide (e.importer ≠ f.num) || decide (e.length < n)) = false ↔
    e.revoked = false ∧ e.importer = f.num ∧ n ≤ e.length := by
  rw [Bool.or_eq_false_iff, Bool.or_eq_false_iff, decide_eq_false_iff_not, decide_eq_false_iff_not, not_not, Nat.not_lt, and_assoc]

/-- A handle that a fold exported to this one is installed (R124). -/
theorem installIn_exported (h : windowFree s f b.base b.length = true) (h0 : b.endpoint = 0)
    (he : (allHandles s).find? (fun k => k.id == b.handle && k.endpoint == 0) = some e) (hr : e.revoked = false) (hi : e.importer = f.num)
    (hl : b.length ≤ e.length) : installIn f b s = .ok (mapHandles s fun x =>
      if x.id = e.id && x.endpoint = 0 then { x with installed := x.installed ++ [(f.num, b.base, b.length)] } else x) [] := by
  rw [installIn_free h, if_neg (not_not.2 h0), he]
  exact if_neg (by rw [(installable_iff f e b.length).2 ⟨hr, hi, hl⟩]; exact Bool.false_ne_true)

/-- A handle that is revoked, not for this fold, or shorter is not installed (R124). -/
theorem installIn_barred (h : windowFree s f b.base b.length = true) (h0 : b.endpoint = 0)
    (he : (allHandles s).find? (fun k => k.id == b.handle && k.endpoint == 0) = some e)
    (hbad : e.revoked = true ∨ e.importer ≠ f.num ∨ e.length < b.length) : installIn f b s = .refused 5 := by
  rw [installIn_free h, if_neg (not_not.2 h0), he]
  refine if_pos ?_
  rw [← Bool.not_eq_false, installable_iff]
  rintro ⟨hr, hi, hl⟩
  rcases hbad with hx | hx | hx
  · exact Bool.false_ne_true (hr.symm.trans hx)
  · exact hx hi
  · exact Nat.not_lt.2 hl hx

end

/-! ### The loader -/

/-- Is a file accepted for a VF (R30, R55)? -/
def FileTaken (s : State) (v : Vf) (file : List Byte) : Prop :=
  fileOk file = true ∧ ∀ f key, foldAt s v.fold = some f → f.codeKey = some key → signedOk key file = true

theorem acceptsFile_iff (s : State) (v : Vf) (file : List Byte) : acceptsFile s v file = true ↔ FileTaken s v file := by
  unfold acceptsFile FileTaken
  rw [Bool.and_eq_true]
  refine and_congr_right fun _ => ?_
  cases hf : foldAt s v.fold with
  | none => exact iff_of_true rfl fun f key h => nomatch h
  | some f =>
    rw [Option.bind_some]
    cases hk : f.codeKey with
    | none =>
      refine iff_of_true rfl fun g key hg hkey => ?_
      cases hg
      rw [hk] at hkey
      cases hkey
    | some key =>
      refine ⟨fun h g key' hg hkey => ?_, fun h => h f key rfl hk⟩
      cases hg
      rw [hk] at hkey
      cases hkey
      exact h

/-- The state of a loader's plan with its pages in place, where the plan's memory is free. -/
def placedFile (s : State) (v : Vf) (file : List Byte) (plan : LoadPlan) : Option State :=
  (planOf s v file plan).bind fun rows =>
    if planFree s v plan rows (rows.foldl (loadPage file v) (s, plan.pool)).2 then some (rows.foldl (loadPage file v) (s, plan.pool)).1 else none

theorem placedFile_free {s : State} {v : Vf} {file : List Byte} {plan : LoadPlan} {rows : List (Nat × Word × Nat)}
    (hp : planOf s v file plan = some rows) (hf : planFree s v plan rows (rows.foldl (loadPage file v) (s, plan.pool)).2 = true) :
    placedFile s v file plan = some (rows.foldl (loadPage file v) (s, plan.pool)).1 := by
  unfold placedFile
  rw [hp, Option.bind_some]
  exact if_pos hf

theorem placedFile_none {s : State} {v : Vf} {file : List Byte} {plan : LoadPlan}
    (h : ∀ rows, planOf s v file plan = some rows → planFree s v plan rows (rows.foldl (loadPage file v) (s, plan.pool)).2 = false) :
    placedFile s v file plan = none := by
  unfold placedFile
  cases hp : planOf s v file plan with
  | none => rfl
  | some rows =>
    rw [Option.bind_some]
    exact if_neg (by rw [h rows hp]; exact Bool.false_ne_true)

/-- What LOAD does for a VF (R441). -/
def loadFor (fr : Frame) (vf : Nat) (v : Vf) (file : List Byte) (plan : LoadPlan) (s : State) : Served :=
  if !acceptsFile s v file then .refused 7
  else match placedFile s v file plan with
    | none => .started (answerFrame (logRas s none .internalError (BitVec.ofNat 64 v.num)) (headerOf fr) 8 [])
    | some s2 => match (launchesOf file).foldl (loadAppend vf) (some s2) with
      | none => .refused 5
      | some s3 => .ok s3 (leBytes 4 (loadedSections file).length)

theorem execLoadFile_serves (fr : Frame) (vf : Nat) (plan : LoadPlan) (s : State) :
    execLoadFile fr vf plan s = servePar "LOAD" 0x60 fr s parseLoad vf fun s1 =>
      match vfAt s1 vf with
      | none => .refused 6
      | some v => loadFor fr vf v ((bodyOf fr).drop 8) plan s1 := rfl

section
variable {s : State} {fr : Frame} {vf : Nat} {v : Vf} {file : List Byte} {plan : LoadPlan}

theorem loadFor_taken (h : FileTaken s v file) : loadFor fr vf v file plan s = match placedFile s v file plan with
    | none => .started (answerFrame (logRas s none .internalError (BitVec.ofNat 64 v.num)) (headerOf fr) 8 [])
    | some s2 => match (launchesOf file).foldl (loadAppend vf) (some s2) with
      | none => .refused 5
      | some s3 => .ok s3 (leBytes 4 (loadedSections file).length) :=
  if_neg (by rw [(acceptsFile_iff s v file).2 h]; exact Bool.false_ne_true)

/-- A file whose plan gives no free memory is answered with STATUS 8 (log 67). -/
theorem loadFor_unplaced (h : FileTaken s v file)
    (hno : ∀ rows, planOf s v file plan = some rows → planFree s v plan rows (rows.foldl (loadPage file v) (s, plan.pool)).2 = false) :
    loadFor fr vf v file plan s =
      .started (answerFrame (logRas s none .internalError (BitVec.ofNat 64 v.num)) (headerOf fr) 8 []) := by
  rw [loadFor_taken h, placedFile_none hno]

/-- A file that is placed submits its launch records, or is refused where an append is (R81; log 67). -/
theorem loadFor_placed {rows : List (Nat × Word × Nat)} (h : FileTaken s v file) (hp : planOf s v file plan = some rows)
    (hf : planFree s v plan rows (rows.foldl (loadPage file v) (s, plan.pool)).2 = true) :
    loadFor fr vf v file plan s =
      match (launchesOf file).foldl (loadAppend vf) (some (rows.foldl (loadPage file v) (s, plan.pool)).1) with
      | none => .refused 5
      | some s3 => .ok s3 (leBytes 4 (loadedSections file).length) := by
  rw [loadFor_taken h, placedFile_free hp hf]

/-- A file that is not accepted is refused (R30, R55). -/
theorem loadFor_untaken (h : ¬FileTaken s v file) : loadFor fr vf v file plan s = .refused 7 :=
  if_pos (by rw [Bool.not_eq_true', ← Bool.not_eq_true, acceptsFile_iff]; exact h)

end

end Sys2Proof.Machine

section

open Sys2Proof Sys2Proof.Machine

/-- Settles O60, by the outcomes of each request. -/
theorem serviceRequests : Obligations.ServiceRequests := by
  intro s fr k body u
  have known {n : Nat} (hv : (vfAt s n).isSome = true) : ¬(vfAt u n).isNone = true := by
    rw [vfAt_counted]
    cases h : vfAt s n with
    | none => rw [h] at hv; cases hv
    | some v => exact Bool.false_ne_true
  refine ⟨fun b v f hf hv h0 => ?_, fun b e hf hp he => ⟨fun hvf => ?_, fun hvf => ?_⟩, ?_, fun hf => ⟨fun hok => ?_, fun hbad => ?_⟩, ?_,
    fun hf hb => ?_, ?_, fun hf hl => ?_, ?_, ?_, fun n key hf hp => ⟨fun h0 => ?_, fun h0 => ?_⟩, ?_⟩
  · have hfold : ((vfAt (counted s fr k) b.vf).bind fun v => foldAt (counted s fr k) v.fold) = some f := by
      rw [vfAt_counted, hv]
      exact h0
    refine ⟨fun hp => ?_, fun hp ht he hw => ?_, fun e hp ht h0 hw he => ⟨fun hr hi hl => ?_, fun hbad => ?_⟩, fun hp ht hw => ?_, fun ht => ?_⟩
    · refine serveHandle_done (Eq.refl (execHandleExport fr b s)) (by decide) hf hp ?_ (leBytes_fits _ (by decide))
      rw [hfold, vfAt_num hv]
      rfl
    · refine serveHandle_done (execHandleInstall_serves ht) (by decide) hf hp ?_ (Nat.zero_le _)
      rw [hfold]
      exact installIn_remote hw he
    · refine serveHandle_done (execHandleInstall_serves ht) (by decide) hf hp ?_ (Nat.zero_le _)
      rw [hfold]
      exact installIn_exported hw h0 he hr hi hl
    · refine serveHandle_refused (execHandleInstall_serves ht) (by decide) hf hp ?_
      rw [hfold]
      exact installIn_barred hw h0 he hbad
    · refine serveHandle_refused (execHandleInstall_serves ht) (by decide) hf hp ?_
      rw [hfold]
      exact installIn_taken hw
    · exact if_pos (by rw [ht]; rfl)
  · refine serveHandle_done (Eq.refl (execHandleRevoke fr b s)) (by decide) hf hp ?_ (Nat.zero_le _)
    show (match (allHandles s).find? fun e => e.id == b.handle with | none => _ | some k => _) = _
    rw [he]
    exact if_neg (not_not.2 hvf)
  · refine serveHandle_refused (Eq.refl (execHandleRevoke fr b s)) (by decide) hf hp ?_
    show (match (allHandles s).find? fun e => e.id == b.handle with | none => _ | some k => _) = _
    rw [he]
    exact if_pos hvf
  · intro up
    refine ⟨fun hf hl hv => servePar_started (Eq.refl (execSnapshot fr _ s)) hf (parseOnly_eq hl) (if_neg ?_),
      fun vf dest delta ep hf hp hd hv => ⟨servePar_started (Eq.refl (execMigrate fr vf dest delta ep true s)) hf hp ?_,
        servePar_refused (Eq.refl (execMigrate fr vf dest delta ep false s)) hf hp ?_⟩⟩
    · exact known hv
    · rw [if_neg (Nat.not_lt.2 hd), if_neg (known hv)]
      rfl
    · rw [if_neg (Nat.not_lt.2 hd), if_neg (known hv)]
      rfl
  · exact servePar_done (Eq.refl (execStage fr body s)) hf rfl (if_neg (by show ¬(!imageOk s.svc body) = true; rw [hok]; decide)) (Nat.zero_le _)
  · exact servePar_refused (Eq.refl (execStage fr body s)) hf rfl (if_pos (by show (!imageOk s.svc body) = true; rw [hbad]; rfl))
  · intro g n hf hl h1 h3 hg c
    refine servePar_done (Eq.refl (execCommit fr n s)) hf (parseOnly_eq hl) ((if_neg ?_).trans ?_) (leBytes_fits _ (by decide))
    · rw [Bool.or_eq_true, decide_eq_true_eq, decide_eq_true_eq, not_or]
      exact ⟨Nat.one_le_iff_ne_zero.1 h1, Nat.not_lt.2 h3⟩
    · show (match s.svc.running.find? fun i => i.kind == n with | none => _ | some i => _) = _
      rw [hg]
      rfl
  · refine ⟨freeBytes 0 384 ++ leBytes 4 (Config.freeDigest 15).toNat, ?_,
      servePar_done (Eq.refl (execIdentity fr s)) hf (by rw [show bodyOf fr = [] from hb]; rfl) rfl ?_⟩
    · rw [List.length_append, freeBytes_length, leBytes_length]
    · rw [List.length_append, freeBytes_length, leBytes_length]
      decide
  · intro hf hl log
    have hsign (t : List Byte) : (log ++ leBytes 32 (leField body 0 32) ++ identitySign t).length = log.length + 416 := by
      rw [List.length_append, List.length_append, leBytes_length, identitySign_length]
    refine ⟨fun hle => ⟨identitySign (log ++ leBytes 32 (leField body 0 32)), identitySign_length _,
      servePar_done (Eq.refl (execQuote fr _ s)) hf (parseOnly_eq hl) rfl ?_⟩,
      fun hlt => servePar_large (Eq.refl (execQuote fr _ s)) hf (parseOnly_eq hl) (Eq.refl (Served.ok u _)) ?_⟩
    · rw [hsign]
      exact hle
    · show bodyLimit < (log ++ leBytes 32 (leField body 0 32) ++ identitySign _).length
      rw [hsign]
      exact hlt
  · refine ⟨leBytes 8 (Config.freeTelemetry (leField body 0 4)).toNat, leBytes_length _ _,
      servePar_done (Eq.refl (execTelemetry fr _ s)) hf (parseOnly_eq hl) rfl ?_⟩
    rw [List.length_append, leBytes_length, leBytes_length]
    decide
  · intro n
    refine ⟨fun hf hl hle => servePar_done (Eq.refl (execRaslog fr n s)) hf (parseOnly_eq hl) (congrArg (Served.ok u) ?_) ?_,
      fun hf hl hlt => servePar_done (Eq.refl (execRaslog fr n s)) hf (parseOnly_eq hl) (congrArg (Served.ok u) ?_) ?_⟩
    · show leBytes 8 (if 2711 < (s.ras.drop n).length then n + 2711 else 0) ++ ((s.ras.drop n).take 2711).flatMap rasBytes = _
      rw [if_neg (by rw [List.length_drop]; omega), List.take_of_length_le (by rw [List.length_drop]; omega)]
    · rw [List.length_append, leBytes_length, flatMap_rasBytes_length, List.length_drop]
      have := show bodyLimit = 65088 from rfl
      omega
    · show leBytes 8 (if 2711 < (s.ras.drop n).length then n + 2711 else 0) ++ ((s.ras.drop n).take 2711).flatMap rasBytes = _
      rw [if_pos (by rw [List.length_drop]; omega)]
    · rw [List.length_append, leBytes_length, flatMap_rasBytes_length, List.length_take]
      have := show bodyLimit = 65088 from rfl
      omega
  · intro v plan file taken hf hl hv fits
    have hin : (match vfAt (counted s fr k) (leField body 0 2) with
        | none => Served.refused 6
        | some v => loadFor fr (leField body 0 2) v ((bodyOf fr).drop 8) plan (counted s fr k)) =
        loadFor fr (leField body 0 2) v file plan u := by
      rw [vfAt_counted, hv]
    have hparse : parseLoad (bodyOf fr) = some (leField body 0 2) := if_neg (Nat.not_lt.2 hl)
    have hserves := execLoadFile_serves fr (leField body 0 2) plan s
    refine ⟨fun rows ht hp hfit => ⟨fun t hr => servePar_done hserves hf hparse (hin.trans ?_) (leBytes_fits _ (by decide)),
      fun hr => servePar_refused hserves hf hparse (hin.trans ?_)⟩, fun ht hno => ?_,
      fun ht => servePar_refused hserves hf hparse (hin.trans (loadFor_untaken ht))⟩
    · rw [loadFor_placed (s := u) ht hp hfit, hr]
    · rw [loadFor_placed (s := u) ht hp hfit, hr]
    · have h8 := hin.trans (loadFor_unplaced (s := u) ht hno)
      exact answers_of (servePar_started hserves hf hparse h8)
  · exact servePar_done (Eq.refl (execKeyadd fr n key s)) hf hp (if_neg (by rw [h0]; decide)) (Nat.zero_le _)
  · exact servePar_refused (Eq.refl (execKeyadd fr n key s)) hf hp (if_pos h0)
  · intro e n hf hl he
    refine ⟨fun hne => servePar_done (Eq.refl (execKeydel fr n s)) hf (parseOnly_eq hl) ?_ (Nat.zero_le _),
      fun heq => servePar_refused (Eq.refl (execKeydel fr n s)) hf (parseOnly_eq hl) ?_⟩
    · rw [he]
      exact if_neg hne
    · rw [he]
      exact if_pos heq

end

namespace Sys2Proof.Machine

/-- A strand with an empty mailbox, while the image of the drovers is being swapped (R446). -/
def swapping : State :=
  { State.reset with svc := { State.reset.svc with swapping := true }, core := { State.reset.core with occ := .strand } }

/-! ## What is due at a boundary (R157, R428) -/

section
variable {s : State}

/-- A cause 20 is due where NPRLIM has run out (R418). -/
theorem nprDue_of {f : Fold} {T : Nat} (hf : foldAt s s.core.fold = some f) (ho : s.core.occ ≠ .idle) (hr : f.running = some s.core.vf)
    (hopen : regionOpen s.core = true) (ht : f.switchT = some T) (hn : cycleOfTime T + s.core.trap.nprlim.toNat ≤ s.now) :
    nprDue s s.core = true := by
  simp [nprDue, hf, ho, hr, hopen, ht, hn]

/-- Running strands have not stopped, and no switch stops them. -/
theorem pendingTrap_running (hr : Running s) (he : hasEnded s.core = false) (hn : nprDue s s.core = false) :
    pendingTrap s = (lateDue s).map (takeLate s) := by
  obtain ⟨ho, hs, hw⟩ := hr
  simp [pendingTrap, ho, hs, he, hn, hw]

/-- A late refusal that a boundary raises (R294). -/
theorem lateDue_of {r : LateRefusal} (hb : atBoundary s = true)
    (hl : (if s.core.trap.inh then s.core.q.late.find? (·.inh) else s.core.q.late.head?) = some r) : lateDue s = some r :=
  (if_pos hb).trans hl

/-- A strand whose trap is due takes it in its turn (R157). -/
theorem plan_pending {t : State} (h : ItsTurn s) (hp : pendingTrap s = some t) : plan s = .done t := by
  obtain ⟨hocc, hsend, hin, hu, hout, hk⟩ := h
  have hfocus : focusOn s s.core.pos = s := if_pos rfl
  have hact : strandAct s = some (.done t) := by
    simp only [strandAct, hk, boundaryTrap, hp]
  have hturn : strandTurn s = some (.done t) := by
    unfold strandTurn allCores
    rw [List.findSome?_cons, if_neg hocc, hfocus, hact]
  simp only [plan, hsend, outer, hin, inner, hu, hout, hturn, Option.getD_some]

/-- The first of the codes 4 to 1 that passes a test is the highest one that does. -/
theorem find?_highest {f : Nat → Bool} {c : Nat} (h1 : 1 ≤ c) (h4 : c ≤ 4) (hc : f c = true) (hno : ∀ h, c < h → h ≤ 4 → f h = false) :
    [4, 3, 2, 1].find? f = some c := by
  obtain rfl | rfl | rfl | rfl : c = 4 ∨ c = 3 ∨ c = 2 ∨ c = 1 := by omega
  · simp [List.find?, hc]
  · simp [List.find?, hc, hno 4]
  · simp [List.find?, hc, hno 4, hno 3]
  · simp [List.find?, hc, hno 4, hno 3, hno 2]

/-- The interrupt of the highest code that is pending and enabled (R157). -/
theorem interruptDue_of {c : Nat} (hv : s.core.trap.tvec >>> 2 ≠ 0) (hi : s.core.trap.inh = false) (he : s.core.trap.ie = true)
    (hp : inPhase s = false) (ha : s.core.sync.arrived = none ∨ s.core.sync.passed.isSome = true) (h1 : 1 ≤ c) (h4 : c ≤ 4)
    (hc : pendingCode s c = true) (hen : s.core.trap.ien.getLsbD (c - 1) = true)
    (hno : ∀ h, c < h → h ≤ 4 → pendingCode s h = false ∨ s.core.trap.ien.getLsbD (h - 1) = false) : interruptDue s = some c := by
  have harr : (s.core.sync.arrived.isNone || s.core.sync.passed.isSome) = true := by
    rw [Bool.or_eq_true, Option.isNone_iff_eq_none]
    exact ha
  have hskip {h : Nat} (hlt : c < h) (hle : h ≤ 4) : (pendingCode s h && s.core.trap.ien.getLsbD (h - 1)) = false := by
    rw [Bool.and_eq_false_iff]
    exact hno h hlt hle
  have htake : (pendingCode s c && s.core.trap.ien.getLsbD (c - 1)) = true := by rw [hc, hen]; rfl
  have hopen : (s.core.trap.tvec >>> 2 != 0 && !s.core.trap.inh && s.core.trap.ie && !inPhase s &&
      (s.core.sync.arrived.isNone || s.core.sync.passed.isSome)) = true := by
    rw [hi, he, hp, harr, bne_iff_ne.2 hv]
    rfl
  exact (if_pos hopen).trans (find?_highest h1 h4 htake fun h hlt hle => hskip hlt hle)

/-- A strand that its own trap does not come before takes its interrupt (R157). -/
theorem interruptTaken_of {c : Nat} {fails : Bool} (hd : interruptDue s = some c) (hr : Running s) (he : hasEnded s.core = false)
    (hw : s.core.sync.trapWaits = false) (hf : s.core.sync.wait ≠ none ∨ fails = false) : interruptTaken s fails = some (takeInterrupt s c) := by
  obtain ⟨ho, hs, hsw⟩ := hr
  have hb : (s.core.sync.wait.isNone && fails) = false := by
    rw [Bool.and_eq_false_iff, ← Bool.not_eq_true, Option.isNone_iff_eq_none]
    exact hf
  simp [interruptTaken, hd, ho, hs, he, hsw, hw, hb]

/-- A synchronous trap that is due comes before the interrupt (R157). -/
theorem interruptTaken_none {fails : Bool} (h : s.core.sync.trapWaits = true ∨ (s.core.sync.wait = none ∧ fails = true)) :
    interruptTaken s fails = none := by
  unfold interruptTaken
  split
  · rfl
  · refine if_pos ?_
    rcases h with h | ⟨hw, hf⟩
    · rw [h]; simp
    · rw [hw, hf]; simp

/-- The depth from which a strand is killed (R428). -/
theorem killedDepth_of {n : Nat} (hn : n ≤ s.core.regs.depth) (hk : stKill (seenState s s.core.vf (dreg s n)).2 = true)
    (hm : ∀ m, m < n → stKill (seenState s s.core.vf (dreg s m)).2 = false) : killedDepth s = some n := by
  unfold killedDepth
  rw [List.find?_range_eq_some]
  exact ⟨hk, List.mem_range.2 (Nat.lt_succ_of_le hn), fun m h => by rw [hm m h]; rfl⟩

/-- A killed strand unwinds (R428). -/
theorem killDue_killed {n : Nat} (ho : s.core.occ ≠ .idle) (hs : switchStops s s.core = false) (he : hasEnded s.core = false)
    (hk : killedDepth s = some n) : killDue s = some (unwindStep s n) := by
  unfold killDue
  rw [if_neg (by simp [ho, hs]), hk]
  cases hw : s.core.sync.wait with
  | none => rfl
  | some w =>
    rw [hasEnded, hw] at he
    cases w with
    | unwound => exact absurd he (by decide)
    | retiring => exact absurd he (by decide)
    | _ => rfl

end

end Sys2Proof.Machine

section

open Sys2Proof Sys2Proof.Machine

/-- Refutes O49: while a swap of the drover image is under way no message of the drover comes (R446), though the mailbox is empty. -/
theorem not_waitsEnd : ¬Obligations.WaitsEnd := by
  intro h
  obtain ⟨-, -, -, -, -, -, hm, -⟩ := h swapping
  have hn := hm swapping.core.pos 0 (by decide) rfl
  have hr : exec (.droverMessage swapping.core.pos 0) swapping = .refused (.notDue "DROVER_MESSAGE") := by
    show execDroverMessage swapping.core.pos 0 swapping = _
    unfold execDroverMessage
    exact if_pos (by rw [show swapping.svc.swapping = true from rfl, Bool.or_true])
  rw [hr] at hn
  cases hn

/-- Settles O50, by what is due at each boundary. -/
theorem boundaryEvents : Obligations.BoundaryEvents := by
  intro s t
  refine ⟨fun f T hf ho hr hopen ht hn => if_pos (nprDue_of hf ho hr hopen ht hn), fun r hturn hr hn hw hl => ?_,
    fun c hr he hk hn hlate hv hi hie hp ha h1 h4 hc hen hno => ?_, fun h0 hle => ?_, fun n ho hs he hn hk hm => ?_,
    fun ho hs hw hret => ?_⟩
  · have hb : atBoundary s = true ∧ hasEnded s.core = false := by
      unfold atBoundary hasEnded
      rcases hw with hw | hw <;> rw [hw] <;> exact ⟨rfl, rfl⟩
    have hp : pendingTrap s = some (takeLate s r) := by
      rw [pendingTrap_running hr hb.2 hn, lateDue_of hb.1 hl, Option.map_some]
    unfold step
    rw [plan_pending hturn hp]
    rfl
  · have hpend : pendingTrap s = none := by
      have hl : lateDue s = none := by
        unfold lateDue
        rw [hlate]
        split
        · split <;> rfl
        · rfl
      rw [pendingTrap_running hr he hn, hl, Option.map_none]
    have hexec : exec .interruptTake s = whenDue "INTERRUPT_TAKE" (interruptTaken s (fetchFails s)) :=
      if_neg (by rw [hk, hpend]; decide)
    have hd := interruptDue_of hv hi hie hp ha h1 h4 hc hen hno
    refine ⟨fun htw hf => ?_, fun hf => ?_⟩
    · rw [hexec, interruptTaken_of hd hr he htw hf]
      refine congrArg Host.Outcome.next (congrArg (atDrain (withdrawWait s)) (funext fun u => ?_))
      dsimp only
      split <;> rfl
    · rw [hexec, interruptTaken_none hf]
      rfl
  · have hc : pendingCode s 3 = true := by
      show (t.tcmp != 0 && decide (t.tcmp.toNat ≤ (timeOf s).toNat)) = true
      rw [bne_iff_ne.2 h0, decide_eq_true hle]
      rfl
    refine ⟨if_pos hc, ?_⟩
    unfold ipend
    rw [hc, BitVec.getLsbD_ofNat]
    cases pendingCode s 1 <;> cases pendingCode s 2 <;> cases pendingCode s 4 <;> rfl
  · intro u v
    have hexec : exec .killUnwind s = .next ((rootCopies s v).getD v) := by
      show whenDue _ (killDue s) = _
      rw [killDue_killed ho hs he (killedDepth_of hn hk hm)]
      rfl
    exact ⟨fun h => by rw [hexec, h]; rfl, fun w h => by rw [hexec, h]; rfl⟩
  · show whenDue _ (killDue s) = _
    unfold killDue
    rw [if_neg (by simp [ho, hs]), hw]
    dsimp only
    rw [if_pos hret]
    rfl

end

namespace Sys2Proof.Machine

/-! ## The store buffer of the core in focus (R165) -/

/-- A core that is found at a place has that place. -/
theorem coreAt_pos (s : State) (p : CorePos) : (coreAt s p).pos = p := by
  unfold coreAt
  split
  · next h => exact h
  · cases hf : s.others.find? fun c => c.pos == p with
    | none => rfl
    | some c => exact beq_iff_eq.1 (List.find?_some (p := fun c : Core => c.pos == p) hf)

/-- To have a given store buffer in focus is kept by every act outside the cores. -/
theorem sbKept (l : List SbEntry) : KeptAside fun s => s.core.q.sb = l := ⟨fun h a => by rw [a.core]; exact h⟩

section
variable {s : State} {l : List SbEntry}

theorem noteRemote_sb {va : Word} (h : s.core.q.sb = l) : (noteRemote s va).core.q.sb = l := by
  unfold noteRemote
  split <;> exact h

theorem foldIntoParent_sb {vf n : Nat} {parent v : Word} {op : BitVec 3} (h : s.core.q.sb = l) :
    (foldIntoParent s vf parent op n v).core.q.sb = l := by
  unfold foldIntoParent
  dsimp only
  split
  · split
    · exact foldAtLoc_keeps (sbKept l).near (noteRemote_sb h)
    · exact noteRemote_sb h
  · split
    · exact foldAtLoc_keeps (sbKept l).near (noteRemote_sb h)
    · exact noteRemote_sb h

/-- A frame that is freed changes the frames of its core alone. -/
theorem freeFrame_sb {vf : Nat} {h0 : Word} (h : s.core.q.sb = l) : (freeFrame s vf h0).core.q.sb = l := by
  unfold freeFrame
  split
  · dsimp only
    unfold setCoreAt
    split
    · next hp =>
      have hc : coreAt s (bankOwner h0.toNat).1 = s.core := if_pos (hp.trans (coreAt_pos s _))
      rw [hc]
      exact h
    · exact h
  · exact h

/-- A child that retires may retire its ancestors (R211). -/
theorem retireFrom_sb {f vf : Nat} {h0 : Word} (h : s.core.q.sb = l) : (retireFrom f s vf h0).core.q.sb = l := by
  induction f generalizing s h0 with
  | zero => exact h
  | succ n ih =>
    have hown := frameState_keeps (sbKept l).near (vf := vf) (w2 := h0)
      (frameRead_keeps (sbKept l).near (vf := vf) (va := hParent h0) (frameRead_keeps (sbKept l).near (vf := vf) (va := hTmpl h0) h))
    unfold retireFrom
    dsimp only
    split
    · refine release_keeps (sbKept l).near ?_
      split
      · exact foldIntoParent_sb (frameRead_keeps (sbKept l).near hown)
      · exact hown
    · refine iteInduction (motive := fun u : State => u.core.q.sb = l) (fun _ => ih ?_) (fun _ => ?_)
      all_goals
        refine freeFrame_sb (frameWrite_keeps (sbKept l).near (frameState_keeps (sbKept l).near (noteRemote_sb
          (release_keeps (sbKept l).near ?_))))
        split
        · exact foldIntoParent_sb (frameRead_keeps (sbKept l).near hown)
        · exact hown

theorem leaveFrame_sb {vf : Nat} {h0 tmpl : Word} (h : s.core.q.sb = l) : (leaveFrame s vf h0 tmpl).core.q.sb = l := by
  have hst := frameState_keeps (sbKept l).near (vf := vf) (w2 := h0) (release_keeps (sbKept l).near (p := s.core.pos)
    (sc := tScope tmpl) (m := allRegions) (frameWrite_keeps (sbKept l).near (vf := vf) (va := hTmpl h0) (v := tmpl) h))
  unfold leaveFrame
  dsimp only
  split
  · exact retireFrom_sb (frameWrite_keeps (sbKept l).near hst)
  · exact frameWrite_keeps (sbKept l).near hst

theorem performRemote_sb {r : RemoteReq} (h : s.core.q.sb = l) : (performRemote s r).core.q.sb = l := by
  have hx (u : State) (d : Reg) (v : Word) : (setX u d v).core.q = u.core.q := by
    unfold setX
    split <;> rfl
  unfold performRemote
  dsimp only
  split
  · split
    · rw [hx]
      exact h
    · exact h
  · split
    · rw [hx]
      exact h
    · exact pokeLe_keeps (sbKept l).near h
    · exact foldAtLoc_keeps (sbKept l).near h

theorem popRemote_sb (h : s.core.q.sb = l) : (popRemote s).core.q.sb = l := by
  unfold popRemote
  split
  · exact h
  · exact performRemote_sb h

theorem drainRemote_sb {f n : Nat} (h : s.core.q.sb = l) : (drainRemote f s n).core.q.sb = l := by
  induction f generalizing s with
  | zero => exact h
  | succ f ih =>
    unfold drainRemote
    split
    · exact h
    · exact ih (popRemote_sb h)

theorem sendRemote_sb {key : Nat} {op : RemoteOp} (h : s.core.q.sb = l) : (sendRemote s key op).core.q.sb = l :=
  drainRemote_sb (f := s.core.q.remote.length) (n := Config.remoteDepth - 1) h

theorem storeAt_sb {loc : Loc} {size : Nat} {data : Word} (h : s.core.q.sb = l) : (storeAt s loc size data).core.q.sb = l := by
  unfold storeAt
  split
  · split
    · exact sendRemote_sb h
    · exact pokeLe_keeps (sbKept l).near h
  · exact pokeLe_keeps (sbKept l).near (revokeAt_keeps (sbKept l).near (revokeAt_keeps (sbKept l).near (peerRequest_keeps (sbKept l).near h)))
  · exact storeGlobal_keeps (sbKept l).near h

/-- A store that leaves the buffer puts nothing into it. -/
theorem performSb_sb {e : SbEntry} (h : s.core.q.sb = l) : (performSb s e).core.q.sb = l := by
  unfold performSb
  split
  · exact storeAt_sb (setAccessed_keeps (sbKept l).near h)
  · split
    · split
      · exact sendRemote_sb h
      · exact foldAtLoc_keeps (sbKept l).near h
    · exact foldAtLoc_keeps (sbKept l).near (setAccessed_keeps (sbKept l).near h)
  · split
    · exact cboLine_keeps (sbKept l).near (setAccessed_keeps (sbKept l).near h)
    · exact setAccessed_keeps (sbKept l).near h
  · exact addChild_keeps (sbKept l).near (writeHeader_keeps (sbKept l).near h)
  · exact leaveFrame_sb (drainRemote_sb h)

section
variable {e : SbEntry} {rest : List SbEntry}

/-- The oldest store leaves (R165). -/
theorem sbLeaves_performs (h : s.core.q.sb = e :: rest) (hl : mayLeave s e = true) :
    sbLeaves s = some (performSb (setQ s { s.core.q with sb := rest }) e) := by
  rw [mayLeave, Bool.and_eq_true, Option.isNone_iff_eq_none] at hl
  have hpop : popSb s = performSb (setQ s { s.core.q with sb := rest }) e := by
    unfold popSb
    rw [h]
    dsimp only
    rw [hl.1, hl.2]
    rfl
  have hne : performSb (setQ s { s.core.q with sb := rest }) e ≠ s := fun hs => by
    have hsb : (performSb (setQ s { s.core.q with sb := rest }) e).core.q.sb = rest := performSb_sb rfl
    rw [hs, h] at hsb
    exact absurd (congrArg List.length hsb) (by simp)
  unfold sbLeaves
  rw [if_pos (by rw [h, List.any_cons, hl.1]; rfl)]
  dsimp only
  rw [hpop, if_neg hne]

/-- A Leave asks for the copies that it waits for (R117). -/
theorem sbLeaves_asks {w : State} (h : s.core.q.sb = e :: rest) (hl : leaveTurn s e = true) (hc : leaveCopies s e = some w) (hne : w ≠ s) :
    sbLeaves s = some w := by
  have hpop : popSb s = w := by
    unfold popSb
    rw [h]
    dsimp only
    rw [hl, hc]
    rfl
  unfold sbLeaves
  rw [if_pos (by rw [h, List.any_cons, hl]; rfl)]
  dsimp only
  rw [hpop, if_neg hne]

end

/-! ## The units of the queue (R244) -/

section
variable {e y : QEntry} {rest : List QEntry}

/-- A unit whose instruction is the oldest, and completes. -/
theorem unitGoes_clear {p : Instr → Bool} {u : State} (h : s.core.q.queue = e :: rest) (hp : p e.instr = true) (hr : runHead s = .clear u) :
    unitGoes s p = some u := by
  unfold unitGoes
  rw [h]
  dsimp only
  rw [hp, hr]
  rfl

/-- The oldest instruction completes in its turn. -/
theorem runHead_done {u : State} (h : s.core.q.queue = e :: rest) (ha : e.ahead = none) (hr : runEntry e s = .done u) :
    runHead s = .clear (completeHead u e) := by
  unfold runHead
  rw [h]
  dsimp only
  rw [ha, hr]

/-- The oldest instruction traps in its turn (R169). -/
theorem runHead_trap {u : State} {t : Trap} {keep : Bool} (h : s.core.q.queue = e :: rest) (ha : e.ahead = none)
    (hr : runEntry e s = .trap u t keep) : runHead s = .trapped (trapHead u e t keep) := by
  unfold runHead
  rw [h]
  dsimp only
  rw [ha, hr]

/-- An instruction that has run ahead completes in its place, or traps there (R162). -/
theorem runHead_ahead {a : Ahead} (h : s.core.q.queue = e :: rest) (ha : e.ahead = some a) : runHead s =
    match a.fault with
    | some t => .trapped (trapHead s e t false)
    | none => .clear (completeHead (takeHeld s a) e) := by
  unfold runHead
  rw [h]
  dsimp only
  rw [ha] <;> rfl

/-- A younger instruction of a unit runs ahead of one that waits in another (R244). -/
theorem unitGoes_ahead {q : QUnit} {u : State} (h : s.core.q.queue = e :: y :: rest) (he : e.ahead = none) (hd : earlyDone s e = false)
    (hy : y.ahead = none) (hu : unitOf y.instr = some q) (hne : unitOf e.instr ≠ some q) (hm : mayRunAhead s [e] y = true)
    (hr : runEntry y s = .done u) : unitGoes s (fun i => unitOf i == some q) = some (holdAhead s u y) := by
  have hearly : earlyDone s y = false := by
    have hno : isEarlyLoad y.instr = false := by
      unfold mayRunAhead at hm
      simp only [Bool.and_eq_true, Bool.not_eq_true'] at hm
      obtain ⟨⟨⟨⟨⟨-, hno⟩, -⟩, -⟩, -⟩, -⟩ := hm
      exact hno
    rw [earlyDone, hno, Bool.false_and]
  have hrun : runsAhead s [e] y = some (holdAhead s u y) := by
    unfold runsAhead
    rw [if_pos hm, hr]
  have hnext : aheadFrom s (fun i => unitOf i == some q) [] (e :: y :: rest) = some (holdAhead s u y) := by
    unfold aheadFrom
    rw [he, hd, if_neg (by decide)]
    show aheadFrom s _ [e] (y :: rest) = _
    unfold aheadFrom
    rw [hy, hearly, if_neg (by decide), hu, beq_self_eq_true]
    show (match runsAhead s [e] y with | some s1 => _ | none => _) = _
    rw [hrun]
  unfold unitGoes
  rw [h]
  dsimp only
  rw [hnext, if_pos (by rw [Bool.not_eq_true', beq_eq_false_iff_ne]; exact hne)]

end

/-- An act of a queue that no switch has stopped. -/
theorem whenDue_running {n : String} {r : Option State} {u : State} (hs : switchStops s s.core = false) (hr : r = some u) :
    whenDue n (ifRunning s r) = .next u := by
  rw [ifRunning, if_neg (by rw [hs]; exact Bool.false_ne_true), hr]
  rfl

end

end Sys2Proof.Machine

section

open Sys2Proof Sys2Proof.Machine

/-- Settles O51, by what each unit has to do. -/
theorem queueEvents : Obligations.QueueEvents := by
  intro s
  refine ⟨fun e rest q h hu hs => ⟨fun u ha hr => ⟨?_, fun hq => ?_, fun hx => ?_⟩, fun a ha hf => ?_, fun u t keep ha hr => ?_,
      fun a t ha hf => ?_⟩, fun e y rest q u h he hd hy hu hne hs hm hr => whenDue_running hs (unitGoes_ahead h he hd hy hu hne hm hr),
    fun q hs => ?_, fun e rest h => ⟨fun hl => congrArg (whenDue _) (sbLeaves_performs h hl), fun w hl hc hne =>
      congrArg (whenDue _) (sbLeaves_asks h hl hc hne)⟩, fun r rest h => ⟨fun ht => ?_, fun ht => ?_⟩, fun e he hs hne => ?_, fun f rest h => ?_,
    fun hne => ?_, ?_, ?_⟩
  · exact whenDue_running hs (unitGoes_clear h (by rw [hu, beq_self_eq_true]) (runHead_done h ha hr))
  · refine whenDue_running hs ?_
    have hp : (unitOf e.instr == some QUnit.matrix) = true := by rw [hu, hq, beq_self_eq_true]
    unfold headCompletes
    rw [h, runHead_done h ha hr]
    dsimp only
    rw [if_pos (by rw [List.any_cons, hp]; rfl), if_pos hp]
  · exact whenDue_running hs (unitGoes_clear h hx (runHead_done h ha hr))
  · exact whenDue_running hs (unitGoes_clear h (by rw [hu, beq_self_eq_true]) (by rw [runHead_ahead h ha, hf]))
  · exact whenDue_running hs (by rw [headTraps, runHead_trap h ha hr])
  · exact whenDue_running hs (by rw [headTraps, runHead_ahead h ha, hf])
  · exact congrArg (whenDue _) (if_pos hs)
  · show whenDue _ (remoteAnswered s false) = _
    unfold remoteAnswered popRemote
    rw [h]
    dsimp only
    rw [if_pos ht]
    rfl
  · show whenDue _ (remoteAnswered s true) = _
    unfold remoteAnswered popRemote
    rw [h]
    dsimp only
    rw [if_pos ht]
    rfl
  · refine whenDue_running hs ?_
    unfold earlyRuns
    rw [he, Option.bind_some]
    exact if_neg hne
  · show whenDue _ (prefDue s) = _
    unfold prefDue
    rw [h]
    rfl
  · show execExchangeSend s = _
    unfold execExchangeSend
    cases hx : sendersNow s with
    | nil => exact absurd hx hne
    | cons x xs => rfl
  · intro c n g h0 hm hl hb hp hs
    refine if_pos ?_
    show roundReady s g = true
    unfold roundReady
    rw [bne_iff_ne.2 h0, beq_iff_eq.2 hm, hl, hb, beq_iff_eq.2 hp, List.any_eq_false.2 fun q hq => by rw [hs q hq]; exact Bool.false_ne_true]
    rfl
  · intro l f v e hheld hen hocc hfr hvf hstart hv he t
    have hfree : coreFree s s.core = true := by
      unfold coreFree
      rw [hen, beq_iff_eq.2 hocc, hfr]
      rfl
    have hdue : stealDue s = match launchCopies s t l with
        | some s1 => if s1 = s then none else some s1
        | none => some t := by
      unfold stealDue
      dsimp only
      rw [hheld]
      dsimp only
      rw [hfree, hvf, hstart, if_neg (by decide), hv, Option.bind_some, he, Option.bind_some] <;> rfl
    refine ⟨fun hc => ?_, fun w hc hne => ?_⟩
    · show whenDue _ (stealDue s) = _
      rw [hdue, hc]
      rfl
    · show whenDue _ (stealDue s) = _
      rw [hdue, hc]
      dsimp only
      rw [if_neg hne]
      rfl

end

namespace Sys2Proof.Machine

/-! ## Pages and their service (R299, R300, R446) -/

section
variable {s : State} {vf page fold : Nat} {va : Word}

/-- Drovers whose image is being swapped serve nothing, nor do they serve a page before what came first (R446). -/
theorem drvServes_none {cow : Bool} (h : s.svc.swapping = true ∨ ∃ c, oldestCmd s fold = some c ∧ ∀ cow, c ≠ .page vf page cow) :
    drvServes s fold vf page cow = false := by
  unfold drvServes
  rcases h with h | ⟨c, hc, hne⟩
  · rw [h]
    rfl
  · rw [hc]
    dsimp only
    rw [beq_eq_false_iff_ne.2 (hne cow), Bool.and_false]

/-- A page that is asked for is served by the drovers where the host does not service pages (R299). -/
theorem execPageService_serves {v : Vf} {f : Fold} (hv : vfAt s vf = some v) (hf : foldAt s v.fold = some f) (hm : f.mode.getLsbD 0 = false)
    (hd : drvServes s v.fold vf (pageOf va 16) false = true) (ha : asked s vf (pageOf va 16) false = true) (answer : PageAnswer) :
    exec (.pageService vf va answer) s = match answer with
      | .refuse => .next (refuseReq (cmdServed s (.page vf (pageOf va 16) false)) vf (pageOf va 16))
      | .install pte => match absentAt s v.fold va.toNat walkLevels v.root with
        | some pa => .next (homeWriteWords (dropReq (cmdServed s (.page vf (pageOf va 16) false)) vf (pageOf va 16) false) (homeKey v.fold pa) 2 pte.toNat)
        | none => .next (dropReq (cmdServed s (.page vf (pageOf va 16) false)) vf (pageOf va 16) false) := by
  show execPageService vf va answer s = _
  unfold execPageService
  dsimp only
  rw [hv]
  dsimp only
  rw [hd, ha, hf, Option.map_some, Option.getD_some, hm, if_neg (by decide)] <;> rfl

/-- Drovers that do not serve now answer no request for a page. -/
theorem execPageService_unserved {v : Vf} {answer : PageAnswer} (hv : vfAt s vf = some v) (hd : drvServes s v.fold vf (pageOf va 16) false = false) :
    exec (.pageService vf va answer) s = .refused (.notDue "PAGE_SERVICE") := by
  show execPageService vf va answer s = _
  unfold execPageService
  dsimp only
  rw [hv]
  dsimp only
  rw [hd]
  exact if_pos rfl

/-- Drovers that do not serve now copy no page. -/
theorem execCopyOnWrite_unserved {v : Vf} {frame : Nat} (hv : vfAt s vf = some v) (hd : drvServes s v.fold vf (pageOf va 16) true = false) :
    exec (.copyOnWrite vf va frame) s = .refused (.notDue "COPY_ON_WRITE") := by
  show execCopyOnWrite vf va frame s = _
  unfold execCopyOnWrite
  rw [hv]
  dsimp only
  split
  · next f _ _ _ hf _ =>
    rw [foldAt_num hf, hd]
    exact if_pos rfl
  · rfl

/-- A copy of a COW page that nothing forbids (R300). -/
theorem execCopyOnWrite_copies {v : Vf} {f : Fold} {pte : Word} {pa bits frame : Nat} (hv : vfAt s vf = some v) (hf : foldAt s v.fold = some f)
    (hw : (walk s v.fold v.root va).2 = .leaf pte pa bits) (hd : drvServes s f.num vf (pageOf va 16) true = true)
    (hm : f.mode.getLsbD 1 = false) (ha : asked s vf (pageOf va 16) true = true) (hc : pteCow pte = true) (h0 : frame % 2 ^ bits = 0)
    (hal : frameAllowed f pte frame (2 ^ bits) = true) (hfree : frameFree s f.num frame (2 ^ bits) = true) (hne : frame ≠ ptePfn pte * 65536) :
    exec (.copyOnWrite vf va frame) s = .next (setVf
      (dropCow (dropTlbVa (cmdServed (homeWriteWords (copyFrame s (homeKey f.num (ptePfn pte * 65536)) (homeKey f.num frame) (2 ^ bits))
        (homeKey f.num pa) 2 (cowLeaf pte frame).toNat) (.page vf (pageOf va 16) true)) vf va) vf va bits)
      { v with copied := v.copied ++ [pageOf va 16] }) := by
  show execCopyOnWrite vf va frame s = _
  unfold execCopyOnWrite
  rw [hv]
  dsimp only
  rw [hf, hw]
  dsimp only
  rw [hd, hfree, hm, ha, hc, hal, decide_eq_false (not_not.2 h0), beq_eq_false_iff_ne.2 hne]
  exact if_neg Bool.false_ne_true

/-- The engines of a cluster act where no switch time has come. -/
theorem whenDue_engines {n : String} {c : ClusterPos} {r : Option State} {u : State} (h : enginesRun s c = true) (hr : r = some u) :
    whenDue n (ifEngines s c r) = .next u := by
  rw [ifEngines, if_pos h, hr]
  rfl

/-- The engines of a cluster do nothing once the switch time has come (R413). -/
theorem whenDue_stopped {n : String} {c : ClusterPos} {r : Option State} (h : enginesRun s c = false) :
    whenDue n (ifEngines s c r) = .refused (.notDue n) := by
  rw [ifEngines, if_neg (by rw [h]; exact Bool.false_ne_true)]
  rfl

end

end Sys2Proof.Machine

section

open Sys2Proof Sys2Proof.Machine

/-- Settles O52, by what each event tests and does. -/
theorem pagesAndCopies : Obligations.PagesAndCopies := by
  intro s vf va page
  refine ⟨fun acc ho hwin hcan ht hv => ?_, ?_, fun v answer frame hv h => ⟨execPageService_unserved hv (drvServes_none h),
      execCopyOnWrite_unserved hv (drvServes_none h)⟩,
    fun v f pte pa bits frame hv hf hw hd hm ha hc h0 hal hfree hne => execCopyOnWrite_copies hv hf hw hd hm ha hc h0 hal hfree hne,
    fun v hv hsw hold hst => ?_, fun fold f v hf hv hfold => ?_, fun fold f v hf hv hfold => ?_, fun c hc => ⟨fun u hu => whenDue_engines hc hu,
      fun q n k hr => whenDue_engines hc (congrArg (Option.map fun k => reserveSlot s c q k.1 k.2) hr),
      fun k st he => whenDue_engines hc (congrArg (Option.map fun k => finishCommand s c k.1 k.2) he)⟩,
    fun c q hc => ⟨whenDue_stopped hc, whenDue_stopped hc, whenDue_stopped hc⟩⟩
  · show execPageWalk va acc s = _
    unfold execPageWalk
    dsimp only
    have ht' : tlbFind s (.core s.core.who.pos) s.core.who.vf va = none := ht
    have hv' : (vfAt s s.core.who.vf).isNone = false := by
      rw [← Bool.not_eq_true, Option.isNone_iff_eq_none, ← Ne, Option.ne_none_iff_isSome]
      exact hv
    rw [if_neg (by rw [decide_eq_false ho, hwin, hcan, ht', hv']; decide)]
    cases (leafFor s s.core.who va).2 <;> rfl
  · intro v f pte pa hv hf hm hd ha hpa u
    refine ⟨?_, execPageService_serves hv hf hm hd ha .refuse⟩
    rw [execPageService_serves hv hf hm hd ha (.install pte)]
    dsimp only
    rw [hpa]
  · have hno : ((allCores s).any fun c => c.vf == vf && c.occ != .idle && c.q.sb.any (staleEntry s v)) = false := by
      refine List.any_eq_false.2 fun c hc h => ?_
      simp only [Bool.and_eq_true, beq_iff_eq, bne_iff_ne, List.any_eq_true] at h
      obtain ⟨⟨hcv, hocc⟩, b, hb, hs⟩ := h
      exact Bool.false_ne_true ((((hst c hc hcv).resolve_left hocc) b hb).symm.trans hs)
    show execTlbInvalidation vf s = _
    unfold execTlbInvalidation
    rw [hv]
    dsimp only
    rw [hsw, hold, hno]
    exact if_neg (by decide)
  · have hin : vfInFold s fold vf = true := by
      unfold vfInFold
      rw [hv]
      exact beq_iff_eq.2 hfold
    refine ⟨?_, ?_, fun pte pa bits hw => ?_⟩
    · show execPgdone fold vf va 0 s = _
      unfold execPgdone
      rw [hf]
      dsimp only
      rw [hin]
      rfl
    · show execPgdone fold vf va 1 s = _
      unfold execPgdone
      rw [hf]
      dsimp only
      rw [hin]
      rfl
    · show execCowdone fold vf va s = _
      unfold execCowdone
      rw [hf]
      dsimp only
      rw [hv]
      dsimp only
      rw [if_neg (not_not.2 hfold), hw]
      rfl
  · have hin : vfInFold s fold vf = false := by
      unfold vfInFold
      rw [hv]
      exact beq_eq_false_iff_ne.2 hfold
    refine ⟨?_, ?_⟩
    · show execPgdone fold vf va 0 s = _
      unfold execPgdone
      rw [hf]
      dsimp only
      rw [hin]
      rfl
    · show execCowdone fold vf va s = _
      unfold execCowdone
      rw [hf]
      dsimp only
      rw [hv]
      dsimp only
      rw [if_pos hfold]
      rfl

end

namespace Sys2Proof.Machine

/-! ## Doorbells (R81, R84) -/

/-- A count of refused writes, which stays at its last value (R84). -/
theorem dbdrop_counts (n : BitVec 32) :
    (if n = BitVec.allOnes 32 then n else n + 1).toNat = Nat.min (n.toNat + 1) (2 ^ 32 - 1) := by
  have hlt := n.isLt
  show _ = min (n.toNat + 1) (2 ^ 32 - 1)
  rw [Nat.min_def]
  split
  · next h =>
    rw [h]
    rfl
  · next h =>
    have hne : n.toNat ≠ 2 ^ 32 - 1 := fun hn => h (BitVec.eq_of_toNat_eq hn)
    rw [BitVec.toNat_add, if_pos (by omega)]
    have hle : n.toNat + 1 < 2 ^ 32 := by omega
    exact Nat.mod_eq_of_lt hle

/-- A refused doorbell sets the bit of its queue in QOVF where that is enabled and full (R84). -/
theorem qovf_sets (v : BitVec 8) {p : Nat} (hp : p < 8) (full : Bool) (b : Nat) :
    (if full then v ||| BitVec.ofNat 8 (2 ^ p) else v).getLsbD b = (v.getLsbD b || decide (b = p) && full) := by
  cases full with
  | false => simp
  | true =>
    rw [if_pos rfl, BitVec.getLsbD_or, BitVec.getLsbD_ofNat, Nat.testBit_two_pow, Bool.and_true]
    by_cases hb : b = p
    · simp [hb, hp]
    · simp [hb, Ne.symm hb]

section
variable {s : State} {vf p : Nat} {value : Word} {v : Vf}

/-- A doorbell write of a configured VF without reserved bits. -/
theorem execDoorbell_rings (hp : p < 8) (hvf : vf < 512) (hv : vfAt s vf = some v) (h0 : value.extractLsb' 0 8 = 0)
    (h57 : value.extractLsb' 57 7 = 0) : exec (.doorbell vf p value) s = .next (ringBell s v p (doorbellVa value)) := by
  show execDoorbell vf p value s = _
  unfold execDoorbell
  rw [if_neg (by simp [hp, hvf]), hv]
  dsimp only
  rw [if_neg (by simp [h0, h57])]

/-- A doorbell write that no older one and no copy holds up. -/
theorem ringBell_now (hv : vfAt s vf = some v) (hb : v.bells = []) {recVa : Word} (hw : appendWaits s vf p recVa = none) :
    ringBell s v p recVa = bellAppends s vf p recVa := by
  unfold ringBell
  rw [hb, vfAt_num hv, hw]
  rfl

/-! ## Heads (R90) -/

/-- An entry at the head of a ring that has not been read is checked. -/
theorem execHeadCheck_checks (hv : vfAt s vf = some v) (hp : p < 8) (hq : (queueOf v p).head < (queueOf v p).tail)
    (hw : waitingHead s vf p = none) (ha : headAnswering s vf p = false) :
    exec (.headCheck vf p) s = whenDue "HEAD_CHECK" (checkHead s v p) := by
  show execHeadCheck vf p s = _
  unfold execHeadCheck
  rw [hv]
  dsimp only
  rw [if_neg]
  rw [hw, ha, decide_eq_false (Nat.not_le.2 hp), decide_eq_false (Nat.not_le.2 hq)]
  exact Bool.false_ne_true

/-! ## The choice of a launch (R92) -/

/-- A fold with a running VF, no launch that is placing and no switch due begins to place its next launch. -/
theorem execChooseLaunch_begins {fold n : Nat} {f : Fold} {l : Launch} (hf : foldAt s fold = some f) (hr : f.running = some n)
    (hp : placingOf s n = none) (ht : f.switchT = none) (hl : nextLaunch s f n = some l) :
    exec (.chooseLaunch fold) s = whenDue "CHOOSE_LAUNCH" (beginPlacing s f l) := by
  show execChooseLaunch fold s = _
  unfold execChooseLaunch chooseDue
  rw [hf]
  dsimp only
  rw [hr]
  dsimp only
  rw [hp, ht, hl]
  rfl

/-! ## Strands (R104) -/

section
variable {k : CorePos} {l : Launch} {f : Fold}

theorem heldLaunch_of {h : Word × Nat} (hh : (clusterAt s k.cluster).holds = some h) (hl : launchAt s h.1 = some l)
    (hf : foldAt s l.fold = some f) : heldLaunch s k = some (l, f) := by
  unfold heldLaunch
  rw [hh, Option.bind_some, hl, Option.bind_some, hf, Option.map_some]

/-- May the next strand start on a core that is free for it? -/
theorem canStart_iff (hv : vfRuns s l = true) (hw : strandWaits s l k = true) (ha : coreAdmits s l k = true) :
    canStart s f l k = (!waveHeld f l k && (!recSstep l.record || (launchCores s f l).all (coreAdmits s l))) := by
  unfold canStart
  rw [hv, hw, ha]
  rfl

/-- A strand that may start. -/
theorem strandDue_starts (hh : heldLaunch s k = some (l, f)) (hc : canStart s f l k = true) : strandDue s k =
    if recSstep l.record then some ((launchCores s f l).foldl (fun s q => startStrand s f ((launchAt s l.lid).getD l) q) s)
    else some (startStrand s f l k) := by
  unfold strandDue
  rw [hh]
  exact if_pos hc

/-- A wave that waits for PLACEGO is posted (R113). -/
theorem strandDue_posts (hh : heldLaunch s k = some (l, f)) (hv : vfRuns s l = true) (hw : strandWaits s l k = true)
    (ha : coreAdmits s l k = true) (hheld : waveHeld f l k = true) (h0 : startedOn l k ≠ 0)
    (hp : (l.lid, k.die, startedOn l k) ∉ f.placewaves) (hg : (k.die, startedOn l k) ∉ l.go) :
    strandDue s k = some (postWave s f l k.die (startedOn l k)) := by
  have hc : canStart s f l k = false := by
    rw [canStart_iff hv hw ha, hheld]
    rfl
  unfold strandDue
  rw [hh]
  dsimp only
  rw [hc, if_neg Bool.false_ne_true, if_pos]
  rw [hv, hw, ha, hheld, bne_iff_ne.2 h0]
  simp [hp, hg]

end

end

end Sys2Proof.Machine

section

open Sys2Proof Sys2Proof.Machine

/-- Settles O53, by what each event tests and does. -/
theorem dispatching : Obligations.Dispatching := by
  intro s vf p value
  refine ⟨?_, fun v hp hvf hv hres => ?_, fun hp hvf hv => ?_, fun v hvf hv => ?_, fun v hv hp hq hw ha => ⟨fun u lid hr => ?_,
      fun u l hr hno => ⟨fun hbad => ?_, fun hok hprio => ?_⟩⟩, fun fold f hf ht => ?_, ?_, fun c lid l hl hph hk hkw hv hc hn hh hfree hd hr => ?_,
    fun k h l f hh hl hf hv hw ha => ⟨fun hheld hs => ?_, fun hheld hs hall => ?_, ?_⟩, fun lid l n hl hph hr => ⟨fun hv => ?_, fun hv => ?_⟩⟩
  · intro v hp hvf hv h0 h57 recVa
    have hrings := execDoorbell_rings hp hvf hv h0 h57
    refine ⟨fun r hb hw ha => ?_, fun hb hw ha => ?_, fun w hb hw => ?_, fun hb => ?_⟩
    · rw [hrings, ringBell_now hv hb hw, bellAppends, ha]
    · refine ⟨refuseDoorbell s v p, _, ?_, rfl, rfl, dbdrop_counts v.dbdrop, fun b => ?_⟩
      · rw [hrings, ringBell_now hv hb hw, bellAppends, ha, hv]
      · rw [Bool.and_assoc]
        exact qovf_sets v.qovf hp _ b
    · rw [hrings, ringBell, hb, vfAt_num hv, hw]
      rfl
    · rw [hrings, ringBell, if_pos]
      rw [Bool.not_eq_true', List.isEmpty_eq_false_iff]
      exact hb
  · refine ⟨{ v with dbdrop := if v.dbdrop = BitVec.allOnes 32 then v.dbdrop else v.dbdrop + 1 }, ?_, rfl, dbdrop_counts v.dbdrop⟩
    show execDoorbell vf p value s = _
    unfold execDoorbell
    rw [if_neg (by simp [hp, hvf]), hv]
    exact if_pos (by simpa using hres)
  · show execDoorbell vf p value s = _
    unfold execDoorbell
    rw [if_neg (by simp [hp, hvf]), hv]
  · show execQovfClear vf value s = _
    unfold execQovfClear
    rw [if_neg (Nat.not_le.2 hvf), hv]
  · rw [execHeadCheck_checks hv hp hq hw ha, checkHead, hr, ← vfAt_num hv]
    rfl
  · rw [execHeadCheck_checks hv hp hq hw ha, checkHead, hr]
    dsimp only
    rw [hno, Option.isSome_none, if_neg Bool.false_ne_true, if_pos (by simpa using hbad)]
    rfl
  · rw [execHeadCheck_checks hv hp hq hw ha, checkHead, hr]
    dsimp only
    rw [hno, Option.isSome_none, if_neg Bool.false_ne_true, if_neg (by simp [hok, hprio])]
    rfl
  · show execDependenceTest fold s = _
    unfold execDependenceTest
    rw [hf]
    refine if_pos ?_
    unfold testIsDue
    rw [Bool.or_eq_true, decide_eq_true_eq]
    exact ht
  · intro fold f n l hf hr hp ht hl take
    have hbegins := execChooseLaunch_begins hf hr hp ht hl
    refine ⟨fun u st hpl => ?_, ?_, fun st hs htr => ?_⟩
    · rw [hbegins, beginPlacing, hpl, foldAt_num hf]
      rfl
    · intro u l1 image ks hpl copies
      refine ⟨fun hc => ?_, fun w hc hne => ?_⟩
      · rw [hbegins, beginPlacing, hpl]
        dsimp only
        rw [show askCopies u l.vf (pagesOf l.record.lframe (frameBytes l)) = none from hc, foldAt_num hf]
        rfl
      · rw [hbegins, beginPlacing, hpl]
        dsimp only
        rw [show askCopies u l.vf (pagesOf l.record.lframe (frameBytes l)) = some w from hc]
        dsimp only
        rw [if_neg hne]
        rfl
    · unfold placingTests
      dsimp only
      rw [if_neg (by rw [hs]; exact Bool.false_ne_true), htr]
  · show execClusterTakeLaunch c lid s = _
    unfold execClusterTakeLaunch
    rw [hl]
    refine if_pos ?_
    simp only [hph, hk, hv, hc, hn, hh, hfree, hd, hr, hkw, List.contains_eq_mem, decide_true, decide_false, Bool.not_false, Bool.and_true,
      ne_eq, not_false_eq_true]
  · have hheldL := heldLaunch_of hh hl hf
    have hcan : canStart s f l k = true := by
      rw [canStart_iff hv hw ha, hheld, hs]
      rfl
    show whenDue _ (strandDue s k) = _
    rw [strandDue_starts hheldL hcan, if_neg (by rw [hs]; exact Bool.false_ne_true)]
    rfl
  · have hheldL := heldLaunch_of hh hl hf
    have hcan : canStart s f l k = true := by
      rw [canStart_iff hv hw ha, hheld, hs, List.all_eq_true.2 hall]
      rfl
    show whenDue _ (strandDue s k) = _
    rw [strandDue_starts hheldL hcan, if_pos hs]
    rfl
  · intro wave hheld h0 hp hg
    exact congrArg (whenDue _) (strandDue_posts (heldLaunch_of hh hl hf) hv hw ha hheld h0 hp hg)
  · show whenDue _ ((launchAt s lid).bind fun l => nodeReports s l n) = _
    rw [hl, Option.bind_some, nodeReports, if_pos (by simp [hph, hv, hr])]
    rfl
  · show whenDue _ ((launchAt s lid).bind fun l => nodeReports s l n) = _
    rw [hl, Option.bind_some, nodeReports, if_neg (by simp [hv])]
    rfl

end

namespace Sys2Proof.Machine

/-! ## Records by number -/

/-- The entry that an upsert puts in is the one that its test finds. -/
theorem find?_upsert {α : Type} (p : α → Bool) (x : α) (l : List α) (h : p x = true) : (upsert p x l).find? p = some x := by
  induction l with
  | nil => simp [upsert, h]
  | cons a t ih =>
    by_cases ha : p a = true
    · simp [upsert, ha, h]
    · simp [upsert, ha, ih]

/-- A fold that is written is read back. -/
theorem foldAt_setFold {s : State} {f : Fold} {n : Nat} (h : f.num = n) : foldAt (setFold s f) n = some f := by
  subst h
  exact find?_upsert _ f s.folds (beq_self_eq_true _)

/-- A core that is written is read back. -/
theorem coreAt_setCoreAt {s : State} {c : Core} {p : CorePos} (h : c.pos = p) : coreAt (setCoreAt s c) p = c := by
  subst h
  unfold setCoreAt
  by_cases hp : s.core.pos = c.pos
  · rw [if_pos hp]
    exact if_pos rfl
  · rw [if_neg hp]
    unfold coreAt
    rw [if_neg hp, find?_upsert (fun h : Core => h.pos == c.pos) c s.others (beq_self_eq_true _)]
    rfl

/-! ## Messages of the host (R98, R113, R424, R450, R451) -/

section
variable {s : State} {fold : Nat} {f : Fold} {lid : Word}

/-- The fold after a message of the host. -/
def tookFold (f : Fold) : Fold := { f with h2dhead := f.h2dhead + 1, h2dtail := Nat.max f.h2dtail (f.h2dhead + 1) }

/-- A message of the host that is acted on moves H2DHEAD of its fold. -/
theorem foldAt_consumeMsg (hf : foldAt s fold = some f) : foldAt (consumeMsg s f) fold = some (tookFold f) :=
  foldAt_setFold (show f.num = fold from foldAt_num hf)

theorem getD_consumeMsg (hf : foldAt s fold = some f) : (foldAt (consumeMsg s f) fold).getD f = tookFold f := by
  rw [foldAt_consumeMsg hf]
  rfl

/-- What waits on a strand that the host lets go on: the strand, and its state in a saved context (R424). -/
def containGo (s : State) (p : CorePos) (lid : Word) : State :=
  let c := coreAt s p
  let s3 := if c.lid = lid then setCoreAt s (goOn c) else s
  { s3 with vfs := s3.vfs.map fun v => { v with saved := v.saved.map fun x =>
    { x with cores := x.cores.map fun k => if k.pos = p && k.lid = lid then goOn k else k } } }

/-- A strand that goes on changes no fold. -/
theorem containGo_folds (s : State) (p : CorePos) (lid : Word) : (containGo s p lid).folds = s.folds := by
  unfold containGo
  dsimp only
  split
  · unfold setCoreAt
    split <;> rfl
  · rfl

/-- A strand that goes on changes cores and saved contexts alone. -/
theorem containGo_eq (s : State) (p : CorePos) (lid : Word) : containGo s p lid =
    { s with core := (containGo s p lid).core, others := (containGo s p lid).others, vfs := (containGo s p lid).vfs } := by
  unfold containGo
  dsimp only
  split
  · unfold setCoreAt
    split <;> rfl
  · rfl

/-- The strand that waited for the host's policy goes on. -/
theorem coreAt_containGo {p : CorePos} (h : (coreAt s p).lid = lid) : coreAt (containGo s p lid) p = goOn (coreAt s p) := by
  unfold containGo
  dsimp only
  rw [if_pos h]
  exact coreAt_setCoreAt (coreAt_pos s p)

/-- CONTAINACT of a request that waits (R424). -/
theorem execContainact_applies {policy : Word} {r : ContReq} (hf : foldAt s fold = some f)
    (hr : f.contReqs.find? (fun r => r.lid == lid) = some r) (hp : policy.toNat ≤ 2) : exec (.containact fold lid policy) s =
      .next (applyPolicy (containGo (setFold (consumeMsg s f) { tookFold f with contReqs := f.contReqs.erase r }) r.core lid) fold lid (lidVf lid)
        policy.toNat) := by
  show execContainact fold lid policy s = _
  unfold execContainact
  rw [hf]
  dsimp only
  rw [hr]
  dsimp only
  rw [if_pos hp, getD_consumeMsg hf]
  rfl

/-- REFUSE of a launch of the fold. -/
theorem execRefuse_finds {l : Launch} {status : Word} (hf : foldAt s fold = some f) (hl : launchAt s lid = some l) (hlf : l.fold = fold) :
    exec (.refuse fold lid status) s =
      if (f.mode.getLsbD 3 && l.phase == .waiting && (status == 5 || status == 6)) = true then
        .next (setFold (answer (consumeMsg s f) { l with atHead := true } status.toNat 0 0)
          { (foldAt (answer (consumeMsg s f) { l with atHead := true } status.toNat 0 0) fold).getD f with
            starts := f.starts.filter (· != lid) })
      else if (l.assisted && l.phase == .placing && status == 6 && !wavesGo f l) = true then
        .next (setFold (answer (consumeMsg s f) l 6 0 0)
          { (foldAt (answer (consumeMsg s f) l 6 0 0) fold).getD f with placewaves := f.placewaves.filter fun w => w.1 != lid })
      else .next (ignoreMsg s f 9 (lidVf lid) lid) := by
  show execRefuse fold lid status s = _
  unfold execRefuse
  rw [hf]
  dsimp only
  rw [hl, Option.filter_some, if_pos (beq_iff_eq.2 hlf)]

end

end Sys2Proof.Machine

section

open Sys2Proof Sys2Proof.Machine

/-- Settles O54, by what each message tests and does. -/
theorem hostMessages : Obligations.HostMessages := by
  intro s fold f lid hf
  refine ⟨fun vf v hm hs hT hto hre hv hvf hw => ?_, fun vf hm => ?_, fun l hl hlid hlf hph hm hst => ?_, fun hm => ?_,
    fun l status hl hlf hm hph hst => ⟨_, ?_, rfl⟩, fun l hl hlf hph ha hg => ?_, fun hl status => ?_,
    fun l die wave hl hw => ⟨_, ?_, rfl⟩, fun die wave hw => ?_, fun r policy hp hr => ⟨_, _, execContainact_applies hf hr hp, rfl, ?_, fun hc => ?_, ?_⟩,
    fun policy hr => ?_, ?_, fun v hv => ?_⟩
  · have hin : vfInFold s fold vf = true := by
      unfold vfInFold
      rw [hv]
      exact beq_iff_eq.2 hvf
    have hv' : vfAt (consumeMsg s f) vf = some v := hv
    show execNextvf fold vf s = _
    unfold execNextvf
    rw [hf]
    dsimp only
    rw [if_pos (by rw [hm, hs, hT, hto, hre, hin, hw]; rfl), hv']
    dsimp only
    rw [show foldAt (setVf (consumeMsg s f) (atTurn v)) fold = some (tookFold f) from foldAt_consumeMsg hf]
    rfl
  · show execNextvf fold vf s = _
    unfold execNextvf
    rw [hf]
    dsimp only
    rw [hm, if_neg (by simp)]
    rfl
  · have hany : (s.launches.any fun l => l.lid == lid && l.fold == fold && l.phase == .waiting) = true :=
      List.any_eq_true.2 ⟨l, hl, by rw [hlid, hlf, hph]; simp⟩
    show execStart fold lid s = _
    unfold execStart
    rw [hf]
    dsimp only
    rw [hm, hany, if_pos (by simpa using hst), getD_consumeMsg hf]
    rfl
  · show execStart fold lid s = _
    unfold execStart
    rw [hf]
    dsimp only
    rw [hm, if_neg (by simp)]
    rfl
  · rw [execRefuse_finds hf hl hlf, if_pos]
    · rfl
    · rw [hm, hph]
      simpa using hst
  · rw [execRefuse_finds hf hl hlf, if_neg (by rw [hph]; simp), if_pos (by rw [hph, ha, hg]; rfl)]
    rfl
  · show execRefuse fold lid status s = _
    unfold execRefuse
    rw [hf]
    dsimp only
    rw [hl]
    rfl
  · show execPlacego fold lid die wave s = _
    unfold execPlacego
    rw [hf]
    dsimp only
    rw [hl]
    dsimp only
    rw [if_pos hw, getD_consumeMsg hf]
    rfl
  · show execPlacego fold lid die wave s = _
    unfold execPlacego
    rw [hf]
    dsimp only
    split
    · rfl
    · rw [if_neg (by rw [hw]; exact Bool.false_ne_true)]
      rfl
  · unfold foldAt
    rw [containGo_folds]
    exact foldAt_setFold (show f.num = fold from foldAt_num hf)
  · exact coreAt_containGo hc
  · refine (containGo_eq _ _ _).trans ?_
    rw [containGo_folds]
    rfl
  · show execContainact fold lid policy s = _
    unfold execContainact
    rw [hf]
    dsimp only
    rw [hr]
    rfl
  · intro v h1 h2 u
    have hexec : exec (.d2hheadWrite fold v) s = .next (postWaiting f.mbWait.length u fold) := by
      show execD2hheadWrite fold v s = _
      unfold execD2hheadWrite
      rw [hf]
      dsimp only
      rw [if_neg]
      rw [Bool.or_eq_true, decide_eq_true_eq, decide_eq_true_eq, not_or]
      exact ⟨Nat.not_lt.2 h1, Nat.not_lt.2 h2⟩
    refine ⟨hexec, fun hw => ?_⟩
    rw [hexec, hw]
    rfl
  · show execD2hheadWrite fold v s = _
    unfold execD2hheadWrite
    rw [hf]
    dsimp only
    rw [if_pos]
    rw [Bool.or_eq_true, decide_eq_true_eq, decide_eq_true_eq]
    exact hv

end

namespace Sys2Proof.Machine

/-! ## Slices (R87, R98, R99) -/

/-- A fold of a number has a mode in force and a slice that began at a time. -/
def FoldHas (s : State) (n : Nat) (mode : BitVec 7) (start : Nat) : Prop :=
  ∃ g, foldAt s n = some g ∧ g.num = n ∧ g.mode = mode ∧ g.sliceStart = start

section
variable {s : State} {n start : Nat} {mode : BitVec 7}

/-- A message to the host leaves the mode of a fold and its slice. -/
theorem foldHas_postMb {e : MbEntry} (h : FoldHas s n mode start) : FoldHas (postMb s n e) n mode start := by
  obtain ⟨g, hg, hnum, hm, hs⟩ := h
  unfold postMb
  rw [hg]
  dsimp only
  split
  · split
    · exact ⟨_, foldAt_setFold hnum, hnum, hm, hs⟩
    · exact ⟨_, foldAt_setFold hnum, hnum, hm, hs⟩
  · exact ⟨_, foldAt_setFold hnum, hnum, hm, hs⟩

theorem foldHas_postHead {l : Launch} (h : FoldHas s n mode start) : FoldHas (postHead s n l) n mode start := by
  unfold postHead
  split
  · split
    · exact foldHas_postMb h
    · exact h
  · exact h

/-- A message to the host takes no time. -/
theorem postHead_now {l : Launch} : (postHead s n l).now = s.now := by
  unfold postHead
  split
  · split
    · unfold postMb
      split
      · rfl
      · split
        · dsimp only
          split <;> rfl
        · rfl
    · rfl
  · rfl

end

section
variable {s : State} {f : Fold}

/-- FOLDMODE takes effect at once (R452). -/
theorem foldHas_applyMode (s : State) (f : Fold) : FoldHas (applyMode s f) f.num f.nextMode f.sliceStart := by
  unfold applyMode
  dsimp only
  split
  · refine foldl_keeps (P := fun u => FoldHas u f.num f.nextMode f.sliceStart) (fun u l h => foldHas_postHead h) ?_
    exact ⟨_, foldAt_setFold (show f.num = f.num from rfl), rfl, rfl, rfl⟩
  · exact ⟨_, foldAt_setFold (show f.num = f.num from rfl), rfl, rfl, rfl⟩

/-- A change of mode takes no time. -/
theorem timeOf_applyMode (s : State) (f : Fold) : timeOf (applyMode s f) = timeOf s := by
  have hnow : (applyMode s f).now = s.now := by
    unfold applyMode
    dsimp only
    split
    · exact foldl_keeps (P := fun u : State => u.now = s.now) (fun u l h => postHead_now.trans h) rfl
    · rfl
  unfold timeOf
  rw [hnow]

/-- The fold after a change of mode. -/
def modeFold (s : State) (f : Fold) : Fold := (foldAt (applyMode s f) f.num).getD f

theorem modeFold_spec (s : State) (f : Fold) :
    (modeFold s f).num = f.num ∧ (modeFold s f).mode = f.nextMode ∧ (modeFold s f).sliceStart = f.sliceStart := by
  obtain ⟨g, hg, hnum, hm, hs⟩ := foldHas_applyMode s f
  rw [modeFold, hg]
  exact ⟨hnum, hm, hs⟩

/-- No gang switch is under way, and no job of the module holds the fold: a slice boundary can come. -/
def BoundaryOpen (s : State) (f : Fold) : Prop :=
  f.switchT = none ∧ f.switchTo = none ∧ f.restart = none ∧ f.sliceWaiting = false ∧ jobHolds s f = false

/-- What happens at an open boundary. -/
theorem sliceDue_open (h : BoundaryOpen s f) : sliceDue s f =
    if sliceRuns f then
      match f.running with
      | none => none
      | some vf =>
        if decide ((timeOf s).toNat < f.sliceStart + 100 * f.sliceQuantum) && readyWork s f vf then none
        else if (modeFold s f).mode.getLsbD 2 then some (reportSlice (applyMode s f) (modeFold s f) vf)
        else
          let r := pickVf (chargeSlice (applyMode s f) f vf) (modeFold s f) (some vf)
          some (match r.2 with
            | some v => beginSlice r.1 (modeFold s f) v
            | none => setFold r.1 { modeFold s f with sliceQuantum := 0 })
    else if f.nextMode ≠ f.mode then some (applyMode s f)
    else if !f.mode.getLsbD 2 && (foldVfs s f.num).any fun v => readyWork s f v.num then
      let r := pickVf s f none
      r.2.map fun v => beginSlice r.1 f v
    else none := by
  obtain ⟨hT, hto, hre, hw, hj⟩ := h
  unfold sliceDue
  refine (if_neg (by rw [hT, hto, hre, hw, hj]; decide)).trans ?_
  rfl

theorem sliceRuns_of (h : BoundaryOpen s f) (hq : f.sliceQuantum ≠ 0) : sliceRuns f = true := by
  obtain ⟨-, -, -, hw, -⟩ := h
  rw [sliceRuns, hw, bne_iff_ne.2 hq]
  rfl

theorem sliceRuns_none (hq : f.sliceQuantum = 0) : sliceRuns f = false := by
  rw [sliceRuns, hq]
  rfl

/-- A slice that has used its quantum, or whose VF has no ready work, ends (R87, R98). -/
theorem sliceDue_ends {vf : Nat} (h : BoundaryOpen s f) (hq : f.sliceQuantum ≠ 0) (hr : f.running = some vf)
    (he : f.sliceStart + 100 * f.sliceQuantum ≤ (timeOf s).toNat ∨ readyWork s f vf = false) : sliceDue s f =
    if f.nextMode.getLsbD 2 then some (reportSlice (applyMode s f) (modeFold s f) vf)
    else
      let r := pickVf (chargeSlice (applyMode s f) f vf) (modeFold s f) (some vf)
      some (match r.2 with
        | some v => beginSlice r.1 (modeFold s f) v
        | none => setFold r.1 { modeFold s f with sliceQuantum := 0 }) := by
  obtain ⟨-, hmode, -⟩ := modeFold_spec s f
  have hend : (decide ((timeOf s).toNat < f.sliceStart + 100 * f.sliceQuantum) && readyWork s f vf) = false := by
    rw [Bool.and_eq_false_iff, decide_eq_false_iff_not, Nat.not_lt]
    exact he
  rw [sliceDue_open h, if_pos (sliceRuns_of h hq), hr]
  dsimp only
  rw [hend, if_neg Bool.false_ne_true, hmode]

/-- What SLICEEND leaves, with the time used as it is reported in the ring of a fold (R98). -/
def reportedSlice (s : State) (f : Fold) (vf n used : Nat) : State :=
  let u := postMb (setFold s { f with sliceWaiting := true, sliceQuantum := 0 }) n
    ⟨5, vf, BitVec.ofNat 64 used, BitVec.ofNat 64 ((((vfAt s vf).map (·.debt)).getD 0) / 100), 0⟩
  match vfAt u vf with
  | some v => setVf u { v with debt := 0 }
  | none => u

theorem reportSlice_reported (s : State) (f : Fold) (vf : Nat) :
    reportSlice s f vf = reportedSlice s f vf f.num (((timeOf s).toNat - f.sliceStart) / 100) := rfl

/-- What is reported of a slice at whose end a mode takes effect. -/
theorem reportSlice_eq (s : State) (f : Fold) (vf : Nat) : reportSlice (applyMode s f) (modeFold s f) vf =
    reportedSlice (applyMode s f) (modeFold s f) vf f.num (((timeOf s).toNat - f.sliceStart) / 100) := by
  obtain ⟨hnum, -, hstart⟩ := modeFold_spec s f
  rw [reportSlice_reported, timeOf_applyMode, hnum, hstart]

end

/-! ## Gang switches (R411 to R417) -/

section
variable {s : State} {f : Fold} {vf t : Nat}

/-- A switch out waits for its time (R411). -/
theorem switchOutDue_early (hr : f.running = some vf) (ht : f.switchT = some t) (h : (timeOf s).toNat < t) : switchOutDue s f = none := by
  unfold switchOutDue
  rw [hr, ht]
  exact if_pos h

/-- The cores that no open region delays stop at the switch time, and with the last of them the context is saved (R412, R416). -/
theorem switchOutDue_stops (hr : f.running = some vf) (ht : f.switchT = some t) (h : t ≤ (timeOf s).toNat) : switchOutDue s f =
    let u := stopCores (atSwitchTime s f vf) f vf
    let g := (foldAt u f.num).getD f
    if (coresOf u g vf).all fun c => c.sync.halted then some (switchOut u g vf t) else if u = s then none else some u := by
  unfold switchOutDue
  rw [hr, ht]
  exact if_neg (Nat.not_lt.2 h)

/-- A VF that a switch in is to bring (R415). -/
theorem switchInDue_comes {v : Vf} {ok : Bool} (hr : f.running = none) (hto : f.switchTo = some vf) (hv : vfAt s vf = some v) :
    switchInDue s f vf ok = match v.saved with
      | none => some (beginRunning s f vf)
      | some x => restoreDue s f v x ok := by
  unfold switchInDue
  rw [hr]
  dsimp only
  rw [if_neg (not_not.2 hto), hv, Option.bind_some] <;> rfl

/-- A restore whose tags match (R415). -/
theorem restoreDue_ok {v : Vf} {x : Saved} (ha : areaOk f v x = true) (hi : reinjected s f = false) : restoreDue s f v x true =
    match x.packets.map (·.hops) with
    | [] => some (putBack s f v.num x)
    | h :: t =>
      let r := injectRound (t.foldl Nat.min h) s [] x.packets
      if r.2.length = x.packets.length then none
      else some (setVf r.1 { v with saved := some { x with packets := r.2, restoring := true } }) := by
  unfold restoreDue
  rw [if_neg (by rw [ha]; decide), if_neg (by rw [hi]; exact Bool.false_ne_true)] <;> rfl

/-- A restore whose tags fail ends what was started (R422). -/
theorem restoreDue_fails {v : Vf} {x : Saved} {ok : Bool} (h : ok = false ∨ areaOk f v x = false) (hx : x.restoring = false) :
    restoreDue s f v x ok = some (beginRunning (dropSaved (failRestore s f v.num) v.num) f v.num) := by
  have hb : (ok && areaOk f v x) = false := by
    rw [Bool.and_eq_false_iff]
    exact h
  unfold restoreDue
  rw [hb, if_pos Bool.not_false, if_neg (by rw [hx]; exact Bool.false_ne_true)]

end

/-! ## The watchdog (R456) -/

section
variable {s : State} {fold : Nat} {f : Fold}

/-- An event of a fold. -/
theorem execSliceEnd_of (hf : foldAt s fold = some f) : exec (.sliceEnd fold) s = whenDue "SLICE_END" (sliceDue s f) := by
  show execSliceEnd fold s = _
  unfold execSliceEnd
  rw [hf]

theorem execGangSwitchOut_of (hf : foldAt s fold = some f) : exec (.gangSwitchOut fold) s = whenDue "GANG_SWITCH_OUT" (switchOutDue s f) := by
  show execGangSwitchOut fold s = _
  unfold execGangSwitchOut
  rw [hf]

theorem execGangSwitchIn_of {vf : Nat} {ok : Bool} (hf : foldAt s fold = some f) :
    exec (.gangSwitchIn fold vf ok) s = whenDue "GANG_SWITCH_IN" (switchInDue s f vf ok) := by
  show execGangSwitchIn fold vf ok s = _
  unfold execGangSwitchIn
  rw [hf]

theorem execWatchdogStage_of (hf : foldAt s fold = some f) : exec (.watchdogStage fold) s = whenDue "WATCHDOG_STAGE" (watchdogDue s f) := by
  show execWatchdogStage fold s = _
  unfold execWatchdogStage
  rw [hf]

/-- The ladder goes to its next stage (R456). -/
theorem watchdogDue_climbs (hl : lacksProgress s f = true) (h6 : f.wdStage < 6)
    (ht : f.wdStage = 0 ∨ f.wdSince + (f.wdTimes[f.wdStage]?).getD 0 ≤ (timeOf s).toNat) : watchdogDue s f =
    some (stageActs (setStage s f (f.wdStage + 1)) ((foldAt (setStage s f (f.wdStage + 1)) f.num).getD f) (f.wdStage + 1)) := by
  unfold watchdogDue
  rw [hl, if_neg (by decide), if_neg]
  rw [Bool.or_eq_true, decide_eq_true_eq, decide_eq_true_eq]
  omega

/-- The ladder falls back (R456). -/
theorem watchdogDue_falls (hl : lacksProgress s f = false) (h0 : f.wdStage ≠ 0) : watchdogDue s f = some (setStage s f 0) := by
  unfold watchdogDue
  rw [hl, if_pos Bool.not_false, if_neg h0]

/-- A write to DRVBEAT (R453, R456). -/
theorem execDrvbeatWrite_of {die : Nat} {v : Word} (he : dieEnabled s die = true) {u : State}
    (hu : u = setDie s { dieAt s die with drvbeat := v, beatAt := (timeOf s).toNat, drover := { (dieAt s die).drover with irq := false } }) :
    exec (.drvbeatWrite die v) s = match (dieAt s die).fold.bind (foldAt u) with
      | some f => .next (if f.wdStage ≠ 0 && !lacksProgress u f then setStage u f 0 else u)
      | none => .next u := by
  subst hu
  show execDrvbeatWrite die v s = _
  unfold execDrvbeatWrite
  rw [he]
  exact if_neg (by decide)

end

end Sys2Proof.Machine

section

open Sys2Proof Sys2Proof.Machine

/-- Settles O55, by what is due at each boundary, in each switch and at each stage of the ladder. -/
theorem slicesAndSwitches : Obligations.SlicesAndSwitches := by
  intro s fold f hf now bound a g
  obtain rfl : f.num = fold := foldAt_num hf
  have hopen : bound → BoundaryOpen s f := id
  refine ⟨fun vf hb hq hr he => ⟨fun hm => ?_, fun hm => ?_⟩, fun vf hb hq hr hlt hw => ?_, fun hb hq hne => ?_,
    fun vf hb hq heq hm hw hp => ?_, ?_, fun vf v ok hr hto hv => ⟨fun hs => ?_, fun x hs hbad hx => ?_, fun x hs hok ha hi hp => ?_, ?_⟩,
    fun vf t ok hr ht => ⟨fun hle => ?_, fun hlt => ?_⟩, fun hl h0 => ?_, fun hl h0 => ?_, fun n hn hl h0 h6 ht => ?_, ?_⟩
  · intro r
    rw [execSliceEnd_of hf, sliceDue_ends (hopen hb) hq hr he, if_neg (by rw [hm]; exact Bool.false_ne_true)]
    rfl
  · intro used debt u
    rw [execSliceEnd_of hf, sliceDue_ends (hopen hb) hq hr he, if_pos hm, reportSlice_eq]
    rfl
  · rw [execSliceEnd_of hf, sliceDue_open (hopen hb), if_pos (sliceRuns_of (hopen hb) hq), hr]
    dsimp only
    rw [decide_eq_true hlt, hw]
    rfl
  · rw [execSliceEnd_of hf, sliceDue_open (hopen hb), if_neg (by rw [sliceRuns_none hq]; exact Bool.false_ne_true), if_pos hne]
    rfl
  · rw [execSliceEnd_of hf, sliceDue_open (hopen hb), if_neg (by rw [sliceRuns_none hq]; exact Bool.false_ne_true), if_neg (not_not.2 heq),
      if_pos (by rw [hm, hw]; rfl)]
    dsimp only
    rw [hp]
    rfl
  · intro vf t hr ht u h
    refine ⟨fun hlt => ?_, fun hle hall => ?_, fun hle hex hne => ?_⟩
    · rw [execGangSwitchOut_of hf, switchOutDue_early hr ht hlt]
      rfl
    · rw [execGangSwitchOut_of hf, switchOutDue_stops hr ht hle]
      dsimp only
      rw [if_pos (List.all_eq_true.2 hall)]
      rfl
    · rw [execGangSwitchOut_of hf, switchOutDue_stops hr ht hle]
      dsimp only
      rw [if_neg, if_neg hne]
      · rfl
      · rw [List.all_eq_true]
        obtain ⟨c, hc, hh⟩ := hex
        exact fun hall => Bool.false_ne_true (hh.symm.trans (hall c hc))
  · rw [execGangSwitchIn_of hf, switchInDue_comes hr hto hv, hs]
    rfl
  · rw [execGangSwitchIn_of hf, switchInDue_comes hr hto hv, hs]
    dsimp only
    rw [restoreDue_fails hbad hx, vfAt_num hv]
    rfl
  · rw [execGangSwitchIn_of hf, switchInDue_comes hr hto hv, hs]
    dsimp only
    rw [hok, restoreDue_ok ha hi, hp, vfAt_num hv]
    rfl
  · intro x p ps hs hok ha hi hp r hne
    rw [execGangSwitchIn_of hf, switchInDue_comes hr hto hv, hs]
    dsimp only
    rw [hok, restoreDue_ok ha hi]
    have hhops : x.packets.map (·.hops) = p.hops :: ps.map (·.hops) := by rw [hp]; rfl
    rw [hhops]
    dsimp only
    rw [if_neg hne]
    rfl
  · rw [execGangSwitchIn_of hf, switchInDue, hr, ht]
    dsimp only
    rw [if_pos (by rw [decide_eq_true rfl, decide_eq_true hle]; rfl)]
    rfl
  · rw [execGangSwitchIn_of hf, switchInDue, hr, ht]
    dsimp only
    rw [if_neg (by rw [decide_eq_false (Nat.not_le.2 hlt), Bool.and_false]; exact Bool.false_ne_true)]
    rfl
  · rw [execWatchdogStage_of hf, watchdogDue_climbs hl (by omega) (Or.inl h0), h0]
    rfl
  · rw [execWatchdogStage_of hf, watchdogDue_falls hl h0]
    rfl
  · rw [execWatchdogStage_of hf, watchdogDue_climbs hl (by omega) (Or.inr ht), hn]
    rfl
  · intro die v u he
    have hu : foldAt u f.num = some f := hf
    refine ⟨fun hd => ?_, fun hd h0 => ?_, fun hd h0 hl => ?_⟩
    · rw [execDrvbeatWrite_of he (Eq.refl u), hd]
      rfl
    · rw [execDrvbeatWrite_of he (Eq.refl u), hd, Option.bind_some, hu]
      dsimp only
      rw [if_neg (by simp [h0])]
    · rw [execDrvbeatWrite_of he (Eq.refl u), hd, Option.bind_some, hu]
      dsimp only
      rw [if_pos (by simp [h0, hl])]
      rfl

end

namespace Sys2Proof.Machine

/-! ## Packets (R13 to R17) -/

section
variable {s : State} {i : Nat} {p : Packet}

theorem execPacketHop_of (hp : s.packets[i]? = some p) : exec (.packetHop i) s = whenDue "PACKET_HOP" (hopDue s i p) := by
  show whenDue _ ((s.packets[i]?).bind (hopDue s i)) = _
  rw [hp, Option.bind_some]

theorem execPacketDeliver_of (hp : s.packets[i]? = some p) : exec (.packetDeliver i) s = whenDue "PACKET_DELIVER" (deliverDue s i p) := by
  show whenDue _ ((s.packets[i]?).bind (deliverDue s i)) = _
  rw [hp, Option.bind_some]

/-- A packet behind another of its buffer does not move (R14). -/
theorem hopDue_behind (hf : isFirst s i p = false) : hopDue s i p = none := if_pos (by rw [hf]; rfl)

/-- Where the first packet of a buffer goes. -/
theorem hopDue_first (hf : isFirst s i p = true) : hopDue s i p =
    match p.at_ with
    | .passenger => if hasCredit s { p with at_ := .leaving } then some (movePacket s i p .leaving) else none
    | .leaving =>
      let r := routerOf p.srcSocket p.srcPort
      let a := PacketAt.input r.1 r.2 (portInput p.srcSocket)
      if hasCredit s { p with at_ := a } then some (movePacket s i p a) else none
    | .input c r from_ =>
      let n := nextPlace p c r
      if turnOf s c r n.1 p.response == some from_ && hasCredit s { p with at_ := n.2 } then
        let s1 := movePacket s i p n.2
        some { s1 with grants := upsert (isGrant c r n.1 p.response) ⟨c, r, n.1, p.response, from_⟩ s1.grants }
      else none
    | _ => none := by
  unfold hopDue
  rw [if_neg (by rw [hf]; decide)] <;> rfl

/-- Does a port deliver a packet: its own fold's, the service's, an I/O die's, or that of a peer with a handle (R17, R126)? -/
def Takes (s : State) (p : Packet) : Prop :=
  (passengerFold s p.dstSocket = some p.fold ∧ p.kind ≠ .service) ∨ (p.kind = .service ∧ p.dstSocket < 64) ∨
    (p.kind = .ioDie ∧ 64 ≤ p.dstSocket) ∨
    ∃ id n g h, p.kind = .peer id ∧ passengerFold s p.dstSocket = some n ∧ foldAt s n = some g ∧ h ∈ g.handles ∧ h.id = id ∧
      h.importer = p.fold ∧ h.revoked = false

/-- Does a handle of a fold let a packet of its importer in (R126)? -/
theorem peerHandle_iff (s : State) (o : Option Nat) (id : Word) (fold : Nat) :
    ((o.bind (foldAt s)).any fun f => f.handles.any fun h => h.id == id && h.importer == fold && !h.revoked) = true ↔
      ∃ n g h, o = some n ∧ foldAt s n = some g ∧ h ∈ g.handles ∧ h.id = id ∧ h.importer = fold ∧ h.revoked = false := by
  simp only [Option.any_eq_true, Option.bind_eq_some_iff, List.any_eq_true, Bool.and_eq_true, beq_iff_eq, Bool.not_eq_true', and_assoc]
  constructor
  · rintro ⟨g, ⟨n, hn, hg⟩, h, hh, rest⟩
    exact ⟨n, g, h, hn, hg, hh, rest⟩
  · rintro ⟨n, g, h, hn, hg, hh, rest⟩
    exact ⟨g, ⟨n, hn, hg⟩, h, hh, rest⟩

theorem delivers_iff (s : State) (p : Packet) : delivers s p = true ↔ Takes s p := by
  unfold delivers Takes
  cases hk : p.kind with
  | plain => simp
  | ioDie => simp
  | service => simp
  | peer id =>
    rw [Bool.or_eq_true, beq_iff_eq, peerHandle_iff]
    constructor
    · rintro (h | ⟨n, g, h, rest⟩)
      · exact Or.inl ⟨h, nofun⟩
      · exact Or.inr (Or.inr (Or.inr ⟨id, n, g, h, rfl, rest⟩))
    · rintro (⟨h, -⟩ | ⟨h, -⟩ | ⟨h, -⟩ | ⟨_, n, g, h, hid, rest⟩)
      · exact Or.inl h
      · cases h
      · cases h
      · cases hid
        exact Or.inr ⟨n, g, h, rest⟩

/-- The first packet that arrives at a port is delivered, or discarded with a record (R17). -/
theorem deliverDue_first (ha : p.at_ = .arriving) (hf : isFirst s i p = true) : deliverDue s i p =
    some (if delivers s p then landed { s with packets := withoutPacket s i } p
      else logRas { s with packets := withoutPacket s i } (some p.fold) .isolation (BitVec.ofNat 64 p.dstSocket)) := by
  unfold deliverDue
  rw [if_neg (by rw [ha, hf]; decide)]

/-- A packet that is taken lands. -/
theorem packetDeliver_lands {t : State} (hp : s.packets[i]? = some p) (ha : p.at_ = .arriving) (hf : isFirst s i p = true) (ht : Takes s p)
    (hl : landed { s with packets := withoutPacket s i } p = t) : exec (.packetDeliver i) s = .next t := by
  rw [execPacketDeliver_of hp, deliverDue_first ha hf, if_pos ((delivers_iff s p).2 ht), hl]
  rfl

end

/-! ## The host's accesses (R354) -/

/-- As many bytes are read as asked for. -/
theorem hostReadBytes_length (s : State) (key n : Nat) : (hostReadBytes s key n).2.length = n := by
  induction n generalizing s key with
  | zero => rfl
  | succ n ih =>
    show (_ :: (hostReadBytes _ _ n).2).length = n + 1
    rw [List.length_cons, ih]

/-- An access within a line has one part. -/
theorem lineParts_single {pa n : Nat} (h0 : 0 < n) (h : pa % 64 + n ≤ 64) : lineParts n pa n = [(pa, n)] := by
  obtain ⟨m, rfl⟩ : ∃ m, n = m + 1 := ⟨n - 1, by omega⟩
  have hk : Nat.min (m + 1) (64 - pa % 64) = m + 1 := Nat.min_eq_left (by omega)
  have hnil (q : Nat) : lineParts m q 0 = [] := by cases m <;> rfl
  unfold lineParts
  rw [if_neg (Nat.succ_ne_zero m), hk]
  dsimp only
  rw [Nat.sub_self, hnil]

/-- How many bytes an access takes. -/
def opBytes (op : HostOp) : Nat := match op with | .read n => n | .write d => d.length

/-- The one part of an access is the access. -/
theorem partOf_whole (op : HostOp) (pa : Nat) : partOf op pa (pa, opBytes op) = op := by
  cases op with
  | read n => rfl
  | write d =>
    show HostOp.write ((d.drop (pa - pa)).take d.length) = .write d
    rw [Nat.sub_self, List.drop_zero, List.take_length]

section
variable {s : State} {fold pa : Nat} {op : HostOp} {f : Fold}

/-- Is a part of an access at a home die, or in the pooled range that UALink serves (R125)? -/
def Reached (f : Fold) (x : Nat × Nat) : Prop :=
  (homeOf f x.1).isSome = true ∨ (f.map.pbase ≤ x.1 ∧ x.1 + x.2 ≤ f.map.pbase + f.map.psize)

/-- An access whose parts are all reached is made part by part. -/
theorem execHostAccess_parts (hf : foldAt s fold = some f) (h0 : 0 < opBytes op) (hr : ∀ x ∈ lineParts (opBytes op) pa (opBytes op), Reached f x) :
    exec (.hostAccess fold pa op) s = .next ((lineParts (opBytes op) pa (opBytes op)).foldl (hostPart f op pa)
      { s with hostRead := s.hostRead.filter fun c => decide (c.1 < homeKey fold pa) || decide (homeKey fold pa + opBytes op ≤ c.1) }) := by
  have hall : ((lineParts (opBytes op) pa (opBytes op)).all fun x =>
      (homeOf f x.1).isSome || (decide (f.map.pbase ≤ x.1) && decide (x.1 + x.2 ≤ f.map.pbase + f.map.psize))) = true := by
    rw [List.all_eq_true]
    intro x hx
    rw [Bool.or_eq_true, Bool.and_eq_true, decide_eq_true_eq, decide_eq_true_eq]
    exact hr x hx
  have hn : decide (opBytes op = 0) = false := decide_eq_false (Nat.ne_of_gt h0)
  show execHostAccess fold pa op s = _
  unfold execHostAccess
  rw [hf]
  refine if_neg ?_
  show ¬(decide (opBytes op = 0) || !((lineParts (opBytes op) pa (opBytes op)).all fun x =>
      (homeOf f x.1).isSome || (decide (f.map.pbase ≤ x.1) && decide (x.1 + x.2 ≤ f.map.pbase + f.map.psize)))) = true
  rw [hall, hn]
  decide

/-- An access within a line is one part. -/
theorem execHostAccess_single (hf : foldAt s fold = some f) (h0 : 0 < opBytes op) (hl : pa % 64 + opBytes op ≤ 64) (hr : Reached f (pa, opBytes op)) :
    exec (.hostAccess fold pa op) s = .next (hostPart f op pa
      { s with hostRead := s.hostRead.filter fun c => decide (c.1 < homeKey fold pa) || decide (homeKey fold pa + opBytes op ≤ c.1) }
      (pa, opBytes op)) := by
  rw [execHostAccess_parts hf h0]
  · rw [lineParts_single h0 hl]
    rfl
  · rw [lineParts_single h0 hl]
    intro x hx
    rw [List.mem_singleton.1 hx]
    exact hr

end

/-! ## Marks of memory (R280) -/

theorem mem_insertSorted (k j : Nat) (l : List Nat) : j ∈ insertSorted k l ↔ j = k ∨ j ∈ l := by
  induction l with
  | nil => simp [insertSorted]
  | cons h t ih =>
    unfold insertSorted
    split
    · simp
    · split
      · next hk => simp [hk]
      · rw [List.mem_cons, ih, List.mem_cons]
        exact or_left_comm

/-- A word that is marked stays so while others are. -/
theorem poisonAt_stored_mem (s : State) (k j : Nat) : j ∈ (poisonAt s .stored k).poison ↔ j = wordKey k ∨ j ∈ s.poison := by
  show j ∈ insertSorted (wordKey (wordKey k)) s.poison ↔ _
  rw [mem_insertSorted, show wordKey (wordKey k) = wordKey k from by unfold wordKey; omega]

/-- An error of stored words marks each of them (R280). -/
theorem foldl_poisonAt_stored (ks : List Nat) (s : State) {j : Nat} (h : wordKey j ∈ s.poison ∨ j ∈ ks) :
    wordKey j ∈ (ks.foldl (fun s k => poisonAt s .stored k) s).poison := by
  induction ks generalizing s with
  | nil => exact h.resolve_right List.not_mem_nil
  | cons k t ih =>
    refine ih _ ?_
    rcases h with h | h
    · exact Or.inl ((poisonAt_stored_mem s k _).2 (Or.inr h))
    · rcases List.mem_cons.1 h with rfl | h
      · exact Or.inl ((poisonAt_stored_mem s j _).2 (Or.inl rfl))
      · exact Or.inr h

end Sys2Proof.Machine

section

open Sys2Proof Sys2Proof.Machine

/-- Settles O56, by where each packet stands and what each access reaches. -/
theorem packetsAndErrors : Obligations.PacketsAndErrors := by
  intro s
  refine ⟨fun i p hp hf => ?_, fun i p hp hf => ⟨fun ha hc => ?_, ?_, ?_, fun c r k ha ht => ?_⟩, ?_, ?_, ?_, fun k => rfl, fun n hn => ?_⟩
  · rw [execPacketHop_of hp, hopDue_behind hf]
    rfl
  · rw [execPacketHop_of hp, hopDue_first hf, ha]
    dsimp only
    rw [if_pos hc]
    rfl
  · intro r n ha hc
    rw [execPacketHop_of hp, hopDue_first hf, ha]
    dsimp only
    rw [if_pos hc]
    rfl
  · intro c r k n ha ht hc
    refine ⟨{ movePacket s i p n.2 with grants := upsert (isGrant c r n.1 p.response) ⟨c, r, n.1, p.response, k⟩ s.grants }, ?_, rfl,
      find?_upsert _ _ _ ?_⟩
    · rw [execPacketHop_of hp, hopDue_first hf, ha]
      dsimp only
      rw [if_pos]
      · rfl
      · rw [Bool.and_eq_true, beq_iff_eq]
        exact ⟨ht, hc⟩
    · simp [isGrant]
  · rw [execPacketHop_of hp, hopDue_first hf, ha]
    dsimp only
    rw [if_neg]
    · rfl
    · rw [Bool.and_eq_true, beq_iff_eq]
      exact fun h => ht h.1
  · intro i p hp ha hf u key here takes
    refine ⟨fun ht => ?_, fun ht hc hr => packetDeliver_lands hp ha hf ht ?_, fun ht hc hr => packetDeliver_lands hp ha hf ht ?_, ?_,
      fun pa d ht hc => packetDeliver_lands hp ha hf ht ?_, fun pa bs ht hc => packetDeliver_lands hp ha hf ht ?_⟩
    · rw [execPacketDeliver_of hp, deliverDue_first ha hf, if_neg fun h => ht ((delivers_iff s p).1 h)]
      rfl
    · rw [landed, hc]
      exact if_pos hr
    · rw [landed, hc]
      exact if_neg (by rw [hr]; exact Bool.false_ne_true)
    · intro pa n ht hc h0 r
      refine packetDeliver_lands hp ha hf ht ?_
      have hne : r.2.isEmpty = false := by
        rw [List.isEmpty_eq_false_iff, ← List.length_pos_iff_ne_nil, hostReadBytes_length]
        exact Nat.pos_of_ne_zero h0
      rw [landed, hc]
      show respond r.1 p (if r.2.isEmpty then 1 else 2) (.answer pa r.2) = _
      rw [hne, if_neg Bool.false_ne_true]
    · rw [landed, hc]
      rfl
    · rw [landed, hc]
      rfl
  · intro fold pa op f n key u hf h0
    refine ⟨fun h hl hh => ?_, fun hl hh hlo hhi => ?_, fun hr => execHostAccess_parts hf h0 hr⟩
    · rw [execHostAccess_single hf h0 hl (Or.inl (by rw [hh]; rfl)), hostPart, hh]
      dsimp only
      rw [partOf_whole]
      rfl
    · rw [execHostAccess_single hf h0 hl (Or.inr ⟨hlo, hhi⟩), hostPart, hh]
      dsimp only
      rw [partOf_whole, foldAt_num hf]
      rfl
  · intro place k ks u
    refine ⟨rfl, fun hp j hj => ?_⟩
    subst hp
    exact List.contains_iff_mem.2 (foldl_poisonAt_stored (k :: ks) s (Or.inr hj))
  · show execParityError n s = _
    obtain ⟨l, hl, hline⟩ := hn
    exact if_pos (List.any_eq_true.2 ⟨l, hl, (beq_iff_eq (a := l.line)).2 hline⟩)

end

namespace Sys2Proof.Machine

/-! ## Words at offsets -/

/-- Putting in an entry leaves those that another test finds. -/
theorem find?_upsert_ne {α : Type} {p q : α → Bool} {x : α} (l : List α) (hx : q x = false) (hpq : ∀ y, p y = true → q y = false) :
    (upsert p x l).find? q = l.find? q := by
  induction l with
  | nil => simp [upsert, hx]
  | cons a t ih =>
    by_cases ha : p a = true
    · simp [upsert, ha, hx, hpq a ha]
    · cases hq : q a with
      | true => simp [upsert, ha, hq]
      | false => simp [upsert, ha, hq, ih]

/-- The word at an offset of a buffer. -/
def wordOfBuffer (l : List (Nat × Word)) (o : Nat) : Word := ((l.find? fun x => x.1 == o).map (·.2)).getD 0

/-- A word that is written to a buffer is read back. -/
theorem wordOfBuffer_same (l : List (Nat × Word)) (o : Nat) (v : Word) : wordOfBuffer (upsert (fun x => x.1 == o) (o, v) l) o = v := by
  unfold wordOfBuffer
  rw [find?_upsert (fun x : Nat × Word => x.1 == o) (o, v) l (beq_self_eq_true o)]
  rfl

/-- A write to a word of a buffer leaves the others. -/
theorem wordOfBuffer_other (l : List (Nat × Word)) (v : Word) {o q : Nat} (h : q ≠ o) :
    wordOfBuffer (upsert (fun x => x.1 == o) (o, v) l) q = wordOfBuffer l q := by
  unfold wordOfBuffer
  rw [find?_upsert_ne (p := fun x : Nat × Word => x.1 == o) (q := fun x : Nat × Word => x.1 == q) l (beq_eq_false_iff_ne.2 (Ne.symm h)) fun y hy => by
    rw [beq_iff_eq.1 hy]
    exact beq_eq_false_iff_ne.2 (Ne.symm h)]

/-! ## Boot (R437) -/

section
variable {s : State} {i c : List Byte}

/-- The module before step 2, once mask ROM has accepted the root key and verified the boot image. -/
def bootBase (s : State) (i : List Byte) : State :=
  setSvc (setSvc State.reset (keptModule s.svc)) { runImage (setSvc State.reset (keptModule s.svc)).svc i with bootStep := 1 }

/-- Power-off keeps what the checks of an image rest on. -/
theorem verified_kept (s : State) (n : Nat) : verified (setSvc State.reset (keptModule s.svc)).svc n = verified s.svc n := rfl

/-- What runs does not change which images pass. -/
theorem verified_bootBase (s : State) (i : List Byte) (n : Nat) : verified (bootBase s i).svc n = verified s.svc n := rfl

theorem execPowerOn_fails (h : verified s.svc 1 = none ∨ rootAccepted s.svc = false) : exec .powerOn s =
    .next (setSvc (setSvc State.reset (keptModule s.svc)) { (setSvc State.reset (keptModule s.svc)).svc with bootErr := 3 }) := by
  have hf : ((verified s.svc 1).filter fun _ => rootAccepted s.svc) = none := by
    rcases h with h | h
    · rw [h]
      rfl
    · rw [Option.filter_eq_none_iff]
      exact fun _ _ => by rw [h]; exact Bool.false_ne_true
  show execPowerOn s = _
  unfold execPowerOn
  dsimp only
  rw [show ((verified (setSvc State.reset (keptModule s.svc)).svc 1).filter fun _ => rootAccepted (setSvc State.reset (keptModule s.svc)).svc) = none
    from hf]

theorem execPowerOn_boots (hv : verified s.svc 1 = some i) (hr : rootAccepted s.svc = true) : exec .powerOn s = .next (bootFrom2 (bootBase s i)) := by
  have hf : ((verified s.svc 1).filter fun _ => rootAccepted s.svc) = some i := by
    rw [hv, Option.filter_some, if_pos hr]
  show execPowerOn s = _
  unfold execPowerOn
  dsimp only
  rw [show ((verified (setSvc State.reset (keptModule s.svc)).svc 1).filter fun _ => rootAccepted (setSvc State.reset (keptModule s.svc)).svc) = some i
    from hf]
  rfl

/-- Without a record boot goes on at step 5. -/
theorem bootFrom2_noRecord {u : State} (h : verified u.svc 3 = none) :
    bootFrom2 u = setSvc u { u.svc with config := none, bootErr := 1, bootStep := 5 } := by
  have hc : bootConfig u = none := by
    unfold bootConfig
    rw [h]
    rfl
  unfold bootFrom2
  rw [hc, h]
  rfl

/-- A record that is not applied is measured, and boot goes on at step 5. -/
theorem bootFrom2_badRecord {u : State} (h : verified u.svc 3 = some c) (hr : recordOk u (imageBody c) = false) :
    bootFrom2 u = setSvc u { u.svc with measured := u.svc.measured ++ [measureOf c], config := none, bootErr := 1, bootStep := 5 } := by
  have hc : bootConfig u = none := by
    unfold bootConfig
    rw [h, Option.bind_some]
    exact if_neg (by rw [hr]; exact Bool.false_ne_true)
  unfold bootFrom2
  rw [hc, h]
  rfl

/-- A record that is applied where every port and channel trains. -/
def configured (u : State) (c : List Byte) : State := setSvc u { runImage u.svc c with
  config := some (parseConfig (imageBody c)), disabledDies := [], trainFail := 0, bootStep := 3 }

/-- With a record and no fault of a link, the drover image decides how far boot comes. -/
theorem bootFrom2_record {u : State} (h : verified u.svc 3 = some c) (hr : recordOk u (imageBody c) = true) (hl : u.svc.linkFaults = []) :
    bootFrom2 u = match verified u.svc 2 with
      | none => setSvc (configured u c) { (configured u c).svc with config := none, bootErr := 2 }
      | some i => bootService (setSvc (configured u c) { runImage (configured u c).svc i with bootStep := 4 }) := by
  have hc : bootConfig u = some (setSvc u { runImage u.svc c with config := some (parseConfig (imageBody c)), disabledDies := [], bootStep := 2 }) := by
    unfold bootConfig
    rw [h, Option.bind_some]
    exact if_pos hr
  have ht : bootTrain (setSvc u { runImage u.svc c with config := some (parseConfig (imageBody c)), disabledDies := [], bootStep := 2 }) =
      configured u c := by
    unfold bootTrain
    dsimp only
    rw [show (setSvc u { runImage u.svc c with config := some (parseConfig (imageBody c)), disabledDies := [], bootStep := 2 }).svc.linkFaults = []
      from hl]
    rfl
  unfold bootFrom2
  rw [hc]
  dsimp only
  rw [ht]
  rfl

/-! ## Registers (R3, R443, R451) -/

/-- GO hands the frame of the request buffer to Benostale, where it takes one (R443). -/
theorem goFrame_eq (s : State) : goFrame s =
    if s.svc.busy = false ∧ s.svc.done = false ∧ s.svc.bootStep = 5 ∧ s.svc.powerCycle = false then
      setSvc s { s.svc with busy := true, submitted := some (bufferedFrame s) }
    else s := by
  unfold goFrame
  by_cases h : s.svc.busy = false ∧ s.svc.done = false ∧ s.svc.bootStep = 5 ∧ s.svc.powerCycle = false
  · rw [if_pos h]
    obtain ⟨hb, hd, h5, hp⟩ := h
    exact if_neg (by rw [hb, hd, h5, hp]; decide)
  · rw [if_neg h, if_pos]
    rw [Bool.or_eq_true, Bool.or_eq_true, Bool.or_eq_true, decide_eq_true_eq]
    by_contra hc
    simp only [not_or, Bool.not_eq_true, not_not, and_assoc] at hc
    exact h hc

/-- A word of the request buffer. -/
theorem managementWrite_request (s : State) {o : Nat} (v : Word) (ho : o < 0x10000) (h8 : o % 8 = 0) : managementWrite s (0x10000 + o) v =
    .next (setSvc s { s.svc with request := upsert (fun x => x.1 == o) (o, v) s.svc.request }) := by
  have hsub : 0x10000 + o - requestBuffer = o := Nat.add_sub_cancel_left _ _
  unfold managementWrite
  rw [if_neg (by omega), if_neg (by omega), if_pos, hsub]
  have h1 : requestBuffer ≤ 0x10000 + o := Nat.le_add_right _ _
  have h2 : 0x10000 + o < requestBuffer + bufferBytes := Nat.add_lt_add_left ho _
  rw [decide_eq_true h1, decide_eq_true h2, decide_eq_true (by omega)]
  rfl

/-- A write that meets no register of BAR 0 and no word of the request buffer. -/
theorem managementWrite_none (s : State) {o : Nat} (v : Word) (h8 : o ≠ 0x8) (h10 : o ≠ 0x10) (h : o < 0x10000 ∨ 0x20000 ≤ o ∨ o % 8 ≠ 0) :
    managementWrite s o v = .next s := by
  unfold managementWrite
  rw [if_neg h8, if_neg h10, if_neg]
  rw [Bool.and_eq_true, Bool.and_eq_true, decide_eq_true_eq, decide_eq_true_eq, decide_eq_true_eq, show requestBuffer = 0x10000 from rfl,
    show bufferBytes = 0x10000 from rfl]
  omega

section
variable {fold : Nat} {f : Fold}

/-- A write to a place of a mailbox that is not D2HHEAD. -/
theorem mailboxWrite_of (hf : foldAt s fold = some f) (v : Word) {o : Nat} (ho : o ≠ 0x10008) : mailboxWrite s fold o v =
    if (decide (hostRing ≤ o) && decide (o < hostRingEnd) && decide (o % 8 = 0)) = true then
      .next (setFold s { f with h2d := upsert (fun x => x.1 == o - hostRing) (o - hostRing, v) f.h2d })
    else if o = 0x10010 then
      .next (if v.toNat < f.h2dtail || f.h2dhead + Config.mailboxEntries < v.toNat then s else setFold s { f with h2dtail := v.toNat })
    else if o = 0x10020 then .next (setFold s { f with ien := v.getLsbD 0 })
    else .next s := by
  unfold mailboxWrite
  rw [if_neg ho, hf]

/-- Is a place of a mailbox a word of the host's own ring? -/
theorem inHostRing_iff (o : Nat) : (decide (hostRing ≤ o) && decide (o < hostRingEnd) && decide (o % 8 = 0)) = true ↔
    (0x8000 ≤ o ∧ o < 0x10000) ∧ o % 8 = 0 := by
  rw [Bool.and_eq_true, Bool.and_eq_true, decide_eq_true_eq, decide_eq_true_eq, decide_eq_true_eq]
  rfl

end

end

end Sys2Proof.Machine

section

open Sys2Proof Sys2Proof.Machine

/-- Settles O57, by how far boot comes and by the access code of each register. -/
theorem bootAndRegisters : Obligations.BootAndRegisters := by
  intro s b
  refine ⟨fun h => execPowerOn_fails h, ?_, fun h0 => ⟨if_neg h0, rfl, rfl, rfl, fun c hc => ?_⟩, fun i hi hs => ?_, rfl, fun v => ?_, fun v => ?_,
    fun o v ho h8 => ?_, fun o v h8 h10 h => managementWrite_none s v h8 h10 h, fun fold f v hf => ?_, fun vf p v hp => ?_, fun vf v => ?_,
    fun d v hd => ?_, fun fold f hf hin => ?_⟩
  · intro i hv hr u
    have hexec := execPowerOn_boots hv hr
    refine ⟨hexec, fun h3 => ?_, fun c h3 hrec => ?_, fun c h3 hrec hl => ⟨fun d h2 => ?_, fun h2 => ?_⟩⟩
    · rw [hexec, bootFrom2_noRecord (u := bootBase s i) h3]
      rfl
    · rw [hexec, bootFrom2_badRecord (u := bootBase s i) h3 hrec]
      rfl
    · rw [hexec, bootFrom2_record (u := bootBase s i) h3 hrec hl, verified_bootBase, h2]
      exact ⟨_, rfl, rfl, rfl, rfl, rfl, rfl, rfl, rfl, rfl, rfl, rfl⟩
    · rw [hexec, bootFrom2_record (u := bootBase s i) h3 hrec hl, verified_bootBase, h2]
      exact ⟨_, rfl, rfl, rfl, rfl⟩
  · rw [List.mem_singleton.1 (show c ∈ [Core.reset ⟨0, 0, 0, 0⟩] from hc)]
    rfl
  · show execDroverSwap s = _
    unfold execDroverSwap
    rw [hi]
    dsimp only
    rw [if_pos hs]
    rfl
  · show (if v.getLsbD 1 then execMbstatDoneClear s else .next s) = _
    split <;> rfl
  · show Host.Outcome.next (if v.getLsbD 0 then goFrame s else s) = _
    rw [goFrame_eq]
    by_cases h0 : v.getLsbD 0 = true
    · simp only [h0, if_true, true_and]
    · rw [if_neg h0, if_neg fun h => h0 h.1]
  · refine ⟨_, managementWrite_request s v ho h8, rfl, wordOfBuffer_same s.svc.request o v, fun q hq => wordOfBuffer_other s.svc.request v hq⟩
  · have hw {o : Nat} (ho : o ≠ 0x10008) := mailboxWrite_of hf v ho
    have hout {o : Nat} (h : ¬((0x8000 ≤ o ∧ o < 0x10000) ∧ o % 8 = 0)) := mt (inHostRing_iff o).1 h
    refine ⟨?_, fun h1 h2 => ?_, fun h => ?_, ?_, fun o ho => ?_, fun o ho h8 => ⟨{ f with h2d := upsert (fun x => x.1 == o) (o, v) f.h2d }, ?_, rfl,
      wordOfBuffer_same f.h2d o v, fun q hq => wordOfBuffer_other f.h2d v hq⟩⟩
    · exact (hw (o := 0x10020) (by decide)).trans ((if_neg (hout (by decide))).trans ((if_neg (by decide)).trans (if_pos rfl)))
    · refine (hw (o := 0x10010) (by decide)).trans ((if_neg (hout (by decide))).trans ((if_pos rfl).trans (congrArg Host.Outcome.next (if_neg ?_))))
      rw [Bool.or_eq_true, decide_eq_true_eq, decide_eq_true_eq, not_or]
      exact ⟨Nat.not_lt.2 h1, Nat.not_lt.2 h2⟩
    · refine (hw (o := 0x10010) (by decide)).trans ((if_neg (hout (by decide))).trans ((if_pos rfl).trans (congrArg Host.Outcome.next (if_pos ?_))))
      rw [Bool.or_eq_true, decide_eq_true_eq, decide_eq_true_eq]
      exact h
    · exact (hw (o := 0x10000) (by decide)).trans ((if_neg (hout (by decide))).trans ((if_neg (by decide)).trans (if_neg (by decide))))
    · refine (hw (by omega)).trans ((if_neg (hout (by omega))).trans ?_)
      rw [if_neg (by omega), if_neg (by omega)]
    · have hsub : 0x8000 + o - hostRing = o := Nat.add_sub_cancel_left _ _
      refine (hw (by omega)).trans ((if_pos ((inHostRing_iff _).2 (by omega))).trans ?_)
      rw [hsub]
  · show (if (decide (8 * p < 0x040) && decide (8 * p % 8 = 0)) = true then execDoorbell vf (8 * p / 8) v s else _) = execDoorbell vf p v s
    rw [if_pos, Nat.mul_div_cancel_left p (by decide)]
    rw [Bool.and_eq_true, decide_eq_true_eq, decide_eq_true_eq]
    omega
  · rfl
  · show execRegisterWrite (.drover d 0x7C3) v s = _
    unfold execRegisterWrite
    dsimp only
    rw [if_neg (by decide), hd]
    exact if_pos rfl
  · show execFoldreset none fold s = _
    unfold execFoldreset
    dsimp only
    rw [hf]
    exact if_pos (List.contains_iff_mem.2 hin)

end

namespace Sys2Proof.Machine

/-! ## Row products (R318, R323 to R326) -/

section
variable {i : Instr} {s : State} {t : BitVec 3}

/-- A tile of an open factor set fails the FACT check (R318). -/
theorem factTrap_fact (h : (tileAt s t).fact = true) : factTrap s t = some (subTrap 14 7 t.toNat) := if_pos h

/-- A tile of no open factor set passes the FACT check (R318). -/
theorem factTrap_none (h : (tileAt s t).fact = false) : factTrap s t = none := if_neg (by rw [h]; exact Bool.false_ne_true)

/-- A tile of an open factor set fails the checks of a row write (R318). -/
theorem rowTrap_fact {kind : Bool} (h : (tileAt s t).fact = true) : rowTrap s t kind = some (subTrap 14 7 t.toNat) := by
  unfold rowTrap
  rw [factTrap_fact h]

/-- A valid tile of the other KIND fails the checks of a row write (R318). -/
theorem rowTrap_kind {kind : Bool} (h : (tileAt s t).fact = false) (hv : (tileAt s t).valid = true) (hk : (tileAt s t).kind ≠ kind) :
    rowTrap s t kind = some (subTrap 14 8 t.toNat) := by
  unfold rowTrap
  rw [factTrap_none h]
  exact if_pos (by rw [hv, Bool.true_and, bne_iff_ne]; exact hk)

/-- A tile of no open set passes the checks of a row write when it is invalid or of the KIND (R318). -/
theorem rowTrap_none {kind : Bool} (h : (tileAt s t).fact = false) (hv : (tileAt s t).valid = true → (tileAt s t).kind = kind) :
    rowTrap s t kind = none := by
  unfold rowTrap
  rw [factTrap_none h]
  refine if_neg fun hc => ?_
  rw [Bool.and_eq_true, bne_iff_ne] at hc
  exact hc.2 (hv hc.1)

/-- What a row product leaves once its stationary copy is taken: the row, its flags, and for a P form the pop (R325). -/
def rowMade (t : BitVec 3) (q : BitVec 2) (pop : Bool) (stat : List StatCopy) (tile : Tile) (fl : Flags) (u : State) : State :=
  let w := setMat u { u.core.mat with stat := stat }
  let y := raiseFlags (setTile w t tile) fl
  if pop then popTrough y q else y

section
variable {replace pop : Bool} {x v : Reg} {q : BitVec 2} {k : BitVec 3} {r : BitVec 1}

/-- A tile that fails its checks stops the row product (R318). -/
theorem runRow_rowTrap {f : Trap} (h : ReadyQ i s) (hf : rowTrap s t (kindOf (typeNow s)) = some f) :
    runRow replace pop (capture s i) t x v q k r (appended s i) = .trap (appended s i) f false := by
  unfold runRow
  rw [olderStoresOut_appended h]
  dsimp only
  rw [show rowTrap (appended s i) t (kindOf (capture s i).ty) = some f from hf]

/-- An unconfigured trough stops the row product (R323). -/
theorem runRow_unset (h : ReadyQ i s) (hf : rowTrap s t (kindOf (typeNow s)) = none) (h0 : (myTrough s q).nslot = 0) :
    runRow replace pop (capture s i) t x v q k r (appended s i) = .trap (appended s i) ⟨22, q.setWidth 64⟩ false := by
  unfold runRow
  rw [olderStoresOut_appended h]
  dsimp only
  rw [show rowTrap (appended s i) t (kindOf (capture s i).ty) = none from hf]
  exact if_pos h0

/-- A row product waits for a slot of an empty trough (R323). -/
theorem runRow_empty (h : ReadyQ i s) (hf : rowTrap s t (kindOf (typeNow s)) = none) (h0 : (myTrough s q).nslot ≠ 0)
    (he : (myTrough s q).tail ≤ (myTrough s q).head) :
    runRow replace pop (capture s i) t x v q k r (appended s i) = .blocked (appended s i) := by
  unfold runRow
  rw [olderStoresOut_appended h]
  dsimp only
  rw [show rowTrap (appended s i) t (kindOf (capture s i).ty) = none from hf]
  refine (if_neg h0).trans (if_pos ?_)
  rw [Bool.or_eq_true, Bool.or_eq_true, decide_eq_true_eq]
  exact Or.inl (Or.inl he)

/-- The product of a row (R325). -/
theorem runRow_done {cols : List (Acc × Flags)} (h : ReadyQ i s) (hx : x ∈ xReadsOf i) (hv : v ∈ vSourcesOf i) (h31 : v ≠ 31)
    (hring : ringOf s i = (padKey s.core.pos.cluster + (myTrough s q).base, (myTrough s q).nslot * Config.slotBytes))
    (hf : rowTrap s t (kindOf (typeNow s)) = none) (h0 : (myTrough s q).nslot ≠ 0) (he : (myTrough s q).head < (myTrough s q).tail)
    (hheld : rangeHeld s (padKey s.core.pos.cluster + (myTrough s q).base, (myTrough s q).nslot * Config.slotBytes, false) = false)
    (hp : newCopy s q (myTrough s q) r = true → slotPoison s (slotKey s.core.pos.cluster (myTrough s q) (headSlot (myTrough s q))) = none)
    (hc : cols = (List.range 16).map fun c => columnProduct replace s.core.regs.mode (typeNow s) (vNow s v)
      (if v = 30 then Vector.replicate 4 0 else scalesOf s v) (stationary s q (myTrough s q) r).2 (kReg s k)
      (elemAt (opened (tileAt s t) (kindOf (typeNow s))) ((xr s x).toNat % 16) c) c) :
    runRow replace pop (capture s i) t x v q k r (appended s i) =
      .done (rowMade t q pop (stationary s q (myTrough s q) r).1.core.mat.stat
        (writeRow (opened (tileAt s t) (kindOf (typeNow s))) ((xr s x).toNat % 16) (cols.map (·.1))) (flagUnion (cols.map (·.2))) (appended s i)) := by
  have hst : stationary (appended s i) q (myTrough s q) r = (setMat (appended s i) { (appended s i).core.mat with
      stat := (stationary s q (myTrough s q) r).1.core.mat.stat }, (stationary s q (myTrough s q) r).2) := by
    unfold stationary
    simp only [show (appended s i).core.mat = s.core.mat from rfl, show (appended s i).core.pos = s.core.pos from rfl,
      show (appended s i).mem = s.mem from rfl]
    split <;> rfl
  have hrange : ¬(decide ((myTrough s q).tail ≤ (myTrough s q).head) || (ringRange (capture s i)).any (rangeHeld (appended s i)) ||
      ringStores (appended s i) (capture s i)) = true := by
    have h1 : ringRange (capture s i) = [(padKey s.core.pos.cluster + (myTrough s q).base, (myTrough s q).nslot * Config.slotBytes, false)] := by
      unfold ringRange
      rw [show (capture s i).ring = _ from hring]
      exact if_neg (Nat.mul_ne_zero h0 (by decide))
    have h2 : ringStores (appended s i) (capture s i) = false := by
      unfold ringStores
      rw [show (appended s i).core.q.sb = [] from h.1.1.2.2.1]
      rfl
    rw [h1, h2, List.any_cons, List.any_nil, Bool.or_false, Bool.or_false, decide_eq_false (Nat.not_le.2 he), Bool.false_or,
      show rangeHeld (appended s i) _ = false from hheld]
    exact Bool.false_ne_true
  have hpoison : (if newCopy (appended s i) q (myTrough s q) r = true then
      slotPoison (appended s i) (slotKey s.core.pos.cluster (myTrough s q) (headSlot (myTrough s q))) else none) = none := by
    by_cases hn : newCopy s q (myTrough s q) r = true
    · exact (if_pos hn).trans (hp hn)
    · exact if_neg hn
  have hasc : (if 30 ≤ v.toNat then Vector.replicate 4 0 else scalesOf s v) = if v = 30 then Vector.replicate 4 0 else scalesOf s v := by
    refine if_congr ⟨fun hl => ?_, fun hl => by rw [hl]; decide⟩ rfl rfl
    bv_omega
  unfold runRow
  rw [olderStoresOut_appended h]
  dsimp only
  rw [show rowTrap (appended s i) t (kindOf (capture s i).ty) = none from hf]
  refine (if_neg h0).trans ((if_neg hrange).trans ?_)
  rw [show myTrough (appended s i) q = myTrough s q from rfl, show (appended s i).core.pos = s.core.pos from rfl, hpoison, hst, capture_x s hx]
  rw [← vSrc_named h hv, ← hasc] at hc
  rw [hc]
  rfl

/-- A row product whose turn is this row's (R325). -/
theorem yields_rowMade {stat : List StatCopy} {tile : Tile} {fl : Flags} (h : ReadyQ i s) (he : isEarlyLoad i = false) (hs : takesSdq i = false)
    (hx : exec i s = .next (enqueue s i)) (hr : runEntry (capture s i) (appended s i) = .done (rowMade t q pop stat tile fl (appended s i))) :
    Yields i s (rowMade t q pop stat tile fl) := by
  refine yields_of h he hs hx hr ?_ fun reqs rcnt u => ?_
  · cases pop <;> exact appended_kept h
  · cases pop <;> rfl

end

end

end Sys2Proof.Machine

section

open Sys2Proof Sys2Proof.Machine

/-- Settles O37, by the outcomes of the turn of a row product. -/
theorem matrixRows : Obligations.MatrixRows := by
  intro s t x v q k r m ty tr st tile row copies fits product
  have hnone (h : fits) : rowTrap s t (kindOf (typeNow s)) = none := rowTrap_none h.1 h.2
  have hproduct {i : Instr} {replace pop : Bool} (he : isEarlyLoad i = false) (hs : takesSdq i = false) (hex : exec i s = .next (enqueue s i))
      (hrun : runEntry (capture s i) (appended s i) = runRow replace pop (capture s i) t x v q k r (appended s i)) (hx : x ∈ xReadsOf i)
      (hv : v ∈ vSourcesOf i) (hring : ringOf s i = (padKey s.core.pos.cluster + tr.base, tr.nslot * Config.slotBytes))
      (hw : i.wellFormed = srcOk v) : product i replace pop := by
    intro h hok
    have h31 : v ≠ 31 := bne_iff_ne.1 (hw.symm.trans hok)
    refine ⟨fun hf h0 hl hh hc => ?_, fun hf => ?_, fun hf hval hk => ?_, fun hf h0 => ?_, fun hf h0 hl => ?_⟩
    · intro base asc cols
      exact yields_rowMade h he hs hex (hrun.trans (runRow_done h hx hv h31 hring (hnone hf) h0 hl hh hc rfl))
    · exact turnTraps_of h he hex (hrun.trans (runRow_rowTrap h (rowTrap_fact hf)))
    · exact turnTraps_of h he hex (hrun.trans (runRow_rowTrap h (rowTrap_kind hf hval hk)))
    · exact turnTraps_of h he hex (hrun.trans (runRow_unset h (hnone hf) h0))
    · exact turnWaits_of h he hex (hrun.trans (runRow_empty h (hnone hf) h0 hl)) rfl
  have hx : x ∈ [x] := List.mem_singleton_self x
  have hv : v ∈ [v] := List.mem_singleton_self v
  refine ⟨hproduct rfl rfl rfl rfl hx hv rfl rfl, hproduct rfl rfl rfl rfl hx hv rfl rfl, hproduct rfl rfl rfl rfl hx hv rfl rfl,
    hproduct rfl rfl rfl rfl hx hv rfl rfl, fun h hf => ?_, fun h hf => ?_⟩
  · refine yields_of (f := fun u => setTile u t { tile with acc := Vector.replicate 256 0, valid := true, kind := kindOf ty, dirty := true, rowv := 0 })
      h rfl rfl rfl ?_ (appended_kept h) fun _ _ _ => rfl
    show effTzero (capture s (.tzero t)) t (appended s (.tzero t)) = _
    unfold effTzero
    rw [show factTrap (appended s (.tzero t)) t = none from factTrap_none hf]
    rfl
  · refine turnTraps_of h rfl rfl ?_
    show effTzero (capture s (.tzero t)) t (appended s (.tzero t)) = _
    unfold effTzero
    rw [show factTrap (appended s (.tzero t)) t = _ from factTrap_fact hf]

end

namespace Sys2Proof.Machine

/-! ## Lists and flags -/

/-- OR-ing what elements give raises the bits of those that give them. -/
theorem foldl_or_getLsbD {α : Type} {n : Nat} (g : α → BitVec n) (b : Nat) : ∀ (l : List α) (r : BitVec n),
    (l.foldl (fun w a => w ||| g a) r).getLsbD b = true ↔ r.getLsbD b = true ∨ ∃ a ∈ l, (g a).getLsbD b = true
  | [], r => by simp
  | a :: l, r => by
    rw [List.foldl_cons, foldl_or_getLsbD g b l, BitVec.getLsbD_or, Bool.or_eq_true, List.exists_mem_cons_iff, or_assoc]

/-- The bits of a union of flags (R235). -/
theorem flagUnion_bit (fs : List Flags) (b : Nat) : (flagUnion fs).getLsbD b = true ↔ ∃ f ∈ fs, f.getLsbD b = true := by
  unfold flagUnion
  rw [foldl_or_getLsbD (fun f : Flags => f) b fs 0]
  simp

/-- Numbered elements of a list computed from their index. -/
theorem range_zip_map {α : Type} (n : Nat) (g : Nat → α) :
    (List.range n).zip ((List.range n).map g) = (List.range n).map fun j => (j, g j) :=
  List.ext_getElem (by simp) fun i _ _ => by simp

/-- In an ascending list the least element that passes a test is found. -/
theorem find?_least {q : Nat → Bool} {r : Nat} (hq : q r = true) : ∀ {l : List Nat}, l.Pairwise (· < ·) → r ∈ l →
    (∀ h ∈ l, h < r → q h = false) → l.find? q = some r
  | a :: l, hl, hr, hf => by
    obtain ⟨ha, hl⟩ := List.pairwise_cons.1 hl
    rcases List.mem_cons.1 hr with rfl | hr
    · exact List.find?_cons_of_pos hq
    · rw [List.find?_cons_of_neg (by rw [hf a List.mem_cons_self (ha r hr)]; exact Bool.false_ne_true)]
      exact find?_least hq hl hr fun h hh => hf h (List.mem_cons_of_mem a hh)

/-! ## TLOAD and TSTORE (R327, R328) -/

section
variable {i : Instr} {s u : State} {t : BitVec 3} {x v : Reg} {k : BitVec 3}

/-- The address of row r of a tile access: x(x) plus r times the signed low half of x(v) (R327). -/
def tileRowAt (s : State) (x v : Reg) (r : Nat) : Word := xr s x + BitVec.ofNat 64 r * BitVec.ofInt 64 (((xr s v).extractLsb' 0 32).toInt)

/-- The captured row addresses are those of the strand. -/
theorem rowStart_capture (h : xReadsOf i = [x, v]) : rowStart (capture s i) x v = tileRowAt s x v := by
  have hx : (capture s i).x x = xr s x := capture_x s (h ▸ List.mem_cons_self)
  have hv : (capture s i).x v = xr s v := capture_x s (h ▸ List.mem_cons_of_mem x (List.mem_singleton_self v))
  funext r
  unfold rowStart tileStride
  rw [hx, hv]
  rfl

/-- No row of a list is misaligned. -/
theorem misaligned_none {n : Nat} {rows : List Nat} (h : xReadsOf i = [x, v]) (ha : ∀ r ∈ rows, (tileRowAt s x v r).toNat % n = 0) :
    misaligned (capture s i) x v n rows = none := by
  unfold misaligned
  rw [rowStart_capture h, List.find?_eq_none]
  intro a hm
  obtain ⟨r, hr, rfl⟩ := List.mem_map.1 hm
  rw [bne_iff_ne, not_not]
  exact ha r hr

/-- The lowest misaligned row of an ascending list. -/
theorem misaligned_least {n r : Nat} {rows : List Nat} (h : xReadsOf i = [x, v]) (hs : rows.Pairwise (· < ·)) (hr : r ∈ rows)
    (ha : (tileRowAt s x v r).toNat % n ≠ 0) (hl : ∀ h ∈ rows, h < r → (tileRowAt s x v h).toNat % n = 0) :
    misaligned (capture s i) x v n rows = some (tileRowAt s x v r) := by
  unfold misaligned
  rw [rowStart_capture h, List.find?_map, find?_least (q := (fun a : Word => a.toNat % n != 0) ∘ tileRowAt s x v) (r := r) (bne_iff_ne.2 ha) hs hr]
  · rfl
  · exact fun g hg hlt => bne_eq_false_iff_eq.2 (hl g hg hlt)

/-- The numbers of the set bits of a mask ascend. -/
theorem low16_pairwise (m : Word) : (low16 m).Pairwise (· < ·) := List.Pairwise.filter _ List.pairwise_lt_range

/-- The accumulators that TLOAD leaves: the rows of a mask, widened from the values read, and zero elsewhere (R327). -/
def loadedAcc (ty : Nat) (sat : Bool) (m : Word) (vs : List (Nat × Nat)) : Vector Acc 256 :=
  Vector.ofFn fun i => if (low16 m).contains (i.val / 16) then (widen ty sat (readOf vs i.val 0)).1 else 0

theorem loadedAcc_get {ty : Nat} {sat : Bool} {m : Word} {vs : List (Nat × Nat)} {r c : Nat} (hr : r < 16) (hc : c < 16) :
    (loadedAcc ty sat m vs)[16 * r + c]? = some (if m.getLsbD r then (widen ty sat (readOf vs (16 * r + c) 0)).1 else 0) := by
  have hmem : (low16 m).contains r = m.getLsbD r := by
    rw [Bool.eq_iff_iff, List.contains_iff_mem, low16, List.mem_filter, List.mem_range]
    exact and_iff_right hr
  unfold loadedAcc
  rw [Vector.getElem?_ofFn, dif_pos (by omega)]
  simp only [show (16 * r + c) / 16 = r by omega, hmem]

/-- The turn of a TLOAD that reads its rows (R327). -/
theorem runEntry_tload {vs : List (Nat × Nat)} (h : ReadyQ (.tload t x v k) s) (hf : (tileAt s t).fact = false)
    (ha : ∀ r ∈ low16 (kReg s k), (tileRowAt s x v r).toNat % (typeBits (typeNow s) / 8) = 0)
    (hl : loadAll (appended s (.tload t x v k)) (capture s (.tload t x v k)) true
      (tilePieces (capture s (.tload t x v k)) x v (typeBits (typeNow s) / 8) (low16 (kReg s k)) (List.range 16)) = .ok u vs) :
    runEntry (capture s (.tload t x v k)) (appended s (.tload t x v k)) = .done (raiseFlags (setTile u t { tileAt u t with
      acc := loadedAcc (typeNow s) (mSat s.core.regs.mode) (kReg s k) vs, valid := true, kind := kindOf (typeNow s), dirty := true,
      rowv := (kReg s k).extractLsb' 0 16 }) (flagUnion (vs.map fun p => (widen (typeNow s) (mSat s.core.regs.mode) p.2).2))) := by
  show effTload _ t x v k _ = _
  unfold effTload
  rw [olderStoresOut_appended h]
  dsimp only
  rw [show factTrap (appended s (.tload t x v k)) t = none from factTrap_none hf,
    show misaligned (capture s (.tload t x v k)) x v (typeBits (capture s (.tload t x v k)).ty / 8) (low16 (kReg (appended s (.tload t x v k)) k)) = none
      from misaligned_none rfl ha]
  dsimp only
  rw [show loadAll (appended s (.tload t x v k)) _ true (tilePieces _ x v (typeBits (capture s (.tload t x v k)).ty / 8)
    (low16 (kReg (appended s (.tload t x v k)) k)) (List.range 16)) = _ from hl]
  rfl

/-- The turn of a TLOAD with a misaligned row (R327). -/
theorem runEntry_tload_misaligned {r : Nat} (h : ReadyQ (.tload t x v k) s) (hf : (tileAt s t).fact = false) (hr : r ∈ low16 (kReg s k))
    (ha : (tileRowAt s x v r).toNat % (typeBits (typeNow s) / 8) ≠ 0)
    (hl : ∀ h ∈ low16 (kReg s k), h < r → (tileRowAt s x v h).toNat % (typeBits (typeNow s) / 8) = 0) :
    runEntry (capture s (.tload t x v k)) (appended s (.tload t x v k)) = .trap (appended s (.tload t x v k)) ⟨4, tileRowAt s x v r⟩ false := by
  show effTload _ t x v k _ = _
  unfold effTload
  rw [olderStoresOut_appended h]
  dsimp only
  rw [show factTrap (appended s (.tload t x v k)) t = none from factTrap_none hf,
    show misaligned (capture s (.tload t x v k)) x v (typeBits (capture s (.tload t x v k)).ty / 8) (low16 (kReg (appended s (.tload t x v k)) k)) = _
      from misaligned_least rfl (low16_pairwise _) hr ha hl]

/-- A TLOAD to a tile of an open set stops (R318). -/
theorem runEntry_tload_fact (h : ReadyQ (.tload t x v k) s) (hf : (tileAt s t).fact = true) :
    runEntry (capture s (.tload t x v k)) (appended s (.tload t x v k)) = .trap (appended s (.tload t x v k)) (subTrap 14 7 t.toNat) false := by
  show effTload _ t x v k _ = _
  unfold effTload
  rw [olderStoresOut_appended h]
  dsimp only
  rw [show factTrap (appended s (.tload t x v k)) t = _ from factTrap_fact hf]

/-- Translating pieces keeps them. -/
theorem translateAll_pieces {w : Who} {acc : Access} : ∀ {ps : List Piece} {s u : State} {pl : List Placed},
    translateAll s w acc ps = (u, some pl) → pl.map (·.piece) = ps
  | [], _, _, _, h => by cases h; rfl
  | p :: ps, s, u, pl, h => by
    unfold translateAll at h
    dsimp only at h
    have hcons {a : Placed} {s1 : State} (ha : a.piece = p)
        (h1 : ((translateAll s1 w acc ps).1, (translateAll s1 w acc ps).2.map (a :: ·)) = (u, some pl)) : pl.map (·.piece) = p :: ps := by
      obtain ⟨-, h2⟩ := Prod.mk.injEq .. ▸ h1
      obtain ⟨pl', hp, rfl⟩ := Option.map_eq_some_iff.1 h2
      rw [List.map_cons, ha, translateAll_pieces (Prod.ext rfl hp)]
    split at h
    · exact nomatch (Prod.mk.injEq .. ▸ h).2
    · exact hcons rfl h
    · exact hcons rfl h

/-- Where every piece has a place, none faults. -/
theorem lowestFault_none {pl : List Placed} (h : ∀ p ∈ pl, p.loc.isSome = true) : lowestFault pl = none := by
  unfold lowestFault
  rw [List.filter_eq_nil_iff.2 fun p hp => by rw [← Option.not_isSome, h p hp]; exact Bool.false_ne_true]
  rfl

/-- The draws of a turn after its translations (R233). -/
theorem takeDraws_translated (hu : u.core = (appended s i).core) (n : Nat) : takeDraws u (capture s i) n =
    (setRegs u { u.core.regs with srseed := (drawn i s n).1 }, (drawn i s n).2) := by
  have hseed : u.core.regs.srseed = s.core.regs.srseed := by rw [hu]; rfl
  unfold takeDraws drawn
  show (if drawsUnder s.core.regs.mode i = true then _ else _) = _
  split
  · rw [hseed]
  · rw [← hseed]
    rfl

/-- The rows that TSTORE stores number at most 16 (R328). -/
theorem storedRows_capture (h : xReadsOf i = [x, v]) : storedRows (capture s i) v = List.range (Nat.min 16 ((xr s v).extractLsb' 32 8).toNat) := by
  unfold storedRows
  rw [capture_x s (h ▸ List.mem_cons_of_mem x (List.mem_singleton_self v))]
  dsimp only
  rw [show Nat.min 16 ((xr s v).extractLsb' 32 8).toNat = if 16 < ((xr s v).extractLsb' 32 8).toNat then 16 else ((xr s v).extractLsb' 32 8).toNat from ?_]
  split
  · exact Nat.min_eq_left (by omega)
  · exact Nat.min_eq_right (by omega)

/-- The pieces of stored rows are numbered below 16 times their count. -/
theorem tilePieces_idx {e : QEntry} {n count : Nat} {cols : List Nat} (hc : ∀ c ∈ cols, c < 16) :
    ∀ p ∈ tilePieces e x v n (List.range count) cols, p.idx < 16 * count := by
  intro p hp
  obtain ⟨r, hr, hp⟩ := List.mem_flatMap.1 hp
  obtain ⟨c, hcm, rfl⟩ := List.mem_map.1 hp
  have h1 := List.mem_range.1 hr
  have h2 := hc c hcm
  show 16 * r + c < 16 * count
  omega

/-- What stored element j becomes: its bits and its flags (R328). -/
def storedElem (s : State) (i : Instr) (t : BitVec 3) (count j : Nat) : Nat × Flags :=
  narrow s.core.regs.mode (typeNow s) (readTile (tileAt s t)).kind (laneOf (drawn i s (16 * count)).2 j)
    (elemAt (readTile (tileAt s t)) (physRow s.core.regs.mode (readTile (tileAt s t)) (j / 16)) (j % 16))

/-- The flags of the elements that TSTORE stores (R328). -/
def storedFlags (s : State) (i : Instr) (t : BitVec 3) (count : Nat) (cols : List Nat) : Flags :=
  flagUnion ((List.range (16 * count)).map fun j => if cols.contains (j % 16) then (storedElem s i t count j).2 else 0)

theorem storedFlags_bit {count : Nat} {cols : List Nat} (b : Nat) : (storedFlags s i t count cols).getLsbD b = true ↔
    ∃ j, j < 16 * count ∧ j % 16 ∈ cols ∧ (storedElem s i t count j).2.getLsbD b = true := by
  unfold storedFlags
  rw [flagUnion_bit]
  constructor
  · rintro ⟨f, hf, hb⟩
    obtain ⟨j, hj, rfl⟩ := List.mem_map.1 hf
    by_cases hc : cols.contains (j % 16) = true
    · rw [if_pos hc] at hb
      exact ⟨j, List.mem_range.1 hj, List.contains_iff_mem.1 hc, hb⟩
    · rw [if_neg hc] at hb
      exact absurd hb (by simp)
  · rintro ⟨j, hj, hc, hb⟩
    exact ⟨_, List.mem_map.2 ⟨j, List.mem_range.2 hj, rfl⟩, by rw [if_pos (List.contains_iff_mem.2 hc)]; exact hb⟩

/-- The turn of a TSTORE that writes its rows (R328). -/
theorem runEntry_tstore {pl : List Placed} {count : Nat} (h : ReadyQ (.tstore t x v k) s) (hcount : count = Nat.min 16 ((xr s v).extractLsb' 32 8).toNat)
    (ha : low16 (kReg s k) ≠ [] → ∀ r, r < count → (tileRowAt s x v r).toNat % (typeBits (typeNow s) / 8) = 0)
    (htr : translateAll (appended s (.tstore t x v k)) (queueWho s) .w (tilePieces (capture s (.tstore t x v k)) x v (typeBits (typeNow s) / 8)
      (List.range count) (low16 (kReg s k))) = (u, some pl))
    (hloc : ∀ p ∈ pl, p.loc.isSome = true) (hheld : accessHeld u (capture s (.tstore t x v k)) true pl = false) :
    let m := remoteLines (setRegs u { u.core.regs with srseed := (drawn (.tstore t x v k) s (16 * count)).1 }) (capture s (.tstore t x v k)) pl
    runEntry (capture s (.tstore t x v k)) (appended s (.tstore t x v k)) = .done (raiseFlags (writePieces m.1 m.2
      (pl.map fun p => { p with piece := { p.piece with data := (storedElem s (.tstore t x v k) t count p.piece.idx).1 } }))
      (storedFlags s (.tstore t x v k) t count (low16 (kReg s k)))) := by
  intro m
  have hrows : storedRows (capture s (.tstore t x v k)) v = List.range count := by rw [hcount]; exact storedRows_capture rfl
  have hmis : (if (low16 (kReg s k)).isEmpty = true then none
      else misaligned (capture s (.tstore t x v k)) x v (typeBits (typeNow s) / 8) (List.range count)) = none := by
    by_cases he : low16 (kReg s k) = []
    · rw [he]
      rfl
    · rw [misaligned_none rfl fun r hr => ha he r (List.mem_range.1 hr), ite_self]
  have hcore : u.core = (appended s (.tstore t x v k)).core := by
    have hk := translateAll_keeps (coreKept (appended s (.tstore t x v k)).core) (s := appended s (.tstore t x v k)) (w := queueWho s) (acc := .w)
      (y3 := tilePieces (capture s (.tstore t x v k)) x v (typeBits (typeNow s) / 8) (List.range count) (low16 (kReg s k))) rfl
    rwa [htr] at hk
  have htile (g : Regs) : tileAt (setRegs u g) t = tileAt s t := by
    show u.core.mat.tiles.get t.toFin = _
    rw [hcore]
    rfl
  have hidx {p : Placed} (hp : p ∈ pl) : p.piece.idx < 16 * count :=
    tilePieces_idx (fun c hc => List.mem_range.1 (List.mem_filter.1 hc).1) _ (translateAll_pieces htr ▸ List.mem_map_of_mem hp)
  have hdata : (pl.map fun p => { p with piece := { p.piece with
        data := laneOf ((List.range (16 * count)).map fun j => (storedElem s (.tstore t x v k) t count j).1) p.piece.idx } }) =
      pl.map fun p => { p with piece := { p.piece with data := (storedElem s (.tstore t x v k) t count p.piece.idx).1 } } :=
    List.map_congr_left fun p hp => by rw [laneOf_map _ (hidx hp)]
  show effTstore _ t x v k _ = _
  unfold effTstore
  rw [olderStoresOut_appended h]
  dsimp only
  rw [hrows]
  rw [show (if (low16 (kReg (appended s (.tstore t x v k)) k)).isEmpty = true then none else misaligned (capture s (.tstore t x v k)) x v
    (typeBits (capture s (.tstore t x v k)).ty / 8) (List.range count)) = none from hmis]
  dsimp only
  rw [show translateAll (appended s (.tstore t x v k)) ((capture s (.tstore t x v k)).who (appended s (.tstore t x v k))) .w (tilePieces _ x v (typeBits (capture s (.tstore t x v k)).ty / 8) _
    (low16 (kReg (appended s (.tstore t x v k)) k))) = _ from htr]
  dsimp only
  rw [lowestFault_none hloc]
  dsimp only
  rw [hheld, if_neg Bool.false_ne_true, List.length_range, takeDraws_translated hcore, htile, List.length_map, List.length_range, range_zip_map, List.map_map, List.map_map, ← hdata]
  rfl

/-- The turn of a TSTORE with a misaligned row (R328). -/
theorem runEntry_tstore_misaligned {r count : Nat} (h : ReadyQ (.tstore t x v k) s) (hcount : count = Nat.min 16 ((xr s v).extractLsb' 32 8).toNat)
    (hb : low16 (kReg s k) ≠ []) (hr : r < count) (ha : (tileRowAt s x v r).toNat % (typeBits (typeNow s) / 8) ≠ 0)
    (hl : ∀ h, h < r → (tileRowAt s x v h).toNat % (typeBits (typeNow s) / 8) = 0) :
    runEntry (capture s (.tstore t x v k)) (appended s (.tstore t x v k)) = .trap (appended s (.tstore t x v k)) ⟨7, tileRowAt s x v r⟩ false := by
  have hrows : storedRows (capture s (.tstore t x v k)) v = List.range count := by rw [hcount]; exact storedRows_capture rfl
  have hmis : (if (low16 (kReg s k)).isEmpty = true then none
      else misaligned (capture s (.tstore t x v k)) x v (typeBits (typeNow s) / 8) (List.range count)) = some (tileRowAt s x v r) := by
    rw [if_neg fun he => hb (List.isEmpty_iff.1 he)]
    exact misaligned_least rfl List.pairwise_lt_range (List.mem_range.2 hr) ha fun g _ hg => hl g hg
  show effTstore _ t x v k _ = _
  unfold effTstore
  rw [olderStoresOut_appended h]
  dsimp only
  rw [hrows, show (if (low16 (kReg (appended s (.tstore t x v k)) k)).isEmpty = true then none else misaligned (capture s (.tstore t x v k)) x v
    (typeBits (capture s (.tstore t x v k)).ty / 8) (List.range count)) = _ from hmis]

end

end Sys2Proof.Machine

namespace Sys2Proof.Machine

/-! ## TMOVV and TVMOV (R329, R330) -/

section
variable {s : State} {t : BitVec 3} {x v : Reg}

/-- Elements of 16 positions fit a register, but for I64 (R223, R224). -/
theorem typeBits_le {ty : Nat} (h : ty ≠ 4) : typeBits ty ≤ 32 := by
  unfold typeBits
  split_ifs <;> omega

/-- A lane beyond those that a register was made of is zero. -/
theorem lane_ofLanes_beyond {w : Nat} {ls : List Nat} {c : Nat} (hc : ls.length ≤ c) : lane (ofLanes w ls) w c = 0 := by
  have hlt : (ofLanes w ls).toNat < 2 ^ (w * c) := by
    unfold ofLanes
    rw [BitVec.toNat_ofNat]
    exact Nat.lt_of_le_of_lt (Nat.mod_le _ _) (Nat.lt_of_lt_of_le (packLanes_lt w ls)
      (Nat.pow_le_pow_right (by decide) (Nat.mul_le_mul_left w hc)))
  unfold lane
  rw [Nat.div_eq_of_lt hlt, Nat.zero_mod]

/-- Column c of a row as TMOVV moves it: its bits and its flags (R329). -/
def movedElem (s : State) (t : BitVec 3) (x v : Reg) (c : Nat) : Nat × Flags :=
  narrow s.core.regs.mode (typeNow s) (readTile (tileAt s t)).kind (laneOf (drawn (.tmovv t x v) s 16).2 c)
    (elemAt (readTile (tileAt s t)) ((xr s x).toNat % 16) c)

/-- A v destination takes lanes and flags rise, after draws. -/
theorem raiseFlags_tookV_seed (s : State) (i : Instr) (d : Reg) (w : VWord) (fl : Flags) (seed : Word) :
    raiseFlags (if d = 31 then pushSdq (setRegs (appended s i) { (appended s i).core.regs with srseed := seed }) (capture s i) w
      else setV (setRegs (appended s i) { (appended s i).core.regs with srseed := seed }) d w) fl =
      setRegs (tookV (appended s i) s.core.q.qnext d w)
        { (tookV (appended s i) s.core.q.qnext d w).core.regs with fflags := s.core.regs.fflags ||| fl, srseed := seed } := by
  unfold tookV
  split <;> rfl

/-- The turn of a TMOVV of one element for each column (R329). -/
theorem runEntry_tmovv (hty : typeNow s ≠ 10) : runEntry (capture s (.tmovv t x v)) (appended s (.tmovv t x v)) =
    let w := tookV (appended s (.tmovv t x v)) s.core.q.qnext v (ofLanes (typeBits (typeNow s)) ((List.range 16).map fun c => (movedElem s t x v c).1))
    .done (setRegs w { w.core.regs with
      fflags := s.core.regs.fflags ||| flagUnion ((List.range 16).map fun c => (movedElem s t x v c).2)
      srseed := (drawn (.tmovv t x v) s 16).1 }) := by
  dsimp only
  rw [← raiseFlags_tookV_seed]
  show effTmovv _ t x v _ = _
  unfold effTmovv
  dsimp only
  rw [if_neg (show ¬(capture s (.tmovv t x v)).ty = 10 from hty), capture_x s (i := .tmovv t x v) (List.mem_singleton_self x), takeDraws_appended,
    range_zip_map, List.map_map, List.map_map, List.map_map]
  rfl

/-- The values of a row as TMOVV under MXFP4 takes them (R329). -/
def rowValues (v : Tile) (row : Nat) : List Ex :=
  (List.range 16).map fun c => if v.kind then Ex.ofInt (acc56 (elemAt v row c)) else accValue (elemAt v row c)

/-- The turn of a TMOVV under MXFP4 (R329). -/
theorem runEntry_tmovv_mx (hty : typeNow s = 10) : runEntry (capture s (.tmovv t x v)) (appended s (.tmovv t x v)) =
    let mx := mxRow s.core.regs.mode (rowValues (readTile (tileAt s t)) ((xr s x).toNat % 16)) (drawn (.tmovv t x v) s 16).2
    let w := setScales (setV (appended s (.tmovv t x v)) v (ofLanes 4 mx.1)) v
      (Vector.ofFn fun j => if j.val = 0 then mx.2.1 else scaleOfByte 127)
    .done (setRegs w { w.core.regs with fflags := w.core.regs.fflags ||| mx.2.2, srseed := (drawn (.tmovv t x v) s 16).1 }) := by
  show effTmovv _ t x v _ = _
  unfold effTmovv
  dsimp only
  rw [if_pos (show (capture s (.tmovv t x v)).ty = 10 from hty), capture_x s (i := .tmovv t x v) (List.mem_singleton_self x), takeDraws_appended,
    List.map_map]
  rfl

/-- Column c of v(v) as TVMOV widens it (R330). -/
def insertedElem (s : State) (v : Reg) (c : Nat) : Acc × Flags :=
  if typeNow s = 10 then roundFA56 (exMul (e2m1.decode (laneA s v 4 c)) (scaleValue ((scalesOf s v)[0]))).1
  else widen (typeNow s) (mSat s.core.regs.mode) (laneA s v (typeBits (typeNow s)) c)

/-- The turn of a TVMOV to a tile that fits (R330). -/
theorem runEntry_tvmov {cols : List (Acc × Flags)} (h : ReadyQ (.tvmov t x v) s) (hf : rowTrap s t (kindOf (typeNow s)) = none)
    (hc : cols = (List.range 16).map (insertedElem s v)) :
    runEntry (capture s (.tvmov t x v)) (appended s (.tvmov t x v)) = .done (raiseFlags (setTile (appended s (.tvmov t x v)) t
      (writeRow (opened (tileAt s t) (kindOf (typeNow s))) ((xr s x).toNat % 16) (cols.map (·.1)))) (flagUnion (cols.map (·.2)))) := by
  show effTvmov _ t x v _ = _
  unfold effTvmov
  rw [show rowTrap (appended s (.tvmov t x v)) t (kindOf (capture s (.tvmov t x v)).ty) = none from hf]
  dsimp only
  rw [capture_x s (i := .tvmov t x v) (List.mem_singleton_self x), vSrc_named h (List.mem_singleton_self v), hc]
  rfl

/-- An instruction whose turn writes a tile and raises flags. -/
theorem yields_setTile_flags {i : Instr} {w : Tile} {fl : Flags} (h : ReadyQ i s) (he : isEarlyLoad i = false) (hs : takesSdq i = false)
    (hx : exec i s = .next (enqueue s i)) (hr : runEntry (capture s i) (appended s i) = .done (raiseFlags (setTile (appended s i) t w) fl)) :
    Yields i s fun u => raiseFlags (setTile u t w) fl :=
  yields_of h he hs hx hr (appended_kept h) fun _ _ _ => rfl

/-- A TVMOV to a tile that fails its checks stops (R318). -/
theorem runEntry_tvmov_rowTrap {f : Trap} (hf : rowTrap s t (kindOf (typeNow s)) = some f) :
    runEntry (capture s (.tvmov t x v)) (appended s (.tvmov t x v)) = .trap (appended s (.tvmov t x v)) f false := by
  show effTvmov _ t x v _ = _
  unfold effTvmov
  rw [show rowTrap (appended s (.tvmov t x v)) t (kindOf (capture s (.tvmov t x v)).ty) = some f from hf]

/-! ## TSTAT, TPERM and the read-backs (R331, R343, R345) -/

/-- The rows of a tile in the order of its rename map (R345). -/
def permutedAcc (v : Tile) : Vector Acc 256 := Vector.ofFn fun i => elemAt v ((v.map[i.val / 16]?).getD 0).toNat (i.val % 16)

theorem permutedAcc_get (v : Tile) {r c : Nat} (hr : r < 16) (hc : c < 16) :
    (permutedAcc v)[16 * r + c]? = some (elemAt v ((v.map[r]?).getD 0).toNat c) := by
  unfold permutedAcc
  rw [Vector.getElem?_ofFn, dif_pos (by omega)]
  simp only [show (16 * r + c) / 16 = r by omega, show (16 * r + c) % 16 = c by omega]

/-- The only one bit of a one that has been shifted. -/
theorem one_shift_getLsbD {w n k : Nat} (hk : k < w) : ((1 : BitVec w) <<< n).getLsbD k = decide (k = n) := by
  show (1#w <<< n).getLsbD k = _
  rw [BitVec.getLsbD_shiftLeft, BitVec.getLsbD_one, decide_eq_true hk, decide_eq_true (by omega : 0 < w), Bool.true_and, Bool.true_and,
    Bool.eq_iff_iff, Bool.and_eq_true, Bool.not_eq_true', decide_eq_false_iff_not, decide_eq_true_eq, decide_eq_true_eq]
  omega

/-- ROWV in the order of the rename map (R345). -/
def permutedRowv (v : Tile) : BitVec 16 :=
  (List.range 16).foldl (fun (b : BitVec 16) i => if v.rowv.getLsbD ((v.map[i]?).getD 0).toNat then b ||| (1 <<< i) else b) 0

theorem permutedRowv_bit (v : Tile) {r : Nat} (hr : r < 16) : (permutedRowv v).getLsbD r = v.rowv.getLsbD ((v.map[r]?).getD 0).toNat := by
  have hfold : permutedRowv v = (List.range 16).foldl
      (fun (b : BitVec 16) i => b ||| if v.rowv.getLsbD ((v.map[i]?).getD 0).toNat then (1 : BitVec 16) <<< i else 0) 0 := by
    unfold permutedRowv
    congr 1
    funext b i
    split
    · rfl
    · exact BitVec.or_zero.symm
  rw [Bool.eq_iff_iff, hfold, foldl_or_getLsbD]
  constructor
  · rintro (h | ⟨i, -, h⟩)
    · exact absurd h (by simp)
    · by_cases hi : v.rowv.getLsbD ((v.map[i]?).getD 0).toNat = true
      · rw [if_pos hi] at h
        rw [one_shift_getLsbD hr, decide_eq_true_eq] at h
        rwa [h]
      · rw [if_neg hi] at h
        exact absurd h (by simp)
  · intro h
    exact Or.inr ⟨r, List.mem_range.2 hr, by rw [if_pos h, one_shift_getLsbD hr]; exact decide_eq_true rfl⟩

/-- The rename map of a tile as one word, four bits for each row (R343). -/
def mapWord (v : Tile) : Word := (List.range 16).foldl (fun (w : Word) i => w ||| (((v.map[i]?).getD 0).setWidth 64 <<< (4 * i))) 0

theorem mapWord_field (v : Tile) {r : Nat} (hr : r < 16) : (mapWord v).extractLsb' (4 * r) 4 = (v.map[r]?).getD 0 := by
  refine BitVec.eq_of_getLsbD_eq fun j hj => ?_
  rw [BitVec.getLsbD_extractLsb', decide_eq_true hj, Bool.true_and, Bool.eq_iff_iff, mapWord, foldl_or_getLsbD]
  have hbit (i : Nat) : (((v.map[i]?).getD 0).setWidth 64 <<< (4 * i)).getLsbD (4 * r + j) = true ↔ i = r ∧ ((v.map[r]?).getD 0).getLsbD j = true := by
    rw [BitVec.getLsbD_shiftLeft, BitVec.getLsbD_setWidth]
    by_cases hi : i = r
    · subst hi
      rw [Nat.add_sub_cancel_left, decide_eq_true (by omega : 4 * i + j < 64), decide_eq_true (by omega : j < 64), decide_eq_false (by omega)]
      simp
    · rw [iff_false_intro (fun h : i = r ∧ _ => hi h.1), iff_false]
      intro h
      simp only [Bool.and_eq_true, Bool.not_eq_true', decide_eq_false_iff_not, Nat.not_lt] at h
      have := BitVec.lt_of_getLsbD h.2.2
      omega
  constructor
  · rintro (h | ⟨i, -, h⟩)
    · exact absurd h (by simp)
    · exact ((hbit i).1 h).2
  · exact fun h => Or.inr ⟨r, List.mem_range.2 hr, (hbit r).2 ⟨rfl, h⟩⟩

end

end Sys2Proof.Machine

section

open Sys2Proof Sys2Proof.Machine

/-- Settles O38, by the outcomes of each turn. -/
theorem tileMemoryAndMoves : Obligations.TileMemoryAndMoves := by
  refine ⟨fun s t x v k => ?_, fun s t x v => ?_⟩
  · intro m ty n stride start bits count pieces tile
    have hpieces (i : Instr) (hi : xReadsOf i = [x, v]) (rows cols : List Nat) : tilePieces (capture s i) x v n rows cols = pieces rows cols := by
      unfold tilePieces
      rw [rowStart_capture hi]
      rfl
    refine ⟨fun h => ⟨fun u vs hf ha hl hk => ?_, fun hf => ?_, fun r hf hr ha hl => ?_⟩, fun h => ⟨fun u pl ha htr hloc hheld => ?_, fun r hb hr ha hl => ?_⟩⟩
    · exact ⟨loadedAcc ty (mSat m) (kReg s k) vs, fun r c hr hc => loadedAcc_get hr hc,
        turnMakes_of h rfl rfl (runEntry_tload h hf ha (by rw [hpieces _ rfl]; exact hl)) hk⟩
    · exact turnTraps_of h rfl rfl (runEntry_tload_fact h hf)
    · exact turnTraps_of h rfl rfl (runEntry_tload_misaligned h hf hr ha hl)
    · intro d u1 src res m1 w hk
      exact ⟨storedFlags s (.tstore t x v k) t count bits, fun b => storedFlags_bit b,
        turnMakes_of h rfl rfl (runEntry_tstore h rfl ha (by rw [hpieces _ rfl]; exact htr) hloc hheld) hk⟩
    · exact turnTraps_of h rfl rfl (runEntry_tstore_misaligned h rfl hb hr ha hl)
  · intro m ty row tile src dr out mx cols seed
    refine ⟨fun h hty => ?_, fun h hty => ?_, fun h hf hk => ?_, fun h hf => ?_, fun h => ?_, fun h hf => ?_, fun h hf => ?_, fun h => ?_, fun h => ?_,
      fun h => ?_⟩
    · obtain ⟨u, hu, ho, hv, hfl, hseed⟩ := onlyV_of h rfl rfl rfl (runEntry_tmovv hty)
      have h4 : typeNow s ≠ 4 := bne_iff_ne.1 (Bool.and_eq_true_iff.1 h.2.2.1).1
      refine ⟨u, hu, ho, hseed, fun c hc => ?_, fun b => ?_⟩
      · rw [hv]
        by_cases h16 : c < 16
        · rw [if_pos h16, lane_ofLanes (by have := typeBits_le h4; simp; omega) (by simpa using h16), laneOf_map _ h16]
          rfl
        · rw [if_neg h16, lane_ofLanes_beyond (by simpa using h16)]
      · rw [hfl, BitVec.getLsbD_or, Bool.or_eq_true, flagUnion_bit]
        refine or_congr_right ⟨?_, ?_⟩
        · rintro ⟨f, hf, hb⟩
          obtain ⟨c, hc, rfl⟩ := List.mem_map.1 hf
          exact ⟨c, List.mem_range.1 hc, hb⟩
        · rintro ⟨c, hc, hb⟩
          exact ⟨_, List.mem_map.2 ⟨c, List.mem_range.2 hc, rfl⟩, hb⟩
    · exact yields_of (f := fun u =>
        let w := setScales (setV u v (ofLanes 4 mx.1)) v (Vector.ofFn fun j => if j.val = 0 then mx.2.1 else scaleOfByte 127)
        setRegs w { w.core.regs with fflags := w.core.regs.fflags ||| mx.2.2, srseed := dr.1 }) h rfl rfl rfl
        (runEntry_tmovv_mx hty) (appended_kept h) fun _ _ _ => rfl
    · have hcols : cols = (List.range 16).map (insertedElem s v) := rfl
      exact yields_setTile_flags h rfl rfl rfl (runEntry_tvmov h (rowTrap_none hf hk) hcols)
    · exact turnTraps_of h rfl rfl (runEntry_tvmov_rowTrap (rowTrap_fact hf))
    · have hrowv : (readTile tile).rowv.toNat = if tile.valid then tile.rowv.toNat else 0 := by
        unfold readTile
        split <;> rfl
      rw [← hrowv]
      exact yieldsX_setX h rfl rfl rfl rfl
    · have hdone : runEntry (capture s (.tperm t)) (appended s (.tperm t)) = .done (setTile (appended s (.tperm t)) t
          { src with acc := permutedAcc src, rowv := permutedRowv src, map := identityMap, valid := true, dirty := true }) := by
        show effTperm (capture s (.tperm t)) t (appended s (.tperm t)) = _
        unfold effTperm
        rw [show factTrap (appended s (.tperm t)) t = none from factTrap_none hf]
        rfl
      refine ⟨permutedAcc src, permutedRowv src, fun r c hr hc => permutedAcc_get src hr hc, fun r hr => permutedRowv_bit src hr, ?_⟩
      refine yields_of (f := fun u => setTile u t { src with acc := permutedAcc src, rowv := permutedRowv src, map := identityMap, valid := true, dirty := true })
        h rfl rfl rfl hdone (appended_kept h) fun _ _ _ => rfl
    · refine turnTraps_of h rfl rfl ?_
      show effTperm (capture s (.tperm t)) t (appended s (.tperm t)) = _
      unfold effTperm
      rw [show factTrap (appended s (.tperm t)) t = _ from factTrap_fact hf]
    · exact ⟨mapWord tile, fun r hr => mapWord_field tile hr, yieldsX_setX h rfl rfl rfl rfl⟩
    · refine yieldsX_setX h rfl rfl rfl ?_
      show effRdph (capture s (.rdph x)) x (appended s (.rdph x)) = _
      unfold effRdph
      rw [capture_x s (i := .rdph x) (List.mem_singleton_self x)]
      rfl
    · exact yieldsX_setX h rfl rfl rfl rfl

end

namespace Sys2Proof.Machine

/-! ## Vector accesses to the core's own banks (R280, R285, R286)

A turn runs in states that differ from the strand's in its core, and for an early load in the count of free values. What an access to the
core's own banks does there is stated for any such state. -/

/-- The strand's state with another core in focus and another count of free values. -/
def inCore (s : State) (c : Core) (n : Nat) : State := { s with core := c, freeCtr := n }

/-- A core that stands where the strand's does, with its registers of vectors, and has no store outstanding. -/
structure SameBanks (s : State) (c : Core) : Prop where
  pos : c.pos = s.core.pos
  fold : c.fold = s.core.fold
  vf : c.vf = s.core.vf
  vec : c.vec = s.core.vec
  sb : c.q.sb = []

section
variable {s : State} {c : Core} {n : Nat} {e : QEntry} {k : Nat → Nat}

/-- A piece whose bytes lie in the core's own banks at a key that its number gives. -/
def Banked (s : State) (k : Nat → Nat) (p : Piece) : Prop := OwnBank s p.va (k p.idx)

/-- A piece placed there. -/
def banked (k : Nat → Nat) (p : Piece) : Placed := ⟨p, some (.bank (k p.idx)), 0⟩

/-- No word of the bytes of a piece carries a mark. -/
def Unmarked (s : State) (k : Nat → Nat) (p : Piece) : Prop := 1 ≤ p.size ∧ ∀ j, j < p.size → poisoned s (k p.idx + j) = false

/-- With no store outstanding none leaves before an access. -/
theorem olderStoresOut_inCore (h : SameBanks s c) : olderStoresOut (inCore s c n) = inCore s c n := by
  unfold olderStoresOut
  rw [show (inCore s c n).core.q.sb = [] from h.sb]
  rfl

/-- A window of the strand's own banks translates to its key and changes nothing. -/
theorem translateAs_own {acc : Access} {va : Word} {key : Nat} (h : SameBanks s c) (hacc : acc ≠ .x) (hb : OwnBank s va key) (defer net : Bool) :
    translateAs (inCore s c n) (e.who (inCore s c n)) va acc defer net = (inCore s c n, .ok (.bank key)) := by
  obtain ⟨hw, hk, -⟩ := hb
  refine translateAs_bank hacc hw ?_ defer net
  show windowKey s c.pos c.fold va = some key
  rw [h.pos, h.fold, hk]

/-- Pieces in the own banks translate together. -/
theorem translateAll_own {acc : Access} (h : SameBanks s c) (hacc : acc ≠ .x) : ∀ {ps : List Piece}, (∀ p ∈ ps, Banked s k p) →
    translateAll (inCore s c n) (e.who (inCore s c n)) acc ps = (inCore s c n, some (ps.map (banked k)))
  | [], _ => rfl
  | p :: ps, hb => by
    have ih := translateAll_own h hacc fun q hq => hb q (List.mem_cons_of_mem p hq)
    unfold translateAll
    rw [translateAs_own h hacc (hb p List.mem_cons_self)]
    dsimp only
    rw [ih]
    rfl

/-- None of them faults. -/
theorem lowestFault_banked (ps : List Piece) : lowestFault (ps.map (banked k)) = none :=
  lowestFault_none fun p hp => by
    obtain ⟨q, -, rfl⟩ := List.mem_map.1 hp
    rfl

/-- With no copy command outstanding none holds an access back. -/
theorem heldBack_inCore (h : SameBanks s c) (hc : NoCopies s) (write : Bool) (ps : List Piece) : heldBack (inCore s c n) e write ps = false := by
  unfold heldBack
  rw [List.any_eq_false]
  intro r _
  unfold rangeHeld
  rw [show commandsOf (inCore s c n) (inCore s c n).core.pos = commandsOf s c.pos from rfl, h.pos, show commandsOf s s.core.pos = [] from hc]
  exact Bool.false_ne_true

/-- Nor does an older store. -/
theorem accessHeld_inCore (h : SameBanks s c) (hc : NoCopies s) (write : Bool) (pl : List Placed) :
    accessHeld (inCore s c n) e write pl = false := by
  unfold accessHeld sbHolds
  rw [heldBack_inCore h hc, show (inCore s c n).core.q.sb = [] from h.sb]
  rfl

/-- What no placed piece gives. -/
theorem filterMap_banked {f : Placed → Option Nat} {ps : List Piece} (h : ∀ p ∈ ps, f (banked k p) = none) :
    (ps.map (banked k)).filterMap f = [] := by
  rw [List.filterMap_eq_nil_iff]
  intro a ha
  obtain ⟨p, hp, rfl⟩ := List.mem_map.1 ha
  exact h p hp

/-- Own banks take no remote request. -/
theorem remoteLines_own (h : SameBanks s c) {ps : List Piece} (hb : ∀ p ∈ ps, Banked s k p) :
    remoteLines (inCore s c n) e (ps.map (banked k)) = (inCore s c n, []) := by
  unfold remoteLines
  dsimp only
  rw [filterMap_banked]
  · rfl
  · intro p hp
    refine if_neg ?_
    rw [show (inCore s c n).core.pos = s.core.pos from h.pos, (hb p hp).2.2]
    exact Bool.false_ne_true

/-- A read of a bank changes nothing. -/
theorem readAt_bank_state (u : State) (key size : Nat) : (readAt u (.bank key) size).1 = u := by
  unfold readAt
  split <;> rfl

/-- A piece in a bank without marks reads its bytes. -/
theorem readPiece_banked {u : State} {p : Piece} (used : Bool) (h : Unmarked u k p) :
    readPiece u used [] (banked k p) = (u, Memory.le u.mem (k p.idx) p.size, none) := by
  obtain ⟨h1, hm⟩ := h
  have hread {key size : Nat} (hs : 0 < size) (hc : ∀ j, j < size → poisoned u (key + j) = false) :
      readAt u (.bank key) size = (u, Memory.le u.mem key size, none) :=
    Prod.ext (readAt_bank_state u key size) (Prod.ext (readAt_bank_value u key size) (readAt_bank_clean hs hc))
  have hset : (if used = true then setAccessed u (.bank (k p.idx)) false else u) = u := by split <;> rfl
  unfold readPiece banked
  dsimp only
  rw [if_neg (show ¬onRefused [] (.bank (k p.idx)) = true from Bool.false_ne_true), hset]
  by_cases h16 : p.size = 16
  · rw [if_pos h16, hread (by decide) fun j hj => hm j (by omega)]
    dsimp only [Loc.add]
    rw [hread (by decide) fun j hj => by rw [Nat.add_assoc]; exact hm (8 + j) (by omega), h16]
    rw [le_append u.mem (k p.idx) 8 8]
    rfl
  · rw [if_neg h16, hread h1 hm]
    rfl

/-- Pieces in banks without marks read their bytes, in order. -/
theorem readPieces_banked {u : State} (used : Bool) : ∀ {ps : List Piece}, (∀ p ∈ ps, Unmarked u k p) →
    readPieces u used [] (ps.map (banked k)) = (u, ps.map fun p => (p.idx, Memory.le u.mem (k p.idx) p.size), none)
  | [], _ => rfl
  | p :: ps, h => by
    have ih := readPieces_banked used fun q hq => h q (List.mem_cons_of_mem p hq)
    rw [List.map_cons]
    unfold readPieces
    rw [readPiece_banked used (h p List.mem_cons_self)]
    dsimp only
    rw [ih]
    rfl

/-- A contiguous load from the own banks (R285). -/
theorem loadAll_own (h : SameBanks s c) (hc : NoCopies s) (used : Bool) {ps : List Piece} (hb : ∀ p ∈ ps, Banked s k p)
    (hu : ∀ p ∈ ps, Unmarked s k p) :
    loadAll (inCore s c n) e used ps = .ok (inCore s c n) (ps.map fun p => (p.idx, Memory.le s.mem (k p.idx) p.size)) := by
  unfold loadAll
  dsimp only
  rw [translateAll_own h (by decide) hb]
  dsimp only
  rw [lowestFault_banked]
  dsimp only
  rw [accessHeld_inCore h hc, if_neg Bool.false_ne_true, remoteLines_own h hb]
  dsimp only
  rw [readPieces_banked used (u := inCore s c n) hu]
  rfl

/-- The value read for a number among numbered values. -/
theorem readOf_map {α : Type} (idx : α → Nat) (g : Nat → Nat) (j dflt : Nat) : ∀ l : List α,
    readOf (l.map fun a => (idx a, g (idx a))) j dflt = if (l.map idx).contains j then g j else dflt
  | [] => rfl
  | a :: l => by
    have ih := readOf_map idx g j dflt l
    unfold readOf at ih ⊢
    by_cases ha : idx a = j
    · simp [ha]
    · have hb : (idx a == j) = false := beq_eq_false_iff_ne.2 ha
      have hc : (j == idx a) = false := beq_eq_false_iff_ne.2 (Ne.symm ha)
      rw [List.map_cons, List.find?_cons_of_neg (by rw [hb]; exact Bool.false_ne_true), ih, List.map_cons, List.contains_cons, hc, Bool.false_or]

end

end Sys2Proof.Machine

namespace Sys2Proof.Machine

/-! ## Lane-addressed accesses (R286, R287) -/

/-- The bits of a set of lanes. -/
theorem maskOf_getLsbD (l : List Nat) {j : Nat} (hj : j < 64) : (maskOf l).getLsbD j = true ↔ j ∈ l := by
  have hbit (i : Nat) : (BitVec.ofNat 64 (1 <<< i)).getLsbD j = true ↔ i = j := by
    rw [BitVec.getLsbD_ofNat, decide_eq_true hj, Bool.true_and, Nat.one_shiftLeft, Nat.testBit_two_pow, decide_eq_true_eq]
  unfold maskOf
  rw [show (fun (m : Word) (i : Nat) => m ||| (1 <<< i : Nat)) = fun m i => m ||| BitVec.ofNat 64 (1 <<< i) from rfl, foldl_or_getLsbD]
  constructor
  · rintro (h | ⟨i, hi, h⟩)
    · exact absurd h (by simp)
    · rwa [← (hbit i).1 h]
  · exact fun h => Or.inr ⟨j, h, (hbit j).2 rfl⟩

/-- The core in which an instruction's access runs: it stands where the strand's does, and a v source of the instruction is what the strand
found at the enqueue. -/
structure TurnCore (s : State) (i : Instr) (c : Core) : Prop extends SameBanks s c where
  pushed : c.q.pushed = s.core.q.pushed
  src : ∀ m, ∀ r ∈ vSourcesOf i, vSrc (inCore s c m) (capture s i) r = vNow s r

section
variable {s : State} {i : Instr} {c : Core} {n : Nat} {k : Nat → Nat} {bad : Nat → Prop} [DecidablePred bad]

/-- The lanes of a lane-addressed access that are active and not done (R286). -/
def lanesLeft (s : State) (i : Instr) : List Nat :=
  (laneList (widthNow s) (activeNow s)).filter fun j => !(capture s i).lanedone.getLsbD j

theorem mem_lanesLeft {j : Nat} : j ∈ lanesLeft s i ↔
    j < laneCount (widthNow s) ∧ (activeNow s).getLsbD j = true ∧ (capture s i).lanedone.getLsbD j = false := by
  simp only [lanesLeft, laneList, List.mem_filter, List.mem_range, Bool.not_eq_true', and_assoc]

/-- Those that do not fault. -/
def lanesGood (s : State) (i : Instr) (bad : Nat → Prop) [DecidablePred bad] : List Nat := (lanesLeft s i).filter fun j => !decide (bad j)

theorem mem_lanesGood {j : Nat} : j ∈ lanesGood s i bad ↔ j ∈ lanesLeft s i ∧ ¬bad j := by
  simp only [lanesGood, List.mem_filter, Bool.not_eq_true', decide_eq_false_iff_not]

/-- A lane that is active lies in a mask. -/
theorem lanesLeft_lt {j : Nat} (h : j ∈ lanesLeft s i) : j < 64 := BitVec.lt_of_getLsbD (mem_lanesLeft.1 h).2.1

/-- The piece of a lane. -/
def lanePiece (w : Nat) (addr : Nat → Word) (v : VWord) (j : Nat) : Piece := ⟨j, addr j, w / 8, lane v w j⟩

/-- The pieces of a turn are those of the lanes left. -/
theorem lanePieces_left (addr : Nat → Word) (v : VWord) :
    lanePieces (capture s i) (activeNow s) addr v = (lanesLeft s i).map (lanePiece (widthNow s) addr v) := rfl

/-- A lane faults: it is misaligned, of another kind than the base, or its translation faults (R286). -/
def LaneFaults (s u : State) (w : Who) (acc : Access) (base : Word) (p : Piece) : Prop :=
  p.va.toNat % p.size ≠ 0 ∨ sameKind s.core.pos base p.va = false ∨ ∃ code, translateAs u w p.va acc true false = (u, .fault code)

/-- A lane lies in the own banks, where the base does (R286). -/
def LaneFits (s : State) (k : Nat → Nat) (base : Word) (p : Piece) : Prop :=
  p.va.toNat % p.size = 0 ∧ sameKind s.core.pos base p.va = true ∧ Banked s k p

/-- A lane as its translation leaves it. -/
def lanePlaced (bad : Nat → Prop) [DecidablePred bad] (k : Nat → Nat) (p : Piece) : Placed := if bad p.idx then ⟨p, none, 13⟩ else banked k p

/-- Lanes that fault and lanes in the own banks translate together. -/
theorem translateLanes_own {e : QEntry} {acc : Access} {base : Word} (h : SameBanks s c) (hacc : acc ≠ .x) : ∀ {ps : List Piece},
    (∀ p ∈ ps, bad p.idx → LaneFaults s (inCore s c n) (e.who (inCore s c n)) acc base p) → (∀ p ∈ ps, ¬bad p.idx → LaneFits s k base p) →
    translateLanes (inCore s c n) (e.who (inCore s c n)) acc base ps = (inCore s c n, some (ps.map (lanePlaced bad k)))
  | [], _, _ => rfl
  | p :: ps, hbad, hgood => by
    have ih := translateLanes_own (acc := acc) (base := base) h hacc (fun q hq => hbad q (List.mem_cons_of_mem p hq))
      fun q hq => hgood q (List.mem_cons_of_mem p hq)
    have hpos : (e.who (inCore s c n)).pos = s.core.pos := h.pos
    unfold translateLanes
    rw [hpos]
    dsimp only
    by_cases hp : bad p.idx
    · have hpl : (p :: ps).map (lanePlaced bad k) = ⟨p, none, 13⟩ :: ps.map (lanePlaced bad k) := by
        rw [List.map_cons, lanePlaced, if_pos hp]
      by_cases hk : (decide (p.va.toNat % p.size ≠ 0) || !sameKind s.core.pos base p.va) = true
      · rw [if_pos hk, ih, hpl]
        rfl
      · rw [if_neg hk]
        simp only [Bool.or_eq_true, decide_eq_true_eq, Bool.not_eq_true', not_or] at hk
        rcases hbad p List.mem_cons_self hp with hm | hs | ⟨code, ht⟩
        · exact absurd hm hk.1
        · exact absurd hs hk.2
        · rw [ht]
          dsimp only
          rw [ih, hpl]
          rfl
    · obtain ⟨ha, hs, hb⟩ := hgood p List.mem_cons_self hp
      rw [if_neg (by rw [ha, hs]; decide), translateAs_own h hacc hb, List.map_cons, show lanePlaced bad k p = banked k p from if_neg hp]
      dsimp only
      rw [ih]
      rfl

/-- The placed lanes that do not fault. -/
theorem filter_lanePlaced (w : Nat) (addr : Nat → Word) (v : VWord) (l : List Nat) :
    ((l.map (lanePiece w addr v)).map (lanePlaced bad k)).filter (fun p => p.loc.isSome) =
      ((l.filter fun j => !decide (bad j)).map (lanePiece w addr v)).map (banked k) := by
  induction l with
  | nil => rfl
  | cons j l ih =>
    by_cases hj : bad j
    · have hp : lanePlaced bad k (lanePiece w addr v j) = ⟨lanePiece w addr v j, none, 13⟩ := if_pos hj
      rw [List.map_cons, List.map_cons, hp, List.filter_cons_of_neg (by exact Bool.false_ne_true),
        List.filter_cons_of_neg (by simpa using hj), ih]
    · have hp : lanePlaced bad k (lanePiece w addr v j) = banked k (lanePiece w addr v j) := if_neg hj
      rw [List.map_cons, List.map_cons, hp, List.filter_cons_of_pos rfl, List.filter_cons_of_pos (by simpa using hj), ih]
      rfl

/-- The first placed lane that faults. -/
theorem find_lanePlaced (w : Nat) (addr : Nat → Word) (v : VWord) (l : List Nat) :
    ((l.map (lanePiece w addr v)).map (lanePlaced bad k)).find? (fun p => p.loc.isNone) =
      (l.find? fun j => decide (bad j)).map fun j => ⟨lanePiece w addr v j, none, 13⟩ := by
  induction l with
  | nil => rfl
  | cons j l ih =>
    by_cases hj : bad j
    · have hp : lanePlaced bad k (lanePiece w addr v j) = ⟨lanePiece w addr v j, none, 13⟩ := if_pos hj
      rw [List.map_cons, List.map_cons, hp, List.find?_cons_of_pos rfl, List.find?_cons_of_pos (p := fun j => decide (bad j)) (decide_eq_true hj)]
      rfl
    · have hp : lanePlaced bad k (lanePiece w addr v j) = banked k (lanePiece w addr v j) := if_neg hj
      rw [List.map_cons, List.map_cons, hp, List.find?_cons_of_neg (by exact Bool.false_ne_true),
        List.find?_cons_of_neg (by simpa using hj), ih]

/-- The lanes that a lane-addressed load writes: those read, and for a push those that it has kept (R286, R287). -/
def loadMask (s : State) (i : Instr) (d : Reg) (bad : Nat → Prop) [DecidablePred bad] : Word :=
  if d = 31 then maskOf (lanesGood s i bad) ||| (activeNow s &&& (capture s i).lanedone) else maskOf (lanesGood s i bad)

/-- The values of its lanes. -/
def loadLanes (s : State) (i : Instr) (d : Reg) (k : Nat → Nat) (bad : Nat → Prop) [DecidablePred bad] : List Nat :=
  (List.range (laneCount (widthNow s))).map fun j => if (lanesGood s i bad).contains j then Memory.le s.mem (k j) (widthNow s / 8)
    else if d = 31 ∧ (capture s i).lanedone.getLsbD j = true then lane s.core.q.pushed (widthNow s) j else 0

/-- What a lane-addressed load leaves of its destination when a lane has faulted (R287). -/
def keepLanes (s : State) (i : Instr) (d : Reg) (k : Nat → Nat) (bad : Nat → Prop) [DecidablePred bad] (u : State) : State :=
  if d = 31 then setQ u { u.core.q with pushed := ofLanes (widthNow s) ((List.range (laneCount (widthNow s))).map fun j =>
    if (loadMask s i d bad).getLsbD j then laneOf (loadLanes s i d k bad) j else 0) }
  else finishLoad u (capture s i) d (widthNow s) (loadMask s i d bad) (loadLanes s i d k bad)

section
variable {d : Reg} {base : Word} {addr : Nat → Word} (used : Bool) (h : TurnCore s i c) (hc : NoCopies s)
  (hbad : ∀ j ∈ lanesLeft s i, bad j → LaneFaults s (inCore s c n) ((capture s i).who (inCore s c n)) .r base (lanePiece (widthNow s) addr 0 j))
  (hgood : ∀ j ∈ lanesLeft s i, ¬bad j → LaneFits s k base (lanePiece (widthNow s) addr 0 j) ∧
    Unmarked s k (lanePiece (widthNow s) addr 0 j))
include h hc hbad hgood

/-- A lane-addressed load whose lanes lie in the own banks or fault (R286, R287). -/
theorem runLaneLoad_own : runLaneLoad used (capture s i) d base addr (inCore s c n) =
    match (lanesLeft s i).find? fun j => decide (bad j) with
    | none => .done (finishLoad (inCore s c n) (capture s i) d (widthNow s) (loadMask s i d bad) (loadLanes s i d k bad))
    | some f => .trap (setLanedone (keepLanes s i d k bad (inCore s c n)) ((capture s i).lanedone ||| maskOf (lanesGood s i bad)))
        ⟨13, addr f⟩ true := by
  have hact : activeOf (inCore s c n) (capture s i) = activeNow s := congrArg (fun v : VecRegs => activeMask s.core.regs.mode v.masks) h.vec
  have htr := translateLanes_own (n := n) (e := capture s i) (acc := .r) (base := base) (bad := bad) (k := k) h.toSameBanks (by decide)
    (ps := (lanesLeft s i).map (lanePiece (widthNow s) addr 0))
    (fun p hp hb => by obtain ⟨j, hj, rfl⟩ := List.mem_map.1 hp; exact hbad j hj hb)
    fun p hp hb => by obtain ⟨j, hj, rfl⟩ := List.mem_map.1 hp; exact (hgood j hj hb).1
  have hpieces : ∀ p ∈ (lanesGood s i bad).map (lanePiece (widthNow s) addr 0), Banked s k p ∧ Unmarked s k p := by
    intro p hp
    obtain ⟨j, hj, rfl⟩ := List.mem_map.1 hp
    obtain ⟨hj, hb⟩ := mem_lanesGood.1 hj
    exact ⟨(hgood j hj hb).1.2.2, (hgood j hj hb).2⟩
  have hidx : (((lanesGood s i bad).map (lanePiece (widthNow s) addr 0)).map (banked k)).map (·.piece.idx) = lanesGood s i bad := by
    rw [List.map_map, List.map_map]
    exact List.map_id _
  have hread : ((lanesGood s i bad).map (lanePiece (widthNow s) addr 0)).map (fun p => (p.idx, Memory.le s.mem (k p.idx) p.size)) =
      (lanesGood s i bad).map fun j => (j, Memory.le s.mem (k j) (widthNow s / 8)) := List.map_map
  have hlanes : ((List.range (laneCount (widthNow s))).map fun j => readOf ((lanesGood s i bad).map fun j => (j, Memory.le s.mem (k j) (widthNow s / 8))) j
      (if (decide (d = 31) && (capture s i).lanedone.getLsbD j) = true then lane s.core.q.pushed (widthNow s) j else 0)) = loadLanes s i d k bad := by
    refine List.map_congr_left fun j _ => ?_
    rw [readOf_map (fun j : Nat => j) (fun j => Memory.le s.mem (k j) (widthNow s / 8)), List.map_id']
    simp only [Bool.and_eq_true, decide_eq_true_eq]
  unfold runLaneLoad
  rw [olderStoresOut_inCore h.toSameBanks]
  dsimp only
  rw [hact, lanePieces_left, htr]
  dsimp only
  rw [filter_lanePlaced, show (lanesLeft s i).filter (fun j => !decide (bad j)) = lanesGood s i bad from rfl, accessHeld_inCore h.toSameBanks hc,
    heldBack_inCore h.toSameBanks hc, if_neg (by decide), remoteLines_own h.toSameBanks fun p hp => (hpieces p hp).1]
  dsimp only
  rw [readPieces_banked used (u := inCore s c n) fun p hp => (hpieces p hp).2]
  dsimp only
  rw [hidx, show (inCore s c n).mem = s.mem from rfl, hread, show (inCore s c n).core.q.pushed = s.core.q.pushed from h.pushed, find_lanePlaced]
  rw [show (capture s i).w = widthNow s from rfl, hlanes]
  cases (lanesLeft s i).find? fun j => decide (bad j) <;> rfl

end

end

end Sys2Proof.Machine

namespace Sys2Proof.Machine

/-! ## Loads to v(d) or a push (R283, R286) -/

section
variable {s : State} {i : Instr} {d a b : Reg} {w : Nat} {k : Nat → Nat}

/-- The core of an instruction that has its turn is such a core. -/
theorem turnCore_appended (h : ReadyQ i s) : TurnCore s i (appended s i).core :=
  ⟨⟨rfl, rfl, rfl, rfl, h.1.1.2.2.1⟩, rfl, fun _ _ hr => vSrc_named h hr⟩

/-- The lanes of a mask take values, and those of the other lanes stand. -/
structure WritesLanes (s : State) (w : Nat) (mask : Word) (vals : List Nat) (f : Nat → Nat) : Prop where
  mask : ∀ j, j < laneCount w → mask.getLsbD j = (activeNow s).getLsbD j
  vals : ∀ j, j < laneCount w → (activeNow s).getLsbD j = true → laneOf vals j = f j

/-- A load whose turn writes its active lanes. -/
theorem lanewise_load {mask : Word} {vals : List Nat} {f : Nat → Nat} (h : ReadyQ i s) (he : isEarlyLoad i = false) (hs : takesSdq i = false)
    (hx : exec i s = .next (enqueue s i)) (hdraw : drawsUnder s.core.regs.mode i = false) (hd : d ≠ 30)
    (hr : runEntry (capture s i) (appended s i) = .done (finishLoad (appended s i) (capture s i) d w mask vals)) (hw : WritesLanes s w mask vals f) :
    Lanewise i s d w fun j _ => (f j, 0) := by
  have hfin : finishLoad (appended s i) (capture s i) d w mask vals = _ :=
    (if_neg hd).trans ((writeLanes_appended s i d w mask vals).trans (tookV_flags s i s.core.q.qnext d _))
  obtain ⟨t, ht, ho, hv, hfl, hseed⟩ := onlyV_of h he hs hx (hr.trans (congrArg RunRes.done hfin))
  refine ⟨t, ht, ho, ?_, fun j hj => ?_, fun b => ?_⟩
  · rw [hseed, drawn, if_neg (by rw [hdraw]; exact Bool.false_ne_true)]
  · rw [hv, lane_computed w _ hj, hw.mask j hj]
    by_cases ha : (activeNow s).getLsbD j = true
    · rw [if_pos ha, if_pos ha, hw.vals j hj ha]
    · rw [if_neg ha, if_neg ha, lane_mod]
  · rw [hfl]
    simp

/-! ### Contiguous loads -/

/-- The values that a contiguous load reads for its lanes. -/
def rowLanes (s : State) (w : Nat) (k : Nat → Nat) : List Nat :=
  (List.range (laneCount w)).map fun j => readOf ((laneList w (activeNow s)).map fun j => (j, Memory.le s.mem (k j) (w / 8))) j 0

theorem writesLanes_row : WritesLanes s w (activeNow s) (rowLanes s w k) fun j => Memory.le s.mem (k j) (w / 8) := by
  refine ⟨fun _ _ => rfl, fun j hj ha => ?_⟩
  rw [rowLanes, laneOf_map _ hj, readOf_map (fun j : Nat => j) (fun j => Memory.le s.mem (k j) (w / 8)), List.map_id', if_pos]
  exact List.contains_iff_mem.2 (List.mem_filter.2 ⟨List.mem_range.2 hj, ha⟩)

/-- The base of a contiguous access. -/
theorem rowBase_capture {o : BitVec 13} (ha : a ∈ xReadsOf i) : rowBase (capture s i) a o = xr s a + BitVec.ofInt 64 o.toInt := by
  unfold rowBase
  rw [capture_x s ha]
  rfl

/-- A contiguous load from the own banks (R283, R285). -/
theorem runVld_own {c : Core} {n : Nat} {o : BitVec 13} {base : Word} (used : Bool) (h : SameBanks s c) (hc : NoCopies s) (ha : a ∈ xReadsOf i)
    (hbase : base = xr s a + BitVec.ofInt 64 o.toInt) (hm : base.toNat % (widthNow s / 8) = 0)
    (hb : ∀ j, j < laneCount (widthNow s) → (activeNow s).getLsbD j = true →
      CleanBank s (base + BitVec.ofNat 64 (j * (widthNow s / 8))) (widthNow s / 8) (k j)) :
    runVld used (capture s i) d a o (inCore s c n) =
      .done (finishLoad (inCore s c n) (capture s i) d (widthNow s) (activeNow s) (rowLanes s (widthNow s) k)) := by
  have hact : activeOf (inCore s c n) (capture s i) = activeNow s := congrArg (fun v : VecRegs => activeMask s.core.regs.mode v.masks) h.vec
  have hpieces : ∀ p ∈ rowPieces base (widthNow s) (activeNow s) 0, Banked s k p ∧ Unmarked s k p := by
    intro p hp
    obtain ⟨j, hj, rfl⟩ := List.mem_map.1 hp
    obtain ⟨hr, ha⟩ := List.mem_filter.1 hj
    obtain ⟨h1, -, hown, hmark⟩ := hb j (List.mem_range.1 hr) ha
    exact ⟨hown, h1, hmark⟩
  unfold runVld
  rw [olderStoresOut_inCore h, rowBase_capture ha, ← hbase]
  dsimp only
  rw [show (capture s i).w = widthNow s from rfl, if_neg (not_not.2 hm), hact,
    loadAll_own h hc used (fun p hp => (hpieces p hp).1) fun p hp => (hpieces p hp).2]
  dsimp only
  rw [rowPieces, List.map_map]
  rfl

/-- A misaligned contiguous load (R285). -/
theorem runVld_misaligned {o : BitVec 13} {base : Word} (h : ReadyQ i s) (ha : a ∈ xReadsOf i)
    (hbase : base = xr s a + BitVec.ofInt 64 o.toInt) (hm : base.toNat % (widthNow s / 8) ≠ 0) :
    runVld true (capture s i) d a o (appended s i) = .trap (appended s i) ⟨4, base⟩ false := by
  unfold runVld
  rw [olderStoresOut_appended h, rowBase_capture ha, ← hbase]
  exact if_pos hm

/-! ### Lane-addressed loads -/

section
variable {bad : Nat → Prop} [DecidablePred bad]

/-- The lanes that a lane-addressed load writes. -/
theorem loadMask_getLsbD (s : State) (i : Instr) (d : Reg) (j : Nat) : (loadMask s i d bad).getLsbD j = true ↔
    j ∈ lanesGood s i bad ∨ (d = 31 ∧ (activeNow s).getLsbD j = true ∧ (capture s i).lanedone.getLsbD j = true) := by
  have hgood : (maskOf (lanesGood s i bad)).getLsbD j = true ↔ j ∈ lanesGood s i bad :=
    ⟨fun h => (maskOf_getLsbD _ (BitVec.lt_of_getLsbD h)).1 h, fun h => (maskOf_getLsbD _ (lanesLeft_lt (mem_lanesGood.1 h).1)).2 h⟩
  unfold loadMask
  by_cases hd : d = 31
  · rw [if_pos hd, BitVec.getLsbD_or, Bool.or_eq_true, hgood, BitVec.getLsbD_and, Bool.and_eq_true, and_iff_right hd]
  · rw [if_neg hd, hgood, iff_self_or]
    exact fun h => absurd h.1 hd

/-- The value of a lane that a lane-addressed load writes. -/
theorem laneOf_loadLanes {j : Nat} (hj : j < laneCount (widthNow s)) : laneOf (loadLanes s i d k bad) j =
    if j ∈ lanesGood s i bad then Memory.le s.mem (k j) (widthNow s / 8)
    else if d = 31 ∧ (capture s i).lanedone.getLsbD j = true then lane s.core.q.pushed (widthNow s) j else 0 := by
  rw [loadLanes, laneOf_map _ hj]
  exact if_congr List.contains_iff_mem rfl rfl

end

/-- Where no lane is done and none faults, every active lane is written. -/
theorem writesLanes_load (h0 : (capture s i).lanedone = 0) : WritesLanes s (widthNow s) (loadMask s i d fun _ => False)
    (loadLanes s i d k fun _ => False) fun j => Memory.le s.mem (k j) (widthNow s / 8) := by
  have hmem {j : Nat} (hj : j < laneCount (widthNow s)) : j ∈ lanesGood s i (fun _ => False) ↔ (activeNow s).getLsbD j = true := by
    rw [mem_lanesGood, mem_lanesLeft, h0]
    simp [hj]
  refine ⟨fun j hj => ?_, fun j hj ha => ?_⟩
  · rw [Bool.eq_iff_iff, loadMask_getLsbD, hmem hj, h0]
    simp
  · rw [laneOf_loadLanes hj, if_pos ((hmem hj).2 ha)]

/-- A lane-addressed load whose lanes all lie in the own banks (R286). -/
theorem runLaneLoad_clean {c : Core} {n : Nat} {base : Word} {addr : Nat → Word} (used : Bool) (h : TurnCore s i c) (hc : NoCopies s)
    (hb : ∀ j, j < laneCount (widthNow s) → (activeNow s).getLsbD j = true → CleanBank s (addr j) (widthNow s / 8) (k j))
    (hk : ∀ j, j < laneCount (widthNow s) → (activeNow s).getLsbD j = true → sameKind s.core.pos base (addr j) = true) :
    runLaneLoad used (capture s i) d base addr (inCore s c n) =
      .done (finishLoad (inCore s c n) (capture s i) d (widthNow s) (loadMask s i d fun _ => False) (loadLanes s i d k fun _ => False)) := by
  have hrun := runLaneLoad_own (n := n) (d := d) (base := base) (addr := addr) (k := k) (bad := fun _ => False) used h hc (fun _ _ hf => hf.elim)
    fun j hj _ => by
      obtain ⟨hlt, ha, -⟩ := mem_lanesLeft.1 hj
      obtain ⟨h1, hal, hown, hmark⟩ := hb j hlt ha
      exact ⟨⟨hal, hk j hlt ha, hown⟩, h1, hmark⟩
  rw [hrun, List.find?_eq_none.2 fun j _ => by simp]

/-- The addresses of a strided access. -/
theorem strideAddr_capture (h : xReadsOf i = [a, b]) : strideAddr (capture s i) a b = fun j => xr s a + BitVec.ofNat 64 j * xr s b := by
  unfold strideAddr
  rw [capture_x s (h ▸ List.mem_cons_self), capture_x s (h ▸ List.mem_cons_of_mem a (List.mem_singleton_self b))]

/-- The addresses of a gather or scatter. -/
theorem gatherAddr_capture {c : Core} {m : Nat} {n : BitVec 2} (h : TurnCore s i c) (ha : a ∈ xReadsOf i) (hb : b ∈ vSourcesOf i) :
    gatherAddr (inCore s c m) (capture s i) a b n =
      fun j => xr s a + (BitVec.ofInt 64 (signedOf (widthNow s) (laneA s b (widthNow s) j)) <<< n.toNat) := by
  unfold gatherAddr
  rw [capture_x s ha, h.src m b hb]
  rfl

end

end Sys2Proof.Machine

namespace Sys2Proof.Machine

/-! ## Early loads (R250, R288) -/

section
variable {s : State} {i : Instr}

/-- The core of a strand whose early load is queued, at a PC and with its LDQ entry. -/
def loadCore (s : State) (i : Instr) (pc : Word) (l : LdqEntry) : Core :=
  { s.core with
    regs := { s.core.regs with pc := pc, lanedone := if isLaneAddressed i then 0 else s.core.regs.lanedone }
    q := { s.core.q with
      queue := [capture s i]
      qnext := s.core.q.qnext + 1
      u := uAfter s.core.q.u i
      p := pAfter s.core.q.p i
      ldq := s.core.q.ldq ++ [l] } }

/-- The strand with its early load queued. -/
def loading (s : State) (i : Instr) (pc : Word) (l : LdqEntry) : State := inCore s (loadCore s i pc l) (s.freeCtr + 1)

/-- The entry that an early load is given: its data is free (R250). -/
def freshEntry (s : State) : LdqEntry := ⟨s.core.q.qnext, Config.freeVector s.freeCtr, 0, none, true, false⟩

/-- A ready early load with room in the LDQ is appended and has its turn at once. -/
theorem enqueue_early (h : ReadyQ i s) (hl : LdqRoom i s) : enqueue s i = settle (append_ s (capture s i)) := by
  obtain ⟨hready, -, hmode, hsub, -⟩ := h
  obtain ⟨hq, -, -, hrem⟩ := hready.1
  unfold enqueue
  rw [whenLogged_idle hq]
  simp only [hmode, Bool.not_true, Bool.false_eq_true, if_false]
  rw [whenReady_idle hq hrem]
  simp only [hsub]
  rw [waitQueue_met (fun t => roomFor t i) (by simp [roomFor, hq, hl.1, Config.queueDepth])]

/-- Its append gives it a fresh entry, and may perform its access (R288). -/
theorem append_early (h : ReadyQ i s) (he : isEarlyLoad i = true) (hl : LdqRoom i s) : append_ s (capture s i) =
    endTest (earlyAtEnqueue (loading s i s.core.regs.pc (freshEntry s)) (capture s i)) s.core.regs.pc 6 := by
  have hq : s.core.q.queue = [] := h.1.1.1
  have h0 : (capture s i).lanedone = 0 := by
    unfold capture
    dsimp only
    rw [hl.2.1, ite_self]
  have hfind : (if isLaneAddressed i && (capture s i).lanedone != 0 then s.core.q.ldq.find? (·.kept) else none) = none := by
    rw [h0]
    exact if_neg (by simp)
  have hallot : allotLdq s (capture s i) =
      { s with freeCtr := s.freeCtr + 1, core := { s.core with q := { s.core.q with ldq := s.core.q.ldq ++ [freshEntry s] } } } := by
    unfold allotLdq
    rw [if_pos (show isEarlyLoad (capture s i).instr = true from he)]
    rw [show (if isLaneAddressed (capture s i).instr && (capture s i).lanedone != 0 then s.core.q.ldq.find? (·.kept) else none) = none from hfind]
    rfl
  unfold append_
  rw [hallot]
  dsimp only
  rw [hq]
  unfold loading loadCore
  cases hla : isLaneAddressed i
  · rw [if_neg (show ¬isLaneAddressed (capture s i).instr = true by rw [show (capture s i).instr = i from rfl, hla]; exact Bool.false_ne_true)]
    rfl
  · rw [if_pos (show isLaneAddressed (capture s i).instr = true from hla)]
    rfl

/-- The END test of an early load. -/
theorem endTest_loading (h : NoLoopEnd s) (l : LdqEntry) :
    endTest (loading s i s.core.regs.pc l) s.core.regs.pc 6 = loading s i (s.core.regs.pc + 4) l := by
  rw [endTest_ready (t := loading s i s.core.regs.pc l) h rfl rfl]
  rfl

/-- The entry of the queued early load is the one that has its number. -/
theorem ldqOf_loading (hl : ∀ l ∈ s.core.q.ldq, l.seq < s.core.q.qnext) {pc : Word} {l : LdqEntry} (hs : l.seq = s.core.q.qnext) :
    ldqOf (loading s i pc l) (capture s i).seq = some l := by
  have hnone : s.core.q.ldq.find? (fun e => e.seq == s.core.q.qnext) = none :=
    List.find?_eq_none.2 fun e he hc => Nat.ne_of_lt (hl e he) (beq_iff_eq.1 hc)
  show (s.core.q.ldq ++ [l]).find? (fun e => e.seq == s.core.q.qnext) = some l
  rw [List.find?_append, hnone, Option.none_or, List.find?_cons_of_pos (p := fun e : LdqEntry => e.seq == s.core.q.qnext) (beq_iff_eq.2 hs)]

/-- A change of the entry of the queued early load. -/
theorem mapLdq_loading (hl : ∀ l ∈ s.core.q.ldq, l.seq < s.core.q.qnext) {pc : Word} {l : LdqEntry} (hs : l.seq = s.core.q.qnext)
    (f : LdqEntry → LdqEntry) : mapLdq (loading s i pc l) (capture s i).seq f = loading s i pc (f l) := by
  have hmap : (s.core.q.ldq ++ [l]).map (fun e => if e.seq = s.core.q.qnext then f e else e) = s.core.q.ldq ++ [f l] := by
    rw [List.map_append, List.map_singleton, if_pos hs]
    refine congrArg (· ++ [f l]) ((List.map_congr_left fun e he => ?_).trans (List.map_id _))
    exact if_neg (Nat.ne_of_lt (hl e he))
  unfold mapLdq
  rw [show (loading s i pc l).core.q.ldq.map (fun e => if e.seq = (capture s i).seq then f e else e) = _ from hmap]
  rfl

/-- The core of a queued early load is one in which its access runs. -/
theorem turnCore_loading (h : ReadyQ i s) (pc : Word) (l : LdqEntry) : TurnCore s i (loadCore s i pc l) := by
  refine ⟨⟨rfl, rfl, rfl, rfl, h.1.1.2.2.1⟩, rfl, fun m r hr => ?_⟩
  by_cases h30 : r = 30
  · have hreads : readsLdq i = true := List.contains_iff_mem.2 (h30 ▸ hr)
    have hseq : (capture s i).ldqSeq = (nextLdq s).map (·.seq) := if_pos hreads
    have hnext : nextLdq s = s.core.q.ldq.find? fun e => !e.kept := by
      unfold nextLdq
      rw [h.1.1.1]
      simp
    have hfor : ldqFor (inCore s (loadCore s i pc l) m) (capture s i) = nextLdq s := by
      show (s.core.q.ldq ++ [l]).find? (fun e => !e.kept && (capture s i).ldqSeq == some e.seq) = nextLdq s
      rw [hseq, List.find?_append, hnext, find_first (fun e : LdqEntry => !e.kept) (·.seq) s.core.q.ldq]
      cases s.core.q.ldq.find? fun e => !e.kept with
      | none => simp
      | some e => rfl
    unfold vSrc vNow
    rw [if_pos h30, if_pos h30, hfor]
  · unfold vSrc vNow
    rw [if_neg h30, if_neg h30]
    rfl

/-- An entry filled with lanes. -/
def filledEntry (w : Nat) (mask : Word) (vals : List Nat) (l : LdqEntry) : LdqEntry :=
  { l with data := ofLanes w ((List.range (laneCount w)).map fun j => if mask.getLsbD j then laneOf vals j else lane l.data w j), deferred := false }

/-- A load to v30 fills its entry (R250). -/
theorem finishLoad_loading (hl : ∀ l ∈ s.core.q.ldq, l.seq < s.core.q.qnext) {pc : Word} {l : LdqEntry} (hs : l.seq = s.core.q.qnext)
    (w : Nat) (mask : Word) (vals : List Nat) :
    finishLoad (loading s i pc l) (capture s i) 30 w mask vals = loading s i pc (filledEntry w mask vals l) :=
  mapLdq_loading hl hs (filledEntry w mask vals)

/-- The active lanes of a filled entry. -/
theorem lane_filledEntry {w : Nat} {mask : Word} {vals : List Nat} {f : Nat → Nat} (h : WritesLanes s w mask vals f) (l : LdqEntry) {j : Nat}
    (hj : j < laneCount w) (ha : (activeNow s).getLsbD j = true) : lane (filledEntry w mask vals l).data w j = f j % 2 ^ w := by
  refine (lane_computed w _ hj).trans ?_
  rw [h.mask j hj, if_pos ha, h.vals j hj ha]

/-- An early load that is VLD, VLDS or VLDG: its turn is that of its access, which may come at its enqueue (R288). -/
structure RunsEarly (i : Instr) (run : Bool → QEntry → State → RunRes) : Prop where
  early : isEarlyLoad i = true
  exec : ∀ s, exec i s = .next (enqueue s i)
  takes : takesSdq i = false
  turn : ∀ s u, runEntry (capture s i) u = earlyTurn (capture s i) u (run true (capture s i))
  ahead : ∀ s u, earlyAtEnqueue u (capture s i) = u ∨
    earlyAtEnqueue u (capture s i) = fillEarly (capture s i) u (run false (capture s i))

section
variable {run : Bool → QEntry → State → RunRes} {pc : Word} {l : LdqEntry}

/-- The turn of a deferred early load performs its access. -/
theorem runEntry_deferred (hi : RunsEarly i run) (hl : ∀ l ∈ s.core.q.ldq, l.seq < s.core.q.qnext) (hs : l.seq = s.core.q.qnext)
    (hf : l.fault = none) (hd : l.deferred = true) : runEntry (capture s i) (loading s i pc l) = run true (capture s i) (loading s i pc l) := by
  rw [hi.turn]
  unfold earlyTurn
  rw [ldqOf_loading hl hs]
  dsimp only
  rw [hf]
  exact if_pos hd

/-- The turn of one that has been performed counts its uses (R297). -/
theorem runEntry_performed (hi : RunsEarly i run) (hl : ∀ l ∈ s.core.q.ldq, l.seq < s.core.q.qnext) (hs : l.seq = s.core.q.qnext)
    (hf : l.fault = none) (hd : l.deferred = false) :
    runEntry (capture s i) (loading s i pc l) = .done (markLoaded (loading s i pc l) (capture s i)) := by
  rw [hi.turn]
  unfold earlyTurn
  rw [ldqOf_loading hl hs]
  dsimp only
  rw [hf]
  exact if_neg (by rw [hd]; exact Bool.false_ne_true)

/-- The turn of one whose lanes have faulted raises cause 13 (R287). -/
theorem runEntry_faulted {t : Trap} (hi : RunsEarly i run) (hl : ∀ l ∈ s.core.q.ldq, l.seq < s.core.q.qnext) (hs : l.seq = s.core.q.qnext)
    (hf : l.fault = some t) (ht : t.code = 13) :
    runEntry (capture s i) (loading s i pc l) = .trap (setLanedone (loading s i pc l) l.lanes) t true := by
  rw [hi.turn]
  unfold earlyTurn
  rw [ldqOf_loading hl hs]
  dsimp only
  rw [hf]
  exact if_pos ht

/-- The queues of a strand whose early load has its turn. -/
theorem loading_kept (h : ReadyQ i s) : KeptQueues (capture s i) (loading s i pc l) :=
  ⟨rfl, h.1.1.2.1, h.1.1.2.2.1, h.1.1.2.2.2, h.2.2.2.2⟩

/-- An early load completes with its entry (R250). -/
theorem fillsLdq_of {w : Nat} {act : Word} {f : Nat → Nat} {data : VWord} (h : ReadyQ i s) (hi : RunsEarly i run) (hl : LdqRoom i s)
    (happ : append_ s (capture s i) = loading s i (s.core.regs.pc + 4) l)
    (hr : runEntry (capture s i) (loading s i (s.core.regs.pc + 4) l) =
      .done (loading s i (s.core.regs.pc + 4) ⟨s.core.q.qnext, data, 0, none, false, false⟩))
    (hf : ∀ j, j < laneCount w → act.getLsbD j = true → lane data w j = f j % 2 ^ w) : FillsLdq i s w act f := by
  have hset : enqueue s i = completeHead (loading s i (s.core.regs.pc + 4) ⟨s.core.q.qnext, data, 0, none, false, false⟩) (capture s i) := by
    rw [enqueue_early h hl, happ]
    exact settle_turn rfl rfl h.2.1 hr (loading_kept h)
  obtain ⟨reqs, rcnt, hc⟩ := completeHead_eq (loading_kept (pc := s.core.regs.pc + 4) (l := ⟨s.core.q.qnext, data, 0, none, false, false⟩) h)
  refine ⟨_, data, (hi.exec s).trans (congrArg Host.Outcome.next (hset.trans hc)), hf, ?_⟩
  have hldq (e : List LdqEntry) : (if readsLdq i = true then e.filter fun l => l.kept || (capture s i).ldqSeq != some l.seq else e) =
      ldqAfter s i e := by
    unfold ldqAfter capture
    split <;> simp_all
  have hsdq : takesSdq (capture s i).instr = false := hi.takes
  have hq : s.core.q.queue = [] := h.1.1.1
  rw [hsdq, if_neg Bool.false_ne_true]
  rw [show (capture s i).instr = i from rfl, hldq]
  simp only [passed, hq]
  rfl

/-- Accesses through windows set no A (R297). -/
theorem markLoaded_window {u : State} {e : QEntry} (h : ∀ p ∈ vecPieces u e (activeOf u e), isWindow p.va = true) : markLoaded u e = u := by
  unfold markLoaded
  generalize vecPieces u e (activeOf u e) = ps at h ⊢
  induction ps with
  | nil => rfl
  | cons p ps ih =>
    rw [List.foldl_cons]
    have hp : probe u (e.who u) p.va .r = (windowKey u (e.who u).pos (e.who u).fold p.va).map .bank := if_pos (h p List.mem_cons_self)
    rw [hp]
    cases windowKey u (e.who u).pos (e.who u).fold p.va with
    | none => exact ih fun q hq => h q (List.mem_cons_of_mem p hq)
    | some k => exact ih fun q hq => h q (List.mem_cons_of_mem p hq)

variable {w : Nat} {mask : Word} {vals : List Nat}

/-- An early load whose access goes well, whether at its enqueue or at its turn (R288). -/
theorem fillsLdq_clean {f : Nat → Nat} (h : ReadyQ i s) (hi : RunsEarly i run) (hl : LdqRoom i s)
    (hrun : ∀ used c n, TurnCore s i c → run used (capture s i) (inCore s c n) = .done (finishLoad (inCore s c n) (capture s i) 30 w mask vals))
    (hw : WritesLanes s w mask vals f)
    (hmark : ∀ l, ∀ p ∈ vecPieces (loading s i (s.core.regs.pc + 4) l) (capture s i) (activeNow s), isWindow p.va = true) :
    FillsLdq i s w (activeNow s) f := by
  have hload (used : Bool) (pc : Word) : run used (capture s i) (loading s i pc (freshEntry s)) =
      .done (loading s i pc (filledEntry w mask vals (freshEntry s))) :=
    (hrun used _ _ (turnCore_loading h pc (freshEntry s))).trans (congrArg RunRes.done (finishLoad_loading hl.2.2.1 rfl w mask vals))
  have hlanes (j : Nat) (hj : j < laneCount w) (ha : (activeNow s).getLsbD j = true) :=
    lane_filledEntry hw (freshEntry s) hj ha
  have happ := append_early h hi.early hl
  rcases hi.ahead s (loading s i s.core.regs.pc (freshEntry s)) with hstay | hahead
  · rw [hstay, endTest_loading h.1.2] at happ
    exact fillsLdq_of h hi hl happ ((runEntry_deferred hi hl.2.2.1 rfl rfl rfl).trans (hload true _)) hlanes
  · have hfill : fillEarly (capture s i) (loading s i s.core.regs.pc (freshEntry s)) (run false (capture s i)) =
        loading s i s.core.regs.pc (filledEntry w mask vals (freshEntry s)) := by
      unfold fillEarly
      rw [hload]
    rw [hahead, hfill, endTest_loading h.1.2] at happ
    refine fillsLdq_of h hi hl happ ((runEntry_performed hi hl.2.2.1 rfl rfl rfl).trans (congrArg RunRes.done ?_)) hlanes
    exact markLoaded_window (hmark _)

/-- An early load some of whose lanes fault, whether at its enqueue or at its turn (R287, R288). -/
theorem turnTraps_early {m va : Word} (h : ReadyQ i s) (hi : RunsEarly i run) (hl : LdqRoom i s)
    (hrun : ∀ used c n, TurnCore s i c → run used (capture s i) (inCore s c n) =
      .trap (setLanedone (finishLoad (inCore s c n) (capture s i) 30 w mask vals) m) ⟨13, va⟩ true) :
    ∃ l : LdqEntry, l.seq = s.core.q.qnext ∧ l.kept = false ∧ l.data = (filledEntry w mask vals (freshEntry s)).data ∧
      TurnTraps i s (setLanedone (loading s i (s.core.regs.pc + 4) l) m) ⟨13, va⟩ true := by
  have hload (used : Bool) (pc : Word) : run used (capture s i) (loading s i pc (freshEntry s)) =
      .trap (setLanedone (loading s i pc (filledEntry w mask vals (freshEntry s))) m) ⟨13, va⟩ true :=
    (hrun used _ _ (turnCore_loading h pc (freshEntry s))).trans
      (congrArg (fun u => RunRes.trap (setLanedone u m) ⟨13, va⟩ true) (finishLoad_loading hl.2.2.1 rfl w mask vals))
  have hsettle {l l1 : LdqEntry} (happ : append_ s (capture s i) = loading s i (s.core.regs.pc + 4) l)
      (hr : runEntry (capture s i) (loading s i (s.core.regs.pc + 4) l) = .trap (setLanedone (loading s i (s.core.regs.pc + 4) l1) m) ⟨13, va⟩ true) :
      TurnTraps i s (setLanedone (loading s i (s.core.regs.pc + 4) l1) m) ⟨13, va⟩ true := by
    unfold TurnTraps
    rw [hi.exec, enqueue_early h hl, happ]
    exact congrArg Host.Outcome.next (settle_trap (t := loading s i (s.core.regs.pc + 4) l) rfl rfl h.2.1 hr)
  have happ := append_early h hi.early hl
  rcases hi.ahead s (loading s i s.core.regs.pc (freshEntry s)) with hstay | hahead
  · rw [hstay, endTest_loading h.1.2] at happ
    exact ⟨_, rfl, rfl, rfl, hsettle happ ((runEntry_deferred hi hl.2.2.1 rfl rfl rfl).trans (hload true _))⟩
  · have hfill : fillEarly (capture s i) (loading s i s.core.regs.pc (freshEntry s)) (run false (capture s i)) =
        loading s i s.core.regs.pc { filledEntry w mask vals (freshEntry s) with fault := some ⟨13, va⟩, lanes := m, deferred := false } := by
      unfold fillEarly
      rw [hload]
      exact mapLdq_loading hl.2.2.1 rfl fun l => { l with fault := some ⟨13, va⟩, lanes := m, deferred := false }
    rw [hahead, hfill, endTest_loading h.1.2] at happ
    exact ⟨{ filledEntry w mask vals (freshEntry s) with fault := some ⟨13, va⟩, lanes := m, deferred := false }, rfl, rfl, rfl,
      hsettle happ (runEntry_faulted hi hl.2.2.1 rfl rfl rfl)⟩

end

/-! ### The early loads -/

section
variable {a b : Reg} {n : BitVec 2} {o : BitVec 13}

/-- A choice between a state and what is made of it is one of the two. -/
theorem ite_state (p : Prop) [Decidable p] (u v : State) : (if p then v else u) = u ∨ (if p then v else u) = v := by
  by_cases h : p
  · exact Or.inr (if_pos h)
  · exact Or.inl (if_neg h)

theorem runsEarly_vld : RunsEarly (.vld 30 a o) fun used e => runVld used e 30 a o :=
  ⟨rfl, fun _ => rfl, rfl, fun _ _ => rfl, fun _ _ => ite_state _ _ _⟩

theorem runsEarly_vlds : RunsEarly (.vlds 30 a b) fun used e => runVlds used e 30 a b :=
  ⟨rfl, fun _ => rfl, rfl, fun _ _ => rfl, fun _ _ => ite_state _ _ _⟩

theorem runsEarly_vldg : RunsEarly (.vldg 30 a b n) fun used e => runVldg used e 30 a b n :=
  ⟨rfl, fun _ => rfl, rfl, fun _ _ => rfl, fun _ _ => Or.inl (if_neg Bool.false_ne_true)⟩

end

end

end Sys2Proof.Machine

namespace Sys2Proof.Machine

/-! ## VLDS and VLDG (R283, R286) -/

section
variable {s : State} {c : Core} {d a b : Reg} {k : Nat → Nat}

/-- A strided load from the own banks. -/
theorem runVlds_clean {n : Nat} (used : Bool) (h : TurnCore s (.vlds d a b) c) (hc : NoCopies s)
    (hb : ∀ j, j < laneCount (widthNow s) → (activeNow s).getLsbD j = true →
      CleanBank s (xr s a + BitVec.ofNat 64 j * xr s b) (widthNow s / 8) (k j))
    (hk : ∀ j, j < laneCount (widthNow s) → (activeNow s).getLsbD j = true →
      sameKind s.core.pos (xr s a) (xr s a + BitVec.ofNat 64 j * xr s b) = true) :
    runVlds used (capture s (.vlds d a b)) d a b (inCore s c n) = .done (finishLoad (inCore s c n) (capture s (.vlds d a b)) d (widthNow s)
      (loadMask s (.vlds d a b) d fun _ => False) (loadLanes s (.vlds d a b) d k fun _ => False)) := by
  unfold runVlds
  rw [capture_x s (i := .vlds d a b) List.mem_cons_self, strideAddr_capture rfl]
  exact runLaneLoad_clean used h hc hb hk

/-- A gather from the own banks. -/
theorem runVldg_clean {m : Nat} {n : BitVec 2} (used : Bool) (h : TurnCore s (.vldg d a b n) c) (hc : NoCopies s)
    (hb : ∀ j, j < laneCount (widthNow s) → (activeNow s).getLsbD j = true →
      CleanBank s (xr s a + (BitVec.ofInt 64 (signedOf (widthNow s) (laneA s b (widthNow s) j)) <<< n.toNat)) (widthNow s / 8) (k j))
    (hk : ∀ j, j < laneCount (widthNow s) → (activeNow s).getLsbD j = true →
      sameKind s.core.pos (xr s a) (xr s a + (BitVec.ofInt 64 (signedOf (widthNow s) (laneA s b (widthNow s) j)) <<< n.toNat)) = true) :
    runVldg used (capture s (.vldg d a b n)) d a b n (inCore s c m) = .done (finishLoad (inCore s c m) (capture s (.vldg d a b n)) d (widthNow s)
      (loadMask s (.vldg d a b n) d fun _ => False) (loadLanes s (.vldg d a b n) d k fun _ => False)) := by
  unfold runVldg
  rw [capture_x s (i := .vldg d a b n) (List.mem_singleton_self a), gatherAddr_capture h (List.mem_singleton_self a) (List.mem_singleton_self b)]
  exact runLaneLoad_clean used h hc hb hk

end

/-! ## VLDMX (R283, R284) -/

/-- n bytes are a number below 256 to the n. -/
theorem le_lt (m : Memory) (k n : Nat) : Memory.le m k n < 256 ^ n := by
  induction n generalizing k with
  | zero => simp [Memory.le]
  | succ n ih =>
    have h1 := ih (k + 1)
    have h2 : (Memory.byte m k).toNat < 256 := (Memory.byte m k).isLt
    rw [Memory.le, pow_succ]
    omega

section
variable {s : State} {d a b : Reg} {k g : Nat → Nat}

/-- The key of a piece of VLDMX: of block j under number j, of its scale under 4 + j. -/
def mxKey (k g : Nat → Nat) (j : Nat) : Nat := if j < 4 then k j else g (j - 4)

/-- The bytes of a piece of VLDMX. -/
def mxSize (m : BitVec 18) (j : Nat) : Nat := if j < 4 then 16 else scaleBytes m

/-- The blocks and scales that VLDMX reads. -/
theorem mem_mxPieces {e : QEntry} {act : Word} {p : Piece} : p ∈ mxPieces e a b act ↔ ∃ j, j < 4 ∧ act.getLsbD j = true ∧
    (p = ⟨j, e.x a + BitVec.ofNat 64 (16 * j), 16, 0⟩ ∨
      p = ⟨4 + j, e.x b + BitVec.ofNat 64 (scaleBytes e.mode * j), scaleBytes e.mode, 0⟩) := by
  simp only [mxPieces, List.mem_append, List.mem_map, List.mem_filter, List.mem_range]
  constructor
  · rintro (⟨j, ⟨hj, ha⟩, rfl⟩ | ⟨j, ⟨hj, ha⟩, rfl⟩)
    · exact ⟨j, hj, ha, Or.inl rfl⟩
    · exact ⟨j, hj, ha, Or.inr rfl⟩
  · rintro ⟨j, hj, ha, rfl | rfl⟩
    · exact Or.inl ⟨j, ⟨hj, ha⟩, rfl⟩
    · exact Or.inr ⟨j, ⟨hj, ha⟩, rfl⟩

/-- The values that VLDMX reads, by number. -/
def mxValues (s : State) (i : Instr) (a b : Reg) (k g : Nat → Nat) : List (Nat × Nat) :=
  (mxPieces (capture s i) a b (activeNow s)).map fun p =>
    (p.idx, Memory.le s.mem (mxKey k g p.idx) (mxSize s.core.regs.mode p.idx))

/-- The value of an active block, or of its scale. -/
theorem readOf_mxValues {i : Instr} {j n : Nat} (hj : j < 4) (ha : (activeNow s).getLsbD j = true) (hn : n = j ∨ n = 4 + j) :
    readOf (mxValues s i a b k g) n 0 = Memory.le s.mem (mxKey k g n) (mxSize s.core.regs.mode n) := by
  unfold mxValues
  refine (readOf_map (fun p : Piece => p.idx) (fun n => Memory.le s.mem (mxKey k g n) (mxSize s.core.regs.mode n)) n 0 _).trans (if_pos ?_)
  rw [List.contains_iff_mem, List.mem_map]
  rcases hn with rfl | rfl
  · exact ⟨_, mem_mxPieces.2 ⟨n, hj, ha, Or.inl rfl⟩, rfl⟩
  · exact ⟨_, mem_mxPieces.2 ⟨j, hj, ha, Or.inr rfl⟩, rfl⟩

/-- The register that VLDMX leaves. -/
def mxBlocks (s : State) (i : Instr) (d a b : Reg) (k g : Nat → Nat) : VWord :=
  ofLanes 128 ((List.range (laneCount 128)).map fun j =>
    if (activeNow s).getLsbD j then laneOf ((List.range 4).map fun j => readOf (mxValues s i a b k g) j 0) j else lane (oldV s d) 128 j)

/-- The scale fields that VLDMX leaves. -/
def mxScales (s : State) (i : Instr) (d a b : Reg) (k g : Nat → Nat) : Vector Scale 4 :=
  Vector.ofFn fun j => if (activeNow s).getLsbD j.val then
    (let n := readOf (mxValues s i a b k g) (4 + j.val) 0
     if mSfmt s.core.regs.mode then BitVec.ofNat 20 n else scaleOfByte (BitVec.ofNat 8 n))
  else (scalesOf s d)[j]

/-- A block that VLDMX leaves. -/
theorem lane_mxBlocks {i : Instr} {j : Nat} (hj : j < 4) : lane (mxBlocks s i d a b k g) 128 j =
    if (activeNow s).getLsbD j then Memory.le s.mem (k j) 16 else lane (oldV s d) 128 j := by
  have hlt : Memory.le s.mem (k j) 16 < 2 ^ 128 := by
    have h := le_lt s.mem (k j) 16
    rwa [show (256 : Nat) ^ 16 = 2 ^ 128 by rw [show (256 : Nat) = 2 ^ 8 from rfl, ← pow_mul]] at h
  refine (lane_computed 128 _ hj).trans ?_
  by_cases ha : (activeNow s).getLsbD j = true
  · rw [if_pos ha, if_pos ha, laneOf_map _ hj, readOf_mxValues hj ha (Or.inl rfl), mxKey, if_pos hj, mxSize, if_pos hj, Nat.mod_eq_of_lt hlt]
  · rw [if_neg ha, if_neg ha, lane_mod]

/-- A scale field that VLDMX leaves. -/
theorem getElem_mxScales {i : Instr} {j : Nat} (hj : j < 4) : (mxScales s i d a b k g)[j]? =
    if (activeNow s).getLsbD j then some (if mSfmt s.core.regs.mode then BitVec.ofNat 20 (Memory.le s.mem (g j) (scaleBytes s.core.regs.mode))
      else scaleOfByte (BitVec.ofNat 8 (Memory.le s.mem (g j) (scaleBytes s.core.regs.mode)))) else (scalesOf s d)[j]? := by
  unfold mxScales
  rw [Vector.getElem?_ofFn, dif_pos hj]
  by_cases ha : (activeNow s).getLsbD j = true
  · have h4 : ¬4 + j < 4 := Nat.not_lt.2 (Nat.le_add_right 4 j)
    have hval : readOf (mxValues s i a b k g) (4 + j) 0 = Memory.le s.mem (g j) (scaleBytes s.core.regs.mode) := by
      rw [readOf_mxValues hj ha (Or.inr rfl), mxKey, if_neg h4, mxSize, if_neg h4, Nat.add_sub_cancel_left]
    rw [if_pos ha]
    dsimp only
    rw [if_pos ha, hval]
  · rw [if_neg ha, if_neg ha]
    exact (Vector.getElem?_eq_getElem hj).symm

/-- A scale is read from four bytes or from one, as SFMT says. -/
theorem scale_read (m : BitVec 18) (f1 f2 : Nat → Scale) :
    (if mSfmt m then f1 (scaleBytes m) else f2 (scaleBytes m)) = if (if mSfmt m then 4 else 1) = 4 then f1 4 else f2 1 := by
  unfold scaleBytes
  cases mSfmt m <;> rfl

/-- The turn of a VLDMX whose blocks and scales lie in the own banks (R283 to R285). -/
theorem runEntry_vldmx (h : ReadyQ (.vldmx d a b) s) (hc : NoCopies s) (hb : (xr s b).toNat % scaleBytes s.core.regs.mode = 0)
    (ha : (xr s a).toNat % 16 = 0)
    (hk : ∀ j, j < 4 → (activeNow s).getLsbD j = true → CleanBank s (xr s a + BitVec.ofNat 64 (16 * j)) 16 (k j) ∧
      CleanBank s (xr s b + BitVec.ofNat 64 (scaleBytes s.core.regs.mode * j)) (scaleBytes s.core.regs.mode) (g j)) :
    runEntry (capture s (.vldmx d a b)) (appended s (.vldmx d a b)) =
      let u := tookV (appended s (.vldmx d a b)) s.core.q.qnext d (mxBlocks s (.vldmx d a b) d a b k g)
      .done (if d = 31 then u else setScales u d (mxScales s (.vldmx d a b) d a b k g)) := by
  have hxa : (capture s (.vldmx d a b)).x a = xr s a := capture_x s List.mem_cons_self
  have hxb : (capture s (.vldmx d a b)).x b = xr s b := capture_x s (List.mem_cons_of_mem a (List.mem_singleton_self b))
  have hpieces : ∀ p ∈ mxPieces (capture s (.vldmx d a b)) a b (activeNow s), Banked s (mxKey k g) p ∧ Unmarked s (mxKey k g) p ∧
      p.size = mxSize s.core.regs.mode p.idx := by
    intro p hp
    obtain ⟨j, hj, hact, rfl | rfl⟩ := mem_mxPieces.1 hp
    · obtain ⟨h1, -, hown, hmark⟩ := (hk j hj hact).1
      have hkey : mxKey k g j = k j := if_pos hj
      rw [← hkey] at hown hmark
      rw [hxa]
      exact ⟨hown, ⟨h1, hmark⟩, (if_pos hj).symm⟩
    · obtain ⟨h1, -, hown, hmark⟩ := (hk j hj hact).2
      have h4 : ¬4 + j < 4 := Nat.not_lt.2 (Nat.le_add_right 4 j)
      have hkey : mxKey k g (4 + j) = g j := by rw [mxKey, if_neg h4, Nat.add_sub_cancel_left]
      rw [← hkey] at hown hmark
      rw [hxb]
      exact ⟨hown, ⟨h1, hmark⟩, (if_neg h4).symm⟩
  have hload := loadAll_own (c := (appended s (.vldmx d a b)).core) (n := s.freeCtr) (e := capture s (.vldmx d a b)) (k := mxKey k g)
    (turnCore_appended h).toSameBanks hc true (fun p hp => (hpieces p hp).1) fun p hp => (hpieces p hp).2.1
  rw [List.map_congr_left fun p hp => by rw [(hpieces p hp).2.2]] at hload
  show effVldmx (capture s (.vldmx d a b)) d a b (appended s (.vldmx d a b)) = _
  unfold effVldmx
  rw [olderStoresOut_appended h, hxa, hxb]
  dsimp only
  rw [if_neg (not_not.2 ha), if_neg (show ¬(xr s b).toNat % scaleBytes (capture s (.vldmx d a b)).mode ≠ 0 from not_not.2 hb)]
  rw [show loadAll (appended s (.vldmx d a b)) (capture s (.vldmx d a b)) true (mxPieces (capture s (.vldmx d a b)) a b
    (activeOf (appended s (.vldmx d a b)) (capture s (.vldmx d a b)))) = .ok (appended s (.vldmx d a b)) (mxValues s (.vldmx d a b) a b k g) from hload]
  dsimp only
  rw [writeLanes_appended]
  by_cases hd : d = 31
  · rw [if_pos hd, if_pos hd]
    rfl
  · rw [if_neg hd, if_neg hd]
    unfold tookV
    rw [if_neg hd]
    refine congrArg RunRes.done (congrArg₂ (fun u v => setScales u d v) (if_neg hd).symm ?_)
    rfl

/-- VLDMX writes its blocks and their scales (R283, R284). -/
theorem yields_vldmx (h : ReadyQ (.vldmx d a b) s) (hd : d ≠ 30) (hc : NoCopies s) (hb : (xr s b).toNat % scaleBytes s.core.regs.mode = 0)
    (ha : (xr s a).toNat % 16 = 0)
    (hk : ∀ j, j < 4 → (activeNow s).getLsbD j = true → CleanBank s (xr s a + BitVec.ofNat 64 (16 * j)) 16 (k j) ∧
      CleanBank s (xr s b + BitVec.ofNat 64 (scaleBytes s.core.regs.mode * j)) (scaleBytes s.core.regs.mode) (g j)) :
    Yields (.vldmx d a b) s fun u => if d = 31 then tookV u s.core.q.qnext 31 (mxBlocks s (.vldmx d a b) d a b k g)
      else setScales (setV u d (mxBlocks s (.vldmx d a b) d a b k g)) d (mxScales s (.vldmx d a b) d a b k g) := by
  have he : isEarlyLoad (.vldmx d a b) = false := beq_eq_false_iff_ne.2 fun hc => hd (Option.some.inj hc)
  have hrun := runEntry_vldmx h hc hb ha hk
  by_cases hd31 : d = 31
  · simp only [if_pos hd31] at hrun ⊢
    rw [hd31] at hrun h ⊢
    exact yields_tookV (d := 31) h rfl rfl rfl hrun
  · simp only [if_neg hd31] at hrun ⊢
    refine yields_of (f := fun u => setScales (setV u d (mxBlocks s (.vldmx d a b) d a b k g)) d (mxScales s (.vldmx d a b) d a b k g))
      h he rfl rfl (hrun.trans ?_) (appended_kept h) fun _ _ _ => rfl
    unfold tookV
    rw [if_neg hd31]

end

end Sys2Proof.Machine

section

open Sys2Proof Sys2Proof.Machine

/-- Settles O34, by the access of each load and where its lanes go. -/
theorem vectorLoads : Obligations.VectorLoads := by
  intro s d a b o n k w act x base reads lanewise
  have hown {va : Word} {m key : Nat} (hb : CleanBank s va m key) : isWindow va = true := hb.2.2.1.1
  have hdone (i : Instr) (h0 : s.core.regs.lanedone = 0) : (capture s i).lanedone = 0 := by
    unfold capture
    dsimp only
    rw [h0, ite_self]
  have hearly (i : Instr) (hv : vDestOf i = some d) (hd : d ≠ 30) : isEarlyLoad i = false := by
    unfold isEarlyLoad
    rw [hv, Bool.and_eq_false_iff]
    exact Or.inr (beq_eq_false_iff_ne.2 fun hc => hd (Option.some.inj hc))
  have hnodraw {p : Bool} : (p && false) = false := Bool.and_false p
  refine ⟨fun hm h hc hk => ⟨fun hd => ?_, ?_⟩, fun h0 hs h hc hk => ⟨fun hd => ?_, ?_⟩, fun h0 hs h hc hk => ⟨fun hd => ?_, ?_⟩,
    fun h hd hm => ?_, fun h hd hc g => ?_, fun h hd hm => ?_⟩
  · exact lanewise_load h (hearly _ rfl hd) rfl rfl hnodraw hd ((if_neg hd).trans (runVld_own (c := (appended s (.vld d a o)).core) (n := s.freeCtr)
      true (turnCore_appended h).toSameBanks hc (List.mem_singleton_self a) rfl hm hk)) writesLanes_row
  · intro hd hl
    subst hd
    refine fillsLdq_clean h runsEarly_vld hl (fun used c n hcore => runVld_own used hcore.toSameBanks hc (List.mem_singleton_self a) rfl hm hk)
      writesLanes_row fun l p hp => ?_
    obtain ⟨j, hj, rfl⟩ := List.mem_map.1 hp
    obtain ⟨hr, hact⟩ := List.mem_filter.1 hj
    show isWindow (rowBase (capture s (.vld 30 a o)) a o + BitVec.ofNat 64 (j * (w / 8))) = true
    rw [rowBase_capture (List.mem_singleton_self a)]
    exact hown (hk j (List.mem_range.1 hr) hact)
  · exact lanewise_load h (hearly _ rfl hd) rfl rfl hnodraw hd ((if_neg hd).trans (runVlds_clean (c := (appended s (.vlds d a b)).core)
      (n := s.freeCtr) true (turnCore_appended h) hc hk hs)) (writesLanes_load (hdone _ h0))
  · intro hd hl
    subst hd
    refine fillsLdq_clean h runsEarly_vlds hl (fun used c n hcore => runVlds_clean used hcore hc hk hs) (writesLanes_load (hdone _ h0)) fun l p hp => ?_
    obtain ⟨j, hj, rfl⟩ := List.mem_map.1 hp
    obtain ⟨hr, hact, -⟩ := mem_lanesLeft.1 hj
    show isWindow (strideAddr (capture s (.vlds 30 a b)) a b j) = true
    rw [strideAddr_capture rfl]
    exact hown (hk j hr hact)
  · exact lanewise_load h (hearly _ rfl hd) rfl rfl hnodraw hd ((if_neg hd).trans (runVldg_clean (c := (appended s (.vldg d a b n)).core)
      (m := s.freeCtr) true (turnCore_appended h) hc hk hs)) (writesLanes_load (hdone _ h0))
  · intro hd hl
    subst hd
    refine fillsLdq_clean h runsEarly_vldg hl (fun used c m hcore => runVldg_clean used hcore hc hk hs) (writesLanes_load (hdone _ h0)) fun l p hp => ?_
    obtain ⟨j, hj, rfl⟩ := List.mem_map.1 hp
    obtain ⟨hr, hact, -⟩ := mem_lanesLeft.1 hj
    show isWindow (gatherAddr (loading s (.vldg 30 a b n) (s.core.regs.pc + 4) l) (capture s (.vldg 30 a b n)) a b n j) = true
    rw [show gatherAddr (loading s (.vldg 30 a b n) (s.core.regs.pc + 4) l) (capture s (.vldg 30 a b n)) a b n = _ from
      gatherAddr_capture (turnCore_loading h _ l) (List.mem_singleton_self a) (List.mem_singleton_self b)]
    exact hown (hk j hr hact)
  · exact turnTraps_of h (hearly _ rfl hd) rfl ((if_neg hd).trans (runVld_misaligned h (List.mem_singleton_self a) rfl hm))
  · intro sn hb ha hkg
    obtain ⟨t, ht, hyield⟩ := yields_vldmx h hd hc hb ha hkg
    refine ⟨t, mxBlocks s (.vldmx d a b) d a b k g, mxScales s (.vldmx d a b) d a b k g, ht, hyield, fun j hj => ⟨lane_mxBlocks hj, ?_⟩⟩
    rw [getElem_mxScales hj]
    exact if_congr Iff.rfl (congrArg some (scale_read s.core.regs.mode (fun n => BitVec.ofNat 20 (Memory.le s.mem (g j) n))
      fun n => scaleOfByte (BitVec.ofNat 8 (Memory.le s.mem (g j) n)))) rfl
  · refine turnTraps_of h (hearly _ rfl hd) rfl ?_
    show effVldmx (capture s (.vldmx d a b)) d a b (appended s (.vldmx d a b)) = _
    unfold effVldmx
    rw [olderStoresOut_appended h, capture_x s (i := .vldmx d a b) List.mem_cons_self]
    exact if_pos hm

end

namespace Sys2Proof.Machine

/-! ## Stores to the core's own banks (R275, R280, R285, R286) -/

section
variable {u : State} {k : Nat → Nat} {bytes : List Nat}

/-- A piece of a store: 1, 2, 4 or 8 bytes at a multiple of their number. -/
def Aligned (n key : Nat) : Prop := (n = 1 ∨ n = 2 ∨ n = 4 ∨ n = 8) ∧ key % n = 0

/-- The mark of the word at h goes with a piece of n bytes at a key: it writes the word, or is narrower and bytes lists all of the word. -/
def ClearsMark (bytes : List Nat) (n key h : Nat) : Prop :=
  if n < 4 then h = wordKey key ∧ ∀ i, i < 4 → h + i ∈ bytes else key ≤ h ∧ h < key + n

/-- The state after one piece of a store to a bank. -/
def writeStep (u : State) (bytes : List Nat) (key n data : Nat) : State :=
  if n < 4 && (List.range 4).all (fun i => bytes.contains (wordKey key + i)) then clearMark (pokeLe u key n data) (.bank key)
  else pokeLe u key n data

/-- Pieces in the own banks are written one after the other. -/
theorem writeEach_banked (u : State) (p : Piece) (ps : List Piece) : writeEach u [] bytes ((p :: ps).map (banked k)) =
    writeEach (writeStep u bytes (k p.idx) p.size p.data) [] bytes (ps.map (banked k)) := rfl

/-- A piece changes memory and its marks alone. -/
theorem writeStep_eq (u : State) (key n data : Nat) : writeStep u bytes key n data =
    { u with mem := Memory.setLe u.mem key n data, poison := (writeStep u bytes key n data).poison } := by
  unfold writeStep
  split
  · rw [pokeLe_eq]
    rfl
  · rw [pokeLe_eq]

/-- The marks that a write of an aligned piece leaves (R280). -/
theorem mem_poison_pokeLe {key n h : Nat} (data : Nat) (hk : Aligned n key) (hh : h % 4 = 0) :
    h ∈ (pokeLe u key n data).poison ↔ h ∈ u.poison ∧ ¬(4 ≤ n ∧ key ≤ h ∧ h < key + n) := by
  obtain ⟨hn, hal⟩ := hk
  unfold pokeLe
  rcases hn with rfl | rfl | rfl | rfl
  · simp
  · simp
  · have hw : wordKey key = key := by unfold wordKey; omega
    rw [if_pos rfl, if_pos hal]
    simp only [clearPoison, List.mem_filter, bne_iff_ne, hw]
    refine and_congr_right fun _ => ?_
    omega
  · have hw : wordKey key = key := by unfold wordKey; omega
    have hw4 : wordKey (key + 4) = key + 4 := by unfold wordKey; omega
    rw [if_neg (by decide), if_pos rfl, if_pos (by omega)]
    simp only [clearPoison, List.mem_filter, bne_iff_ne, hw, hw4, and_assoc]
    refine and_congr_right fun _ => ?_
    omega

/-- The marks that a piece leaves (R280). -/
theorem mem_poison_writeStep {key n h : Nat} (data : Nat) (hk : Aligned n key) (hh : h % 4 = 0) :
    h ∈ (writeStep u bytes key n data).poison ↔ h ∈ u.poison ∧ ¬ClearsMark bytes n key h := by
  have hpoke := mem_poison_pokeLe (u := u) data hk hh
  unfold writeStep ClearsMark
  by_cases hn : n < 4
  · have hstay : h ∈ (pokeLe u key n data).poison ↔ h ∈ u.poison := by
      rw [hpoke]
      exact and_iff_left fun hc => Nat.not_le.2 hn hc.1
    rw [if_pos hn, decide_eq_true hn, Bool.true_and]
    by_cases hb : (List.range 4).all (fun i => bytes.contains (wordKey key + i)) = true
    · rw [if_pos hb]
      have hall : ∀ i, i < 4 → wordKey key + i ∈ bytes := fun i hi =>
        List.contains_iff_mem.1 (List.all_eq_true.1 hb i (List.mem_range.2 hi))
      show h ∈ ((pokeLe u key n data).poison.filter fun q => q != wordKey key) ↔ _
      rw [List.mem_filter, hstay, bne_iff_ne]
      refine and_congr_right fun _ => not_congr ⟨fun he => ⟨he, ?_⟩, And.left⟩
      rw [he]
      exact hall
    · rw [if_neg hb, hstay]
      refine (and_iff_left fun hc => hb (List.all_eq_true.2 fun i hi => List.contains_iff_mem.2 ?_)).symm
      rw [← hc.1]
      exact hc.2 i (List.mem_range.1 hi)
  · rw [if_neg hn, if_neg (by rw [decide_eq_false hn]; exact Bool.false_ne_true), hpoke, and_iff_right (Nat.not_lt.1 hn)]

/-- n bytes that read alike are one number. -/
theorem le_congr {m m' : Memory} {a n : Nat} (h : ∀ x, a ≤ x → x < a + n → Memory.byte m x = Memory.byte m' x) :
    Memory.le m a n = Memory.le m' a n := by
  induction n generalizing a with
  | zero => rfl
  | succ n ih =>
    rw [Memory.le, Memory.le, h a (Nat.le_refl a) (by omega), ih fun x h1 h2 => h x (by omega) (by omega)]

/-- What a store of n bytes for each lane of an ascending list leaves: a later lane over an earlier one, and of the marks those of the
words that bytes does not clear (R280, R286). -/
structure Wrote (u t : State) (bytes : List Nat) (n : Nat) (l : List Nat) (k data : Nat → Nat) : Prop where
  only : t = { u with mem := t.mem, poison := t.poison }
  wf : Memory.wf t.mem = true
  value : ∀ j ∈ l, (∀ h ∈ l, j < h → k h + n ≤ k j ∨ k j + n ≤ k h) → Memory.le t.mem (k j) n = data j % 2 ^ (8 * n)
  other : ∀ a, (∀ j ∈ l, a < k j ∨ k j + n ≤ a) → Memory.byte t.mem a = Memory.byte u.mem a
  marks : ∀ h, h % 4 = 0 → (h ∈ t.poison ↔ h ∈ u.poison ∧ ∀ j ∈ l, ¬ClearsMark bytes n (k j) h)

/-- Lanes in the own banks, written in ascending order. -/
theorem writeEach_wrote {w : Nat} (addr : Nat → Word) (v : VWord) : ∀ {l : List Nat} {u : State}, Memory.wf u.mem = true → l.Pairwise (· < ·) →
    (∀ j ∈ l, Aligned (w / 8) (k j)) →
    Wrote u (writeEach u [] bytes ((l.map (lanePiece w addr v)).map (banked k))) bytes (w / 8) l k (lane v w)
  | [], u, hwf, _, _ => ⟨rfl, hwf, fun _ h => absurd h List.not_mem_nil, fun _ _ => rfl, fun h _ => by
      rw [and_iff_left fun j hj => absurd hj List.not_mem_nil]; rfl⟩
  | j :: l, u, hwf, hl, hk => by
    obtain ⟨hj, hl⟩ := List.pairwise_cons.1 hl
    have hstep := writeStep_eq (bytes := bytes) u (k j) (w / 8) (lane v w j)
    have hmem : (writeStep u bytes (k j) (w / 8) (lane v w j)).mem = Memory.setLe u.mem (k j) (w / 8) (lane v w j) := by rw [hstep]
    have hwf1 : Memory.wf (writeStep u bytes (k j) (w / 8) (lane v w j)).mem = true := by rw [hmem]; exact Memory.setLe_wf _ _ _ hwf
    have ih := writeEach_wrote (w := w) addr v (l := l) hwf1 hl fun i hi => hk i (List.mem_cons_of_mem j hi)
    rw [List.map_cons, writeEach_banked]
    show Wrote u (writeEach (writeStep u bytes (k j) (w / 8) (lane v w j)) [] bytes ((l.map (lanePiece w addr v)).map (banked k))) bytes (w / 8) (j :: l) k (lane v w)
    generalize writeEach (writeStep u bytes (k j) (w / 8) (lane v w j)) [] bytes ((l.map (lanePiece w addr v)).map (banked k)) = t at ih ⊢
    refine ⟨?_, ih.wf, fun i hi hd => ?_, fun a ha => ?_, fun h hh => ?_⟩
    · rw [ih.only, hstep]
    · rcases List.mem_cons.1 hi with rfl | hi
      · have hsame : Memory.le t.mem (k i) (w / 8) = Memory.le (Memory.setLe u.mem (k i) (w / 8) (lane v w i)) (k i) (w / 8) := by
          refine le_congr fun x h1 h2 => ?_
          rw [ih.other x fun h hh => ?_, hmem]
          rcases hd h (List.mem_cons_of_mem i hh) (hj h hh) with hd | hd
          · exact Or.inr (by omega)
          · exact Or.inl (by omega)
        rw [hsame, Memory.le_setLe _ _ _ hwf, Nat.pow_mul]
      · exact ih.value i hi fun h hh => hd h (List.mem_cons_of_mem j hh)
    · rw [ih.other a fun i hi => ha i (List.mem_cons_of_mem j hi), hmem, Memory.byte_setLe_out _ _ _ _ hwf (ha j List.mem_cons_self)]
    · rw [ih.marks h hh, mem_poison_writeStep _ (hk j List.mem_cons_self) hh, List.forall_mem_cons, and_assoc]

section
variable {n : Nat} {l : List Nat}

/-- Some lane writes byte x. -/
def WritesByte (l : List Nat) (k : Nat → Nat) (n x : Nat) : Prop := ∃ j ∈ l, k j ≤ x ∧ x < k j + n

/-- The word at h keeps its mark exactly when the lanes leave a byte of it (R280). -/
theorem keepsMark_iff {h : Nat} (hk : ∀ j ∈ l, Aligned n (k j)) (hb : ∀ x, x ∈ bytes ↔ WritesByte l k n x) (hh : h % 4 = 0) :
    (∀ j ∈ l, ¬ClearsMark bytes n (k j) h) ↔ ∃ y, h ≤ y ∧ y < h + 4 ∧ ∀ j ∈ l, y < k j ∨ k j + n ≤ y := by
  constructor
  · intro hno
    by_contra hc
    have hall : ∀ y, h ≤ y → y < h + 4 → WritesByte l k n y := by
      intro y h1 h2
      by_contra hw
      refine hc ⟨y, h1, h2, fun j hj => ?_⟩
      by_contra hn
      exact hw ⟨j, hj, by omega, by omega⟩
    obtain ⟨j, hj, h1, h2⟩ := hall h (Nat.le_refl h) (by omega)
    refine hno j hj ?_
    unfold ClearsMark
    by_cases hn : n < 4
    · rw [if_pos hn]
      refine ⟨?_, fun i hi => (hb _).2 (hall (h + i) (by omega) (by omega))⟩
      obtain ⟨hs, hal⟩ := hk j hj
      unfold wordKey
      rcases hs with rfl | rfl | rfl | rfl <;> omega
    · rw [if_neg hn]
      exact ⟨h1, h2⟩
  · rintro ⟨y, h1, h2, hy⟩ j hj hc
    unfold ClearsMark at hc
    by_cases hn : n < 4
    · rw [if_pos hn] at hc
      obtain ⟨i, hi, h3, h4⟩ := (hb y).1 (by
        have := hc.2 (y - h) (by omega)
        rwa [Nat.add_sub_cancel' h1] at this)
      rcases hy i hi with hy | hy <;> omega
    · rw [if_neg hn] at hc
      obtain ⟨hs, hal⟩ := hk j hj
      have hle : h + 4 ≤ k j + n := by rcases hs with rfl | rfl | rfl | rfl <;> omega
      rcases hy j hj with hy | hy <;> omega

/-- The bytes that lanes in the own banks write. -/
theorem mem_bytesWritten {w x : Nat} (addr : Nat → Word) (v : VWord) :
    x ∈ bytesWritten [] ((l.map (lanePiece w addr v)).map (banked k)) ↔ WritesByte l k (w / 8) x := by
  unfold bytesWritten WritesByte
  rw [List.mem_flatMap]
  constructor
  · rintro ⟨p, hp, hx⟩
    obtain ⟨q, hq, rfl⟩ := List.mem_map.1 hp
    obtain ⟨j, hj, rfl⟩ := List.mem_map.1 hq
    have hx : x ∈ (List.range (w / 8)).map (k j + ·) := hx
    obtain ⟨i, hi, rfl⟩ := List.mem_map.1 hx
    have := List.mem_range.1 hi
    exact ⟨j, hj, by omega, by omega⟩
  · rintro ⟨j, hj, h1, h2⟩
    refine ⟨_, List.mem_map_of_mem (List.mem_map_of_mem hj), ?_⟩
    show x ∈ (List.range (w / 8)).map (k j + ·)
    exact List.mem_map.2 ⟨x - k j, List.mem_range.2 (by omega), by omega⟩

/-- What a store of n bytes for each lane leaves: the lanes, every other byte, and the marks of the words that are not written whole (R280,
R286). -/
structure StoredLanes (u t : State) (n : Nat) (l : List Nat) (k data : Nat → Nat) : Prop where
  only : t = { u with mem := t.mem, poison := t.poison }
  wf : Memory.wf t.mem = true
  value : ∀ j ∈ l, (∀ h ∈ l, j < h → k h + n ≤ k j ∨ k j + n ≤ k h) → Memory.le t.mem (k j) n = data j % 2 ^ (8 * n)
  other : ∀ a, (∀ j ∈ l, a < k j ∨ k j + n ≤ a) → Memory.byte t.mem a = Memory.byte u.mem a
  marks : ∀ a, poisoned t a = true ↔ poisoned u a = true ∧ ∃ y, wordKey a ≤ y ∧ y < wordKey a + 4 ∧ ∀ j ∈ l, y < k j ∨ k j + n ≤ y

/-- Lanes in the own banks, written by one instruction. -/
theorem writePieces_stored {w : Nat} (addr : Nat → Word) (v : VWord) (hwf : Memory.wf u.mem = true) (hl : l.Pairwise (· < ·))
    (hk : ∀ j ∈ l, Aligned (w / 8) (k j)) :
    StoredLanes u (writePieces u [] ((l.map (lanePiece w addr v)).map (banked k))) (w / 8) l k (lane v w) := by
  obtain ⟨honly, hwf1, hval, hother, hmarks⟩ := writeEach_wrote (bytes := bytesWritten [] ((l.map (lanePiece w addr v)).map (banked k))) (u := u) addr v
    hwf hl hk
  refine ⟨honly, hwf1, hval, hother, fun a => ?_⟩
  have hh : wordKey a % 4 = 0 := Nat.mul_mod_left _ 4
  unfold poisoned
  rw [List.contains_iff_mem, List.contains_iff_mem, ← keepsMark_iff hk (fun x => mem_bytesWritten addr v) hh]
  exact hmarks (wordKey a) hh

end

/-! ### Keys of the own banks -/

/-- A window address and its key agree in their low bits (R114). -/
theorem windowKey_mod {s : State} {p : CorePos} {fold key : Nat} {va : Word} (h : windowKey s p fold va = some key) :
    key % 8 = va.toNat % 8 := by
  unfold windowKey at h
  extract_lets n die cx cy co space off rel t q at h
  have hpad : ∀ c, padKey c % 8 = 0 := fun c => by unfold padKey; omega
  have htcm : ∀ c, tcmKey c % 8 = 0 := fun c => by unfold tcmKey; omega
  have hoff : off % 8 = va.toNat % 8 := by
    show va.toNat % 2 ^ 37 % 8 = _
    omega
  clear_value off t
  split at h
  · exact nomatch h
  · split at h
    · exact nomatch h
    · split at h
      · exact nomatch h
      · split at h
        · exact nomatch h
        · split at h
          · split at h
            · have := hpad q.cluster
              cases h
              omega
            · exact nomatch h
          · split at h
            · have := htcm q
              cases h
              omega
            · exact nomatch h

/-- The width of a lane in bytes, where a lane is at least a byte wide (R223, R247). -/
theorem laneBytes_cases (m : BitVec 18) : laneBits m / 8 = 0 ∨ laneBits m / 8 = 1 ∨ laneBits m / 8 = 2 ∨ laneBits m / 8 = 4 ∨ laneBits m / 8 = 8 := by
  unfold laneBits laneWidth typeBits
  split_ifs <;> decide

/-- A lane that is aligned in a window has an aligned key of its own. -/
theorem aligned_own {s : State} {va : Word} {key : Nat} (ha : va.toNat % (widthNow s / 8) = 0) (hb : OwnBank s va key) :
    Aligned (widthNow s / 8) key := by
  obtain ⟨hw, hk, -⟩ := hb
  have h8 := windowKey_mod hk
  rcases laneBytes_cases s.core.regs.mode with h | h | h | h | h
  · rw [show widthNow s / 8 = 0 from h, Nat.mod_zero] at ha
    unfold isWindow at hw
    rw [ha] at hw
    exact absurd hw (by decide)
  all_goals
    rw [show widthNow s / 8 = _ from h] at ha ⊢
    exact ⟨by decide, by omega⟩

end

end Sys2Proof.Machine

namespace Sys2Proof.Machine

/-! ## VST, VSTS and VSTG (R283, R285, R286) -/

section
variable {s : State} {i : Instr} {d a b : Reg} {k : Nat → Nat}

/-- The data of a store at its turn is what the strand found at the enqueue (R251, R283). -/
theorem storeData_appended (h : ReadyQ i s) (hd : d ∈ vSourcesOf i) (hs : takesSdq i = (d == 31)) :
    storeData (appended s i) (capture s i) d = storedNow s d := by
  unfold storeData storedNow
  by_cases h31 : d = 31
  · have hseq : (capture s i).sdqSeq = nextSdq s := if_pos (by rw [hs, h31]; rfl)
    have hfor : sdqFor (appended s i) (capture s i) = (nextSdq s).bind fun n => s.core.q.sdq.find? fun e => e.seq == n := by
      show s.core.q.sdq.find? (fun e => (capture s i).sdqSeq == some e.seq) = _
      rw [hseq]
      cases nextSdq s with
      | none => exact List.find?_eq_none.2 fun _ _ => by simp
      | some n =>
        refine congrArg (fun p => s.core.q.sdq.find? p) (funext fun e => ?_)
        rw [Bool.eq_iff_iff, beq_iff_eq, beq_iff_eq, Option.some.injEq]
        exact eq_comm
    rw [if_pos h31, if_pos h31, hfor]
  · rw [if_neg h31, if_neg h31, vSrc_named h hd]

/-- A test that no placed piece passes. -/
theorem filter_banked {f : Placed → Bool} {ps : List Piece} (h : ∀ p ∈ ps, f (banked k p) = false) : (ps.map (banked k)).filter f = [] := by
  rw [List.filter_eq_nil_iff]
  intro a ha
  obtain ⟨p, hp, rfl⟩ := List.mem_map.1 ha
  rw [h p hp]
  exact Bool.false_ne_true

/-- Pieces in the own banks lie in no line that joins (R289). -/
theorem joinParts_banked (u : State) (ps : List Piece) : joinParts u (ps.map (banked k)) = u := by
  unfold joinParts
  rw [filter_banked fun _ _ => rfl]
  rfl

/-- A contiguous store to the own banks (R285). -/
theorem storeAll_own {c : Core} {n : Nat} {e : QEntry} {ps : List Piece} (h : SameBanks s c) (hc : NoCopies s) (hb : ∀ p ∈ ps, Banked s k p) :
    storeAll (inCore s c n) e ps = .done (writePieces (inCore s c n) [] (ps.map (banked k))) := by
  unfold storeAll
  dsimp only
  rw [translateAll_own h (by decide) hb]
  dsimp only
  rw [lowestFault_banked]
  dsimp only
  rw [accessHeld_inCore h hc, if_neg Bool.false_ne_true, remoteLines_own h hb]
  dsimp only
  rw [joinParts_banked]

/-- The state after a lane-addressed store has written its good lanes (R286). -/
def storedGood (s : State) (i : Instr) (addr : Nat → Word) (v : VWord) (k : Nat → Nat) (bad : Nat → Prop) [DecidablePred bad] (u : State) : State :=
  writePieces u [] (((lanesGood s i bad).map (lanePiece (widthNow s) addr v)).map (banked k))

/-- A lane-addressed store whose lanes lie in the own banks or fault (R286, R287). -/
theorem runLaneStore_own {bad : Nat → Prop} [DecidablePred bad] {base : Word} {addr : Nat → Word} (h : ReadyQ i s) (hc : NoCopies s)
    (hd : d ∈ vSourcesOf i) (hs : takesSdq i = (d == 31))
    (hbad : ∀ j ∈ lanesLeft s i, bad j →
      LaneFaults s (appended s i) ((capture s i).who (appended s i)) .w base (lanePiece (widthNow s) addr (storedNow s d) j))
    (hgood : ∀ j ∈ lanesLeft s i, ¬bad j → LaneFits s k base (lanePiece (widthNow s) addr (storedNow s d) j)) :
    runLaneStore (capture s i) d base addr (appended s i) =
      match (lanesLeft s i).find? fun j => decide (bad j) with
      | none => .done (storedGood s i addr (storedNow s d) k bad (appended s i))
      | some f => .trap (setLanedone (storedGood s i addr (storedNow s d) k bad (appended s i))
          ((capture s i).lanedone ||| maskOf (lanesGood s i bad))) ⟨13, addr f⟩ true := by
  have hb : SameBanks s (appended s i).core := (turnCore_appended h).toSameBanks
  have htr := translateLanes_own (n := s.freeCtr) (e := capture s i) (acc := .w) (base := base) (bad := bad) (k := k) hb (by decide)
    (ps := (lanesLeft s i).map (lanePiece (widthNow s) addr (storedNow s d)))
    (fun p hp hb => by obtain ⟨j, hj, rfl⟩ := List.mem_map.1 hp; exact hbad j hj hb)
    fun p hp hb => by obtain ⟨j, hj, rfl⟩ := List.mem_map.1 hp; exact hgood j hj hb
  have hpieces : ∀ p ∈ (lanesGood s i bad).map (lanePiece (widthNow s) addr (storedNow s d)), Banked s k p := by
    intro p hp
    obtain ⟨j, hj, rfl⟩ := List.mem_map.1 hp
    obtain ⟨hj, hb⟩ := mem_lanesGood.1 hj
    exact (hgood j hj hb).2.2
  have hidx : (((lanesGood s i bad).map (lanePiece (widthNow s) addr (storedNow s d))).map (banked k)).map (·.piece.idx) = lanesGood s i bad := by
    rw [List.map_map, List.map_map]
    exact List.map_id _
  unfold runLaneStore
  rw [olderStoresOut_appended h]
  dsimp only
  rw [storeData_appended h hd hs, show activeOf (appended s i) (capture s i) = activeNow s from rfl, lanePieces_left,
    show translateLanes (appended s i) ((capture s i).who (appended s i)) .w base _ = _ from htr]
  dsimp only
  rw [filter_lanePlaced, show (lanesLeft s i).filter (fun j => !decide (bad j)) = lanesGood s i bad from rfl, accessHeld_inCore hb hc,
    heldBack_inCore hb hc, if_neg (by decide), remoteLines_own hb hpieces]
  dsimp only
  rw [hidx, find_lanePlaced]
  cases (lanesLeft s i).find? fun j => decide (bad j) <;> rfl

/-- What a store leaves that has written its lanes: memory, its marks, and the SDQ entry that the data came from (R251). -/
theorem storesLanes_of {l : List Nat} {n lanes : Nat} {act : Word} {data : Nat → Nat} {u : State} (h : ReadyQ i s)
    (he : isEarlyLoad i = false) (hs : takesSdq i = (d == 31)) (hx : exec i s = .next (enqueue s i))
    (hr : runEntry (capture s i) (appended s i) = .done u) (hw : StoredLanes (appended s i) u n l k data)
    (hl : ∀ j, j ∈ l ↔ j < lanes ∧ act.getLsbD j = true) : StoresLanes i s d n lanes act k data := by
  have hk : KeptQueues (capture s i) u := by rw [hw.only]; exact appended_kept h
  obtain ⟨reqs, rcnt, hn⟩ := turn_done h he hx hr hk
  refine ⟨_, hn, hw.wf, fun j hj ha hd => hw.value j ((hl j).2 ⟨hj, ha⟩) fun h hh hlt => hd h hlt ((hl h).1 hh).1 ((hl h).1 hh).2,
    fun a ha => hw.other a fun j hj => ha j ((hl j).1 hj).1 ((hl j).1 hj).2, fun a => ?_, ?_⟩
  · refine (hw.marks a).trans (and_congr Iff.rfl (exists_congr fun y => and_congr Iff.rfl (and_congr Iff.rfl ?_)))
    exact ⟨fun hy j hj ha => hy j ((hl j).2 ⟨hj, ha⟩), fun hy j hj => hy j ((hl j).1 hj).1 ((hl j).1 hj).2⟩
  · have hq : s.core.q.queue = [] := h.1.1.1
    rw [hw.only]
    have hif (x y : List SdqEntry) : (if takesSdq i = true then x else y) = if d = 31 then x else y :=
      if_congr (by rw [hs, beq_iff_eq]) rfl rfl
    simp only [hif, passed, hq]
    rfl

/-- The lanes of a list of lanes ascend. -/
theorem laneList_pairwise (w : Nat) (act : Word) : (laneList w act).Pairwise (· < ·) := List.Pairwise.filter _ List.pairwise_lt_range

theorem lanesGood_pairwise {bad : Nat → Prop} [DecidablePred bad] : (lanesGood s i bad).Pairwise (· < ·) :=
  List.Pairwise.filter _ (List.Pairwise.filter _ (laneList_pairwise _ _))

/-- The turn of a VST (R283). -/
theorem runEntry_vst {o : BitVec 13} {base : Word} (h : ReadyQ (.vst d a o) s) (hbase : base = xr s a + BitVec.ofInt 64 o.toInt) :
    runEntry (capture s (.vst d a o)) (appended s (.vst d a o)) =
      if base.toNat % (widthNow s / 8) ≠ 0 then .trap (appended s (.vst d a o)) ⟨7, base⟩ false
      else storeAll (appended s (.vst d a o)) (capture s (.vst d a o)) ((laneList (widthNow s) (activeNow s)).map
        (lanePiece (widthNow s) (fun j => base + BitVec.ofNat 64 (j * (widthNow s / 8))) (storedNow s d))) := by
  show effVst (capture s (.vst d a o)) d a o (appended s (.vst d a o)) = _
  unfold effVst
  rw [olderStoresOut_appended h, rowBase_capture (List.mem_singleton_self a), ← hbase]
  dsimp only
  rw [storeData_appended h (List.mem_singleton_self d) rfl]
  rfl

/-- A store of the active lanes to the own banks, each at an address of its own (R286). -/
theorem storesLanes_lanes {base : Word} {addr : Nat → Word} (h : ReadyQ i s) (hc : NoCopies s) (hwf : Memory.wf s.mem = true)
    (he : isEarlyLoad i = false) (hs : takesSdq i = (d == 31)) (hd : d ∈ vSourcesOf i) (hx : exec i s = .next (enqueue s i))
    (hr : runEntry (capture s i) (appended s i) = runLaneStore (capture s i) d base addr (appended s i)) (h0 : s.core.regs.lanedone = 0)
    (hkind : ∀ j, j < laneCount (widthNow s) → (activeNow s).getLsbD j = true → sameKind s.core.pos base (addr j) = true)
    (hb : ∀ j, j < laneCount (widthNow s) → (activeNow s).getLsbD j = true → (addr j).toNat % (widthNow s / 8) = 0 ∧ OwnBank s (addr j) (k j)) :
    StoresLanes i s d (widthNow s / 8) (laneCount (widthNow s)) (activeNow s) k fun j => lane (storedNow s d) (widthNow s) j := by
  have hdone : (capture s i).lanedone = 0 := by
    unfold capture
    dsimp only
    rw [h0, ite_self]
  have hmem (j : Nat) : j ∈ lanesGood s i (fun _ => False) ↔ j < laneCount (widthNow s) ∧ (activeNow s).getLsbD j = true := by
    rw [mem_lanesGood, mem_lanesLeft, hdone]
    simp
  have hrun := runLaneStore_own (k := k) (bad := fun _ => False) (base := base) (addr := addr) h hc hd hs (fun _ _ hf => hf.elim) fun j hj _ => by
    obtain ⟨hlt, ha, -⟩ := mem_lanesLeft.1 hj
    exact ⟨(hb j hlt ha).1, hkind j hlt ha, (hb j hlt ha).2⟩
  rw [List.find?_eq_none.2 fun j _ => by simp] at hrun
  exact storesLanes_of h he hs hx (hr.trans hrun) (writePieces_stored addr (storedNow s d) hwf lanesGood_pairwise fun j hj =>
    aligned_own (hb j ((hmem j).1 hj).1 ((hmem j).1 hj).2).1 (hb j ((hmem j).1 hj).1 ((hmem j).1 hj).2).2) hmem

end

end Sys2Proof.Machine

section

open Sys2Proof Sys2Proof.Machine

/-- Settles O35, by the addresses of each store and the bytes that its lanes write. -/
theorem vectorStores : Obligations.VectorStores := by
  intro s d a b o n k w act x base data writes lanewise
  refine ⟨fun hm h hc hwf hb => ?_, fun h0 hkind h hc hwf hb => ?_, fun h0 hkind h hc hwf hb => ?_, fun h hm => ?_⟩
  · have hcore : SameBanks s (appended s (.vst d a o)).core := (turnCore_appended h).toSameBanks
    have hmem (j : Nat) : j ∈ laneList w act ↔ j < laneCount w ∧ act.getLsbD j = true := by
      rw [laneList, List.mem_filter, List.mem_range]
    have hown : ∀ p ∈ (laneList w act).map (lanePiece w (fun j => base + BitVec.ofNat 64 (j * (w / 8))) (storedNow s d)), Banked s k p := by
      intro p hp
      obtain ⟨j, hj, rfl⟩ := List.mem_map.1 hp
      exact (hb j ((hmem j).1 hj).1 ((hmem j).1 hj).2).2
    exact storesLanes_of h rfl rfl rfl ((runEntry_vst h rfl).trans ((if_neg (not_not.2 hm)).trans (storeAll_own (n := s.freeCtr) hcore hc hown)))
      (writePieces_stored _ _ hwf (laneList_pairwise w act) fun j hj =>
        aligned_own (hb j ((hmem j).1 hj).1 ((hmem j).1 hj).2).1 (hb j ((hmem j).1 hj).1 ((hmem j).1 hj).2).2) hmem
  · refine storesLanes_lanes (i := .vsts d a b) h hc hwf rfl rfl (List.mem_singleton_self d) rfl ?_ h0 hkind hb
    show runLaneStore (capture s (.vsts d a b)) d ((capture s (.vsts d a b)).x a) (strideAddr (capture s (.vsts d a b)) a b) _ = _
    rw [capture_x s (i := .vsts d a b) List.mem_cons_self, strideAddr_capture rfl]
  · refine storesLanes_lanes (i := .vstg d a b n) h hc hwf rfl rfl List.mem_cons_self rfl ?_ h0 hkind hb
    show runLaneStore (capture s (.vstg d a b n)) d ((capture s (.vstg d a b n)).x a)
      (gatherAddr (appended s (.vstg d a b n)) (capture s (.vstg d a b n)) a b n) _ = _
    rw [capture_x s (i := .vstg d a b n) (List.mem_singleton_self a), show gatherAddr (appended s (.vstg d a b n)) _ a b n = _ from
      gatherAddr_capture (m := s.freeCtr) (turnCore_appended h) (List.mem_singleton_self a) (List.mem_cons_of_mem d (List.mem_singleton_self b))]
  · exact turnTraps_of h rfl rfl ((runEntry_vst h rfl).trans (if_pos hm))

end

namespace Sys2Proof.Machine

/-! ## A translation does not depend on the core in focus (R295 to R298)

Translate reads the page tables, the caches and the TLBs, and for whom it translates is said apart, so the core in focus and the count of
free values stand and change nothing. -/

section
variable {s : State} {c : Core} {n : Nat}

/-- An answer with a state, seen from another core. -/
def answerIn {α : Type} (c : Core) (n : Nat) (r : State × α) : State × α := (inCore r.1 c n, r.2)

theorem forward_inCore (l : Level) (key : Nat) (o : CorePos) : forward (inCore s c n) l key o = inCore (forward s l key o) c n := by
  unfold forward
  rw [show wordAt (inCore s c n) l key = wordAt s l key from rfl, show wordAt (inCore s c n) (.l1 o) key = wordAt s (.l1 o) key from rfl]
  cases wordAt s l key with
  | none => rfl
  | some w => cases wordAt s (.l1 o) key <;> rfl

theorem forwardAll_inCore (l : Level) (o : CorePos) (ks : List Nat) : ∀ s : State,
    ks.foldl (fun s k => forward s l k o) (inCore s c n) = inCore (ks.foldl (fun s k => forward s l k o) s) c n := by
  induction ks with
  | nil => exact fun _ => rfl
  | cons k ks ih =>
    intro s
    rw [List.foldl_cons, List.foldl_cons, forward_inCore, ih]

theorem refresh_inCore (l : Level) (key : Nat) : refresh (inCore s c n) l key = inCore (refresh s l key) c n := by
  unfold refresh
  rw [show ownerAt (inCore s c n) l key = ownerAt s l key from rfl]
  cases ownerAt s l key with
  | none => rfl
  | some o =>
    dsimp only
    rw [forwardAll_inCore, apply_ite (fun t : State => inCore t c n)]
    rfl

theorem supply_inCore (l : Level) (key : Nat) : supply (inCore s c n) l key = (supply s l key).map (answerIn c n) := by
  unfold supply
  dsimp only
  rw [refresh_inCore, show wordAt (inCore (refresh s l key) c n) l key = wordAt (refresh s l key) l key from rfl]
  cases wordAt (refresh s l key) l key with
  | some w => rfl
  | none =>
    dsimp only
    by_cases hl : l = .home
    · rw [if_pos hl, if_pos hl]
      rfl
    · rw [if_neg hl, if_neg hl]
      rfl

theorem homeRead4_inCore (key : Nat) : homeRead4 (inCore s c n) key = answerIn c n (homeRead4 s key) := by
  unfold homeRead4
  rw [show hitSlice (inCore s c n) key = inCore (hitSlice s key) c n from rfl, supply_inCore]
  cases supply (hitSlice s key) .home key <;> rfl

theorem homeRead8_inCore (key : Nat) : homeRead8 (inCore s c n) key = answerIn c n (homeRead8 s key) := by
  unfold homeRead8
  dsimp only
  rw [homeRead4_inCore]
  dsimp only [answerIn]
  rw [homeRead4_inCore]
  rfl

theorem walkFrom_inCore (fold va : Nat) (ls : List (Nat × Nat × Option Nat)) : ∀ (s : State) (base : Nat),
    walkFrom (inCore s c n) fold va ls base = answerIn c n (walkFrom s fold va ls base) := by
  induction ls with
  | nil => exact fun _ _ => rfl
  | cons l ls ih =>
    obtain ⟨shift, width, leafOk⟩ := l
    intro s base
    unfold walkFrom
    dsimp only
    rw [homeRead8_inCore]
    dsimp only [answerIn]
    rw [ih]
    simp only [apply_ite (fun r : State × WalkRes => (inCore r.1 c n, r.2))]
    rfl

theorem meshRequest_inCore (fold : Nat) (kind : PacketKind) (die home key : Nat) :
    meshRequest (inCore s c n) fold kind die home key = inCore (meshRequest s fold kind die home key) c n := by
  unfold meshRequest
  rw [apply_ite (fun t : State => inCore t c n)]
  rfl

theorem sendTable_inCore (die key : Nat) : sendTable (inCore s c n) die key = inCore (sendTable s die key) c n := by
  unfold sendTable
  rw [show foldAt (inCore s c n) (key / 2 ^ 52) = foldAt s (key / 2 ^ 52) from rfl]
  cases (foldAt s (key / 2 ^ 52)).bind fun f => homeOf f (key % 2 ^ 52) with
  | none => rfl
  | some h => exact meshRequest_inCore _ _ _ _ _

theorem walkTraffic_inCore (die fold va : Nat) (ls : List (Nat × Nat × Option Nat)) : ∀ (s : State) (base : Nat),
    walkTraffic (inCore s c n) die fold va ls base = inCore (walkTraffic s die fold va ls base) c n := by
  induction ls with
  | nil => exact fun _ _ => rfl
  | cons l ls ih =>
    obtain ⟨shift, width, leafOk⟩ := l
    intro s base
    unfold walkTraffic
    dsimp only
    rw [homeRead8_inCore, sendTable_inCore, ih, ← apply_ite (fun t : State => inCore t c n)]
    rfl

theorem leafFor_inCore (w : Who) (va : Word) : leafFor (inCore s c n) w va = answerIn c n (leafFor s w va) := by
  unfold leafFor
  rw [show tlbFind (inCore s c n) (.core w.pos) w.vf va = tlbFind s (.core w.pos) w.vf va from rfl,
    show tlbFind (inCore s c n) (.cluster w.pos.cluster) w.vf va = tlbFind s (.cluster w.pos.cluster) w.vf va from rfl,
    show vfAt (inCore s c n) w.vf = vfAt s w.vf from rfl, show isWaiting (inCore s c n) w va = isWaiting s w va from rfl]
  cases tlbFind s (.core w.pos) w.vf va with
  | some e => rfl
  | none =>
    cases tlbFind s (.cluster w.pos.cluster) w.vf va with
    | some e => rfl
    | none =>
      cases vfAt s w.vf with
      | none => rfl
      | some v =>
        dsimp only
        rw [walkTraffic_inCore, ← apply_ite (fun t : State => inCore t c n)]
        unfold walk
        rw [walkFrom_inCore]
        obtain ⟨t, res⟩ := walkFrom (if isWaiting s w va = true then s else walkTraffic s w.pos.die w.fold va.toNat walkLevels v.root)
          w.fold va.toNat walkLevels v.root
        cases res <;> rfl

/-- A translation that faults and changes nothing does so in any core. -/
theorem translateAs_fault_inCore {w : Who} {va : Word} {acc : Access} {code : Nat} {net : Bool}
    (h : translateAs s w va acc true net = (s, .fault code)) :
    translateAs (inCore s c n) w va acc true net = (inCore s c n, .fault code) := by
  unfold translateAs at h ⊢
  rw [show windowKey (inCore s c n) w.pos w.fold va = windowKey s w.pos w.fold va from rfl, leafFor_inCore]
  by_cases hw : isWindow va = true
  · rw [if_pos hw] at h ⊢
    generalize windowKey s w.pos w.fold va = o at h ⊢
    cases acc <;> cases o <;> exact congrArg (answerIn c n) h
  · rw [if_neg hw] at h ⊢
    by_cases hv : (!canonical va) = true
    · rw [if_pos hv] at h ⊢
      exact congrArg (answerIn c n) h
    · rw [if_neg hv] at h ⊢
      generalize leafFor s w va = r at h ⊢
      obtain ⟨t, res⟩ := r
      dsimp only [answerIn] at h ⊢
      rw [show wasRefused (inCore t c n) w va = wasRefused t w va from rfl]
      cases res with
      | bad => exact congrArg (answerIn c n) h
      | absent =>
        by_cases hr : wasRefused t w va = true
        · simp only [if_pos hr] at h ⊢
          exact congrArg (answerIn c n) h
        · simp only [if_neg hr] at h
          exact nomatch congrArg Prod.snd h
      | leaf pte ptePa bits =>
        by_cases ha : (!pteAllows pte acc w.level) = true
        · simp only [if_pos ha] at h ⊢
          exact congrArg (answerIn c n) h
        · by_cases hc : (decide (acc = .w) && pteCow pte) = true
          · simp only [if_neg ha, if_pos hc] at h
            exact nomatch congrArg Prod.snd h
          · simp only [if_neg ha, if_neg hc] at h ⊢
            rw [show placeOf (inCore t c n) w acc pte ptePa (ptePfn pte * 65536 + va.toNat % 2 ^ bits) net =
              placeOf t w acc pte ptePa (ptePfn pte * 65536 + va.toNat % 2 ^ bits) net from rfl]
            generalize placeOf t w acc pte ptePa (ptePfn pte * 65536 + va.toNat % 2 ^ bits) net = place at h ⊢
            cases place with
            | ok l => exact nomatch congrArg Prod.snd h
            | fault code => exact congrArg (answerIn c n) h
            | wait => exact congrArg (answerIn c n) h

end

end Sys2Proof.Machine

namespace Sys2Proof.Machine

/-! ## Lane-addressed accesses some of whose lanes fault (R286, R287) -/

section
variable {s : State} {i : Instr} {d a b : Reg} {acc : Access} {base : Word} {addr : Nat → Word} {k : Nat → Nat} {f : Nat}

/-- Lane j of an access faults: it is misaligned, of another kind than the base, or its translation faults (R286). -/
def badLane (s : State) (i : Instr) (acc : Access) (base : Word) (addr : Nat → Word) (j : Nat) : Prop :=
  (addr j).toNat % (widthNow s / 8) ≠ 0 ∨ sameKind s.core.pos base (addr j) = false ∨
    ∃ c, translateAs (appended s i) ((capture s i).who (appended s i)) (addr j) acc true false = (appended s i, .fault c)

/-- It faults in every core in which the access may run. -/
theorem laneFaults_inCore {c : Core} {n j : Nat} {v : VWord} (h : SameBanks s c) (hb : badLane s i acc base addr j) :
    LaneFaults s (inCore s c n) ((capture s i).who (inCore s c n)) acc base (lanePiece (widthNow s) addr v j) := by
  have hwho : (capture s i).who (inCore s c n) = (capture s i).who (appended s i) := by
    unfold QEntry.who Core.who
    rw [show (inCore s c n).core.pos = s.core.pos from h.pos, show (inCore s c n).core.fold = s.core.fold from h.fold,
      show (inCore s c n).core.vf = s.core.vf from h.vf]
    rfl
  rcases hb with hm | hk | ⟨code, ht⟩
  · exact Or.inl hm
  · exact Or.inr (Or.inl hk)
  · rw [← hwho] at ht
    exact Or.inr (Or.inr ⟨code, translateAs_fault_inCore (s := appended s i) (c := c) (n := n) ht⟩)

/-- A lane that does not fault and lies in the own banks. -/
theorem laneFits_own {j : Nat} {v : VWord} (hb : ¬badLane s i acc base addr j) (ho : OwnBank s (addr j) (k j)) :
    LaneFits s k base (lanePiece (widthNow s) addr v j) := by
  unfold badLane at hb
  simp only [not_or, not_not, Bool.not_eq_false] at hb
  exact ⟨hb.1, hb.2.1, ho⟩

/-- A lane-addressed access takes LANEDONE as it finds it (R287). -/
theorem lanedone_capture (hla : isLaneAddressed i = true) : (capture s i).lanedone = s.core.regs.lanedone := if_pos hla

/-- The lanes left are those that are active and not done. -/
theorem mem_lanesLeft_active (hla : isLaneAddressed i = true) {j : Nat} : j ∈ lanesLeft s i ↔
    j < laneCount (widthNow s) ∧ (activeNow s &&& ~~~s.core.regs.lanedone).getLsbD j = true := by
  rw [mem_lanesLeft, lanedone_capture hla, BitVec.getLsbD_and, BitVec.getLsbD_not, Bool.and_eq_true, Bool.and_eq_true, Bool.not_eq_true']
  refine and_congr_right fun _ => and_congr_right fun ha => (and_iff_right ?_).symm
  exact decide_eq_true (BitVec.lt_of_getLsbD ha)

section
variable {bad : Nat → Prop} [DecidablePred bad]

/-- The lowest lane that faults. -/
structure LowestBad (s : State) (bad : Nat → Prop) (f : Nat) : Prop where
  lane : f < laneCount (widthNow s)
  active : (activeNow s &&& ~~~s.core.regs.lanedone).getLsbD f = true
  faults : bad f
  least : ∀ j, j < f → (activeNow s &&& ~~~s.core.regs.lanedone).getLsbD j = true → ¬bad j

/-- It is the one that the access reports. -/
theorem find_lowestBad (hla : isLaneAddressed i = true) (h : LowestBad s bad f) : (lanesLeft s i).find? (fun j => decide (bad j)) = some f := by
  refine find?_least (decide_eq_true h.faults) (List.Pairwise.filter _ (laneList_pairwise _ _)) ((mem_lanesLeft_active hla).2 ⟨h.lane, h.active⟩) ?_
  exact fun j hj hlt => decide_eq_false (h.least j hlt ((mem_lanesLeft_active hla).1 hj).2)

/-- LANEDONE after the trap: the lanes done before and those performed here (R287). -/
def lanesDone (s : State) (i : Instr) (bad : Nat → Prop) [DecidablePred bad] : Word := (capture s i).lanedone ||| maskOf (lanesGood s i bad)

theorem lanesDone_getLsbD (hla : isLaneAddressed i = true) (j : Nat) : (lanesDone s i bad).getLsbD j = true ↔ s.core.regs.lanedone.getLsbD j = true ∨
    (j < laneCount (widthNow s) ∧ (activeNow s &&& ~~~s.core.regs.lanedone).getLsbD j = true ∧ ¬bad j) := by
  have hgood : (maskOf (lanesGood s i bad)).getLsbD j = true ↔ j ∈ lanesGood s i bad :=
    ⟨fun h => (maskOf_getLsbD _ (BitVec.lt_of_getLsbD h)).1 h, fun h => (maskOf_getLsbD _ (lanesLeft_lt (mem_lanesGood.1 h).1)).2 h⟩
  rw [lanesDone, BitVec.getLsbD_or, Bool.or_eq_true, hgood, lanedone_capture hla, mem_lanesGood, mem_lanesLeft_active hla, and_assoc]

/-! ### Loads -/

/-- The bytes of a lane fit it. -/
theorem le_lane_lt (m : Memory) (key w : Nat) : Memory.le m key (w / 8) < 2 ^ w := by
  refine Nat.lt_of_lt_of_le (le_lt m key (w / 8)) ?_
  rw [show (256 : Nat) = 2 ^ 8 from rfl, ← Nat.pow_mul]
  exact Nat.pow_le_pow_right (by decide) (Nat.mul_div_le w 8)

/-- What a load keeps in v(d), or for a push for its re-execution, when a lane has faulted (R287). -/
def keptLanes (s : State) (i : Instr) (d : Reg) (k : Nat → Nat) (bad : Nat → Prop) [DecidablePred bad] : VWord :=
  ofLanes (widthNow s) ((List.range (laneCount (widthNow s))).map fun j =>
    if (loadMask s i d bad).getLsbD j then laneOf (loadLanes s i d k bad) j else lane (oldV s d) (widthNow s) j)

/-- Lane j of a zero register. -/
theorem lane_zero (w j : Nat) : lane 0 w j = 0 := by
  rw [lane, show (0 : VWord).toNat = 0 from BitVec.toNat_zero, Nat.zero_div, Nat.zero_mod]

theorem keepLanes_appended (hd : d ≠ 30) : keepLanes s i d k bad (appended s i) =
    if d = 31 then setQ (appended s i) { (appended s i).core.q with pushed := keptLanes s i d k bad }
    else setV (appended s i) d (keptLanes s i d k bad) := by
  unfold keepLanes
  by_cases h31 : d = 31
  · rw [if_pos h31, if_pos h31]
    unfold keptLanes oldV
    simp only [if_pos h31, lane_zero]
  · rw [if_neg h31, if_neg h31]
    refine ((if_neg hd).trans (writeLanes_appended s i d (widthNow s) _ _)).trans ?_
    unfold tookV
    rw [if_neg h31]
    rfl

/-- Its lanes that were performed. -/
theorem lane_keptLanes_good {j : Nat} (hj : j ∈ lanesGood s i bad) :
    lane (keptLanes s i d k bad) (widthNow s) j = Memory.le s.mem (k j) (widthNow s / 8) := by
  have hlt : j < laneCount (widthNow s) := (mem_lanesLeft.1 (mem_lanesGood.1 hj).1).1
  rw [keptLanes, lane_computed _ _ hlt, if_pos ((loadMask_getLsbD s i d j).2 (Or.inl hj)), laneOf_loadLanes hlt, if_pos hj,
    Nat.mod_eq_of_lt (le_lane_lt s.mem (k j) (widthNow s))]

/-- Its other lanes: of a push the lanes that it has kept. -/
theorem lane_keptLanes_other (hla : isLaneAddressed i = true) {j : Nat} (hlt : j < laneCount (widthNow s)) (hj : j ∉ lanesGood s i bad) :
    lane (keptLanes s i d k bad) (widthNow s) j =
      if d = 31 then (if (activeNow s &&& s.core.regs.lanedone).getLsbD j = true then lane s.core.q.pushed (widthNow s) j else 0)
      else lane (oldV s d) (widthNow s) j := by
  rw [keptLanes, lane_computed _ _ hlt]
  by_cases h31 : d = 31
  · have hmask : (loadMask s i d bad).getLsbD j = true ↔ (activeNow s &&& s.core.regs.lanedone).getLsbD j = true := by
      rw [loadMask_getLsbD, lanedone_capture hla, or_iff_right hj, and_iff_right h31, BitVec.getLsbD_and, Bool.and_eq_true]
    rw [if_pos h31]
    by_cases hm : (activeNow s &&& s.core.regs.lanedone).getLsbD j = true
    · have hdone : s.core.regs.lanedone.getLsbD j = true := by
        rw [BitVec.getLsbD_and, Bool.and_eq_true] at hm
        exact hm.2
      rw [if_pos hm, if_pos (hmask.2 hm), laneOf_loadLanes hlt, if_neg hj, lanedone_capture hla, if_pos ⟨h31, hdone⟩, lane_mod]
    · rw [if_neg hm, if_neg fun hc => hm (hmask.1 hc), lane_mod, oldV, if_pos h31, lane_zero]
  · have hmask : ¬(loadMask s i d bad).getLsbD j = true := by
      rw [loadMask_getLsbD, or_iff_right hj]
      exact fun hc => h31 hc.1
    rw [if_neg hmask, if_neg h31, lane_mod]

end

/-- A lane-addressed load some of whose lanes fault, wherever its access runs (R286, R287). -/
theorem runLaneLoad_faults {c : Core} {n : Nat} [DecidablePred (badLane s i .r base addr)] (used : Bool) (hla : isLaneAddressed i = true)
    (h : TurnCore s i c) (hc : NoCopies s) (hf : LowestBad s (badLane s i .r base addr) f)
    (hk : ∀ j, j < laneCount (widthNow s) → (activeNow s &&& ~~~s.core.regs.lanedone).getLsbD j = true → ¬badLane s i .r base addr j →
      CleanBank s (addr j) (widthNow s / 8) (k j)) :
    runLaneLoad used (capture s i) d base addr (inCore s c n) =
      .trap (setLanedone (keepLanes s i d k (badLane s i .r base addr) (inCore s c n)) (lanesDone s i (badLane s i .r base addr)))
        ⟨13, addr f⟩ true := by
  rw [runLaneLoad_own (n := n) (d := d) (base := base) (addr := addr) (k := k) (bad := badLane s i .r base addr) used h hc
    (fun j _ hb => laneFaults_inCore h.toSameBanks hb) fun j hj hb => ?_, find_lowestBad hla hf]
  · rfl
  · obtain ⟨hlt, ha⟩ := (mem_lanesLeft_active hla).1 hj
    obtain ⟨h1, -, hown, hmark⟩ := hk j hlt ha hb
    exact ⟨laneFits_own hb hown, h1, hmark⟩

/-- A load to v(d) or a push some of whose lanes fault raises cause 13 and keeps the others (R287). -/
theorem turnTraps_load [DecidablePred (badLane s i .r base addr)] (hla : isLaneAddressed i = true) (h : ReadyQ i s) (hc : NoCopies s)
    (he : isEarlyLoad i = false) (hd : d ≠ 30) (hx : exec i s = .next (enqueue s i))
    (hr : runEntry (capture s i) (appended s i) = runLaneLoad true (capture s i) d base addr (appended s i))
    (hf : LowestBad s (badLane s i .r base addr) f)
    (hk : ∀ j, j < laneCount (widthNow s) → (activeNow s &&& ~~~s.core.regs.lanedone).getLsbD j = true → ¬badLane s i .r base addr j →
      CleanBank s (addr j) (widthNow s / 8) (k j)) :
    TurnTraps i s (setLanedone (if d = 31 then
        setQ (appended s i) { (appended s i).core.q with pushed := keptLanes s i d k (badLane s i .r base addr) }
      else setV (appended s i) d (keptLanes s i d k (badLane s i .r base addr))) (lanesDone s i (badLane s i .r base addr))) ⟨13, addr f⟩ true := by
  refine turnTraps_of h he hx (hr.trans ((runLaneLoad_faults (c := (appended s i).core) (n := s.freeCtr) true hla (turnCore_appended h) hc hf
    hk).trans ?_))
  exact congrArg (fun u => RunRes.trap (setLanedone u _) ⟨13, addr f⟩ true) (keepLanes_appended hd)

/-- An early load some of whose lanes fault raises cause 13 and keeps the others in its entry (R287, R288). -/
theorem turnTraps_loadEarly {run : Bool → QEntry → State → RunRes} [DecidablePred (badLane s i .r base addr)] (hla : isLaneAddressed i = true)
    (h : ReadyQ i s) (hc : NoCopies s) (hi : RunsEarly i run) (hl : LdqRoom i s)
    (hr : ∀ used c n, TurnCore s i c → run used (capture s i) (inCore s c n) = runLaneLoad used (capture s i) 30 base addr (inCore s c n))
    (hf : LowestBad s (badLane s i .r base addr) f)
    (hk : ∀ j, j < laneCount (widthNow s) → (activeNow s &&& ~~~s.core.regs.lanedone).getLsbD j = true → ¬badLane s i .r base addr j →
      CleanBank s (addr j) (widthNow s / 8) (k j)) :
    ∃ e : LdqEntry, e.seq = s.core.q.qnext ∧ e.kept = false ∧
      TurnTraps i s (setLanedone (loading s i (s.core.regs.pc + 4) e) (lanesDone s i (badLane s i .r base addr))) ⟨13, addr f⟩ true ∧
      ∀ j ∈ lanesGood s i (badLane s i .r base addr), lane e.data (widthNow s) j = Memory.le s.mem (k j) (widthNow s / 8) := by
  obtain ⟨e, hs, hkept, hdata, ht⟩ := turnTraps_early (w := widthNow s) (mask := loadMask s i 30 (badLane s i .r base addr))
    (vals := loadLanes s i 30 k (badLane s i .r base addr)) h hi hl fun used c n hcore =>
      (hr used c n hcore).trans (runLaneLoad_faults used hla hcore hc hf hk)
  refine ⟨e, hs, hkept, ht, fun j hj => ?_⟩
  have hlt : j < laneCount (widthNow s) := (mem_lanesLeft.1 (mem_lanesGood.1 hj).1).1
  rw [hdata, filledEntry, lane_computed _ _ hlt, if_pos ((loadMask_getLsbD s i 30 j).2 (Or.inl hj)), laneOf_loadLanes hlt, if_pos hj,
    Nat.mod_eq_of_lt (le_lane_lt s.mem (k j) (widthNow s))]

/-! ### Stores -/

/-- A lane is half a byte or whole bytes wide. -/
theorem laneBits_cases (m : BitVec 18) : laneBits m = 4 ∨ laneBits m % 8 = 0 := by
  unfold laneBits laneWidth typeBits
  split_ifs <;> decide

/-- A lane that is a byte wide or more is as wide as its bytes. -/
theorem laneBits_bytes {m : BitVec 18} (h : 1 ≤ laneBits m / 8) : 8 * (laneBits m / 8) = laneBits m := by
  rcases laneBits_cases m with h4 | h8 <;> omega

/-- A store some of whose lanes fault raises cause 13, and leaves what its other lanes write (R287). -/
theorem turnTraps_store [DecidablePred (badLane s i .w base addr)] (hla : isLaneAddressed i = true) (h : ReadyQ i s) (hc : NoCopies s)
    (hwf : Memory.wf s.mem = true) (he : isEarlyLoad i = false) (hs : takesSdq i = (d == 31)) (hd : d ∈ vSourcesOf i)
    (hx : exec i s = .next (enqueue s i))
    (hr : runEntry (capture s i) (appended s i) = runLaneStore (capture s i) d base addr (appended s i))
    (hf : LowestBad s (badLane s i .w base addr) f)
    (hk : ∀ j ∈ lanesGood s i (badLane s i .w base addr), OwnBank s (addr j) (k j)) :
    ∃ t, TurnTraps i s (setLanedone t (lanesDone s i (badLane s i .w base addr))) ⟨13, addr f⟩ true ∧
      StoredLanes (appended s i) t (widthNow s / 8) (lanesGood s i (badLane s i .w base addr)) k (lane (storedNow s d) (widthNow s)) := by
  have hrun := runLaneStore_own (k := k) (base := base) (addr := addr) (bad := badLane s i .w base addr) h hc hd hs
    (fun j _ hb => laneFaults_inCore (c := (appended s i).core) (n := s.freeCtr) (turnCore_appended h).toSameBanks hb)
    fun j hj hb => laneFits_own hb (hk j (mem_lanesGood.2 ⟨hj, hb⟩))
  rw [find_lowestBad hla hf] at hrun
  refine ⟨_, turnTraps_of h he hx (hr.trans hrun), writePieces_stored addr (storedNow s d) hwf lanesGood_pairwise fun j hj => ?_⟩
  exact aligned_own (laneFits_own (v := storedNow s d) (mem_lanesGood.1 hj).2 (hk j hj)).1 (hk j hj)

end

end Sys2Proof.Machine

section

open Sys2Proof Sys2Proof.Machine

/-- Settles O36, by the lanes left and which of them fault. -/
theorem faultingLanes : Obligations.FaultingLanes := by
  classical
  intro s d a b n k f w size done act bad lowest lanes loads stores
  have hearly (i : Instr) (hv : vDestOf i = some d) (hd : d ≠ 30) : isEarlyLoad i = false := by
    unfold isEarlyLoad
    rw [hv, Bool.and_eq_false_iff]
    exact Or.inr (beq_eq_false_iff_ne.2 fun hc => hd (Option.some.inj hc))
  have hload (i : Instr) (va : Nat → Word) (run : Bool → QEntry → State → RunRes) (hla : isLaneAddressed i = true) (hv : vDestOf i = some d)
      (hx : exec i s = .next (enqueue s i)) (hd : d ≠ 30 → runEntry (capture s i) (appended s i) = run true (capture s i) (appended s i))
      (h30 : d = 30 → RunsEarly i run) (hr : ∀ used c m, TurnCore s i c →
        run used (capture s i) (inCore s c m) = runLaneLoad used (capture s i) d (xr s a) va (inCore s c m)) : loads i va := by
    intro h hc hlow hk
    have hf : LowestBad s (badLane s i .r (xr s a) va) f := ⟨hlow.1, hlow.2.1, hlow.2.2.1, hlow.2.2.2⟩
    have hgood (j : Nat) : j ∈ lanesGood s i (badLane s i .r (xr s a) va) ↔ j < laneCount w ∧ act.getLsbD j = true ∧ ¬badLane s i .r (xr s a) va j := by
      rw [mem_lanesGood, mem_lanesLeft_active hla, and_assoc]
    refine ⟨fun hd30 => ?_, fun hd30 hl => ?_⟩
    · refine ⟨lanesDone s i (badLane s i .r (xr s a) va), keptLanes s i d k (badLane s i .r (xr s a) va), lanesDone_getLsbD hla,
        turnTraps_load hla h hc (hearly i hv hd30) hd30 hx ((hd hd30).trans (hr true _ _ (turnCore_appended h))) hf hk,
        fun j hj => ⟨fun ha hb => lane_keptLanes_good ((hgood j).2 ⟨hj, ha, hb⟩), fun ho => ?_⟩⟩
      refine lane_keptLanes_other hla hj fun hc => ?_
      obtain ⟨-, ha, hb⟩ := (hgood j).1 hc
      rcases ho with ho | ho
      · exact Bool.false_ne_true (ho.symm.trans ha)
      · exact hb ho
    · subst hd30
      obtain ⟨e, hs, hkept, ht, hdata⟩ := turnTraps_loadEarly hla h hc (h30 rfl) hl hr hf hk
      exact ⟨lanesDone s i (badLane s i .r (xr s a) va), e, lanesDone_getLsbD hla, hs, hkept, ht, fun j hj ha hb => hdata j ((hgood j).2 ⟨hj, ha, hb⟩)⟩
  have hstore (i : Instr) (va : Nat → Word) (hla : isLaneAddressed i = true) (he : isEarlyLoad i = false) (hs : takesSdq i = (d == 31))
      (hd : d ∈ vSourcesOf i) (hx : exec i s = .next (enqueue s i)) (hr : ReadyQ i s →
        runEntry (capture s i) (appended s i) = runLaneStore (capture s i) d (xr s a) va (appended s i)) : stores i va := by
    intro h hc hwf hlow hk
    have hf : LowestBad s (badLane s i .w (xr s a) va) f := ⟨hlow.1, hlow.2.1, hlow.2.2.1, hlow.2.2.2⟩
    have hgood (j : Nat) : j ∈ lanesGood s i (badLane s i .w (xr s a) va) ↔ j < laneCount w ∧ act.getLsbD j = true ∧ ¬badLane s i .w (xr s a) va j := by
      rw [mem_lanesGood, mem_lanesLeft_active hla, and_assoc]
    have hown : ∀ j ∈ lanesGood s i (badLane s i .w (xr s a) va), OwnBank s (va j) (k j) := fun j hj => by
      obtain ⟨hj, ha, hb⟩ := (hgood j).1 hj
      exact hk j hj ha hb
    have hout (y : Nat) : (∀ j, ¬(j < laneCount w ∧ act.getLsbD j = true ∧ ¬badLane s i .w (xr s a) va j ∧ k j ≤ y ∧ y < k j + size)) ↔
        ∀ j ∈ lanesGood s i (badLane s i .w (xr s a) va), y < k j ∨ k j + size ≤ y := by
      refine forall_congr' fun j => ?_
      rw [hgood j]
      constructor
      · rintro hw ⟨hj, ha, hb⟩
        by_contra hc
        exact hw ⟨hj, ha, hb, by omega, by omega⟩
      · rintro hw ⟨hj, ha, hb, h1, h2⟩
        have := hw ⟨hj, ha, hb⟩
        omega
    obtain ⟨t, ht, honly, -, hval, hother, hmarks⟩ := turnTraps_store hla h hc hwf he hs hd hx (hr h) hf hown
    refine ⟨lanesDone s i (badLane s i .w (xr s a) va), t.mem, t.poison, lanesDone_getLsbD hla, ?_, fun j hj ha hb hlast => ?_, fun x hx => ?_, fun x => ?_⟩
    · rw [← honly]
      exact ht
    · have hjg := (hgood j).2 ⟨hj, ha, hb⟩
      have hsize : 1 ≤ size := by
        obtain ⟨hn, -⟩ := aligned_own (laneFits_own (v := storedNow s d) hb (hown j hjg)).1 (hown j hjg)
        omega
      have hbits : 8 * (widthNow s / 8) = widthNow s := laneBits_bytes hsize
      rw [hval j hjg fun h hh hlt => ?_, hbits]
      · exact lane_mod _ _ _
      · by_contra hc
        obtain ⟨hh, hha, hhb⟩ := (hgood h).1 hh
        exact hlast h (max (k h) (k j)) hlt ⟨hh, hha, hhb, by omega, by omega⟩ ⟨hj, ha, hb, by omega, by omega⟩
    · exact hother x ((hout x).1 hx)
    · refine (hmarks x).trans (and_congr Iff.rfl (exists_congr fun y => and_congr Iff.rfl (and_congr Iff.rfl ?_)))
      exact (hout y).symm
  refine ⟨?_, ?_, ?_, ?_⟩
  · refine hload (.vlds d a b) (fun j => xr s a + BitVec.ofNat 64 j * xr s b) (fun used e => runVlds used e d a b) rfl rfl rfl (fun hd => if_neg hd) ?_ fun used c m hcore => ?_
    · rintro rfl
      exact runsEarly_vlds
    · unfold runVlds
      rw [capture_x s (i := .vlds d a b) List.mem_cons_self, strideAddr_capture rfl]
  · refine hload (.vldg d a b n) (fun j => xr s a + (BitVec.ofInt 64 (signedOf w (laneA s b w j)) <<< n.toNat))
      (fun used e => runVldg used e d a b n) rfl rfl rfl (fun hd => if_neg hd) ?_ fun used c m hcore => ?_
    · rintro rfl
      exact runsEarly_vldg
    · unfold runVldg
      rw [capture_x s (i := .vldg d a b n) (List.mem_singleton_self a),
        gatherAddr_capture hcore (List.mem_singleton_self a) (List.mem_singleton_self b)]
  · refine hstore (.vsts d a b) (fun j => xr s a + BitVec.ofNat 64 j * xr s b) rfl rfl rfl (List.mem_singleton_self d) rfl fun h => ?_
    show runLaneStore (capture s (.vsts d a b)) d ((capture s (.vsts d a b)).x a) (strideAddr (capture s (.vsts d a b)) a b) _ = _
    rw [capture_x s (i := .vsts d a b) List.mem_cons_self, strideAddr_capture rfl]
  · refine hstore (.vstg d a b n) (fun j => xr s a + (BitVec.ofInt 64 (signedOf w (laneA s b w j)) <<< n.toNat))
      rfl rfl rfl List.mem_cons_self rfl fun h => ?_
    show runLaneStore (capture s (.vstg d a b n)) d ((capture s (.vstg d a b n)).x a)
      (gatherAddr (appended s (.vstg d a b n)) (capture s (.vstg d a b n)) a b n) _ = _
    rw [capture_x s (i := .vstg d a b n) (List.mem_singleton_self a), show gatherAddr (appended s (.vstg d a b n)) _ a b n = _ from
      gatherAddr_capture (m := s.freeCtr) (turnCore_appended h) (List.mem_singleton_self a) (List.mem_cons_of_mem d (List.mem_singleton_self b))]

end
